-- ==== Sys2Proof/Word.lean ====
section
/-! DEFINITION. Word types and the plainest arithmetic over them (R5, R6). -/

namespace Sys2Proof

/-- One byte. -/
abbrev Byte := BitVec 8
/-- A 16-bit word, the manual's u16. -/
abbrev Half := BitVec 16
/-- A 32-bit word, the manual's u32 and the TISA word. -/
abbrev Word := BitVec 32
/-- A 64-bit word, the manual's u64. -/
abbrev Dword := BitVec 64
/-- A Meridian value: a u64 counter, all arithmetic modulo 2^64 (R439). -/
abbrev Meridian := BitVec 64
/-- Signed 24-bit samples and wider intermediate values are kept as exact integers. -/
abbrev Sample := Int

end Sys2Proof
end

