-- ==== Sys2Proof/Syntax.lean ====
section
/-! DEFINITION. The commands of the block: one constructor of `Instr` per row of spec/opcode_table.json,
and the operand types the rows carry. A row that is not a TISA instruction carries `dt`, the Meridian ticks since the
step before it (assumption 2). A command row carries the entry the CP processes (Table 3.8). -/

namespace Sys2Proof

/-- One command as it stands in a command ring (Table 3.8), without its opcode, which the row itself gives:
the issuing tenant, the entry count of its first entry (R62, R68), the flags field, the tag, and the bytes from
offset 0x08 of the first entry to the end of the last extension entry. -/
structure Cmd where
  tenant  : Nat
  index   : Word
  flags   : Half
  tag     : Word
  payload : List Byte
  dt      : Nat
deriving DecidableEq, Repr

/-- The core that issues a TISA instruction (R225): a tab thread, by its head and its slot there (R259), the Peg core, or the
CP. -/
inductive CoreRef where
  | tab (head slot : Nat)
  | peg
  | cp
deriving DecidableEq, Repr

/-- Which of a bank's masked registers a write goes to (Table 19.4, R492). -/
inductive GpioReg where
  | out
  | oe
deriving DecidableEq, Repr

/-- The replies of a sink to an AUX request, of the native and of the I²C layer. -/
inductive AuxCode where
  | ack
  | nack
  | defer
  | i2cNack
  | i2cDefer
deriving DecidableEq, Repr

/-- How an AUX transaction ends (R544): with a reply, which says how many written bytes the sink accepted or gives the bytes
read, or with none. -/
inductive AuxReply where
  | reply (code : AuxCode) (accepted : Nat) (data : List Byte)
  | timeout
deriving DecidableEq, Repr

/-- Where a register write goes: a host access to BAR0 (Table 3.2) or a CP access to a Legend register window. -/
inductive RegSpace where
  | bar0
  | window
deriving DecidableEq, Repr

/-- How wide an access is (R59). -/
inductive AccessWidth where
  | byte
  | half
  | word
  | dword
deriving DecidableEq, Repr

/-- What an access carries: its width and, where it writes, the value (R59). -/
structure Access where
  width : AccessWidth
  value : Dword
deriving DecidableEq, Repr

/-- How a run of a maintenance activity ended (R351): whether it passed, and the heads whose duplicate stages the latent-fault
test found failing (R332). -/
structure ActivityEnd where
  pass  : Bool
  heads : List Nat
deriving DecidableEq, Repr

/-- A run of pixels of one line that the scan engine does not have at the beam (R283) or that came back poisoned
(R111). -/
structure PixelRun where
  first    : Nat
  count    : Nat
  poisoned : Bool
deriving DecidableEq, Repr

/-- Who made the read request that a FETCH_RETURN answers (Table 4.9, Table 4.10). -/
inductive Requester where
  | plane (head slot : Nat) (unitType : Nat) (pixel : Nat)
  | lineList (head slot : Nat)
  | voice (voice : Nat)
  | dma (channel : Nat)
  | blit
  | command (tenant : Nat) (index : Word)
  | cpFirmware
  | scan (head : Nat) (line firstPixel : Nat)
  | ring (tenant : Nat)
  | cartoucheScan (head image : Nat)
  | cartoucheVoice (voice : Nat)
deriving DecidableEq, Repr

/-- What a returned read delivers (R99, R107, R110, R111). `addr` is the asset address that was asked for (faults), `phys` the
internal physical address of the word (stored-data errors); `retried` is LPDDR5X data that link ECC could correct on the one
retry alone. -/
inductive FetchOutcome where
  | data
  | unmapped (addr : Nat)
  | access (addr : Nat)
  | hostError (addr : Nat)
  | decodeError (addr : Nat)
  | corrected (phys : Nat)
  | retried (phys : Nat)
  | poisoned (addr phys : Nat)
deriving DecidableEq, Repr

/-- A unit that takes part in an arm-then-apply change (R345): the cluster of a member head, a cluster by its number, or
another unit by its Legend type and instance. -/
inductive ArmUnit where
  | head (n : Nat)
  | cluster (n : Nat)
  | unit (type inst : Nat)
deriving DecidableEq, Repr

/-- What reaches a course at one of its sample boundaries from outside the audio engine (R388, R390, R378):
the TDM input frames by port, the PDM microphone samples, and the voices whose sample fetch is late. -/
structure CourseInput where
  tdm     : List (Nat × List Int)
  pdm     : List (Nat × Int)
  starved : List Nat
deriving DecidableEq, Repr

/-- How an I2C, SPI or UART transfer that PIN_WRITE started ends (R493). -/
inductive SerialOutcome where
  | done (readBytes : List Byte)
  | nackAddress
  | nackData (written : Nat)
  | arbitrationLost (written : Nat)
  | stretched (written : Nat)
deriving DecidableEq, Repr

/-- The clock references that a monitor watches (R431). -/
inductive ClockRef where
  | xi
  | sxi
  | mclk
  | refclk
deriving DecidableEq, Repr

/-- What the CP ROM finds in one boot-flash copy (R506, R507): whether the flash answers, the bytes of its header and
of its sections, and whether the LPDDR5X interface trained (R508). -/
structure BootCopy where
  responds : Bool
  header   : List Byte
  firmware : List Byte
  cartouche : List Byte
  memory   : List Byte
  trained  : Bool
deriving DecidableEq, Repr

/-- One access over the IEEE 1149.1 pins (R519): the public instructions, then what a Device session gives. Addresses of
memory and registers are internal physical addresses; `readCp` reads a word of the CP's state. -/
inductive JtagOp where
  | idcode
  | bypass
  | sample
  | bootstat
  | readMem (addr : Nat)
  | writeMem (addr : Nat) (v : Word)
  | readReg (addr : Nat)
  | writeReg (addr : Nat) (v : Word)
  | readCp (k : Nat)
  | haltCp
  | stepCp
  | resumeCp
  | boundaryTest (on : Bool)
deriving DecidableEq, Repr

/-- Which supplies the integrator removes (R416, R425). -/
inductive Supply where
  | everything
  | allButAon
  | vddio (bank : Nat)
deriving DecidableEq, Repr

/-- The kinds of Ethernet frame that ETHERNET_FRAME_RECEIVE counts (R545). -/
inductive EthFrame where
  | gptp
  | other
  | fcsError
  | queueFull
deriving DecidableEq, Repr

/-- The commands of the block: one constructor per row of spec/opcode_table.json, in its order. -/
inductive Instr where
  /-- NOP_INSTRUCTION (R236): Instruction that does nothing. -/
  | nopInstruction (who : CoreRef)
  /-- DROP (R236): Instruction that pops TOS. -/
  | drop (who : CoreRef)
  /-- DUP (R236): Instruction that duplicates TOS. -/
  | dup (who : CoreRef)
  /-- SWAP (R236): Instruction that exchanges TOS and NOS. -/
  | swap (who : CoreRef)
  /-- OVER (R236): Instruction that copies NOS on top. -/
  | overOp (who : CoreRef)
  /-- ROT (R236): Instruction that rotates the top three entries. -/
  | rot (who : CoreRef)
  /-- NIP (R236): Instruction that drops NOS. -/
  | nip (who : CoreRef)
  /-- TUCK (R236): Instruction that copies TOS below NOS. -/
  | tuck (who : CoreRef)
  /-- PICK (R236): Instruction that copies entry n below TOS. -/
  | pick (who : CoreRef) (n : BitVec 5)
  /-- DEPTH (R236): Instruction that pushes the data-stack depth. -/
  | depth (who : CoreRef)
  /-- TOR (R236): Instruction that moves TOS to the return stack. -/
  | tor (who : CoreRef)
  /-- FROMR (R236): Instruction that moves the return-stack top to the data stack. -/
  | fromr (who : CoreRef)
  /-- RFETCH (R236): Instruction that copies the return-stack top to the data stack. -/
  | rfetch (who : CoreRef)
  /-- RDROP (R236): Instruction that drops the return-stack top. -/
  | rdrop (who : CoreRef)
  /-- ADD (R236): Instruction that adds NOS and TOS. -/
  | add (who : CoreRef)
  /-- SUB (R236): Instruction that subtracts TOS from NOS. -/
  | sub (who : CoreRef)
  /-- AND (R236): Instruction that forms the bitwise AND. -/
  | andOp (who : CoreRef)
  /-- OR (R236): Instruction that forms the bitwise OR. -/
  | orOp (who : CoreRef)
  /-- XOR (R236): Instruction that forms the bitwise XOR. -/
  | xorOp (who : CoreRef)
  /-- SHL (R236): Instruction that shifts left by TOS bits 4:0. -/
  | shl (who : CoreRef)
  /-- SHR (R236): Instruction that shifts right logically. -/
  | shr (who : CoreRef)
  /-- SAR (R236): Instruction that shifts right arithmetically. -/
  | sar (who : CoreRef)
  /-- MUL (R234): Instruction that keeps the low 32 bits of the product. -/
  | mul (who : CoreRef)
  /-- MULHU (R234): Instruction that keeps the high 32 bits of the unsigned product. -/
  | mulhu (who : CoreRef)
  /-- MULHS (R234): Instruction that keeps the high 32 bits of the signed product. -/
  | mulhs (who : CoreRef)
  /-- DIVU (R234): Instruction for unsigned division, rounded towards zero. -/
  | divu (who : CoreRef)
  /-- DIVS (R234): Instruction for signed division, rounded towards zero. -/
  | divs (who : CoreRef)
  /-- REMU (R234): Instruction for the unsigned remainder. -/
  | remu (who : CoreRef)
  /-- REMS (R234): Instruction for the signed remainder, taking the dividend's sign. -/
  | rems (who : CoreRef)
  /-- MIN (R236): Instruction for the signed minimum. -/
  | min (who : CoreRef)
  /-- MAX (R236): Instruction for the signed maximum. -/
  | max (who : CoreRef)
  /-- MINU (R236): Instruction for the unsigned minimum. -/
  | minu (who : CoreRef)
  /-- MAXU (R236): Instruction for the unsigned maximum. -/
  | maxu (who : CoreRef)
  /-- SLT (R234): Instruction that pushes 1 if NOS is less than TOS, signed. -/
  | slt (who : CoreRef)
  /-- SLTU (R234): Instruction that pushes 1 if NOS is less than TOS, unsigned. -/
  | sltu (who : CoreRef)
  /-- NOT (R236): Instruction for the bitwise complement. -/
  | notOp (who : CoreRef)
  /-- NEG (R236): Instruction for the two's-complement negation. -/
  | neg (who : CoreRef)
  /-- ABS (R234): Instruction for the absolute value. -/
  | abs (who : CoreRef)
  /-- CLZ (R234): Instruction for the leading-zero count. -/
  | clz (who : CoreRef)
  /-- SEXT8 (R236): Instruction that sign-extends from bit 7. -/
  | sext8 (who : CoreRef)
  /-- SEXT16 (R236): Instruction that sign-extends from bit 15. -/
  | sext16 (who : CoreRef)
  /-- CMP (R235): Small-profile instruction that sets the flags of a minus b. -/
  | cmp (who : CoreRef)
  /-- TST (R235): Small-profile instruction that sets the flags of a AND b. -/
  | tst (who : CoreRef)
  /-- ADC (R235): Small-profile instruction that adds with carry. -/
  | adc (who : CoreRef)
  /-- SBC (R235): Small-profile instruction that subtracts with borrow. -/
  | sbc (who : CoreRef)
  /-- LITS (R236): Instruction that pushes an 11-bit signed literal. -/
  | lits (who : CoreRef) (v : BitVec 11)
  /-- LIT16 (R236): Instruction that pushes a zero-extended 16-bit literal. -/
  | lit16 (who : CoreRef) (x : Half)
  /-- LIT16S (R236): Instruction that pushes a sign-extended 16-bit literal. -/
  | lit16s (who : CoreRef) (x : Half)
  /-- LIT32 (R236): Instruction that pushes a 32-bit literal. -/
  | lit32 (who : CoreRef) (x : Word)
  /-- LD32 (R236): Instruction that loads 32 bits from Pn + k × 4. -/
  | ld32 (who : CoreRef) (p : BitVec 3) (k : BitVec 5)
  /-- LD16U (R236): Instruction that loads 16 bits zero-extended. -/
  | ld16u (who : CoreRef) (p : BitVec 3) (k : BitVec 5)
  /-- LD16S (R236): Instruction that loads 16 bits sign-extended. -/
  | ld16s (who : CoreRef) (p : BitVec 3) (k : BitVec 5)
  /-- LD8U (R236): Instruction that loads 8 bits zero-extended. -/
  | ld8u (who : CoreRef) (p : BitVec 3) (k : BitVec 5)
  /-- LD8S (R236): Instruction that loads 8 bits sign-extended. -/
  | ld8s (who : CoreRef) (p : BitVec 3) (k : BitVec 5)
  /-- ST32 (R236): Instruction that stores 32 bits to Pn + k × 4. -/
  | st32 (who : CoreRef) (p : BitVec 3) (k : BitVec 5)
  /-- ST16 (R236): Instruction that stores 16 bits. -/
  | st16 (who : CoreRef) (p : BitVec 3) (k : BitVec 5)
  /-- ST8 (R236): Instruction that stores 8 bits. -/
  | st8 (who : CoreRef) (p : BitVec 3) (k : BitVec 5)
  /-- LD32P (R236): Instruction that loads from Pn and then adds 4 to it. -/
  | ld32p (who : CoreRef) (p : BitVec 3)
  /-- ST32P (R236): Instruction that stores to Pn and then adds 4 to it. -/
  | st32p (who : CoreRef) (p : BitVec 3)
  /-- PGET (R236): Instruction that pushes a pointer register. -/
  | pget (who : CoreRef) (p : BitVec 3)
  /-- PSET (R236): Instruction that sets a pointer register. -/
  | pset (who : CoreRef) (p : BitVec 3)
  /-- PADD (R236): Instruction that adds TOS to a pointer register. -/
  | padd (who : CoreRef) (p : BitVec 3)
  /-- PADDI (R236): Instruction that adds an immediate to a pointer register. -/
  | paddi (who : CoreRef) (p : BitVec 3) (k : BitVec 5)
  /-- BEQ (R237): Full-profile branch taken when a equals b. -/
  | beq (who : CoreRef) (off : BitVec 9)
  /-- BNE (R237): Full-profile branch taken when a differs from b. -/
  | bne (who : CoreRef) (off : BitVec 9)
  /-- BLT (R237): Full-profile branch taken when a is less than b, signed. -/
  | blt (who : CoreRef) (off : BitVec 9)
  /-- BGE (R237): Full-profile branch taken when a is at least b, signed. -/
  | bge (who : CoreRef) (off : BitVec 9)
  /-- BLTU (R237): Full-profile branch taken when a is less than b, unsigned. -/
  | bltu (who : CoreRef) (off : BitVec 9)
  /-- BGEU (R237): Full-profile branch taken when a is at least b, unsigned. -/
  | bgeu (who : CoreRef) (off : BitVec 9)
  /-- BZ (R237): Full-profile branch taken when a is 0. -/
  | bz (who : CoreRef) (off : BitVec 9)
  /-- BNZ (R237): Full-profile branch taken when a is not 0. -/
  | bnz (who : CoreRef) (off : BitVec 9)
  /-- BCC (R237): Small-profile branch on a flag condition. -/
  | bcc (who : CoreRef) (cc : BitVec 4) (off : BitVec 8)
  /-- JMP (R237): Relative jump. -/
  | jmp (who : CoreRef) (off : BitVec 10)
  /-- CALL (R237): Relative call that pushes the return address. -/
  | call (who : CoreRef) (off : BitVec 10)
  /-- JMPI (R237): Indirect jump to TOS. -/
  | jmpi (who : CoreRef)
  /-- CALLI (R237): Indirect call to TOS. -/
  | calli (who : CoreRef)
  /-- RET (R237): Return to the address on the return stack. -/
  | ret (who : CoreRef)
  /-- JMPL (R237): Jump to a 32-bit absolute address. -/
  | jmpl (who : CoreRef) (target : Word)
  /-- CALLL (R237): Call to a 32-bit absolute address. -/
  | calll (who : CoreRef) (target : Word)
  /-- PWRITE (R239): Raster instruction that writes a plane parameter for the line served. -/
  | pwrite (who : CoreRef) (id : Byte)
  /-- PALW (R239): Raster instruction that writes a palette word for the line served. -/
  | palw (who : CoreRef)
  /-- WAITL (R239): Raster instruction that ends the wake. -/
  | waitl (who : CoreRef)
  /-- LINE (R239): Raster instruction that pushes the number of the line served. -/
  | line (who : CoreRef)
  /-- FLUSH (R233): Instruction that waits for stores and discards the core's fetched-ahead units. -/
  | flush (who : CoreRef)
  /-- FENCE (R232): Instruction that waits for earlier loads and stores of the thread. -/
  | fence (who : CoreRef)
  /-- YIELD (R241): Instruction that lets every other ready thread issue once. -/
  | yield (who : CoreRef)
  /-- TRAP (R241): Instruction that raises fault cause 8 with its trap number. -/
  | trap (who : CoreRef) (t : Byte)
  /-- RETI (R241): Instruction that restores SW and the PC from the return stack. -/
  | reti (who : CoreRef)
  /-- SWGET (R241): Instruction that pushes SW. -/
  | swget (who : CoreRef)
  /-- SWSET (R241): Instruction that writes SW bits 5:0. -/
  | swset (who : CoreRef)
  /-- IDLE (R241): Instruction that stops issue until an entry is taken. -/
  | idle (who : CoreRef)
  /-- CUSTOM_INSTRUCTION (R249): Instruction that runs an installed microcode sequence as one instruction. -/
  | customInstruction (who : CoreRef) (c : BitVec 5) (imm : BitVec 7) (ext : Word)
  /-- ILLEGAL_INSTRUCTION (R228): A core issues a unit whose encoding is reserved or illegal, and the thread faults with cause 5. -/
  | illegalInstruction (who : CoreRef) (unit : Half)
  /-- NOP (R87): Command that completes with E_OK and does nothing else. -/
  | nop (c : Cmd)
  /-- TENANT_CREATE (R52): Platform command that creates a general tenant with a PASID and initial quotas. -/
  | tenantCreate (c : Cmd)
  /-- TENANT_DESTROY (R53): Platform command that starts the ordered teardown of a general tenant. -/
  | tenantDestroy (c : Cmd)
  /-- TENANT_DESTROY_COMPLETE (R53): Once the tenant's last host-memory request has completed, the destroy record goes to the platform tenant. -/
  | tenantDestroyComplete (dt : Nat) (tenant : Nat)
  /-- QUOTA_SET (R54): Platform command that sets the quotas of tenant 0 or of a general tenant. -/
  | quotaSet (c : Cmd)
  /-- VIEWPORT_SET (R56): Platform command that sets or removes one tenant's viewport on one head. -/
  | viewportSet (c : Cmd)
  /-- REG_READ (R82): Platform command that reads 1 to 8 whitelisted registers. -/
  | regRead (c : Cmd)
  /-- REG_WRITE (R82): Platform command that writes 1 to 8 whitelisted registers in order, with GPIO masks filtered. -/
  | regWrite (c : Cmd)
  /-- EVENT_SUBSCRIBE (R88): Command that turns delivery of an event code on or off for the issuer, at scope 0 or scope 1. -/
  | eventSubscribe (c : Cmd)
  /-- TENANT_QUERY (R87): Command that returns the issuer's tenant number, quotas and in-flight count. -/
  | tenantQuery (c : Cmd)
  /-- ATLAS_MAP (R101): Command that maps a range of the issuer's asset space, zeroing pool pages first. -/
  | atlasMap (c : Cmd)
  /-- ATLAS_UNMAP (R103): Command that invalidates mappings, waits for outstanding requests and returns pool pages. -/
  | atlasUnmap (c : Cmd)
  /-- BANK_ASSIGN (R91): Platform command that zeroes a bank and assigns it to one master. -/
  | bankAssign (c : Cmd)
  /-- PLANE_CREATE (R116): Command that allocates a plane slot and z on a head and returns its handle. -/
  | planeCreate (c : Cmd)
  /-- PLANE_DESTROY (R119): Command that removes a plane at the head's next compose boundary, or at once on a head without boundaries. -/
  | planeDestroy (c : Cmd)
  /-- PLANE_SET (R118): Staged command that sets a plane's parameters according to its kind. -/
  | planeSet (c : Cmd)
  /-- PALETTE_LOAD (R124): Command that loads palettes from asset memory (staged) or releases palettes (not staged). -/
  | paletteLoad (c : Cmd)
  /-- OBJECT_TABLE_SET (R135): Staged command that reads and validates an object table for an object plane. -/
  | objectTableSet (c : Cmd)
  /-- CANVAS_SET (R152): Staged command that sets a canvas plane's bitmap format, size and addresses. -/
  | canvasSet (c : Cmd)
  /-- SCALER_COEF_LOAD (R166): Staged command that loads a plane's polyphase scaler coefficients. -/
  | scalerCoefLoad (c : Cmd)
  /-- CONTOUR_SET (R170): Staged command that reads, validates and flattens a contour plane's path. -/
  | contourSet (c : Cmd)
  /-- PAINT_SET (R176): Staged command that sets a contour plane's solid or gradient paint. -/
  | paintSet (c : Cmd)
  /-- TRANSFER_LUT_LOAD (R189): Command that loads or releases a transfer LUT slot, or selects a plane's pre-blend transfer. -/
  | transferLutLoad (c : Cmd)
  /-- POST_LUT_LOAD (R196): Staged platform command that loads or restores a head's post-blend LUT. -/
  | postLutLoad (c : Cmd)
  /-- DITHER_SET (R198): Staged platform command that sets a head's output depth and dither mode. -/
  | ditherSet (c : Cmd)
  /-- LINELIST_SET (R211): Staged command that installs or removes a line list in a head's slot. -/
  | linelistSet (c : Cmd)
  /-- FRET_SET (R214): Command that allocates, sets or frees a fret on a head. -/
  | fretSet (c : Cmd)
  /-- LEAD_BOUNDS_SET (R206): Platform command that sets a head's lead bounds from its next compose boundary. -/
  | leadBoundsSet (c : Cmd)
  /-- COST_QUERY (R222): Command that evaluates admission for a head without committing and returns the costliest band and line. -/
  | costQuery (c : Cmd)
  /-- TAB_LOAD (R260): Command that allocates a thread slot and copies code and initial data into the core's bank. -/
  | tabLoad (c : Cmd)
  /-- TAB_START (R262): Staged command that starts or restarts a thread with its wake set, budgets and fast sources. -/
  | tabStart (c : Cmd)
  /-- TAB_STOP (R261): Staged command that stops or frees a thread. -/
  | tabStop (c : Cmd)
  /-- DECODE_TABLE_LOAD (R250): Platform command that installs or clears custom-instruction decode entries and microcode on every tab core. -/
  | decodeTableLoad (c : Cmd)
  /-- TAB_DEBUG (R271): Command by which a granted owner halts, resumes, steps or inspects its thread. -/
  | tabDebug (c : Cmd)
  /-- HEAD_TIMING_SET (R279): Platform command that sets, changes or switches off a head's timing. -/
  | headTimingSet (c : Cmd)
  /-- PORT_ROUTE_SET (R306): Platform command that routes heads to a DP or A-PHY port, trained at the next frame end. -/
  | portRouteSet (c : Cmd)
  /-- COMMIT_SUBMIT (R285): Command that admits the issuer's staged state for the named heads and schedules it for a compose boundary. -/
  | commitSubmit (c : Cmd)
  /-- CAPTURE_START (R297): Command that starts capturing a head's scanned frames into a page ring. -/
  | captureStart (c : Cmd)
  /-- CAPTURE_STOP (R303): Command that stops a head capture once the frame in progress has been written. -/
  | captureStop (c : Cmd)
  /-- FRAMELOCK_SET (R296): Platform command that sets a head's frame-lock role. -/
  | framelockSet (c : Cmd)
  /-- STILL_POLICY_SET (R290): Platform command that sets a head's Still-state policy. -/
  | stillPolicySet (c : Cmd)
  /-- CARTOUCHE_IMAGE_LOAD (R314): Safety command that loads, replaces or releases a Cartouche image. -/
  | cartoucheImageLoad (c : Cmd)
  /-- CARTOUCHE_CELL_SET (R317): Safety command that defines, changes the state of, or removes a Cartouche cell. -/
  | cartoucheCellSet (c : Cmd)
  /-- WATCH_REGION_SET (R322): Safety command that sets or removes a watch region. -/
  | watchRegionSet (c : Cmd)
  /-- REFERENCE_SET (R325): Safety command that replaces a watch region's reference signature set. -/
  | referenceSet (c : Cmd)
  /-- FAULT_REACTION_SET (R328): Safety command that sets a region's reaction or a head's fallback colour, ends fallback or releases a pin. -/
  | faultReactionSet (c : Cmd)
  /-- HEAD_PRIORITY_SET (R361): Platform command that sets a head's degradation priority. -/
  | headPrioritySet (c : Cmd)
  /-- POWER_POLICY_SET (R362): Platform command that sets the governor's power limits. -/
  | powerPolicySet (c : Cmd)
  /-- MAINTENANCE_SET (R363): Platform command that sets the period of a maintenance activity, runs it now, or disables or enables it. -/
  | maintenanceSet (c : Cmd)
  /-- GOVERNOR_QUERY (R364): Command that returns Tj, CCLK, degradation levels, power and cluster counts. -/
  | governorQuery (c : Cmd)
  /-- VOICE_CREATE (R370): Command that creates or destroys a tenant voice. -/
  | voiceCreate (c : Cmd)
  /-- VOICE_SET (R371): Command that writes a voice's source, step, gain, envelope or sends at one boundary. -/
  | voiceSet (c : Cmd)
  /-- VOICE_START (R377): Command that starts or retriggers a voice from position 0 into attack. -/
  | voiceStart (c : Cmd)
  /-- VOICE_STOP (R377): Command that sends a voice into release or cuts it. -/
  | voiceStop (c : Cmd)
  /-- BUS_SET (R379): Command that allocates, sets or frees an output bus. -/
  | busSet (c : Cmd)
  /-- BRIDGE_SET (R383): Command that allocates, sets or frees a bridge lane between courses. -/
  | bridgeSet (c : Cmd)
  /-- AUDIO_PORT_SET (R388): Platform command that sets a TDM port, a PDM pin or a course clock source, or switches a port off. -/
  | audioPortSet (c : Cmd)
  /-- AVTP_STREAM_SET (R392): Platform command that sets or removes an AVTP talker or listener stream. -/
  | avtpStreamSet (c : Cmd)
  /-- AUDIO_CAPTURE_START (R393): Command that starts or stops capture of a bus into a page ring. -/
  | audioCaptureStart (c : Cmd)
  /-- CARTOUCHE_VOICE_SET (R386): Safety command that loads, replaces or releases a Cartouche sample. -/
  | cartoucheVoiceSet (c : Cmd)
  /-- MODEL_LOAD (R405): Platform command that validates a phrase model and loads it for the next mel frame. -/
  | modelLoad (c : Cmd)
  /-- LISTEN_PROGRAM_LOAD (R401): Platform command that loads and starts, or stops, the Peg core's listen program. -/
  | listenProgramLoad (c : Cmd)
  /-- WAKE_SOURCE_SET (R410): Platform command that enables or configures a wake source. -/
  | wakeSourceSet (c : Cmd)
  /-- PREROLL_READ (R408): Platform command that copies pre-roll ring frames into asset memory. -/
  | prerollRead (c : Cmd)
  /-- MODE_SET (R418): Platform command that requests a power-mode change. -/
  | modeSet (c : Cmd)
  /-- CLOCK_PLAN_SET (R428): Platform command that sets the clock plan by arm-then-apply. -/
  | clockPlanSet (c : Cmd)
  /-- CLOCK_MEASURE (R432): Platform command that counts one clock against another and returns the measured frequency. -/
  | clockMeasure (c : Cmd)
  /-- COMPARE_SET (R444): Command that allocates, sets or frees a compare channel. -/
  | compareSet (c : Cmd)
  /-- CAPTURE_CHANNEL_SET (R449): Command that allocates, sets or frees a capture channel. -/
  | captureChannelSet (c : Cmd)
  /-- PWM_SET (R452): Command that allocates, sets or frees a PWM unit. -/
  | pwmSet (c : Cmd)
  /-- CALENDAR_SET (R455): Platform command that sets or reads the calendar at the next slow-counter edge. -/
  | calendarSet (c : Cmd)
  /-- CALENDAR_ALARM_SET (R456): Platform command that sets or clears the calendar alarm. -/
  | calendarAlarmSet (c : Cmd)
  /-- DMA_CHANNEL_SET (R466): Command that allocates, sets or frees a DMA channel and its completion ring. -/
  | dmaChannelSet (c : Cmd)
  /-- DMA_SUBMIT (R467): Command that reads and validates a descriptor list and queues it on a channel. -/
  | dmaSubmit (c : Cmd)
  /-- BLIT_SUBMIT (R477): Command that validates and queues a copy, fill or blend blit. -/
  | blitSubmit (c : Cmd)
  /-- DMA_SHARE_SET (R474): Platform command that sets a tenant's DMA token-bucket rate and burst. -/
  | dmaShareSet (c : Cmd)
  /-- PIN_OWNER_SET (R490): Platform command that gives a run of pins to a new owner in the default configuration. -/
  | pinOwnerSet (c : Cmd)
  /-- PIN_CONFIG_SET (R491): Command that sets pin electrical and interrupt settings, or enables or disables a serial or clock block. -/
  | pinConfigSet (c : Cmd)
  /-- PIN_WRITE (R493): Command that makes a masked OUT or OE write, starts a serial transfer, or acknowledges level pin events. -/
  | pinWrite (c : Cmd)
  /-- PIN_LOCK (R497): Command that arms or commits the lock of safety-class pins. -/
  | pinLock (c : Cmd)
  /-- DEBUG_GRANT (R518): Platform command that grants or revokes tenant debug on heads. -/
  | debugGrant (c : Cmd)
  /-- DEBUG_UNLOCK (R514): Platform command that presents a debug, Return or Secure token, or closes a Device session. -/
  | debugUnlock (c : Cmd)
  /-- SERVICE_ENTER (R521): Platform command that moves the part from Drive to Service by arm-then-apply. -/
  | serviceEnter (c : Cmd)
  /-- LIFECYCLE_QUERY (R523): Command that returns the lifecycle, debug state, die serial, firmware and boot data. -/
  | lifecycleQuery (c : Cmd)
  /-- COMMAND_FETCH (R72): The CP takes up to 8 commands from each tenant with unfetched entries in one scheduling round. -/
  | commandFetch (dt : Nat)
  /-- HELD_RECORD_WRITE (R70): Held command records and then pending events are written as completion-ring slots become free. -/
  | heldRecordWrite (dt : Nat) (tenant : Nat)
  /-- MAILBOX_DRAIN_END (R65): Once every in-flight command has completed, a draining mailbox enters Disabled with its counters cleared. -/
  | mailboxDrainEnd (dt : Nat) (tenant : Nat)
  /-- CMD_TAIL_WRITE (R64): A tenant's doorbell write of CMD_TAIL offers entries, or stops the mailbox with E_RANGE. -/
  | cmdTailWrite (dt : Nat) (tenant : Nat) (v : Word)
  /-- CPL_HEAD_WRITE (R64): A tenant's write of CPL_HEAD frees completion slots, or stops the mailbox and makes its ring unusable. -/
  | cplHeadWrite (dt : Nat) (tenant : Nat) (v : Word)
  /-- MBOX_ENABLE (R63): A write of MBOX_CTL.enable = 1 in Disabled checks the configuration and enters Running or Stopped. -/
  | mboxEnable (dt : Nat) (tenant : Nat)
  /-- MBOX_DISABLE (R65): A write of MBOX_CTL.enable = 0 in Running or Stopped enters Draining. -/
  | mboxDisable (dt : Nat) (tenant : Nat)
  /-- MBOX_RESET (R65): A write of MBOX_CTL.reset = 1 in Stopped enters Draining and ends in Disabled. -/
  | mboxReset (dt : Nat) (tenant : Nat) (enable : Bool)
  /-- DEV_EVENT_CLEAR (R75): An RW1C write to DEV.EVENT clears bits so that the next cause raises the device vector again. -/
  | devEventClear (dt : Nat) (v : Word)
  /-- DEV_EVENT_EN_WRITE (R75): A write to DEV.EVENT_EN, which raises the vector of each newly enabled bit whose event is already set. -/
  | devEventEnWrite (dt : Nat) (v : Word)
  /-- PASID_LOCK (R77): A W1S write to DEV.PASID_LOCK locks DEV.PASID0 and DEV.PASID1 until reset. -/
  | pasidLock (dt : Nat) (v : Word)
  /-- MERIDIAN_LO_READ (R77): A read of DEV.MERIDIAN_LO latches DEV.MERIDIAN_HI from the same instant. -/
  | meridianLoRead (dt : Nat)
  /-- COURSE_CNT_READ (R396): A read of the low word of AUDIO.COURSE_CNT latches its high word. -/
  | courseCntRead (dt : Nat) (course : Nat)
  /-- INTC_PENDING_SET (R461): A write of 1 at the PENDING_SET alias adds 1 to an edge source's count. -/
  | intcPendingSet (dt : Nat) (k : Nat) (v : Word)
  /-- INTC_PENDING_CLR (R461): A write of 1 at the PENDING_CLR alias sets an edge source's count to 0. -/
  | intcPendingClr (dt : Nat) (k : Nat) (v : Word) (edges : List Nat)
  /-- INTC_ENABLE_SET (R11): A write of 1 at the ENABLE_SET alias enables an interrupt source. -/
  | intcEnableSet (dt : Nat) (k : Nat) (v : Word)
  /-- INTC_ENABLE_CLR (R11): A write of 1 at the ENABLE_CLR alias disables an interrupt source. -/
  | intcEnableClr (dt : Nat) (k : Nat) (v : Word)
  /-- GPIO_MASKED_WRITE (R492): A write to a masked OUT or OE register changes the latches of the masked pins of a half bank. -/
  | gpioMaskedWrite (dt : Nat) (bank : Nat) (reg : GpioReg) (high : Bool) (v : Word)
  /-- GPIO_INT_EN_SET (R11): A write of 1 at the INT_EN_SET alias lets a pin drive its interrupt source. -/
  | gpioIntEnSet (dt : Nat) (bank : Nat) (v : Word)
  /-- GPIO_INT_EN_CLR (R11): A write of 1 at the INT_EN_CLR alias stops a pin driving its interrupt source. -/
  | gpioIntEnClr (dt : Nat) (bank : Nat) (v : Word)
  /-- AUX_CTL_START (R544): A write of AUX_CTL.start starts an AUX transaction, or is discarded and sets overrun. -/
  | auxCtlStart (dt : Nat) (port : Nat) (v : Word) (cpUses : Bool)
  /-- AUX_TRANSACTION_END (R544): An AUX transaction ends at a reply, at the 400 µs timeout or at once, and AUX_STATUS gives the result. -/
  | auxTransactionEnd (dt : Nat) (port : Nat) (reply : AuxReply)
  /-- MDIO_CTL_START (R545): A write of MDIO_CTL.start sends a clause 22 or clause 45 MDIO frame, or waits for the shared pins. -/
  | mdioCtlStart (dt : Nat) (mac : Nat) (v : Word)
  /-- MDIO_FRAME_END (R545): An MDIO frame completes, busy clears and the read data is latched. -/
  | mdioFrameEnd (dt : Nat) (mac : Nat) (rdata : Half)
  /-- PEG_WAKE_REQ_WRITE (R399): A listen-program store to PEG_WAKE_REQ raises a wake request for the mode it names. -/
  | pegWakeReqWrite (dt : Nat) (v : Word)
  /-- HOST_BAR0_ACCESS_ASLEEP (R425): A host BAR0 access in Keep or Listen wakes PD002, returns reads and latches doorbell writes. -/
  | hostBar0AccessAsleep (dt : Nat) (write : Bool) (off : Nat) (v : Access)
  /-- REGISTER_WRITE (R9): A write to a register that has no row of its own acts by its access type. -/
  | registerWrite (dt : Nat) (space : RegSpace) (addr : Nat) (v : Access)
  /-- BEAM_LINE_ENTER (R203): The beam of a head enters a line, scanning it through the stages of the scan engine. -/
  | beamLineEnter (dt : Nat) (head : Nat) (late : List PixelRun)
  /-- COMPOSE_BOUNDARY (R16): The composer starts line 0, with takeover, epoch, committed state and lead applied in order. -/
  | composeBoundary (dt : Nat) (head : Nat)
  /-- COMPOSER_LINE_START (R204): The composer starts an active line, applying line-list writes and issuing tab wakes. -/
  | composerLineStart (dt : Nat) (head : Nat)
  /-- COMPOSER_LINE_COMPLETE (R15): When all writes of a line are accepted, the cluster issues the line-complete token and records the line's time. -/
  | composerLineComplete (dt : Nat) (head : Nat)
  /-- FETCH_RETURN (R113): A read request's data returns and frees its fetch tag, or returns a fault or poison. -/
  | fetchReturn (dt : Nat) (req : Requester) (outcome : FetchOutcome)
  /-- PORT_PIXEL_NEED (R23): The port link draws a pixel from its queue, or resends the last pixel when the queue is empty. -/
  | portPixelNeed (dt : Nat) (port : Nat) (stream : Nat) (empty : Bool)
  /-- HEARTBEAT_PERIOD_END (R338): A heartbeat period ends, and after three missed periods the cluster is declared dead. -/
  | heartbeatPeriodEnd (dt : Nat) (cluster : Nat) (onTime : Bool) (healthy : Bool)
  /-- CLUSTER_SELF_TEST_END (R343): A quarantined cluster's self-test ends, making it Spare or Retired. -/
  | clusterSelfTestEnd (dt : Nat) (cluster : Nat) (pass : Bool)
  /-- LEGEND_UPDATE (R42): The CP applies pending state changes to the Legend as one update. -/
  | legendUpdate (dt : Nat)
  /-- ARM_DEADLINE (R346): At the arm deadline, a change applies if every unit has armed, or is armed again for its retry. -/
  | armDeadline (dt : Nat) (id : Nat) (unarmed : List ArmUnit)
  /-- APPLY_TIME (R346): Armed units apply an arm-then-apply change at its apply time. -/
  | applyTime (dt : Nat) (id : Nat)
  /-- APPLY_ACK_TIMEOUT (R347): A unit that has not acknowledged within 2 µs of the apply time is marked Suspect and rollback is scheduled. -/
  | applyAckTimeout (dt : Nat) (id : Nat) (failed : ArmUnit)
  /-- ROLLBACK (R347): One frame after a failed apply, the units that applied return to the previous setting. -/
  | rollback (dt : Nat) (id : Nat)
  /-- GOVERNOR_EVALUATION (R353): The governor evaluates its thermal and power rules every 1 ms. -/
  | governorEvaluation (dt : Nat) (temps : List Int) (activity : List Nat)
  /-- LEAKAGE_ANCHOR (R360): In a quiet interval the governor anchors its leakage term to the measured current. -/
  | leakageAnchor (dt : Nat) (current : Nat)
  /-- ESTIMATOR_UNANCHORED (R360): After 10 s with no anchor the governor marks its estimator unanchored and adds margin. -/
  | estimatorUnanchored (dt : Nat)
  /-- THERMTRIP_ASSERT (R358): The hardware comparator asserts THERMTRIP_N when Tj reaches 125 °C. -/
  | thermtripAssert (dt : Nat)
  /-- MAINTENANCE_ACTIVITY_DUE (R351): A maintenance activity becomes due and starts at once or queues. -/
  | maintenanceActivityDue (dt : Nat) (activity : Nat)
  /-- MAINTENANCE_ACTIVITY_END (R351): A maintenance activity ends and the arbiter starts queued activities in order. -/
  | maintenanceActivityEnd (dt : Nat) (activity : Nat) (result : ActivityEnd)
  /-- IRQ_AGE_LIMIT (R76): A tenant's record age limit expires and its vector is raised. -/
  | irqAgeLimit (dt : Nat) (tenant : Nat)
  /-- COURSE_SAMPLE_BOUNDARY (R368): At each sample boundary of a course, voices, envelopes, sends, buses and limiters advance one sample. -/
  | courseSampleBoundary (dt : Nat) (course : Nat) (inp : CourseInput)
  /-- METER_WINDOW_END (R382): A meter's 1,024-boundary window ends and its RMS and peaks are computed. -/
  | meterWindowEnd (dt : Nat) (course : Nat)
  /-- AUDIO_METER (R382): Every 100 ms, meter events go to the subscribed owners of voices and buses. -/
  | audioMeter (dt : Nat)
  /-- BRIDGE_LANE_RANGE_TIMEOUT (R384): A lane whose ratio has stayed out of range for 10 ms outputs 0 and flags unlocked. -/
  | bridgeLaneRangeTimeout (dt : Nat) (lane : Nat) (inRange : Bool)
  /-- AUDIO_CLOCK_RELOCK (R391): An audio clock's PLL relocks after a source change and its courses' buses resume. -/
  | audioClockRelock (dt : Nat) (clock : Nat)
  /-- TDM_FRAME_SLIP (R389): A port that is not a clock master drops or repeats one frame and counts a slip. -/
  | tdmFrameSlip (dt : Nat) (port : Nat) (input : Bool)
  /-- AVTP_PACKET_RECEIVE (R392): A listener packet arrives and its samples are scheduled by presentation time. -/
  | avtpPacketReceive (dt : Nat) (stream : Nat) (ptime : Nat) (samples : List (List Int))
  /-- AUDIO_CAPTURE_BLOCK (R394): Record written when an audio capture block completes or is abandoned. -/
  | audioCaptureBlock (dt : Nat) (bus : Nat)
  /-- AUDIO_CAPTURE_STALL (R394): A host write that makes no progress for 1 ms abandons the rest of an audio capture block. -/
  | audioCaptureStall (dt : Nat) (bus : Nat)
  /-- CAPTURE_FRAME (R302): Record written once a captured head frame's last write completes, or the frame is abandoned. -/
  | captureFrame (dt : Nat) (head : Nat)
  /-- CAPTURE_WRITE_STALL (R301): A capture write that makes no progress for 1 ms abandons the rest of the frame. -/
  | captureWriteStall (dt : Nat) (head : Nat)
  /-- COMPARE_EVALUATION (R445): At each Meridian value with bits 2:0 zero, compare channels are evaluated and fire. -/
  | compareEvaluation (dt : Nat)
  /-- PWM_TICK (R453): A PWM unit's counter advances, wraps and applies pending settings. -/
  | pwmTick (dt : Nat) (pwm : Nat)
  /-- CAPTURE_FILTER_SAMPLE (R450): A capture channel samples its pin every 8 ticks and captures accepted edges. -/
  | captureFilterSample (dt : Nat) (channel : Nat) (level : Bool)
  /-- INTERRUPT_SOURCE_EVENT (R461): An edge or level at an interrupt source makes it pending in the controller. -/
  | interruptSourceEvent (dt : Nat) (source : Nat) (asserted : Bool)
  /-- HOLDOFF_EXPIRY (R464): A group's hold-off timer expires and its normal-class sources may be taken again. -/
  | holdoffExpiry (dt : Nat) (group : Nat)
  /-- ENTRY (R242): A core takes an entry in cycles E1 to E3 and fetches the handler. -/
  | coreEntry (dt : Nat) (who : CoreRef) (arrivals : List Nat)
  /-- SLOW_COUNTER_EDGE (R441): The slow counter advances, the calendar counts, and Meridian stops or resumes with its make-up. -/
  | slowCounterEdge (dt : Nat)
  /-- MEL_FRAME_READY (R403): Every 10 ms the front end produces a mel frame from the PDM0 microphones. -/
  | melFrameReady (dt : Nat) (samples : List (Int × Int))
  /-- MODEL_EVALUATION_DONE (R404): The matrix unit finishes a model evaluation and checks for a phrase match. -/
  | modelEvaluationDone (dt : Nat)
  /-- I2C_ADDRESS_MATCH (R409): The wake target acknowledges its address and raises a wake request. -/
  | i2cAddressMatch (dt : Nat) (addr : BitVec 7) (read : Bool)
  /-- I2C_DATA_BYTE_WRITE (R409): A host data byte sets the index or is stored in a target register, and enters the Peg core. -/
  | i2cDataByteWrite (dt : Nat) (v : Byte)
  /-- I2C_DATA_BYTE_READ (R409): The target returns the byte at the register index, which then increments. -/
  | i2cDataByteRead (dt : Nat)
  /-- I2C_STRETCH_TIMEOUT (R409): After 400 µs of stretch, the target releases SCL and NACKs, or returns 0xFF. -/
  | i2cStretchTimeout (dt : Nat)
  /-- WAKE_COMPLETE (R420): A wake out of Keep or Listen completes its steps and the CP resumes. -/
  | wakeComplete (dt : Nat)
  /-- MODE_REACHED (R419): A mode change reaches its new mode after the heads stop and domains settle. -/
  | modeReached (dt : Nat)
  /-- PIN_LEVEL_CHANGE (R495): A debounced level change on a watched pin becomes a pin event. -/
  | pinLevelChange (dt : Nat) (pin : Nat) (level : Bool)
  /-- PIN_EVENT_COALESCE_END (R496): At the end of the 1 ms after an edge event, a second PIN_EVENT reports the further events. -/
  | pinEventCoalesceEnd (dt : Nat) (pin : Nat)
  /-- PIN_HANDOVER_END (R488): Two pin-clock cycles after release, the new function drives or receives the pin. -/
  | pinHandoverEnd (dt : Nat) (pin : Nat)
  /-- SERIAL_TRANSFER_DONE (R493): An I²C, SPI or UART transfer started by PIN_WRITE ends and its record is written. -/
  | serialTransferDone (dt : Nat) (block : Nat) (outcome : SerialOutcome)
  /-- UART_BYTE_RECEIVE (R494): A UART byte enters the receive queue. -/
  | uartByteReceive (dt : Nat) (uart : Nat) (v : Byte)
  /-- UART_LINE_IDLE (R494): After two idle character times with bytes waiting, PIN_UART_RX is sent. -/
  | uartLineIdle (dt : Nat) (uart : Nat)
  /-- HPD_FALL (R308): HPD falls on a routed port and the port stops sending. -/
  | hpdFall (dt : Nat) (port : Nat)
  /-- HPD_RISE (R308): HPD rises and the port retrains up to three times. -/
  | hpdRise (dt : Nat) (port : Nat) (attempts : List Bool)
  /-- LINK_TRAINING_DONE (R306): Route training ends with the route in place, or removed with E_LINK_TRAIN. -/
  | linkTrainingDone (dt : Nat) (port : Nat) (ok : Bool) (lanes : Nat) (rate : Nat)
  /-- PIXEL_PLL_LOCK (R279): A head's pixel PLL locks and the scan engine starts at line v_active. -/
  | pixelPllLock (dt : Nat) (head : Nat)
  /-- FSYNC_EDGE (R29): A follower measures its phase error at an FSYNC rising edge and corrects it. -/
  | fsyncEdge (dt : Nat)
  /-- FSYNC_LOST (R30): With no FSYNC edge for two frame periods, the follower holds its trim and runs free. -/
  | fsyncLost (dt : Nat)
  /-- GPTP_STATE_CHANGE (R30): The gPTP state of a MAC enters or leaves the synchronised state. -/
  | gptpStateChange (dt : Nat) (mac : Nat) (synced : Bool) (offset : Int) (ratio : Nat)
  /-- CLOCK_REFERENCE_LOST (R431): A PLL reference is declared lost and its PLLs coast. -/
  | clockReferenceLost (dt : Nat) (ref : ClockRef)
  /-- CLOCK_REFERENCE_RETURN (R431): After its reference returns for 1 ms, a PLL relocks. -/
  | clockReferenceReturn (dt : Nat) (ref : ClockRef)
  /-- PWRFAIL_N_ASSERT (R433): A recognised low on PWRFAIL_N brings every output to a harmless state within 2 µs. -/
  | pwrfailNAssert (dt : Nat)
  /-- PWRFAIL_N_RELEASE (R435): PWRFAIL_N returns high with supplies present, and the part resets itself. -/
  | pwrfailNRelease (dt : Nat)
  /-- RESET (R510): A RESET_N low of at least 1 µs clears all state except the slow counter, calendar and fuses. -/
  | resetPin (dt : Nat)
  /-- RESET_RELEASE (R510): Start-up begins: the Peg ROM reads the fuses and starts the clocks. -/
  | resetRelease (dt : Nat) (straps : BitVec 2) (vddioHigh : BitVec 5)
  /-- BOOT_COPY_VERIFY (R507): The CP ROM finishes verifying a boot flash copy, accepting or rejecting it. -/
  | bootCopyVerify (dt : Nat) (image : BootCopy)
  /-- CARTOUCHE_BOOT_IMAGE_APPLY (R334): The firmware applies the Cartouche boot image records to the boot head. -/
  | cartoucheBootImageApply (dt : Nat)
  /-- FIRMWARE_READY (R510): The firmware completes the Legend and reports fw_ready in Drive. -/
  | firmwareReady (dt : Nat)
  /-- PCIE_LINK_UP (R512): The PCIe link trains without firmware and BAR0 becomes readable. -/
  | pcieLinkUp (dt : Nat)
  /-- PERST_ASSERT (R513): A host reset destroys tenants 2 to 1023, drains tenants 0 and 1 and clears the PASIDs and grants. -/
  | perstAssert (dt : Nat)
  /-- CLKREQ_ASSERT (R410): The host asserts CLKREQ# in L1.2, raising wake source 5. -/
  | clkreqAssert (dt : Nat)
  /-- WAKE_FRAME_RECEIVE (R410): An Ethernet frame that matches the filter of wake source 6 raises a wake request. -/
  | wakeFrameReceive (dt : Nat) (mac : Nat) (frame : List Byte)
  /-- SERVICE_N_RELEASE_TIMEOUT (R522): SERVICE_N held high for 10 ms in Service returns the part to Drive. -/
  | serviceNReleaseTimeout (dt : Nat)
  /-- TOKEN_RESET (R510): 10 ms after the record of a Return or Secure token, the part resets. -/
  | tokenReset (dt : Nat)
  /-- JTAG_ACCESS (R519): An access over the IEEE 1149.1 pins is served by the debug access port at the level in force. -/
  | jtagAccess (dt : Nat) (op : JtagOp)
  /-- DMA_DESCRIPTOR_COMPLETE (R468): A DMA descriptor completes, writes its record and starts the next one. -/
  | dmaDescriptorComplete (dt : Nat) (channel : Nat)
  /-- DMA_RING_RECHECK (R470): Every 10 µs a channel waiting for ring space rereads its cons_addr. -/
  | dmaRingRecheck (dt : Nat) (channel : Nat)
  /-- DMA_TOKEN_GRANT (R474): A channel issues a 64-byte request once its tenant's bucket holds tokens. -/
  | dmaTokenGrant (dt : Nat) (channel : Nat)
  /-- BLIT_START (R481): The CP starts the next queued blit once the engine is free. -/
  | blitStart (dt : Nat)
  /-- BLIT_DONE (R481): A blit's last write is accepted and its record is written. -/
  | blitDone (dt : Nat)
  /-- LOAD_RETURN (R258): A parked tab thread's load data returns and the thread becomes eligible. -/
  | loadReturn (dt : Nat) (head : Nat) (slot : Nat) (outcome : FetchOutcome)
  /-- FENCE_COMPLETE (R232): Every earlier load of the thread has returned and every earlier store has been accepted, so FENCE completes. -/
  | fenceComplete (dt : Nat) (head : Nat) (slot : Nat) (poisonedStore : Bool)
  /-- TAB_BUDGET_OVERRUN (R266): An instruction's charge would exceed the budget, so the thread faults or its wake ends. -/
  | tabBudgetOverrun (dt : Nat) (head : Nat) (slot : Nat) (charge : Nat)
  /-- VDD_AON_RISE (R441): The always-on supply rises, clearing the slow counter and the calendar, which then hold 2000-01-01 with valid 0. -/
  | vddAonRise (dt : Nat)
  /-- SUPPLY_REMOVAL (R416): The integrator removes supplies, taking the part to Off (or, in Keep and Listen, powering down a bank's VDDIO), with all non-AON state lost. -/
  | supplyRemoval (dt : Nat) (what : Supply)
  /-- ACCESS_VOTE_EXPIRY (R423): A domain woken by an access loses its access vote after 1 ms with no access, and drops if it holds no other vote. -/
  | accessVoteExpiry (dt : Nat) (domain : Nat)
  /-- COMMAND_WAIT_END (R546): A command that waited for zeroing or copying (BANK_ASSIGN or ATLAS_MAP zeroing, PREROLL_READ, Cartouche store copies) finishes its work and its record is written. -/
  | commandWaitEnd (dt : Nat) (tenant : Nat) (index : Word)
  /-- RECORD_WRITE_ERROR_COMPLETION (R64): A completion-record write returns an error completion, stopping the mailbox with E_FAULT and making its completion ring unusable. -/
  | recordWriteErrorCompletion (dt : Nat) (tenant : Nat)
  /-- USXGMII_LINK_CHANGE (R545): The USXGMII link of an Ethernet MAC comes up or goes down, updating ETH.LINK.link. -/
  | usxgmiiLinkChange (dt : Nat) (mac : Nat) (up : Bool)
  /-- ETHERNET_FRAME_RECEIVE (R545): A MAC receives an Ethernet frame that is neither an AVTP listener packet nor a wake frame (a gPTP message, another frame or one with an FCS error) and counts it. -/
  | ethernetFrameReceive (dt : Nat) (mac : Nat) (kind : EthFrame)
deriving DecidableEq, Repr

end Sys2Proof
end

