-- ==== Sys2Proof/WellFormed.lean ====
section
/-! DEFINITION. Well-formed commands: every operand lies within the range that the machine has for it. -/

namespace Sys2Proof

/-- A command entry as the ring holds it: a tenant number, and the bytes that its extension count gives it (Table 3.8,
R66). -/
def Cmd.wf (c : Cmd) : Bool :=
  decide (c.tenant < 1024) && c.payload.length == 56 + 64 * ((c.flags.toNat / 16) % 16)

/-- A core that exists: a tab thread by one of eight heads and one of its sixteen slots, the Peg core or the CP (R225,
R259). -/
def CoreRef.wf : CoreRef → Bool
  | .tab head slot => decide (head < 8) && decide (slot < 16)
  | .peg => true
  | .cp => true

/-- A requester that exists (Table 4.9, Table 4.10). -/
def Requester.wf : Requester → Bool
  | .plane head _ _ _ => decide (head < 8)
  | .lineList head slot => decide (head < 8) && decide (slot < 256)
  | .voice n => decide (n < 96)
  | .dma channel => decide (channel < 48)
  | .blit => true
  | .command tenant _ => decide (tenant < 1024)
  | .cpFirmware => true
  | .scan head _ _ => decide (head < 8)
  | .ring tenant => decide (tenant < 1024)
  | .cartoucheScan head _ => decide (head < 8)
  | .cartoucheVoice n => decide (96 ≤ n) && decide (n < 100)

/-- What arrives at a course comes from a TDM port, a PDM microphone pair or a voice that exists (R388, R390). -/
def CourseInput.wf (i : CourseInput) : Bool :=
  i.tdm.all (fun e => decide (e.1 < 4)) && i.starved.all (fun v => decide (v < 100))

/-- A unit of an arm-then-apply change that exists (R345): heads and clusters by number, others as the Legend numbers them. -/
def ArmUnit.wf : ArmUnit → Bool
  | .head n => decide (n < 8)
  | .cluster n => decide (n < 10)
  | .unit ty i => decide (ty < 0x10000) && decide (i < 0x10000)

/-- A supply that exists: VDDIO has five banks (R416). -/
def Supply.wf : Supply → Bool
  | .everything => true
  | .allButAon => true
  | .vddio bank => decide (bank < 5)

/-- A well-formed command: its heads, tenants, ports, channels and other numbers are ones that the part has (Table 1.1).
Times, data and addresses are free. -/
def Instr.wf : Instr → Bool
  | .nop c | .tenantCreate c | .tenantDestroy c => c.wf
  | .tenantDestroyComplete _ tenant => decide (tenant < 1024)
  | .quotaSet c | .viewportSet c | .regRead c | .regWrite c | .eventSubscribe c | .tenantQuery c | .atlasMap c
  | .atlasUnmap c | .bankAssign c | .planeCreate c | .planeDestroy c | .planeSet c | .paletteLoad c
  | .objectTableSet c | .canvasSet c | .scalerCoefLoad c | .contourSet c | .paintSet c | .transferLutLoad c
  | .postLutLoad c | .ditherSet c | .linelistSet c | .fretSet c | .leadBoundsSet c | .costQuery c | .tabLoad c
  | .tabStart c | .tabStop c | .decodeTableLoad c | .tabDebug c | .headTimingSet c | .portRouteSet c | .commitSubmit c
  | .captureStart c | .captureStop c | .framelockSet c | .stillPolicySet c | .cartoucheImageLoad c
  | .cartoucheCellSet c | .watchRegionSet c | .referenceSet c | .faultReactionSet c | .headPrioritySet c
  | .powerPolicySet c | .maintenanceSet c | .governorQuery c | .voiceCreate c | .voiceSet c | .voiceStart c
  | .voiceStop c | .busSet c | .bridgeSet c | .audioPortSet c | .avtpStreamSet c | .audioCaptureStart c
  | .cartoucheVoiceSet c | .modelLoad c | .listenProgramLoad c | .wakeSourceSet c | .prerollRead c | .modeSet c
  | .clockPlanSet c | .clockMeasure c | .compareSet c | .captureChannelSet c | .pwmSet c | .calendarSet c
  | .calendarAlarmSet c | .dmaChannelSet c | .dmaSubmit c | .blitSubmit c | .dmaShareSet c | .pinOwnerSet c
  | .pinConfigSet c | .pinWrite c | .pinLock c | .debugGrant c | .debugUnlock c | .serviceEnter c | .lifecycleQuery c =>
    c.wf
  | .commandFetch _ => true
  | .heldRecordWrite _ tenant | .mailboxDrainEnd _ tenant | .cmdTailWrite _ tenant _ | .cplHeadWrite _ tenant _
  | .mboxEnable _ tenant | .mboxDisable _ tenant | .mboxReset _ tenant _ => decide (tenant < 1024)
  | .devEventClear _ _ | .devEventEnWrite _ _ | .pasidLock _ _ | .meridianLoRead _ => true
  | .courseCntRead _ course => decide (course < 3)
  | .intcPendingSet _ k _ | .intcPendingClr _ k _ _ | .intcEnableSet _ k _ | .intcEnableClr _ k _ => decide (k < 16)
  | .gpioMaskedWrite _ bank _ _ _ | .gpioIntEnSet _ bank _ | .gpioIntEnClr _ bank _ => decide (bank < 5)
  | .auxCtlStart _ port _ _ | .auxTransactionEnd _ port _ => decide (port < 8)
  | .mdioCtlStart _ mac _ | .mdioFrameEnd _ mac _ => decide (mac < 2)
  | .pegWakeReqWrite _ _ | .hostBar0AccessAsleep _ _ _ _ | .registerWrite _ _ _ _ => true
  | .beamLineEnter _ head _ | .composeBoundary _ head | .composerLineStart _ head | .composerLineComplete _ head =>
    decide (head < 8)
  | .fetchReturn _ req _ => req.wf
  | .portPixelNeed _ port stream _ => decide (port < 8) && decide (stream < 2)
  | .heartbeatPeriodEnd _ cluster _ _ | .clusterSelfTestEnd _ cluster _ => decide (cluster < 10)
  | .legendUpdate _ => true
  | .armDeadline _ _ unarmed => unarmed.all ArmUnit.wf
  | .applyTime _ _ => true
  | .applyAckTimeout _ _ failed => failed.wf
  | .rollback _ _ => true
  | .governorEvaluation _ temps _ => decide (temps.length = 16)
  | .leakageAnchor _ _ | .estimatorUnanchored _ | .thermtripAssert _ => true
  | .maintenanceActivityDue _ activity => decide (1 ≤ activity) && decide (activity ≤ 6)
  | .maintenanceActivityEnd _ activity result =>
    decide (1 ≤ activity) && decide (activity ≤ 6) && result.heads.all (fun h => decide (h < 8))
  | .irqAgeLimit _ tenant => decide (tenant < 1024)
  | .courseSampleBoundary _ course inp => decide (course < 3) && inp.wf
  | .meterWindowEnd _ course => decide (course < 3)
  | .audioMeter _ => true
  | .bridgeLaneRangeTimeout _ lane _ => decide (lane < 32)
  | .audioClockRelock _ clock => decide (clock < 2)
  | .tdmFrameSlip _ port _ => decide (port < 4)
  | .avtpPacketReceive _ stream _ _ => decide (stream < 16)
  | .audioCaptureBlock _ bus | .audioCaptureStall _ bus => decide (bus < 16)
  | .captureFrame _ head | .captureWriteStall _ head => decide (head < 8)
  | .compareEvaluation _ => true
  | .pwmTick _ pwm => decide (pwm < 16)
  | .captureFilterSample _ channel _ => decide (channel < 32)
  | .interruptSourceEvent _ source _ => decide (source < 512)
  | .holdoffExpiry _ group => decide (group < 32)
  | .coreEntry _ who _ => who.wf
  | .slowCounterEdge _ | .melFrameReady _ _ | .modelEvaluationDone _ | .i2cAddressMatch _ _ _ | .i2cDataByteWrite _ _
  | .i2cDataByteRead _ | .i2cStretchTimeout _ | .wakeComplete _ | .modeReached _ => true
  | .pinLevelChange _ pin _ => decide (pin < 161)
  | .pinEventCoalesceEnd _ pin | .pinHandoverEnd _ pin => decide (pin < 160)
  | .serialTransferDone _ block _ => decide (block < 10)
  | .uartByteReceive _ uart _ | .uartLineIdle _ uart => decide (uart < 2)
  | .hpdFall _ port | .hpdRise _ port _ => decide (port < 4)
  | .linkTrainingDone _ port _ lanes _ => decide (port < 8) && decide (lanes < 5)
  | .pixelPllLock _ head => decide (head < 8)
  | .fsyncEdge _ | .fsyncLost _ => true
  | .gptpStateChange _ mac _ _ _ => decide (mac < 2)
  | .clockReferenceLost _ _ | .clockReferenceReturn _ _ | .pwrfailNAssert _ | .pwrfailNRelease _ | .resetPin _
  | .resetRelease _ _ _ | .bootCopyVerify _ _ | .cartoucheBootImageApply _ | .firmwareReady _ | .pcieLinkUp _
  | .perstAssert _ | .clkreqAssert _ => true
  | .wakeFrameReceive _ mac _ => decide (mac < 2)
  | .serviceNReleaseTimeout _ | .tokenReset _ | .jtagAccess _ _ => true
  | .dmaDescriptorComplete _ channel | .dmaRingRecheck _ channel | .dmaTokenGrant _ channel => decide (channel < 48)
  | .blitStart _ | .blitDone _ => true
  | .loadReturn _ head slot _ | .fenceComplete _ head slot _ | .tabBudgetOverrun _ head slot _ =>
    decide (head < 8) && decide (slot < 16)
  | .nopInstruction who | .drop who | .dup who | .swap who | .overOp who | .rot who | .nip who | .tuck who | .pick who _
  | .depth who | .tor who | .fromr who | .rfetch who | .rdrop who | .add who | .sub who | .andOp who | .orOp who
  | .xorOp who | .shl who | .shr who | .sar who | .mul who | .mulhu who | .mulhs who | .divu who | .divs who
  | .remu who | .rems who | .min who | .max who | .minu who | .maxu who | .slt who | .sltu who | .notOp who | .neg who
  | .abs who | .clz who | .sext8 who | .sext16 who | .cmp who | .tst who | .adc who | .sbc who | .lits who _
  | .lit16 who _ | .lit16s who _ | .lit32 who _ | .ld32 who _ _ | .ld16u who _ _ | .ld16s who _ _ | .ld8u who _ _
  | .ld8s who _ _ | .st32 who _ _ | .st16 who _ _ | .st8 who _ _ | .ld32p who _ | .st32p who _ | .pget who _
  | .pset who _ | .padd who _ | .paddi who _ _ | .beq who _ | .bne who _ | .blt who _ | .bge who _ | .bltu who _
  | .bgeu who _ | .bz who _ | .bnz who _ | .bcc who _ _ | .jmp who _ | .call who _ | .jmpi who | .calli who | .ret who
  | .jmpl who _ | .calll who _ | .pwrite who _ | .palw who | .waitl who | .line who | .flush who | .fence who
  | .yield who | .trap who _ | .reti who | .swget who | .swset who | .idle who | .customInstruction who _ _ _ => who.wf
  | .vddAonRise _ => true
  | .supplyRemoval _ what => what.wf
  | .accessVoteExpiry _ domain => decide (domain < 136)
  | .commandWaitEnd _ tenant _ | .recordWriteErrorCompletion _ tenant => decide (tenant < 1024)
  | .illegalInstruction who _ => who.wf
  | .usxgmiiLinkChange _ mac _ | .ethernetFrameReceive _ mac _ => decide (mac < 2)

end Sys2Proof
end

