-- ==== Sys2Proof/Decode.lean ====
section
/-! DEFINITION. Decoding of table words. No row of the opcode table gives a command bits, so no word spells one. -/

namespace Sys2Proof

/-- The command that a word of `nbits` bits spells: no row of the table gives bits, so none. -/
def decodeTableWord (_nbits _w : Nat) : Option Instr := none

end Sys2Proof
end

