-- ==== Sys2Proof/Config.lean ====
section
/-! DEFINITION. What one part or one release fixes and the spec does not state, and the free values: each is a constant
with no body, so that nothing can be proved of its value. -/

namespace Sys2Proof.Config

/-- The die serial as fused (R39); `Sys2Proof.Machine.dieSerial` keeps it off the two excluded values. -/
opaque fusedSerial : Word

/-- The build number of the firmware release loaded (R542). -/
opaque firmwareBuild : Nat

/-- A value the spec leaves open, fresh for every count: the random nonce of PIN_LOCK (R497) and the rest of
assumption 5. -/
opaque freeValue : Nat → Nat

/-- One byte of the SHA-384 hash of a run of bytes (R506), left uninterpreted. -/
opaque sha384Byte : List Byte → Nat → Byte

/-- SHA-384 of a run of bytes (R506): 48 bytes. -/
def sha384 (bs : List Byte) : List Byte := (List.range 48).map (sha384Byte bs)

/-- One byte of a signature that the holder of a public key's private key makes over a message: key and message. -/
opaque signatureByte : List Byte → List Byte → Nat → Byte

/-- The ECDSA P-384 signature of 96 bytes that the holder of a public key's private key makes over a message. -/
def signature (key message : List Byte) : List Byte := (List.range 96).map (signatureByte key message)

/-- Whether any other 96 bytes verify as well, left uninterpreted: key, message, signature. -/
opaque otherSignature : List Byte → List Byte → List Byte → Bool

/-- Whether an ECDSA P-384 signature verifies over a message under a public key (R506, R514): the holder's own does. -/
def ecdsaVerifies (key message sig : List Byte) : Bool := decide (sig = signature key message) || otherSignature key message sig

/-- A byte of the Ixent root public key. -/
opaque rootKeyByte : Nat → Byte

/-- The Ixent root public key in ROM (R504): 96 bytes. -/
def rootKey : List Byte := (List.range 96).map rootKeyByte

/-- The SHA-384 hash of the Ixent root key, fused at test (R504). -/
def rootKeyHash : List Byte := sha384 rootKey

/-- A byte of the device-unique key. -/
opaque deviceKeyByte : Nat → Byte

/-- The device-unique key, fused at test (R505): 256 bits. -/
def deviceKey : List Byte := (List.range 32).map deviceKeyByte

/-- The owner public key that a token's signature is checked with in Secured (R504), by its fused hash. -/
opaque ownerKey : List Byte → List Byte

/-- The bank mode that an LPDDR5X configuration record sets (Table 4.6). -/
inductive BankMode where
  | group
  | eight
  | sixteen
deriving DecidableEq, Repr, Inhabited

/-- One channel of an LPDDR5X configuration: its rate in MT/s, ranks, GiB, and whether its devices are x8. -/
structure ChannelConfig where
  rate  : Nat
  ranks : Nat
  gib   : Nat
  x8    : Bool
deriving DecidableEq, Repr, Inhabited

/-- What an LPDDR5X configuration record sets (Table 4.6): the channels in order, the bank mode, and which options it asks
for. -/
structure MemoryConfig where
  channels  : List ChannelConfig
  bankMode  : BankMode
  linkEcc   : Bool
  inlineEcc : Bool
  dvfsc     : Bool
  partialRefresh : Bool
deriving DecidableEq, Repr, Inhabited

/-- What an LPDDR5X configuration record sets, whose layout R98 leaves open. -/
opaque memoryRecord : List Byte → MemoryConfig

/-- The 64 KiB-aligned place in the CP area where the CP keeps a table of a tenant (R105, Table 4.5): tenant, first-level
index, and the second-level index plus 1 for a third-level table or 0. -/
opaque atlasTable : Nat → Nat → Nat → Nat

/-- The IDCODE of the test access port (R519). -/
opaque idcode : Word

/-- A tap of the fixed interpolation table by phase and place, in s1.14 (R373 gives its design, and phase 0 alone). -/
opaque sincTap : Nat → Nat → Nat

/-- The share of a MAC's link, in parts per million, that a talker takes of its class, by channels, format, samples per
packet and course (R392 gives no formula). -/
opaque talkerLoad : Nat → Nat → Nat → Nat → Nat

/-- Whether an interrupt source other than a GPIO pin is a level source (R459 says each is fixed, not which). -/
opaque levelSource : Nat → Bool

/-- The coefficient of one activity counter in the power estimate (R360), by the counter's place. -/
opaque activityCoefficient : Nat → Nat

/-- The fused leakage term at a Tj in 1/16 °C (R360). -/
opaque fusedLeakage : Int → Nat

/-- The leakage term at a Tj, anchored to a measured current (R360). -/
opaque anchoredLeakage : Nat → Int → Nat

/-- Which of the units that remain has the next register window, in rising addresses (R37). -/
opaque windowPick : Nat → Nat

/-- How many 4 KiB pages lie free before a register window, by the number of windows still to come; taken modulo what the
register range leaves (R37). -/
opaque windowGap : Nat → Nat

/-- How many pages a register window has beyond those that its unit's registers need; taken modulo what the register range
and the size field leave (R37). -/
opaque windowSpare : Nat → Nat

/-- Which of the units that remain takes the next place of the Legend from entry 16 on, whose order R37 leaves open. -/
opaque legendPick : Nat → Nat

end Sys2Proof.Config
end

