-- ==== Sys2Proof/Machine/Data.lean ====
section
/-! DEFINITION. Plain containers and the byte-order, bit-field and sign helpers that every chapter uses (R5, R6):
keyed tables, little-endian bytes, and sparse byte memory in one canonical form. -/

namespace Sys2Proof.Machine

/-- A table of `α` by number, holding only the entries that differ from the table's default or that exist. -/
abbrev IMap (α : Type) := List (Nat × α)

/-- The entry at `k`, if there is one. -/
def IMap.find? {α : Type} : IMap α → Nat → Option α
  | [], _ => none
  | (j, a) :: m, k => if j = k then some a else IMap.find? m k

/-- The entry at `k`, or `d` where there is none. -/
def IMap.get {α : Type} (m : IMap α) (d : α) (k : Nat) : α := (IMap.find? m k).getD d

/-- The table with `a` at `k`, keys kept in rising order. -/
def IMap.put {α : Type} : IMap α → Nat → α → IMap α
  | [], k, a => [(k, a)]
  | (j, b) :: m, k, a =>
    if j = k then (k, a) :: m else if k < j then (k, a) :: (j, b) :: m else (j, b) :: IMap.put m k a

/-- The table without `k`. -/
def IMap.del {α : Type} (m : IMap α) (k : Nat) : IMap α := m.filter (fun e => e.1 != k)

/-- The table with the entry at `k`, where there is one, changed by `f`. -/
def IMap.adjust {α : Type} (m : IMap α) (k : Nat) (f : α → α) : IMap α :=
  m.map (fun e => if e.1 = k then (e.1, f e.2) else e)

/-- The entries of a table. -/
def IMap.vals {α : Type} (m : IMap α) : List α := m.map Prod.snd

/-- The numbers of a table. -/
def IMap.keys {α : Type} (m : IMap α) : List Nat := m.map Prod.fst

/-- The lowest number below `n` for which `p` holds (R547). -/
def lowest (n : Nat) (p : Nat → Bool) : Option Nat := (List.range n).find? p

/-- Insert into a sorted list, before its equals. -/
def insertBy {α : Type} (le : α → α → Bool) (a : α) : List α → List α
  | [] => [a]
  | b :: bs => if le a b then a :: b :: bs else b :: insertBy le a bs

/-- A list sorted by `le`, equals kept in their order. -/
def sortBy {α : Type} (le : α → α → Bool) (xs : List α) : List α := xs.foldr (insertBy le) []

/-- The bits `hi:lo` of a number (R6). -/
def bits (v hi lo : Nat) : Nat := (v >>> lo) % 2 ^ (hi + 1 - lo)

/-- One bit of a number. -/
def bitOf (v i : Nat) : Bool := v.testBit i

/-- A number of `w` bits read as two's complement. -/
def signed (w v : Nat) : Int := (BitVec.ofNat w v).toInt

/-- The low `w` bits of a number in two's complement. -/
def wrapTo (w : Nat) (i : Int) : Nat := (BitVec.ofInt w i).toNat

/-- Little-endian bytes of a number (R6). -/
def leBytes : Nat → Nat → List Byte
  | 0, _ => []
  | n + 1, v => BitVec.ofNat 8 v :: leBytes n (v / 256)

/-- The number that little-endian bytes spell (R6). -/
def leNat : List Byte → Nat
  | [] => 0
  | b :: bs => b.toNat + 256 * leNat bs

/-- The `n` bytes from `off`, zero beyond the end. -/
def slice (bs : List Byte) (off n : Nat) : List Byte :=
  let t := bs.drop off
  (t.take n) ++ List.replicate (n - t.length) 0

/-- An unsigned little-endian field of `n` bytes at `off`. -/
def fieldU (bs : List Byte) (off n : Nat) : Nat := leNat (slice bs off n)

/-- A signed little-endian field of `n` bytes at `off`. -/
def fieldS (bs : List Byte) (off n : Nat) : Int := signed (8 * n) (fieldU bs off n)

/-- Split a list into runs of `n`, the last one short; `fuel` bounds the runs. -/
def chunksAux {α : Type} : Nat → Nat → List α → List (List α)
  | 0, _, _ => []
  | _, _, [] => []
  | fuel + 1, n, xs => xs.take n :: chunksAux fuel n (xs.drop n)

/-- Split a list into runs of `n`. -/
def chunks {α : Type} (n : Nat) (xs : List α) : List (List α) := chunksAux xs.length n xs

/-- A list with its element `i` changed; unchanged where there is none. -/
def modAt {α : Type} (xs : List α) (i : Nat) (f : α → α) : List α := xs.modify i f

/-- An integer held between two bounds. -/
def clampInt (lo hi v : Int) : Int := if v < lo then lo else if hi < v then hi else v

/-- A number held between two bounds. -/
def clampNat (lo hi v : Nat) : Nat := if v < lo then lo else if hi < v then hi else v

/-- A saturating count. -/
def satInc (max v n : Nat) : Nat := min max (v + n)

/-- Round a number up to a multiple of `m`. -/
def roundUp (v m : Nat) : Nat := ((v + m - 1) / m) * m

/-- Division rounded up. -/
def ceilDiv (a b : Nat) : Nat := (a + b - 1) / b

/-- The list with no element twice. -/
def dedupNat (xs : List Nat) : List Nat := xs.eraseDups

/-- Sparse bytes: the bytes that differ from the unlisted value, addresses strictly rising. -/
abbrev Mem := List Host.Cell

/-- What a byte that nothing has written reads as. DESIGN CHOICE (assumption 3). -/
def Mem.unlisted : Byte := 0

/-- The canonical form: addresses strictly rising, and no entry equal to the unlisted value. -/
def Mem.wf (m : Mem) : Bool :=
  decide (m.Pairwise (fun a b => a.1 < b.1)) && m.all (fun c => c.2 != Mem.unlisted)

/-- One byte of memory. -/
def Mem.read : Mem → Nat → Byte
  | [], _ => Mem.unlisted
  | c :: m, a => if c.1 = a then c.2 else Mem.read m a

/-- The cells of a run of bytes from `a`, those equal to the unlisted value left out. -/
def Mem.cells : Nat → List Byte → Mem
  | _, [] => []
  | a, b :: bs => if b = Mem.unlisted then Mem.cells (a + 1) bs else (a, b) :: Mem.cells (a + 1) bs

/-- Write a run of bytes from `a`. -/
def Mem.write (m : Mem) (a : Nat) (bs : List Byte) : Mem :=
  m.filter (fun c => c.1 < a) ++ (Mem.cells a bs ++ m.filter (fun c => a + bs.length ≤ c.1))

/-- Read `n` bytes from `a`. -/
def Mem.readRun (m : Mem) (a n : Nat) : List Byte :=
  let w := m.filter (fun c => a ≤ c.1 && c.1 < a + n)
  (List.range n).map (fun i => Mem.read w (a + i))

/-- Fill `n` bytes from `a` with zeros. -/
def Mem.zero (m : Mem) (a n : Nat) : Mem := m.filter (fun c => c.1 < a || a + n ≤ c.1)

/-- A number divided by 2^k, rounded to the nearest, ties upwards. -/
def roundShift (v : Int) (k : Nat) : Int := if k = 0 then v else (v + 2 ^ (k - 1)) >>> k

end Sys2Proof.Machine
end

