-- ==== Sys2Proof/Machine/HostTypes.lean ====
section
/-! DEFINITION. State of tenants, mailboxes, records, events, the device status page, MSI-X, the Legend, Atlas and the
banks (chapters 02 to 04). -/

namespace Sys2Proof.Machine

/-- A command that has not completed, as its later completion must name it (Table 3.9). -/
structure CmdRef where
  tenant : Nat
  index  : Word
  tag    : Word
  opcode : Nat
deriving DecidableEq, Repr

/-- A completion record that has been formed (R68, Table 3.9); `detail` is the byte offset, 0xFFFF where none. -/
structure Record where
  ref    : CmdRef
  status : Nat
  detail : Nat
  time   : Meridian
  words  : List Word
deriving DecidableEq, Repr

/-- An event that has not been delivered (R74). -/
structure Event where
  code  : Nat
  time  : Meridian
  words : List Word
  status : Nat := 0
deriving DecidableEq, Repr

/-- One Atlas table leaf: the asset address of its page and its entry word (Table 4.8). -/
structure Leaf where
  base  : Nat
  entry : Dword
deriving DecidableEq, Repr

/-- A valid entry of a second-level table (R105): a 2 MiB leaf, or the word that points to a third-level table (target 5)
with that table's 64 KiB leaves by asset bits 20:16. -/
inductive AtlasEntry where
  | leaf (word : Dword)
  | table (word : Dword) (entries : IMap Dword)
deriving DecidableEq, Repr

/-- A valid entry of a first-level table (R105): its word, which points to a second-level table (target 5), and that table's
entries by asset bits 32:21. -/
structure AtlasL2 where
  word    : Dword
  entries : IMap AtlasEntry
deriving DecidableEq, Repr

/-- A tenant's tables (R105): the valid entries of its first level by asset bits 44:33. -/
abbrev AtlasTables := IMap AtlasL2

/-- Where a translated request goes (R104). -/
inductive Place where
  | host (key : Nat)
  | phys (addr : Nat)
deriving DecidableEq, Repr

/-- What a command that waits (R546) does when its wait ends. -/
inductive Job where
  /-- ATLAS_MAP: the pool pages are zeroed, then mapped (R102). -/
  | map (leaves : List Leaf) (pages : Nat)
  /-- ATLAS_UNMAP: outstanding requests have ended; pool pages go back (R103 steps 3 to 5). -/
  | unmap (freed : List Leaf)
  /-- BANK_ASSIGN: the bank is zeroed, then assigned (R91). -/
  | bank (bank cls inst : Nat)
  /-- A copy into the Cartouche store: image or sample bytes at a store offset (R314, R386). -/
  | cartouche (words : List Word)
  /-- PREROLL_READ: the copied frame count (R408). -/
  | preroll (words : List Word)
deriving DecidableEq, Repr

/-- How far a command in flight has come (R71, R72). -/
inductive FlightStage where
  /-- Fetched, not yet processed. -/
  | fetched
  /-- Processed, its effect still to be done. -/
  | running
  /-- Processing waits; the issuer's later commands wait for it (R546). -/
  | waiting (job : Job)
  /-- Done; its record is formed and not yet written. -/
  | formed
deriving DecidableEq, Repr

/-- One command in flight (R72). -/
structure Flight where
  cmd    : Cmd
  opcode : Nat
  stage  : FlightStage
  /-- A QUOTA_SET that left every quota as it was: no QUOTA_CHANGED follows its record (R73). -/
  quiet  : Bool := false
deriving DecidableEq, Repr

/-- The quotas of Table 3.1, Atlas-mapped space in MiB. -/
structure Quotas where
  inflight : Nat := 64
  planes   : Nat := 8
  threads  : Nat := 4
  voices   : Nat := 8
  dma      : Nat := 2
  atlasMib : Nat := 4096
deriving DecidableEq, Repr

/-- MBOX_STATUS.state (Table 3.6). -/
inductive MboxState where
  | disabled
  | running
  | stopped
  | draining
deriving DecidableEq, Repr

/-- A tenant's doorbell page and the mailbox behind it (Table 3.3 to Table 3.7, R69, R76). -/
structure Mailbox where
  cmdTail   : Word := 0
  cmdHead   : Word := 0
  cplHead   : Word := 0
  cplTail   : Word := 0
  cmdBaseLo : Word := 0
  cmdBaseHi : Word := 0
  cplBaseLo : Word := 0
  cplBaseHi : Word := 0
  ringCfg   : Word := 0
  irqMod    : Word := 1
  eventLost : Word := 0
  state     : MboxState := .disabled
  fault     : Nat := 0
  phase     : Bool := true
  usable    : Bool := true
  sinceIrq  : Nat := 0
  firstAt   : Meridian := 0
  held      : List Record := []
  events    : List Event := []
  dropped   : Nat := 0
deriving DecidableEq, Repr

/-- The subscriptions of one tenant to one event code (R88). -/
structure Sub where
  code : Nat
  all  : Bool
  on   : List Nat
  off  : List Nat
deriving DecidableEq, Repr

/-- The sending times that an events-per-second limit counts (R540). -/
structure RateLog where
  code     : Nat
  resource : Nat
  times    : List Meridian
deriving DecidableEq, Repr

/-- How far a TENANT_DESTROY has come (R53). -/
inductive Dying where
  | no
  /-- Steps 1 to 2: in-flight commands run to completion, `lost` records discarded so far. -/
  | draining (ref : CmdRef) (lost : Nat)
  /-- Step 3: waits for the next compose boundary of the heads listed. -/
  | boundaries (ref : CmdRef) (lost : Nat) (heads : List Nat)
  /-- Steps 4 to 5: everything is released; the last host request is outstanding. -/
  | released (ref : CmdRef) (lost : Nat)
deriving DecidableEq, Repr

/-- One existing tenant (R49, R50). -/
structure Tenant where
  pasid  : Nat
  quotas : Quotas
  mbox   : Mailbox := {}
  subs   : List Sub := []
  rates  : List RateLog := []
  dying  : Dying := .no
  atlas  : AtlasTables := []
  faults : Nat := 0
deriving DecidableEq, Repr

/-- One MSI-X table entry; vector control bit 0 masks it (PRESUMED masked at reset, PCI Express 4.0; assumption 22). -/
structure MsixEntry where
  addrLo : Word := 0
  addrHi : Word := 0
  data   : Word := 0
  ctrl   : Word := 1
deriving DecidableEq, Repr

/-- The device status page (R77) and the MSI-X structures (Table 3.2). -/
structure DevPage where
  event      : Word := 0
  eventEn    : Word := 0
  pasid0     : Word := 0
  pasid1     : Word := 0
  pasidLock  : Bool := false
  meridianHi : Word := 0
  msix       : IMap MsixEntry := []
  pba        : List Nat := []
  /-- What the last read of BAR0 returned to the host. -/
  readData   : Dword := 0
deriving DecidableEq, Repr

/-- The service states of Table 2.3. -/
inductive Service where
  | active
  | spare
  | quarantined
  | retired
  | suspect
deriving DecidableEq, Repr

/-- The Legend as BAR0 shows it (R34, R40, R42): whether it is built, its generation, the states it shows for the ten
clusters and the LPDDR5X controller, and when the last update ended. Its other words follow from these. -/
structure LegendState where
  built      : Bool := false
  generation : Word := 0
  shown      : List Service := List.replicate 10 .spare
  lpddr      : Service := .active
  /-- Units other than clusters marked Suspect (R344), by type and instance, and those the Legend shows so. -/
  suspects   : List (Nat × Nat) := []
  shownSuspects : List (Nat × Nat) := []
  lastUpdate : Meridian := 0
  everUpdated : Bool := false
deriving DecidableEq, Repr

/-- A bank's assignment (Table 4.3), its error registers (R543) and what tab-core segments it holds (R259). -/
structure Bank where
  cls        : Nat := 0
  inst       : Nat := 0
  ueCount    : Nat := 0
  collide    : Nat := 0
  ceCount    : Nat := 0
  errAddr    : Word := 0
deriving DecidableEq, Repr

/-- A register field that the hardware has set or updated (R10): an RW1C bit, or an RW field that the hardware updates. -/
inductive HwField where
  | devEvent (bit : Nat)
  | cplHead (tenant : Nat)
  | mboxEnable (tenant : Nat)
  | auxData (port : Nat)
  | auxOverrun (port : Nat)
  | pwmTrunc (pwm : Nat)
  | wakeCause (source : Nat)
  | calFired
  | pllLost (pll : Nat)
  | gateRefused
  | srcOverflow (source : Nat)
  | srcLatched (source : Nat)
  | srcEdge (source : Nat)
deriving DecidableEq, Repr

/-- A run of bytes that a bank port has written (R92). -/
structure BankWrite where
  portA : Bool
  addr  : Nat
  size  : Nat
deriving DecidableEq, Repr

/-- What clock cycles are told apart by: the Meridian ticks that have passed, whether Meridian runs or not; the fields that the
hardware has set in the present PCLK cycle (R10); and the writes of the present FCLK cycle to banks (R92). -/
structure CycleState where
  elapsed : Nat := 0
  hwSet   : List HwField := []
  writes  : List BankWrite := []
deriving DecidableEq, Repr

/-- The memories behind the chip (Table 4.1). `phys` is by internal physical address (Table 4.2), `host` by
PASID times 2^64 plus host address, `ue` and `ce` the words whose stored check bits are wrong beyond and within
correction, `hostFail` the host ranges whose requests the host answers with an error completion (R80), and
`lpddrBytes` how much of the LPDDR5X range is populated. -/
structure Memories where
  phys       : Mem := []
  host       : Mem := []
  ue         : List Nat := []
  ce         : List Nat := []
  hostFail   : List (Nat × Nat) := []
  lpddrBytes : Nat := 0
  /-- The configured LPDDR5X peak in MB/s (R98, R219). -/
  lpddrPeak  : Nat := 0
  /-- The populated LPDDR5X channels (R99). -/
  lpddrChannels : Nat := 0
  /-- The stacked DRAM and the LPDDR5X are in self-refresh, each until its first access (R97). -/
  dramRefresh  : Bool := false
  lpddrRefresh : Bool := false
deriving DecidableEq, Repr

end Sys2Proof.Machine
end

