-- ==== Sys2Proof/Machine/DisplayTypes.lean ====
section
/-! DEFINITION. State of heads, planes, commits, the Cartouche and its signatures, clusters and ports (chapters 05 to 08
and 11 to 13). -/

namespace Sys2Proof.Machine

/-- A rectangle of head pixels. -/
structure Rect where
  x : Nat := 0
  y : Nat := 0
  w : Nat := 0
  h : Nat := 0
deriving DecidableEq, Repr

/-! ### Planes -/

/-- The parameters PLANE_SET gives a plane of any kind (Tables 5.5, 5.7, 5.9, 6.4, 6.5); a field that the kind does not
have keeps its default. `sx`, `sy` are scroll or origin; `addr` is tile or image address. -/
structure Params where
  visible : Bool := false
  wrap    : Bool := false
  zeroT   : Bool := false
  premul  : Bool := false
  evenOdd : Bool := false
  big     : Bool := false
  format  : Nat := 0
  palBase : Nat := 0
  dest    : Rect := {}
  mapAddr : Nat := 0
  addr    : Nat := 0
  mapW    : Nat := 1
  mapH    : Nat := 1
  tiles   : Nat := 1
  sx      : Int := 0
  sy      : Int := 0
  alpha   : Nat := 0
  a       : Int := 0
  b       : Int := 0
  c       : Int := 0
  d       : Int := 0
  cx      : Int := 0
  cy      : Int := 0
  px      : Int := 0
  py      : Int := 0
  scaler  : Nat := 0
  srcX    : Nat := 0
  srcY    : Nat := 0
  srcW    : Nat := 1
  srcH    : Nat := 1
  /-- The solid colour in force for the line, where one was written (parameter 0x12). -/
  colour  : Option Nat := none
deriving DecidableEq, Repr

/-- A canvas (Table 6.1). -/
structure Canvas where
  format : Nat
  enc    : Nat
  width  : Nat
  height : Nat
  pitch  : Nat
  addr   : Nat
  chroma : Nat
  cpitch : Nat
deriving DecidableEq, Repr

/-- An object entry (Table 5.8). -/
structure ObjEntry where
  x      : Int
  y      : Int
  w      : Nat
  h      : Nat
  image  : Nat
  alpha  : Nat
  enable : Bool
  affine : Bool
  cls    : Nat
  vflip  : Bool
  hflip  : Bool
  pal    : Nat
  format : Nat
  a      : Int
  b      : Int
  c      : Int
  d      : Int
  imgW   : Nat
  imgH   : Nat
deriving DecidableEq, Repr

/-- Polyphase scaler coefficients, 512 horizontal and 384 vertical (R166). -/
structure Coefs where
  h : List Int
  v : List Int
deriving DecidableEq, Repr

/-- A directed edge of a flattened path, in 1/16 pixel (R171). -/
structure Edge where
  x0 : Int
  y0 : Int
  x1 : Int
  y1 : Int
deriving DecidableEq, Repr

/-- A contour plane's paint (R176 to R178): `ramp` holds 256 ARGB2101010 colours for a gradient. -/
structure Paint where
  kind   : Nat := 0
  spread : Nat := 0
  colour : Nat := 0xFFFFFFFF
  ga     : Int := 0
  gb     : Int := 0
  gc     : Int := 0
  cx     : Int := 0
  cy     : Int := 0
  r      : Int := 16
  ramp   : List Nat := []
deriving DecidableEq, Repr

/-- The committed content of a plane (R118, R151, R189). -/
structure PlaneContent where
  params   : Option Params := none
  canvas   : Option Canvas := none
  objects  : List ObjEntry := []
  coefs    : Option Coefs := none
  edges    : List Edge := []
  paint    : Paint := {}
  transfer : Nat := 0
deriving DecidableEq, Repr

/-- A live plane (R116, R117, R119); `live` is its parameters as line writes have left them (R145), and `poly` the
polyphase scaler it holds (R163). -/
structure Plane where
  gen     : Nat
  owner   : Nat
  z       : Nat
  cls     : Nat
  affine  : Bool
  content : PlaneContent := {}
  live    : Option Params := none
  poly    : Option Nat := none
  dying   : Option CmdRef := none
deriving DecidableEq, Repr

/-- What a tenant has staged for one plane (R118). -/
structure PlaneStage where
  params   : Option Params := none
  canvas   : Option Canvas := none
  objects  : Option (List ObjEntry) := none
  coefs    : Option Coefs := none
  edges    : Option (List Edge) := none
  paint    : Option Paint := none
  transfer : Option Nat := none
deriving DecidableEq, Repr

/-! ### Palettes, LUTs, line lists, frets -/

/-- A palette: its owner, its committed words (none written: all 0) and its words as line writes have left them (R124,
R126); `zero` marks a release whose zeroing waits for the next boundary. -/
structure Palette where
  owner : Option Nat := none
  words : List Nat := []
  live  : List Nat := []
  zero  : Bool := false
deriving DecidableEq, Repr

/-- A transfer LUT slot (R187): 3,072 entries, or the linear table where the list is empty. -/
structure LutSlot where
  owner  : Option Nat := none
  table  : List Nat := []
  linear : Bool := false
deriving DecidableEq, Repr

/-- One write of a line list (Table 8.2): a parameter write by handle or a palette word. -/
inductive LWrite where
  | param (handle id value : Nat)
  | pal (word value : Nat)
deriving DecidableEq, Repr

/-- The writes that a line list makes for one line, with the entries it spends on them. -/
structure LLine where
  line    : Nat
  entries : Nat
  writes  : List LWrite
deriving DecidableEq, Repr

/-- A line-list slot (R209): its owner and its committed list. -/
structure ListSlot where
  owner : Option Nat := none
  lines : List LLine := []
deriving DecidableEq, Repr

/-- The settings of a fret (Table 8.3). -/
structure FretSet where
  oneShot  : Bool
  composer : Bool
  armed    : Bool
  line     : Nat
deriving DecidableEq, Repr

/-- A fret (R214, R215): the settings in force, and those that take effect at the next entry or boundary. -/
structure Fret where
  owner : Nat
  cur   : Option FretSet := none
  next  : Option FretSet := none
deriving DecidableEq, Repr

/-! ### Tab threads -/

/-- The settings of TAB_START (Table 10.2). -/
structure TabSet where
  entry    : Word := 0
  first    : Nat := 0
  last     : Nat := 0
  stride   : Nat := 1
  budget   : Nat := 1
  carry    : Bool := false
  fastBudget : Nat := 0
  fret0    : Nat := 0xFF
  fret1    : Nat := 0xFF
  handler0 : Word := 0
  handler1 : Word := 0
deriving DecidableEq, Repr

/-- A staged TAB_START or TAB_STOP (R261, R262). -/
inductive TabStage where
  | start (gen : Nat) (t : TabSet)
  | stop (gen : Nat) (free : Bool)
deriving DecidableEq, Repr

/-! ### Stages and commits -/

/-- What one tenant has staged for one head (R118, R197, R209, R261). -/
structure Stage where
  planes   : IMap PlaneStage := []
  palettes : IMap (List Nat) := []
  luts     : IMap (List Nat) := []
  post     : Option (List Nat) := none
  dither   : Option (Nat × Nat) := none
  lists    : IMap (Option (List LLine)) := []
  tabs     : IMap TabStage := []
deriving DecidableEq, Repr

/-- One member of an accepted commit (R285 to R288): its head, the state it brings, whether it has applied, and the
frame count and time of the boundary where it did. -/
structure Member where
  head    : Nat
  stage   : Stage
  applied : Bool := false
  missed  : Bool := false
  frame   : Word := 0
  time    : Meridian := 0
deriving DecidableEq, Repr

/-- An accepted commit that has not completed. `attempt` counts the arm attempts of a group (R346), `armed` that it has
been given its boundaries, and `late` that its record carries E_LATE. -/
structure Commit where
  ref       : CmdRef
  at_       : Meridian
  notBefore : Option Meridian
  members   : List Member
  late      : Bool := false
  wait      : List Nat := []
  attempt   : Nat := 0
  leftOut   : List Nat := []
deriving DecidableEq, Repr

/-- What a commit group found on a member head before it applied, kept until the head's next boundary (R347): the
group's stage there, and a stage that brings the issuer's old committed state back. `back` is set once a unit failed. -/
structure Undo where
  ref     : CmdRef
  head    : Nat
  group   : Stage
  planes  : IMap PlaneContent
  /-- The polyphase scalers that the planes held then. -/
  polys   : IMap Nat := []
  inverse : Stage
  back    : Bool := false
  /-- When the group applied on this head. -/
  at_     : Meridian := 0
  /-- When the last member of the group applied. -/
  doneAt  : Option Meridian := none
deriving DecidableEq, Repr

/-! ### Cartouche cells and watch regions -/

/-- A Cartouche cell's settings (Table 12.3). -/
structure Cell where
  rect   : Rect
  fill   : Nat
  images : List Nat
  state  : Nat
  blink  : Bool
  blinkState : Nat
  onMs   : Nat
  offMs  : Nat
  at_    : Meridian := 0
  /-- Its definition has applied, and no line 0 has been entered since. -/
  newly  : Bool := true
deriving DecidableEq, Repr

/-- What a cell shows for a whole frame, latched at line 0 (R320): its rectangle, fill, the state latched, and the image
by its number, format and store pages (none: the fill colour). -/
structure Shown where
  cell   : Nat
  rect   : Rect
  fill   : Nat
  state  : Nat
  image  : Option (Nat × Nat × List Nat)
deriving DecidableEq, Repr

/-- A watch region's settings (Table 12.4). -/
structure RegionSet where
  refCheck : Bool
  freeze   : Bool
  bound    : Option Nat
  freezeK  : Nat
  missLimit : Nat
  rect     : Rect
deriving DecidableEq, Repr

/-- A watch region (R322 to R328): `crc` is the signature being computed, `prev` that of the previous frame, `last` that
of the last evaluated frame. -/
structure Region where
  set    : RegionSet
  refs   : Option (List Word) := none
  miss   : Nat := 0
  u      : Nat := 0
  prev   : Option Word := none
  last   : Word := 0
  crc    : Word := 0
  fault  : Bool := false
deriving DecidableEq, Repr

/-- A change that applies at an entry of the beam into line 0 at least 100 µs after processing (R319, R322, R325). -/
inductive LineZero where
  | cellState (cell state : Nat) (blink : Bool) (blinkState onMs offMs : Nat)
  | region (r : Nat) (set : Option RegionSet)
  | refs (r : Nat) (refs : List Word)
deriving DecidableEq, Repr

/-- A waiting LineZero change: its command, when it was processed, and the instant from which an entry counts. `porchDue`: the
repeats of front-porch lines are to stop for it (R319). -/
structure LineZeroWait where
  ref    : CmdRef
  at_    : Meridian
  after  : Meridian
  change : LineZero
  porchDue : Bool := false
deriving DecidableEq, Repr

/-- A cell definition (some) or removal (none) that waits for a boundary (R318). -/
structure CellWait where
  ref  : CmdRef
  at_  : Meridian
  cell : Nat
  set  : Option Cell
deriving DecidableEq, Repr

/-! ### Heads -/

/-- A head's timing (Table 11.1). -/
structure Timing where
  deadline : Nat
  rate : Nat
  hA : Nat
  hF : Nat
  hS : Nat
  hB : Nat
  vA : Nat
  vF : Nat
  vS : Nat
  vB : Nat
  hPos : Bool
  vPos : Bool
deriving DecidableEq, Repr

/-- A pending HEAD_TIMING_SET (R279): first timing, change of a running one, deadline alone, or off. -/
inductive TimingChange where
  | first (t : Timing)
  | change (t : Timing)
  | deadline (t : Timing)
  | off
deriving DecidableEq, Repr

/-- SCAN_STATE.state (Table 11.11). -/
inductive ScanState where
  | off
  | starting
  | composing
  | still
  | changing
deriving DecidableEq, Repr

/-- A line whose composition a cluster had begun when another took its head over: the blocks of its writes, and the epoch
that they carry (R96, R342). -/
structure StaleLine where
  epoch  : Nat
  blocks : Nat
deriving DecidableEq, Repr

/-- The captured frame in progress (R299 to R302): `tail` holds bytes short of a 64-byte block. -/
structure CapFrame where
  frame   : Word
  time    : Meridian
  page    : Nat
  written : Nat := 0
  tail    : List Byte := []
  status  : Option Nat := none
deriving DecidableEq, Repr

/-- A head capture (R297). -/
structure Capture where
  owner  : Nat
  decimate : Nat
  rect   : Rect
  pages  : Nat
  ring   : Nat
  cons   : Nat
  pw     : Word := 0
  phase  : Nat := 0
  frame  : Option CapFrame := none
  skippedSince : Nat := 0
  /-- `some`: the capture stops after the frame in progress, with the records of the commands that asked for it. -/
  stop   : Option (List CmdRef) := none
deriving DecidableEq, Repr

/-- A tenant's share of a frame's overflow, overdraw or data-error report. -/
structure Tally where
  key   : Nat
  count : Nat
  w0    : Nat
  w1    : Nat
  w2    : Nat
deriving DecidableEq, Repr

/-- The counters of one composed frame (R148, R180, R201, R213, R223, R268, R273). -/
structure FrameStats where
  dataErr   : IMap Tally := []
  ovfFirst  : Option Nat := none
  ovfLines  : Nat := 0
  ovfOwners : IMap Tally := []
  maxObjects : Nat := 0
  maxPixels : Nat := 0
  overdraw  : Nat := 0
  overPos   : Option (Nat × Nat) := none
  overOwners : IMap Tally := []
  maxOffered : Nat := 0
  maxKept   : Nat := 0
  srcPixels : IMap Nat := []
  peakLine  : Nat := 0
  peakEdges : Nat := 0
  peakWrites : Nat := 0
  orphans   : IMap Tally := []
  tabOver   : IMap Tally := []
  tabIgn    : IMap Tally := []
  tabDropped : IMap Nat := []
  tabSkipped : IMap Nat := []
  faulted   : List Nat := []
  /-- Tab threads whose ATLAS_FAULT of this frame has been raised (R109). -/
  tabFaulted : List Nat := []
deriving DecidableEq, Repr

/-- The lead state of a head (R206 to R208). -/
structure LeadState where
  lead  : Nat := 0
  min   : Nat := 0
  max   : Nat := 0
  calm  : Nat := 0
  capped : Bool := false
  pend  : List (CmdRef × Nat × Nat) := []
deriving DecidableEq, Repr

/-- The composer of a head: the frame it composes, the next line to start, whether a line is in progress, the last line
complete of that frame (`done` lines), the frame's least margin with its line, the frame CRC, and what the last frames
were for Still (R204, R207, R291). -/
structure Composer where
  frame   : Word := 0
  next    : Nat := 0
  busy    : Bool := false
  running : Bool := false
  done    : Nat := 0
  /-- Frames up to this one may be scanned from the kept frame in whole. -/
  kept    : Option Word := none
  /-- The frame composed before this one, and how many of its lines came to have tokens (R15, R283). -/
  prev    : Word × Nat := (0, 0)
  margin  : Option (Int × Nat) := none
  lastMargin : Option (Int × Nat) := none
  /-- The margin of the last composed frame, as its register keeps it (R223). -/
  shownMargin : Option (Int × Nat) := none
  crc     : Word := 0
  lastCrc : Option Word := none
  equal   : Nat := 0
  disturbed : Bool := false
  /-- The pixels of the line in progress, four linear components packed as the frame store holds them. -/
  line    : List Nat := []
  /-- Line 0's wakes must still be served before line 0 is composed (R263). -/
  waitZero : Bool := false
  /-- The wakes for line 0 were issued with the last active line of the frame before (R263). -/
  zeroIssued : Bool := false
  /-- Planes that contribute nothing to the line in progress from a pixel on (R108). -/
  cuts    : List (Nat × Nat) := []
  /-- The frame's counters before the blending of the line in progress (R190, R201). -/
  before  : FrameStats := {}
  /-- The epoch that the writes of the line in progress carry (R96). -/
  epoch   : Nat := 0
  /-- Lines that replaced clusters had in progress, their writes still to come (R96). -/
  stale   : List StaleLine := []
deriving DecidableEq, Repr

/-- Frame lock of a head (R26 to R31): its role, the correction in force in ppm, and the lock count. -/
structure LockState where
  role    : Nat := 0
  t0      : Dword := 0
  pend    : List (CmdRef × Nat × Dword) := []
  locked  : Bool := false
  everLocked : Bool := false
  good    : Nat := 0
  trim    : Int := 0
  stretched : Bool := false
  lost    : Bool := false
  addLines : Nat := 0
deriving DecidableEq, Repr

/-- One head: its timing and beam (11), planes and their shared resources (05 to 08), composer, Cartouche (12), capture,
frame lock and route, and its place in the degradation order (13). -/
structure Head where
  timing   : Option Timing := none
  pendTiming : List (Option CmdRef × TimingChange) := []
  /-- The HEAD_TIMING_SETs whose records the first boundary under the new timing writes (R279). -/
  timingRecs : List CmdRef := []
  state    : ScanState := .off
  /-- Scanning has stopped for a mode, the timing kept (R415, R419). -/
  stopped  : Bool := false
  stopDue  : Bool := false
  cluster  : Option Nat := none
  epoch    : Nat := 0
  fenced   : Nat := 0
  frames   : Word := 0
  line     : Nat := 0
  lineAt   : Meridian := 0
  frameAt  : Meridian := 0
  /-- The nominal time of the last compose boundary taken (R286). -/
  nominal  : Meridian := 0
  /-- The compose boundaries that are due and have not been taken: their frames and their nominal times (R205, R286). -/
  due      : List (Word × Meridian) := []
  /-- The last frame whose compose boundary has become due or has been passed over. -/
  lastDue  : Option Word := none
  frameTime : Nat := 0
  gens     : IMap Nat := []
  planes   : IMap Plane := []
  palettes : IMap Palette := []
  luts     : IMap LutSlot := []
  /-- The post-blend LUT: empty for the sRGB encode table (R195). -/
  post     : List Nat := []
  postNext : Option (List Nat) := none
  depth    : Nat := 0
  dmode    : Nat := 1
  ditherNext : Option (Nat × Nat) := none
  phase    : Nat := 0
  phaseHold : Bool := true
  newly    : Bool := false
  /-- A change of the deadline alone has applied: the phase returns to 0 with the next frame (R200). -/
  phaseReset : Bool := false
  lists    : IMap ListSlot := []
  frets    : IMap Fret := []
  viewports : IMap Rect := []
  pendViews : List (CmdRef × Nat × Rect) := []
  stages   : IMap Stage := []
  lead     : LeadState := {}
  comp     : Composer := {}
  cur      : FrameStats := {}
  last     : FrameStats := {}
  /-- The counters of the frame that is complete, which the next boundary shows (R148). -/
  ended    : Option FrameStats := none
  still    : Bool := false
  stillOn  : Bool := true
  stillFrames : Nat := 4
  vrrMin   : Nat := 0
  pendStill : List (CmdRef × Bool × Nat × Nat) := []
  /-- The first boundary that may follow the request that ended Still state (R294). -/
  wakeAt   : Option Meridian := none
  lowered  : Bool := false
  /-- Front-porch lines still to be repeated in this frame (R293). -/
  porch    : Nat := 0
  repeatFirst : Option Nat := none
  repeatLines : Nat := 0
  repeatPixels : Nat := 0
  lastRepeatLines : Nat := 0
  underruns : Nat := 0
  lastPixel : Nat := 0
  stillFrame : Bool := false
  lock     : LockState := {}
  capture  : Option Capture := none
  capSkipped : Nat := 0
  capTruncated : Nat := 0
  port     : Option (Nat × Nat) := none
  cells    : IMap Cell := []
  /-- The cells that clip tenant planes in the frame being composed (R318). -/
  clip     : List Rect := []
  cellWaits : List CellWait := []
  shown    : List Shown := []
  regions  : IMap Region := []
  /-- The reactions set by region: bits and pin (R328). -/
  reactions : IMap (Nat × Nat) := []
  lineZero : List LineZeroWait := []
  /-- Stages 1 to 3 are bypassed for Tell, until the first frame composed after it (R415, R420). -/
  tellBypass : Bool := false
  fallback : Bool := false
  fallbackOn : Bool := false
  fallbackColour : Nat := 0
  /-- The head is in the fallback of a lost cluster (R341), or of Returned (R516). -/
  orphaned : Bool := false
  pins     : List Nat := []
  priority : Nat := 128
  level    : Nat := 0
  held     : Bool := false
  parity   : Bool := false
deriving DecidableEq, Repr

/-! ### The Cartouche store -/

/-- A loaded Cartouche image (R312, R315, R316). -/
structure CImage where
  format  : Nat
  w       : Nat
  h       : Nat
  pages   : List Nat
  damaged : Bool := false
  bad     : List Nat := []
deriving DecidableEq, Repr

/-- A replacement that heads have yet to switch to (R315). -/
structure CReplace where
  ref   : CmdRef
  image : Nat
  new   : CImage
  heads : List Nat
deriving DecidableEq, Repr

/-- A loaded Cartouche sample (R386). -/
structure CSample where
  format : Nat
  length : Nat
  pages  : List Nat
deriving DecidableEq, Repr

/-- A load into the store that is being copied (R314, R386, R546). -/
structure CLoad where
  ref    : CmdRef
  sample : Bool
  number : Nat
  format : Nat
  w      : Nat
  h      : Nat
  pages  : List Nat
  data   : List Byte
deriving DecidableEq, Repr

/-- The Cartouche store's directory (R311) and CSTORE.ERR; `held` are sample pages kept for a voice still playing a
replaced copy. -/
structure CStore where
  images  : IMap CImage := []
  samples : IMap CSample := []
  loads   : List CLoad := []
  replaces : List CReplace := []
  kept    : List (Nat × List Nat) := []
  ce      : Nat := 0
  ue      : Nat := 0
deriving DecidableEq, Repr

/-! ### Ports -/

/-- A route (Table 11.9). -/
structure Route where
  mode  : Nat
  lanes : Nat
  rate  : Nat
  heads : List (Option Nat)
deriving DecidableEq, Repr

/-- A route that is to be trained (R306): its command if it has one, and the heads whose frames must end first. -/
structure RouteWait where
  ref   : Option CmdRef
  route : Route
  heads : List Nat
deriving DecidableEq, Repr

/-- A display port, DP0-DP3 then AP0-AP3 (R304 to R308), with its AUX registers (R544). `starved` counts, by stream, the
pixels sent again in the frame. -/
structure Port where
  route    : Option Route := none
  pend     : List RouteWait := []
  training : Bool := false
  trained  : Bool := false
  sending  : Bool := false
  hpd      : Bool := false
  gotLanes : Nat := 0
  gotRate  : Nat := 0
  starved  : IMap Nat := []
  auxData  : List Word := [0, 0, 0, 0]
  auxAddr  : Word := 0
  auxCtl   : Word := 0
  auxBusy  : Bool := false
  auxWait  : Bool := false
  auxDone  : Bool := false
  auxOverrun : Bool := false
  auxCount : Nat := 0
  auxResult : Nat := 0
deriving DecidableEq, Repr

/-! ### Clusters, the arbiter and the governor -/

/-- A cluster (R337 to R344): its service state, the heartbeats missed in a row, whether its self-test is due or runs,
and whether it serves though Suspect. `takeAt` is the earliest boundary of a takeover into it. -/
structure Cluster where
  service  : Service := .spare
  missed   : Nat := 0
  head     : Option Nat := none
  /-- OBJEV.OVERFLOW.ovf with first_line, kept until the evaluator next begins to serve a head (R148). -/
  ovf      : Option Nat := none
deriving DecidableEq, Repr

/-- A takeover that waits (R339, R341, R344): the head, the new cluster, the cluster it replaces, and the earliest
boundary; `donor` is the head that must first give up its cluster. -/
structure Takeover where
  head    : Nat
  new     : Option Nat
  old     : Option Nat
  after   : Meridian
  donor   : Option Nat := none
deriving DecidableEq, Repr

/-- What an arm-then-apply change does (Table 13.2). -/
inductive ArmKind where
  /-- A commit group, by the index of its commit's command. -/
  | group (ref : CmdRef)
  /-- A CCLK step to a frequency; `up` where it raises it. -/
  | cclk (mhz : Nat)
  /-- A clock plan. -/
  | plan (ref : CmdRef) (cclk fclk pclk cp : Nat)
  /-- A mode change, whose state stands in Power.change. -/
  | mode
deriving DecidableEq, Repr

/-- An armed arm-then-apply change (R345 to R347). -/
structure ArmChange where
  id      : Nat
  kind    : ArmKind
  applyAt : Meridian
  attempt : Nat := 0
  missed  : List (ArmUnit × Nat) := []
  leftOut : List ArmUnit := []
  applied : Bool := false
  /-- When the change applied, for its acknowledgements (R347). -/
  appliedAt : Meridian := 0
  failed  : List ArmUnit := []
  /-- The setting before the change: CCLK, or clock plan, or mode code; and the CCLK of units that earlier changes left out. -/
  old     : List Nat := []
  oldKeeps : List (ArmUnit × Nat) := []
  /-- The domains that earlier mode changes left as they were. -/
  oldDomains : List (Nat × Bool) := []
deriving DecidableEq, Repr

/-- One maintenance activity (Table 13.3). `cluster` is the one activity 4 is at, `next` the Spare one to test next. -/
structure Activity where
  period   : Nat
  enabled  : Bool := true
  lastStart : Meridian := 0
  running  : Bool := false
  queued   : Option Meridian := none
  cluster  : Option Nat := none
  /-- The run-now commands that the run in progress answers, and those that the queued run will answer (R363). -/
  refs     : List CmdRef := []
  waitRefs : List CmdRef := []
  next     : Nat := 0
deriving DecidableEq, Repr

/-- The arbiter: its activities by code, and the quarantined clusters whose self-tests are due, first in the queue
(R343, R351). -/
structure Arbiter where
  act   : IMap Activity := []
  tests : List Nat := []
deriving DecidableEq, Repr

/-- The governor (R353 to R364). Times are those at which a rule last acted or a condition last began to hold. -/
structure Governor where
  tj        : Int := 0
  sensor    : Nat := 0
  avg1ms    : Nat := 0
  window    : List Nat := []
  avg1s     : Nat := 0
  sustained : Nat := 28
  peak      : Nat := 36
  burst     : Nat := 60
  policy    : Option (Nat × Nat × Nat) := none
  unanchored : Bool := false
  lastAnchor : Meridian := 0
  /-- The current of the last anchor (R360). -/
  anchor    : Option Nat := none
  thermtrip : Bool := false
  downAt    : Option Meridian := none
  upAt      : Option Meridian := none
  cool105   : Option Meridian := none
  cool113   : Option Meridian := none
  degAt     : Option Meridian := none
  resAt     : Option Meridian := none
  overSince : Option Meridian := none
  /-- The heads of the degradation steps in force, the last step first (R354, R356). -/
  steps     : List Nat := []
deriving DecidableEq, Repr

/-- The display side of the part. -/
structure Display where
  heads    : IMap Head := []
  commits  : List Commit := []
  cart     : CStore := {}
  ports    : IMap Port := []
  clusters : IMap Cluster := []
  takeovers : List Takeover := []
  arms     : List ArmChange := []
  armNext  : Nat := 0
  arbiter  : Arbiter := {}
  gov      : Governor := {}
  undos    : List Undo := []
  fsyncAt  : Option Meridian := none
  /-- The time between the last two FSYNC edges, the source's frame period (R28). -/
  fsyncPeriod : Option Nat := none
  /-- Edges were missing before the last one. -/
  fsyncGap : Bool := false
  gptp     : IMap (Bool × Int × Nat) := []
  bootHead : Option Nat := none
deriving DecidableEq, Repr

end Sys2Proof.Machine
end

