-- ==== Sys2Proof/Machine/CoreTypes.lean ====
section
/-! DEFINITION. State of the TISA cores (chapters 09, 10), of the audio engine and the Ethernet MACs (14), and of the
Pegbox (15). -/

namespace Sys2Proof.Machine

/-! ### TISA threads -/

/-- The architectural state of one TISA thread (R226): PC, the data and return stacks top first, P0-P7, the fields of SW
(Table 9.2), and the shadow data stack and P registers of fast entries (R242). -/
structure TRegs where
  pc    : Word := 0
  d     : List Word := []
  r     : List Word := []
  p     : List Word := List.replicate 8 0
  fault : Nat := 0
  fast  : Bool := false
  wrIgn : Bool := false
  ie    : Bool := false
  v     : Bool := false
  c     : Bool := false
  n     : Bool := false
  z     : Bool := false
  sd    : List Word := []
  sp    : List Word := List.replicate 8 0
  trap  : Nat := 0
deriving DecidableEq, Repr

/-- A read request of a tab thread's load as it was issued: bytes of its own segments, bytes of its owner's asset space at
the place they were translated to then (R104), or a request whose translation faulted, with the cause. -/
inductive LoadReq where
  | segment (addr n : Nat)
  | asset (addr n : Nat) (place : Place)
  | faulted (addr cause : Nat)
deriving DecidableEq, Repr

/-- What a parked thread waits for (R231, R232): a load with its requests, how its value is taken and the pointer it
increments, a FENCE, or the next wake of a thread whose fast entry executed WAITL or was halted. `cont` is the rest of a
custom sequence (R247, R251): its micro-ops, the immediate and the extension literal. -/
inductive Park where
  | load (reqs : List LoadReq) (size : Nat) (sext : Bool) (post : Option Nat) (units : Nat)
      (cont : Option (List Word × Word × Word))
  | fence
  | wake
deriving DecidableEq, Repr

/-- What a tab thread is doing (Table 10.6). -/
inductive TabState where
  | loaded
  | waiting
  | serving
  | faulted
  | halted
deriving DecidableEq, Repr

/-- A loaded tab thread (R259 to R272): its segments as physical addresses, its settings, and its run state. `fast` is
the fast source being served and `wasWaiting` whether the entry interrupted a waiting thread; `wakes` are the lines
of wakes issued and not ended. -/
structure Thread where
  gen       : Nat
  owner     : Nat
  codeAt    : Nat
  codeSize  : Nat
  dataAt    : Nat
  dataSize  : Nat
  writable  : Bool
  assetBase : Nat
  set       : TabSet := {}
  running   : Bool := false
  state     : TabState := .loaded
  regs      : TRegs := {}
  line      : Nat := 0
  charge    : Nat := 0
  fastCharge : Nat := 0
  lastCharge : Nat := 0
  wakes     : List Nat := []
  fast      : Option Nat := none
  wasWaiting : Bool := false
  pending   : List Nat := []
  park      : Option Park := none
  breaks    : List (Nat × Word) := []
  stepping  : Option (CmdRef × Nat) := none
  haltDue   : List CmdRef := []
  /-- The next instruction issues though a breakpoint stands at it. -/
  passBreak : Bool := false
  /-- TRAP 0 halted the thread, and a resume goes on after it (R272). -/
  afterHalt : Bool := false
  /-- The first cycle of its core in which the thread may issue again (R244, R257). -/
  readyAt   : Nat := 0
  /-- The threads that must still issue before this one, which has executed YIELD (R241). -/
  yielded   : List Nat := []
deriving DecidableEq, Repr

/-- The issue order of one tab core (R257): the cycle of its last issue, and the thread that issued then. -/
structure CoreSched where
  cycle : Nat := 0
  last  : Option Nat := none
deriving DecidableEq, Repr

/-- A raster write made by a tab thread for a line (R239, R265): the thread's owner, the line, the write, the core of the
cluster it came from, and the cycle it issued in. -/
structure TabWrite where
  owner : Nat
  line  : Nat
  write : LWrite
  core  : Nat
  cycle : Nat
deriving DecidableEq, Repr

/-- The tab threads of one head, by slot, with the generation of each slot and the writes waiting for their lines. -/
structure HeadTabs where
  gens    : IMap Nat := []
  threads : IMap Thread := []
  writes  : List TabWrite := []
  /-- The threads that a commit group has changed, as they were before it (R347). -/
  kept    : IMap Thread := []
  /-- The slots whose TAB_START has applied at the boundary in progress (R263). -/
  started : List Nat := []
  /-- The issue order of the two cores that run the threads (R257). -/
  cores   : IMap CoreSched := []
deriving DecidableEq, Repr

/-- The decode table and microcode store that every tab core holds (R246): the entries installed, and the micro-ops of
their ranges. -/
structure Microcode where
  entries : IMap Dword := []
  ops     : IMap Word := []
deriving DecidableEq, Repr

/-- The CP as a TISA core (R225): its thread state, and whether IDLE holds it. -/
structure CpCore where
  regs : TRegs := {}
  idle : Bool := false
deriving DecidableEq, Repr

/-! ### Audio -/

/-- A send (Table 14.3): target 1 a bus, 2 a lane. -/
structure Send where
  target : Nat
  index  : Nat
  ch     : Nat
  ga     : Nat
  gb     : Nat
deriving DecidableEq, Repr

/-- A voice's source (Table 14.2): format, address or stream source, length, loop, and a wavetable's samples. -/
structure VSource where
  format : Nat
  addr   : Nat
  length : Nat
  loop   : Option Nat
  table  : List Int := []
  /-- The store pages of a Cartouche sample, which the voice keeps until it goes idle or restarts (R386). -/
  pages  : List Nat := []
deriving DecidableEq, Repr

/-- Envelope phases (R375) and the idle voice. -/
inductive EnvPhase where
  | idle
  | attack
  | decay
  | sustain
  | release
deriving DecidableEq, Repr

/-- A voice (R369 to R378). `pos` is P in units of 2^-24; `level` is E; `out` is v of the last boundary. -/
structure Voice where
  gen     : Nat := 0
  owner   : Option Nat := none
  kind    : Nat := 0
  course  : Nat := 0
  src     : Option VSource := none
  pos     : Nat := 0
  step    : Nat := 0x01000000
  gain    : Nat := 0
  attack  : Nat := 0
  decay   : Nat := 0
  sustain : Nat := 0
  release : Nat := 0
  phase   : EnvPhase := .idle
  level   : Nat := 0
  relStep : Nat := 0
  sends   : List Send := []
  lfsr    : Nat := 0x7FFF
  fault   : Nat := 0
  faultDue : Nat := 0
  starved : Nat := 0
  freeDue : Bool := false
  out     : Int := 0
deriving DecidableEq, Repr

/-- The groups of fields a VOICE_SET writes (Table 14.2). -/
structure VoiceWrite where
  kind : Option Nat
  src  : Option VSource
  step : Option Nat
  gain : Option Nat
  env  : Option (Nat × Nat × Nat × Nat)
  sends : Option (List Send)
deriving DecidableEq, Repr

/-- A bus's settings (Table 14.4). -/
structure BusSet where
  course : Nat := 0
  channels : Nat := 1
  shared : Bool := false
  cart   : Bool := false
  mute   : Bool := false
  carrier : Option Nat := none
  gain   : Nat := 0
  threshold : Nat := 1
  release : Nat := 1
  duck   : Nat := 0
  port   : Nat := 0
  slot   : Nat := 0
deriving DecidableEq, Repr

/-- One meter (R382): the running sums, the last window's values and end, and the held peak with its time. -/
structure Meter where
  sum  : Nat := 0
  peak : Nat := 0
  rms  : Nat := 0
  last : Nat := 0
  ends : Meridian := 0
  heldPeak : Nat := 0
  heldAt : Meridian := 0
deriving DecidableEq, Repr

/-- An audio capture (R393, R394). -/
structure ACapture where
  owner : Nat
  block : Nat
  pages : Nat
  ring  : Nat
  cons  : Nat
  pw    : Word := 0
  /-- Boundaries of the block in progress that are done, its data short of a 64-byte block, and what is written. -/
  count : Nat := 0
  live  : Bool := false
  skip  : Bool := false
  page  : Nat := 0
  written : Nat := 0
  tail  : List Byte := []
  first : Dword := 0
  time  : Meridian := 0
  status : Option Nat := none
  skipped : Nat := 0
  /-- `some`: the capture stops after the block in progress, with the records of the commands that asked for it. -/
  stop  : Option (List CmdRef) := none
  /-- The bus has been freed: the capture carries zeros (R379). -/
  dead  : Bool := false
deriving DecidableEq, Repr

/-- An output bus (R379 to R382): its settings, the sums of the boundary in progress, limiter state and delay, output,
saturation count, meters and capture. `plan` holds the settings that processed commands leave, `live` is set from the
boundary at which the bus is first set, and `freeDue` from the processing of its freeing on. -/
structure Bus where
  owner : Option Nat := none
  set   : BusSet := {}
  plan  : BusSet := {}
  live  : Bool := false
  freeDue : Bool := false
  sums  : List Int := []
  limG  : Nat := 65536
  q     : List Nat := List.replicate 16 65536
  delay : List (List Int) := []
  out   : List Int := []
  sat   : Nat := 0
  meters : List Meter := []
  capture : Option ACapture := none
deriving DecidableEq, Repr

/-- A bridge lane (R383, R384); `dead` once a bus it names has been freed (R379). -/
structure Lane where
  owner  : Option Nat := none
  fromBus : Bool := false
  srcCourse : Nat := 0
  srcBus : Nat := 0
  srcCh  : Nat := 0
  dstBus : Nat := 0
  dstCh  : Nat := 0
  gain   : Nat := 0
  input  : Int := 0
  unlocked : Bool := false
  dead   : Bool := false
  frac   : Nat := 0
deriving DecidableEq, Repr

/-- A TDM port (R388): format bits, slots and widths, course, slot map of an output, the frame an output sends and the one
it sends next, and the input frame delivered last. -/
structure TdmPort where
  on     : Bool := false
  format : Nat := 0
  slots  : Nat := 0
  slotBits : Nat := 16
  dataBits : Nat := 16
  course : Nat := 0
  map    : List Nat := []
  frame  : List Int := []
  nextFrame : List Int := []
  out    : List Int := []
deriving DecidableEq, Repr

/-- An audio clock: its source (Op 3 of Table 14.6), the stream of source 2, and whether its PLL relocks, with the
commands that wait for that. -/
structure AudioClock where
  source : Nat := 0
  stream : Nat := 0
  relock : List CmdRef := []
  locking : Bool := false
deriving DecidableEq, Repr

/-- An AVTP stream (Table 14.7); a listener's samples wait for their presentation times. -/
structure Avtp where
  listener : Bool
  mac     : Nat
  channels : Nat
  format  : Nat
  cls     : Nat
  spp     : Nat
  id      : Dword
  dest    : List Byte
  vlan    : Nat
  transit : Nat
  bus     : Nat
  first   : Nat
  course  : Nat
  queue   : List (Meridian × List Int) := []
  now     : List Int := []
  /-- A packet has come, and the boundaries since the last sample. -/
  started : Bool := false
  gap     : Nat := 0
  /-- Packets that came late or not at all. -/
  late    : Nat := 0
  /-- A talker's packet being filled, with the presentation time of its first sample. -/
  packet  : List (List Int) := []
  ptime   : Nat := 0
  /-- The last packet sent: its presentation time and samples. -/
  sent    : Option (Nat × List (List Int)) := none
deriving DecidableEq, Repr

/-- What a waiting audio command does at its boundary (R368). -/
inductive AudioChange where
  /-- The command took effect when it was processed; only its record waits. -/
  | note
  | destroy (voice : Nat)
  | write (voice : Nat) (w : VoiceWrite)
  | start (voice : Nat)
  | stop (voice : Nat) (cut : Bool)
  | bus (bus : Nat) (set : BusSet)
  | freeBus (bus : Nat)
  | lane (lane : Nat) (set : Lane)
  | freeLane (lane : Nat)
  /-- A TDM output or input. -/
  | tdm (output : Bool) (port : Nat) (set : TdmPort)
  | portOff (port : Nat)
  | pdm (pin course : Nat)
  /-- Streams 16 and up are the listeners. -/
  | avtp (stream : Nat) (set : Avtp)
  | avtpOff (stream : Nat)
deriving DecidableEq, Repr

/-- A waiting audio command: the time from which a boundary counts, and whether that time had passed when it was
processed. -/
structure AudioWait where
  ref    : CmdRef
  course : Nat
  at_    : Option Meridian
  late   : Bool
  words  : List Word
  change : AudioChange
deriving DecidableEq, Repr

/-- A course (R368): its sample counter, the stamp of the last boundary, and the latched high word (Table 14.9). -/
structure Course where
  count  : Dword := 0
  at_    : Meridian := 0
  latched : Word := 0
deriving DecidableEq, Repr

/-- A rate-limited report of chapter 14: a resource, its cause, the count since the last event, and when that was. -/
structure AudioReport where
  code  : Nat
  owner : Nat
  key   : Nat
  cause : Nat
  count : Nat
  sent  : Option Meridian
deriving DecidableEq, Repr

/-- The audio engine. Voices 96 to 99 are K0 to K3. -/
structure Audio where
  voices : IMap Voice := []
  gens   : IMap Nat := []
  buses  : IMap Bus := []
  lanes  : IMap Lane := []
  waits  : List AudioWait := []
  tdmOut : IMap TdmPort := []
  tdmIn  : IMap TdmPort := []
  /-- PDM pins on, with their courses. -/
  pdm    : IMap Nat := []
  pdmNow : IMap Int := []
  clkA   : AudioClock := {}
  clkB   : AudioClock := {}
  avtp   : IMap Avtp := []
  courses : IMap Course := []
  meters : IMap Meter := []
  reports : List AudioReport := []
  /-- Outputs carry zero (R433, R419). -/
  muted  : Bool := false
deriving DecidableEq, Repr

/-- An Ethernet MAC (R545). -/
structure Eth where
  mdioCtl : Word := 0
  busy    : Bool := false
  waiting : Bool := false
  /-- Whether the frame that runs or waits reads. -/
  reads   : Bool := false
  rdata   : Half := 0
  link    : Bool := false
  ptp     : Bool := false
  tx      : Nat := 0
  rx      : Nat := 0
  fcs     : Nat := 0
  dropped : Nat := 0
deriving DecidableEq, Repr

/-! ### The Pegbox -/

/-- A layer of a phrase model (Table 15.8), its weights and biases. -/
structure Layer where
  type   : Nat
  kernel : Nat
  stride : Nat
  shift  : Nat
  inF    : Nat
  inC    : Nat
  outF   : Nat
  outC   : Nat
  weights : List Int
  biases : List Int
deriving DecidableEq, Repr

/-- A loaded phrase model (Table 15.3). -/
structure Model where
  context : Nat
  classes : Nat
  mic     : Nat
  inOffset : Int
  inShift : Nat
  layers  : List Layer
deriving DecidableEq, Repr

/-- A wake source's settings (R410, Table 15.5). -/
structure WakeSource where
  enable : Bool := false
  mode   : Nat := 3
  cls    : Nat := 0
  threshold : Nat := 0
  frames : Nat := 1
  pin    : Nat := 0
  mac    : Nat := 0
  ethType : Nat := 0
  dest   : List Byte := []
  patOff : Nat := 0
  pattern : List Byte := []
deriving DecidableEq, Repr

/-- The I²C wake target (R409): its strap address bits, the transfer in progress, and the register index. -/
structure I2c where
  straps  : Nat := 0
  active  : Bool := false
  reading : Bool := false
  stretching : Bool := false
  dead    : Bool := false
  first   : Bool := false
  index   : Nat := 0
  modeReq : Nat := 0
  last    : Word := 0
  readData : Byte := 0
  nack    : Bool := false
deriving DecidableEq, Repr

/-- The Pegbox (chapter 15). `ring` is the 160,000 bytes of the pre-roll ring and `ringNext` the index of the next sample
frame to be written. Wake sources are numbered 1 to 7; pin slots and Ethernet filters have their own settings. -/
structure Peg where
  regs    : TRegs := {}
  running : Bool := false
  idle    : Bool := false
  code    : Mem := []
  codeSize : Nat := 0
  data    : Mem := []
  ring    : Mem := []
  ringNext : Word := 0
  /-- Sample frames written since reset, up to the 40,000 that the ring holds. -/
  ringHeld : Nat := 0
  mel     : List Int := List.replicate 40 0
  hist    : List (List Int) := []
  scores  : List Nat := List.replicate 8 0
  model   : Option Model := none
  nextModel : Option Model := none
  modelRefs : List CmdRef := []
  evalDue : Bool := false
  streak  : Nat := 0
  score   : Nat := 0
  matchCount : Nat := 0
  notes   : List Word := List.replicate 8 0
  user    : List Byte := List.replicate 16 0
  i2c     : I2c := {}
  pending : List Nat := []
  sources : IMap WakeSource := []
  slots   : IMap WakeSource := []
  causes  : Nat := 0
  reqMode : Nat := 0
  latched : Bool := false
  /-- The sources latched for the wake in progress (R411). -/
  forWake : Nat := 0
deriving DecidableEq, Repr

/-- A PREROLL_READ that waits for its copying (R408), with the frames copied so far and their bytes. -/
structure Preroll where
  ref   : CmdRef
  start : Word
  count : Nat
  addr  : Nat
  mics  : Nat
  words : List Word
  done  : Nat := 0
  data  : List Byte := []
deriving DecidableEq, Repr

end Sys2Proof.Machine
end

