-- ==== Sys2Proof/Machine/SysTypes.lean ====
section
/-! DEFINITION. State of modes, domains and clocks (chapter 16), Meridian, timers and the calendar (17), the interrupt
controller, DMA and blit engines (18), pins (19), and start-up, lifecycle and debug (20). -/

namespace Sys2Proof.Machine

/-! ### Meridian, the slow counter and the calendar -/

/-- A civil time of the calendar with its sub-second (R454). -/
structure CalTime where
  year   : Nat := 2000
  month  : Nat := 1
  day    : Nat := 1
  hour   : Nat := 0
  minute : Nat := 0
  second : Nat := 0
  subsec : Nat := 0
deriving DecidableEq, Repr

/-- The alarm (R456). -/
structure Alarm where
  daily : Bool
  at_   : CalTime
deriving DecidableEq, Repr

/-- The calendar, its alarm, CAL.STATUS (Table 17.8), and the CALENDAR_SET commands that wait for the next
slow-counter edge (`some t` sets, `none` reads). -/
structure Calendar where
  time    : CalTime := {}
  valid   : Bool := false
  ended   : Bool := false
  fired   : Bool := false
  alarm   : Option Alarm := none
  waiting : List (CmdRef × Option CalTime) := []
  eventDue : Option CalTime := none
deriving DecidableEq, Repr

/-- Meridian's run state and the slow counter (R439 to R442). `stopDue`: Meridian stops at the next slow-counter edge;
`resumeDue`: it resumes there. -/
structure TimeState where
  running   : Bool := false
  coasting  : Bool := false
  stopDue   : Bool := false
  resumeDue : Bool := false
  slow      : Dword := 0
  stopValue : Meridian := 0
  stopSlow  : Dword := 0
  sleepSlow : Word := 0
  cal       : Calendar := {}
deriving DecidableEq, Repr

/-! ### Timers -/

/-- A compare channel (R444 to R446): its owner, whether it sends events, its pin action and pin, its value, its
period (0 one-shot) and whether it is armed. -/
structure CompareCh where
  owner  : Option Nat := none
  event  : Bool := false
  pin    : Option (Nat × Nat) := none
  value  : Meridian := 0
  period : Nat := 0
  armed  : Bool := false
deriving DecidableEq, Repr

/-- A capture channel (R449 to R451). `runLen` counts consecutive samples that differ from the accepted level, the
first of them taken at `runAt`. -/
structure CaptureCh where
  owner    : Option Nat := none
  edge     : Nat := 0
  filter   : Nat := 0
  pin      : Nat := 0
  prescale : Nat := 1
  level    : Bool := false
  runLen   : Nat := 0
  runAt    : Meridian := 0
  edges    : Nat := 0
  queue    : List (Nat × Meridian) := []
  dropped  : Nat := 0
  lost     : Nat := 0
deriving DecidableEq, Repr

/-- The settings of a PWM unit (Table 17.3). -/
structure PwmSet where
  enable    : Bool := false
  polarity  : Bool := false
  immediate : Bool := false
  start     : Option Meridian := none
  shift     : Nat := 2
  pin       : Nat := 0
  period    : Nat := 2
  duty      : Nat := 0
deriving DecidableEq, Repr

/-- What waits to apply at a PWM unit's wrap or next tick (R453). -/
inductive PwmNext where
  | none
  | set (p : PwmSet)
  | free (immediate : Bool)
deriving DecidableEq, Repr

/-- A PWM unit (R452, R453). -/
structure Pwm where
  owner   : Option Nat := none
  cur     : PwmSet := {}
  next    : PwmNext := .none
  running : Bool := false
  started : Bool := false
  count   : Nat := 0
  trunc   : Bool := false
deriving DecidableEq, Repr

/-- The timer block: MC00-MC63, CC00-CC31, PW00-PW15. -/
structure Timers where
  compare : IMap CompareCh := []
  capture : IMap CaptureCh := []
  pwm     : IMap Pwm := []
deriving DecidableEq, Repr

/-! ### Pins -/

/-- Who owns a pin (R489). -/
inductive PinOwner where
  | cp
  | peg
  | tenant (t : Nat)
deriving DecidableEq, Repr

/-- The functions that can hold a pin (Table 19.2). -/
inductive PinFn where
  | gpio
  | timer
  | block (k : Nat)
  | safety
deriving DecidableEq, Repr

/-- One general-purpose pin: its owner and configuration (R489, R491), its OUT and OE latches (R492), its lock (R498),
the function that holds it and the one it is being handed to (R488), the level the timer function gives it, the
level at the ball and the debounced level, and its pin-event state (R496). -/
structure Pin where
  owner     : PinOwner := .cp
  strength  : Nat := 1
  openDrain : Bool := false
  slow      : Bool := false
  pull      : Nat := 0
  irqMode   : Nat := 0
  debounce  : Nat := 0
  out       : Bool := false
  oe        : Bool := false
  locked    : Bool := false
  holder    : PinFn := .gpio
  handover  : Option PinFn := none
  timerLevel : Bool := false
  ball      : Bool := false
  accepted  : Bool := false
  safety    : Bool := false
  coalesce  : Bool := false
  count     : Nat := 0
  firstAt   : Meridian := 0
  lastKind  : Nat := 0
  levelSent : Bool := false
deriving DecidableEq, Repr

/-- A serial transfer that PIN_WRITE started (R493). -/
structure Transfer where
  ref     : CmdRef
  address : Nat
  write   : List Byte
  read    : Nat
deriving DecidableEq, Repr

/-- A serial or clock block (Table 19.3), the transfers queued on it, and a UART's receive queue (R494). -/
structure Block where
  enabled  : Bool := false
  rate     : Nat := 0
  mode     : Nat := 0
  queue    : List Transfer := []
  rx       : List Byte := []
  rxDropped : Bool := false
deriving DecidableEq, Repr

/-- An armed PIN_LOCK (R497). -/
structure PinArm where
  tenant : Nat
  mask   : Nat
  nonce  : Nat
  at_    : Meridian
deriving DecidableEq, Repr

/-- The pins, the blocks, the GPIO interrupt enables (Table 19.9) and the lock arms. -/
structure Pins where
  pin    : IMap Pin := []
  block  : IMap Block := []
  intEn  : IMap Nat := []
  arms   : List PinArm := []
  vddioHigh : BitVec 5 := 0
  vddioOff  : List Nat := []
  floated   : Bool := false
  harmless  : Bool := true
deriving DecidableEq, Repr

/-! ### Interrupt controller, DMA and blit -/

/-- One interrupt source (R459 to R463, Table 18.5). -/
structure IntSrc where
  count     : Nat := 0
  asserted  : Bool := false
  inService : Bool := false
  overflow  : Bool := false
  latched   : Bool := false
  caught    : Bool := false
  enabled   : Bool := false
  fast      : Bool := false
  level     : Nat := 0
deriving DecidableEq, Repr

/-- The interrupt controller: its sources, each group's hold-off time and whether its timer runs, and the entries in
progress of the normal and the fast class (INTC.ACTIVE). -/
structure Intc where
  src     : IMap IntSrc := []
  holdoff : IMap Nat := []
  holding : List Nat := []
  normal  : Option Nat := none
  fast    : Option Nat := none
deriving DecidableEq, Repr

/-- A DMA descriptor (Table 18.7). -/
structure Descriptor where
  src     : Nat
  dst     : Nat
  length  : Nat
  op      : Nat
  flags   : Nat
  tag     : Nat
  pattern : Nat
deriving DecidableEq, Repr

/-- A DMA_SUBMIT that has not completed: its descriptors still to run with the index of the first, and what has been
done (R471). `done` is the bytes moved of the descriptor in progress, `crc` its running CRC register. -/
structure DmaJob where
  ref     : CmdRef
  descs   : List Descriptor
  index   : Nat
  done    : Nat
  crc     : Word
  total   : Nat
  lastCrc : Word
  /-- The CRC register carried over for a chained descriptor (R469). -/
  carry   : Word
  /-- A fault stopped the descriptor and its record still waits for ring space: word 5 of R471. -/
  stopped : Option Nat
deriving DecidableEq, Repr

/-- DMA.CH.state (Table 18.11). -/
inductive DmaState where
  | idle
  | running
  | tokens
  | ring
  | paused
deriving DecidableEq, Repr

/-- A DMA channel and its completion ring (R466, R470). -/
structure DmaChannel where
  owner  : Option Nat := none
  log2   : Nat := 4
  ring   : Nat := 0
  cons   : Nat := 0
  count  : Nat := 0
  state  : DmaState := .idle
  jobs   : List DmaJob := []
deriving DecidableEq, Repr

/-- A tenant's token bucket (R474): its rate in MB/s (0 no limit), its size in KiB, its content in 1/1024 byte, and when
the content was last brought up to date. -/
structure Bucket where
  rate   : Nat := 2000
  burst  : Nat := 64
  tokens : Nat := 64 * 1024 * 1024
  at_    : Meridian := 0
deriving DecidableEq, Repr

/-- A blit that has been accepted (Table 18.9, its clipped rectangle). -/
structure BlitJob where
  ref      : CmdRef
  op       : Nat
  premul   : Bool
  srcFormat : Nat
  dstFormat : Nat
  srcPitch : Nat
  srcAddr  : Nat
  dstAddr  : Nat
  dstPitch : Nat
  srcX     : Nat
  srcY     : Nat
  dstX     : Nat
  dstY     : Nat
  w        : Nat
  h        : Nat
  colour   : Nat
  alpha    : Nat
  backwards : Bool
deriving DecidableEq, Repr

/-- The DMA and blit engines. -/
structure Dma where
  ch      : IMap DmaChannel := []
  buckets : IMap Bucket := []
  blitRun : Option BlitJob := none
  blits   : List BlitJob := []
deriving DecidableEq, Repr

/-! ### Modes, clocks, start-up and debug -/

/-- The modes of Table 16.1. -/
inductive Mode where
  | off
  | keep
  | listen
  | tell
  | drive
  | service
deriving DecidableEq, Repr

/-- The code DEV.STATUS and GOV.MODE report for a mode (Table 16.1). -/
def Mode.code : Mode → Nat
  | .off => 0 | .keep => 1 | .listen => 2 | .tell => 3 | .drive => 4 | .service => 5

/-- A mode change that is armed or in progress (R416, R418): its target, its cause (Table 16.6), the command that asked
for it, its apply time, and whether it has applied. -/
structure ModeChange where
  target  : Mode
  cause   : Nat
  ref     : Option CmdRef
  applyAt : Meridian
  applied : Bool
deriving DecidableEq, Repr

/-- The mode state and the votes that are not read off other state (R423). -/
structure Power where
  mode        : Mode := .drive
  change      : Option ModeChange := none
  cause       : Nat := 0
  tellForced  : Bool := false
  tellForcedDue : Bool := false
  accessVotes : List Nat := []
  latchedDoorbells : List (Nat × Word) := []
  pwrfail     : Bool := false
  servicePinLow : Bool := false
  servicePinAt  : Meridian := 0
  tellHead    : Option Nat := none
  /-- The domains of units left out of a mode change, which stay powered or not as they were (R346). -/
  keptDomains : List (Nat × Bool) := []
deriving DecidableEq, Repr

/-- The clock plan (R428) in MHz, the governor's present CCLK, and GOV.PLL_STATUS (Table 16.9). -/
structure Clocks where
  cclkMax : Nat := 1000
  fclk    : Nat := 800
  pclk    : Nat := 200
  cpClk   : Nat := 800
  cclk    : Nat := 1000
  locked  : BitVec 15 := 0x7FFF
  lost    : BitVec 15 := 0
  gateRefused : Bool := false
  /-- The nodes of the gating tree that are gated above the units: the PLLs of Table 16.5 whose outputs are stopped (R430). -/
  gated   : List Nat := []
  /-- Units left out of an armed change, with the CCLK they keep (R346). -/
  keeps   : List (ArmUnit × Nat) := []
  refsLost : List ClockRef := []
  /-- CLOCK_MEASUREs that wait for the counter (R432): command, target, ref and cycles. -/
  measures : List (CmdRef × Nat × Nat × Nat) := []
deriving DecidableEq, Repr

/-- The lifecycle states (R503). -/
inductive Lifecycle where
  | blank
  | secured
  | returned
deriving DecidableEq, Repr

/-- Where start-up stands (Table 20.3, stage). -/
inductive BootStage where
  | reset
  | pegRom
  | header
  | memory
  | firmware
  | cartouche
  | running
  | stopped
deriving DecidableEq, Repr

/-- Start-up, fuses, tokens and debug (chapter 20). `ownerHash` is the owner-hash fuse field. -/
structure Boot where
  stage      : BootStage := .reset
  resetLow   : Bool := true
  codeA      : Nat := 0
  codeB      : Nat := 0
  copy       : Nat := 0
  lpddrFailed : Bool := false
  cbi        : List Byte := []
  cbiApplied : Bool := false
  /-- Asset addresses are offsets in the Cartouche boot image while its records are applied (R333). -/
  applying   : Bool := false
  fwReady    : Bool := false
  fwBuild    : Nat := 0
  lifecycle  : Lifecycle := .blank
  ownerHash  : List Byte := []
  keyUsed    : Nat := 0
  pcieUp     : Bool := false
  perst      : Bool := false
  deviceSession : Bool := false
  /-- The domains that the Device session has observed, and votes for (R423). -/
  observed   : List Nat := []
  grants     : IMap Nat := []
  cpHalted   : Bool := false
  resetDue   : Option Meridian := none
  extest     : Bool := false
  /-- The debug port lets a halted CP issue one instruction (R519). -/
  cpStep     : Bool := false
  /-- What the last access over the IEEE 1149.1 pins read. -/
  jtagData   : Word := 0
deriving DecidableEq, Repr

end Sys2Proof.Machine
end

