-- ==== Sys2Proof/Machine/State.lean ====
section
/-! DEFINITION. The state of the part, the reasons a step can stop, and the state right after reset. -/

namespace Sys2Proof.Machine

/-- Why a step stops for good: for no reason. Whatever a command, a signal or an instruction of the part meets, the spec
says how the part goes on, so nothing raises a fault; safe. -/
inductive Fault where
deriving DecidableEq, Repr

/-- Why a step is not given a meaning. -/
inductive Refusal where
  /-- Raised by an arm of Dispatch whose command has no meaning yet; safe. -/
  | notModelled (mnemonic : String)
deriving DecidableEq, Repr

/-- The whole state of the part. -/
structure State where
  pending   : List Instr
  now       : Meridian
  cycle     : CycleState
  freeCount : Nat
  time      : TimeState
  power     : Power
  clocks    : Clocks
  boot      : Boot
  legend    : LegendState
  dev       : DevPage
  tenants   : IMap Tenant
  flights   : List Flight
  banks     : IMap Bank
  mem       : Memories
  timers    : Timers
  pins      : Pins
  intc      : Intc
  dma       : Dma
  disp      : Display
  tabs      : IMap HeadTabs
  ucode     : Microcode
  cp        : CpCore
  audio     : Audio
  eth       : IMap Eth
  peg       : Peg
  prerolls  : List Preroll
deriving DecidableEq, Repr

/-- The state right after reset (R510). -/
def State.reset : State where
  pending   := []
  now       := 0
  cycle     := {}
  freeCount := 0
  time      := {}
  power     := {}
  clocks    := {}
  boot      := {}
  legend    := {}
  dev       := {}
  tenants   := []
  flights   := []
  banks     := []
  mem       := {}
  timers    := {}
  pins      := {}
  intc      := {}
  dma       := {}
  disp      := {}
  tabs      := []
  ucode     := {}
  cp        := {}
  audio     := {}
  eth       := []
  peg       := {}
  prerolls  := []

end Sys2Proof.Machine
end

