-- ==== Sys2Proof/Machine/CmdFields.lean ====
section
/-! DEFINITION. Status codes, the error a command is rejected with, and the fields of a command entry (Table 3.8,
Table 3.11). -/

namespace Sys2Proof.Machine

/-! ### Status codes (Table 3.11) -/

def eOk : Nat := 0x0000
def eBadCmd : Nat := 0x0001
def eRange : Nat := 0x0002
def eNotOwner : Nat := 0x0003
def eQuota : Nat := 0x0004
def eNoRes : Nat := 0x0005
def eState : Nat := 0x0006
def eBusy : Nat := 0x0007
def eBandwidth : Nat := 0x0008
def eAlign : Nat := 0x0009
def eDenied : Nat := 0x000A
def eDate : Nat := 0x000B
def eFault : Nat := 0x000C
def eLate : Nat := 0x000D
def eTrunc : Nat := 0x000E

/-- The detail of a status that no field causes (R68). -/
def noField : Nat := 0xFFFF

/-- What a fault names: the asset address of the request and its cause (R109). -/
structure AssetFault where
  addr  : Nat
  cause : Nat
deriving DecidableEq, Repr

/-- A read that a command makes: of a tenant's asset space, or of a physical address. -/
inductive NotedRead where
  | asset (tenant addr n : Nat)
  | phys (addr n : Nat)
deriving DecidableEq, Repr

/-- Why a command is rejected: its status, the detail offset, its result words, the Atlas fault it met (R109), and the reads
that were made for it, whose stored-data errors count all the same (R93, R110). -/
structure CErr where
  status : Nat
  detail : Nat := noField
  words  : List Word := []
  fault  : Option AssetFault := none
  reads  : List NotedRead := []
deriving DecidableEq, Repr

/-- What follows reads that a command makes: where it rejects the command, the reads stay noted. -/
def noting {α : Type} (rs : List NotedRead) (k : Except CErr α) : Except CErr α :=
  match k with
  | .ok x => .ok x
  | .error e => .error { e with reads := rs ++ e.reads }

/-- A check: the error where it does not hold. -/
def need (b : Bool) (status : Nat) (detail : Nat := noField) : Except CErr Unit :=
  if b then .ok () else .error { status := status, detail := detail }

/-- A check that is made only where `b` holds. -/
def needIf (b : Bool) (k : Except CErr Unit) : Except CErr Unit := if b then k else .ok ()

/-- Whether a field given as (offset, size) holds the byte at an offset. -/
def fieldHas (off : Nat) (u : Nat × Nat) : Bool := decide (u.1 ≤ off) && decide (off < u.1 + u.2)

/-- The detail of the first non-zero byte that no used field holds: the offset of the named field that this layout
leaves reserved, or else of the byte itself. -/
def reservedAux (used named : List (Nat × Nat)) : List Byte → Nat → Option Nat
  | [], _ => none
  | b :: bs, off =>
    if b = 0 ∨ used.any (fieldHas off) = true then reservedAux used named bs (off + 1)
    else some (((named.find? (fieldHas off)).map (·.1)).getD off)

end Sys2Proof.Machine

namespace Sys2Proof

open Sys2Proof.Machine

/-- The command that an entry is, for its record. -/
def Cmd.ref (c : Cmd) (op : Nat) : CmdRef := ⟨c.tenant, c.index, c.tag, op⟩

/-- Fields of an entry, by their offset from its start (Table 3.8). -/
def Cmd.u8 (c : Cmd) (off : Nat) : Nat := fieldU c.payload (off - 8) 1
def Cmd.u16 (c : Cmd) (off : Nat) : Nat := fieldU c.payload (off - 8) 2
def Cmd.u32 (c : Cmd) (off : Nat) : Nat := fieldU c.payload (off - 8) 4
def Cmd.u64 (c : Cmd) (off : Nat) : Nat := fieldU c.payload (off - 8) 8
def Cmd.s16 (c : Cmd) (off : Nat) : Int := fieldS c.payload (off - 8) 2
def Cmd.s32 (c : Cmd) (off : Nat) : Int := fieldS c.payload (off - 8) 4
def Cmd.bytes (c : Cmd) (off n : Nat) : List Byte := slice c.payload (off - 8) n

/-- The extension count of a command's header (Table 3.8). -/
def Cmd.ext (c : Cmd) : Nat := bits c.flags.toNat 7 4

/-- The entries a command occupies (R66). -/
def Cmd.entries (c : Cmd) : Nat := 1 + c.ext

def Cmd.fence (c : Cmd) : Bool := c.flags.getLsbD 0

/-- Reserved fields must be zero (R7, R541 step 5): every byte outside the fields `used`, given as (offset, size);
`named` lists the fields that the layout in use leaves reserved. DEDUCED (assumption 11): a reserved byte that no
field names is reported at its own offset. -/
def Cmd.reserved (c : Cmd) (used : List (Nat × Nat)) (named : List (Nat × Nat) := []) : Except Machine.CErr Unit :=
  match reservedAux used named (slice c.payload 0 (56 + 64 * c.ext)) 8 with
  | none => .ok ()
  | some off => .error { status := eBadCmd, detail := off }

end Sys2Proof
end

