-- ==== Sys2Proof/Machine/Ops.lean ====
section
/-! DEFINITION. The named operations that every chapter's meanings share: time, memory and Atlas, events and vectors,
records, and the way a command is fetched, checked and completed. -/

namespace Sys2Proof.Machine

/-! ### Time -/

/-- Ticks pass: what belongs to a PCLK or FCLK cycle that is over goes. DESIGN CHOICE (assumption 59): the cycles of both
clocks are counted from reset. -/
def CycleState.pass (c : CycleState) (dt pclk fclk : Nat) : CycleState :=
  let same (mhz : Nat) : Bool := (c.elapsed + dt) * mhz / 1024 = c.elapsed * mhz / 1024
  { elapsed := c.elapsed + dt
    hwSet := if same pclk then c.hwSet else []
    writes := if same fclk then c.writes else [] }

/-- Time passes: Meridian advances by the ticks since the last step while it runs (R439). -/
def State.tick (dt : Nat) (s : State) : State :=
  let s := { s with cycle := s.cycle.pass dt s.clocks.pclk s.clocks.fclk }
  if s.time.running then { s with now := s.now + BitVec.ofNat 64 dt } else s

/-- The hardware sets or updates a field (R10). -/
def State.hwMark (f : HwField) (s : State) : State :=
  { s with cycle := { s.cycle with hwSet := if s.cycle.hwSet.contains f then s.cycle.hwSet else f :: s.cycle.hwSet } }

/-- Whether the hardware has set or updated a field in the present PCLK cycle, so that a software write to it in the same
cycle has no effect (R10). -/
def State.hwHas (s : State) (f : HwField) : Bool := s.cycle.hwSet.contains f

/-- The bits of a write that clear something: those whose bit the hardware has not set in the same PCLK cycle (R10); `f` names
the field of a bit. -/
def State.clearBits (s : State) (n : Nat) (f : Nat → HwField) (v : Word) : Word :=
  (List.range n).foldl (fun w b => if s.hwHas (f b) then w &&& ~~~((1 : Word) <<< b) else w) v

/-- Change the Pegbox. -/
def State.modPeg (s : State) (f : Peg → Peg) : State := { s with peg := f s.peg }

/-- How long ago a Meridian value was, modulo 2^64 (R439). -/
def State.since (s : State) (t : Meridian) : Nat := (s.now - t).toNat

/-- The difference of two Meridian values taken as s64 (R445). -/
def meridianDiff (a b : Meridian) : Int := (a - b).toInt

/-- Words of a 64-bit value, low then high. -/
def words64 (v : Dword) : List Word := [v.truncate 32, (v >>> 32).truncate 32]

/-- A number as a result word. -/
def word (n : Nat) : Word := BitVec.ofNat 32 n

/-- A word as the data of a read. -/
def dword (w : Word) : Dword := w.zeroExtend 64

/-- A signed number as a result word. -/
def wordI (i : Int) : Word := BitVec.ofInt 32 i

/-- A fresh free value (assumption 5): the value and the state that has used it up. -/
def State.fresh (s : State) : Nat × State := (Config.freeValue s.freeCount, { s with freeCount := s.freeCount + 1 })

/-- The die serial, never one of the two values R39 excludes. -/
def dieSerial : Word :=
  if Config.fusedSerial = 0 ∨ Config.fusedSerial = 0xFFFFFFFF then 1 else Config.fusedSerial

/-- The firmware version as the Legend and LIFECYCLE_QUERY give it (R542). -/
def State.fwVersion (s : State) : Word := 0x01000000 ||| word (s.boot.fwBuild % 0x10000)

/-! ### Tenants -/

/-- A tenant that exists. -/
def State.tenant? (s : State) (t : Nat) : Option Tenant := IMap.find? s.tenants t

/-- Whether a tenant exists (R49). -/
def State.exists_ (s : State) (t : Nat) : Bool := (s.tenant? t).isSome

/-- The PASID a tenant's requests carry (R79): tenants 0 and 1 take theirs from the device status page. -/
def State.pasid (s : State) (t : Nat) : Nat :=
  if t = 0 then s.dev.pasid0.toNat % 0x100000
  else if t = 1 then s.dev.pasid1.toNat % 0x100000
  else ((s.tenant? t).map (·.pasid)).getD 0

/-- Change one tenant. -/
def State.modTenant (s : State) (t : Nat) (f : Tenant → Tenant) : State :=
  { s with tenants := IMap.adjust s.tenants t f }

/-- Change one tenant's mailbox. -/
def State.modMbox (s : State) (t : Nat) (f : Mailbox → Mailbox) : State :=
  s.modTenant t (fun x => { x with mbox := f x.mbox })

/-- The commands a tenant has in flight (R72). -/
def State.inFlight (s : State) (t : Nat) : Nat := (s.flights.filter (fun f => f.cmd.tenant = t)).length

/-! ### Memory behind the chip -/

/-- Where host memory keeps the byte at a host address under a PASID (R79). -/
def hostKey (pasid addr : Nat) : Nat := pasid * 2 ^ 64 + addr % 2 ^ 64

/-- The PASID number that stands for a request without a PASID prefix. -/
def noPasid : Nat := 0x100000

/-- Whether the host answers a request with an error completion (R80). -/
def State.hostFails (s : State) (key n : Nat) : Bool :=
  s.mem.hostFail.any (fun r => decide (r.1 < key + n) && decide (key < r.2))

/-- Host bytes under a PASID, none on an error completion. -/
def State.hostRead (s : State) (pasid addr n : Nat) : Option (List Byte) :=
  let k := hostKey pasid addr
  if s.hostFails k n then none else some (Mem.readRun s.mem.host k n)

/-- Write host bytes under a PASID, none on an error completion. -/
def State.hostWrite (s : State) (pasid addr : Nat) (bs : List Byte) : Option State :=
  let k := hostKey pasid addr
  if s.hostFails k bs.length then none
  else some { s with mem := { s.mem with host := Mem.write s.mem.host k bs } }

def bankBase : Nat := 0x40000000
def cartBase : Nat := 0x48000000
def dramBase : Nat := 0x100000000
def lpddrBase : Nat := 0x1000000000
/-- The frame store of a head (Table 4.5). -/
def frameStore (h : Nat) : Nat := dramBase + 0x10000000 + h * 0x6000000
/-- The tenant pool of the stacked DRAM (Table 4.5). -/
def dramPool : Nat := dramBase + 0x54000000
def dramPoolSize : Nat := 2752 * 0x100000

/-- Whether a run of internal physical addresses is memory that Table 4.2 lists and that is populated (R89). -/
def State.physOk (s : State) (a n : Nat) : Bool :=
  (bankBase ≤ a && a + n ≤ bankBase + 0x4000000) ||
  (cartBase ≤ a && a + n ≤ cartBase + 0x400000) ||
  (dramBase ≤ a && a + n ≤ dramBase + 0x100000000) ||
  (lpddrBase ≤ a && a + n ≤ lpddrBase + s.mem.lpddrBytes)

/-- The bank that holds a physical address. -/
def bankOf (a : Nat) : Option Nat :=
  if bankBase ≤ a ∧ a < bankBase + 0x4000000 then some ((a - bankBase) / 0x400000) else none

/-- One bank. -/
def State.bank (s : State) (b : Nat) : Bank := IMap.get s.banks {} b

/-- Change one bank. -/
def State.modBank (s : State) (b : Nat) (f : Bank → Bank) : State :=
  { s with banks := IMap.put s.banks b (f (s.bank b)) }

/-- Whether a run meets a word whose stored check bits are wrong beyond correction. -/
def State.poisoned (s : State) (a n : Nat) : Bool := s.mem.ue.any (fun w => decide (w < a + n) && decide (a < w + 8))

/-- The words of a run that a list of error words names. -/
def errorWords (ws : List Nat) (a n : Nat) : List Nat := ws.filter (fun w => decide (w < a + n) && decide (a < w + 8))

/-! ### MSI-X, device vectors and events -/

/-- One MSI-X table entry. -/
def State.msix (s : State) (v : Nat) : MsixEntry := IMap.get s.dev.msix {} v

/-- Raise an MSI-X vector (R76): a masked one becomes pending, another writes its message without a PASID (R79). In Keep
and Listen, where no message is sent (R425), the vector stays pending until the wake. -/
def State.raiseVector (v : Nat) (s : State) : State :=
  let e := s.msix v
  if e.ctrl.getLsbD 0 || s.power.mode = .keep || s.power.mode = .listen then
    { s with dev := { s.dev with pba := if s.dev.pba.contains v then s.dev.pba else v :: s.dev.pba } }
  else
    let a := e.addrHi.toNat * 2 ^ 32 + e.addrLo.toNat
    (s.hostWrite noPasid a (leBytes 4 e.data.toNat)).getD s

/-- Set a DEV.EVENT bit, raising its vector at a change from 0 to 1 while enabled (R75). -/
def State.devEvent (bit : Nat) (s : State) : State :=
  let s := s.hwMark (.devEvent bit)
  if s.dev.event.getLsbD bit then s
  else
    let s := { s with dev := { s.dev with event := s.dev.event ||| (1 <<< bit) } }
    if s.dev.eventEn.getLsbD bit then s.raiseVector (1024 + bit) else s

/-- Whether a mailbox takes events into its queue (R74). -/
def Mailbox.takesEvents (m : Mailbox) : Bool := m.state ≠ .disabled && m.usable

/-- An event joins a mailbox's queue, or is dropped and counted (R74). -/
def Mailbox.queueEvent (e : Event) (m : Mailbox) : Mailbox :=
  if m.takesEvents && decide (m.events.length < 64) then { m with events := m.events ++ [e] }
  else { m with eventLost := word (satInc 0xFFFFFFFF m.eventLost.toNat 1), dropped := satInc 0xFFFFFFFF m.dropped 1 }

/-- Raise an event to a named recipient (R73, R74). -/
def State.event (t code : Nat) (ws : List Word) (s : State) : State :=
  s.modMbox t (Mailbox.queueEvent { code := code, time := s.now, words := ws })

/-- Raise an event whose record carries a status of its own (R302, R394). -/
def State.eventStatus (t code status : Nat) (ws : List Word) (s : State) : State :=
  s.modMbox t (Mailbox.queueEvent ⟨code, s.now, ws, status⟩)

/-- A tenant is subscribed to an event for one resource (R88, R297, R393). -/
def Tenant.subscribe (x : Tenant) (code res : Nat) : Tenant :=
  let u : Sub := (x.subs.find? (fun u => u.code = code)).getD ⟨code, false, [], []⟩
  let u := { u with
    on := if u.on.contains res then u.on else u.on ++ [res], off := u.off.filter (· != res) }
  { x with subs := x.subs.filter (fun v => v.code != code) ++ [u] }

/-- Whether a tenant's subscriptions cover an event for a resource (R88). -/
def Tenant.covers (x : Tenant) (code res : Nat) : Bool :=
  x.subs.any (fun u => u.code = code && ((u.all && !u.off.contains res) || u.on.contains res))

/-- Raise an event to the tenants of `who` whose subscriptions cover it (R73). -/
def State.notify (code res : Nat) (ws : List Word) (who : Nat → Bool) (s : State) : State :=
  (s.tenants.filter (fun e => who e.1 && e.2.covers code res)).foldl (fun s e => s.event e.1 code ws) s

/-- The sending times of a limit that still count (R540). -/
def State.rateWindow (s : State) (x : Tenant) (code res : Nat) : List Meridian :=
  ((x.rates.find? (fun r => r.code = code && r.resource = res)).map (·.times)).getD []
    |>.filter (fun t => s.since t < 1024000000)

/-- Raise an event under a limit of `n` per second (R540); the second part says whether it was sent. -/
def State.eventLimited (t code res n : Nat) (ws : List Word) (s : State) : State × Bool :=
  match s.tenant? t with
  | none => (s, false)
  | some x =>
    let w := s.rateWindow x code res
    if w.length < n then
      ((s.modTenant t (fun x => { x with
        rates := ⟨code, res, s.now :: w⟩ :: x.rates.filter (fun r => !(r.code = code && r.resource = res)) })).event
          t code ws, true)
    else (s, false)

/-! ### Stored-data errors (R93, R110, R111) -/

/-- The type and instance that MEMORY_ECC names for an address (R110), none for the Cartouche store. -/
def eccUnit (a : Nat) : Option (Nat × Nat) :=
  if bankBase ≤ a ∧ a < bankBase + 0x4000000 then some (0x0302, (a - bankBase) / 0x400000)
  else if dramBase ≤ a ∧ a < dramBase + 0x100000000 then some (0x0304, 0)
  else if lpddrBase ≤ a then some (0x0305, 0)
  else none

/-- MEMORY_ECC for one word, at most 64 a second (R110): `kind` 1 corrected, 2 uncorrectable. -/
def State.eccEvent (a kind : Nat) (s : State) : State :=
  match eccUnit a with
  | none => s
  | some (ty, i) =>
    (s.eventLimited 0 0x0202 0 64 [word ty, word i, word (a % 2 ^ 32), word (a / 2 ^ 32), word kind]).1

/-- An uncorrectable read of a word: the bank's count and address (Table 4.4), and MEMORY_ECC. -/
def State.noteUe (s : State) (w : Nat) : State :=
  let s := match bankOf w with
    | none => s
    | some b => s.modBank b (fun k => { k with
        ueCount := satInc 0xFF k.ueCount 1
        errAddr := word (0x80000000 + ((w - bankBase) % 0x400000) / 8 * 8) })
  s.eccEvent w 2

/-- A corrected read of a word: the bank's count (Table 4.4), and MEMORY_ECC. -/
def State.noteCe (s : State) (w : Nat) : State :=
  let s := match bankOf w with
    | none => s
    | some b => s.modBank b (fun k => { k with ceCount := satInc 0xFFFF k.ceCount 1 })
  s.eccEvent w 1

/-- The 8-byte word that an address lies in. -/
def wordBase (p : Nat) : Nat := p / 8 * 8

/-- Whether a memory keeps check bits with its words (Table 4.1): the LPDDR5X has link ECC alone, so that an error of a read of
it stays with that read (R99). -/
def keepsErrors (p : Nat) : Bool := decide (p < lpddrBase)

/-- An outcome shows the check bits of a word to be wrong. -/
def State.learnError (o : FetchOutcome) (s : State) : State :=
  let add (ws : List Nat) (p : Nat) : List Nat :=
    if ws.contains (wordBase p) || !keepsErrors p then ws else wordBase p :: ws
  match o with
  | .corrected p => { s with mem := { s.mem with ce := add s.mem.ce p } }
  | .poisoned _ p => { s with mem := { s.mem with ue := add s.mem.ue p } }
  | _ => s

/-- A memory in self-refresh leaves it at the first access (R97). -/
def State.wakeMemory (a : Nat) (s : State) : State :=
  { s with mem := { s.mem with
    dramRefresh := s.mem.dramRefresh && !(decide (dramBase ≤ a) && decide (a < lpddrBase))
    lpddrRefresh := s.mem.lpddrRefresh && !decide (lpddrBase ≤ a) } }

/-- The channel of the LPDDR5X that holds an address: granules of 256 bytes go round the populated channels (R99). -/
def State.lpddrChannel (s : State) (a : Nat) : Nat := (a - lpddrBase) / 256 % max 1 s.mem.lpddrChannels

/-- The counters and events of a read of a run of physical addresses, and the end of its memory's self-refresh (R97). -/
def State.noteRead (s : State) (a n : Nat) : State :=
  let s := s.wakeMemory a
  let s' := (errorWords s.mem.ce a n).foldl State.noteCe s
  (errorWords s.mem.ue a n).foldl State.noteUe s'

/-- The 64-bit words that two runs of bytes share. -/
def sharedWords (a n b m : Nat) : List Nat :=
  let lo := max (a / 8) (b / 8)
  (List.range (min ((a + n + 7) / 8) ((b + m + 7) / 8) - lo)).map (fun i => (lo + i) * 8)

/-- A write through one port of the banks: where the other port writes the same word in the same FCLK cycle, the collision is
counted (R92). -/
def State.portWrite (portA : Bool) (a n : Nat) (s : State) : State :=
  if (bankOf a).isNone || n = 0 then s
  else
    let words := dedupNat ((s.cycle.writes.filter (fun w => w.portA != portA)).flatMap (fun w => sharedWords a n w.addr w.size))
    let s := words.foldl (fun s w => match bankOf w with
      | none => s
      | some b => s.modBank b (fun k => { k with collide := satInc 0xFF k.collide 1 })) s
    { s with cycle := { s.cycle with writes := ⟨portA, a, n⟩ :: s.cycle.writes } }

/-- The bytes that a write leaves in memory: a byte that port A writes in the same FCLK cycle keeps port A's value (R92). -/
def State.storedBytes (s : State) (portA : Bool) (a : Nat) (bs : List Byte) : List Byte :=
  if portA || s.cycle.writes.isEmpty then bs
  else bs.zipIdx.map (fun b =>
    if s.cycle.writes.any (fun w => w.portA && decide (w.addr ≤ a + b.2) && decide (a + b.2 < w.addr + w.size)) then
      Mem.read s.mem.phys (a + b.2)
    else b.1)

/-- Write a run of physical addresses through a port: port A is that of the master a bank is assigned to, port B the fabric's
(R90, R92). A word written whole becomes correct; a partial write to an uncorrectable word leaves it so, and its internal
read counts (R93). DESIGN CHOICE (assumption 60): the internal read of a partial write to a word with a single-bit error
counts nothing and leaves the error. -/
def State.physStore (portA : Bool) (a : Nat) (bs : List Byte) (s : State) : State :=
  let n := bs.length
  let whole (w : Nat) : Bool := decide (a ≤ w) && decide (w + 8 ≤ a + n)
  let part := (errorWords s.mem.ue a n).filter (fun w => !whole w && (bankOf w).isSome)
  let data := s.storedBytes portA a bs
  let s := (s.portWrite portA a n).wakeMemory a
  let s := { s with mem := { s.mem with
    phys := Mem.write s.mem.phys a data
    ue := s.mem.ue.filter (fun w => !whole w)
    ce := s.mem.ce.filter (fun w => !whole w) } }
  part.foldl State.noteUe s

/-- Write a run of physical addresses over the fabric. -/
def State.physWrite (s : State) (a : Nat) (bs : List Byte) : State := s.physStore false a bs

/-- Zero a run of physical addresses, check bits included (R91, R102). -/
def State.physZero (s : State) (a n : Nat) : State :=
  let out (w : Nat) : Bool := !(decide (a ≤ w) && decide (w < a + n))
  let s := s.wakeMemory a
  { s with mem := { s.mem with
    phys := Mem.zero s.mem.phys a n
    ue := s.mem.ue.filter out
    ce := s.mem.ce.filter out } }

/-! ### Atlas (R104 to R109) -/

/-- Bytes of an asset space (chapter 04). -/
def assetSpace : Nat := 2 ^ 45

def Leaf.target (l : Leaf) : Nat := bits l.entry.toNat 15 12
def Leaf.big (l : Leaf) : Bool := l.entry.getLsbD 11
def Leaf.wr (l : Leaf) : Bool := l.entry.getLsbD 10
def Leaf.rd (l : Leaf) : Bool := l.entry.getLsbD 9
def Leaf.out (l : Leaf) : Nat := l.entry.toNat / 0x10000 * 0x10000
def Leaf.size (l : Leaf) : Nat := if l.big then 0x200000 else 0x10000
/-- The bank of a leaf with target 4. -/
def Leaf.bank (l : Leaf) : Option Nat := if l.target = 4 then bankOf l.out else none

/-- The entry word of a leaf (Table 4.8). -/
def leafEntry (out target : Nat) (big wr rd : Bool) : Dword :=
  BitVec.ofNat 64 (out / 0x10000 * 0x10000 + target * 0x1000 + (if big then 0x800 else 0) + (if wr then 0x400 else 0)
    + (if rd then 0x200 else 0))

/-- The word of an entry that points to the next table of a tenant (Table 4.8, target 5): the table lies in the CP area of the
stacked DRAM (R94), where R105 leaves its place open. -/
def tableWord (t i j : Nat) : Dword :=
  BitVec.ofNat 64 (dramBase + Config.atlasTable t i j % 4096 * 0x10000 + 0x5000)

/-- The indices of an asset address in the three levels (R105). -/
def atlasL1 (a : Nat) : Nat := a / 2 ^ 33
def atlasL2 (a : Nat) : Nat := a / 2 ^ 21 % 4096
def atlasL3 (a : Nat) : Nat := a / 2 ^ 16 % 32

/-- The leaf that a walk of a tenant's tables ends at (R105). -/
def AtlasTables.walk (m : AtlasTables) (a : Nat) : Option Leaf :=
  match IMap.find? m (atlasL1 a) with
  | none => none
  | some l2 => match IMap.find? l2.entries (atlasL2 a) with
    | none => none
    | some (.leaf w) => some ⟨a / 2 ^ 21 * 2 ^ 21, w⟩
    | some (.table _ es) => (IMap.find? es (atlasL3 a)).map (fun w => ⟨a / 2 ^ 16 * 2 ^ 16, w⟩)

/-- The leaves of an entry of a second-level table that covers the 2 MiB from `base` on. -/
def AtlasEntry.leaves (base : Nat) : AtlasEntry → List Leaf
  | .leaf w => [⟨base, w⟩]
  | .table _ es => es.map (fun l => ⟨base + l.1 * 2 ^ 16, l.2⟩)

/-- Every leaf of a tenant's tables. -/
def AtlasTables.leaves (m : AtlasTables) : List Leaf :=
  m.flatMap (fun e => e.2.entries.flatMap (fun d => d.2.leaves (e.1 * 2 ^ 33 + d.1 * 2 ^ 21)))

/-- A leaf is written into tenant `t`'s tables, with the tables above it that do not stand yet. -/
def AtlasTables.add (t : Nat) (m : AtlasTables) (l : Leaf) : AtlasTables :=
  let l2 := (IMap.find? m (atlasL1 l.base)).getD ⟨tableWord t (atlasL1 l.base) 0, []⟩
  let e := if l.big then .leaf l.entry
    else match IMap.find? l2.entries (atlasL2 l.base) with
      | some (.table w es) => .table w (IMap.put es (atlasL3 l.base) l.entry)
      | _ => .table (tableWord t (atlasL1 l.base) (atlasL2 l.base + 1)) [(atlasL3 l.base, l.entry)]
  IMap.put m (atlasL1 l.base) { l2 with entries := IMap.put l2.entries (atlasL2 l.base) e }

/-- Leaves are written one after another. -/
def AtlasTables.addAll (t : Nat) (m : AtlasTables) (ls : List Leaf) : AtlasTables := ls.foldl (AtlasTables.add t) m

/-- An entry with the leaves for which `p` holds, if any is left. -/
def AtlasEntry.keep (p : Leaf → Bool) (base : Nat) : AtlasEntry → Option AtlasEntry
  | .leaf w => if p ⟨base, w⟩ then some (.leaf w) else none
  | .table w es =>
    let es := es.filter (fun l => p ⟨base + l.1 * 2 ^ 16, l.2⟩)
    if es.isEmpty then none else some (.table w es)

/-- The tables with the leaves for which `p` holds; a table that holds no entry goes. -/
def AtlasTables.keep (p : Leaf → Bool) (m : AtlasTables) : AtlasTables :=
  m.filterMap (fun e =>
    let es := e.2.entries.filterMap (fun d => (d.2.keep p (e.1 * 2 ^ 33 + d.1 * 2 ^ 21)).map (fun k => (d.1, k)))
    if es.isEmpty then none else some (e.1, { e.2 with entries := es }))

/-- The leaf that a tenant's table walk ends at (R105). -/
def State.leaf? (s : State) (t a : Nat) : Option Leaf := (s.tenant? t).bind (fun x => x.atlas.walk a)

/-- Translate one request (R104): the place, or the cause of its fault (1 unmapped, 2 access). -/
def State.translate (s : State) (t a : Nat) (write : Bool) : Except Nat Place :=
  match s.leaf? t a with
  | none => .error 1
  | some l =>
    if (if write then l.wr else l.rd) then
      let o := a - l.base
      if l.target = 1 then .ok (.host (hostKey (s.pasid t) (l.out + o))) else .ok (.phys (l.out + o))
    else .error 2

/-- The bytes at a place, or the cause of the fault (3 host error completion, 4 decode error or poison). -/
def State.placeRead (s : State) (p : Place) (n : Nat) : Except Nat (List Byte) :=
  match p with
  | .host k => if s.hostFails k n then .error 3 else .ok (Mem.readRun s.mem.host k n)
  | .phys a => if s.physOk a n && !s.poisoned a n then .ok (Mem.readRun s.mem.phys a n) else .error 4

/-- Write bytes at a place, or the cause of the fault. -/
def State.placeWrite (s : State) (p : Place) (bs : List Byte) : Except Nat State :=
  match p with
  | .host k =>
    if s.hostFails k bs.length then .error 3
    else .ok { s with mem := { s.mem with host := Mem.write s.mem.host k bs } }
  | .phys a => if s.physOk a bs.length then .ok (s.physWrite a bs) else .error 4

/-- Read `n` bytes of a tenant's asset space, request by request of at most `step` bytes within aligned blocks
(R113); the first fault stops the read. `fuel` bounds the requests. -/
def State.assetReadAux (s : State) (t step : Nat) : Nat → Nat → Nat → Except AssetFault (List Byte)
  | 0, _, _ => .ok []
  | fuel + 1, a, n =>
    if n = 0 then .ok []
    else
      let k := min n (step - a % step)
      match s.translate t a false with
      | .error c => .error ⟨a, c⟩
      | .ok p =>
        match s.placeRead p k with
        | .error c => .error ⟨a, c⟩
        | .ok bs =>
          match State.assetReadAux s t step fuel (a + k) (n - k) with
          | .error e => .error e
          | .ok r => .ok (bs ++ r)

/-- Read `n` bytes of a tenant's asset space by 64-byte requests. -/
def State.assetRead (s : State) (t a n : Nat) : Except AssetFault (List Byte) :=
  s.assetReadAux t 64 (n / 64 + 2) a n

/-- The physical runs that a read of asset space touches, for the stored-error counters. -/
def State.assetRuns (s : State) (t : Nat) : Nat → Nat → Nat → List (Nat × Nat)
  | 0, _, _ => []
  | fuel + 1, a, n =>
    if n = 0 then []
    else
      let k := min n (0x10000 - a % 0x10000)
      let rest := State.assetRuns s t fuel (a + k) (n - k)
      match s.translate t a false with
      | .ok (.phys p) => (p, k) :: rest
      | _ => rest

/-- The counters and events of a read of asset space (R110). -/
def State.noteAssetRead (s : State) (t a n : Nat) : State :=
  if s.mem.ce.isEmpty && s.mem.ue.isEmpty && !s.mem.dramRefresh && !s.mem.lpddrRefresh then s
  else (s.assetRuns t (n / 0x10000 + 2) a n).foldl (fun s r => s.noteRead r.1 r.2) s

/-- The counters and events of a read that a command has made. -/
def State.note (s : State) : NotedRead → State
  | .asset t a n => s.noteAssetRead t a n
  | .phys a n => s.noteRead a n

/-- Write bytes to a tenant's asset space by 64-byte requests in ascending order: the state after the writes that were
accepted, how many bytes they are, and the fault that stopped them. -/
def State.assetWriteAux (t : Nat) : Nat → Nat → List Byte → Nat → State → State × Nat × Option AssetFault
  | 0, _, _, done, s => (s, done, none)
  | fuel + 1, a, bs, done, s =>
    if bs.isEmpty then (s, done, none)
    else
      let k := min bs.length (64 - a % 64)
      match s.translate t a true with
      | .error c => (s, done, some ⟨a, c⟩)
      | .ok p =>
        match s.placeWrite p (bs.take k) with
        | .error c => (s, done, some ⟨a, c⟩)
        | .ok s' => State.assetWriteAux t fuel (a + k) (bs.drop k) (done + k) s'

def State.assetWrite (s : State) (t a : Nat) (bs : List Byte) : State × Nat × Option AssetFault :=
  State.assetWriteAux t (bs.length / 64 + 2) a bs 0 s

/-- ATLAS_FAULT to the owning tenant, at most 64 a second; every fault is counted (R107, R109). -/
def State.atlasFault (t : Nat) (f : AssetFault) (unit inst : Nat) (s : State) : State :=
  let s := s.modTenant t (fun x => { x with faults := x.faults + 1 })
  (s.eventLimited t 0x0201 0 64
    [word (f.addr % 2 ^ 32), word (f.addr / 2 ^ 32), word f.cause, word (unit * 0x10000 + inst)]).1

/-! ### Records (R68 to R72) -/

/-- Whether a command in flight is the one a reference names. -/
def Flight.is (f : Flight) (r : CmdRef) : Bool := f.cmd.tenant = r.tenant && f.cmd.index = r.index && f.opcode = r.opcode

/-- Change the stage of a command in flight. -/
def State.setStage (r : CmdRef) (g : FlightStage) (s : State) : State :=
  { s with flights := s.flights.map (fun f => if f.is r then { f with stage := g } else f) }

/-- A command leaves flight. -/
def State.dropFlight (r : CmdRef) (s : State) : State := { s with flights := s.flights.filter (fun f => !f.is r) }

/-- Count a discarded record of a tenant being destroyed (R53). -/
def Dying.lose : Dying → Dying
  | .draining r n => .draining r (n + 1)
  | d => d

/-- Form a command's record (R68, R70): it is kept until HELD_RECORD_WRITE writes it, or discarded where the tenant is
being destroyed (R53) or its completion ring is unusable (R64). -/
def State.complete (r : CmdRef) (status detail : Nat) (ws : List Word) (s : State) : State :=
  if !(s.flights.any (·.is r)) then s
  else match s.tenant? r.tenant with
    | none => s.dropFlight r
    | some x =>
      if x.dying ≠ .no then (s.dropFlight r).modTenant r.tenant (fun x => { x with dying := x.dying.lose })
      else if x.mbox.state = .disabled || !x.mbox.usable then s.dropFlight r
      else (s.setStage r .formed).modMbox r.tenant
        (fun m => { m with held := m.held ++ [⟨r, status, detail, s.now, ws⟩] })

/-- Complete with E_OK. -/
def State.completeOk (r : CmdRef) (ws : List Word) (s : State) : State := s.complete r eOk noField ws

/-- A completion ring becomes unusable: what is held or queued is discarded (R64, R74). -/
def State.ringLost (t fault : Nat) (s : State) : State :=
  let held := ((s.tenant? t).map (fun x => x.mbox.held)).getD []
  let s := held.foldl (fun s r => s.dropFlight r.ref) s
  s.modMbox t (fun m => { m with
    held := [], events := [], usable := false, fault := fault
    eventLost := word (satInc 0xFFFFFFFF m.eventLost.toNat m.events.length)
    dropped := satInc 0xFFFFFFFF m.dropped m.events.length })

/-- A mailbox stops with a fault (R64): the vector is raised whatever the moderation, whose count starts afresh (R76), and
DEV.EVENT bit 5 set. -/
def State.stopMbox (t fault : Nat) (ringDead : Bool) (s : State) : State :=
  let s := s.modMbox t (fun m => { m with state := .stopped, fault := fault, sinceIrq := 0 })
  let s := if ringDead then s.ringLost t fault else s
  (s.raiseVector t).devEvent 5

/-! ### Commands (R51, R71, R72, R541) -/

/-- Who may issue a command (R51). -/
inductive Privilege where
  | anyone
  | platform
  | safety
deriving DecidableEq, Repr

/-- How an accepted command answers. -/
inductive Reply where
  /-- Done: the record is formed at once. -/
  | done (status : Nat) (words : List Word)
  /-- Rejected, but with a change that the command's rule states all the same. -/
  | failed (e : CErr)
  /-- The effect comes later, and so does the record. -/
  | later
  /-- Processing waits (R546). -/
  | wait (job : Job)
deriving DecidableEq, Repr

/-- An accepted command's state and answer, or its rejection, which changes nothing (R3). -/
abbrev CmdRes := Except CErr (State × Reply)

/-- Done with E_OK and result words. -/
def okDone (s : State) (ws : List Word) : CmdRes := .ok (s, .done eOk ws)

/-- The part's CP fetches commands at all: the firmware is ready, the mode has the CP running, no change into Keep or
Listen has applied (R419), and neither a halt (R519) nor a power failure (R433) holds it. -/
def State.cpRuns (s : State) : Bool :=
  s.boot.fwReady && !s.boot.cpHalted && !s.power.pwrfail &&
  (match s.power.mode with | .tell => true | .drive => true | .service => true | _ => false) &&
  (match s.power.change with
   | some m => !(m.applied && (m.target = .keep || m.target = .listen))
   | none => true)

/-- Whether the CP fetches from a tenant now (R72, R415, R55, R65). -/
def State.canFetch (s : State) (t : Nat) : Bool :=
  s.cpRuns && (s.power.mode ≠ .tell || decide (t ≤ 1)) &&
  (match s.tenant? t with
   | none => false
   | some x => x.dying = .no && x.mbox.state = .running && decide (s.inFlight t < x.quotas.inflight)) &&
  (if t = 1 then decide (s.inFlight 1 < 256)
   else decide ((s.flights.filter (fun f => f.cmd.tenant ≠ 1)).length < 65280))

/-- Entries of a tenant's ring that lie below CMD_TAIL and are not fetched. -/
def Mailbox.unfetched (m : Mailbox) : Nat := (m.cmdTail - m.cmdHead).toNat

/-- The CP takes a command into flight and CMD_HEAD moves past its entries (R66). -/
def State.takeCmd (c : Cmd) (op : Nat) (s : State) : State :=
  { s.modMbox c.tenant (fun m => { m with cmdHead := m.cmdHead + word c.entries }) with
    flights := s.flights ++ [⟨c, op, .fetched, false⟩] }

/-- Whether the CP can fetch this very command now: it stands at CMD_HEAD and all its entries lie below CMD_TAIL. -/
def State.fetchable (s : State) (c : Cmd) : Bool :=
  s.canFetch c.tenant &&
  (match s.tenant? c.tenant with
   | none => false
   | some x => c.index = x.mbox.cmdHead && decide (c.entries ≤ x.mbox.unfetched))

/-- Whether a command in flight is this very command. -/
def Flight.holdsCmd (f : Flight) (c : Cmd) : Bool :=
  f.cmd.flags = c.flags && f.cmd.tag = c.tag && f.cmd.payload = c.payload

/-- The command is in flight and fetched, not yet processed. -/
def State.isFetched (s : State) (c : Cmd) (r : CmdRef) : Bool :=
  s.flights.any (fun f => f.is r && f.holdsCmd c && f.stage = .fetched)

/-- Whether a flight still holds back the later commands of its tenant: not processed yet, or waiting (R71, R546). -/
def FlightStage.holds : FlightStage → Bool
  | .fetched => true
  | .waiting _ => true
  | _ => false

/-- Whether a command in flight may start as far as its own tenant's earlier ones, among the flights `before` it, allow: they
have been processed, and with the fence flag their records have been written (R71). -/
def Flight.ready (f : Flight) (before : List Flight) : Bool :=
  let mine := before.filter (fun g => g.cmd.tenant = f.cmd.tenant)
  f.stage = .fetched && !mine.any (·.stage.holds) && (!f.cmd.fence || mine.isEmpty)

/-- The command that the CP processes next: over all tenants, the first in the order of fetching that may start (R546). -/
def nextReady : List Flight → List Flight → Option Flight
  | _, [] => none
  | before, f :: fs => if f.ready before then some f else nextReady (before ++ [f]) fs

/-- Whether a fetched command may be processed now (R71, R546): the CP runs, and it is the next. -/
def State.mayProcess (s : State) (c : Cmd) (r : CmdRef) : Bool :=
  s.cpRuns && s.isFetched c r && (match nextReady [] s.flights with | none => false | some f => f.is r)

/-- Steps 2 and 3 of R541: privilege, then the reserved flag bits and the extension count. In Returned the commands of
group 0x09 and CARTOUCHE_VOICE_SET are denied (R516). -/
def headerCheck (op : Nat) (p : Privilege) (lo hi : Nat) (c : Cmd) (s : State) : Except CErr Unit :=
  if (p = .platform ∧ c.tenant ≠ 0) ∨ (p = .safety ∧ c.tenant ≠ 1) ∨
     (s.boot.lifecycle = .returned ∧ (op / 0x100 = 9 ∨ op = 0x0B0A)) then
    .error { status := eDenied }
  else if bits c.flags.toNat 15 8 ≠ 0 ∨ bits c.flags.toNat 3 1 ≠ 0 ∨ c.ext < lo ∨ hi < c.ext then
    .error { status := eBadCmd, detail := 0x0002 }
  else .ok ()

/-- Carry out an answer. A rejected command leaves the state as it was (R3), but for the record, what its reads counted (R93,
R110), and the ATLAS_FAULT of a read that faulted (R109). -/
def State.answer (r : CmdRef) (s : State) : CmdRes → State
  | .error e =>
    let s := e.reads.foldl State.note s
    let s := match e.fault with
      | none => s
      | some f => s.atlasFault r.tenant f 0x0300 0
    s.complete r e.status e.detail e.words
  | .ok (s', .done st ws) => s'.complete r st noField ws
  | .ok (s', .failed e) => s'.complete r e.status e.detail e.words
  | .ok (s', .later) => s'
  | .ok (s', .wait j) => s'.setStage r (.waiting j)

/-- Process a fetched command: the general checks, then the command's own. -/
def State.process (op : Nat) (p : Privilege) (lo hi : Nat) (body : Cmd → CmdRef → State → CmdRes) (c : Cmd)
    (s : State) : State :=
  let r := c.ref op
  let s := s.setStage r .running
  s.answer r (match headerCheck op p lo hi c s with | .error e => .error e | .ok _ => body c r s)

/-- How many commands Table 3.12 lists in each group, from 0x01. -/
def groupSizes : List Nat := [9, 3, 5, 4, 3, 4, 5, 7, 5, 4, 10, 4, 3, 5, 4, 4, 4]

/-- Whether Table 3.12 lists an opcode. -/
def knownOpcode (op : Nat) : Bool :=
  decide (1 ≤ op / 0x100) && decide (1 ≤ op % 0x100) && decide (op % 0x100 ≤ groupSizes.getD (op / 0x100 - 1) 0)

/-- Commands with an opcode that Table 3.12 does not list are rejected as their turns come (R541 step 1, R546), which no row of
the table does. -/
def State.rejectUnknown : Nat → State → State
  | 0, s => s
  | fuel + 1, s =>
    match nextReady [] s.flights with
    | none => s
    | some f =>
      if knownOpcode f.opcode || !s.cpRuns then s
      else State.rejectUnknown fuel ((s.setStage (f.cmd.ref f.opcode) .running).complete (f.cmd.ref f.opcode) eBadCmd 0 [])

/-- The unknown commands whose turns have come are rejected. -/
def State.turned (s : State) : State := s.rejectUnknown s.flights.length

/-- A command row: time passes; the CP fetches the command if COMMAND_FETCH has not done so; and processes it if its
turn has come. Otherwise nothing else changes (assumption 2). -/
def State.command (op : Nat) (p : Privilege) (lo hi : Nat) (body : Cmd → CmdRef → State → CmdRes) (c : Cmd)
    (s : State) : State :=
  let s := (s.tick c.dt).turned
  let r := c.ref op
  let s := if s.isFetched c r then s else if s.fetchable c then s.takeCmd c op else s
  if s.mayProcess c r then s.process op p lo hi body c else s

/-- Read the data a command names: `off` is the offset of its address field (R81). A record of the Cartouche boot image
names an offset from the start of its section (R333). -/
def readFor (s : State) (t a n off : Nat) : Except CErr (List Byte) :=
  if s.boot.applying then
    if a + n ≤ s.boot.cbi.length then .ok (slice s.boot.cbi a n) else .error { status := eFault, detail := off }
  else match s.assetRead t a n with
  | .ok bs => .ok bs
  | .error f => .error {
      status := eFault, detail := off, fault := some f, reads := [.asset t a (min n (f.addr - a + (64 - f.addr % 64)))] }

end Sys2Proof.Machine
end

