-- ==== Sys2Proof/Machine/Cross.lean ====
section
/-! DEFINITION. Questions that one chapter's rules ask about another chapter's state: whether a read is still
outstanding, what a bank holds, and what holds a pin. -/

namespace Sys2Proof.Machine

/-- The asset addresses that a tab thread's parked load has been translated for and waits for (R104, R232). -/
def Thread.assetLoads (k : Thread) : List Nat :=
  match k.park with
  | some (.load rs _ _ _ _ _) => rs.filterMap (fun r => match r with
    | .asset a _ _ => some a
    | _ => none)
  | _ => []

/-- Whether a request translated under a tenant's mapping of a range is still outstanding (R103 step 3): the reads that
take more than a step are the loads that tab threads wait for. -/
def State.loadsOutstanding (s : State) (t base len : Nat) : Bool :=
  s.tabs.any (fun e => e.2.threads.any (fun k => k.2.owner = t &&
    k.2.assetLoads.any (fun a => decide (base ≤ a) && decide (a < base + len))))

/-- Whether a bank holds a segment of a tab thread (R91). -/
def State.bankSegments (s : State) (b : Nat) : Bool :=
  s.tabs.any (fun e => e.2.threads.any (fun k =>
    bankOf k.2.codeAt = some b || (decide (0 < k.2.dataSize) && bankOf k.2.dataAt = some b)))

/-- Whether a fault reaction names a pin (R328, R490). -/
def State.pinReaction (s : State) (p : Nat) : Bool :=
  s.disp.heads.any (fun e => e.2.pins.contains p || e.2.reactions.any (fun r => bitOf r.2.1 1 && r.2.2 = p))

/-- Whether a pin wake slot names a pin (R411, R490). -/
def State.pinWakeSlot (s : State) (p : Nat) : Bool := s.peg.slots.any (fun e => e.2.enable && e.2.pin = p)

end Sys2Proof.Machine
end

