-- ==== Sys2Proof/Machine/Atlas.lean ====
section
/-! DEFINITION. Atlas mapping (R100 to R103) and bank assignment (R90, R91). -/

namespace Sys2Proof.Machine

/-- The leaves that hold or are about to hold pool pages: every tenant's, and those of waiting commands. -/
def State.allLeaves (s : State) : List Leaf :=
  s.tenants.flatMap (fun e => e.2.atlas.leaves) ++
  s.flights.flatMap (fun f => match f.stage with
    | .waiting (.map ls _) => ls
    | .waiting (.unmap ls) => ls
    | _ => [])

/-- The base and size of the pool a target names (R94, R98). -/
def State.pool (s : State) (target : Nat) : Nat × Nat :=
  if target = 2 then (lpddrBase, s.mem.lpddrBytes) else (dramPool, dramPoolSize)

/-- The lowest free pages of a pool (assumption 12), `n` of them of `size` bytes; fewer where the pool ends. -/
def allocPages (used : List (Nat × Nat)) (size stop : Nat) : Nat → Nat → Nat → List Nat
  | 0, _, _ => []
  | fuel + 1, a, n =>
    if n = 0 ∨ stop < a + size then []
    else if used.any (fun u => decide (u.1 < a + size) && decide (a < u.1 + u.2)) then
      allocPages used size stop fuel (a + size) n
    else a :: allocPages used size stop fuel (a + size) (n - 1)

/-- Bytes a tenant has mapped. -/
def Tenant.mapped (x : Tenant) : Nat := (x.atlas.leaves.map Leaf.size).sum

/-- The leaves of a new mapping: page `i` of the range at its output address. -/
def newLeaves (asset size target : Nat) (big wr rd : Bool) (outs : List Nat) : List Leaf :=
  outs.zipIdx.map (fun o => ⟨asset + o.2 * size, leafEntry o.1 target big wr rd⟩)

/-- The bytes of every tenant in waiting ATLAS_MAPs. -/
def State.mapsWaiting (s : State) (t : Nat) : List Leaf :=
  s.flights.flatMap (fun f => match f.stage with
    | .waiting (.map ls _) => if f.cmd.tenant = t then ls else []
    | _ => [])

/-- Bytes mapped over all tenants, those of waiting ATLAS_MAPs included. -/
def State.mappedTotal (s : State) : Nat :=
  (s.tenants.map (fun e => e.2.mapped)).sum + ((s.tenants.flatMap (fun e => s.mapsWaiting e.1)).map Leaf.size).sum

/-- ATLAS_MAP (R100 to R102): pool pages are zeroed first, the command waiting meanwhile. -/
def atlasMapBody (c : Cmd) (_ : CmdRef) (s : State) : CmdRes := do
  let asset := c.u64 0x08
  let len := c.u64 0x10
  let tgt := c.u64 0x18
  let target := c.u8 0x20
  let ps := c.u8 0x21
  let acc := c.u8 0x22
  let bank := c.u8 0x23
  need (decide (1 ≤ target) && decide (target ≤ 4)) eRange 0x20
  c.reserved ([(0x08, 16), (0x20, 3)] ++ (if target = 1 ∨ target = 4 then [(0x18, 8)] else []) ++
    (if target = 4 then [(0x23, 1)] else [])) [(0x18, 8)]
  need (decide (asset < assetSpace)) eBadCmd 0x08
  need (decide (0 < len) && decide (len ≤ 0x1000000000)) eRange 0x10
  need (decide (asset + len ≤ assetSpace)) eRange 0x10
  need (decide (ps ≤ 1)) eRange 0x21
  need (decide (1 ≤ acc) && decide (acc ≤ 3)) eRange 0x22
  need (target ≠ 4 || decide (bank ≤ 15)) eRange 0x23
  need (target ≠ 4 || decide (tgt + len ≤ 0x400000)) eRange 0x18
  let size := if ps = 1 then 0x200000 else 0x10000
  need (asset % size = 0) eAlign 0x08
  need (len % size = 0) eAlign 0x10
  need ((target ≠ 1 && target ≠ 4) || tgt % size = 0) eAlign 0x18
  let k := s.bank bank
  need (target ≠ 4 || (k.cls = 1 && k.inst = c.tenant)) eNotOwner 0x23
  match s.tenant? c.tenant with
  | none => .error { status := eState }
  | some x => do
    need (!(x.atlas.leaves ++ s.mapsWaiting c.tenant).any
      (fun l => decide (l.base < asset + len) && decide (asset < l.base + l.size))) 0x0201 0x08
    need (decide (x.mapped + len ≤ x.quotas.atlasMib * 0x100000)) eQuota
    need (decide (s.mappedTotal + len ≤ 0x200000000000)) eNoRes
    let n := len / size
    let leaves := newLeaves asset size target (ps = 1) (acc / 2 = 1) (acc % 2 = 1)
    if target = 1 ∨ target = 4 then
      let base := if target = 1 then tgt else bankBase + bank * 0x400000 + tgt
      let ls := leaves ((List.range n).map (fun i => base + i * size))
      okDone (s.modTenant c.tenant (fun x => { x with atlas := x.atlas.addAll c.tenant ls })) [word n]
    else
      let (base, bytes) := s.pool target
      let used := s.allLeaves.map (fun l => (l.out, l.size))
      let outs := allocPages used size (base + bytes) (bytes / size + 1) base n
      if outs.length < n then .error { status := eNoRes }
      else .ok (s, .wait (.map (leaves outs) n))

/-- Whether every 64 KiB page of a range is mapped. -/
def allMapped (ls : List Leaf) (asset len : Nat) : Bool :=
  ((ls.filter (fun l => decide (l.base < asset + len) && decide (asset < l.base + l.size))).map
    (fun l => min (l.base + l.size) (asset + len) - max l.base asset)).sum == len

/-- ATLAS_UNMAP (R103): the entries go at once; the record waits while a request translated under them is
outstanding. -/
def atlasUnmapBody (c : Cmd) (_ : CmdRef) (s : State) : CmdRes := do
  c.reserved [(0x08, 16)]
  let asset := c.u64 0x08
  let len := c.u64 0x10
  need (decide (0 < len)) eRange 0x10
  need (decide (asset + len ≤ assetSpace)) eRange 0x10
  need (asset % 0x10000 = 0) eAlign 0x08
  need (len % 0x10000 = 0) eAlign 0x10
  match s.tenant? c.tenant with
  | none => .error { status := eState }
  | some x => do
    need (allMapped x.atlas.leaves asset len) 0x0202 0x08
    let gone := x.atlas.leaves.filter (fun l => decide (l.base < asset + len) && decide (asset < l.base + l.size))
    need (gone.all (fun l => decide (asset ≤ l.base))) eAlign 0x08
    need (gone.all (fun l => decide (l.base + l.size ≤ asset + len))) eAlign 0x10
    let s' := s.modTenant c.tenant (fun x => { x with atlas := x.atlas.keep (fun l => !gone.contains l) })
    if s.loadsOutstanding c.tenant asset len then .ok (s', .wait (.unmap gone)) else okDone s' []

/-- The instances that a bank master class allows (Table 4.3). -/
def bankClassInst : Nat → Nat
  | 1 => 1024
  | 2 => 20
  | 4 => 10
  | _ => 1

/-- Whether a bank holds data that keeps it assigned (R91). -/
def State.bankHeld (s : State) (b : Nat) : Bool :=
  s.allLeaves.any (fun l => l.bank = some b) || s.bankSegments b

/-- BANK_ASSIGN (R91): the bank is zeroed before the record, the command waiting meanwhile. DESIGN CHOICE (assumption 24): while it is
zeroed the bank is unassigned. -/
def bankAssignBody (c : Cmd) (_ : CmdRef) (s : State) : CmdRes := do
  c.reserved [(0x08, 4)]
  let b := c.u8 0x08
  let k := c.u8 0x09
  let i := c.u16 0x0A
  need (b ≠ 0) eDenied 0x08
  need (decide (b ≤ 15)) eRange 0x08
  need (decide (k ≤ 4)) eRange 0x09
  need (decide (i < bankClassInst k)) eRange 0x0A
  need (!s.bankHeld b) eBusy
  .ok (s.modBank b (fun x => { x with cls := 0, inst := 0 }), .wait (.bank b k i))

end Sys2Proof.Machine
end

