-- ==== Sys2Proof/Machine/AudioOps.lean ====
section
/-! DEFINITION. Operations on the audio engine that other chapters share: freeing voices, buses and lanes, the ends of
voices, and the reports of R395. -/

namespace Sys2Proof.Machine

/-- Change the audio engine. -/
def State.modAudio (s : State) (f : Audio → Audio) : State := { s with audio := f s.audio }

/-- A change of one Ethernet MAC. -/
def State.modEth (m : Nat) (f : Eth → Eth) (s : State) : State :=
  { s with eth := IMap.put s.eth m (f (IMap.get s.eth {} m)) }

def State.voice (s : State) (v : Nat) : Voice := IMap.get s.audio.voices {} v
def State.bus (s : State) (b : Nat) : Bus := IMap.get s.audio.buses {} b
def State.lane (s : State) (l : Nat) : Lane := IMap.get s.audio.lanes {} l

def State.modVoice (s : State) (v : Nat) (f : Voice → Voice) : State :=
  s.modAudio (fun a => { a with voices := IMap.put a.voices v (f (IMap.get a.voices {} v)) })
def State.modBus (s : State) (b : Nat) (f : Bus → Bus) : State :=
  s.modAudio (fun a => { a with buses := IMap.put a.buses b (f (IMap.get a.buses {} b)) })
def State.modLane (s : State) (l : Nat) (f : Lane → Lane) : State :=
  s.modAudio (fun a => { a with lanes := IMap.put a.lanes l (f (IMap.get a.lanes {} l)) })

/-- A voice's handle (R369). -/
def Voice.handle (x : Voice) (v : Nat) : Nat := if 96 ≤ v then 0x100 + (v - 96) else x.gen * 0x10000 + v

/-- The tenant that owns a voice: tenant 1 owns K0 to K3 (R369). -/
def Voice.tenant (x : Voice) (v : Nat) : Option Nat := if 96 ≤ v then some 1 else x.owner

/-- An event goes to the owner of a voice, bus or lane. -/
def State.toOwner (o : Option Nat) (code : Nat) (ws : List Word) (s : State) : State :=
  match o with
  | none => s
  | some t => s.event t code ws

/-- A voice goes idle, and VOICE_END goes to its owner (R377, R395). A cut makes *E* 0; else it stays as it is. -/
def State.endVoice (v cause : Nat) (s : State) : State :=
  let x := s.voice v
  (s.modVoice v (fun x => { x with
    phase := .idle, level := if cause = 2 then 0 else x.level, out := 0, relStep := 0 })).toOwner (x.tenant v) 0x0B01
    ([word (x.handle v), word cause] ++ words64 s.now)

/-- How long a report waits after the one before it for the same resource: 100 ms, and 1 s for a TDM slip (R389, R395). -/
def reportGap (r : AudioReport) : Nat := if r.code = 0x0B05 ∧ r.cause = 1 then 1024000000 else 102400000

/-- The words of a report (Table 14.8). -/
def AudioReport.words (r : AudioReport) : List Word :=
  if r.code = 0x0B02 then [word r.key, word r.cause, word r.count] else [word r.cause, word r.key, word r.count]

/-- Send a report that is due. -/
def State.sendReport (r : AudioReport) (s : State) : State × AudioReport :=
  let due := decide (0 < r.count) && (match r.sent with
    | none => true
    | some t => decide (reportGap r ≤ s.since t))
  if due then (s.event r.owner r.code r.words, { r with count := 0, sent := some s.now }) else (s, r)

/-- Send every report that is due. -/
def State.flushReports (s : State) : State :=
  let (s, rs) := s.audio.reports.foldl (fun (acc : State × List AudioReport) r =>
    let (s, r) := acc.1.sendReport r
    (s, acc.2 ++ [r])) (s, [])
  s.modAudio (fun a => { a with reports := rs })

/-- What kind of resource an AUDIO_PORT_STATE names (Table 14.8): a lane is one, locked or unlocked. -/
def portResource (kind : Nat) : Nat := if kind = 3 then 2 else kind

/-- Something to report happens `n` times (R395): the cause or kind is that of the last case of the resource. -/
def State.report (code owner key cause n : Nat) (s : State) : State :=
  let same (r : AudioReport) : Bool := r.code = code && r.key = key && (code = 0x0B02 || portResource r.cause = portResource cause)
  let old := (s.audio.reports.find? same).getD ⟨code, owner, key, cause, 0, none⟩
  let new := { old with owner := owner, cause := cause, count := old.count + n }
  (s.modAudio (fun a => { a with reports := a.reports.filter (fun r => !same r) ++ [new] })).flushReports

/-- VOICE_FAULT for a voice. -/
def State.voiceFaultReport (v cause n : Nat) (s : State) : State :=
  let x := s.voice v
  match x.tenant v with
  | none => s
  | some t => s.report 0x0B02 t (x.handle v) cause n

/-- AUDIO_PORT_STATE, to the platform tenant. -/
def State.portReport (kind key n : Nat) (s : State) : State := s.report 0x0B05 0 key kind n

/-- Sends that name a freed bus or lane stop contributing (R379). -/
def dropSends (target index : Nat) (xs : List Send) : List Send :=
  xs.filter (fun e => !(e.target = target && e.index = index))

/-- Every voice, now or by a command that waits, loses its sends to a freed bus or lane. -/
def State.cutSends (target index : Nat) (s : State) : State :=
  s.modAudio (fun a => { a with
    voices := a.voices.map (fun (e : Nat × Voice) => (e.1, { e.2 with sends := dropSends target index e.2.sends }))
    waits := a.waits.map (fun w => match w.change with
      | .write v g => { w with change := .write v { g with sends := g.sends.map (dropSends target index) } }
      | _ => w) })

/-- A bridge lane is freed: what still waits for it changes nothing more. -/
def State.freeLane (l : Nat) (s : State) : State :=
  (s.cutSends 2 l).modAudio (fun a => { a with
    lanes := IMap.del a.lanes l
    waits := a.waits.map (fun w => match w.change with
      | .lane k _ => if k = l then { w with change := .note } else w
      | .freeLane k => if k = l then { w with change := .note } else w
      | _ => w) })

/-- Whether a lane takes from or gives to a bus. -/
def Lane.names (x : Lane) (b : Nat) : Bool := x.dstBus = b || (x.fromBus && x.srcBus = b)

/-- A bus is freed (R379): sends, lanes and carriers that name it stop contributing, and its capture carries zeros. -/
def State.freeBus (b : Nat) (s : State) : State :=
  (s.cutSends 1 b).modAudio (fun a => { a with
    lanes := a.lanes.map (fun (e : Nat × Lane) =>
      if e.2.names b then (e.1, { e.2 with dead := true }) else e)
    waits := a.waits.map (fun w => match w.change with
      | .bus k set => if k = b then { w with change := .note }
        else { w with change := .bus k { set with carrier := if set.carrier = some b then none else set.carrier } }
      | .lane l x => if x.names b then { w with change := .lane l { x with dead := true } } else w
      | _ => w)
    buses := a.buses.map (fun (e : Nat × Bus) =>
      if e.1 = b then (b, { capture := e.2.capture.map (fun k => { k with dead := true }), set := e.2.set })
      else
        let cut (g : BusSet) : BusSet := { g with carrier := if g.carrier = some b then none else g.carrier }
        (e.1, { e.2 with set := cut e.2.set, plan := cut e.2.plan })) })

/-- A tenant voice is freed (R370): what still waits for it changes nothing more. -/
def State.freeVoice (v : Nat) (s : State) : State :=
  let s := if (s.voice v).phase = .idle then s else s.endVoice v 3
  s.modAudio (fun a => { a with
    voices := IMap.del a.voices v
    meters := IMap.del a.meters v
    waits := a.waits.map (fun w => match w.change with
      | .write k _ => if k = v then { w with change := .note } else w
      | .start k => if k = v then { w with change := .note } else w
      | .stop k _ => if k = v then { w with change := .note } else w
      | _ => w) })

end Sys2Proof.Machine
end

