-- ==== Sys2Proof/Machine/DisplayOps.lean ====
section
/-! DEFINITION. The named operations of the display chapters: heads, clusters and ports by number, timing arithmetic,
plane handles, and what a tenant has staged (R116 to R118). -/

namespace Sys2Proof.Machine

/-! ### Heads, clusters and ports -/

/-- One head. -/
def State.head (s : State) (h : Nat) : Head := IMap.get s.disp.heads {} h

/-- Change one head. -/
def State.modHead (s : State) (h : Nat) (f : Head → Head) : State :=
  { s with disp := { s.disp with heads := IMap.put s.disp.heads h (f (s.head h)) } }

/-- Change the display side of the part. -/
def State.modDisp (s : State) (f : Display → Display) : State := { s with disp := f s.disp }

/-- One cluster. -/
def State.cluster (s : State) (n : Nat) : Cluster := IMap.get s.disp.clusters {} n

/-- Change one cluster. -/
def State.modCluster (s : State) (n : Nat) (f : Cluster → Cluster) : State :=
  { s with disp := { s.disp with clusters := IMap.put s.disp.clusters n (f (s.cluster n)) } }

/-- One port, 0 to 3 DP and 4 to 7 A-PHY. -/
def State.portAt (s : State) (p : Nat) : Port := IMap.get s.disp.ports {} p

/-- Change one port. -/
def State.modPort (s : State) (p : Nat) (f : Port → Port) : State :=
  { s with disp := { s.disp with ports := IMap.put s.disp.ports p (f (s.portAt p)) } }

/-- The tab threads of a head. -/
def State.headTabs (s : State) (h : Nat) : HeadTabs := IMap.get s.tabs {} h

/-- Change the tab threads of a head. -/
def State.modTabs (s : State) (h : Nat) (f : HeadTabs → HeadTabs) : State :=
  { s with tabs := IMap.put s.tabs h (f (s.headTabs h)) }

/-- The heads whose bits are set in a mask. -/
def maskHeads (m : Nat) : List Nat := (List.range 8).filter (fun h => bitOf m h)

/-! ### Timing arithmetic (R275 to R277) -/

def Timing.hTotal (t : Timing) : Nat := t.hA + t.hF + t.hS + t.hB
def Timing.vTotal (t : Timing) : Nat := t.vA + t.vF + t.vS + t.vB
/-- Dual-pixel mode (R277). -/
def Timing.dual (t : Timing) : Bool := decide (720000000 < t.rate)
/-- Meridian ticks of `n` lines, rounded down. -/
def Timing.lineTicks (t : Timing) (n : Nat) : Nat := n * t.hTotal * 1024000000 / max 1 t.rate
/-- The refresh rate rounded down, in Hz (R275). -/
def Timing.refresh (t : Timing) : Nat := t.rate / max 1 (t.hTotal * t.vTotal)
/-- Ticks of a number of microseconds (R439). -/
def ticksOfUs (n : Nat) : Nat := n * 1024

/-- Active area of a head; 0 by 0 without timing. -/
def Head.hA (x : Head) : Nat := (x.timing.map (·.hA)).getD 0
def Head.vA (x : Head) : Nat := (x.timing.map (·.vA)).getD 0
def Head.vT (x : Head) : Nat := (x.timing.map (·.vTotal)).getD 0
def Head.timed (x : Head) : Bool := x.timing.isSome
/-- Whether a head has compose boundaries (R119). -/
def Head.boundaries (x : Head) : Bool := x.timing.isSome && !x.stopped
/-- The line at whose entry a boundary is due nominally (R205). -/
def Head.dueLine (x : Head) : Nat := x.vT - x.lead.lead

/-- A rectangle inside a w by h area, itself not empty. -/
def Rect.inside (r : Rect) (w h : Nat) : Bool :=
  decide (1 ≤ r.w) && decide (1 ≤ r.h) && decide (r.x + r.w ≤ w) && decide (r.y + r.h ≤ h)
/-- A rectangle must lie inside an area: E_RANGE at its first field that is the cause. DEDUCED (assumption 14): an
edge beyond the area is charged to the extent where the corner lies inside. -/
def Rect.need (r : Rect) (w h off : Nat) : Except CErr Unit :=
  if r.inside w h then .ok ()
  else .error { status := eRange, detail :=
    if w ≤ r.x then off else if h ≤ r.y then off + 2
    else if r.w = 0 ∨ w < r.x + r.w then off + 4 else off + 6 }
/-- Whether a rectangle holds a point. -/
def Rect.has (r : Rect) (x y : Nat) : Bool :=
  decide (r.x ≤ x) && decide (x < r.x + r.w) && decide (r.y ≤ y) && decide (y < r.y + r.h)
/-- Whether two rectangles meet. -/
def Rect.meets (a b : Rect) : Bool :=
  decide (a.x < b.x + b.w) && decide (b.x < a.x + a.w) && decide (a.y < b.y + b.h) && decide (b.y < a.y + a.h)
/-- The part of a rectangle inside a w by h area. -/
def Rect.cut (r : Rect) (w h : Nat) : Rect := { r with w := min r.w (w - r.x), h := min r.h (h - r.y) }

/-- A rectangle of four u16 fields from `off`. -/
def rectOf (c : Cmd) (off : Nat) : Rect := ⟨c.u16 off, c.u16 (off + 2), c.u16 (off + 4), c.u16 (off + 6)⟩

/-! ### Planes by handle (R116, R117) -/

/-- The kind of a slot: 0 graticule, 1 object, 2 canvas, 3 contour. -/
def slotKind (slot : Nat) : Nat := if slot < 16 then 0 else if slot < 20 then 1 else if slot < 28 then 2 else 3

/-- The slots of a kind. -/
def kindSlots (kind : Nat) : List Nat :=
  match kind with
  | 0 => List.range 16
  | 1 => (List.range 4).map (· + 16)
  | 2 => (List.range 8).map (· + 20)
  | _ => (List.range 4).map (· + 28)

/-- A plane handle, or a thread handle (R259). -/
def handleOf (gen head slot : Nat) : Nat := gen * 0x10000 + head * 0x100 + slot

/-- The head, slot and generation of a plane handle whose other bits are 0. -/
def planeOfHandle (hd : Nat) : Option (Nat × Nat × Nat) :=
  if bits hd 15 11 = 0 ∧ bits hd 7 5 = 0 then some (bits hd 10 8, bits hd 4 0, bits hd 31 16) else none

/-- The live plane of a tenant that a handle names. -/
def State.findPlane (s : State) (t hd : Nat) : Option (Nat × Nat × Plane) :=
  match planeOfHandle hd with
  | none => none
  | some (h, slot, gen) =>
    match IMap.find? (s.head h).planes slot with
    | none => none
    | some p => if p.gen = gen ∧ p.owner = t then some (h, slot, p) else none

/-- The plane a command's handle names, or E_NOTOWNER (R117). -/
def needPlane (s : State) (t hd off : Nat) : Except CErr (Nat × Nat × Plane) :=
  match s.findPlane t hd with
  | none => .error { status := eNotOwner, detail := off }
  | some x => .ok x

def eZInUse : Nat := 0x0301
def ePlaneKind : Nat := 0x0302

/-- The plane of a staged command of one kind (R117 to R119): its handle, kind, timing and life are checked. -/
def needStaged (s : State) (t hd : Nat) (kind : Nat) : Except CErr (Nat × Nat × Plane) := do
  let (h, slot, p) ← needPlane s t hd 0x08
  need (slotKind slot = kind) ePlaneKind 0x08
  need (s.head h).timed eState
  need p.dying.isNone eState
  return (h, slot, p)

/-! ### Stages (R118) -/

/-- What a tenant has staged for a head. -/
def Head.stage (x : Head) (t : Nat) : Stage := IMap.get x.stages {} t

/-- Change what a tenant has staged for a head. -/
def State.modStage (s : State) (h t : Nat) (f : Stage → Stage) : State :=
  s.modHead h (fun x => { x with stages := IMap.put x.stages t (f (x.stage t)) })

/-- Change what a tenant has staged for a plane. -/
def State.stagePlane (s : State) (h t slot : Nat) (f : PlaneStage → PlaneStage) : State :=
  s.modStage h t (fun g => { g with planes := IMap.put g.planes slot (f (IMap.get g.planes {} slot)) })

/-- Staged state over committed state (R118): a later staged command replaces an earlier one completely. -/
def PlaneStage.over (g : PlaneStage) (c : PlaneContent) : PlaneContent :=
  { params := g.params.or c.params
    canvas := g.canvas.or c.canvas
    objects := g.objects.getD c.objects
    coefs := g.coefs.or c.coefs
    edges := g.edges.getD c.edges
    paint := g.paint.getD c.paint
    transfer := g.transfer.getD c.transfer }

/-- What of one stage another does not set. -/
def PlaneStage.without (g new : PlaneStage) : PlaneStage :=
  { params := if new.params.isSome then none else g.params
    canvas := if new.canvas.isSome then none else g.canvas
    objects := if new.objects.isSome then none else g.objects
    coefs := if new.coefs.isSome then none else g.coefs
    edges := if new.edges.isSome then none else g.edges
    paint := if new.paint.isSome then none else g.paint
    transfer := if new.transfer.isSome then none else g.transfer }

/-- A plane's content with what a stage set brought back to older content (R347). -/
def PlaneStage.undo (g : PlaneStage) (old cur : PlaneContent) : PlaneContent :=
  { params := if g.params.isSome then old.params else cur.params
    canvas := if g.canvas.isSome then old.canvas else cur.canvas
    objects := if g.objects.isSome then old.objects else cur.objects
    coefs := if g.coefs.isSome then old.coefs else cur.coefs
    edges := if g.edges.isSome then old.edges else cur.edges
    paint := if g.paint.isSome then old.paint else cur.paint
    transfer := if g.transfer.isSome then old.transfer else cur.transfer }

/-- Newer staged state over older staged state. -/
def PlaneStage.merge (new old : PlaneStage) : PlaneStage :=
  { params := new.params.or old.params
    canvas := new.canvas.or old.canvas
    objects := new.objects.or old.objects
    coefs := new.coefs.or old.coefs
    edges := new.edges.or old.edges
    paint := new.paint.or old.paint
    transfer := new.transfer.or old.transfer }

/-- A table laid over another, entry by entry. -/
def IMap.over {α : Type} (new old : IMap α) : IMap α := new.foldl (fun m e => IMap.put m e.1 e.2) old

/-- Newer staged state over older staged state, for a whole head. -/
def Stage.merge (new old : Stage) : Stage :=
  { planes := new.planes.foldl (fun m e => IMap.put m e.1 (e.2.merge (IMap.get m {} e.1))) old.planes
    palettes := IMap.over new.palettes old.palettes
    luts := IMap.over new.luts old.luts
    post := new.post.or old.post
    dither := new.dither.or old.dither
    lists := IMap.over new.lists old.lists
    tabs := IMap.over new.tabs old.tabs }

/-- The entries of a table whose keys another does not have. -/
def IMap.lacking {α β : Type} (m : IMap α) (new : IMap β) : IMap α := m.filter (fun e => (IMap.find? new e.1).isNone)

/-- What of one stage another does not set, for a whole head. -/
def Stage.without (g new : Stage) : Stage :=
  { planes := g.planes.map (fun e => (e.1, match IMap.find? new.planes e.1 with | none => e.2 | some n => e.2.without n))
    palettes := IMap.lacking g.palettes new.palettes
    luts := IMap.lacking g.luts new.luts
    post := if new.post.isSome then none else g.post
    dither := if new.dither.isSome then none else g.dither
    lists := IMap.lacking g.lists new.lists
    tabs := IMap.lacking g.tabs new.tabs }

/-- The stages of accepted commits that have not applied on a head, in ring order, with the tenant (R220). -/
def State.waitingStages (s : State) (h : Nat) : List (Nat × Stage) :=
  s.disp.commits.flatMap (fun k =>
    (k.members.filter (fun m => m.head = h && !m.applied)).map (fun m => (k.ref.tenant, m.stage)))

/-- The content of a plane as its owner sees it: committed, then accepted commits, then staged. -/
def State.planeView (s : State) (h slot : Nat) (p : Plane) : PlaneContent :=
  let gs := ((s.waitingStages h).filter (fun e => e.1 = p.owner)).map Prod.snd ++ [(s.head h).stage p.owner]
  gs.foldl (fun c g => (IMap.get g.planes {} slot).over c) p.content

/-! ### Shared numbers -/

/-- Where a head's frame store lies, and the pitch of its rows (R95). -/
def storePitch (hA : Nat) : Nat := roundUp (hA * 8) 256

/-- CCLK cycles of one line (R217). -/
def State.lineCycles (s : State) (t : Timing) : Nat := t.hTotal * s.clocks.cclk * 1000000 / max 1 t.rate

/-- Whether a tenant holds a viewport on a head. -/
def Head.views (x : Head) (t : Nat) : Bool := x.viewports.any (fun e => e.1 = t)

/-- Whether a head is one whose events a tenant may subscribe to (R295): it holds a viewport there, or is 0 or 1. -/
def State.seesHead (s : State) (h t : Nat) : Bool := decide (t ≤ 1) || (s.head h).views t

/-- Still state ends at a request (R294): the next boundary is the first at or after now plus the deadline. -/
def State.endStill (h : Nat) (s : State) : State :=
  let x := s.head h
  if x.still then
    s.modHead h (fun x => { x with
      still := false
      wakeAt := some (s.now + BitVec.ofNat 64 (ticksOfUs ((x.timing.map (·.deadline)).getD 0))) })
  else s

/-- The armed changes without the commit groups that have applied or rolled back. -/
def Display.liveArms (d : Display) : List ArmChange :=
  d.arms.filter (fun a => match a.kind with
    | .group r => d.commits.any (fun k => k.ref = r) || d.undos.any (fun u => u.ref = r)
    | _ => true)

/-- The armed changes that are no commit groups and that have still to apply or to roll back. -/
def Display.openArms (d : Display) : List ArmChange :=
  d.arms.filter (fun a => (match a.kind with | .group _ => false | _ => true) && (!a.applied || !a.failed.isEmpty))

/-- The number under which a commit group was armed. -/
def Display.groupId (d : Display) (r : CmdRef) : Option Nat := (d.arms.find? (fun a => a.kind = .group r)).map (·.id)

/-- Whether a group's clusters hold an armed change that came before the group, so that its members count as not armed
(R348). -/
def Display.groupHeld (d : Display) (r : CmdRef) : Bool :=
  match d.groupId r with
  | none => false
  | some g => d.openArms.any (fun a => decide (a.id < g))

/-- Whether a commit group that came before a change has still to apply or to roll back (R348). -/
def Display.groupBefore (d : Display) (id : Nat) : Bool :=
  let before (r : CmdRef) : Bool := match d.groupId r with | none => false | some g => decide (g < id)
  d.commits.any (fun k => decide (1 < k.members.length) && before k.ref) ||
    d.undos.any (fun u => u.back && before u.ref && (IMap.get d.heads {} u.head).boundaries)

/-- Once no head has still to stop for a change into Keep or Listen, Meridian stops at the next slow-counter edge (R419
steps 3 and 5, R442). -/
def State.sleepWhenStopped (s : State) : State :=
  match s.power.change with
  | none => s
  | some m =>
    if m.applied && (m.target = .keep || m.target = .listen) && !s.disp.heads.any (fun e => e.2.stopDue) then
      { s with time := { s.time with stopDue := s.time.running } }
    else s

/-- The count of planes a tenant holds on all heads (Table 3.1). -/
def State.planeCount (s : State) (t : Nat) : Nat :=
  ((s.disp.heads.map (fun e => (e.2.planes.filter (fun p => p.2.owner = t)).length)).sum)

end Sys2Proof.Machine
end

