-- ==== Sys2Proof/Machine/Arbiter.lean ====
section
/-! DEFINITION. The maintenance arbiter (R349 to R352): what each activity claims, and which activity starts next. -/

namespace Sys2Proof.Machine

/-- Whether two activities claim a common resource (Table 13.4). -/
def actConflict (a b : Nat) : Bool :=
  a = b || (a = 2 && b = 5) || (a = 5 && b = 2) || (a = 4 && b = 6) || (a = 6 && b = 4)

/-- Whether an activity runs in a mode (Table 13.3). -/
def actInMode (a : Nat) : Mode → Bool
  | .drive => true
  | .service => true
  | .tell => a = 2 || a = 5 || a = 6
  | _ => false

/-- The default period of an activity in ms (Table 13.3). -/
def actPeriod : Nat → Nat
  | 1 => 60000 | 2 => 1000 | 3 => 600000 | 4 => 60000 | 5 => 100 | _ => 1000

/-- One activity. -/
def State.activity (s : State) (a : Nat) : Activity := IMap.get s.disp.arbiter.act { period := actPeriod a } a

/-- Change one activity. -/
def State.modActivity (a : Nat) (f : Activity → Activity) (s : State) : State :=
  s.modDisp (fun d => { d with arbiter := { d.arbiter with act := IMap.put d.arbiter.act a (f (s.activity a)) } })

/-- MAINTENANCE_ORDER (R352, Table 13.6): `what` 0 started, 1 queued, 2 completed, 3 failed. -/
def State.orderEvent (a what blocker : Nat) (cluster : Option Nat) (s : State) : State :=
  s.event 0 0x0A03 ([word a, word what, word blocker, word (cluster.getD 0xFF)] ++ words64 s.now)

/-- The running activity of lowest code that an activity conflicts with. -/
def State.blocker (s : State) (a : Nat) : Option Nat :=
  [1, 2, 3, 4, 5, 6].find? (fun b => (s.activity b).running && actConflict a b)

/-- The Spare cluster that activity 4 tests next, each in its turn; one that a takeover has chosen is passed over. -/
def State.bistTarget (s : State) : Option Nat :=
  let from_ := (s.activity 4).next
  let taken := s.disp.takeovers.filterMap (·.new)
  ((List.range 10).map (fun i => (from_ + i) % 10)).find? (fun n =>
    (s.cluster n).service = .spare && !taken.contains n)

/-- An activity starts (R351). -/
def State.startActivity (a : Nat) (cluster : Option Nat) (s : State) : State :=
  (s.modActivity a (fun x => { x with
    running := true, lastStart := s.now, queued := none, cluster := cluster, refs := x.waitRefs, waitRefs := []
    next := match cluster with | some n => (n + 1) % 10 | none => x.next })).orderEvent a 0 0 cluster

/-- Start a queued activity where nothing it conflicts with runs; activity 4 needs a Spare cluster. -/
def State.startIfFree (a : Nat) (s : State) : State :=
  if (s.activity a).queued.isNone || !actInMode a s.power.mode || (s.blocker a).isSome then s
  else if a = 4 then
    match s.bistTarget with
    | none => s
    | some n => s.startActivity 4 (some n)
  else s.startActivity a none

/-- The first of the queued quarantine self-tests starts, ahead of all others (R343, R351). -/
def State.startSelfTest (s : State) : State :=
  match s.disp.arbiter.tests with
  | [] => s
  | n :: rest =>
    if (s.blocker 4).isSome || !actInMode 4 s.power.mode then s
    else
      let due := (s.activity 4).queued
      let s := s.modDisp (fun d => { d with arbiter := { d.arbiter with tests := rest } })
      (s.modActivity 4 (fun x => { x with running := true, cluster := some n, queued := due })).orderEvent 4 0 0 (some n)

/-- The queued activities in the order of R351: by due time, then by code. -/
def State.queuedOrder (s : State) : List Nat :=
  let qs := [1, 2, 3, 4, 5, 6].filterMap (fun a => (s.activity a).queued.map (fun t => (a, t)))
  (sortBy (fun x y => decide (s.since y.2 ≤ s.since x.2)) qs).map Prod.fst

/-- Start whatever may start now (R351). -/
def State.startQueued (s : State) : State :=
  let s := s.startSelfTest
  s.queuedOrder.foldl (fun s a => s.startIfFree a) s

/-- An activity becomes due (R351): it starts at once, or queues behind the running activity that blocks it. -/
def State.activityDue (a : Nat) (ref : Option CmdRef) (s : State) : State :=
  let already := (s.activity a).queued.isSome
  let s := s.modActivity a (fun x => { x with
    queued := x.queued.or (some s.now), waitRefs := x.waitRefs ++ ref.toList })
  let s := s.startQueued
  match s.blocker a with
  | some b => if already || (s.activity a).queued.isNone then s
    else s.orderEvent a 1 b (if a = 4 then s.bistTarget else none)
  | none => s

/-- A Spare cluster that is needed leaves its self-test at once (R349): the run counts as neither a pass nor a failure,
and a run-now command's test is queued again. -/
def State.abandonTest (n : Nat) (s : State) : State :=
  let x := s.activity 4
  if x.running && x.cluster = some n && (s.cluster n).service = .spare then
    (s.modActivity 4 (fun x => { x with
      running := false, cluster := none, refs := [], waitRefs := x.refs ++ x.waitRefs
      queued := if x.refs.isEmpty then x.queued else x.queued.or (some s.now) }))
  else s

/-- Running activities that a mode does not run stop (R351): each runs again, a self-test first, when its mode returns. -/
def State.stopActivities (m : Mode) (s : State) : State :=
  [1, 2, 3, 4, 5, 6].foldl (fun s a =>
    let x := s.activity a
    if !x.running || actInMode a m then s
    else
      let test := match x.cluster with
        | some n => if a = 4 && (s.cluster n).service = .quarantined then some n else none
        | none => none
      let s := match test with
        | some n => s.modDisp (fun d => { d with arbiter := { d.arbiter with tests := n :: d.arbiter.tests } })
        | none => s
      s.modActivity a (fun x => { x with
        running := false, cluster := none, refs := [], waitRefs := x.refs ++ x.waitRefs
        queued := if test.isSome then x.queued else x.queued.or (some s.now) })) s

end Sys2Proof.Machine
end

