-- ==== Sys2Proof/Machine/Clusters.lean ====
section
/-! DEFINITION. Clusters and takeovers (R13, R14, R41, R337 to R344): service states and their events, the choice of a
spare, donors, and the declaration of a dead cluster. -/

namespace Sys2Proof.Machine

/-- The code of a service state (Table 2.3). -/
def Service.code : Service → Nat
  | .active => 0 | .spare => 1 | .quarantined => 2 | .retired => 3 | .suspect => 4

/-- CLUSTER_STATE (R365) to tenant 0. -/
def State.clusterEvent (n : Nat) (old new : Service) (head : Option Nat) (cause : Nat) (s : State) : State :=
  s.event 0 0x0A02 [word n, word old.code, word new.code, word (head.getD 0xFF), word cause, 5, word n]

/-- A cluster changes state, with CLUSTER_STATE (R343), and at a retirement DEV.EVENT bit 2 (Table 3.10). DESIGN CHOICE
(assumption 64): the cause is 0 where none of those of Table 13.6 brought the change about. -/
def State.setService (n : Nat) (new : Service) (head : Option Nat) (cause : Nat) (s : State) : State :=
  let old := (s.cluster n).service
  let s := s.modCluster n (fun k => { k with service := new })
  if old = new then s
  else
    let s := s.clusterEvent n old new head cause
    if new = .retired then s.devEvent 2 else s

/-- The region of a cluster and of a head (Table 1.1). -/
def clusterRegion (n : Nat) : Nat := n / 5
def headRegion (h : Nat) : Nat := h / 4

/-- The clusters that a waiting takeover has chosen. -/
def State.promised (s : State) : List Nat := s.disp.takeovers.filterMap (·.new)

/-- Spare clusters that no takeover has chosen. -/
def State.freeSpare (s : State) (n : Nat) : Bool := (s.cluster n).service = .spare && !s.promised.contains n

/-- The cluster a head is given (R13, R339): the lowest Spare one of the head's region, else of the other. -/
def State.pickSpare (s : State) (h : Nat) : Option Nat :=
  ((List.range 10).find? (fun n => s.freeSpare n && clusterRegion n = headRegion h)).or
    ((List.range 10).find? (fun n => s.freeSpare n))

/-- A head takes a cluster (R279, R339); OBJEV.OVERFLOW clears as the evaluator begins to serve it (R148). -/
def State.assignCluster (h n cause : Nat) (s : State) : State :=
  let s := (s.abandonTest n).setService n .active (some h) cause
  ((s.modCluster n (fun k => { k with head := some h, missed := 0, ovf := none })).modHead h (fun x => { x with
    cluster := some n })).startQueued

/-- Whether a head's cluster composes for it: it has one, which serves this head and is Active or Suspect. -/
def State.served (s : State) (h : Nat) : Bool :=
  match (s.head h).cluster with
  | none => false
  | some n => (s.cluster n).head = some h && ((s.cluster n).service = .active || (s.cluster n).service = .suspect)

/-- The heads with timing in degradation order (R356): highest priority value first, then highest head number. -/
def State.degradationOrder (s : State) : List Nat :=
  let hs := ((List.range 8).filter (fun h => (s.head h).timed)).reverse
  sortBy (fun a b => decide ((s.head b).priority ≤ (s.head a).priority)) hs

/-- One millisecond in Meridian ticks. -/
def msTicks : Nat := 1024000

/-- Whether a cluster serves its head as Active, so that it can be a donor's (R341). -/
def State.mayDonate (s : State) (d : Nat) : Bool :=
  s.served d && (match (s.head d).cluster with | none => false | some n => (s.cluster n).service = .active)

/-- A takeover is to come (R339): it waits with the others, and a head in Still state ends that state for it (R294). -/
def State.addTakeover (t : Takeover) (s : State) : State :=
  (s.modDisp (fun d => { d with takeovers := d.takeovers ++ [t] })).endStill t.head

/-- A Spare cluster is chosen for a head: it is tested no more, and the takeover waits. -/
def State.chooseSpare (h n : Nat) (old : Option Nat) (after : Meridian) (s : State) : State :=
  ((s.abandonTest n).addTakeover ⟨h, some n, old, after, none⟩).startQueued

/-- Replace the cluster of a head (R339, R341): by a spare, by a donor's, or not yet, when the head falls back. -/
def State.replaceCluster (h : Nat) (old : Option Nat) (s : State) : State :=
  let after := s.now + BitVec.ofNat 64 msTicks
  match s.pickSpare h with
  | some n => s.chooseSpare h n old after
  | none =>
    let p := (s.head h).priority
    match s.degradationOrder.find? (fun d => d ≠ h && decide (p < (s.head d).priority) && !(s.head d).held &&
        s.mayDonate d && !s.disp.takeovers.any (fun t => t.donor = some d || t.head = d)) with
    | some d => (s.addTakeover ⟨h, none, old, after, some d⟩).endStill d
    | none => (s.addTakeover ⟨h, none, old, after, none⟩).modHead h (fun x => { x with orphaned := true })

/-- A Suspect cluster in service is replaced by a Spare one, where there is one (R344). -/
def State.replaceSuspect (h n : Nat) (s : State) : State :=
  if s.disp.takeovers.any (fun t => t.head = h) then s
  else match s.pickSpare h with
    | some m => s.chooseSpare h m (some n) (s.now + BitVec.ofNat 64 msTicks)
    | none => s

/-- A waiting takeover that has lost its cluster chooses again: a head that is served still waits for a spare alone (R344). -/
def State.chooseAgain (t : Takeover) (s : State) : State :=
  if s.served t.head then
    match (s.head t.head).cluster with
    | some n => s.replaceSuspect t.head n
    | none => s
  else s.replaceCluster t.head t.old

/-- Waiting takeovers whose chosen spare has died, or whose donor has lost its own cluster, choose again. -/
def State.rechoose (n : Nat) (donor : Option Nat) (s : State) : State :=
  let gone (t : Takeover) : Bool := t.new = some n || (donor.isSome && t.donor = donor)
  let lost := s.disp.takeovers.filter gone
  let s := s.modDisp (fun d => { d with takeovers := d.takeovers.filter (fun t => !gone t) })
  lost.foldl (fun s t => s.chooseAgain t) s

/-- A cluster is Quarantined and its self-test queued (R343, R344). -/
def State.quarantine (n cause : Nat) (s : State) : State :=
  let s := (s.setService n .quarantined (s.cluster n).head cause).devEvent 2
  let s := (s.modDisp (fun d => { d with arbiter := { d.arbiter with tests := d.arbiter.tests ++ [n] } })).startSelfTest
  match s.blocker 4 with
  | some b => if s.disp.arbiter.tests.contains n then s.orderEvent 4 1 b (some n) else s
  | none => s

/-- A cluster is declared dead (R338): Quarantined, its self-test queued (R343), its head's cluster replaced. The frame
of the declaration gives no margin and no CRC (R340). -/
def State.declareDead (n : Nat) (s : State) : State :=
  let h := (s.cluster n).head
  let s := ((s.abandonTest n).modCluster n (fun k => { k with missed := 0 })).quarantine n 1
  match h with
  | none => s.rechoose n none
  | some h =>
    if (s.head h).cluster = some n then
      let s := s.modHead h (fun x => { x with
        comp := { x.comp with running := false, disturbed := true, margin := none, lastMargin := none, equal := 0 } })
      let s := s.modDisp (fun d => { d with takeovers := d.takeovers.filter (fun t => t.head != h) })
      (s.rechoose n (some h)).replaceCluster h (some n)
    else s.rechoose n none

/-- Who a cluster that has become Spare serves at once (R341, R344): a head whose takeover has no cluster yet, held or
fallen back, lowest priority value then lowest number first; otherwise the head of a Suspect cluster. -/
def State.giveSpare (n : Nat) (s : State) : State :=
  let waiting := s.disp.takeovers.filter (fun t => t.new.isNone && t.donor.isNone)
  let best := waiting.foldl (fun b t => match b with
    | none => some t
    | some (k : Takeover) =>
      let pk := (s.head k.head).priority
      let pt := (s.head t.head).priority
      if pt < pk ∨ (pt = pk ∧ t.head < k.head) then some t else some k) none
  match best with
  | some t => (s.modDisp (fun d => { d with takeovers := d.takeovers.map (fun k =>
      if k = t then { k with new := some n } else k) })).endStill t.head
  | none =>
    match (List.range 10).find? (fun m => (s.cluster m).service = .suspect && (s.cluster m).head.isSome &&
        !s.disp.takeovers.any (fun t => t.old = some m)) with
    | some m =>
      match (s.cluster m).head with
      | some h => s.addTakeover ⟨h, some n, some m, s.now, none⟩
      | none => s
    | none => s

/-- A cluster is marked Suspect (R344, R347): one that serves a head is replaced when a spare exists, and a Spare one is
quarantined at once. One that is Quarantined or Retired is no unit of a change, and one marked already stays so. -/
def State.suspectCluster (n : Nat) (s : State) : State :=
  match (s.cluster n).service with
  | .active =>
    let h := (s.cluster n).head
    let s := s.setService n .suspect h 2
    match h with
    | some h => s.replaceSuspect h n
    | none => s
  | .spare => (((s.abandonTest n).setService n .suspect none 2).quarantine n 2).rechoose n none
  | _ => s

/-- A unit is marked Suspect (R344, R347); one that is no cluster stays so until reset. -/
def State.markSuspect (u : ArmUnit) (s : State) : State :=
  match u with
  | .head h =>
    match (s.head h).cluster with
    | some n => s.suspectCluster n
    | none => s
  | .cluster n => s.suspectCluster n
  | .unit ty i =>
    if s.legend.suspects.contains (ty, i) then s
    else
      let s := { s with legend := { s.legend with suspects := s.legend.suspects ++ [(ty, i)] } }
      s.event 0 0x0A02 [0xFF, 0, 4, 0xFF, 2, word ty, word i]

/-- The banks of a replaced cluster's tab cores go to the new cluster's cores with their content (R269). Where the old
cluster serves another head by now, only banks that hold a segment of this head's threads move. -/
def State.moveBanks (h m n : Nat) (s : State) : State :=
  let mine := (s.headTabs h).threads.flatMap (fun e => [bankOf e.2.codeAt, bankOf e.2.dataAt])
  let whole := (s.cluster m).head = none || (s.cluster m).head = some h
  (List.range 16).foldl (fun s b =>
    let k := s.bank b
    if k.cls = 2 ∧ k.inst / 2 = m ∧ (whole || mine.contains (some b)) then
      s.modBank b (fun k => { k with inst := 2 * n + k.inst % 2 })
    else s) s

end Sys2Proof.Machine
end

