-- ==== Sys2Proof/Machine/Planes.lean ====
section
/-! DEFINITION. Plane commands of graticule, object, canvas and contour planes (R116 to R136, R152 to R181). -/

namespace Sys2Proof.Machine

/-! ### Creation and destruction -/

/-- Whether a slot is taken: by its own plane, or by the affine plane of its fetcher (R116). -/
def Head.slotTaken (x : Head) (slot : Nat) : Bool :=
  (IMap.find? x.planes slot).isSome ||
    (decide (slot < 16) && slot % 2 = 1 && ((IMap.find? x.planes (slot - 1)).map (·.affine)).getD false)

/-- The slot PLANE_CREATE takes (R116). -/
def Head.freeSlot (x : Head) (kind : Nat) (affine : Bool) : Option Nat :=
  if affine then (kindSlots 0).find? (fun i => i % 2 = 0 && !x.slotTaken i && !x.slotTaken (i + 1))
  else (kindSlots kind).find? (fun i => !x.slotTaken i)

/-- PLANE_CREATE (R116). -/
def planeCreateBody (c : Cmd) (_ : CmdRef) (s : State) : CmdRes := do
  let kind := c.u8 0x09
  need (decide (kind ≤ 3)) eRange 0x09
  c.reserved [(0x08, 5)]
  let h := c.u8 0x08
  let z := c.u8 0x0A
  let cls := c.u8 0x0B
  let mode := c.u8 0x0C
  need (decide (h ≤ 7)) eRange 0x08
  need (decide (z ≤ 31)) eRange 0x0A
  need (decide (cls ≤ 3)) eRange 0x0B
  need (if kind = 0 then decide (mode ≤ 1) else mode = 0) eRange 0x0C
  need (decide (2 ≤ kind) || cls = 0) eBadCmd 0x0B
  let x := s.head h
  need x.timed eState
  need (!x.planes.any (fun p => p.2.z = z)) eZInUse 0x0A
  need (decide (s.planeCount c.tenant < ((s.tenant? c.tenant).map (·.quotas.planes)).getD 0)) eQuota
  match x.freeSlot kind (mode = 1) with
  | none => .error { status := eNoRes }
  | some slot =>
    let gen := (IMap.get x.gens 0 slot + 1) % 0x10000
    okDone (s.modHead h (fun x => { x with
      gens := IMap.put x.gens slot gen
      planes := IMap.put x.planes slot
        { gen := gen, owner := c.tenant, z := z, cls := cls, affine := mode = 1 } }))
      [word (handleOf gen h slot)]

/-- A plane leaves its head with all staged state for it (R119), and with what a group's way back would bring it (R347). -/
def State.removePlane (h slot : Nat) (s : State) : State :=
  let s := s.modHead h (fun x => { x with
    planes := IMap.del x.planes slot
    stages := x.stages.map (fun e => (e.1, { e.2 with planes := IMap.del e.2.planes slot })) })
  s.modDisp (fun d => { d with
    commits := d.commits.map (fun k => { k with
      members := k.members.map (fun m =>
        if m.head = h then { m with stage := { m.stage with planes := IMap.del m.stage.planes slot } } else m) })
    undos := d.undos.map (fun u => if u.head = h then { u with
      planes := IMap.del u.planes slot, polys := IMap.del u.polys slot
      group := { u.group with planes := IMap.del u.group.planes slot } } else u) })

/-- PLANE_DESTROY (R119). -/
def planeDestroyBody (c : Cmd) (r : CmdRef) (s : State) : CmdRes := do
  c.reserved [(0x08, 4)]
  let (h, slot, p) ← needPlane s c.tenant (c.u32 0x08) 0x08
  need p.dying.isNone eState
  if (s.head h).boundaries then
    .ok ((s.modHead h (fun x => { x with
      planes := IMap.adjust x.planes slot (fun p => { p with dying := some r }) })).endStill h, .later)
  else okDone (s.removePlane h slot) []

/-! ### PLANE_SET -/

def eScale : Nat := 0x0401
def eEdgeLimit : Nat := 0x0402

/-- Flag bits that must be zero (R7). -/
def needFlags (v mask off : Nat) : Except CErr Unit := need (v &&& (0xFFFFFFFF - mask) = 0) eBadCmd off

/-- The line scaler meets both ratios (R161, R162). -/
def lineScales (sw sh dw dh : Nat) : Bool :=
  decide (sw ≤ 8 * dw) && decide (dw ≤ 16 * sw) && decide (sh ≤ 4 * dh) && decide (dh ≤ 16 * sh)

/-- The polyphase scaler meets both ratios (R162). -/
def polyScales (sw sh dw dh : Nat) : Bool :=
  decide (sw ≤ 8 * dw) && decide (dw ≤ 16 * sw) && decide (sh ≤ 8 * dh) && decide (dh ≤ 16 * sh)

/-- Whether parameters need a polyphase scaler (R162). -/
def Params.needsPoly (q : Params) : Bool :=
  q.scaler = 2 || (q.scaler = 0 && !lineScales q.srcW q.srcH q.dest.w q.dest.h)

/-- The lowest free polyphase scaler of a head's cluster (R163). DEDUCED (assumption 65): one that a group's way back would give
a plane again (R347) is not free while that way is open. -/
def State.freePoly (s : State) (h : Nat) : Option Nat :=
  lowest 4 (fun i => !(s.head h).planes.any (fun p => p.2.poly = some i) &&
    !s.disp.undos.any (fun u => u.head = h && u.polys.any (fun e => e.2 = i)))

/-- The chroma-sampled formats. -/
def yuvFormat (f : Nat) : Bool := decide (3 ≤ f)
def halfRows (f : Nat) : Bool := f = 3 || f = 4

/-- Graticule parameters (Tables 5.5 and 5.7). -/
def graticuleParams (c : Cmd) (p : Plane) (x : Head) : Except CErr Params := do
  let fl := c.u8 0x0C
  let r := rectOf c 0x10
  need (decide (c.u8 0x0D ≤ 1)) eRange 0x0D
  need (decide (c.u8 0x0E ≤ 5)) eRange 0x0E
  need (decide (c.u8 0x0F ≤ 63)) eRange 0x0F
  r.need x.hA x.vA 0x10
  need (decide (1 ≤ c.u16 0x28) && decide (c.u16 0x28 ≤ 4096)) eRange 0x28
  need (decide (1 ≤ c.u16 0x2A) && decide (c.u16 0x2A ≤ 4096)) eRange 0x2A
  need (decide (1 ≤ c.u32 0x2C) && decide (c.u32 0x2C ≤ 1048576)) eRange 0x2C
  let s32 (off : Nat) : Int := c.s32 off
  let s64 (off : Nat) : Int := signed 64 (c.u64 off)
  if p.affine then
    for off in [0x40, 0x44, 0x48, 0x4C] do
      need (decide (-8388608 ≤ s32 off) && decide (s32 off ≤ 8388607)) eRange off
    for off in [0x50, 0x58] do
      need (decide (-(2 ^ 47 : Int) ≤ s64 off) && decide (s64 off < 2 ^ 47)) eRange off
    for off in [0x60, 0x64] do
      need (decide (-32768 ≤ s32 off) && decide (s32 off ≤ 32767)) eRange off
  need (c.u64 0x18 % 64 = 0) eAlign 0x18
  need (c.u64 0x20 % 64 = 0) eAlign 0x20
  let q : Params :=
    { visible := bitOf fl 0, wrap := bitOf fl 1, zeroT := bitOf fl 2, premul := bitOf fl 3, big := c.u8 0x0D = 1
      format := c.u8 0x0E, palBase := c.u8 0x0F, dest := r, mapAddr := c.u64 0x18, addr := c.u64 0x20
      mapW := c.u16 0x28, mapH := c.u16 0x2A, tiles := c.u32 0x2C, alpha := c.u8 0x38 }
  return if p.affine then
    { q with a := s32 0x40, b := s32 0x44, c := s32 0x48, d := s32 0x4C, cx := s64 0x50, cy := s64 0x58
             px := s32 0x60, py := s32 0x64 }
  else { q with sx := s32 0x30, sy := s32 0x34 }

/-- Object parameters (Table 5.9). -/
def objectParams (c : Cmd) (x : Head) : Except CErr Params := do
  let fl := c.u8 0x0C
  let r := rectOf c 0x10
  need (decide (c.u8 0x0F ≤ 63)) eRange 0x0F
  r.need x.hA x.vA 0x10
  need (c.u64 0x18 % 64 = 0) eAlign 0x18
  return { visible := bitOf fl 0, zeroT := bitOf fl 2, premul := bitOf fl 3, palBase := c.u8 0x0F, dest := r
           addr := c.u64 0x18, sx := c.s16 0x20, sy := c.s16 0x22, alpha := c.u8 0x24 }

/-- Canvas parameters (Table 6.4, R158, R162); `free`: the plane holds a polyphase scaler, or one is free. DESIGN CHOICE
(assumption 14): a ratio that the scaler cannot meet is charged to the field that asks for the scaler. -/
def canvasParams (c : Cmd) (x : Head) (free : Bool) (v : PlaneContent) : Except CErr Params := do
  let fl := c.u8 0x0C
  let r := rectOf c 0x10
  let q : Params :=
    { visible := bitOf fl 0, premul := bitOf fl 3, scaler := bits fl 5 4, dest := r, srcX := c.u16 0x18
      srcY := c.u16 0x1A, srcW := c.u16 0x1C, srcH := c.u16 0x1E, alpha := c.u8 0x20 }
  need (decide (q.scaler ≤ 2)) eRange 0x0C
  r.need x.hA x.vA 0x10
  need (decide (1 ≤ q.srcW)) eRange 0x1C
  need (decide (1 ≤ q.srcH)) eRange 0x1E
  match v.canvas with
  | none => pure ()
  | some k =>
    (⟨q.srcX, q.srcY, q.srcW, q.srcH⟩ : Rect).need k.width k.height 0x18
    if yuvFormat k.format then
      need (q.srcX % 2 = 0) eAlign 0x18
    if halfRows k.format then
      need (q.srcY % 2 = 0) eAlign 0x1A
    if yuvFormat k.format then
      need (q.srcW % 2 = 0) eAlign 0x1C
    if halfRows k.format then
      need (q.srcH % 2 = 0) eAlign 0x1E
  need (if q.scaler = 1 then lineScales q.srcW q.srcH r.w r.h else polyScales q.srcW q.srcH r.w r.h) eScale 0x0C
  need (!q.needsPoly || free) eNoRes
  return q

/-- Contour parameters (Table 6.5). -/
def contourParams (c : Cmd) (x : Head) : Except CErr Params := do
  let fl := c.u8 0x0C
  let r := rectOf c 0x10
  r.need x.hA x.vA 0x10
  return { visible := bitOf fl 0, evenOdd := bitOf fl 1, dest := r, sx := c.s16 0x18, sy := c.s16 0x1A
           alpha := c.u8 0x1C }

/-- The reserved bits and fields of a PLANE_SET for a plane of its slot's kind (Tables 5.5, 5.7, 5.9, 6.4 and 6.5). -/
def planeReserved (c : Cmd) (slot : Nat) (p : Plane) : Except CErr Unit := do
  let fl := c.u8 0x0C
  match slotKind slot with
  | 0 =>
    needFlags fl 0xF 0x0C
    c.reserved ([(0x08, 0x28), (0x38, 1)] ++ (if p.affine then [(0x40, 0x28)] else [(0x30, 8)])) [(0x30, 4), (0x34, 4)]
  | 1 =>
    needFlags fl 0xD 0x0C
    c.reserved [(0x08, 5), (0x0F, 0x16)]
  | 2 =>
    needFlags fl 0x39 0x0C
    c.reserved [(0x08, 5), (0x10, 0x11)]
  | _ =>
    needFlags fl 3 0x0C
    c.reserved [(0x08, 5), (0x10, 0x0D)]

/-- The parameters that a PLANE_SET carries for a plane of its slot's kind (Table 5.4). -/
def planeParams (c : Cmd) (x : Head) (slot : Nat) (p : Plane) (free : Bool) (v : PlaneContent) : Except CErr Params :=
  match slotKind slot with
  | 0 => graticuleParams c p x
  | 1 => objectParams c x
  | 2 => canvasParams c x free v
  | _ => contourParams c x

/-- PLANE_SET (R118, R129, R133, R136, R158, R168). -/
def planeSetBody (c : Cmd) (_ : CmdRef) (s : State) : CmdRes := do
  let (h, slot, p) ← needPlane s c.tenant (c.u32 0x08) 0x08
  need (c.ext = (if p.affine then 1 else 0)) eBadCmd 0x02
  planeReserved c slot p
  let x := s.head h
  need x.timed eState
  need p.dying.isNone eState
  let poly := p.poly.or (s.freePoly h)
  let q ← planeParams c x slot p poly.isSome (s.planeView h slot p)
  let poly := if slotKind slot = 2 && q.needsPoly then poly else p.poly
  let s := s.modHead h (fun x => { x with planes := IMap.adjust x.planes slot (fun p => { p with poly := poly }) })
  okDone (s.stagePlane h c.tenant slot (fun g => { g with params := some q })) []

/-! ### Palettes -/

/-- One palette. -/
def Head.palette (x : Head) (p : Nat) : Palette := IMap.get x.palettes {} p

/-- Content that a tenant has staged for a head, committed or not, and that a group's way back would bring, goes where `f`
takes it out of a stage. -/
def State.dropStaged (h t : Nat) (f : Stage → Stage) (s : State) : State :=
  let s := s.modHead h (fun x => { x with stages := IMap.adjust x.stages t f })
  s.modDisp (fun d => { d with
    commits := d.commits.map (fun k => if k.ref.tenant = t then { k with
      members := k.members.map (fun m => if m.head = h then { m with stage := f m.stage } else m) } else k)
    undos := d.undos.map (fun u => if u.head = h && u.ref.tenant = t then { u with
      group := f u.group, inverse := f u.inverse } else u) })

/-- Palettes of a tenant become free (R124): staged content goes, and their entries return to 0 at the next boundary, or at
once where there is none. DEDUCED (assumption 65): content that an accepted commit has not applied yet goes as well. -/
def State.freePalettes (h t : Nat) (ps : List Nat) (s : State) : State :=
  let now := !(s.head h).boundaries
  let s := s.dropStaged h t (fun g => { g with palettes := g.palettes.filter (fun k => !ps.contains k.1) })
  s.modHead h (fun x => { x with
    palettes := ps.foldl (fun m p =>
      let q := IMap.get m {} p
      IMap.put m p (if now then {} else { q with owner := none, zero := true })) x.palettes })

/-- Little-endian words of `n` bytes each. -/
def wordsOf (n : Nat) (bs : List Byte) : List Nat := (chunks n bs).map leNat

/-- PALETTE_LOAD (R124). -/
def paletteLoadBody (c : Cmd) (_ : CmdRef) (s : State) : CmdRes := do
  let fl := c.u8 0x0B
  needFlags fl 1 0x0B
  c.reserved ([(0x08, 4)] ++ (if bitOf fl 0 then [] else [(0x10, 8)])) [(0x10, 8)]
  let h := c.u8 0x08
  let first := c.u8 0x09
  let n := c.u8 0x0A
  let addr := c.u64 0x10
  need (decide (h ≤ 7)) eRange 0x08
  need (decide (first ≤ 63)) eRange 0x09
  need (decide (1 ≤ n) && decide (first + n ≤ 64)) eRange 0x0A
  let x := s.head h
  let ps := (List.range n).map (· + first)
  if bitOf fl 0 then
    need (ps.all (fun p => (x.palette p).owner = some c.tenant)) eNotOwner 0x09
    okDone (s.freePalettes h c.tenant ps) []
  else
    need x.timed eState
    need (addr % 64 = 0) eAlign 0x10
    need (ps.all (fun p => (x.palette p).owner = none || (x.palette p).owner = some c.tenant)) eNotOwner 0x09
    let bs ← readFor s c.tenant addr (n * 1024) 0x10
    let ws := chunks 256 (wordsOf 4 bs)
    let s := (s.noteAssetRead c.tenant addr (n * 1024)).modHead h (fun x => { x with
      palettes := ps.foldl (fun m p => IMap.put m p { IMap.get m {} p with owner := some c.tenant }) x.palettes })
    okDone (s.modStage h c.tenant (fun g => { g with
      palettes := (ps.zip ws).foldl (fun m e => IMap.put m e.1 e.2) g.palettes })) []

/-! ### Object tables -/

/-- An object entry from its 32 bytes (Table 5.8). -/
def objEntry (e : List Byte) : ObjEntry :=
  let w := fieldU e 0x0C 4
  { x := fieldS e 0 2, y := fieldS e 2 2, w := fieldU e 4 2, h := fieldU e 6 2, image := fieldU e 8 3
    alpha := bits w 23 16, enable := bitOf w 14, affine := bitOf w 13, cls := bits w 12 11, vflip := bitOf w 10
    hflip := bitOf w 9, pal := bits w 8 3, format := bits w 2 0
    a := fieldS e 0x10 2, b := fieldS e 0x12 2, c := fieldS e 0x14 2, d := fieldS e 0x16 2
    imgW := fieldU e 0x18 2, imgH := fieldU e 0x1A 2 }

/-- The byte offset of the first field of an object entry that breaks R135. -/
def objBad (e : List Byte) : Option Nat :=
  let o := objEntry e
  let w := fieldU e 0x0C 4
  let size (n : Nat) : Bool := decide (1 ≤ n) && decide (n ≤ 512)
  let checks : List (Nat × Bool) :=
    [ (0x04, !o.enable || size o.w), (0x06, !o.enable || size o.h), (0x08, fieldU e 0x0B 1 = 0),
      (0x0C, bits w 31 24 = 0 && !bitOf w 15 && (!o.enable || decide (o.format ≤ 5))),
      (0x10, !o.enable || o.affine || o.a = 0), (0x12, !o.enable || o.affine || o.b = 0),
      (0x14, !o.enable || o.affine || o.c = 0), (0x16, !o.enable || o.affine || o.d = 0),
      (0x18, !o.enable || (if o.affine then size o.imgW else o.imgW = 0)),
      (0x1A, !o.enable || (if o.affine then size o.imgH else o.imgH = 0)), (0x1C, fieldU e 0x1C 4 = 0) ]
  (checks.find? (fun k => !k.2)).map Prod.fst

/-- The first list element with a fault, with its index. -/
def firstBad {α β : Type} (f : α → Option β) : Nat → List α → Option (Nat × β)
  | _, [] => none
  | i, a :: as => match f a with
    | some b => some (i, b)
    | none => firstBad f (i + 1) as

/-- The larger of an object plane's committed count and that of its latest table accepted but not yet applied (R135). -/
def State.objectsKept (s : State) (h slot : Nat) (p : Plane) : Nat :=
  let accepted := ((s.waitingStages h).filter (fun e => e.1 = p.owner)).filterMap (fun e =>
    (IMap.find? e.2.planes slot).bind (fun g => g.objects))
  max p.content.objects.length ((accepted.getLast?.map List.length).getD 0)

/-- What an object plane counts towards the 8,192 entries of its head (R135). DEDUCED (assumption 65): where a staged table and
an accepted one stand side by side, the larger of the two counts. -/
def State.objectCount (s : State) (h slot : Nat) (p : Plane) : Nat :=
  let staged := (IMap.find? ((s.head h).stage p.owner).planes slot).bind (fun g => g.objects)
  max (s.objectsKept h slot p) ((staged.map List.length).getD 0)

/-- OBJECT_TABLE_SET (R135). -/
def objectTableSetBody (c : Cmd) (_ : CmdRef) (s : State) : CmdRes := do
  c.reserved [(0x08, 6), (0x10, 8)]
  let (h, slot, p) ← needStaged s c.tenant (c.u32 0x08) 1
  let n := c.u16 0x0C
  let addr := c.u64 0x10
  need (decide (n ≤ 8192)) eRange 0x0C
  need (addr % 32 = 0) eAlign 0x10
  let others := (((s.head h).planes.filter (fun e => slotKind e.1 = 1 && e.1 != slot)).map
    (fun e => s.objectCount h e.1 e.2)).sum
  need (decide (others + max (s.objectsKept h slot p) n ≤ 8192)) eNoRes
  let bs ← readFor s c.tenant addr (32 * n) 0x10
  let es := chunks 32 bs
  match firstBad objBad 0 es with
  | some (i, off) => .error { status := eRange, words := [word i, word off] }
  | none => okDone ((s.noteAssetRead c.tenant addr (32 * n)).stagePlane h c.tenant slot
      (fun g => { g with objects := some (es.map objEntry) })) []

/-! ### Canvases -/

/-- Bytes per pixel of a canvas format (Table 6.2). -/
def canvasBytes (f : Nat) : Nat := match f with | 0 => 4 | 1 => 4 | 2 => 2 | 3 => 1 | _ => 2

/-- The canvas that a CANVAS_SET names. -/
def canvasOf (c : Cmd) : Canvas :=
  ⟨c.u8 0x0C, c.u8 0x0D, c.u16 0x10, c.u16 0x12, c.u32 0x14, c.u64 0x18, c.u64 0x20, c.u32 0x28⟩

/-- The checks of CANVAS_SET that precede its handle. -/
def canvasHeader (c : Cmd) : Except CErr Unit := do
  let f := c.u8 0x0C
  need (decide (f ≤ 5)) eRange 0x0C
  if yuvFormat f then needFlags (c.u8 0x0D) 0x1F 0x0D
  c.reserved ([(0x08, 6), (0x10, 0x10)] ++ (if halfRows f then [(0x20, 12)] else [])) [(0x20, 8), (0x28, 4)]

/-- The checks of a canvas for a plane whose parameters are `q`. -/
def canvasRanges (k : Canvas) (q : Option Params) : Except CErr Unit := do
  let f := k.format
  need (if yuvFormat f then decide (bits k.enc 1 0 ≤ 2) else k.enc = 0) eRange 0x0D
  need (decide (1 ≤ k.width) && decide (k.width ≤ 8192)) eRange 0x10
  need (decide (1 ≤ k.height) && decide (k.height ≤ 8192)) eRange 0x12
  need (decide (64 ≤ k.pitch) && decide (k.pitch ≤ 65536)) eRange 0x14
  need (!halfRows f || (decide (64 ≤ k.cpitch) && decide (k.cpitch ≤ 65536))) eRange 0x28
  match q with
  | none => pure ()
  | some q =>
    need (decide (q.srcX + q.srcW ≤ k.width)) eRange 0x10
    need (decide (q.srcY + q.srcH ≤ k.height)) eRange 0x12
  need (!yuvFormat f || k.width % 2 = 0) eAlign 0x10
  need (!halfRows f || k.height % 2 = 0) eAlign 0x12
  need (k.pitch % 64 = 0) eAlign 0x14
  need (k.addr % 64 = 0) eAlign 0x18
  need (!halfRows f || k.chroma % 64 = 0) eAlign 0x20
  need (!halfRows f || k.cpitch % 64 = 0) eAlign 0x28
  need (decide (k.width * canvasBytes f ≤ k.pitch)) eRange 0x14
  need (!halfRows f || decide (k.width * canvasBytes f ≤ k.cpitch)) eRange 0x28

/-- CANVAS_SET (R152). -/
def canvasSetBody (c : Cmd) (_ : CmdRef) (s : State) : CmdRes := do
  canvasHeader c
  let (h, slot, p) ← needStaged s c.tenant (c.u32 0x08) 2
  canvasRanges (canvasOf c) (s.planeView h slot p).params
  okDone (s.stagePlane h c.tenant slot (fun g => { g with canvas := some (canvasOf c) })) []

/-- A scaler coefficient from its u16 (R166). -/
def coefOf (v : Nat) : Int := signed 10 v

/-- The index of the first coefficient that breaks R166: a bit above 9, or the first of a phase with a wrong sum. -/
def coefBad (ws : List Nat) : Option Nat :=
  let high := (firstBad (fun v : Nat => if v < 1024 then none else some ()) 0 ws).map Prod.fst
  let sums (base n : Nat) (xs : List Nat) : Option Nat :=
    (firstBad (fun ph : List Nat => if (ph.map coefOf).sum = 256 then none else some ()) 0 (chunks n xs)).map
      (fun e => base + n * e.1)
  let sum := (sums 0 8 (ws.take 512)).or (sums 512 6 (ws.drop 512))
  match high, sum with
  | some a, some b => some (min a b)
  | some a, none => some a
  | none, b => b

/-- SCALER_COEF_LOAD (R166). -/
def scalerCoefLoadBody (c : Cmd) (_ : CmdRef) (s : State) : CmdRes := do
  c.reserved [(0x08, 4), (0x10, 8)]
  let (h, slot, _) ← needStaged s c.tenant (c.u32 0x08) 2
  let addr := c.u64 0x10
  need (addr % 64 = 0) eAlign 0x10
  let bs ← readFor s c.tenant addr 1792 0x10
  let ws := wordsOf 2 bs
  match coefBad ws with
  | some i => .error { status := eRange, words := [word i] }
  | none =>
    let k : Coefs := ⟨(ws.take 512).map coefOf, (ws.drop 512).map coefOf⟩
    okDone ((s.noteAssetRead c.tenant addr 1792).stagePlane h c.tenant slot (fun g => { g with coefs := some k })) []

/-! ### Contours -/

/-- A path element (Table 6.6). -/
structure PathElem where
  op : Nat
  xa : Int
  ya : Int
  xb : Int
  yb : Int

/-- An element from its 24 bytes. -/
def pathElem (e : List Byte) : PathElem := ⟨fieldU e 0 1, fieldS e 4 4, fieldS e 8 4, fieldS e 12 4, fieldS e 16 4⟩

/-- A path coordinate in range (R169). -/
def coordOk (v : Int) : Bool := decide (-524288 ≤ v) && decide (v ≤ 524287)

/-- Whether an element is well formed by itself (R170). -/
def elemOk (e : List Byte) : Bool :=
  let p := pathElem e
  let zero (off n : Nat) : Bool := fieldU e off n = 0
  zero 1 3 && zero 0x14 4 &&
    (match p.op with
     | 1 => coordOk p.xa && coordOk p.ya && zero 0x0C 8
     | 2 => coordOk p.xa && coordOk p.ya && zero 0x0C 8
     | 3 => coordOk p.xa && coordOk p.ya && coordOk p.xb && coordOk p.yb
     | 4 => zero 0x04 16
     | _ => false)

/-- The index of the first element that breaks R170: malformed, or drawing before the first move. -/
def pathBad : Bool → Nat → List (List Byte) → Option Nat
  | _, _, [] => none
  | moved, i, e :: es =>
    if !elemOk e || (!moved && (pathElem e).op != 1) then some i else pathBad true (i + 1) es

/-- Round a rational to the nearest integer, ties upwards (R171); the denominator is positive. -/
def roundUpTies (num den : Int) : Int := Int.fdiv (2 * num + den) (2 * den)

/-- Round a rational to the nearest integer, ties away from zero (R177, R178); the denominator is positive. -/
def roundAway (num den : Int) : Int :=
  if 0 ≤ num then Int.fdiv (2 * num + den) (2 * den) else -(Int.fdiv (2 * (-num) + den) (2 * den))

/-- How many edges a curve becomes (R171): the smallest `n` from 1 up with 16 n² at least 3 d. -/
def curveEdges (d : Nat) : Nat :=
  let r := Nat.sqrt (3 * d / 16)
  ((List.range 3).map (fun i => max 1 (r - 1 + i) )).find? (fun n => decide (3 * d ≤ 16 * n * n)) |>.getD (r + 2)

/-- The points of a flattened curve after its first (R171). -/
def curvePoints (x0 y0 xa ya xb yb : Int) : List (Int × Int) :=
  let d := max (x0 - 2 * xa + xb).natAbs (y0 - 2 * ya + yb).natAbs
  let n := curveEdges d
  let at_ (a b e : Int) (k : Nat) : Int :=
    roundUpTies (a * (n - k) * (n - k) + 2 * b * k * (n - k) + e * k * k) ((n * n : Nat) : Int)
  (List.range n).map (fun i => (at_ x0 xa xb (i + 1), at_ y0 ya yb (i + 1)))

/-- The line from one point to the next, none where they have equal y (R171). -/
def edgeTo (p q : Int × Int) : List Edge := if p.2 = q.2 then [] else [⟨p.1, p.2, q.1, q.2⟩]

/-- The edges through a run of points. -/
def edgesThrough : Int × Int → List (Int × Int) → List Edge
  | _, [] => []
  | p, q :: qs => edgeTo p q ++ edgesThrough q qs

/-- Flatten a path (R169, R171): `cur` is the current point and `start` the move point of the open subpath, if any. DESIGN
CHOICE (assumption 66): a line or curve after a close with no move between goes on from the move point that the close went
back to. -/
def flatten : Option ((Int × Int) × (Int × Int)) → List PathElem → List Edge
  | none, [] => []
  | some (cur, start), [] => edgeTo cur start
  | st, e :: es =>
    let close := match st with | none => [] | some (cur, start) => edgeTo cur start
    match e.op with
    | 1 => close ++ flatten (some ((e.xa, e.ya), (e.xa, e.ya))) es
    | 4 => close ++ flatten (st.map (fun k => (k.2, k.2))) es
    | 2 =>
      match st with
      | none => flatten none es
      | some (cur, start) => edgeTo cur (e.xa, e.ya) ++ flatten (some ((e.xa, e.ya), start)) es
    | _ =>
      match st with
      | none => flatten none es
      | some (cur, start) =>
        edgesThrough cur (curvePoints cur.1 cur.2 e.xa e.ya e.xb e.yb) ++ flatten (some ((e.xb, e.yb), start)) es

/-- The first and last plane row on which an edge crosses a sample row (R172, R174); samples lie at 4 k + 2. -/
def Edge.rows (e : Edge) : Option (Int × Int) :=
  let lo := min e.y0 e.y1
  let hi := max e.y0 e.y1
  let k0 := -(Int.fdiv (2 - lo) 4)
  let k1 := -(Int.fdiv (2 - hi) 4) - 1
  if k0 ≤ k1 then some (Int.fdiv k0 4, Int.fdiv k1 4) else none

/-- The active edges on a plane row. -/
def activeOn (es : List Edge) (row : Int) : Nat :=
  (es.filter (fun e => match e.rows with | none => false | some (a, b) => decide (a ≤ row) && decide (row ≤ b))).length

/-- The largest active-edge count of a path on any plane row: one of the rows where an edge begins. -/
def peakActive (es : List Edge) : Nat :=
  ((es.filterMap (fun e => e.rows.map Prod.fst)).eraseDups.map (activeOn es)).foldl max 0

/-- CONTOUR_SET (R170). -/
def contourSetBody (c : Cmd) (_ : CmdRef) (s : State) : CmdRes := do
  c.reserved [(0x08, 8), (0x10, 8)]
  let (h, slot, _) ← needStaged s c.tenant (c.u32 0x08) 3
  let n := c.u32 0x0C
  let addr := c.u64 0x10
  need (decide (n ≤ 131072)) eRange 0x0C
  need (addr % 8 = 0) eAlign 0x10
  let bs ← readFor s c.tenant addr (24 * n) 0x10
  let els := chunks 24 bs
  match pathBad false 0 els with
  | some i => .error { status := eRange, words := [word i] }
  | none =>
    let es := flatten none (els.map pathElem)
    let peak := peakActive es
    let others := (((s.head h).planes.filter (fun e => slotKind e.1 = 3 && e.1 != slot)).map
      (fun e => (s.planeView h e.1 e.2).edges.length)).sum
    let ws := [word es.length, word peak]
    if 65536 < others + es.length ∨ 2048 < peak then
      .error { status := eEdgeLimit, words := ws ++ [word (others + es.length)] }
    else okDone ((s.noteAssetRead c.tenant addr (24 * n)).stagePlane h c.tenant slot
      (fun g => { g with edges := some es })) ws

/-! ### Paints -/

/-- Ramp components (R177): alpha is taken at 10 bits, as the paint gives it (R173). -/
def rampParts (v : Nat) : List Nat := [bits v 31 30 * 341, bits v 29 20, bits v 19 10, bits v 9 0]

/-- A ramp entry as one number: four unorm10 components, alpha highest. -/
def packRamp : List Nat → Nat
  | [a, r, g, b] => ((a * 1024 + r) * 1024 + g) * 1024 + b
  | _ => 0

/-- Entry `i` of a gradient's ramp (R177). -/
def rampEntry (stops : List (Nat × Nat)) (i : Nat) : Nat :=
  let p := 257 * i
  let below := stops.filter (fun st => decide (st.1 ≤ p))
  let above := (stops.drop below.length).head?
  match below.getLast?, above with
  | none, some b => packRamp (rampParts b.2)
  | none, none => 0
  | some a, none => packRamp (rampParts a.2)
  | some a, some b =>
    packRamp (((rampParts a.2).zip (rampParts b.2)).map (fun e =>
      ((e.1 : Int) + roundAway (((e.2 : Int) - e.1) * ((p : Int) - a.1)) ((b.1 : Int) - a.1)).toNat))

/-- The stops of a gradient, position and colour. -/
def paintStops (c : Cmd) : List (Nat × Nat) :=
  (List.range (c.u8 0x0E)).map (fun i => (c.u16 (0x40 + 8 * i), c.u32 (0x44 + 8 * i)))

/-- The checks of PAINT_SET that precede its handle. -/
def paintHeader (c : Cmd) : Except CErr Unit := do
  let kind := c.u8 0x0C
  let n := c.u8 0x0E
  need (c.ext = (n + 7) / 8) eBadCmd 0x02
  need (decide (kind ≤ 2)) eRange 0x0C
  let stopUse := (List.range n).flatMap (fun i => [(0x40 + 8 * i, 2), (0x44 + 8 * i, 4)])
  c.reserved ([(0x08, 7)] ++ (if kind = 0 then [(0x10, 4)] else if kind = 1 then [(0x14, 16)] else [(0x14, 12)]) ++ stopUse)
    [(0x10, 4), (0x14, 4), (0x18, 4), (0x1C, 4), (0x20, 4)]

/-- The range checks of PAINT_SET. -/
def paintRanges (c : Cmd) : Except CErr Unit := do
  let kind := c.u8 0x0C
  let n := c.u8 0x0E
  let spread := c.u8 0x0D
  need (if kind = 0 then spread = 0 else decide (spread ≤ 2)) eRange 0x0D
  need (if kind = 0 then n = 0 else decide (2 ≤ n) && decide (n ≤ 16)) eRange 0x0E
  let x0 := c.s32 0x14
  let y0 := c.s32 0x18
  let x1 := c.s32 0x1C
  let y1 := c.s32 0x20
  if kind ≠ 0 then
    need (coordOk x0) eRange 0x14
    need (coordOk y0) eRange 0x18
  if kind = 1 then
    need (coordOk x1) eRange 0x1C
    need (coordOk y1) eRange 0x20
    need (decide (256 ≤ (x1 - x0) * (x1 - x0) + (y1 - y0) * (y1 - y0))) eRange 0x1C
  if kind = 2 then
    need (decide (16 ≤ x1) && decide (x1 ≤ 1048576)) eRange 0x1C
  let stops := paintStops c
  for i in List.range (n - 1) do
    need (decide ((stops.getD i (0, 0)).1 ≤ (stops.getD (i + 1) (0, 0)).1)) eRange (0x48 + 8 * i)

/-- The paint that a PAINT_SET names (R176 to R178). -/
def paintOf (c : Cmd) : Paint :=
  let kind := c.u8 0x0C
  let x0 := c.s32 0x14
  let y0 := c.s32 0x18
  let x1 := c.s32 0x1C
  let dx := x1 - x0
  let dy := c.s32 0x20 - y0
  let l := dx * dx + dy * dy
  let base : Paint :=
    { kind := kind, spread := c.u8 0x0D, colour := if kind = 0 then c.u32 0x10 else 0
      ramp := if kind = 0 then [] else (List.range 256).map (rampEntry (paintStops c)) }
  match kind with
  | 1 => { base with
      ga := roundAway (16 * dx * 2 ^ 24) l
      gb := roundAway (16 * dy * 2 ^ 24) l
      gc := roundAway (((8 - x0) * dx + (8 - y0) * dy) * 2 ^ 24) l }
  | 2 => { base with cx := x0, cy := y0, r := x1 }
  | _ => base

/-- PAINT_SET (R176 to R178). -/
def paintSetBody (c : Cmd) (_ : CmdRef) (s : State) : CmdRes := do
  paintHeader c
  let (h, slot, _) ← needStaged s c.tenant (c.u32 0x08) 3
  paintRanges c
  okDone (s.stagePlane h c.tenant slot (fun g => { g with paint := some (paintOf c) })) []

end Sys2Proof.Machine
end

