-- ==== Sys2Proof/Machine/Colour.lean ====
section
/-! DEFINITION. Transfer functions, premultiplication and LUTs (R182 to R201), and their commands. -/

namespace Sys2Proof.Machine

def eLutSelected : Nat := 0x0501

/-- The chapter's mul (x k / 65,535, rounded to nearest). -/
def mulU (x k : Nat) : Nat := (x * k + 32767) / 65535

/-- The largest number below 2^16 for which `p` holds, `p` holding up to it: the search narrows from bit 15 down. -/
def searchTop (p : Nat → Bool) : Nat :=
  (List.range 16).foldl (fun t i => if p (t + 2 ^ (15 - i)) then t + 2 ^ (15 - i) else t) 0

/-- The sRGB decode table (Table 7.1, code 0), exactly: ties upwards. -/
def srgbDecode (c : Nat) : Nat :=
  if c * 100000 ≤ 4045 * 1023 then (2 * 65535 * c * 100 + 1023 * 1292) / (2 * 1023 * 1292)
  else
    let a := (1000 * c + 56265) ^ 12 * 131070 ^ 5
    let b := 1079265 ^ 12
    searchTop (fun t => decide ((2 * t - 1) ^ 5 * b ≤ a))

/-- The sRGB encode table (R195), exactly: ties upwards. -/
def srgbEncode (i : Nat) : Nat :=
  if i * 10000000 ≤ 31308 * 4095 then (2 * 65535 * 1292 * i + 4095 * 100) / (2 * 4095 * 100)
  else
    let v := i ^ 5 * (131070 * 1055) ^ 12
    searchTop (fun t => decide (((2 * t - 1) * 1000 + 131070 * 55) ^ 12 * 4095 ^ 5 ≤ v))

/-- An 8-bit component at 10 bits (R182). -/
def expand8 (v : Nat) : Nat := v * 4 + v / 64

/-- A 10-bit component at 16 bits (R182, code 1 of Table 7.1). -/
def expand10 (v : Nat) : Nat := v * 64 + v / 16

/-- One transfer LUT slot of a head. -/
def Head.lut (x : Head) (i : Nat) : LutSlot := IMap.get x.luts {} i

/-- T[c] of a transfer code for component `k`, 0 red to 2 blue (R183). -/
def Head.transfer (x : Head) (code k c : Nat) : Nat :=
  if code = 0 then srgbDecode c
  else if code = 1 then expand10 c
  else
    let t := (x.lut (code - 2)).table
    if t.isEmpty then expand10 c else t.getD (1024 * k + c) 0

/-- Four 10-bit components A, R, G, B to linear premultiplied unorm16 (R182 to R184). -/
def Head.linear (x : Head) (code : Nat) (premul : Bool) (p : List Nat) : List Nat :=
  let a := expand10 (p.getD 0 0)
  a :: (List.range 3).map (fun k =>
    let t := x.transfer code k (p.getD (k + 1) 0)
    if premul then min t a else mulU t a)

/-- Whether a plane of a head selects a transfer slot, in committed or staged state (R189). -/
def State.lutSelected (s : State) (h slot : Nat) : Bool :=
  let x := s.head h
  x.planes.any (fun p => p.2.content.transfer = 2 + slot) ||
    x.stages.any (fun e => e.2.planes.any (fun g => g.2.transfer = some (2 + slot))) ||
    (s.waitingStages h).any (fun e => e.2.planes.any (fun g => g.2.transfer = some (2 + slot)))

/-- TRANSFER_LUT_LOAD (R188, R189). -/
def transferLutLoadBody (c : Cmd) (_ : CmdRef) (s : State) : CmdRes := do
  let op := c.u8 0x08
  need (decide (op ≤ 2)) eRange 0x08
  c.reserved (match op with | 0 => [(0x08, 3), (0x10, 8)] | 1 => [(0x08, 3)] | _ => [(0x08, 1), (0x0B, 5)])
    [(0x0C, 4), (0x10, 8)]
  if op = 2 then
    let code := c.u8 0x0B
    need (decide (code ≤ 5)) eRange 0x0B
    let (h, slot, p) ← needPlane s c.tenant (c.u32 0x0C) 0x0C
    need (s.head h).timed eState
    need p.dying.isNone eState
    need (decide (code ≤ 1) || ((s.head h).lut (code - 2)).owner = some c.tenant) eNotOwner 0x0B
    okDone (s.stagePlane h c.tenant slot (fun g => { g with transfer := some code })) []
  else
    let h := c.u8 0x09
    let slot := c.u8 0x0A
    need (decide (h ≤ 7)) eRange 0x09
    need (decide (slot ≤ 3)) eRange 0x0A
    let x := s.head h
    let l := x.lut slot
    if op = 1 then
      need (l.owner = some c.tenant) eNotOwner 0x0A
      need (!s.lutSelected h slot) eLutSelected 0x0A
      okDone ((s.dropStaged h c.tenant (fun g => { g with luts := IMap.del g.luts slot })).modHead h (fun x => { x with
        luts := IMap.put x.luts slot (if x.boundaries then { l with owner := none, linear := true } else {}) })) []
    else
      need x.timed eState
      let addr := c.u64 0x10
      need (addr % 64 = 0) eAlign 0x10
      need (l.owner = none || l.owner = some c.tenant) eNotOwner 0x0A
      let bs ← readFor s c.tenant addr 6144 0x10
      let s := (s.noteAssetRead c.tenant addr 6144).modHead h (fun x => { x with
        luts := IMap.put x.luts slot { l with owner := some c.tenant } })
      okDone (s.modStage h c.tenant (fun g => { g with luts := IMap.put g.luts slot (wordsOf 2 bs) })) []

/-! ### The post-blend LUT and the dither -/

/-- POST_LUT_LOAD (R196, R197). -/
def postLutLoadBody (c : Cmd) (_ : CmdRef) (s : State) : CmdRes := do
  let fl := c.u8 0x09
  needFlags fl 1 0x09
  c.reserved ([(0x08, 2)] ++ (if bitOf fl 0 then [] else [(0x10, 8)])) [(0x10, 8)]
  let h := c.u8 0x08
  need (decide (h ≤ 7)) eRange 0x08
  need (s.head h).timed eState
  if bitOf fl 0 then okDone (s.modStage h c.tenant (fun g => { g with post := some [] })) []
  else
    let addr := c.u64 0x10
    need (addr % 64 = 0) eAlign 0x10
    let bs ← readFor s c.tenant addr 24576 0x10
    okDone ((s.noteAssetRead c.tenant addr 24576).modStage h c.tenant (fun g => { g with post := some (wordsOf 2 bs) })) []

/-- An entry of a head's post-blend LUT (R194, R195); `k` is the component. -/
def Head.postEntry (x : Head) (k i : Nat) : Nat := if x.post.isEmpty then srgbEncode i else x.post.getD (4096 * k + i) 0

/-- A frame-store component through the post-blend LUT (R194). -/
def Head.encode (x : Head) (k v : Nat) : Nat :=
  let p := v * 4095
  let i := p / 65535
  let f := p % 65535
  let d : Int := if i < 4095 then (x.postEntry k (i + 1) : Int) - x.postEntry k i else 0
  (clampInt 0 65535 ((x.postEntry k i : Int) + Int.fdiv (d * f + 32767) 65535)).toNat

/-- The dither matrix (Table 7.4). -/
def ditherMatrix : List Nat := [0, 8, 2, 10, 12, 4, 14, 6, 3, 11, 1, 9, 15, 7, 13, 5]

/-- The temporal offsets of a phase (R200). -/
def ditherOffset (mode phase : Nat) : Nat × Nat :=
  if mode = 2 then (match phase with | 0 => (0, 0) | 1 => (2, 2) | 2 => (2, 0) | _ => (0, 2)) else (0, 0)

/-- A post-LUT component at a pixel, dithered to the output depth (R199). -/
def Head.dither (x : Head) (w px py : Nat) : Nat :=
  let n := if x.depth = 1 then 10 else 8
  let (ox, oy) := ditherOffset x.dmode x.phase
  let thr := if x.dmode = 0 then 32768 else (2 * ditherMatrix.getD (4 * ((py + oy) % 4) + (px + ox) % 4) 0 + 1) * 2048
  min ((w * (2 ^ n - 1) + thr) / 65536) (2 ^ n - 1)

/-- The output component in the u32 layout of R298: at depth 8 in bits 9:2 of its field. -/
def Head.outField (x : Head) (q : Nat) : Nat := if x.depth = 1 then q else q * 4

/-- An RGB30 colour as it leaves at a head's depth, in the layout of R298 (R313). -/
def Head.outRgb30 (x : Head) (v : Nat) : Nat :=
  if x.depth = 1 then v % 2 ^ 30
  else bits v 29 22 * 2 ^ 22 + bits v 19 12 * 2 ^ 12 + bits v 9 2 * 4

/-- A frame-store pixel as it leaves stage 3, in the layout of R298. -/
def Head.outPixel (x : Head) (v px py : Nat) : Nat :=
  let f (k : Nat) : Nat := x.outField (x.dither (x.encode k (bits v (16 * k + 15) (16 * k))) px py)
  f 0 * 2 ^ 20 + f 1 * 2 ^ 10 + f 2

end Sys2Proof.Machine
end

