-- ==== Sys2Proof/Machine/Raster.lean ====
section
/-! DEFINITION. The cost model and admission (R217 to R222), line lists (R209 to R213), frets (R214 to R216), lead
bounds (R206), port fit (R307) and the dither (R198). -/

namespace Sys2Proof.Machine

def eLineOrder : Nat := 0x0601
def eLineWrites : Nat := 0x0602
def ePortFit : Nat := 0x0801

/-! ### What a head is priced on -/

/-- A plane as the cost model sees it. -/
structure PlaneView where
  slot    : Nat
  owner   : Nat
  handle  : Nat
  z       : Nat
  cls     : Nat
  affine  : Bool
  content : PlaneContent
  params  : Params

/-- A head as the cost model sees it. -/
structure HeadView where
  planes : List PlaneView
  lists  : List (List LLine)
  tabs   : List (Nat × TabSet)

/-- The state of a head with stages laid over its committed state, in order (R220). -/
def State.headView (s : State) (h : Nat) (gs : List (Nat × Stage)) : HeadView :=
  let x := s.head h
  let planes := x.planes.filterMap (fun e =>
    let c := (gs.filter (fun g => g.1 = e.2.owner)).foldl (fun c g => (IMap.get g.2.planes {} e.1).over c) e.2.content
    match c.params with
    | none => none
    | some q => some ⟨e.1, e.2.owner, handleOf e.2.gen h e.1, e.2.z, e.2.cls, e.2.affine, c, q⟩)
  let lists := gs.foldl (fun m g => IMap.over (g.2.lists.map (fun e => (e.1, e.2.getD []))) m)
    (x.lists.map (fun e => (e.1, e.2.lines)))
  let tabs := gs.foldl (fun m g => g.2.tabs.foldl (fun m e =>
    match e.2 with | .start _ t => IMap.put m e.1 t | .stop _ _ => IMap.del m e.1) m)
    (((s.headTabs h).threads.filter (fun e => e.2.running)).map (fun e => (e.1, e.2.set)))
  ⟨planes, IMap.vals lists, tabs⟩

/-- A plane's rectangle on a line, cut to the active area; width 0 off the plane. -/
def planeWidth (q : Params) (hA vA y : Nat) : Nat :=
  let r := q.dest.cut hA vA
  if decide (r.y ≤ y) && decide (y < r.y + r.h) then r.w else 0

/-! ### Object selection (R140, R141) -/

/-- One candidate on a line: where its plane and entry stand, its counted pixels and its rank. -/
structure Candidate where
  plane : PlaneView
  index : Nat
  obj   : ObjEntry
  count : Nat

/-- The columns that an object's box shares with its plane's rectangle on a line, none where it is no candidate. -/
def objectSpan (q : Params) (o : ObjEntry) (hA vA y : Nat) : Option Nat :=
  let r := q.dest.cut hA vA
  let row : Int := (y : Int) - q.dest.y + q.sy - o.y
  if o.enable && decide (r.y ≤ y) && decide (y < r.y + r.h) && decide (0 ≤ row) && decide (row < o.h) then
    let left : Int := (q.dest.x : Int) + o.x - q.sx
    let lo := max left r.x
    let hi := min (left + o.w) (r.x + r.w)
    if lo < hi then some (hi - lo).toNat else none
  else none

/-- The candidates of one object plane on a line, in table order. -/
def planeCandidates (p : PlaneView) (hA vA y : Nat) : List Candidate :=
  if slotKind p.slot = 1 && p.params.visible then
    (p.content.objects.zipIdx).filterMap (fun e =>
      (objectSpan p.params e.1 hA vA y).map (fun n => ⟨p, e.2, e.1, if e.1.affine then 2 * n else n⟩))
  else []

/-- Whether a candidate ranks before another (R140). -/
def Candidate.before (a b : Candidate) : Bool :=
  decide (b.obj.cls < a.obj.cls) || (a.obj.cls = b.obj.cls &&
    (decide (b.plane.z < a.plane.z) || (a.plane.z = b.plane.z && decide (a.index ≤ b.index))))

/-- Take candidates in rank order within the limits (R141): those selected and those dropped. -/
def takeObjects : List Candidate → Nat → Nat → List Candidate × List Candidate
  | [], _, _ => ([], [])
  | k :: ks, n, px =>
    if n + 1 ≤ 512 ∧ px + k.count ≤ 16384 then
      let r := takeObjects ks (n + 1) (px + k.count)
      (k :: r.1, r.2)
    else ([], k :: ks)

/-- The objects selected and dropped on a line. -/
def selectObjects (ps : List PlaneView) (hA vA y : Nat) : List Candidate × List Candidate :=
  takeObjects (sortBy Candidate.before (ps.flatMap (fun p => planeCandidates p hA vA y))) 0 0

/-! ### Costs of a line (Tables 8.4 and 8.5) -/

/-- Bits per pixel of a tile or object format (Table 5.2). -/
def pixelBits (f : Nat) : Nat := match f with | 0 => 2 | 1 => 4 | 2 => 8 | 3 => 16 | 4 => 16 | _ => 32

/-- The tile size of a plane. -/
def Params.tile (q : Params) : Nat := if q.big then 16 else 8

/-- The vertical taps a canvas plane uses (R167). -/
def Params.taps (q : Params) : Nat :=
  if q.needsPoly then 6 else if q.dest.h < q.srcH then ceilDiv q.srcH q.dest.h else 2

/-- The memories that admission prices (R219), by Legend type; 0 is one it does not price. -/
def State.memoryOf (s : State) (t a : Nat) : Nat :=
  match s.leaf? t a with
  | none => 0
  | some l =>
    if l.target = 1 then 0x0306
    else if lpddrBase ≤ l.out then 0x0305
    else if dramBase ≤ l.out then 0x0304
    else 0

/-- The requests of a plane on a line, by memory (Table 8.5). -/
def State.planeRequests (s : State) (p : PlaneView) (sel : List Candidate) (hA vA y : Nat) : List (Nat × Nat) :=
  let q := p.params
  let w := planeWidth q hA vA y
  if w = 0 then []
  else match slotKind p.slot with
    | 0 =>
      if p.affine then [(s.memoryOf p.owner q.addr, w), (s.memoryOf p.owner q.mapAddr, ceilDiv w 4)]
      else
        let n := ceilDiv w q.tile + 1
        [(s.memoryOf p.owner q.addr, n * max 1 (q.tile * pixelBits q.format / 512)),
          (s.memoryOf p.owner q.mapAddr, ceilDiv (4 * n) 64 + 1)]
    | 1 =>
      let mine := sel.filter (fun k => k.plane.slot = p.slot)
      [(s.memoryOf p.owner q.addr,
        mine.length + ceilDiv ((mine.map (fun k => k.count * pixelBits k.obj.format)).sum) 512)]
    | 2 =>
      match p.content.canvas with
      | none => []
      | some k =>
        let n := max 1 (ceilDiv q.srcH q.dest.h) * ceilDiv (q.srcW * canvasBytes k.format) 64
        (s.memoryOf p.owner k.addr, n) :: (if halfRows k.format then [(s.memoryOf p.owner k.chroma, ceilDiv n 2)] else [])
    | _ => [(0x0304, ceilDiv (16 * activeOn p.content.edges ((y : Int) - q.dest.y + q.sy)) 64)]

/-- The cost of one line: its cycles, the dominant term, and the counts that have limits of their own. -/
structure LineCost where
  cost     : Nat
  code     : Nat
  writes   : Nat
  edges    : Nat
  requests : List (Nat × Nat)

/-- The active edges of a head's contour planes on a line (R174). -/
def headEdges (v : HeadView) (hA vA y : Nat) : Nat :=
  ((v.planes.filter (fun p => slotKind p.slot = 3)).map (fun p =>
    if planeWidth p.params hA vA y = 0 then 0
    else activeOn p.content.edges ((y : Int) - p.params.dest.y + p.params.sy))).sum

/-- The lines a thread wakes for (R262). -/
def TabSet.wakesFor (t : TabSet) (y : Nat) : Bool :=
  decide (t.first ≤ y) && decide (y ≤ t.last) && (y - t.first) % t.stride = 0

/-- The cost of active line `y` (R217). -/
def State.lineCost (s : State) (v : HeadView) (hA vA y : Nat) : LineCost :=
  let sel := (selectObjects v.planes hA vA y).1
  let objPx := (sel.map (·.count)).sum
  let shown := v.planes.filter (fun p => p.params.visible)
  let c := objPx + ((shown.filter (fun p => slotKind p.slot != 1)).map (fun p => planeWidth p.params hA vA y)).sum
  let canvas := (v.planes.filter (fun p => slotKind p.slot = 2)).map (fun p =>
    ceilDiv (planeWidth p.params hA vA y * p.params.taps * p.params.srcW) (8 * p.params.dest.w))
  let listEntries := (v.lists.map (fun l => ((l.filter (fun e => e.line = y)).map (·.entries)).sum)).sum
  let writes := (v.lists.map (fun l => ((l.filter (fun e => e.line = y)).map (·.writes.length)).sum)).sum
  let reqs := v.planes.flatMap (fun p => s.planeRequests p sel hA vA y) ++ [(0x0304, ceilDiv listEntries 8)]
  let edges := headEdges v hA vA y
  let core (i : Nat) : Nat :=
    ((v.tabs.filter (fun e => e.1 / 8 = i && e.2.wakesFor y)).map (fun e => e.2.budget)).sum
  let p := max hA (max (ceilDiv c 16) (canvas.foldl max 0))
  let f := ceilDiv ((reqs.map Prod.snd).sum * s.clocks.cclk) s.clocks.fclk
  let e := max (2 * sel.length + ceilDiv objPx 16) edges
  let t := max (core 0) (core 1)
  let m := max p (max f (max e (max writes t)))
  let code := if p = m then 1 else if f = m then 2 else if e = m then 3 else if writes = m then 4 else 5
  ⟨32 + m, code, writes, edges, reqs⟩

/-! ### Bands and admission (R218 to R222) -/

/-- The band length of a head under a lower lead bound (R218). -/
def bandLines (leadMin : Nat) : Nat := max 1 (min 16 leadMin)

/-- The lower lead bound that later commits are admitted under (R206); a pending one stays within what the timing allows. -/
def Head.boundMin (x : Head) : Nat :=
  match x.lead.pend.getLast? with
  | none => x.lead.min
  | some p => min p.2.1 (x.vT - 16)

/-- A band's dominant term (R220): the code whose lines cost the most, the lowest on a tie. -/
def bandCode (ls : List LineCost) : Nat :=
  let sum (k : Nat) : Nat := ((ls.filter (fun l => l.code = k)).map (·.cost)).sum
  let best := ((List.range 5).map (fun k => sum (k + 1))).foldl max 0
  ((List.range 5).map (· + 1)).find? (fun k => sum k = best) |>.getD 1

/-- A refusal: its code, head, place and words (R220). -/
structure Refused where
  code  : Nat
  head  : Nat
  place : Nat
  words : List Word

/-- The lines of a head priced. -/
def State.priced (s : State) (v : HeadView) (t : Timing) : List LineCost :=
  (List.range t.vA).map (fun y => s.lineCost v t.hA t.vA y)

/-- What R218 refuses of a head. -/
def bandRefusals (c h n : Nat) (ls : List LineCost) : List Refused :=
  let bands := ((chunks n ls).zipIdx).filterMap (fun e =>
    let cost := (e.1.map (·.cost)).sum
    let allowed := 85 * e.1.length * c / 100
    let code := bandCode e.1
    if allowed < cost then some ⟨code, h, e.2, [word h, word e.2, word code, word cost, word allowed]⟩ else none)
  let lines := (ls.zipIdx).flatMap (fun e =>
    (if 64 < e.1.writes then [(⟨4, h, e.2, [word h, word (e.2 / n), 4, word e.1.writes, 64]⟩ : Refused)] else []) ++
    (if 2048 < e.1.edges then [(⟨6, h, e.2, [word h, word (e.2 / n), 6, word e.1.edges, 2048]⟩ : Refused)] else []))
  bands ++ lines

/-- Bytes a second that a head's requests fetch from a memory (R219). -/
def memoryLoad (ls : List LineCost) (t : Timing) (m : Nat) : Nat :=
  let n := (ls.map (fun l => ((l.requests.filter (fun r => r.1 = m)).map Prod.snd).sum)).sum
  n * 64 * t.rate / max 1 (t.hTotal * t.vTotal)

/-- The greatest load R219 allows on a memory, in bytes a second; `fixed` is the fixed load. -/
def State.memoryLimit (s : State) (m fixed : Nat) : Nat :=
  if m = 0x0304 then 85 * (204800000000 * s.clocks.fclk / 800) / 100 - fixed
  else if m = 0x0305 then 85 * (s.mem.lpddrPeak * 1000000) / 100
  else 85 * 13000000000 / 100

/-- The refusal to report: lowest code, then head, then place (R220). -/
def pickRefusal (rs : List Refused) : Option Refused :=
  rs.foldl (fun b r => match b with
    | none => some r
    | some k =>
      if r.code < k.code ∨ (r.code = k.code ∧ (r.head < k.head ∨ (r.head = k.head ∧ r.place < k.place))) then some r
      else b) none

/-- Admission of heads (R218 to R220): each with its view, timing and band length; `lowest` is the head a memory refusal
names. Heads not listed enter R219 with their committed state and, where `waiting` holds, the accepted commits over it. -/
def State.refusal (s : State) (hs : List (Nat × HeadView × Timing × Nat)) (lowest : Nat) (waiting : Bool := true) :
    Option Refused :=
  let priced := hs.map (fun e => (e.1, s.priced e.2.1 e.2.2.1, e.2.2.1, e.2.2.2))
  let others := (List.range 8).filterMap (fun h =>
    if hs.any (fun e => e.1 = h) then none
    else (s.head h).timing.map (fun t =>
      (h, s.priced (s.headView h (if waiting then s.waitingStages h else [])) t, t, 16)))
  let all := priced ++ others
  let fixed := (all.map (fun e =>
    16 * e.2.2.1.hA * e.2.2.1.vA * e.2.2.1.rate / max 1 (e.2.2.1.hTotal * e.2.2.1.vTotal))).sum
  let mems := [0x0304, 0x0305, 0x0306].filterMap (fun m =>
    let load := (all.map (fun e => memoryLoad e.2.1 e.2.2.1 m)).sum
    let lim := s.memoryLimit m fixed
    if lim < load then
      some (⟨7, lowest, m, [word lowest, word m, 7, word (load / 1000000), word (lim / 1000000)]⟩ : Refused)
    else none)
  pickRefusal (priced.flatMap (fun e => bandRefusals (s.lineCycles e.2.2.1) e.1 (bandLines e.2.2.2) e.2.1) ++ mems)

/-- A head as a commit by `t` would leave it (R220). -/
def State.commitView (s : State) (h t : Nat) : HeadView :=
  s.headView h (s.waitingStages h ++ [(t, (s.head h).stage t)])

/-- What R221 refuses of a head under a new timing or bound: its committed state, with the accepted commits over it where
`waiting` holds, as R281 has it for HEAD_TIMING_SET. -/
def State.committedRefusal (s : State) (h : Nat) (t : Timing) (leadMin : Nat) (waiting : Bool) : Option Refused :=
  s.refusal [(h, s.headView h (if waiting then s.waitingStages h else []), t, leadMin)] h waiting

/-- Refuse with E_BANDWIDTH. -/
def needAdmitted (r : Option Refused) : Except CErr Unit :=
  match r with
  | none => .ok ()
  | some k => .error { status := eBandwidth, words := k.words }

/-- The result words of COST_QUERY: the worst band and the worst line (R222). -/
def State.costWords (s : State) (c : Cmd) (t : Timing) : List Word :=
  let h := c.u8 0x08
  let ls := s.priced (s.commitView h c.tenant) t
  let n := bandLines (s.head h).boundMin
  let cyc := s.lineCycles t
  let bands := ((chunks n ls).zipIdx).map (fun e => (e.2, (e.1.map (·.cost)).sum, 85 * e.1.length * cyc / 100, bandCode e.1))
  let worst := bands.foldl (fun b e => if b.2.1 * e.2.2.1 < e.2.1 * b.2.2.1 then e else b) (bands.headD (0, 0, 1, 1))
  let line := ((ls.zipIdx).foldl (fun b e => if b.2 < e.1.cost then (e.2, e.1.cost) else b) (0, 0))
  [word h, word worst.1, word worst.2.1, word worst.2.2.1, word worst.2.2.2, word line.1, word line.2,
    word ((ls.map (·.edges)).foldl max 0)]

/-- COST_QUERY (R222). -/
def costQueryBody (c : Cmd) (_ : CmdRef) (s : State) : CmdRes := do
  c.reserved [(0x08, 1)]
  need (decide (c.u8 0x08 ≤ 7)) eRange 0x08
  match (s.head (c.u8 0x08)).timing with
  | none => .error { status := eState }
  | some t => okDone s (s.costWords c t)

/-! ### Line lists -/

/-- Whether a parameter ID is listed for a kind of plane (Tables 5.10 and 6.8). -/
def paramListed (kind : Nat) (affine : Bool) (id : Nat) : Bool :=
  match kind with
  | 0 => (id = 2 || id = 3 || id = 4) || (if affine then decide (5 ≤ id) && decide (id ≤ 14) else decide (id ≤ 1))
  | 1 => decide (id ≤ 4)
  | 2 => id = 3 || id = 4 || id = 0x10
  | _ => id = 3 || id = 4 || id = 0x11 || id = 0x12

/-- One line-list slot. -/
def Head.listSlot (x : Head) (i : Nat) : ListSlot := IMap.get x.lists {} i

/-- What one entry of a list is, or the status it is refused with (R211): a line, or a write. `hs` are the handles. -/
def listEntry (s : State) (t h vA : Nat) (hs : List Nat) (e : List Byte) : Except Nat (Nat ⊕ LWrite) :=
  let w := fieldU e 0 4
  let v := fieldU e 4 4
  match bits w 31 30 with
  | 0 => if bits w 29 12 = 0 ∧ v = 0 ∧ bits w 11 0 < vA then .ok (.inl (bits w 11 0)) else .error eRange
  | 1 =>
    let hd := hs.getD (bits w 26 24) 0
    let id := bits w 23 16
    if bits w 29 27 ≠ 0 ∨ bits w 15 0 ≠ 0 ∨ hd = 0 then .error eRange
    else match s.findPlane t hd with
      | none => .error eNotOwner
      | some (_, slot, p) =>
        if paramListed (slotKind slot) p.affine id then .ok (.inr (.param hd id v)) else .error eRange
  | 2 =>
    if bits w 29 14 ≠ 0 then .error eRange
    else if ((s.head h).palette (bits w 13 8)).owner = some t then .ok (.inr (.pal (bits w 13 0) v)) else .error eNotOwner
  | _ => .error eRange

/-- Read a list entry by entry (R210, R211): `cur` collects the line in progress, `prev` is the last line entry's line.
An error gives its status and the entry's index. -/
def parseList (s : State) (t h vA : Nat) (hs : List Nat) :
    List (List Byte) → Nat → Option Nat → LLine → List LLine → Except (Nat × Nat) (List LLine)
  | [], _, _, cur, done => .ok (done ++ [cur])
  | e :: es, i, prev, cur, done =>
    match listEntry s t h vA hs e with
    | .error st => .error (st, i)
    | .ok (.inl y) =>
      if (match prev with | none => false | some p => decide (y ≤ p)) then .error (eLineOrder, i)
      else if y = cur.line then parseList s t h vA hs es (i + 1) (some y) { cur with entries := cur.entries + 1 } done
      else parseList s t h vA hs es (i + 1) (some y) ⟨y, 1, []⟩ (done ++ [cur])
    | .ok (.inr w) =>
      if 32 ≤ cur.writes.length then .error (eLineWrites, i)
      else parseList s t h vA hs es (i + 1) prev { cur with entries := cur.entries + 1, writes := cur.writes ++ [w] } done

/-- The most writes that one line of a line list makes, and the line (R211). -/
def mostWrites (ls : List LLine) : Nat × Nat :=
  ls.foldl (fun b l => if b.1 < l.writes.length then (l.writes.length, l.line) else b) (0, 0)

/-- The checks of a LINELIST_SET that loads: the handles, the slot, the data and its entries (R209 to R211). -/
def linelistLoad (c : Cmd) (s : State) : Except CErr (Nat × List LLine) := do
  let h := c.u8 0x09
  let slot := c.u8 0x0A
  let n := c.u32 0x0C
  let addr := c.u64 0x10
  let x := s.head h
  need (decide (slot ≤ 15) || slot = 0xFF) eRange 0x0A
  need (decide (1 ≤ n) && decide (n ≤ 65536)) eRange 0x0C
  match x.timing with
  | none => .error { status := eState }
  | some tm =>
    need (addr % 8 = 0) eAlign 0x10
    let hs := (List.range 8).map (fun i => c.u32 (0x18 + 4 * i))
    for i in List.range 8 do
      let hd := hs.getD i 0
      need (hd = 0 || ((s.findPlane c.tenant hd).map (fun k => k.1)) = some h) eNotOwner (0x18 + 4 * i)
    need (slot = 0xFF || (x.listSlot slot).owner = none || (x.listSlot slot).owner = some c.tenant) eNotOwner 0x0A
    match (if slot = 0xFF then lowest 16 (fun i => (x.listSlot i).owner = none) else some slot) with
    | none => .error { status := eNoRes }
    | some k =>
      let bs ← readFor s c.tenant addr (8 * n) 0x10
      match parseList s c.tenant h tm.vA hs (chunks 8 bs) 0 none ⟨0, 0, []⟩ [] with
      | .error (st, i) => .error { status := st, words := [word i] }
      | .ok ls => .ok (k, ls.filter (fun l => decide (0 < l.entries)))

/-- The tenant owns line-list slot `k` and stages the lines for it (R209). -/
def State.takeList (c : Cmd) (k : Nat) (ls : List LLine) (s : State) : State :=
  let h := c.u8 0x09
  let s := (s.noteAssetRead c.tenant (c.u64 0x10) (8 * c.u32 0x0C)).modHead h (fun x => { x with
    lists := IMap.put x.lists k { x.listSlot k with owner := some c.tenant } })
  s.modStage h c.tenant (fun g => { g with lists := IMap.put g.lists k (some ls) })

/-- LINELIST_SET (R209 to R211). -/
def linelistSetBody (c : Cmd) (_ : CmdRef) (s : State) : CmdRes := do
  let op := c.u8 0x08
  need (decide (op ≤ 1)) eRange 0x08
  c.reserved ([(0x08, 3)] ++ (if op = 0 then [(0x0C, 0x2C)] else []))
    ((List.range 8).foldr (fun i l => (0x18 + 4 * i, 4) :: l) [(0x0C, 4), (0x10, 8)])
  let h := c.u8 0x09
  let slot := c.u8 0x0A
  need (decide (h ≤ 7)) eRange 0x09
  if op = 1 then
    need (decide (slot ≤ 15)) eRange 0x0A
    need (s.head h).timed eState
    need (((s.head h).listSlot slot).owner = some c.tenant) eNotOwner 0x0A
    okDone (s.modStage h c.tenant (fun g => { g with lists := IMap.put g.lists slot none })) [word slot]
  else
    let (k, ls) ← linelistLoad c s
    okDone (s.takeList c k ls) [word k, word (mostWrites ls).1, word (mostWrites ls).2]

/-! ### Frets -/

/-- A freed fret stops being a source of the threads of its head (R264). -/
def State.dropFret (h f : Nat) (s : State) : State :=
  s.modTabs h (fun x => { x with threads := x.threads.map (fun e => (e.1, { e.2 with set := { e.2.set with
    fret0 := if e.2.set.fret0 = f then 0xFF else e.2.set.fret0
    fret1 := if e.2.set.fret1 = f then 0xFF else e.2.set.fret1 } })) })

/-- FRET_SET (R214). -/
def fretSetBody (c : Cmd) (_ : CmdRef) (s : State) : CmdRes := do
  let op := c.u8 0x08
  need (decide (op ≤ 2)) eRange 0x08
  let fl := c.u8 0x0B
  needFlags fl 7 0x0B
  c.reserved [(0x08, 6)]
  let h := c.u8 0x09
  let f := c.u8 0x0A
  let line := c.u16 0x0C
  need (decide (h ≤ 7)) eRange 0x09
  need (decide (f ≤ 15) || (op = 0 && f = 0xFF)) eRange 0x0A
  let x := s.head h
  need x.timed eState
  need (decide (line < x.vT)) eRange 0x0C
  need (decide (c.tenant ≤ 1) || x.views c.tenant) eState
  let set : FretSet := ⟨bitOf fl 0, bitOf fl 1, bitOf fl 2, line⟩
  let own (i : Nat) := (IMap.find? x.frets i).map (·.owner)
  match op with
  | 0 =>
    let free (i : Nat) := (own i).isNone
    match (if f = 0xFF then lowest 16 free else if free f then some f else none) with
    | none => .error { status := eNoRes }
    | some n => do
      need (decide ((x.frets.filter (fun e => e.2.owner = c.tenant)).length < 4)) eQuota
      okDone (s.modHead h (fun x => { x with
        frets := IMap.put x.frets n { owner := c.tenant, next := some set } })) [word n]
  | 1 =>
    need (own f = some c.tenant) eNotOwner 0x0A
    okDone (s.modHead h (fun x => { x with
      frets := IMap.adjust x.frets f (fun k => { k with next := some set }) })) [word f]
  | _ =>
    need (own f = some c.tenant) eNotOwner 0x0A
    okDone ((s.dropFret h f).modHead h (fun x => { x with frets := IMap.del x.frets f })) [word f]

/-- LINE_MATCH of a fret that fires (R216). -/
def State.lineMatch (h f : Nat) (owner line : Nat) (s : State) : State :=
  s.event owner 0x0601 ([word h, word f, word line, (s.head h).frames] ++ words64 s.now)

/-! ### Lead bounds -/

/-- LEAD_BOUNDS_SET (R206). -/
def leadBoundsSetBody (c : Cmd) (r : CmdRef) (s : State) : CmdRes := do
  c.reserved [(0x08, 1), (0x0A, 4)]
  let h := c.u8 0x08
  let lo := c.u16 0x0A
  let hi := c.u16 0x0C
  need (decide (h ≤ 7)) eRange 0x08
  need (decide (2 ≤ lo)) eRange 0x0A
  need (decide (lo ≤ hi)) eRange 0x0A
  match (s.head h).timing with
  | none => .error { status := eState }
  | some t =>
    need (decide (hi ≤ t.vTotal - 16)) eRange 0x0C
    needAdmitted (s.committedRefusal h t lo false)
    .ok (s.modHead h (fun x => { x with lead := { x.lead with pend := x.lead.pend ++ [(r, lo, hi)] } }), .later)

/-! ### Port fit and the dither -/

/-- The depth in bits that port fit takes for a head (R307): the greatest in force, staged or awaiting application. -/
def State.fitDepth (s : State) (h : Nat) : Nat :=
  let x := s.head h
  let ds := x.depth :: ((x.ditherNext.map Prod.fst).toList ++
    (x.stages.filterMap (fun e => e.2.dither.map Prod.fst)) ++
    ((s.waitingStages h).filterMap (fun e => e.2.dither.map Prod.fst)))
  if ds.contains 1 then 10 else 8

/-- The A-PHY gear rates in Mb/s (R305). -/
def gearRate (g : Nat) : Nat := match g with | 1 => 2000 | 2 => 4000 | 3 => 8000 | 4 => 12000 | _ => 16000

/-- Whether a route fits streams of the given rates in bits a second (R307). -/
def Route.fits (r : Route) (streams : List Nat) : Bool :=
  let q := r.lanes * r.rate * 216000000
  match r.mode with
  | 0 => true
  | 4 => streams.all (fun v => decide (100 * v ≤ 88 * gearRate r.rate * 1000000))
  | 2 => decide (((streams.map (fun v => ceilDiv (64384 * v) (1000 * q))).sum) ≤ 63)
  | _ => streams.all (fun v => decide (100 * v ≤ 99 * q))

/-- Whether every route, in force or awaiting training, fits with the given pixel rates and depths. -/
def State.routesFit (s : State) (rate depth : Nat → Nat) : Bool :=
  s.disp.ports.all (fun e =>
    let rs := e.2.route.toList ++ e.2.pend.map (·.route)
    rs.all (fun r => r.fits (r.heads.filterMap (fun h => h.map (fun h => rate h * 3 * depth h)))))

/-- The pixel rate of a head, with the greatest of timing in force and awaiting application. -/
def State.fitRate (s : State) (h : Nat) : Nat :=
  let x := s.head h
  let rs := (x.timing.map (·.rate)).toList ++ x.pendTiming.filterMap (fun e => match e.2 with
    | .first t => some t.rate | .change t => some t.rate | .deadline t => some t.rate | .off => none)
  rs.foldl max 0

/-- DITHER_SET (R198, R307). -/
def ditherSetBody (c : Cmd) (_ : CmdRef) (s : State) : CmdRes := do
  c.reserved [(0x08, 3)]
  let h := c.u8 0x08
  let depth := c.u8 0x09
  let mode := c.u8 0x0A
  need (decide (h ≤ 7)) eRange 0x08
  need (decide (depth ≤ 1)) eRange 0x09
  need (decide (mode ≤ 2)) eRange 0x0A
  need (s.head h).timed eState
  let d (k : Nat) : Nat := if k = h then (if depth = 1 then 10 else 8) else s.fitDepth k
  need (s.routesFit s.fitRate d) ePortFit 0x09
  okDone (s.modStage h c.tenant (fun g => { g with dither := some (depth, mode) })) []

end Sys2Proof.Machine
end

