-- ==== Sys2Proof/Machine/Pixels.lean ====
section
/-! DEFINITION. What the planes of a head give each pixel of a line, and how the blend stack joins them (R120 to R147,
R153 to R180, R182 to R193). -/

namespace Sys2Proof.Machine

/-- What a plane gives one column of a line: its contribution (A, R, G, B, all linear unorm16) with its class, and the
data error met there, as a cause and a key that counts once a line. `solid`: the sample is not transparent (R122), whatever
its contribution. -/
structure PlanePixel where
  comps : Option (List Nat) := none
  cls   : Nat := 0
  solid : Bool := false
  err   : Option (Nat × Nat) := none

/-- A contribution of four zero components is none (R186); factors multiply in order (R185). -/
def contribute (cls : Nat) (p : List Nat) (factors : List Nat) : PlanePixel :=
  let q := factors.foldl (fun p k => p.map (fun v => mulU v k)) p
  { comps := if q.all (· = 0) then none else some q, cls := cls, solid := true }

/-! ### Tile and object pixels -/

/-- Expansion of a direct-colour pixel to A, R, G, B at 8 bits (Table 5.2). -/
def expandPixel (f v : Nat) : List Nat :=
  match f with
  | 3 =>
    let r := bits v 15 11
    let g := bits v 10 5
    let b := bits v 4 0
    [255, r * 8 + r / 4, g * 4 + g / 16, b * 8 + b / 4]
  | 4 => [bits v 15 12 * 17, bits v 11 8 * 17, bits v 7 4 * 17, bits v 3 0 * 17]
  | _ => [bits v 31 24, bits v 23 16, bits v 15 8, bits v 7 0]

/-- Read pixel `n` of a row that starts at `row` (R123). -/
def State.rowPixel (s : State) (t f row n : Nat) : Except AssetFault Nat :=
  let b := pixelBits f
  let k := max 1 (b / 8)
  match s.assetRead t (row + n * b / 8) k with
  | .error e => .error e
  | .ok bs => .ok (if b < 8 then bits (leNat bs) (n * b % 8 + b - 1) (n * b % 8) else leNat bs)

/-- A tile or object pixel value as a plane pixel (R122, R125, R182 to R185). -/
def Head.colourPixel (x : Head) (owner : Nat) (q : Params) (code cls f pal v : Nat) (factors : List Nat) (col : Nat) :
    PlanePixel :=
  let lin (p : List Nat) : PlanePixel :=
    if p.getD 0 0 = 0 ∧ !q.premul then { cls := cls }
    else contribute cls (x.linear code q.premul (p.map expand8)) (factors ++ [q.alpha * 257])
  if f ≤ 2 then
    let p := x.palette ((q.palBase + pal) % 64)
    if p.owner ≠ some owner then { cls := cls, err := some (3, col) }
    else if q.zeroT ∧ v = 0 then { cls := cls }
    else lin (expandPixel 5 (p.live.getD v 0))
  else lin (expandPixel f v)

/-- The map position of a graticule pixel, before wrap and clip (R130, R132). -/
def mapPosition (affine : Bool) (q : Params) (px py : Nat) : Int × Int :=
  let x : Int := (px : Int) - q.dest.x
  let y : Int := (py : Int) - q.dest.y
  if affine then
    let u := signed 48 (wrapTo 48 (q.cx + q.a * (x - q.px) + q.b * (y - q.py)))
    let v := signed 48 (wrapTo 48 (q.cy + q.c * (x - q.px) + q.d * (y - q.py)))
    (Int.fdiv u 65536, Int.fdiv v 65536)
  else (x + q.sx, y + q.sy)

/-- One pixel of a graticule plane (R127 to R133). DESIGN CHOICE (assumption 66): a map entry that has a reserved bit set and a
tile index of tile_count or more counts as cause 2. -/
def State.graticulePixel (s : State) (x : Head) (p : Plane) (q : Params) (px py : Nat) :
    Except AssetFault PlanePixel :=
  let w : Int := (q.mapW * q.tile : Nat)
  let h : Int := (q.mapH * q.tile : Nat)
  let (u0, v0) := mapPosition p.affine q px py
  let (u, v) := if q.wrap then (Int.emod u0 w, Int.emod v0 h) else (u0, v0)
  if u < 0 ∨ w ≤ u ∨ v < 0 ∨ h ≤ v then .ok {}
  else
    let t := q.tile
    let mx := u.toNat / t
    let my := v.toNat / t
    let i := my * q.mapW + mx
    match s.assetRead p.owner (q.mapAddr + 4 * i) 4 with
    | .error e => .error e
    | .ok bs =>
      let e := leNat bs
      let cls := bits e 29 28
      if bits e 31 30 ≠ 0 then .ok { cls := cls, err := some (2, i) }
      else if q.tiles ≤ bits e 19 0 then .ok { cls := cls, err := some (1, i) }
      else
        let tx := if bitOf e 26 then t - 1 - u.toNat % t else u.toNat % t
        let ty := if bitOf e 27 then t - 1 - v.toNat % t else v.toNat % t
        let rowBytes := t * pixelBits q.format / 8
        match s.rowPixel p.owner q.format (q.addr + (bits e 19 0 * t + ty) * rowBytes) tx with
        | .error e => .error e
        | .ok v => .ok (x.colourPixel p.owner q p.content.transfer cls q.format (bits e 25 20) v [] px)

/-- The image pixel that a box pixel of an object samples, none where it is transparent (R137, R138). -/
def objectSample (o : ObjEntry) (i j : Nat) : Option (Nat × Nat) :=
  if o.affine then
    let i2 : Int := 2 * i + 1 - o.w
    let j2 : Int := 2 * j + 1 - o.h
    let wrap (v : Int) : Int := signed 32 (wrapTo 32 v)
    let su := Int.fdiv (wrap (o.a * i2 + o.b * j2 + o.imgW * 4096)) 8192
    let sv := Int.fdiv (wrap (o.c * i2 + o.d * j2 + o.imgH * 4096)) 8192
    if su < 0 ∨ (o.imgW : Int) ≤ su ∨ sv < 0 ∨ (o.imgH : Int) ≤ sv then none
    else some (if o.hflip then o.imgW - 1 - su.toNat else su.toNat, if o.vflip then o.imgH - 1 - sv.toNat else sv.toNat)
  else some (if o.hflip then o.w - 1 - i else i, if o.vflip then o.h - 1 - j else j)

/-- One pixel of an object plane: the first selected object, in rank order, whose sample is not transparent (R139). -/
def State.objectPixel (s : State) (x : Head) (p : Plane) (q : Params) (px py : Nat) :
    List ObjEntry → Option (Nat × Nat) → Except AssetFault PlanePixel
  | [], err => .ok { err := err }
  | o :: os, err =>
    let i : Int := (px : Int) - q.dest.x + q.sx - o.x
    let j : Int := (py : Int) - q.dest.y + q.sy - o.y
    if i < 0 ∨ (o.w : Int) ≤ i ∨ j < 0 ∨ (o.h : Int) ≤ j then s.objectPixel x p q px py os err
    else match objectSample o i.toNat j.toNat with
      | none => s.objectPixel x p q px py os err
      | some (si, sj) =>
        let w := if o.affine then o.imgW else o.w
        let pitch := ceilDiv (w * pixelBits o.format) 64 * 8
        match s.rowPixel p.owner o.format (q.addr + o.image * 64 + sj * pitch) si with
        | .error e => .error e
        | .ok v =>
          let r := x.colourPixel p.owner q p.content.transfer o.cls o.format o.pal v [o.alpha * 257] px
          if r.solid then .ok { r with err := err.or r.err }
          else s.objectPixel x p q px py os (err.or r.err)

/-! ### Canvas pixels -/

/-- Read an unsigned sample. -/
def State.sample (s : State) (t a n : Nat) : Except AssetFault Nat :=
  match s.assetRead t a n with | .error e => .error e | .ok bs => .ok (leNat bs)

/-- Chroma at full resolution along one axis (R156): `c` gives the samples, already clamped. -/
def chromaAxis (centred : Bool) (p : Nat) (c : Int → Except AssetFault Nat) : Except AssetFault Nat := do
  let k : Int := (p / 2 : Nat)
  if centred then
    let a ← c k
    let b ← if p % 2 = 0 then c (k - 1) else c (k + 1)
    return (3 * a + b + 2) / 4
  else if p % 2 = 0 then c k
  else
    let a ← c k
    let b ← c (k + 1)
    return (a + b + 1) / 2

/-- The coefficients of Table 6.3: ky, kr_cr, kg_cb, kg_cr, kb_cb. -/
def yuvCoefs (m : Nat) (full : Bool) : List Int :=
  match m, full with
  | 0, true => [4096, 5743, 1410, 2925, 7258]
  | 0, false => [4783, 6557, 1609, 3340, 8287]
  | 1, true => [4096, 6450, 767, 1917, 7601]
  | 1, false => [4783, 7365, 876, 2189, 8678]
  | _, true => [4096, 6040, 674, 2340, 7706]
  | _, false => [4783, 6896, 770, 2672, 8799]

/-- YCbCr at 10 bits to A, R, G, B at 10 bits (R157). -/
def yuvToRgb (enc y cb cr : Nat) : List Nat :=
  let full := bitOf enc 2
  let k := yuvCoefs (bits enc 1 0) full
  let yy : Int := if full then y else (y : Int) - 64
  let b : Int := (cb : Int) - 512
  let r : Int := (cr : Int) - 512
  let g (i : Nat) : Int := k.getD i 0
  let out (v : Int) : Nat := (clampInt 0 1023 (Int.fdiv (v + 2048) 4096)).toNat
  [1023, out (g 0 * yy + g 1 * r), out (g 0 * yy - g 2 * b - g 3 * r), out (g 0 * yy + g 4 * b)]

/-- A luma sample at 10 bits (R155). -/
def lumaTen (full : Bool) (v : Nat) : Nat := if full then v * 4 + v / 64 else v * 4

/-- One chroma sample of a canvas at 10 bits: component 0 Cb, 1 Cr; indices clamped to the canvas (R154 to R156). -/
def State.chromaAt (s : State) (t : Nat) (k : Canvas) (comp : Nat) (row col : Int) : Except AssetFault Nat :=
  let m := (clampInt 0 ((k.width / 2 : Nat) - 1) col).toNat
  let r := (clampInt 0 ((if halfRows k.format then (k.height / 2 : Nat) else k.height : Nat) - 1) row).toNat
  match k.format with
  | 3 => (s.sample t (k.chroma + r * k.cpitch + 2 * m + comp) 1).map (· * 4)
  | 4 => (s.sample t (k.chroma + r * k.cpitch + 4 * m + 2 * comp) 2).map (· / 64)
  | _ => (s.sample t (k.addr + r * k.pitch + 4 * m + 1 + 2 * comp) 1).map (· * 4)

/-- One source pixel of a canvas as A, R, G, B at 10 bits (R154 to R157). -/
def State.canvasSource (s : State) (t : Nat) (k : Canvas) (sx sy : Nat) : Except AssetFault (List Nat) := do
  let row := k.addr + sy * k.pitch
  match k.format with
  | 0 =>
    let v ← s.sample t (row + 4 * sx) 4
    return [bits v 31 24, bits v 23 16, bits v 15 8, bits v 7 0].map expand8
  | 1 =>
    let v ← s.sample t (row + 4 * sx) 4
    return rampParts v
  | 2 =>
    let v ← s.sample t (row + 2 * sx) 2
    let g := bits v 10 5
    return [1023, bits v 15 11 * 33, g * 16 + g / 4, bits v 4 0 * 33]
  | f =>
    let full := bitOf k.enc 2
    let y ← match f with
      | 3 => (s.sample t (row + sx) 1).map (lumaTen full)
      | 4 => (s.sample t (row + 2 * sx) 2).map (· / 64)
      | _ => (s.sample t (row + 4 * (sx / 2) + 2 * (sx % 2)) 1).map (lumaTen full)
    let vert (comp : Nat) (col : Int) : Except AssetFault Nat :=
      if halfRows f then chromaAxis (bitOf k.enc 3) sy (fun r => s.chromaAt t k comp r col)
      else s.chromaAt t k comp sy col
    let cb ← chromaAxis (bitOf k.enc 4) sx (vert 0)
    let cr ← chromaAxis (bitOf k.enc 4) sx (vert 1)
    return yuvToRgb k.enc y cb cr

/-- How one axis of a scaler makes an output sample: source indices with their weights, and how the sum is brought back
(R160 to R165). -/
structure Taps where
  taps : List (Nat × Int)
  kind : Nat
  n    : Nat

/-- The taps of output sample `i` on an axis with crop `o`, `S` and destination `D`; `poly` gives the coefficients of a
phase and the offset of tap 0. -/
def axisTaps (o S D i : Nat) (poly : Option ((Nat → List Int) × Int)) : Taps :=
  let step := (S * 65536 + D / 2) / D
  let pos : Int := (o * 65536 : Nat) + (((2 * i + 1) * step) / 2 : Nat) - 32768
  let k := Int.fdiv pos 65536
  let f := Int.emod pos 65536
  let at_ (j : Int) : Nat := (clampInt o ((o : Int) + S - 1) j).toNat
  match poly with
  | some (c, off) => ⟨((c (f.toNat / 1024)).zipIdx).map (fun e => (at_ (k + off + e.2), e.1)), 2, 0⟩
  | none =>
    if S ≤ D then ⟨[(at_ k, 65536 - f), (at_ (k + 1), f)], 0, 0⟩
    else
      let n := ceilDiv S D
      let k0 : Int := ((o * 65536 + i * step) / 65536 : Nat)
      ⟨(List.range n).map (fun (j : Nat) => (at_ (k0 + (j : Int)), (1 : Int))), 1, n⟩

/-- Bring a weighted sum back to unorm16 (R159, R161, R164). -/
def Taps.finish (t : Taps) (v : Int) : Nat :=
  (clampInt 0 65535 (match t.kind with
    | 0 => Int.fdiv (v + 32768) 65536
    | 1 => Int.fdiv (v + (t.n / 2 : Nat)) t.n
    | _ => Int.fdiv (v + 128) 256)).toNat

/-- One pass of a scaler over pixels given by source index (R159): each colour clamped to the alpha. -/
def scalePass (t : Taps) (src : Nat → Except AssetFault (List Nat)) : Except AssetFault (List Nat) := do
  let ps ← t.taps.mapM (fun e => do return ((← src e.1), e.2))
  let comp (k : Nat) : Nat := t.finish ((ps.map (fun e => ((e.1.getD k 0 : Nat) : Int) * e.2)).sum)
  let a := comp 0
  return [a, min a (comp 1), min a (comp 2), min a (comp 3)]

/-- The default polyphase kernel (R165): tap `k` and `k + 1` of `n`. -/
def defaultTaps (n k ph : Nat) : List Int :=
  (List.range n).map (fun i => if i = k then 256 - (ph : Int) * 4 else if i = k + 1 then (ph : Int) * 4 else 0)

/-- One pixel of a canvas plane (R159 to R165). -/
def State.canvasPixel (s : State) (x : Head) (p : Plane) (q : Params) (px py : Nat) : Except AssetFault PlanePixel :=
  match p.content.canvas with
  | none => .ok {}
  | some k =>
    let poly := q.needsPoly
    let hc (ph : Nat) : List Int := match p.content.coefs with | some c => (c.h.drop (8 * ph)).take 8 | none => defaultTaps 8 3 ph
    let vc (ph : Nat) : List Int := match p.content.coefs with | some c => (c.v.drop (6 * ph)).take 6 | none => defaultTaps 6 2 ph
    let ht := axisTaps q.srcX q.srcW q.dest.w (px - q.dest.x) (if poly then some (hc, -3) else none)
    let vt := axisTaps q.srcY q.srcH q.dest.h (py - q.dest.y) (if poly then some (vc, -2) else none)
    let premul := q.premul && !yuvFormat k.format
    let src (sx sy : Nat) : Except AssetFault (List Nat) :=
      (s.canvasSource p.owner k sx sy).map (x.linear p.content.transfer premul)
    match scalePass ht (fun sx => scalePass vt (fun sy => src sx sy)) with
    | .error e => .error e
    | .ok v => .ok (contribute p.cls v [q.alpha * 257])

/-! ### Contour pixels -/

/-- The winding number of a sample (R172). -/
def winding (es : List Edge) (sx sy : Int) : Int :=
  (es.map (fun e =>
    if min e.y0 e.y1 ≤ sy ∧ sy < max e.y0 e.y1 then
      let d := (sx - e.x0) * (e.y1 - e.y0) - (e.x1 - e.x0) * (sy - e.y0)
      if 0 ≤ d * (e.y1 - e.y0) then (if e.y0 < e.y1 then 1 else -1) else 0
    else 0)).sum

/-- The coverage of a plane pixel (R172, R173). -/
def coverage (es : List Edge) (evenOdd : Bool) (px py : Int) : Nat :=
  let offs : List Int := [2, 6, 10, 14]
  ((offs.flatMap (fun dy => offs.map (fun dx => winding es (16 * px + dx) (16 * py + dy)))).filter
    (fun w => if evenOdd then w % 2 != 0 else w != 0)).length

/-- The ramp entry of a gradient parameter (R178). -/
def spreadEntry (spread : Nat) (t : Int) : Nat :=
  let u : Int := match spread with
    | 0 => clampInt 0 65536 t
    | 1 => Int.emod t 65536
    | _ =>
      let m := Int.emod t 131072
      if m ≤ 65536 then m else 131072 - m
  (u.toNat * 255 + 32768) / 65536

/-- The paint colour at a plane pixel as A, R, G, B at 10 bits (R173, R176 to R178). -/
def Paint.at_ (p : Paint) (colour : Option Nat) (px py : Int) : List Nat :=
  let unpack (v : Nat) : List Nat := [bits v 39 30, bits v 29 20, bits v 19 10, bits v 9 0]
  match p.kind with
  | 0 => rampParts (colour.getD p.colour)
  | 1 =>
    let t := clampInt (-2147483648) 2147483647 (Int.fdiv (p.gc + p.ga * px + p.gb * py) 256)
    unpack (p.ramp.getD (spreadEntry p.spread t) 0)
  | _ =>
    let ex := 16 * px + 8 - p.cx
    let ey := 16 * py + 8 - p.cy
    let qv := ((ex * ex + ey * ey) * 2 ^ 32 / (p.r * p.r)).toNat
    unpack (p.ramp.getD (spreadEntry p.spread (min 0x7FFFFFFF (Nat.sqrt qv) : Nat)) 0)

/-- One pixel of a contour plane (R168, R172, R173, R185). -/
def contourPixel (x : Head) (p : Plane) (q : Params) (px py : Nat) : PlanePixel :=
  let ux : Int := (px : Int) - q.dest.x + q.sx
  let uy : Int := (py : Int) - q.dest.y + q.sy
  let c := coverage p.content.edges q.evenOdd ux uy
  let colour := p.content.paint.at_ q.colour ux uy
  if c = 0 ∨ colour.getD 0 0 = 0 then {}
  else contribute p.cls (x.linear p.content.transfer false colour) [(c * 65535 + 8) / 16, q.alpha * 257]

/-! ### Rows -/

/-- Whether a plane's output is clipped at a pixel (R121, R57, R186). -/
def Head.clipped (x : Head) (owner : Nat) (q : Params) (px py : Nat) : Bool :=
  !q.dest.has px py ||
    (match IMap.find? x.viewports owner with | none => true | some r => !r.has px py) ||
    x.clip.any (fun r => r.has px py)

/-- A plane's row: its pixels up to the first that meets a fault, and that fault (R108, Table 4.9). -/
def rowUntil : List (Nat × Except AssetFault PlanePixel) → List (Nat × PlanePixel) × Option AssetFault
  | [] => ([], none)
  | (_, .error e) :: _ => ([], some e)
  | (i, .ok p) :: r =>
    let k := rowUntil r
    ((i, p) :: k.1, k.2)

/-- The pixels of one plane on line `y`, clipped ones left out. DESIGN CHOICE (assumption 66): what is clipped is not fetched, so
that a data error there does not count (R147). -/
def State.planeRow (s : State) (x : Head) (slot : Nat) (p : Plane) (sel : List Candidate) (y : Nat) :
    List (Nat × PlanePixel) × Option AssetFault :=
  match p.live with
  | none => ([], none)
  | some q =>
    if !q.visible then ([], none)
    else
      let cols := (List.range x.hA).filter (fun px => !x.clipped p.owner q px y)
      let objs := (sel.filter (fun k => k.plane.slot = slot)).map (·.obj)
      rowUntil (cols.map (fun px => (px, match slotKind slot with
        | 0 => s.graticulePixel x p q px y
        | 1 => s.objectPixel x p q px y objs none
        | 2 => s.canvasPixel x p q px y
        | _ => .ok (contourPixel x p q px y))))

/-! ### The blend stack -/

/-- A contribution with its key and plane. -/
structure Contribution where
  cls   : Nat
  z     : Nat
  slot  : Nat
  owner : Nat
  gen   : Nat
  comps : List Nat

/-- Nearer contributions first (R120). -/
def Contribution.nearer (a b : Contribution) : Bool := decide (b.cls < a.cls) || (a.cls = b.cls && decide (b.z ≤ a.z))

/-- Blend contributions, farthest first, over opaque black (R191), into a frame-store pixel (R95). -/
def blend (cs : List Contribution) : Nat :=
  let rgb := cs.foldr (fun c acc =>
    let t := 65535 - c.comps.getD 0 0
    (acc.zipIdx).map (fun e => min 65535 (c.comps.getD (e.2 + 1) 0 + mulU e.1 t))) [0, 0, 0]
  rgb.getD 0 0 + rgb.getD 1 0 * 65536 + rgb.getD 2 0 * 2 ^ 32

/-- Add to a tally, which keeps the first position. -/
def addTally (m : IMap Tally) (k n w0 w1 w2 : Nat) : IMap Tally :=
  match IMap.find? m k with
  | none => IMap.put m k ⟨k, n, w0, w1, w2⟩
  | some t => IMap.put m k { t with count := t.count + n }

/-- The blend of one pixel and its share of the frame's counters (R190, R193, R201). -/
def blendPixel (h px py : Nat) (cs : List Contribution) (f : FrameStats) : Nat × FrameStats :=
  let ranked := sortBy Contribution.nearer cs
  let kept := ranked.take 16
  let dropped := ranked.drop 16
  let f := { f with
    maxOffered := max f.maxOffered cs.length, maxKept := max f.maxKept kept.length
    overdraw := f.overdraw + dropped.length
    overPos := if dropped.isEmpty then f.overPos else f.overPos.or (some (px, py))
    overOwners := (dropped.map (·.owner)).eraseDups.foldl (fun m t =>
      let mine := dropped.filter (fun c => c.owner = t)
      let low := (mine.getLast?).map (fun c => handleOf c.gen h c.slot)
      addTally m t mine.length (low.getD 0) px py) f.overOwners }
  (blend kept, f)

/-- The Legend type and instance of the unit that fetches for a plane, on a cluster (R109). -/
def planeUnit (slot cl : Nat) : Nat × Nat :=
  match slotKind slot with
  | 0 => (0x0100, 8 * cl + slot / 2)
  | 1 => (0x0101, cl)
  | 2 => (0x0102, 4 * cl + (slot - 20) / 2)
  | _ => (0x0103, cl)

/-- The head as object selection sees it with the parameters of the line. -/
def Head.liveView (x : Head) (h : Nat) : List PlaneView :=
  x.planes.filterMap (fun e => e.2.live.map (fun q =>
    ⟨e.1, e.2.owner, handleOf e.2.gen h e.1, e.2.z, e.2.cls, e.2.affine, e.2.content, q⟩))

/-- The counters of a line's object selection (R143, R148). -/
def objectStats (y : Nat) (sel drop : List Candidate) (f : FrameStats) : FrameStats :=
  let f := { f with
    maxObjects := max f.maxObjects sel.length, maxPixels := max f.maxPixels ((sel.map (·.count)).sum) }
  if drop.isEmpty then f
  else
    let px := (drop.map (·.count)).sum
    { f with
      ovfFirst := f.ovfFirst.or (some y), ovfLines := f.ovfLines + 1
      ovfOwners := ((drop.map (·.plane.owner)).eraseDups).foldl (fun m t => addTally m t 0 y drop.length px) f.ovfOwners }

/-- A plane meets a fault (R109): ATLAS_FAULT goes to its owner once per plane and frame. -/
def State.planeFault (h slot owner : Nat) (f : AssetFault) (s : State) : State :=
  let x := s.head h
  if x.cur.faulted.contains slot then s.modTenant owner (fun t => { t with faults := t.faults + 1 })
  else
    let (ty, i) := planeUnit slot (x.cluster.getD 0)
    (s.modHead h (fun x => { x with cur := { x.cur with faulted := slot :: x.cur.faulted } })).atlasFault owner f ty i

/-- What the planes of a head contribute at a pixel. -/
def contributionsAt (rows : List (Nat × Plane × List (Nat × PlanePixel) × Option AssetFault)) (px : Nat) :
    List Contribution :=
  rows.filterMap (fun r =>
    match r.2.2.1.find? (fun e => e.1 = px) with
    | none => none
    | some (_, v) => v.comps.map (fun k => ⟨v.cls, r.2.1.z, r.1, r.2.1.owner, r.2.1.gen, k⟩))

/-- The counters of `f` with those that blending moves from `g`. -/
def FrameStats.withBlend (f g : FrameStats) : FrameStats :=
  { f with
    overdraw := g.overdraw, overPos := g.overPos, overOwners := g.overOwners
    maxOffered := g.maxOffered, maxKept := g.maxKept }

/-- Blend a line from the rows of its planes, without what `cut` takes out by slot and pixel. -/
def blendLine (h y w : Nat) (rows : List (Nat × Plane × List (Nat × PlanePixel) × Option AssetFault))
    (cut : Nat → Nat → Bool) (f : FrameStats) : List Nat × FrameStats :=
  let r := (List.range w).foldl (fun (acc : List Nat × FrameStats) px =>
    let (v, f) := blendPixel h px y ((contributionsAt rows px).filter (fun c => !cut c.slot px)) acc.2
    (v :: acc.1, f)) ([], f)
  (r.1.reverse, r.2)

/-- Compose line `y` of a head: its frame-store pixels, and the state with the frame's counters and the faults met. -/
def State.composePixels (h y : Nat) (s : State) : State × List Nat :=
  let x := s.head h
  let (sel, drop) := selectObjects (x.liveView h) x.hA x.vA y
  let rows := x.planes.map (fun e => (e.1, e.2, s.planeRow x e.1 e.2 sel y))
  let f := objectStats y sel drop x.cur
  let edges := headEdges ⟨x.liveView h, [], []⟩ x.hA x.vA y
  let f := if f.peakEdges < edges then { f with peakEdges := edges, peakLine := y } else f
  let f := (rows.filter (fun r => slotKind r.1 = 2)).foldl (fun f r =>
    match r.2.1.live with
    | none => f
    | some q =>
      if r.2.1.content.canvas.isNone || !q.visible || planeWidth q x.hA x.vA y = 0 then f
      else { f with srcPixels := IMap.put f.srcPixels r.1 (IMap.get f.srcPixels 0 r.1 + q.taps * q.srcW) }) f
  let f := rows.foldl (fun f r =>
    let errs := r.2.2.1.filterMap (fun e => e.2.err.map (fun k => (e.1, k)))
    let keys := (errs.map Prod.snd).eraseDups
    match errs.head? with
    | none => f
    | some (px, cause, _) => { f with dataErr := addTally f.dataErr r.1 keys.length cause px y }) f
  let (out, g) := blendLine h y x.hA rows (fun _ _ => false) f
  let faults := rows.filterMap (fun r => r.2.2.2.map (fun a => (r.1, r.2.1.owner, a)))
  let s := s.modHead h (fun x => { x with cur := g, comp := { x.comp with before := f } })
  let s := faults.foldl (fun s e => s.planeFault h e.1 e.2.1 e.2.2) s
  (s, out)

/-- A fault that a read of a plane's data brings while its line is in progress (R108): from a pixel on, the line is composed
without that plane, and what the blending of the line counted is counted again. -/
def State.cutPlane (h slot first : Nat) (s : State) : State :=
  let x := s.head h
  if !x.comp.busy then s
  else
    let y := x.comp.next
    let cuts := (slot, first) :: x.comp.cuts
    let cut (slot px : Nat) : Bool := cuts.any (fun c => c.1 = slot && decide (c.2 ≤ px))
    let (sel, _) := selectObjects (x.liveView h) x.hA x.vA y
    let rows := x.planes.map (fun e => (e.1, e.2, s.planeRow x e.1 e.2 sel y))
    let (px, g) := blendLine h y x.hA rows cut x.comp.before
    s.modHead h (fun x => { x with
      cur := x.cur.withBlend g, comp := { x.comp with cuts := cuts, line := x.comp.line.take first ++ px.drop first } })

/-- The planes of a line list's owner that depend on what the list writes for a line (R108). DEDUCED (assumption 67): those that
its writes name, and for palette words those that may show an indexed colour. -/
def Head.listPlanes (x : Head) (slot y : Nat) : List Nat :=
  let l := x.listSlot slot
  let ws := (l.lines.filter (fun e => e.line = y)).flatMap (·.writes)
  (x.planes.filter (fun e => some e.2.owner = l.owner && ws.any (fun w => match w with
    | .param hd _ _ => decide (hd % 0x100 = e.1) && hd / 0x10000 = e.2.gen
    | .pal _ _ => decide (slotKind e.1 ≤ 1)))).map Prod.fst

/-- The data of a line list for the line in progress faults (R108): the planes that depend on it contribute nothing to the
line. -/
def State.cutList (h slot : Nat) (s : State) : State :=
  ((s.head h).listPlanes slot (s.head h).comp.next).foldl (fun s k => s.cutPlane h k 0) s

/-! ### Line writes (R144 to R146, R179, R212, R213) -/

/-- A parameter write on a plane's live parameters (Tables 5.10 and 6.8). -/
def Params.lineWrite (q : Params) (kind : Nat) (canvas : Option Canvas) (id v : Nat) : Params :=
  let s24 := signed 24 (v % 2 ^ 24)
  let s16 := signed 16 (v % 2 ^ 16)
  let scroll := if kind = 0 then signed 32 v else s16
  let lo (old : Int) : Int := signed 48 (wrapTo 48 old / 2 ^ 32 * 2 ^ 32 + v)
  let hi (old : Int) : Int := signed 48 (v % 2 ^ 16 * 2 ^ 32 + wrapTo 32 old)
  match id with
  | 0x00 => { q with sx := scroll }
  | 0x01 => { q with sy := scroll }
  | 0x02 => { q with palBase := v % 64 }
  | 0x03 => { q with alpha := v % 256 }
  | 0x04 => { q with visible := bitOf v 0 }
  | 0x05 => { q with a := s24 }
  | 0x06 => { q with b := s24 }
  | 0x07 => { q with c := s24 }
  | 0x08 => { q with d := s24 }
  | 0x09 => { q with cx := lo q.cx }
  | 0x0A => { q with cx := hi q.cx }
  | 0x0B => { q with cy := lo q.cy }
  | 0x0C => { q with cy := hi q.cy }
  | 0x0D => { q with px := s16 }
  | 0x0E => { q with py := s16 }
  | 0x10 =>
    match canvas with
    | none => q
    | some k =>
      let n := min (v % 2 ^ 16) (k.width - q.srcW)
      { q with srcX := if yuvFormat k.format then n / 2 * 2 else n }
  | 0x11 => { q with sx := s16 }
  | 0x12 => { q with colour := some v }
  | _ => q

/-- Carry out one write of a tenant for the line about to start; the second part says whether it changed anything
(R145, R146, R213, R240). -/
def State.lineWrite (h t : Nat) (w : LWrite) (s : State) : State × Bool :=
  match w with
  | .param hd id v =>
    match s.findPlane t hd with
    | none => (s, false)
    | some (h', slot, p) =>
      let kind := slotKind slot
      if h' ≠ h ∨ !paramListed kind p.affine id ∨ (id = 0x12 ∧ p.content.paint.kind ≠ 0) then (s, false)
      else (s.modHead h (fun x => { x with planes := IMap.adjust x.planes slot (fun p =>
        { p with live := p.live.map (fun q => q.lineWrite kind p.content.canvas id v) }) }), true)
  | .pal n v =>
    let k := n / 256 % 64
    let p := (s.head h).palette k
    if p.owner = some t then
      let ws := if p.live.isEmpty then List.replicate 256 0 else p.live
      (s.modHead h (fun x => { x with palettes := IMap.put x.palettes k { p with live := ws.set (n % 256) v } }), true)
    else (s, false)

/-- The line-list writes of a line, in ascending slot order (R212), with their counters (R213, R223). -/
def State.applyLists (h y : Nat) (s : State) : State :=
  let ls := (s.head h).lists.flatMap (fun e =>
    (e.2.lines.filter (fun l => l.line = y)).flatMap (fun l => l.writes.map (fun w => (e.1, e.2.owner.getD 0xFFFF, w))))
  let s := ls.foldl (fun s e =>
    let (s', ok) := s.lineWrite h e.2.1 e.2.2
    if ok then s'
    else s.modHead h (fun x => { x with cur := { x.cur with orphans := addTally x.cur.orphans e.1 1 y e.2.1 0 } })) s
  s.modHead h (fun x => { x with cur := { x.cur with peakWrites := max x.cur.peakWrites ls.length } })

/-- The tab writes of a line, in the order issued (R145, R265). -/
def State.applyTabWrites (h y : Nat) (s : State) : State :=
  let ws := (s.headTabs h).writes.filter (fun w => w.line = y)
  let s := s.modTabs h (fun k => { k with writes := k.writes.filter (fun w => w.line != y) })
  ws.foldl (fun s w => (s.lineWrite h w.owner w.write).1) s

end Sys2Proof.Machine
end

