-- ==== Sys2Proof/Machine/TabOps.lean ====
section
/-! DEFINITION. Tab threads as the composer and the commits see them (R259 to R269): restart, stop, wakes, fast sources,
and the faults and counters of a frame. -/

namespace Sys2Proof.Machine

/-- The handle of a thread (R259). -/
def Thread.handle (k : Thread) (h slot : Nat) : Nat := handleOf k.gen h slot

/-- The core within its cluster that runs a slot (R259). -/
def slotCore (slot : Nat) : Nat := slot / 8

/-- Change one thread. -/
def State.modThread (h slot : Nat) (f : Thread → Thread) (s : State) : State :=
  s.modTabs h (fun k => { k with threads := IMap.adjust k.threads slot f })

/-- One thread. -/
def State.thread? (s : State) (h slot : Nat) : Option Thread := IMap.find? (s.headTabs h).threads slot

/-- A thread reset as TAB_START leaves it (R262). -/
def Thread.restart (t : TabSet) (k : Thread) : Thread :=
  { k with
    set := t, running := true, state := .waiting, regs := { pc := t.entry }, line := 0, charge := 0, fastCharge := 0
    wakes := [], fast := none, wasWaiting := false, pending := [], park := none, passBreak := false, afterHalt := false
    stepping := none, haltDue := [], yielded := [] }

/-- A thread stopped by TAB_STOP (R261): it keeps its slot and segments. -/
def Thread.stop (k : Thread) : Thread :=
  { k with
    running := false, state := .loaded, wakes := [], fast := none, pending := [], park := none, stepping := none, haltDue := []
    yielded := [] }

/-- The TAB_DEBUG commands whose records wait for a thread to halt (R271). -/
def Thread.debugRefs (k : Thread) : List CmdRef := k.haltDue ++ (k.stepping.map Prod.fst).toList

/-- The records of TAB_DEBUG commands that wait for a thread are formed where the thread is restarted, stopped or freed. DESIGN
CHOICE (assumption 62): with E_OK, as at a fault. -/
def State.endDebug (k : Thread) (s : State) : State := k.debugRefs.foldl (fun s r => s.completeOk r []) s

/-- The thread of a slot, kept for a group's rollback (R347). -/
def State.keepThread (h slot : Nat) (s : State) : State :=
  match s.thread? h slot with
  | none => s
  | some k => s.modTabs h (fun x => { x with kept := IMap.put x.kept slot k })

/-- A staged TAB_START or TAB_STOP applies (R261, R262); a thread that it starts is noted for its first wake (R263). -/
def State.applyTab (h slot : Nat) (g : TabStage) (s : State) : State :=
  match s.thread? h slot, g with
  | some k, .start gen t =>
    if k.gen = gen then
      ((s.endDebug k).modThread h slot (Thread.restart t)).modTabs h (fun x => { x with started := x.started ++ [slot] })
    else s
  | some k, .stop gen free =>
    if k.gen ≠ gen then s
    else if free then (s.endDebug k).modTabs h (fun x => { x with threads := IMap.del x.threads slot })
    else (s.endDebug k).modThread h slot Thread.stop
  | none, _ => s

/-- Count a frame statistic by core. -/
def bump (m : IMap Nat) (k : Nat) : IMap Nat := IMap.put m k (IMap.get m 0 k + 1)

/-- The wake for a line is issued to one thread (R263): skipped where it is faulted or halted. -/
def State.wakeThread (h slot y : Nat) (s : State) : State :=
  match s.thread? h slot with
  | none => s
  | some k =>
    if !k.running || !k.set.wakesFor y then s
    else match k.state with
      | .faulted => s.modHead h (fun x => { x with cur := { x.cur with tabSkipped := bump x.cur.tabSkipped (slotCore slot) } })
      | .halted => s.modHead h (fun x => { x with cur := { x.cur with tabSkipped := bump x.cur.tabSkipped (slotCore slot) } })
      | .loaded => s
      | _ =>
        if k.fast.isSome then s.modThread h slot (fun k => { k with
          wakes := k.wakes ++ [y], park := if k.park = some .wake then none else k.park })
        else s.modThread h slot (fun k => { k with state := .serving, line := y, charge := 0, wakes := [y] })

/-- The wakes for a line are issued to the threads of `slots`. -/
def State.issueWakes (h y : Nat) (slots : List Nat) (s : State) : State :=
  slots.foldl (fun s slot => s.wakeThread h slot y) s

/-- All thread slots of a head. -/
def State.tabSlots (s : State) (h : Nat) : List Nat := IMap.keys (s.headTabs h).threads

/-- Whether a wake for a line has been issued and has not ended (R263). -/
def State.wakeOpen (s : State) (h y : Nat) : Bool :=
  (s.headTabs h).threads.any (fun e => e.2.running && e.2.wakes.contains y)

/-- Whether a tab thread of a head is running (R291). -/
def State.tabsRun (s : State) (h : Nat) : Bool := (s.headTabs h).threads.any (fun e => e.2.running)

/-- A fret that fires makes the fast sources that name it pending, in threads of its owner (R264, R270): dropped and counted
where the thread is stopped, faulted or halted. -/
def State.fireFast (h f owner : Nat) (s : State) : State :=
  (s.headTabs h).threads.foldl (fun s e =>
    let (slot, k) := e
    let srcs := (if k.set.fret0 = f then [0] else []) ++ (if k.set.fret1 = f then [1] else [])
    if srcs.isEmpty || k.owner != owner then s
    else if k.running && (k.state = .waiting || k.state = .serving) then
      s.modThread h slot (fun k => { k with pending := k.pending ++ srcs.filter (fun i => !k.pending.contains i) })
    else srcs.foldl (fun s _ =>
      s.modHead h (fun x => { x with cur := { x.cur with tabDropped := bump x.cur.tabDropped (slotCore slot) } })) s) s

/-- The wake in progress of a thread ends (R239, R263, R266). -/
def Thread.endWake (k : Thread) : Thread :=
  { k with state := .waiting, wakes := [], lastCharge := min 0xFFFF k.charge, charge := 0 }

/-- The running threads of a head restart on its new cluster (R269); the others stay stopped with their debug state
lost, and raster writes for lines still to come are lost with the old cluster (R146). TAB_RESTARTED goes to the subscribed
owners. -/
def State.restartTabs (h n : Nat) (s : State) : State :=
  let ks := (s.headTabs h).threads
  let s := s.modTabs h (fun x => { x with writes := [], cores := [] })
  ks.foldl (fun s e =>
    let (slot, k) := e
    let s := s.endDebug k
    if k.running && k.state ≠ .faulted then
      let s := s.modThread h slot (fun k => { k.restart k.set with breaks := k.breaks, readyAt := 0 })
      s.notify 0x0705 (k.handle h slot) [word (k.handle h slot), word h, word (2 * n + slotCore slot)] (· = k.owner)
    else s.modThread h slot (fun k => { k.stop with regs := {}, breaks := [], readyAt := 0 })) s

/-- A thread faults (R245, R267): TAB_FAULT to its subscribed owner. -/
def State.tabFault (h slot cause : Nat) (s : State) : State :=
  match s.thread? h slot with
  | none => s
  | some k =>
    let s := s.modThread h slot (fun k => { k with
      state := .faulted, wakes := [], fast := none, park := none, pending := []
      lastCharge := if k.wakes.isEmpty then k.lastCharge else min 0xFFFF k.charge, regs := { k.regs with fault := cause } })
    s.notify 0x0701 (k.handle h slot)
      [word (k.handle h slot), word cause, k.regs.pc, word k.line, word k.regs.trap, s.now.truncate 32] (· = k.owner)

end Sys2Proof.Machine
end

