-- ==== Sys2Proof/Machine/Commit.lean ====
section
/-! DEFINITION. The display commands of group 0x08: timing (R275 to R281), routes (R306, R307), commits (R285 to R289),
frame lock (R26 to R28, R296), the Still policy (R290), and capture control (R297, R303). -/

namespace Sys2Proof.Machine

def eLinkTrain : Nat := 0x0802
def eCartoucheHead : Nat := 0x0803
def eHeadBudget : Nat := 0x0804

/-! ### Timing -/

/-- A timing change over the timing before it. -/
def TimingChange.after : TimingChange → Option Timing
  | .first t => some t
  | .change t => some t
  | .deadline t => some t
  | .off => none

/-- The timing a head has once every accepted HEAD_TIMING_SET has applied. -/
def Head.planned (x : Head) : Option Timing :=
  match x.pendTiming.getLast? with
  | none => x.timing
  | some e => e.2.after

/-- The timing of a HEAD_TIMING_SET payload (Table 11.1). -/
def timingOf (c : Cmd) : Timing where
  deadline := if c.u16 0x0A = 0 then 500 else c.u16 0x0A
  rate := c.u32 0x0C
  hA := c.u16 0x10
  hF := c.u16 0x12
  hS := c.u16 0x14
  hB := c.u16 0x16
  vA := c.u16 0x18
  vF := c.u16 0x1A
  vS := c.u16 0x1C
  vB := c.u16 0x1E
  hPos := bitOf (c.u8 0x09) 1
  vPos := bitOf (c.u8 0x09) 2

/-- The limits of R276 and R277 in the order of the fields: where each fails, its offset. DEDUCED (assumption 25):
a total is charged to the first field of its row of Table 11.2. -/
def Timing.limits (t : Timing) : List (Bool × Nat) :=
  let within (v lo hi : Nat) : Bool := decide (lo ≤ v) && decide (v ≤ hi)
  let even (v : Nat) : Bool := !t.dual || v % 2 = 0
  [(within t.deadline 100 5000, 0x0A),
    (within t.rate 20000000 1440000000 && decide (24 * t.hTotal * t.vTotal ≤ t.rate) &&
      decide (t.rate ≤ 144 * t.hTotal * t.vTotal), 0x0C),
    (within t.hA 64 5120 && even t.hA, 0x10),
    (within t.hF 8 2048 && decide (t.hTotal ≤ 8192) && decide (48 ≤ t.hTotal - t.hA) && even t.hF, 0x12), (within t.hS 8 2048 && even t.hS, 0x14),
    (within t.hB 8 2048 && even t.hB, 0x16),
    (within t.vA 48 2160, 0x18),
    (within t.vF 1 4095 && decide (t.vTotal ≤ 4095) && decide (18 ≤ t.vTotal - t.vA), 0x1A), (within t.vS 1 255, 0x1C), (within t.vB 1 4095, 0x1E)]

/-- Check a timing against its limits: E_RANGE at the first offending field (R276). -/
def Timing.check (t : Timing) : Except CErr Unit :=
  match t.limits.find? (fun e => !e.1) with
  | none => .ok ()
  | some e => .error { status := eRange, detail := e.2 }

/-- The planned timings of all heads, with one head's replaced. -/
def State.timingsWith (s : State) (h : Nat) (t : Timing) : List Timing :=
  t :: (List.range 8).filterMap (fun k => if k = h then none else (s.head k).planned)

/-- The device-wide limits of R278 with one head's timing replaced. -/
def State.needBudget (s : State) (h : Nat) (t : Timing) : Except CErr Unit := do
  need (decide (((s.timingsWith h t).map (fun t => t.hA * t.vA)).sum ≤ 33177600)) eHeadBudget 0x10
  need (decide (((s.timingsWith h t).map (·.rate)).sum ≤ 3200000000)) eHeadBudget 0x0C

/-- The cells a head carries or is about to carry. -/
def Head.allCells (x : Head) : List (Nat × Cell) :=
  x.cells ++ x.cellWaits.filterMap (fun w => w.set.map (fun k => (w.cell, k)))

/-- Whether two timings differ in nothing but their deadline (R279). -/
def Timing.sameBut (a b : Timing) : Bool := { a with deadline := 0 } = { b with deadline := 0 }

/-- The lead a first timing starts with (R206). -/
def firstLead (t : Timing) : LeadState :=
  let hi := min 512 (t.vTotal - 16)
  { lead := min 64 hi, min := 16, max := hi }

/-- The heads of a route. -/
def Route.headList (r : Route) : List Nat := r.heads.filterMap id

/-- The route a port has once those that wait are in place. -/
def Port.planned (p : Port) : Option Route := (p.pend.getLast?.map (·.route)).or p.route

/-- Whether a port sends a stream: its link is trained and up, and a head of its route scans (R279, R308). -/
def State.portSends (s : State) (p : Nat) : Bool :=
  let q := s.portAt p
  q.sending && (match q.route with
    | none => false
    | some r => r.headList.any (fun h => (s.head h).state = .composing || (s.head h).state = .still))

/-- A port that has no route sends nothing. -/
def Port.unrouted (p : Port) : Port :=
  { p with route := none, trained := false, sending := false, training := false, gotLanes := 0, gotRate := 0 }

/-- The first of the routes that wait at a port begins (R306): its training, once the frames of its heads have ended; a route
without heads is in place at once, and its record is written. -/
def State.nextRoute (port : Nat) : Nat → State → State
  | 0, s => s
  | fuel + 1, s =>
    match (s.portAt port).pend with
    | [] => s
    | w :: rest =>
      if (s.portAt port).training || !w.heads.isEmpty then s
      else if w.route.headList.isEmpty then
        let lost := ((s.portAt port).route.map Route.headList).getD []
        let s := lost.foldl (fun s h => s.modHead h (fun x => { x with port := none })) s
        let s := s.modPort port (fun p => { p.unrouted with pend := rest })
        State.nextRoute port fuel (match w.ref with | none => s | some r => s.completeOk r [])
      else s.modPort port (fun p => { p with training := true, sending := false })

/-- A frame of a head has ended, or the head scans none: the routes that waited for it are trained (R306). -/
def State.frameEnded (h : Nat) (s : State) : State :=
  (IMap.keys s.disp.ports).foldl (fun s p =>
    (s.modPort p (fun q => { q with pend := q.pend.map (fun w => { w with heads := w.heads.filter (· != h) }) })).nextRoute p
      ((s.portAt p).pend.length)) s

/-- A head takes its first timing (R195, R198, R206, R279, R290, R309, R328, R335, R342, R361). Where the Spare cluster that
the command found has gone in the meantime, the head waits for the next one as for a takeover. -/
def State.firstTiming (h : Nat) (t : Timing) (recs : List CmdRef) (s : State) : State :=
  let s : State := match s.pickSpare h with
    | none => s.addTakeover ⟨h, none, none, s.now, none⟩
    | some n => s.assignCluster h n 0
  s.modHead h (fun x => { x with
    timing := some t, timingRecs := x.timingRecs ++ recs, state := .starting, stopped := false, stopDue := false
    epoch := 0, frames := 0, line := t.vA, due := [], lastDue := none, frameTime := 0, post := [], postNext := none
    depth := 0, dmode := 1, ditherNext := none, phase := 0, phaseHold := true, newly := false, phaseReset := false
    lead := { firstLead t with pend := x.lead.pend }, comp := { shownMargin := x.comp.shownMargin }, cur := {}, last := {}, ended := none
    still := false, stillOn := true, stillFrames := 4, vrrMin := t.refresh, wakeAt := none, lowered := false, porch := 0
    repeatFirst := none, repeatLines := 0, repeatPixels := 0, lastRepeatLines := 0, underruns := 0, lastPixel := 0
    capSkipped := 0, capTruncated := 0, fallbackColour := 0, priority := 128, level := 0
    lock := { x.lock with locked := false, lost := false }
    regions := x.regions.map (fun e => (e.1, { e.2 with last := 0 })) })

/-- A head whose scan-out stops for good, for a mode or for a new timing: its port sends idle, as no head of its route that
scans is left, and the composer stops. -/
def State.haltHead (h : Nat) (s : State) : State :=
  (s.frameEnded h).modHead h (fun x => { x with
    state := .off, due := [], lastDue := none, still := false, wakeAt := none, lowered := false, porch := 0
    comp := { x.comp with running := false, busy := false } })

/-- A head stops scanning for a mode, its timing kept, and its capture ends with the frame in progress (R415, R419). -/
def State.stopHead (h : Nat) (s : State) : State :=
  ((s.haltHead h).modHead h (fun x => { x with
    stopped := true, stopDue := false
    capture := match x.capture with
      | some k => if k.frame.isNone then none else some { k with stop := some (k.stop.getD []) }
      | none => none })).sleepWhenStopped

/-- A head is switched off (R279, R41): the cluster that serves it returns to Spare, its planes stay, and its capture
stops. A takeover that waited for its cluster chooses again. -/
def State.switchOff (h : Nat) (r : Option CmdRef) (s : State) : State :=
  let s := match (s.head h).cluster with
    | none => s
    | some n =>
      if s.served h then
        ((s.modCluster n (fun k => { k with head := none, missed := 0 })).setService n .spare none 0).giveSpare n
      else if (s.cluster n).head = some h then s.modCluster n (fun k => { k with head := none })
      else s
  let again := s.disp.takeovers.filter (fun t => t.donor = some h)
  let s := (s.modDisp (fun d => { d with
    takeovers := d.takeovers.filter (fun t => t.head != h && t.donor != some h) })).haltHead h
  let s := s.modHead h (fun x => { x with
    cluster := none, timing := none, held := false, orphaned := false, level := 0
    capture := match x.capture with
      | some k => if k.frame.isNone then none else some { k with stop := some (k.stop.getD []) }
      | none => none })
  let s := again.foldl (fun s t => s.chooseAgain t) s
  match r with
  | none => s
  | some r => s.completeOk r []

/-- One accepted timing change applies at the end of the frame's last active line (R279). -/
def State.applyTiming (h : Nat) (e : Option CmdRef × TimingChange) (s : State) : State :=
  match e.2 with
  | .off => s.switchOff h e.1
  | .first t => s.firstTiming h t e.1.toList
  | .deadline t => s.modHead h (fun x => { x with timing := some t, timingRecs := x.timingRecs ++ e.1.toList })
  | .change t =>
    let s := s.haltHead h
    s.modHead h (fun x => { x with
      timing := some t, state := if x.stopped then .off else .changing, timingRecs := x.timingRecs ++ e.1.toList
      line := t.vA, lastPixel := 0, phase := 0, phaseHold := true
      capture := x.capture.map (fun k => { k with rect := k.rect.cut t.hA t.vA }) })

/-- Whether a timing change is of the deadline alone, which waits for a compose boundary (R279). -/
def TimingChange.deadlineOnly : TimingChange → Bool
  | .deadline _ => true
  | _ => false

/-- The accepted timing changes that apply when a frame's active lines end: all up to the last that is not of the deadline
alone. -/
def Head.frameChanges (x : Head) : List (Option CmdRef × TimingChange) :=
  (x.pendTiming.reverse.dropWhile (fun e => e.2.deadlineOnly)).reverse

/-- The timing changes that apply at the end of a frame do so. -/
def State.applyTimings (h : Nat) (s : State) : State :=
  let es := (s.head h).frameChanges
  es.foldl (fun s e => s.applyTiming h e) (s.modHead h (fun x => { x with pendTiming := x.pendTiming.drop es.length }))

/-- A timing change is accepted: it waits for the end of the frame, or applies at once on a head that does not scan. -/
def State.acceptTiming (h : Nat) (e : Option CmdRef × TimingChange) (s : State) : State :=
  let s := s.modHead h (fun x => { x with pendTiming := x.pendTiming ++ [e] })
  let x := s.head h
  if x.state = .composing ∨ x.state = .still then s.endStill h else s.applyTimings h

/-- HEAD_TIMING_SET (R275 to R281). -/
def headTimingSetBody (c : Cmd) (r : CmdRef) (s : State) : CmdRes := do
  let fl := c.u8 0x09
  needFlags fl 7 0x09
  let off := bitOf fl 0
  c.reserved (if off then [(0x08, 2)] else [(0x08, 24)])
    [(0x0A, 2), (0x0C, 4), (0x10, 2), (0x12, 2), (0x14, 2), (0x16, 2), (0x18, 2), (0x1A, 2), (0x1C, 2), (0x1E, 2)]
  let h := c.u8 0x08
  need (decide (h ≤ 7)) eRange 0x08
  let x := s.head h
  if off then
    need x.allCells.isEmpty eCartoucheHead 0x09
    match x.planned with
    | none => okDone s []
    | some _ =>
      .ok (s.acceptTiming h (some r, .off), .later)
  else
    let t := timingOf c
    t.check
    s.needBudget h t
    need (x.planned.isSome || (s.pickSpare h).isSome) eNoRes
    need (x.allCells.all (fun e => decide (e.2.rect.x + e.2.rect.w ≤ t.hA))) eCartoucheHead 0x10
    need (x.allCells.all (fun e => e.2.rect.inside t.hA t.vA)) eCartoucheHead 0x18
    let lo := if x.planned.isSome then min x.boundMin (t.vTotal - 16) else 16
    needAdmitted (s.committedRefusal h t lo true)
    need (s.routesFit (fun k => if k = h then t.rate else s.fitRate k) s.fitDepth) ePortFit 0x0C
    match x.planned with
    | none =>
      .ok (s.acceptTiming h (some r, .first t), .later)
    | some old =>
      let k := if old.sameBut t then TimingChange.deadline t else .change t
      .ok (s.acceptTiming h (some r, k), .later)

/-- Set the clip of everything a smaller active area cuts (R57, R206, R298): viewports, capture, lead bounds. -/
def Head.cutTo (x : Head) (t : Timing) : Head :=
  let hi := t.vTotal - 16
  let above := decide (hi < x.lead.max)
  { x with
    viewports := x.viewports.filterMap (fun e =>
      let r := e.2.cut t.hA t.vA
      if r.w = 0 ∨ r.h = 0 then none else some (e.1, r))
    lead := if above then { x.lead with
      max := hi, min := min x.lead.min hi, lead := min x.lead.lead hi } else x.lead }

/-- PIXEL_PLL_LOCK (R279): the scan engine starts at line v_active. -/
def State.pllLock (h : Nat) (s : State) : State :=
  let x := s.head h
  match x.timing with
  | none => s
  | some t =>
    if x.state = .starting ∨ x.state = .changing then
      s.modHead h (fun x => { x with
        state := .composing, line := t.vA, lineAt := s.now, frameAt := s.now, due := [], lastDue := none, porch := 0
        comp := { x.comp with running := false, busy := false, frame := x.frames, kept := none, zeroIssued := false } })
    else s

def execPixelPllLock (dt h : Nat) (s : State) : Host.Outcome State Fault Refusal := .next ((s.tick dt).pllLock h)

/-! ### Routes -/

/-- The lane counts and rates a mode supports on a port (Table 11.8, R305). -/
def routeSupported (port mode lanes rate : Nat) : Except CErr Unit := do
  if 4 ≤ port then
    need (mode = 0 || mode = 4) eRange 0x09
    need (mode = 0 || (decide (1 ≤ rate) && decide (rate ≤ 5))) eRange 0x0B
  else
    need (decide (mode ≤ 3)) eRange 0x09
    need (mode = 0 || lanes = 1 || lanes = 2 || lanes = 4) eRange 0x0A
    need (mode = 0 || rate = 6 || rate = 10 || rate = 20 || rate = 30 ||
      (mode = 3 && (rate = 8 || rate = 9 || rate = 12 || rate = 16))) eRange 0x0B

/-- A route is to follow what a port plans (R306, R307): each waits for the one before it and for the ends of its heads'
frames. -/
def State.planRoute (port : Nat) (r : CmdRef) (new : Route) (lost : List Nat) (s : State) : State :=
  let s := lost.foldl (fun s h => s.modHead h (fun x => { x with port := none })) s
  let s := s.modPort port (fun p => { p with pend := p.pend ++ [⟨some r, new, new.headList⟩] })
  s.nextRoute port ((s.portAt port).pend.length)

/-- The route that a PORT_ROUTE_SET names (R306). -/
def routeOf (c : Cmd) : Route :=
  let mode := c.u8 0x09
  let hd (v : Nat) : Option Nat := if v ≤ 7 then some v else none
  ⟨mode, if c.u8 0x08 < 4 then c.u8 0x0A else 1, c.u8 0x0B,
    if mode = 0 then [] else if mode = 2 then [hd (c.u8 0x0C), hd (c.u8 0x0D)] else [hd (c.u8 0x0C)]⟩

/-- The heads that a port's planned route has and a new one has not. -/
def State.lostHeads (s : State) (port : Nat) (new : Route) : List Nat :=
  (((s.portAt port).planned.map Route.headList).getD []).filter (fun h => !new.headList.contains h)

/-- PORT_ROUTE_SET (R306, R307). -/
def portRouteSetBody (c : Cmd) (r : CmdRef) (s : State) : CmdRes := do
  let port := c.u8 0x08
  let mode := c.u8 0x09
  need (decide (port ≤ 7)) eRange 0x08
  need (mode = 0 || (if port < 4 then decide (mode ≤ 3) else mode = 4)) eRange 0x09
  c.reserved ([(0x08, 2), (0x0B, 3)] ++ (if port < 4 then [(0x0A, 1)] else []))
  let new := routeOf c
  let h0 := c.u8 0x0C
  let h1 := c.u8 0x0D
  routeSupported port mode new.lanes new.rate
  need (decide (h0 ≤ 7) || h0 = 0xFF) eRange 0x0C
  need (h1 = 0xFF || (mode = 2 && decide (h1 ≤ 7) && h1 ≠ h0)) eRange 0x0D
  need (new.headList.all (fun h => (s.head h).timed)) eState
  need (new.headList.all (fun h => !s.disp.ports.any (fun e => e.1 ≠ port &&
    ((e.2.planned.map (fun q => q.headList.contains h)).getD false)))) eBusy
  need (new.fits (new.headList.map (fun h => s.fitRate h * 3 * s.fitDepth h))) ePortFit 0x0C
  need ((s.lostHeads port new).all (fun h => (s.head h).allCells.isEmpty)) eCartoucheHead 0x09
  .ok (s.planRoute port r new (s.lostHeads port new), .later)

/-! ### Commits -/

/-- Lines from the beam's line to the next entry of line `V_total` less the lead, and the instant of that entry. -/
def State.nextNominal (s : State) (h : Nat) : Meridian :=
  let x := s.head h
  match x.timing with
  | none => s.now
  | some t =>
    let n := (x.dueLine + t.vTotal - x.line - 1) % max 1 t.vTotal + 1
    x.lineAt + BitVec.ofNat 64 (t.lineTicks n)

/-- The first of the instants `at_`, `at_ + step`, and so on that is not before another. -/
def firstFrom (at_ : Meridian) (step : Nat) (t : Meridian) : Meridian :=
  if meridianDiff at_ t < 0 then at_ + BitVec.ofNat 64 (ceilDiv ((t - at_).toNat) (max 1 step) * step) else at_

/-- The nominal time of a head's next compose boundary (R286): that of the first one due, or of the next entry of line
`V_total` less the lead. A head that has left Still state takes the first such entry from its wake on, and repeats the last line
of its front porch no longer than that takes (R294); a head at level 2 passes a frame over (R356). -/
def State.nextBoundary (s : State) (h : Nat) : Meridian :=
  let x := s.head h
  match x.due, x.timing with
  | d :: _, _ => d.2
  | [], none => s.now
  | [], some t =>
    let at_ := s.nextNominal h
    match x.wakeAt with
    | some w =>
      let last := t.vA + t.vF - 1
      let repeats := decide (0 < x.porch) && !(decide (x.line < x.dueLine) && decide (x.dueLine ≤ last))
      firstFrom at_ (t.lineTicks (if repeats then 1 else t.vTotal)) w
    | none => if x.level = 2 && x.parity && !x.held then at_ + BitVec.ofNat 64 (t.lineTicks t.vTotal) else at_

/-- Whether a head's requested boundary has a deadline that has passed (R286): `notBefore` moves the boundary on. The commit
that ends a head's Still state is never late there (R294). -/
def State.misses (s : State) (h : Nat) (notBefore : Option Meridian) : Bool :=
  let x := s.head h
  match x.timing with
  | none => false
  | some t =>
    if x.still || x.stopped || s.power.mode = .tell || !(x.state = .composing || x.state = .still) then false
    else
      let frame := t.lineTicks t.vTotal * (if x.level = 2 && !x.held then 2 else 1)
      let at_ := match notBefore with
        | none => s.nextBoundary h
        | some nb => firstFrom (s.nextBoundary h) frame nb
      decide (meridianDiff at_ s.now < (ticksOfUs t.deadline : Int))

/-- The commit that a COMMIT_SUBMIT makes of the issuer's staged state (R285, R286). -/
def State.commitOf (s : State) (c : Cmd) (r : CmdRef) (heads : List Nat) (nb : Option Meridian) : Commit :=
  let late := decide (1 < heads.length) && heads.any (fun h => s.misses h nb)
  { ref := r, at_ := s.now, notBefore := nb
    members := heads.map (fun h => ({ head := h, stage := (s.head h).stage c.tenant } : Member))
    late := late, wait := if late then heads else [] }

/-- A commit is accepted: its heads' staged state leaves the issuer, and a group of heads arms (R285, R347). -/
def State.acceptCommit (c : Cmd) (heads : List Nat) (k : Commit) (s : State) : State :=
  let s := heads.foldl (fun s h => (s.modHead h (fun x => { x with stages := IMap.del x.stages c.tenant })).endStill h) s
  let group := decide (1 < heads.length)
  s.modDisp (fun d => { d with
    commits := d.commits ++ [k]
    arms := if group then d.liveArms ++ [{ id := d.armNext, kind := .group k.ref, applyAt := s.now }] else d.arms
    armNext := if group then d.armNext + 1 else d.armNext })

/-- COMMIT_SUBMIT (R285 to R289, R220): the issuer's staged state moves into an accepted commit. -/
def commitSubmitBody (c : Cmd) (r : CmdRef) (s : State) : CmdRes := do
  let fl := c.u8 0x09
  needFlags fl 1 0x09
  c.reserved ([(0x08, 2)] ++ (if bitOf fl 0 then [(0x10, 8)] else [])) [(0x10, 8)]
  let heads := maskHeads (c.u8 0x08)
  let nb : Option Meridian := if bitOf fl 0 then some (BitVec.ofNat 64 (c.u64 0x10)) else none
  need (!heads.isEmpty) eRange 0x08
  need (match nb with | none => true | some t => decide (meridianDiff t s.now ≤ 61440000000)) eRange 0x10
  need (heads.all (fun h => (s.head h).timed && (s.head h).planned.isSome)) eState
  let views := heads.filterMap (fun h => (s.head h).timing.map (fun t =>
    (h, s.commitView h c.tenant, t, (s.head h).boundMin)))
  needAdmitted (s.refusal views (heads.headD 0))
  .ok (s.acceptCommit c heads (s.commitOf c r heads nb), .later)

/-! ### Still policy and frame lock -/

/-- STILL_POLICY_SET (R290). -/
def stillPolicySetBody (c : Cmd) (r : CmdRef) (s : State) : CmdRes := do
  c.reserved [(0x08, 4)]
  let h := c.u8 0x08
  need (decide (h ≤ 7)) eRange 0x08
  need (decide (c.u8 0x09 ≤ 1)) eRange 0x09
  need (decide (2 ≤ c.u8 0x0A)) eRange 0x0A
  need (decide (1 ≤ c.u8 0x0B)) eRange 0x0B
  match (s.head h).timing with
  | none => .error { status := eState }
  | some t =>
    need (decide (c.u8 0x0B ≤ t.refresh)) eRange 0x0B
    .ok ((s.modHead h (fun x => { x with
      pendStill := x.pendStill ++ [(r, decide (c.u8 0x09 = 1), c.u8 0x0A, c.u8 0x0B)] })).endStill h, .later)

/-- Whether a role makes its head the part's reference head (R296): source, follow and time. -/
def refRole (role : Nat) : Bool := decide (1 ≤ role) && decide (role ≤ 3)

/-- The role a head has once every accepted FRAMELOCK_SET has taken effect. -/
def LockState.planned (k : LockState) : Nat := (k.pend.getLast?.map (fun p => p.2.1)).getD k.role

/-- The reference head of the part's frame lock as the processed commands leave it (R26): the head that is to become it, or
else the one that is. -/
def State.refHead (s : State) : Option Nat :=
  ((List.range 8).find? (fun h => !(s.head h).lock.pend.isEmpty && refRole (s.head h).lock.planned)).or
    ((List.range 8).find? (fun h => refRole (s.head h).lock.planned))

/-- Whether a frame period lies within 0.5 % of another or of half of it (R28). -/
def periodsAgree (mine source : Nat) : Bool :=
  let near (a b : Nat) : Bool := decide (200 * a ≤ 201 * b) && decide (199 * b ≤ 200 * a)
  near mine source || near (2 * mine) source

/-- FRAMELOCK_SET (R26 to R28, R296). The source's period is that of the last FSYNC edges, and for role 4 that of the
reference head; where none is known no period disagrees. -/
def framelockSetBody (c : Cmd) (r : CmdRef) (s : State) : CmdRes := do
  let role := c.u8 0x09
  need (decide (role ≤ 4)) eRange 0x09
  c.reserved ([(0x08, 2)] ++ (if role = 3 then [(0x10, 8)] else [])) [(0x10, 8)]
  let h := c.u8 0x08
  need (decide (h ≤ 7)) eRange 0x08
  need (role ≠ 4 || (s.refHead.isSome && s.refHead ≠ some h)) eRange 0x09
  match (s.head h).timing with
  | none => .error { status := eState }
  | some t =>
    let mine := t.lineTicks t.vTotal
    let source : Option Nat :=
      if role = 2 then s.disp.fsyncPeriod
      else if role = 4 then s.refHead.bind (fun k => (s.head k).timing.map (fun t => t.lineTicks t.vTotal))
      else none
    need (match source with | none => true | some p => periodsAgree mine p) eRange 0x09
    .ok ((s.modHead h (fun x => { x with lock := { x.lock with
      pend := x.lock.pend ++ [(r, role, BitVec.ofNat 64 (c.u64 0x10))] } })).endStill h, .later)

/-! ### Capture control -/

/-- Pages of one captured frame (R299). -/
def capturePages (r : Rect) : Nat := ceilDiv (r.w * r.h * 4) 4096

/-- CAPTURE_START (R297). -/
def captureStartBody (c : Cmd) (_ : CmdRef) (s : State) : CmdRes := do
  c.reserved [(0x08, 2), (0x0C, 28)]
  let h := c.u8 0x08
  let rect := rectOf c 0x0C
  let pages := c.u32 0x14
  let ring := c.u64 0x18
  let cons := c.u64 0x20
  need (decide (h ≤ 7)) eRange 0x08
  let x := s.head h
  need (decide (1 ≤ c.u8 0x09)) eRange 0x09
  need (decide (1 ≤ rect.w)) eRange 0x10
  need (decide (1 ≤ rect.h)) eRange 0x12
  need (decide (2 ≤ pages) && decide (pages ≤ 65536)) eRange 0x14
  need (ring % 4096 = 0) eAlign 0x18
  need (cons % 4 = 0) eAlign 0x20
  need x.timed eState
  rect.need x.hA x.vA 0x0C
  need x.capture.isNone eBusy
  need (decide (c.tenant ≤ 1) || (match IMap.find? x.viewports c.tenant with
    | none => false
    | some v => decide (v.x ≤ rect.x) && decide (v.y ≤ rect.y) && decide (rect.x + rect.w ≤ v.x + v.w) &&
        decide (rect.y + rect.h ≤ v.y + v.h))) eDenied
  need (decide (capturePages rect ≤ pages)) eNoRes
  okDone ((s.modTenant c.tenant (fun x => x.subscribe 0x0804 h)).modHead h (fun x => { x with
    capture := some { owner := c.tenant, decimate := c.u8 0x09, rect := rect, pages := pages, ring := ring, cons := cons } })) []

/-- CAPTURE_STOP (R303): at once where no frame is in progress. -/
def captureStopBody (c : Cmd) (r : CmdRef) (s : State) : CmdRes := do
  c.reserved [(0x08, 1)]
  let h := c.u8 0x08
  need (decide (h ≤ 7)) eRange 0x08
  match (s.head h).capture with
  | none => .error { status := eNotOwner, detail := 0x08 }
  | some k =>
    need (k.owner = c.tenant) eNotOwner 0x08
    match k.frame with
    | none => okDone (s.modHead h (fun x => { x with capture := none })) []
    | some _ =>
      .ok (s.modHead h (fun x => { x with capture := x.capture.map (fun k => { k with stop := some (k.stop.getD [] ++ [r]) }) }), .later)

end Sys2Proof.Machine
end

