-- ==== Sys2Proof/Machine/Intc.lean ====
section
/-! DEFINITION. The interrupt controller (R459 to R465). -/

namespace Sys2Proof.Machine

/-- One interrupt source. -/
def State.src (s : State) (i : Nat) : IntSrc := IMap.get s.intc.src {} i

/-- Change one interrupt source. -/
def State.modSrc (s : State) (i : Nat) (f : IntSrc → IntSrc) : State :=
  { s with intc := { s.intc with src := IMap.put s.intc.src i (f (s.src i)) } }

/-- One pin. -/
def State.pin (s : State) (p : Nat) : Pin := IMap.get s.pins.pin {} p

/-- Change one pin. -/
def State.modPin (s : State) (p : Nat) (f : Pin → Pin) : State :=
  { s with pins := { s.pins with pin := IMap.put s.pins.pin p (f (s.pin p)) } }

/-- The trigger in force at a source: level or edge (R459). -/
def State.isLevel (s : State) (i : Nat) : Bool :=
  if 320 ≤ i ∧ i < 480 then decide (4 ≤ (s.pin (i - 320)).irqMode) else Config.levelSource i

/-- Whether a source is pending (R461, R462). -/
def State.srcPending (s : State) (i : Nat) : Bool :=
  let x := s.src i
  if s.isLevel i then x.asserted && !x.inService else decide (0 < x.count)

/-- Whether the controller's clock is stopped (R463): in Keep and Listen. -/
def State.intcStopped (s : State) : Bool := s.power.mode = .keep || s.power.mode = .listen

/-- An edge or a level reaches a source (R461 to R463). -/
def State.sourceEvent (i : Nat) (asserted : Bool) (s : State) : State :=
  if 512 ≤ i then s
  else if s.isLevel i then s.modSrc i (fun x => { x with asserted := asserted })
  else if !asserted then s
  else if s.intcStopped then s.modSrc i (fun x => { x with caught := true })
  else if (s.src i).count < 255 then (s.modSrc i (fun x => { x with count := x.count + 1 })).hwMark (.srcEdge i)
  else ((s.modSrc i (fun x => { x with overflow := true })).hwMark (.srcOverflow i)).hwMark (.srcEdge i)

/-- A clear of an edge source's count (R461): with a hardware edge in the same PCLK cycle the count ends at 1 (R10). -/
def State.clearCount (i : Nat) (edges : List Nat) (s : State) : State :=
  s.modSrc i (fun x => { x with count := if edges.contains i || s.hwHas (.srcEdge i) then 1 else 0 })

/-- The clocks run again: the asynchronous latch delivers one edge for each source that caught any (R463). -/
def State.deliverCaught (s : State) : State :=
  let f (x : IntSrc) : IntSrc :=
    if x.caught then
      { x with caught := false, latched := true, count := min 255 (x.count + 1), overflow := x.overflow || x.count = 255 }
    else x
  let caught := s.intc.src.filter (fun e => e.2.caught)
  let s := { s with intc := { s.intc with src := s.intc.src.map (fun e => (e.1, f e.2)) } }
  caught.foldl (fun s e =>
    let s := s.hwMark (.srcLatched e.1)
    if e.2.count = 255 then s.hwMark (.srcOverflow e.1) else s) s

/-- A source starts afresh under a new trigger (R459). -/
def State.clearSource (i : Nat) (s : State) : State :=
  s.modSrc i (fun x => { x with count := 0, overflow := false, latched := false, inService := false, asserted := false })

/-- The sources of word `k` whose bits a word has. -/
def wordSources (k : Nat) (v : Word) : List Nat :=
  ((List.range 32).filter (fun i => v.getLsbD i)).map (fun i => 32 * k + i)

/-- The class and level order in which the controller chooses (R460). -/
def IntSrc.rank (x : IntSrc) : Nat := (if x.fast then 16 else 0) + x.level

/-- An entry is taken for a source (R461, R462, R464). -/
def State.takeSource (i : Nat) (s : State) : State :=
  let x := s.src i
  let s := if s.isLevel i then s.modSrc i (fun x => { x with inService := true })
    else s.modSrc i (fun x => { x with count := x.count - 1 })
  let g := i / 16
  let s := if !x.fast && decide (0 < IMap.get s.intc.holdoff 0 g) then
      { s with intc := { s.intc with holding := if s.intc.holding.contains g then s.intc.holding else g :: s.intc.holding } }
    else s
  if x.fast then { s with intc := { s.intc with fast := some i } }
  else { s with intc := { s.intc with normal := some i } }

/-- The CP's RETI ends the entry in progress (R462): the fast one first. -/
def State.endEntry (s : State) : State :=
  let free (i : Nat) (s : State) : State := s.modSrc i (fun x => { x with inService := false })
  match s.intc.fast with
  | some i => let s := free i s; { s with intc := { s.intc with fast := none } }
  | none => match s.intc.normal with
    | some i => let s := free i s; { s with intc := { s.intc with normal := none } }
    | none => s

/-! ### Meanings -/

/-- INTERRUPT_SOURCE_EVENT (R461). -/
def execInterruptSourceEvent (dt i : Nat) (asserted : Bool) (s : State) : Host.Outcome State Fault Refusal :=
  .next ((s.tick dt).sourceEvent i asserted)

/-- HOLDOFF_EXPIRY (R464): the timer stops while Meridian is stopped. -/
def execHoldoffExpiry (dt g : Nat) (s : State) : Host.Outcome State Fault Refusal :=
  let s := s.tick dt
  .next (if s.time.running then { s with intc := { s.intc with holding := s.intc.holding.filter (· != g) } } else s)

/-- INTC_PENDING_SET (R461): level sources ignore it. -/
def execIntcPendingSet (dt k : Nat) (v : Word) (s : State) : Host.Outcome State Fault Refusal :=
  let s := s.tick dt
  .next (((wordSources k v).filter (fun i => !s.isLevel i)).foldl
    (fun s i => s.modSrc i (fun x => { x with count := min 255 (x.count + 1) })) s)

/-- INTC_PENDING_CLR (R461, R10): `edges` are sources with a hardware edge in the same PCLK cycle. -/
def execIntcPendingClr (dt k : Nat) (v : Word) (edges : List Nat) (s : State) : Host.Outcome State Fault Refusal :=
  let s := s.tick dt
  .next (((wordSources k v).filter (fun i => !s.isLevel i)).foldl
    (fun s i => s.clearCount i edges) s)

/-- INTC_ENABLE_SET (R11). -/
def execIntcEnableSet (dt k : Nat) (v : Word) (s : State) : Host.Outcome State Fault Refusal :=
  .next ((wordSources k v).foldl (fun s i => s.modSrc i (fun x => { x with enabled := true })) (s.tick dt))

/-- INTC_ENABLE_CLR (R11). -/
def execIntcEnableClr (dt k : Nat) (v : Word) (s : State) : Host.Outcome State Fault Refusal :=
  .next ((wordSources k v).foldl (fun s i => s.modSrc i (fun x => { x with enabled := false })) (s.tick dt))

end Sys2Proof.Machine
end

