-- ==== Sys2Proof/Machine/PinOps.lean ====
section
/-! DEFINITION. Pins: functions and hand-over (R487, R488), masked writes (R492), configuration, serial transfers, pin
events and locks (R489 to R498). -/

namespace Sys2Proof.Machine

/-- One serial or clock block. -/
def State.block (s : State) (k : Nat) : Block := IMap.get s.pins.block {} k

/-- Change one block. -/
def State.modBlock (s : State) (k : Nat) (f : Block → Block) : State :=
  { s with pins := { s.pins with block := IMap.put s.pins.block k (f (s.block k)) } }

/-- The pins that a block owns (Table 19.3). -/
def blockPins (k : Nat) : List Nat :=
  if k ≤ 3 then [2 * k, 2 * k + 1]
  else if k ≤ 5 then (List.range 7).map (fun i => 8 + 7 * (k - 4) + i)
  else if k ≤ 7 then (List.range 4).map (fun i => 22 + 4 * (k - 6) + i)
  else if k ≤ 9 then [30 + (k - 8)]
  else []

/-- The enabled block that a pin belongs to. -/
def State.pinBlock (s : State) (p : Nat) : Option Nat :=
  (List.range 10).find? (fun k => (s.block k).enabled && (blockPins k).contains p)

/-- Whether a compare channel other than `me` names a pin for its action (R444). -/
def State.compareOnPin (s : State) (p : Nat) (me : Option Nat) : Bool :=
  s.timers.compare.any (fun e => e.2.owner.isSome && (e.2.pin.map Prod.snd == some p) && some e.1 != me)

/-- Whether a PWM unit other than `me` drives a pin (R452). -/
def State.pwmOnPin (s : State) (p : Nat) (me : Option Nat) : Bool :=
  s.timers.pwm.any (fun e => e.2.owner.isSome && e.2.cur.pin == p && some e.1 != me)

/-- Whether a PWM unit other than `me` drives a pin or is to drive it from its next wrap or tick on (R452, R453). -/
def State.pwmNames (s : State) (p : Nat) (me : Option Nat) : Bool :=
  s.pwmOnPin p me || s.timers.pwm.any (fun e => e.2.owner.isSome && some e.1 != me && (match e.2.next with
    | .set q => q.pin == p
    | _ => false))

/-- The function that holds a pin by priority (Table 19.2). -/
def State.bestFn (s : State) (p : Nat) : PinFn :=
  if (s.pin p).safety then .safety
  else match s.pinBlock p with
    | some k => .block k
    | none => if s.compareOnPin p none || s.pwmOnPin p none then .timer else .gpio

/-- A pin passes to the function that should hold it (R488): the old driver is released at once, and PIN_HANDOVER_END
gives the pin to the newest function. -/
def State.settlePin (s : State) (p : Nat) : State :=
  let f := s.bestFn p
  let x := s.pin p
  if x.handover.getD x.holder = f then s else s.modPin p (fun x => { x with handover := some f })

/-- What a pin drives: nothing of its own during a hand-over, while it floats (R499), is harmless (R500) or belongs to a boundary
test (R519). Of the blocks, an idle UART's TX is known to drive 1 (Table 19.4). -/
def State.drives (s : State) (p : Nat) : Option Bool :=
  let x := s.pin p
  if s.pins.harmless || s.boot.extest || (s.pins.floated && x.owner ≠ .peg) || s.pins.vddioOff.contains (p / 32) || x.handover.isSome then
    none
  else match x.holder with
    | .safety => some false
    | .block k => if (k = 6 ∨ k = 7) ∧ p = 22 + 4 * (k - 6) ∧ (s.block k).queue.isEmpty = true then some true else none
    | .timer => some x.timerLevel
    | .gpio => if x.oe then some x.out else none

/-- A masked write of a half bank (R492): pin `i` of the half changes where its mask bit is set. Locked pins keep their
latches (R498). -/
def State.maskedWrite (bank : Nat) (reg : GpioReg) (high : Bool) (v : Word) (s : State) : State :=
  (List.range 16).foldl (fun s i =>
    let p := 32 * bank + (if high then 16 else 0) + i
    if v.getLsbD (16 + i) && !(s.pin p).locked then
      s.modPin p (fun x => match reg with
        | .out => { x with out := v.getLsbD i }
        | .oe => { x with oe := v.getLsbD i })
    else s) s

/-- A word with the mask bits kept for which `keep` holds (R84, R493). -/
def filterMask (bank : Nat) (high : Bool) (v : Word) (keep : Nat → Bool) : Word :=
  word (v.toNat % 0x10000 + ((List.range 16).map (fun i =>
    if v.getLsbD (16 + i) && keep (32 * bank + (if high then 16 else 0) + i) then 2 ^ (16 + i) else 0)).sum)

/-- Whether a tenant sets a pin: it owns it, or it is the platform tenant, which sets the Peg core's pins on its behalf (R489). -/
def State.setsPin (s : State) (t p : Nat) : Bool := (s.pin p).owner = .tenant t || (t = 0 && (s.pin p).owner = .peg)

/-- Whether a tenant may write a pin's latches: it sets the pin, and the pin is not locked. -/
def State.mayWritePin (s : State) (t p : Nat) : Bool := s.setsPin t p && !(s.pin p).locked

/-- A pin in the default configuration of R489 under an owner, handed to GPIO again (R490). -/
def defaultPin (o : PinOwner) (x : Pin) : Pin :=
  { owner := o, ball := x.ball, accepted := x.accepted, safety := x.safety, holder := x.holder, handover := some .gpio,
    timerLevel := x.timerLevel }

/-- Whether a pin's receiver is on (R499, R500). -/
def State.receives (s : State) (p : Nat) : Bool :=
  !(s.pins.harmless || (s.pins.floated && (s.pin p).owner ≠ .peg) || s.pins.vddioOff.contains (p / 32))

/-- Send PIN_EVENT to the tenant that owns a pin (R496). -/
def State.pinEventOut (p kind count : Nat) (at_ : Meridian) (s : State) : State :=
  match (s.pin p).owner with
  | .tenant t => s.event t 0x1001
      ([word p, word kind, if (s.pin p).accepted then 1 else 0, word (min 0xFFFFFFFF count)] ++ words64 at_)
  | _ => s

/-- The Meridian time of the first synchronised sample of a level that has just been accepted (R495, R496). -/
def State.sampleTime (s : State) (p : Nat) : Meridian :=
  if s.time.running then s.now - BitVec.ofNat 64 ((s.pin p).debounce * 31250) else 0

/-- A pin event: the interrupt source, and PIN_EVENT with its coalescing (R495, R496). -/
def State.pinEvent (p kind : Nat) (s : State) : State :=
  let x := s.pin p
  let at_ := s.sampleTime p
  if kind = 3 then
    let s := s.modPin p (fun x => { x with
      count := x.count + 1, firstAt := if x.count = 0 then at_ else x.firstAt, levelSent := true })
    if x.levelSent then s
    else (s.pinEventOut p 3 (s.pin p).count (s.pin p).firstAt).modPin p (fun x => { x with count := 0 })
  else if x.coalesce then
    s.modPin p (fun x => { x with
      count := x.count + 1, firstAt := if x.count = 0 then at_ else x.firstAt
      lastKind := if x.count = 0 then kind else x.lastKind })
  else
    (s.pinEventOut p kind 1 at_).modPin p (fun x => { x with coalesce := true, count := 0 })

/-- The kind of pin event that an accepted level makes in an interrupt mode (R495), if any. -/
def pinEventKind (mode : Nat) (level : Bool) : Option Nat :=
  if (mode = 1 ∨ mode = 3) ∧ level then some 1
  else if (mode = 2 ∨ mode = 3) ∧ !level then some 2
  else if mode = 4 ∧ level then some 3
  else if mode = 5 ∧ !level then some 3
  else none

/-- The interrupt source of a pin in a level mode follows the accepted level while the pin drives it (R495, Table 19.9). -/
def State.followLevel (p : Nat) (s : State) : State :=
  let x := s.pin p
  if 4 ≤ x.irqMode then
    s.sourceEvent (320 + p) (bitOf (IMap.get s.pins.intEn 0 (p / 32)) (p % 32) && (pinEventKind x.irqMode x.accepted).isSome)
  else s

/-- A bank's interrupt enables change, and the sources of its level pins with them (Table 19.9). -/
def State.setIntEn (bank : Nat) (f : Nat → Nat) (s : State) : State :=
  let s := { s with pins := { s.pins with intEn := IMap.put s.pins.intEn bank (f (IMap.get s.pins.intEn 0 bank)) } }
  (List.range 32).foldl (fun s i => s.followLevel (32 * bank + i)) s

/-- The input of a pin takes a level that its debouncer accepts (R495); the second part says whether that is a pin
event. -/
def State.pinLevel (p : Nat) (level : Bool) (s : State) : State × Bool :=
  let x := s.pin p
  let s := s.modPin p (fun x => { x with ball := level })
  if !s.receives p || x.irqMode = 0 || x.accepted = level then (s, false)
  else
    let s := s.modPin p (fun x => { x with accepted := level })
    let en := bitOf (IMap.get s.pins.intEn 0 (p / 32)) (p % 32)
    let kind := pinEventKind x.irqMode level
    let s :=
      if 4 ≤ x.irqMode then s.followLevel p
      else if kind.isSome && en then s.sourceEvent (320 + p) true else s
    match kind with
    | none => (s, false)
    | some k => (s.pinEvent p k, true)

/-- The end of the 1 ms after an edge event (R496). -/
def State.coalesceEnd (p : Nat) (s : State) : State :=
  let x := s.pin p
  let s := if x.coalesce && decide (0 < x.count) then s.pinEventOut p x.lastKind x.count x.firstAt else s
  s.modPin p (fun x => { x with coalesce := false, count := 0 })

/-- The two pin-clock cycles of a hand-over have passed (R488). -/
def State.handoverEnd (p : Nat) (s : State) : State :=
  s.modPin p (fun x => match x.handover with
    | some f => { x with holder := f, handover := none }
    | none => x)

/-! ### Commands -/

/-- The owner that PIN_OWNER_SET names (R490). -/
def pinOwnerOf (v : Nat) : Option PinOwner :=
  if v ≤ 1023 then some (.tenant v) else if v = 0xFFFE then some .peg else if v = 0xFFFF then some .cp else none

/-- Whether a pin is held by a serial, clock or timer function, or named by a capture channel, a pin wake slot or a
fault reaction (R490). -/
def State.pinBusy (s : State) (p : Nat) : Bool :=
  (s.pinBlock p).isSome || s.compareOnPin p none || s.pwmNames p none ||
  s.timers.capture.any (fun e => e.2.owner.isSome && e.2.pin == p) || s.pinWakeSlot p || s.pinReaction p

/-- PIN_OWNER_SET (R490). -/
def pinOwnerSetBody (c : Cmd) (_ : CmdRef) (s : State) : CmdRes := do
  c.reserved [(0x08, 6)]
  let first := c.u16 0x08
  let n := c.u16 0x0A
  need (decide (first ≤ 159)) eRange 0x08
  need (decide (1 ≤ n) && decide (n ≤ 160) && decide (first + n ≤ 160)) eRange 0x0A
  match pinOwnerOf (c.u16 0x0C) with
  | none => .error { status := eRange, detail := 0x0C }
  | some o => do
    need (match o with | .tenant t => s.exists_ t | _ => true) 0x0102 0x0C
    let ps := (List.range n).map (fun i => first + i)
    need (!ps.any (fun p => (s.pin p).locked)) 0x1001 0x08
    need (!ps.any (fun p => s.pinBusy p)) eBusy
    okDone (ps.foldl (fun s p => (s.modPin p (defaultPin o)).clearSource (320 + p)) s) []

/-- A block's rate and mode lie within Table 19.5. -/
def blockRange (k rate mode : Nat) : Except CErr Unit :=
  if k ≤ 3 then do
    need (decide (100000 ≤ rate) && decide (rate ≤ 1000000)) eRange 0x14
    need (mode = 0) eRange 0x18
  else if k ≤ 5 then do
    need (decide (100000 ≤ rate) && decide (rate ≤ 25000000)) eRange 0x14
    need (decide (mode ≤ 3)) eRange 0x18
  else if k ≤ 7 then do
    need (decide (9600 ≤ rate) && decide (rate ≤ 12500000)) eRange 0x14
    need (decide (mode ≤ 15) && decide (mode % 4 ≤ 2)) eRange 0x18
  else need (mode = 0) eRange 0x18

/-- Op 0 of PIN_CONFIG_SET on one pin. -/
def State.configPin (c : Cmd) (p : Nat) (s : State) : State :=
  let d := c.u8 0x0D
  let mode := c.u8 0x0F
  let s := s.modPin p (fun x => { x with
    strength := d % 4, openDrain := bitOf d 2, slow := bitOf d 3, pull := c.u8 0x0E, irqMode := mode
    debounce := c.u8 0x10, accepted := x.ball, coalesce := false, count := 0, levelSent := false })
  let s := s.clearSource (320 + p)
  if mode = 0 then s else s.setIntEn (p / 32) (fun en => en ||| 2 ^ (p % 32))

/-- The fastest serial bit rate in use, with one more (R429). -/
def State.fastestSerial (s : State) (extra : Nat) : Nat :=
  (s.pins.block.filter (fun e => e.2.enabled && decide (e.1 ≤ 7))).foldl (fun m e => max m e.2.rate) extra

/-- PIN_CONFIG_SET (R491). -/
def pinConfigSetBody (c : Cmd) (_ : CmdRef) (s : State) : CmdRes := do
  let op := c.u8 0x08
  let k := c.u8 0x09
  need (decide (op ≤ 2)) eRange 0x08
  if op = 0 then
    c.reserved [(0x08, 1), (0x0A, 7)] [(0x14, 4)]
    let first := c.u16 0x0A
    let n := c.u8 0x0C
    need (decide (first ≤ 159)) eRange 0x0A
    need (decide (1 ≤ n) && decide (n ≤ 32) && decide (first % 32 + n ≤ 32)) eRange 0x0C
    let ps := (List.range n).map (fun i => first + i)
    need (ps.all (fun p => s.setsPin c.tenant p)) eNotOwner 0x0A
    need (decide (c.u8 0x0D ≤ 15)) eRange 0x0D
    need (decide (c.u8 0x0E ≤ 2)) eRange 0x0E
    need (decide (c.u8 0x0F ≤ 5)) eRange 0x0F
    need (!ps.any (fun p => (s.pin p).locked)) 0x1001 0x0A
    okDone (ps.foldl (fun s p => s.configPin c p) s) []
  else
    need (decide (k ≤ 9)) eRange 0x09
    let rate := c.u32 0x14
    c.reserved ([(0x08, 2)] ++ (if op = 1 then [(0x18, 1)] else []) ++
      (if op = 1 ∧ k ≤ 7 then [(0x14, 4)] else [])) [(0x0A, 2), (0x14, 4)]
    need ((blockPins k).all (fun p => s.setsPin c.tenant p)) eNotOwner 0x09
    let b := s.block k
    if op = 1 then
      blockRange k rate (c.u8 0x18)
      need (!b.enabled) eBusy
      need (decide (8 * s.fastestSerial (if k ≤ 7 then rate else 0) ≤ s.clocks.pclk * 1000000)) 0x0D01 0x14
      let s := s.modBlock k (fun _ => { enabled := true, rate := rate, mode := c.u8 0x18 })
      okDone ((blockPins k).foldl State.settlePin s) []
    else
      need b.queue.isEmpty eBusy
      need b.enabled eState
      let s := s.modBlock k (fun _ => {})
      okDone ((blockPins k).foldl State.settlePin s) []

/-- Acknowledge a level pin (R493 op 2, R496). -/
def State.ackPin (p : Nat) (s : State) : State :=
  let x := s.pin p
  if x.irqMode < 4 then s
  else
    let s := s.modPin p (fun x => { x with levelSent := false })
    if (pinEventKind x.irqMode x.accepted).isSome && s.receives p then
      let n := max 1 x.count
      let at_ := if x.count = 0 then s.now else x.firstAt
      (s.pinEventOut p 3 n at_).modPin p (fun x => { x with count := 0, levelSent := true })
    else s

/-- PIN_WRITE (R493). -/
def pinWriteBody (c : Cmd) (r : CmdRef) (s : State) : CmdRes := do
  let op := c.u8 0x08
  need (decide (op ≤ 2)) eRange 0x08
  if op = 1 then
    let k := c.u8 0x09
    need (decide (k ≤ 7)) eRange 0x09
    let uart := decide (6 ≤ k)
    c.reserved ([(0x08, 2), (0x0B, 2), (0x10, 0x20)] ++ (if uart then [] else [(0x0A, 1)]))
    let a := c.u8 0x0A
    let wr := c.u8 0x0B
    let rd := c.u8 0x0C
    need (decide (a ≤ if k ≤ 3 then 127 else 3)) eRange 0x0A
    need (decide (wr ≤ 32)) eRange 0x0B
    need (decide (rd ≤ if uart then 0 else 32)) eRange 0x0C
    need (s.block k).enabled eState
    need ((blockPins k).all (fun p => s.setsPin c.tenant p)) eNotOwner 0x09
    .ok (s.modBlock k (fun b => { b with queue := b.queue ++ [⟨r, a, c.bytes 0x10 wr, rd⟩] }), .later)
  else
    c.reserved ([(0x08, 1), (0x0A, 2), (0x0C, 4)] ++ (if op = 0 then [(0x09, 1)] else []))
    let reg := c.u8 0x09
    let bank := c.u8 0x0A
    let half := c.u8 0x0B
    need (op = 2 || decide (reg ≤ 1)) eRange 0x09
    need (decide (bank ≤ 4)) eRange 0x0A
    need (decide (half ≤ 1)) eRange 0x0B
    let v := word (c.u32 0x0C)
    if op = 0 then
      let w := filterMask bank (half = 1) v (s.mayWritePin c.tenant)
      okDone (s.maskedWrite bank (if reg = 0 then .out else .oe) (half = 1) w) [w >>> 16]
    else
      let w := filterMask bank (half = 1) v (fun p => s.setsPin c.tenant p)
      let ps := ((List.range 16).filter (fun i => w.getLsbD (16 + i))).map
        (fun i => 32 * bank + (if half = 1 then 16 else 0) + i)
      okDone (ps.foldl (fun s p => s.ackPin p) s) []

/-- The safety-class pins that a PIN_LOCK mask names (R484, R497). -/
def lockPins (mask : Nat) : List Nat := ((List.range 16).filter (bitOf mask)).map (fun i => 144 + i)

/-- The lock arms without a tenant's. -/
def State.dropArm (t : Nat) (s : State) : State :=
  { s with pins := { s.pins with arms := s.pins.arms.filter (fun a => a.tenant ≠ t) } }

/-- The checks of PIN_LOCK, and what the accepted command does and answers (R497). The tenant's armed entry is gone by then. -/
def pinLockChecks (c : Cmd) (s : State) : Except CErr (State × List Word) := do
  let s0 := s.dropArm c.tenant
  let op := c.u8 0x08
  need (decide (op ≤ 1)) eRange 0x08
  c.reserved ([(0x08, 1), (0x0A, 2)] ++ (if op = 1 then [(0x0C, 2)] else [])) [(0x0C, 2)]
  let mask := c.u16 0x0A
  let ps := lockPins mask
  if op = 0 then
    need (mask ≠ 0) eRange 0x0A
    need (ps.all (fun p => (s.pin p).owner = .tenant c.tenant)) eNotOwner 0x0A
    need (ps.all (fun p => (s.pin p).holder = .gpio && (s.pin p).handover.isNone)) eState
    need (!ps.any (fun p => (s.pin p).locked)) 0x1001 0x0A
    let (v, s1) := s0.fresh
    let nonce := v % 0xFFFF + 1
    .ok ({ s1 with pins := { s1.pins with arms := ⟨c.tenant, mask, nonce, s.now⟩ :: s1.pins.arms } }, [word nonce])
  else
    match s.pins.arms.find? (fun a => a.tenant = c.tenant) with
    | none => .error { status := 0x1002 }
    | some a => do
      need (a.mask = mask) 0x1002 0x0A
      need (c.u16 0x0C = a.nonce ^^^ 0x5AFE) 0x1002 0x0C
      need (decide (s.since a.at_ ≤ 10240000)) 0x1002
      .ok (ps.foldl (fun s p => s.modPin p (fun x => { x with locked := true })) s0, [])

/-- PIN_LOCK (R497): any other PIN_LOCK of the tenant, and any failure, ends an arm in force. -/
def pinLockBody (c : Cmd) (_ : CmdRef) (s : State) : CmdRes :=
  match pinLockChecks c s with
  | .ok (s', ws) => okDone s' ws
  | .error e => .ok (s.dropArm c.tenant, .failed e)

/-! ### Events of the pins -/

/-- GPIO_MASKED_WRITE (R492). -/
def execGpioMaskedWrite (dt bank : Nat) (reg : GpioReg) (high : Bool) (v : Word) (s : State) :
    Host.Outcome State Fault Refusal := .next ((s.tick dt).maskedWrite bank reg high v)

/-- GPIO_INT_EN_SET (R11, R501). -/
def execGpioIntEnSet (dt bank : Nat) (v : Word) (s : State) : Host.Outcome State Fault Refusal :=
  .next ((s.tick dt).setIntEn bank (fun en => en ||| v.toNat))

/-- GPIO_INT_EN_CLR (R11, R501). -/
def execGpioIntEnClr (dt bank : Nat) (v : Word) (s : State) : Host.Outcome State Fault Refusal :=
  .next ((s.tick dt).setIntEn bank (fun en => en &&& (~~~v).toNat))

/-- PIN_EVENT_COALESCE_END (R496). -/
def execPinEventCoalesceEnd (dt p : Nat) (s : State) : Host.Outcome State Fault Refusal :=
  .next ((s.tick dt).coalesceEnd p)

/-- PIN_HANDOVER_END (R488). -/
def execPinHandoverEnd (dt p : Nat) (s : State) : Host.Outcome State Fault Refusal :=
  .next ((s.tick dt).handoverEnd p)

/-- The result words of a serial transfer: the bytes read, then the bytes written (R493). -/
def serialWords (readBytes : List Byte) (written : Nat) : List Word :=
  (chunks 4 (slice readBytes 0 32)).map (fun b => word (leNat b)) ++ [word written]

/-- SERIAL_TRANSFER_DONE (R493): the transfer at the front of the block's queue ends. -/
def State.serialDone (k : Nat) (o : SerialOutcome) (s : State) : State :=
  match (s.block k).queue with
  | [] => s
  | t :: rest =>
    let s := s.modBlock k (fun b => { b with queue := rest })
    match o with
    | .done bs => s.completeOk t.ref (serialWords (bs.take t.read) t.write.length)
    | .nackAddress => s.complete t.ref 0x1003 0x0A (serialWords [] 0)
    | .nackData n => s.complete t.ref 0x1003 0x10 (serialWords [] n)
    | .arbitrationLost n => s.complete t.ref 0x1003 noField (serialWords [] n)
    | .stretched n => s.complete t.ref 0x1003 noField (serialWords [] n)

/-- The tenant that owns a block's pins. -/
def State.blockOwner (s : State) (k : Nat) : Option Nat :=
  match (blockPins k).head? with
  | none => none
  | some p => match (s.pin p).owner with | .tenant t => some t | _ => none

/-- Send up to 28 waiting bytes of a UART in PIN_UART_RX (R494). -/
def State.uartSend (k : Nat) (s : State) : State :=
  let b := s.block k
  let bs := b.rx.take 28
  match s.blockOwner k with
  | none => s
  | some t =>
    (s.event t 0x1002 (word (k + bs.length * 0x100 + (if b.rxDropped then 0x10000 else 0)) ::
      (chunks 4 (slice bs 0 28)).map (fun b => word (leNat b)))).modBlock k
        (fun b => { b with rx := b.rx.drop 28, rxDropped := false })

/-- UART_BYTE_RECEIVE (R494), where the receiver of RX is on (R499). -/
def State.uartByte (u : Nat) (v : Byte) (s : State) : State :=
  let k := 6 + u
  let b := s.block k
  if !b.enabled || decide (2 ≤ u) || !s.receives (23 + 4 * u) then s
  else if 256 ≤ b.rx.length then s.modBlock k (fun b => { b with rxDropped := true })
  else
    let s := s.modBlock k (fun b => { b with rx := b.rx ++ [v] })
    if 28 ≤ (s.block k).rx.length then s.uartSend k else s

def execUartByteReceive (dt u : Nat) (v : Byte) (s : State) : Host.Outcome State Fault Refusal :=
  .next ((s.tick dt).uartByte u v)

/-- UART_LINE_IDLE (R494). -/
def execUartLineIdle (dt u : Nat) (s : State) : Host.Outcome State Fault Refusal :=
  let s := s.tick dt
  .next (if decide (2 ≤ u) || (s.block (6 + u)).rx.isEmpty then s else s.uartSend (6 + u))

end Sys2Proof.Machine
end

