-- ==== Sys2Proof/Machine/Mailbox.lean ====
section
/-! DEFINITION. Mailboxes and doorbell pages (R61 to R76) and the device status page (R77, R78). -/

namespace Sys2Proof.Machine

/-- A number as little-endian bytes of a record field. -/
def recWords (ws : List Word) : List Byte := slice (ws.flatMap (fun w => leBytes 4 w.toNat)) 0 36

/-- The 64 bytes of a completion record (Table 3.9). -/
def recordBytes (tag op status index detail : Nat) (time : Meridian) (ws : List Word) (phase : Bool) : List Byte :=
  leBytes 4 tag ++ leBytes 2 op ++ leBytes 2 status ++ leBytes 4 index ++ leBytes 2 detail ++ leBytes 2 0 ++
    leBytes 8 time.toNat ++ recWords ws ++ leBytes 3 0 ++ [if phase then 0x81 else 0x80]

/-- Ring sizes in slots (Table 3.4). -/
def Mailbox.cmdSize (m : Mailbox) : Nat := 2 ^ bits m.ringCfg.toNat 3 0
def Mailbox.cplSize (m : Mailbox) : Nat := 2 ^ bits m.ringCfg.toNat 11 8
def Mailbox.cmdBase (m : Mailbox) : Nat := m.cmdBaseHi.toNat * 2 ^ 32 + m.cmdBaseLo.toNat
def Mailbox.cplBase (m : Mailbox) : Nat := m.cplBaseHi.toNat * 2 ^ 32 + m.cplBaseLo.toNat

/-- Whether the completion ring has a free slot (R62, R70). -/
def Mailbox.cplRoom (m : Mailbox) : Bool := m.usable && decide ((m.cplTail - m.cplHead).toNat < m.cplSize)

/-- Interrupt moderation (R76): with a record written since the last interrupt, the vector is raised once their count has
reached IRQ_MOD.count or the age limit has passed. -/
def State.moderate (t : Nat) (s : State) : State :=
  match s.tenant? t with
  | none => s
  | some x =>
    let m := x.mbox
    if 1 ≤ m.sinceIrq ∧ (max 1 (bits m.irqMod.toNat 7 0) ≤ m.sinceIrq ∨
        bits m.irqMod.toNat 31 16 * 1024 ≤ s.since m.firstAt) then
      (s.modMbox t (fun m => { m with sinceIrq := 0 })).raiseVector t
    else s

/-- One more record was written (R76). -/
def State.countRecord (t : Nat) (s : State) : State :=
  (s.modMbox t (fun m => { m with
    sinceIrq := m.sinceIrq + 1, firstAt := if m.sinceIrq = 0 then s.now else m.firstAt })).moderate t

/-- A record write gets an error completion (R64): a Running mailbox stops, and the completion ring becomes unusable. DESIGN
CHOICE (assumption 61): in Stopped and Draining, where R64 speaks of no such write, the ring alone becomes unusable with fault
E_FAULT. -/
def State.recordWriteError (t : Nat) (s : State) : State :=
  match s.tenant? t with
  | none => s
  | some x =>
    match x.mbox.state with
    | .disabled => s
    | .running => s.stopMbox t eFault true
    | .stopped => s.ringLost t eFault
    | .draining => s.ringLost t eFault

/-- The bytes of a mailbox's completion-record slot that is written next (R62). -/
def Mailbox.slotAddr (m : Mailbox) : Nat := m.cplBase + 64 * (m.cplTail.toNat % m.cplSize)

/-- A fault of a ring read or record write counts against the tenant (R107). -/
def State.countFault (t : Nat) (s : State) : State := s.modTenant t (fun x => { x with faults := x.faults + 1 })

/-- Write one record into the next free slot: CPL_TAIL and the phase move on (R69), and moderation counts it. An error
completion counts as a fault (R107) and acts as R64 states. The second part says whether it was written. -/
def State.putRecord (t : Nat) (bytes : Bool → List Byte) (s : State) : State × Bool :=
  match s.tenant? t with
  | none => (s, false)
  | some x =>
    let m := x.mbox
    match s.hostWrite (s.pasid t) m.slotAddr (bytes m.phase) with
    | none => ((s.countFault t).recordWriteError t, false)
    | some s =>
      let tail := m.cplTail + 1
      let s := s.modMbox t (fun m => { m with
        cplTail := tail, phase := if tail.toNat % m.cplSize = 0 then !m.phase else m.phase })
      (s.countRecord t, true)

/-- The words that TENANT_QUERY and QUOTA_CHANGED give of a tenant's quotas (R73, R87). -/
def Quotas.words (q : Quotas) : List Word :=
  [word q.inflight, word q.planes, word q.threads, word q.voices, word q.dma, word q.atlasMib]

/-- Note on a QUOTA_SET in flight that it left every quota as it was (R73). -/
def State.markQuiet (r : CmdRef) (q : Bool) (s : State) : State :=
  { s with flights := s.flights.map (fun f => if f.is r then { f with quiet := q } else f) }

/-- What else happens when a command's record is written: QUOTA_CHANGED (R73). -/
def State.afterRecord (r : Record) (s : State) : State :=
  if r.ref.opcode = 0x0104 ∧ r.status = eOk then
    match s.flights.find? (·.is r.ref) with
    | none => s
    | some f =>
      let t := f.cmd.u16 8
      match s.tenant? t with
      | none => s
      | some x => if f.quiet then s else s.event t 0x0102 (word t :: x.quotas.words)
  else s

/-- Write held command records, then pending events, while completion slots are free (R70). -/
def State.writeHeld (t : Nat) : Nat → State → State
  | 0, s => s
  | fuel + 1, s =>
    match s.tenant? t with
    | none => s
    | some x =>
      if !x.mbox.cplRoom || x.mbox.state = .disabled then s
      else match x.mbox.held with
        | r :: _ =>
          let (s1, ok) := s.putRecord t (recordBytes r.ref.tag.toNat r.ref.opcode r.status r.ref.index.toNat r.detail
            r.time r.words)
          if ok then
            let s2 := s1.modMbox t (fun m => { m with held := m.held.drop 1 })
            State.writeHeld t fuel ((s2.afterRecord r).dropFlight r.ref)
          else s1
        | [] =>
          match x.mbox.events with
          | [] => s
          | e :: _ =>
            let (s1, ok) := s.putRecord t (recordBytes e.code 0xFFFF e.status x.mbox.dropped noField e.time e.words)
            if ok then
              State.writeHeld t fuel (s1.modMbox t (fun m => { m with events := m.events.drop 1, dropped := 0 }))
            else s1

/-- How many records a tenant has waiting. -/
def State.heldCount (s : State) (t : Nat) : Nat :=
  ((s.tenant? t).map (fun x => x.mbox.held.length + x.mbox.events.length)).getD 0

/-- The part is asleep: host writes to doorbells are latched until the wake (R425). -/
def State.asleep (s : State) : Bool := s.power.mode = .keep || s.power.mode = .listen

/-- A doorbell page that takes writes: its tenant exists and is not being destroyed (R49, R53). -/
def State.doorbell? (s : State) (t : Nat) : Option Mailbox :=
  match s.tenant? t with
  | none => none
  | some x => if x.dying = .no then some x.mbox else none

/-- A host doorbell write in Keep or Listen is latched for the next wake, and wakes PD002 (R425). -/
def State.latchWrite (off : Nat) (v : Word) (s : State) : State :=
  { s with power := { s.power with
      latchedDoorbells := s.power.latchedDoorbells ++ [(off, v)]
      accessVotes := if s.power.accessVotes.contains 2 then s.power.accessVotes else 2 :: s.power.accessVotes } }

/-- BAR0 offset of a doorbell register (Table 3.2). -/
def dbOffset (t reg : Nat) : Nat := 0x400000 + 0x1000 * t + reg

/-- A write of CMD_TAIL (R64, R65). DESIGN CHOICE (assumption 61): in Stopped, which the rules leave out, one within the ring size is
taken and any other discarded. -/
def State.writeCmdTail (t : Nat) (v : Word) (s : State) : State :=
  match s.doorbell? t with
  | none => s
  | some m =>
    match m.state with
    | .disabled => s
    | .draining => s
    | .stopped =>
      if (v - m.cmdHead).toNat ≤ m.cmdSize then s.modMbox t (fun m => { m with cmdTail := v }) else s
    | .running =>
      if (v - m.cmdHead).toNat ≤ m.cmdSize then s.modMbox t (fun m => { m with cmdTail := v })
      else s.stopMbox t eRange false

/-- A write of CPL_HEAD (R64): it must not move backwards nor past CPL_TAIL. -/
def State.writeCplHead (t : Nat) (v : Word) (s : State) : State :=
  if s.hwHas (.cplHead t) then s
  else match s.doorbell? t with
  | none => s
  | some m =>
    let ok := decide ((v - m.cplHead).toNat ≤ (m.cplTail - m.cplHead).toNat)
    match m.state with
    | .disabled => s.modMbox t (fun m => { m with cplHead := v })
    | .running => if ok then s.modMbox t (fun m => { m with cplHead := v }) else s.stopMbox t eRange true
    | .stopped => if ok then s.modMbox t (fun m => { m with cplHead := v }) else s.ringLost t eRange
    | .draining => if ok then s.modMbox t (fun m => { m with cplHead := v }) else s.ringLost t eRange

/-- Whether a tenant's PASID is valid for enabling its mailbox (R78). -/
def State.pasidValid (s : State) (t : Nat) : Bool :=
  if t = 0 then s.dev.pasid0.getLsbD 31 else if t = 1 then s.dev.pasid1.getLsbD 31 else true

/-- The fault of the first configuration check that fails (R63), none if all pass. -/
def State.enableFault (s : State) (t : Nat) (m : Mailbox) : Option Nat :=
  let ok (n : Nat) := decide (4 ≤ n) && decide (n ≤ 12)
  if m.cmdBaseLo.toNat % 4096 ≠ 0 ∨ m.cplBaseLo.toNat % 4096 ≠ 0 then some eAlign
  else if !(ok (bits m.ringCfg.toNat 3 0) && ok (bits m.ringCfg.toNat 11 8)) then some eRange
  else if m.cmdTail ≠ 0 ∨ m.cplHead ≠ 0 then some eState
  else if !s.pasidValid t then some eState
  else none

/-- A write of MBOX_CTL.enable = 1 (R63, R65). DESIGN CHOICE (assumption 61): after a failed check the completion ring counts as
unusable until the mailbox is enabled. -/
def State.mboxEnable (t : Nat) (s : State) : State :=
  if s.hwHas (.mboxEnable t) then s
  else match s.doorbell? t with
  | none => s
  | some m =>
    if m.state = .disabled then
      match s.enableFault t m with
      | some e => s.stopMbox t e true
      | none => s.modMbox t (fun m => { m with
          cmdHead := 0, cplTail := 0, eventLost := 0, phase := true, state := .running, usable := true })
    else s

/-- A write of MBOX_CTL.enable = 0 (R65). -/
def State.mboxDisable (t : Nat) (s : State) : State :=
  match s.doorbell? t with
  | none => s
  | some m =>
    if m.state = .running ∨ m.state = .stopped then s.modMbox t (fun m => { m with state := .draining }) else s

/-- A write of MBOX_CTL.reset = 1 with an enable bit (R65). -/
def State.mboxReset (t : Nat) (enable : Bool) (s : State) : State :=
  match s.doorbell? t with
  | none => s
  | some m =>
    if m.state = .stopped then s.modMbox t (fun m => { m with state := .draining })
    else if enable then s.mboxEnable t else s.mboxDisable t

/-- A write of a doorbell page register (R61, Tables 3.3 to 3.7); the rest discard it. -/
def State.dbWrite (t off : Nat) (v : Word) (s : State) : State :=
  let cfg (f : Mailbox → Mailbox) : State := match s.doorbell? t with
    | none => s
    | some m => if m.state = .disabled then s.modMbox t f else s
  match off with
  | 0x00 => s.writeCmdTail t v
  | 0x08 => s.writeCplHead t v
  | 0x10 => cfg (fun m => { m with cmdBaseLo := v })
  | 0x14 => cfg (fun m => { m with cmdBaseHi := v })
  | 0x18 => cfg (fun m => { m with cplBaseLo := v })
  | 0x1C => cfg (fun m => { m with cplBaseHi := v })
  | 0x20 => cfg (fun m => { m with ringCfg := v &&& 0xF0F })
  | 0x24 =>
    if v.getLsbD 1 then s.mboxReset t (v.getLsbD 0)
    else if v.getLsbD 0 then s.mboxEnable t else s.mboxDisable t
  | 0x2C => if (s.doorbell? t).isSome then (s.modMbox t (fun m => { m with irqMod := v &&& 0xFFFF00FF })).moderate t else s
  | _ => s

/-- A draining mailbox with nothing in flight enters Disabled, its counters cleared and its events discarded (R65,
R74). -/
def State.drainEnd (t : Nat) (s : State) : State :=
  match s.tenant? t with
  | none => s
  | some x =>
    if x.mbox.state = .draining ∧ s.inFlight t = 0 then
      ((s.hwMark (.cplHead t)).hwMark (.mboxEnable t)).modMbox t (fun m => { m with
        state := .disabled, cmdTail := 0, cmdHead := 0, cplHead := 0, cplTail := 0, held := [], events := []
        eventLost := word (satInc 0xFFFFFFFF m.eventLost.toNat m.events.length)
        dropped := satInc 0xFFFFFFFF m.dropped m.events.length })
    else s

/-- The entries of one tenant's ring from count `n` on, `k` of them (R62). -/
def State.ringRead (s : State) (t : Nat) (m : Mailbox) : Nat → Word → Option (List Byte)
  | 0, _ => some []
  | k + 1, n =>
    match s.hostRead (s.pasid t) (m.cmdBase + 64 * (n.toNat % m.cmdSize)) 64 with
    | none => none
    | some bs =>
      match State.ringRead s t m k (n + 1) with
      | none => none
      | some r => some (bs ++ r)

/-- A ring read gets an error completion (R64, R107). -/
def State.ringFault (t : Nat) (s : State) : State := (s.countFault t).stopMbox t eFault false

/-- Fetch one command of a tenant (R66, R67): none where nothing can be fetched. A ring read that fails stops the
mailbox. -/
def State.fetchOne (t : Nat) (s : State) : Option State :=
  match s.tenant? t with
  | none => none
  | some x =>
    let m := x.mbox
    if !s.canFetch t || m.unfetched = 0 then none
    else match s.ringRead t m 1 m.cmdHead with
      | none => some (s.ringFault t)
      | some hd =>
        let c : Cmd := ⟨t, m.cmdHead, BitVec.ofNat 16 (fieldU hd 2 2), word (fieldU hd 4 4), hd.drop 8, 0⟩
        if m.unfetched < c.entries then none
        else match s.ringRead t m c.ext (m.cmdHead + 1) with
          | none => some (s.ringFault t)
          | some more =>
            let c := { c with payload := c.payload ++ more }
            some (s.takeCmd c (fieldU hd 0 2))

/-- Fetch up to `n` commands of one tenant. -/
def State.fetchTenant (t : Nat) : Nat → State → State
  | 0, s => s
  | n + 1, s => match s.fetchOne t with
    | none => s
    | some s' => State.fetchTenant t n s'

/-- One scheduling round (R72): tenant 1, then every other tenant from 0 up, up to 8 commands from each. -/
def State.fetchRound (s : State) : State :=
  let others := (IMap.keys s.tenants).filter (fun t => t ≠ 1)
  (1 :: others).foldl (fun s t => s.fetchTenant t 8) s

/-- A write to DEV.EVENT clears bits (R75), but for those that the hardware has set in the same PCLK cycle (R10). -/
def State.clearDevEvent (v : Word) (s : State) : State :=
  { s with dev := { s.dev with event := s.dev.event &&& ~~~(s.clearBits 7 HwField.devEvent v) } }

/-- DEV.EVENT_EN is written (R75): each newly enabled bit whose event is already set raises its vector. -/
def State.writeEventEn (v : Word) (s : State) : State :=
  let old := s.dev.eventEn
  let s := { s with dev := { s.dev with eventEn := v &&& 0x7F } }
  ((List.range 7).filter (fun b => v.getLsbD b && !old.getLsbD b && s.dev.event.getLsbD b)).foldl
    (fun s b => s.raiseVector (1024 + b)) s

/-! ### Commands of group 0x01 that touch tenants alone -/

/-- NOP (R87). -/
def nopBody (c : Cmd) (_ : CmdRef) (s : State) : CmdRes := do
  c.reserved []
  okDone s []

/-- A quota field: all ones gives `dflt`, any other value must lie within its range (R88). -/
def quotaField (v ones dflt lo hi off : Nat) : Except CErr Nat :=
  if v = ones then .ok dflt else if lo ≤ v ∧ v ≤ hi then .ok v else .error { status := eRange, detail := off }

/-- The quota fields of TENANT_CREATE and QUOTA_SET, `q` giving what all ones selects. -/
def quotaPayload (c : Cmd) (q : Quotas) : Except CErr Quotas := do
  let a ← quotaField (c.u16 0x10) 0xFFFF q.inflight 1 4096 0x10
  let b ← quotaField (c.u16 0x12) 0xFFFF q.planes 0 256 0x12
  let d ← quotaField (c.u16 0x14) 0xFFFF q.threads 0 160 0x14
  let e ← quotaField (c.u8 0x16) 0xFF q.voices 0 96 0x16
  let f ← quotaField (c.u8 0x17) 0xFF q.dma 0 48 0x17
  let g ← quotaField (c.u32 0x18) 0xFFFFFFFF q.atlasMib 0 0x2000000 0x18
  .ok ⟨a, b, d, e, f, g⟩

/-- Whether a tenant other than `t` holds a PASID, those set in DEV.PASID0 and DEV.PASID1 included (R52). -/
def State.pasidInUse (s : State) (p : Nat) : Bool :=
  (s.dev.pasid0.getLsbD 31 && s.dev.pasid0.toNat % 0x100000 == p) ||
  (s.dev.pasid1.getLsbD 31 && s.dev.pasid1.toNat % 0x100000 == p) ||
  s.tenants.any (fun e => decide (2 ≤ e.1) && e.2.pasid == p)

/-- TENANT_CREATE (R52). -/
def tenantCreateBody (c : Cmd) (_ : CmdRef) (s : State) : CmdRes := do
  c.reserved [(0x08, 2), (0x0C, 16)]
  let t := c.u16 0x08
  let p := c.u32 0x0C
  need (decide (2 ≤ t) && decide (t ≤ 1023)) eRange 0x08
  need (decide (1 ≤ p) && decide (p ≤ 0xFFFFF)) eRange 0x0C
  let q ← quotaPayload c {}
  need (!s.exists_ t) 0x0101 0x08
  need (!s.pasidInUse p) 0x0103 0x0C
  okDone { s with tenants := IMap.put s.tenants t { pasid := p, quotas := q } } []

/-- QUOTA_SET (R54, R88). -/
def quotaSetBody (c : Cmd) (r : CmdRef) (s : State) : CmdRes := do
  c.reserved [(0x08, 2), (0x10, 12)]
  let t := c.u16 0x08
  need (t ≠ 1) eDenied 0x08
  need (decide (t ≤ 1023)) eRange 0x08
  match s.tenant? t with
  | none => .error { status := 0x0102, detail := 0x08 }
  | some x => do
    let q ← quotaPayload c x.quotas
    okDone ((s.modTenant t (fun x => { x with quotas := q })).markQuiet r (q = x.quotas)) []

/-- TENANT_QUERY (R87). -/
def tenantQueryBody (c : Cmd) (_ : CmdRef) (s : State) : CmdRes := do
  c.reserved []
  match s.tenant? c.tenant with
  | none => okDone s []
  | some x => okDone s (word c.tenant :: x.quotas.words ++ [word (s.inFlight c.tenant)])

end Sys2Proof.Machine
end

