-- ==== Sys2Proof/Machine/Timers.lean ====
section
/-! DEFINITION. Compare, capture and PWM channels (R443 to R453) and the calendar's counting (R454 to R456). -/

namespace Sys2Proof.Machine

def State.compareCh (s : State) (n : Nat) : CompareCh := IMap.get s.timers.compare {} n
def State.captureCh (s : State) (n : Nat) : CaptureCh := IMap.get s.timers.capture {} n
def State.pwmUnit (s : State) (n : Nat) : Pwm := IMap.get s.timers.pwm {} n

def State.setCompare (s : State) (n : Nat) (x : CompareCh) : State :=
  { s with timers := { s.timers with compare := IMap.put s.timers.compare n x } }
def State.setCapture (s : State) (n : Nat) (x : CaptureCh) : State :=
  { s with timers := { s.timers with capture := IMap.put s.timers.capture n x } }
def State.setPwm (s : State) (n : Nat) (x : Pwm) : State :=
  { s with timers := { s.timers with pwm := IMap.put s.timers.pwm n x } }

/-- The limit of a general tenant (R443); tenants 0 and 1 have none. -/
def underLimit (t held limit : Nat) : Bool := decide (t ≤ 1) || decide (held < limit)

/-- Choose the channel of an allocate-or-set command (R444, R547): a named one must be free or the issuer's own; 0xFF
takes the lowest free one. `owner` gives each channel's owner; the answer says whether it is newly allocated. -/
def chooseChannel (t named count limit : Nat) (owner : Nat → Option Nat) (extra : Except CErr Unit) :
    Except CErr (Nat × Bool) := do
  need (named = 0xFF || (owner named).isNone || owner named = some t) eNotOwner 0x09
  extra
  if named ≠ 0xFF ∧ owner named = some t then .ok (named, false)
  else do
    let held := ((List.range count).filter (fun n => owner n = some t)).length
    need (underLimit t held limit) eQuota
    if named ≠ 0xFF then .ok (named, true)
    else match lowest count (fun n => (owner n).isNone) with
      | some n => .ok (n, true)
      | none => .error { status := eNoRes }

/-! ### Compare -/

/-- A pin that the issuer may have driven by a timer function: its own, not locked, not driven by another channel or
unit (R444, R498). -/
def State.timerPin (s : State) (t pin : Nat) (cmp pwm : Option Nat) (off : Nat) : Except CErr Unit := do
  need ((s.pin pin).owner = .tenant t) eNotOwner off
  need (!(s.compareOnPin pin cmp || s.pwmNames pin pwm || (s.pin pin).locked)) eBusy

/-- A compare channel is set as a whole; the pins it drove and drives follow (R444, R448). -/
def State.putCompare (s : State) (n : Nat) (x : CompareCh) : State :=
  let s1 := s.setCompare n x
  let s2 := match (s.compareCh n).pin with | some (_, p) => s1.settlePin p | none => s1
  match x.pin with | some (_, p) => s2.settlePin p | none => s2

/-- COMPARE_SET (R444). -/
def compareSetBody (c : Cmd) (_ : CmdRef) (s : State) : CmdRes := do
  let op := c.u8 0x08
  let ch := c.u8 0x09
  let fl := c.u8 0x0A
  need (decide (op ≤ 1)) eRange 0x08
  need (decide (fl ≤ 7)) eBadCmd 0x0A
  c.reserved [(0x08, 6), (0x10, 16)]
  let own (n : Nat) := (s.compareCh n).owner
  if op = 1 then
    need (decide (ch ≤ 55)) eRange 0x09
    need (own ch = some c.tenant) eNotOwner 0x09
    okDone (s.putCompare ch {}) ([word ch] ++ words64 (s.compareCh ch).value)
  else
    need (bitOf fl 0 || bitOf fl 1) eRange 0x0A
    need (decide (ch ≤ 55) || ch = 0xFF) eRange 0x09
    let act := c.u8 0x0B
    let pin := c.u16 0x0C
    let pinned := bitOf fl 1
    need (decide (act ≤ if pinned then 2 else 0)) eRange 0x0B
    need (decide (pin ≤ if pinned then 159 else 0)) eRange 0x0C
    let period := c.u64 0x18
    need (period = 0 || (decide (1024 ≤ period) && decide (period ≤ 2 ^ 62))) eRange 0x18
    let (n, _) ← chooseChannel c.tenant ch 56 8 own
      (if pinned then s.timerPin c.tenant pin (if ch = 0xFF then none else some ch) none 0x0C else .ok ())
    let v : Meridian := BitVec.ofNat 64 (c.u64 0x10) + (if bitOf fl 2 then s.now else 0)
    okDone (s.putCompare n
      { owner := some c.tenant, event := bitOf fl 0, pin := if pinned then some (act, pin) else none, value := v
        period := period, armed := true }) ([word n] ++ words64 v)

/-- The level that a pin action gives (Table 17.1). -/
def pinAction (act : Nat) (level : Bool) : Bool := if act = 0 then true else if act = 1 then false else !level

/-- One channel fires at the evaluation `F = now` (R446 to R448). -/
def State.fireCompare (n : Nat) (s : State) : State :=
  let x := s.compareCh n
  let late := (s.now - x.value).toNat
  let s := match x.pin with
    | some (a, p) => s.modPin p (fun y => { y with timerLevel := pinAction a y.timerLevel })
    | none => s
  let onTime := decide (late < x.period)
  let skipped := if x.period = 0 ∨ onTime then 0 else late / x.period
  let next : CompareCh :=
    if x.period = 0 then { x with armed := false }
    else { x with value := if onTime then x.value + BitVec.ofNat 64 x.period else s.now + BitVec.ofNat 64 x.period }
  let s := s.setCompare n next
  match x.owner with
  | some t =>
    if x.event then
      s.event t 0x0E01 ([word n] ++ words64 x.value ++ words64 s.now ++ [word (min 0xFFFFFFFF skipped)])
    else s
  | none => s

/-- Whether a channel fires at an evaluation at the present Meridian value (R445). -/
def State.compareDue (s : State) (n : Nat) : Bool :=
  let x := s.compareCh n
  x.owner.isSome && x.armed && decide (0 ≤ meridianDiff s.now x.value)

/-- COMPARE_EVALUATION (R445): only at Meridian values with bits 2:0 zero, channels in ascending order (R447). -/
def State.evaluateCompares (s : State) : State :=
  if s.time.running && decide (s.now.toNat % 8 = 0) then
    (List.range 56).foldl (fun s n => if s.compareDue n then s.fireCompare n else s) s
  else s

def execCompareEvaluation (dt : Nat) (s : State) : Host.Outcome State Fault Refusal :=
  .next (s.tick dt).evaluateCompares

/-! ### Capture -/

/-- CAPTURE_CHANNEL_SET (R449). -/
def captureChannelSetBody (c : Cmd) (_ : CmdRef) (s : State) : CmdRes := do
  let op := c.u8 0x08
  let ch := c.u8 0x09
  need (decide (op ≤ 1)) eRange 0x08
  c.reserved [(0x08, 8)]
  let own (n : Nat) := (s.captureCh n).owner
  if op = 1 then
    need (decide (ch ≤ 31)) eRange 0x09
    need (own ch = some c.tenant) eNotOwner 0x09
    okDone (s.setCapture ch {}) [word ch]
  else
    need (decide (ch ≤ 31) || ch = 0xFF) eRange 0x09
    let edge := c.u8 0x0A
    let pin := c.u16 0x0C
    let pre := c.u16 0x0E
    need (decide (1 ≤ edge) && decide (edge ≤ 3)) eRange 0x0A
    need (decide (pin ≤ 159)) eRange 0x0C
    need (decide (1 ≤ pre) && decide (pre ≤ 256)) eRange 0x0E
    let (n, _) ← chooseChannel c.tenant ch 32 4 own (need ((s.pin pin).owner = .tenant c.tenant) eNotOwner 0x0C)
    okDone (s.setCapture n
      { owner := some c.tenant, edge := edge, filter := c.u8 0x0B, pin := pin, prescale := pre
        level := (s.pin pin).ball }) [word n]

/-- Whether a tenant's event queue accepts another event (R74, R451). -/
def State.eventRoom (s : State) (t : Nat) : Bool :=
  match s.tenant? t with
  | none => false
  | some x => x.mbox.takesEvents && decide (x.mbox.events.length < 64)

/-- CAPTURE_EDGE for each queued capture that the owner's event queue accepts (R451). -/
def State.drainCapture (n : Nat) : Nat → State → State
  | 0, s => s
  | fuel + 1, s =>
    let x := s.captureCh n
    match x.owner, x.queue with
    | some t, (kind, at_) :: rest =>
      if s.eventRoom t then
        let s := s.setCapture n { x with queue := rest, lost := 0 }
        State.drainCapture n fuel
          (s.event t 0x0E02 ([word n, word kind] ++ words64 at_ ++ [word (min 0xFFFFFFFF x.lost)]))
      else s
    | _, _ => s

/-- An accepted edge is counted and, at a multiple of the prescaler, captured (R450, R451). -/
def CaptureCh.acceptEdge (x : CaptureCh) (kind : Nat) (at_ : Meridian) : CaptureCh :=
  if bitOf x.edge (kind - 1) then
    let n := x.edges + 1
    if n % x.prescale = 0 then
      if x.queue.length < 16 then { x with edges := n, queue := x.queue ++ [(kind, at_)] }
      else { x with edges := n, dropped := satInc 0xFFFF x.dropped 1, lost := x.lost + 1 }
    else { x with edges := n }
  else x

/-- One filter sample (R450). -/
def CaptureCh.sample (x : CaptureCh) (level : Bool) (now : Meridian) : CaptureCh :=
  if level = x.level then { x with runLen := 0 }
  else
    let at_ := if x.runLen = 0 then now else x.runAt
    if x.filter ≤ x.runLen then
      ({ x with level := level, runLen := 0, runAt := at_ } : CaptureCh).acceptEdge (if level then 1 else 2) at_
    else { x with runLen := x.runLen + 1, runAt := at_ }

/-- CAPTURE_FILTER_SAMPLE (R450): nothing is sampled while Meridian is stopped. -/
def State.captureSample (n : Nat) (level : Bool) (s : State) : State :=
  let x := s.captureCh n
  if !s.time.running || x.owner.isNone then s
  else (((s.modPin x.pin (fun p => { p with ball := level })).setCapture n (x.sample level s.now)).drainCapture n 16)

def execCaptureFilterSample (dt n : Nat) (level : Bool) (s : State) : Host.Outcome State Fault Refusal :=
  .next ((s.tick dt).captureSample n level)

/-- HELD_RECORD_WRITE (R70): records, then events, while slots are free and the CP runs; the freed event queue then takes
further captures (R451). -/
def State.heldWrite (t : Nat) (s : State) : State :=
  if s.cpRuns then
    let s := s.writeHeld t (s.heldCount t)
    ((List.range 32).filter (fun n => (s.captureCh n).owner = some t)).foldl (fun s n => s.drainCapture n 16) s
  else s

/-! ### PWM -/

/-- Whether a PWM unit's output is active (R452). -/
def Pwm.active (x : Pwm) : Bool := x.running && x.started && decide (x.count < x.cur.duty)

/-- The level a unit gives its pin (R452). -/
def Pwm.level (x : Pwm) : Bool := x.active != x.cur.polarity

/-- Drive a unit's pin with its level. -/
def State.drivePwm (n : Nat) (s : State) : State :=
  let x := s.pwmUnit n
  if x.owner.isSome then s.modPin x.cur.pin (fun p => { p with timerLevel := x.level }) else s

/-- A unit takes new settings, and its pins pass to and from the timer function. -/
def State.applyPwm (n : Nat) (x : Pwm) (s : State) : State :=
  let old := s.pwmUnit n
  let s := s.setPwm n x
  let s := if old.owner.isSome then s.settlePin old.cur.pin else s
  let s := if x.owner.isSome then s.settlePin x.cur.pin else s
  s.drivePwm n

/-- The settings that a PWM_SET asks for (R452). -/
def pwmSetOf (c : Cmd) : PwmSet :=
  let fl := c.u8 0x0A
  { enable := bitOf fl 0, polarity := bitOf fl 1, immediate := bitOf fl 2
    start := if bitOf fl 3 then some (BitVec.ofNat 64 (c.u64 0x18)) else none
    shift := c.u8 0x0B, pin := c.u16 0x0C, period := c.u32 0x10, duty := c.u32 0x14 }

/-- A unit that is free again; its flag stays until it is cleared (R9, Table 17.7). -/
def Pwm.freed (x : Pwm) : Pwm := { trunc := x.trunc }

/-- PWM_SET (R452, R453). A unit that still waits for its start time is in no cycle, so it takes a setting at once (assumption
46). -/
def pwmSetBody (c : Cmd) (_ : CmdRef) (s : State) : CmdRes := do
  let op := c.u8 0x08
  let u := c.u8 0x09
  let fl := c.u8 0x0A
  need (decide (op ≤ 1)) eRange 0x08
  need (decide (fl ≤ 15)) eBadCmd 0x0A
  c.reserved ([(0x08, 6), (0x10, 8)] ++ (if op = 0 ∧ !bitOf fl 3 then [] else [(0x18, 8)])) [(0x18, 8)]
  let own (n : Nat) := (s.pwmUnit n).owner
  if op = 1 then
    need (decide (u ≤ 15)) eRange 0x09
    need (own u = some c.tenant) eNotOwner 0x09
    let x := s.pwmUnit u
    if x.running && x.started then okDone (s.setPwm u { x with next := .free (bitOf fl 2) }) [word u]
    else okDone (s.applyPwm u x.freed) [word u]
  else
    need (decide (u ≤ 15) || u = 0xFF) eRange 0x09
    let p := pwmSetOf c
    need (decide (2 ≤ p.shift) && decide (p.shift ≤ 20)) eRange 0x0B
    need (decide (p.pin ≤ 159)) eRange 0x0C
    need (decide (2 ≤ p.period) && decide (p.period ≤ 65536)) eRange 0x10
    need (decide (p.duty ≤ 65536)) eRange 0x14
    let (n, fresh) ← chooseChannel c.tenant u 16 4 own
      (s.timerPin c.tenant p.pin none (if u = 0xFF then none else some u) 0x0C)
    let x := s.pwmUnit n
    if !fresh && x.running && x.started then okDone (s.setPwm n { x with next := .set p }) [word n]
    else okDone (s.applyPwm n { owner := some c.tenant, cur := p, running := p.enable, trunc := x.trunc }) [word n]

/-- Whether a tick that leaves the counter at `c` truncates the cycle: a setting that applies at once has a period that the
counter has reached (R453). -/
def Pwm.cutsShort (x : Pwm) (c : Nat) : Bool :=
  match x.next with
  | .set p => decide (c < x.cur.period) && p.immediate && decide (p.period ≤ c)
  | _ => false

/-- A unit after a tick that leaves its counter at `c` (R453): `c` is at the period where the cycle wraps. -/
def Pwm.advance (x : Pwm) (c : Nat) : Pwm :=
  let wrap := decide (x.cur.period ≤ c)
  match x.next with
  | .none => { x with count := if wrap then 0 else c }
  | .free imm => if imm || wrap then x.freed else { x with count := c }
  | .set p =>
    if wrap then { x with cur := p, next := .none, count := 0, running := p.enable, started := p.enable }
    else if p.immediate then
      let trunc := x.cutsShort c
      { x with
        cur := if trunc then p else { p with shift := x.cur.shift }
        next := if trunc || p.shift = x.cur.shift then .none else .set { p with immediate := false }
        count := if trunc then 0 else c
        trunc := x.trunc || trunc
        running := p.enable
        started := p.enable }
    else { x with count := c }

/-- PWM_TICK (R453): units stop with Meridian. -/
def State.pwmTick (n : Nat) (s : State) : State :=
  let x := s.pwmUnit n
  if !s.time.running || !x.running then s
  else if !x.started then
    match x.cur.start with
    | some t => if 0 ≤ meridianDiff s.now t then (s.setPwm n { x with started := true, count := 0 }).drivePwm n else s
    | none => (s.setPwm n { x with started := true, count := 0 }).drivePwm n
  else
    let s := s.applyPwm n (x.advance (x.count + 1))
    if x.cutsShort (x.count + 1) then s.hwMark (.pwmTrunc n) else s

def execPwmTick (dt n : Nat) (s : State) : Host.Outcome State Fault Refusal := .next ((s.tick dt).pwmTick n)

/-! ### Calendar arithmetic -/

/-- A leap year (R454). -/
def leapYear (y : Nat) : Bool := (y % 4 = 0 && y % 100 ≠ 0) || y % 400 = 0

/-- The days of a month. -/
def monthDays (y m : Nat) : Nat :=
  if m = 2 then (if leapYear y then 29 else 28) else if m = 4 ∨ m = 6 ∨ m = 9 ∨ m = 11 then 30 else 31

/-- The last instant the calendar reaches (R454). -/
def CalTime.last (t : CalTime) : Bool :=
  t.year = 2999 && t.month = 12 && t.day = 31 && t.hour = 23 && t.minute = 59 && t.second = 59 && t.subsec = 32767

/-- The next 1/32,768 s (R454). -/
def CalTime.succ (t : CalTime) : CalTime :=
  if t.subsec < 32767 then { t with subsec := t.subsec + 1 }
  else if t.second < 59 then { t with subsec := 0, second := t.second + 1 }
  else if t.minute < 59 then { t with subsec := 0, second := 0, minute := t.minute + 1 }
  else if t.hour < 23 then { t with subsec := 0, second := 0, minute := 0, hour := t.hour + 1 }
  else if t.day < monthDays t.year t.month then { t with subsec := 0, second := 0, minute := 0, hour := 0, day := t.day + 1 }
  else if t.month < 12 then
    { t with subsec := 0, second := 0, minute := 0, hour := 0, day := 1, month := t.month + 1 }
  else { year := t.year + 1, month := 1, day := 1, hour := 0, minute := 0, second := 0, subsec := 0 }

/-- A time as one number that orders times. -/
def CalTime.key (t : CalTime) : Nat :=
  (((((t.year * 16 + t.month) * 32 + t.day) * 24 + t.hour) * 60 + t.minute) * 60 + t.second) * 32768 + t.subsec

/-- The second of the day. -/
def CalTime.dayTime (t : CalTime) : Nat := (t.hour * 60 + t.minute) * 60 + t.second

/-- Days since 2000-01-01, whole years first. -/
def daysBefore (t : CalTime) : Nat :=
  let y := t.year - 2000
  let leaps := (y + 3) / 4 - (y + 99) / 100 + (y + 399) / 400
  y * 365 + leaps + (((List.range (t.month - 1)).map (fun m => monthDays t.year (m + 1))).sum) + (t.day - 1)

/-- The weekday, 0 Monday to 6 Sunday (R455); 2000-01-01 was a Saturday. -/
def CalTime.weekday (t : CalTime) : Nat := (daysBefore t + 5) % 7

/-- Words 0 and 1 of the calendar layout (R455). -/
def CalTime.words (t : CalTime) : List Word :=
  [word (t.year * 0x10000 + t.month * 0x100 + t.day), word (t.hour * 0x10000 + t.minute * 0x100 + t.second)]

/-- The result words of CALENDAR_SET (R455). -/
def State.calendarWords (s : State) (t : CalTime) : List Word :=
  t.words ++ [word t.subsec, word t.weekday] ++ words64 (if s.time.running then s.now else 0)

/-- Change the calendar. -/
def State.modCal (s : State) (f : Calendar → Calendar) : State := { s with time := { s.time with cal := f s.time.cal } }

/-- One edge of the calendar's own count (R454): it stops on reaching its last instant. -/
def Calendar.count (k : Calendar) : Calendar :=
  if k.ended then k
  else if k.time.last then { k with ended := true }
  else { k with time := k.time.succ, ended := k.time.succ.last }

/-- Whether the alarm fires at this edge, the calendar having stood at `before` (R456). -/
def Calendar.fires (k : Calendar) (before : CalTime) : Bool :=
  match k.alarm with
  | none => false
  | some a =>
    if a.daily then k.time.dayTime = a.at_.dayTime && before.dayTime ≠ a.at_.dayTime
    else decide (a.at_.key ≤ k.time.key)

/-- The commands that wait for the edge act on it, in order (R455). -/
def State.calendarCommands (s : State) : State :=
  let ws := s.time.cal.waiting
  let s := s.modCal (fun k => { k with waiting := [] })
  ws.foldl (fun s w =>
    let s := match w.2 with
      | some t => s.modCal (fun k => { k with time := t, valid := true, ended := false })
      | none => s
    s.completeOk w.1 (s.calendarWords s.time.cal.time)) s

/-- CALENDAR_SET (R455). -/
def calendarSetBody (c : Cmd) (r : CmdRef) (s : State) : CmdRes := do
  let op := c.u8 0x08
  need (decide (op ≤ 1)) eRange 0x08
  c.reserved ([(0x08, 1)] ++ (if op = 0 then [(0x09, 9)] else [])) [(0x0A, 2), (0x10, 2)]
  if op = 1 then .ok (s.modCal (fun k => { k with waiting := k.waiting ++ [(r, none)] }), .later)
  else
    let t : CalTime := ⟨c.u16 0x0A, c.u8 0x09, c.u8 0x0C, c.u8 0x0D, c.u8 0x0E, c.u8 0x0F, c.u16 0x10⟩
    need (decide (2000 ≤ t.year) && decide (t.year ≤ 2999)) eRange 0x0A
    need (decide (t.subsec ≤ 32767)) eRange 0x10
    need (decide (1 ≤ t.month) && decide (t.month ≤ 12)) eDate 0x09
    need (decide (1 ≤ t.day) && decide (t.day ≤ monthDays t.year t.month)) eDate 0x0C
    need (decide (t.hour ≤ 23)) eDate 0x0D
    need (decide (t.minute ≤ 59)) eDate 0x0E
    need (decide (t.second ≤ 59)) eDate 0x0F
    .ok (s.modCal (fun k => { k with waiting := k.waiting ++ [(r, some t)] }), .later)

/-- CALENDAR_ALARM_SET (R456). -/
def calendarAlarmSetBody (c : Cmd) (_ : CmdRef) (s : State) : CmdRes := do
  let op := c.u8 0x08
  let fl := c.u8 0x09
  need (decide (op ≤ 1)) eRange 0x08
  need (decide (fl ≤ 1)) eBadCmd 0x09
  let daily := bitOf fl 0
  c.reserved ([(0x08, 2), (0x0E, 3)] ++ (if daily then [] else [(0x0A, 4)])) [(0x0A, 2)]
  if op = 1 then
    need s.time.cal.valid eState
    okDone (s.modCal (fun k => { k with alarm := none })) []
  else
    let t : CalTime := if daily then ⟨2000, 1, 1, c.u8 0x0E, c.u8 0x0F, c.u8 0x10, 0⟩
      else ⟨c.u16 0x0A, c.u8 0x0C, c.u8 0x0D, c.u8 0x0E, c.u8 0x0F, c.u8 0x10, 0⟩
    need (decide (2000 ≤ t.year) && decide (t.year ≤ 2999)) eRange 0x0A
    need (decide (1 ≤ t.month) && decide (t.month ≤ 12)) eDate 0x0C
    need (decide (1 ≤ t.day) && decide (t.day ≤ monthDays t.year t.month)) eDate 0x0D
    need (decide (t.hour ≤ 23)) eDate 0x0E
    need (decide (t.minute ≤ 59)) eDate 0x0F
    need (decide (t.second ≤ 59)) eDate 0x10
    need s.time.cal.valid eState
    okDone (s.modCal (fun k => { k with alarm := some ⟨daily, t⟩ })) []

/-- The slow-counter edge's share of Meridian (R442): it stops, or resumes with its make-up. -/
def State.meridianEdge (s : State) : State :=
  let t := { s.time with slow := s.time.slow + 1 }
  let s := { s with time := t }
  if t.stopDue then
    { s with time := { t with running := false, stopDue := false, stopValue := s.now, stopSlow := t.slow } }
  else if t.resumeDue then
    { s with
      now := t.stopValue + 31250 * (t.slow - t.stopSlow)
      time := { t with
        running := true, resumeDue := false
        sleepSlow := word (min 0xFFFFFFFF (t.slow - t.stopSlow).toNat) } }
  else s

end Sys2Proof.Machine
end

