-- ==== Sys2Proof/Machine/Release.lean ====
section
/-! DEFINITION. What the destruction of a tenant releases (R53), step by step. -/

namespace Sys2Proof.Machine

/-- The threads of a tenant stop on a head (R261). -/
def State.stopThreads (h t : Nat) (s : State) : State :=
  let mine := (s.headTabs h).threads.filter (fun e => e.2.owner = t)
  mine.foldl (fun s e => (s.endDebug e.2).modThread h e.1 Thread.stop) s

/-- The planes and viewport of a tenant leave a head and its threads stop there (R53 step 3, R261), and a viewport change that
waits there ends. -/
def State.clearHead (h t : Nat) (s : State) : State :=
  let s := s.stopThreads h t
  let slots := ((s.head h).planes.filter (fun p => p.2.owner = t)).map Prod.fst
  let s := slots.foldl (fun s k => s.removePlane h k) s
  let waits := (s.head h).pendViews.filter (fun e => e.2.1 = t)
  let s := s.modHead h (fun x => { x with
    viewports := IMap.del x.viewports t, pendViews := x.pendViews.filter (fun e => e.2.1 != t) })
  waits.foldl (fun s e => s.completeOk e.1 []) s

/-- The heads that carry a plane or a viewport of a tenant. -/
def State.headsOf (s : State) (t : Nat) : List Nat :=
  (List.range 8).filter (fun h => (s.head h).views t || (s.head h).planes.any (fun p => p.2.owner = t) ||
    (s.head h).pendViews.any (fun e => e.2.1 = t))

/-- What a tenant owns on one head, other than planes and viewports, is released (R53 step 4, R124, R189, R209, R214,
R261, R303). -/
def State.releaseHead (h t : Nat) (s : State) : State :=
  let x := s.head h
  let s := s.freePalettes h t ((x.palettes.filter (fun e => e.2.owner = some t)).map Prod.fst)
  let s := s.modHead h (fun x => { x with
    luts := x.luts.map (fun e => if e.2.owner = some t then
      (e.1, if x.boundaries then { e.2 with owner := none, linear := true } else {}) else e)
    lists := x.lists.filter (fun e => e.2.owner != some t)
    frets := x.frets.filter (fun e => e.2.owner != t)
    stages := IMap.del x.stages t
    capture := match x.capture with
      | some k => if k.owner = t then (if k.frame.isNone then none else some { k with stop := some (k.stop.getD []) }) else some k
      | none => none })
  let s := ((x.frets.filter (fun e => e.2.owner = t)).map Prod.fst).foldl (fun s f => s.dropFret h f) s
  s.modTabs h (fun k => { k with
    threads := k.threads.filter (fun e => e.2.owner != t)
    writes := k.writes.filter (fun w => w.owner != t) })

/-- The timer channels of a tenant are freed (R444, R449, R452). -/
def State.releaseTimers (t : Nat) (s : State) : State :=
  let pins := (s.timers.compare.filter (fun e => e.2.owner = some t)).filterMap (fun e => e.2.pin.map Prod.snd) ++
    (s.timers.pwm.filter (fun e => e.2.owner = some t)).map (fun e => e.2.cur.pin)
  let s := { s with timers := {
    compare := s.timers.compare.filter (fun e => e.2.owner != some t)
    capture := s.timers.capture.filter (fun e => e.2.owner != some t)
    pwm := s.timers.pwm.filter (fun e => e.2.owner != some t) } }
  pins.foldl (fun s p => s.settlePin p) s

/-- A tenant's serial blocks are disabled and its pins go back to the CP (R490); a locked pin changes its owner alone
(R498). -/
def State.releasePins (t : Nat) (s : State) : State :=
  let mine := (List.range 160).filter (fun p => (s.pin p).owner = .tenant t)
  let s := { s with pins := { s.pins with
    arms := s.pins.arms.filter (fun a => a.tenant != t)
    block := s.pins.block.filter (fun e => !(blockPins e.1).any (fun p => mine.contains p)) } }
  mine.foldl (fun s p =>
    if (s.pin p).locked then (s.modPin p (fun x => { x with owner := .cp })).settlePin p
    else (s.modPin p (defaultPin .cp)).clearSource (320 + p)) s

/-- A tenant's voices, buses, lanes and audio captures are released (R53 step 4): the voices output zero. -/
def State.releaseAudio (t : Nat) (s : State) : State :=
  let s := s.modAudio (fun a => { a with
    buses := a.buses.map (fun (e : Nat × Bus) => (e.1, { e.2 with
      capture := match e.2.capture with
        | some k => if k.owner = t then (if k.live && !k.skip then some { k with stop := some (k.stop.getD []) } else none) else some k
        | none => none }))
    waits := a.waits.filter (fun w => w.ref.tenant != t) })
  let s := ((s.audio.voices.filter (fun e => e.2.owner = some t)).map Prod.fst).foldl (fun s v => s.freeVoice v) s
  let s := ((s.audio.lanes.filter (fun e => e.2.owner = some t)).map Prod.fst).foldl (fun s l => s.freeLane l) s
  ((s.audio.buses.filter (fun e => e.2.owner = some t)).map Prod.fst).foldl (fun s b => s.freeBus b) s

/-- Everything else that a tenant owns is released and its mappings are removed (R53 step 4). -/
def State.releaseTenant (t : Nat) (s : State) : State :=
  let s := (List.range 8).foldl (fun s h => s.releaseHead h t) s
  let s := (((s.releaseTimers t).releaseAudio t).releasePins t)
  let s := { s with
    dma := { s.dma with
      ch := s.dma.ch.filter (fun e => e.2.owner != some t)
      buckets := IMap.del s.dma.buckets t }
    banks := s.banks.map (fun (e : Nat × Bank) =>
      if e.2.cls = 1 ∧ e.2.inst = t then (e.1, { e.2 with cls := 0, inst := 0 }) else e)
    boot := { s.boot with grants := IMap.del s.boot.grants t }
    disp := { s.disp with undos := s.disp.undos.filter (fun u => u.ref.tenant != t) } }
  s.modTenant t (fun x => { x with atlas := [], subs := [], rates := [] })

/-- Step 3 of a tenant's destruction as far as it goes now (R53): the heads without boundaries are cleared, and once none is
awaited step 4 follows. -/
def State.clearHeads (t : Nat) (r : CmdRef) (n : Nat) (hs : List Nat) (s : State) : State :=
  let wait := hs.filter (fun h => (s.head h).boundaries)
  let s := (hs.filter (fun h => !(s.head h).boundaries)).foldl (fun s h => s.clearHead h t) s
  if wait.isEmpty then (s.releaseTenant t).modTenant t (fun x => { x with dying := .released r n })
  else s.modTenant t (fun x => { x with dying := .boundaries r n wait })

/-- Move a tenant's destruction on as far as it goes now (R53): step 3 once no command is in flight; step 4 once no boundary is
awaited. A head that carries neither planes nor viewports of the tenant is not awaited: the tenant's threads stop there at
once (R261). -/
def State.advanceDestroy (t : Nat) (s : State) : State :=
  match ((s.tenant? t).map (fun x => x.dying)).getD .no with
  | .draining r n =>
    if 0 < s.inFlight t then s
    else
      let hs := s.headsOf t
      let s := ((List.range 8).filter (fun h => !hs.contains h)).foldl (fun s h => s.stopThreads h t) s
      (hs.foldl (fun s h => s.endStill h) s).clearHeads t r n hs
  | .boundaries r n hs => s.clearHeads t r n hs
  | _ => s

/-- The tenants whose destruction has begun. -/
def State.dyingTenants (s : State) : List Nat := (s.tenants.filter (fun e => e.2.dying ≠ .no)).map Prod.fst

/-- The tenants whose destruction can go on go on (R53): where a command has ended, and with it the last that one waited for. -/
def State.advanced (s : State) : State := s.dyingTenants.foldl (fun s t => s.advanceDestroy t) s

/-- A head's compose boundary for the tenants being destroyed (R53 step 3); the second part says whether one acted. -/
def State.destroyAtBoundary (h : Nat) (s : State) : State × Bool :=
  let s := s.advanced
  let ts := s.tenants.filterMap (fun e => match e.2.dying with
    | .boundaries r n hs => if hs.contains h then some (e.1, r, n, hs) else none
    | _ => none)
  (ts.foldl (fun s e =>
    let (t, r, n, hs) := e
    ((s.clearHead h t).modTenant t (fun x => { x with dying := .boundaries r n (hs.filter (· != h)) })).advanceDestroy t) s,
    !ts.isEmpty)

end Sys2Proof.Machine
end

