-- ==== Sys2Proof/Machine/Dma.lean ====
section
/-! DEFINITION. The DMA engine (R466 to R475) and the blit engine (R476 to R481). -/

namespace Sys2Proof.Machine

/-- One step of a reflected CRC register over a bit already mixed in. -/
def crcShift (poly r : Nat) : Nat → Nat
  | 0 => r
  | n + 1 => crcShift poly (if r % 2 = 1 then (r / 2) ^^^ poly else r / 2) n

/-- A reflected CRC register after one byte. -/
def crcByte (poly r b : Nat) : Nat := crcShift poly (r ^^^ b) 8

/-- A reflected CRC register after a run of bytes. -/
def crcBytes (poly r : Nat) (bs : List Byte) : Nat := bs.foldl (fun r b => crcByte poly r b.toNat) r

/-- The reflected polynomials of CRC-32 (R36) and CRC-32C (R469). -/
def polyCrc32 : Nat := 0xEDB88320
def polyCrc32c : Nat := 0x82F63B78

/-- CRC-32 of a run of bytes (R36). -/
def crc32 (bs : List Byte) : Word := word (crcBytes polyCrc32 0xFFFFFFFF bs ^^^ 0xFFFFFFFF)

/-! ### Channels -/

/-- One DMA channel. -/
def State.dmaCh (s : State) (n : Nat) : DmaChannel := IMap.get s.dma.ch {} n

/-- Change one DMA channel. -/
def State.modDma (s : State) (n : Nat) (f : DmaChannel → DmaChannel) : State :=
  { s with dma := { s.dma with ch := IMap.put s.dma.ch n (f (s.dmaCh n)) } }

/-- Whether the DMA and blit engines run (R475, R433): in Drive and Service. -/
def State.enginesRun (s : State) : Bool :=
  (s.power.mode = .drive || s.power.mode = .service) && !s.power.pwrfail

/-- What a channel is doing (Table 18.11): one with work that does not wait for ring space is paused while the engines do not
run, and no longer once they do (R475). -/
def DmaChannel.shown (c : DmaChannel) (runs : Bool) : DmaState :=
  if c.jobs.isEmpty || c.state = .ring then c.state
  else if !runs then .paused else if c.state = .paused then .running else c.state

/-- DMA_CHANNEL_SET (R466). -/
def dmaChannelSetBody (c : Cmd) (_ : CmdRef) (s : State) : CmdRes := do
  let op := c.u8 0x08
  let ch := c.u8 0x09
  need (decide (op ≤ 1)) eRange 0x08
  c.reserved [(0x08, 3), (0x10, 16)]
  let own (n : Nat) := (s.dmaCh n).owner
  if op = 1 then
    need (decide (ch ≤ 47)) eRange 0x09
    need (own ch = some c.tenant) eNotOwner 0x09
    need (s.dmaCh ch).jobs.isEmpty eBusy
    okDone (s.modDma ch (fun _ => {})) [word ch]
  else
    need (decide (ch ≤ 47) || ch = 0xFF) eRange 0x09
    let lg := c.u8 0x0A
    let ring := c.u64 0x10
    let cons := c.u64 0x18
    need (decide (4 ≤ lg) && decide (lg ≤ 12)) eRange 0x0A
    need (decide (ring < assetSpace)) eRange 0x10
    need (decide (cons < assetSpace)) eRange 0x18
    need (ring % 4096 = 0) eAlign 0x10
    need (cons % 4 = 0) eAlign 0x18
    let mine := decide (ch ≠ 0xFF) && own ch = some c.tenant
    let held := ((List.range 48).filter (fun n => own n = some c.tenant)).length
    let quota := ((s.tenant? c.tenant).map (·.quotas.dma)).getD 0
    need (mine || decide (held < quota)) eQuota
    match (if ch = 0xFF then lowest 48 (fun n => (own n).isNone) else some ch) with
    | none => .error { status := eNoRes }
    | some n => do
      need ((own n).isNone || own n = some c.tenant) eNotOwner 0x09
      need (s.dmaCh n).jobs.isEmpty eBusy
      okDone (s.modDma n (fun _ => { owner := some c.tenant, log2 := lg, ring := ring, cons := cons })) [word n]

/-- A descriptor as it stands in memory (Table 18.7). -/
def readDescriptor (bs : List Byte) : Descriptor :=
  ⟨fieldU bs 0 8, fieldU bs 8 8, fieldU bs 0x10 4, fieldU bs 0x14 1, fieldU bs 0x15 1, fieldU bs 0x18 4, fieldU bs 0x1C 4⟩

/-- A descriptor with nothing outside Table 18.7, given the flags of the one before it in the list (R467, R469). -/
def descriptorOk (bs : List Byte) (before : Option Nat) : Bool :=
  let d := readDescriptor bs
  decide (d.op ≤ 2) && decide (d.flags ≤ 15) && decide (fieldU bs 0x16 2 = 0) &&
  decide (1 ≤ d.length) && decide (d.length ≤ 67108864) &&
  (d.op ≠ 1 || d.src = 0) && (d.op ≠ 2 || d.dst = 0) && (d.op = 1 || d.pattern = 0) &&
  (!bitOf d.flags 1 || (match before with | none => false | some f => bitOf f 0))

/-- A copy whose source and destination overlap in asset space (R467). -/
def Descriptor.overlaps (d : Descriptor) : Bool :=
  d.op = 0 && decide (d.src < d.dst + d.length) && decide (d.dst < d.src + d.length)

/-- The index of the first descriptor that fails Table 18.7. -/
def badDescriptor : Nat → Option Nat → List (List Byte) → Option Nat
  | _, _, [] => none
  | i, before, bs :: rest =>
    if descriptorOk bs before then badDescriptor (i + 1) (some (readDescriptor bs).flags) rest else some i

/-- A bucket's tokens at the present, not cut at its burst size (R474): what has come since the bucket was last told. -/
def Bucket.credit (b : Bucket) (now : Meridian) : Bucket :=
  { b with tokens := b.tokens + b.rate * (now - b.at_).toNat, at_ := now }

/-- A bucket cut at its burst size (R474). -/
def Bucket.cut (b : Bucket) : Bucket := { b with tokens := min (b.burst * 0x100000) b.tokens }

/-- A bucket filled up to the present (R474). -/
def Bucket.fill (b : Bucket) (now : Meridian) : Bucket := (b.credit now).cut

/-- A tenant's token bucket (R474). -/
def State.bucket (s : State) (t : Nat) : Bucket := IMap.get s.dma.buckets {} t

/-- Set a tenant's token bucket. -/
def State.setBucket (t : Nat) (b : Bucket) (s : State) : State :=
  { s with dma := { s.dma with buckets := IMap.put s.dma.buckets t b } }

/-- Whether a channel other than `n` holds work of a tenant: its requests, which no row tells one by one, come from the same
bucket, so the bucket is not cut at its burst size meanwhile (R474). -/
def State.sharesBucket (s : State) (n t : Nat) : Bool :=
  (List.range 48).any (fun m => decide (m ≠ n) && (s.dmaCh m).jobs.any (fun j => decide (j.ref.tenant = t)))

/-- Work comes for a tenant that had none: its bucket has filled meanwhile, and no further than its burst size (R474). -/
def State.openBucket (t : Nat) (s : State) : State :=
  if s.sharesBucket 48 t then s else s.setBucket t ((s.bucket t).fill s.now)

/-- DMA_SUBMIT (R467). -/
def dmaSubmitBody (c : Cmd) (r : CmdRef) (s : State) : CmdRes := do
  c.reserved [(0x08, 1), (0x0C, 12)]
  let ch := c.u8 0x08
  let n := c.u32 0x0C
  let a := c.u64 0x10
  need (decide (ch ≤ 47)) eRange 0x08
  need ((s.dmaCh ch).owner = some c.tenant) eNotOwner 0x08
  need (decide (1 ≤ n) && decide (n ≤ 4096)) eRange 0x0C
  need (decide (a + 32 * n ≤ assetSpace)) eRange 0x10
  need (a % 32 = 0) eAlign 0x10
  let bs ← readFor s c.tenant a (32 * n) 0x10
  let ds := chunks 32 bs
  match badDescriptor 0 none ds with
  | some i => .error { status := eRange, words := [word i] }
  | none =>
    let descs := ds.map readDescriptor
    match descs.findIdx? Descriptor.overlaps with
    | some i => .error { status := 0x0F01, words := [word i] }
    | none =>
      let job : DmaJob := ⟨r, descs, 0, 0, 0xFFFFFFFF, 0, 0, 0xFFFFFFFF, none⟩
      .ok (((s.noteAssetRead c.tenant a (32 * n)).openBucket c.tenant).modDma ch (fun x => { x with
        jobs := x.jobs ++ [job]
        state := if x.jobs.isEmpty then (if s.enginesRun then .running else .paused) else x.state }), .later)

/-- DMA_SHARE_SET (R474). -/
def dmaShareSetBody (c : Cmd) (_ : CmdRef) (s : State) : CmdRes := do
  c.reserved [(0x08, 8)]
  let t := c.u16 0x08
  let burst := c.u16 0x0A
  let rate := c.u32 0x0C
  need (decide (t ≤ 1023)) eRange 0x08
  need (decide (4 ≤ burst) && decide (burst ≤ 1024)) eRange 0x0A
  need (rate = 0 || (decide (100 ≤ rate) && decide (rate ≤ 32000))) eRange 0x0C
  need (s.exists_ t) 0x0102 0x08
  okDone (s.setBucket t { (s.bucket t).fill s.now with rate := rate, burst := burst }) []

/-- Take tokens for one request of a channel, of at most 64 bytes: none where the bucket does not hold 64 bytes (R474). -/
def State.takeTokens (s : State) (ch t n : Nat) : Option State :=
  let b := (s.bucket t).credit s.now
  let b := if s.sharesBucket ch t then b else b.cut
  if b.rate = 0 then some s
  else if b.tokens < 64 * 1024 then none
  else some (s.setBucket t { b with tokens := b.tokens - n * 1024 })

/-- A read of asset space ends at a fault: the errors that it met up to the 64-byte block of the fault count (R110, R111). -/
def State.noteTried (t a n : Nat) (f : AssetFault) (s : State) : State :=
  s.noteAssetRead t a (min n (f.addr - a + (64 - f.addr % 64)))

/-- What one request of a descriptor does: the state, its bytes, and the fault that stopped it with word 5 of R471. -/
def State.dmaMove (s : State) (t : Nat) (d : Descriptor) (done n : Nat) :
    State × List Byte × Option (AssetFault × Nat) :=
  if d.op = 1 then
    let bs := (List.range n).map (fun i => BitVec.ofNat 8 (d.pattern / 256 ^ ((done + i) % 4)))
    match s.assetWrite t (d.dst + done) bs with
    | (s', _, none) => (s', bs, none)
    | (s', k, some f) => (s', bs.take k, some (f, 1))
  else
    match s.assetRead t (d.src + done) n with
    | .error f => (s.noteTried t (d.src + done) n f, [], some (f, 0))
    | .ok bs =>
      let s := s.noteAssetRead t (d.src + done) n
      if d.op = 2 then (s, bs, none)
      else match s.assetWrite t (d.dst + done) bs with
        | (s', _, none) => (s', bs, none)
        | (s', k, some f) => (s', bs.take k, some (f, 1))

/-- The bytes of the next request of a descriptor: up to the next 64-byte boundary (R471, R475). -/
def Descriptor.nextRun (d : Descriptor) (done : Nat) : Nat :=
  let a := (if d.op = 1 then d.dst else d.src) + done
  min (d.length - done) (64 - a % 64)

/-- The 32 bytes of a DMA completion record (Table 18.8). -/
def dmaRecord (tag status index bytes crc : Nat) (time : Meridian) (cmd : Nat) (phase : Bool) : List Byte :=
  leBytes 4 tag ++ leBytes 2 status ++ leBytes 2 index ++ leBytes 4 bytes ++ leBytes 4 crc ++ leBytes 8 time.toNat ++
    leBytes 4 cmd ++ leBytes 3 0 ++ [if phase then 0x81 else 0x80]

/-- What comes of writing a DMA completion record (R470, R472). -/
inductive DmaPut where
  | written (s : State)
  | noRoom
  | fault (f : AssetFault)

/-- Write record number `count` of a channel, first reading how many the tenant has consumed (R470). -/
def State.dmaPut (s : State) (n t : Nat) (rec : Bool → List Byte) : DmaPut :=
  let x := s.dmaCh n
  match s.assetRead t x.cons 4 with
  | .error f => .fault f
  | .ok bs =>
    let size := 2 ^ x.log2
    if size ≤ (BitVec.ofNat 32 x.count - BitVec.ofNat 32 (leNat bs)).toNat then .noRoom
    else match s.assetWrite t (x.ring + 32 * (x.count % size)) (rec (x.count / size % 2 = 0)) with
      | (_, _, some f) => .fault f
      | (s', _, none) => .written (s'.modDma n (fun x => { x with count := x.count + 1 }))

/-- The errors in the word that tells how many records the tenant has consumed count at each read of it (R110, R470). -/
def State.noteCons (n t : Nat) (s : State) : State := s.noteAssetRead t (s.dmaCh n).cons 4

/-- A channel passes to its next DMA_SUBMIT. -/
def State.dmaNextJob (n : Nat) (s : State) : State :=
  s.modDma n (fun x =>
    let js := x.jobs.drop 1
    { x with jobs := js, state := if js.isEmpty then .idle else if s.enginesRun then .running else .paused })

/-- The result words of a DMA_SUBMIT (R471). -/
def DmaJob.words (j : DmaJob) : List Word :=
  [word j.index, word (j.total % 2 ^ 32), word (j.total / 2 ^ 32), j.lastCrc]

/-- The CRC field of a descriptor's record: the register complemented, 0 without flag bit 0 (R469). -/
def Descriptor.crcOut (d : Descriptor) (reg : Word) : Word := if bitOf d.flags 0 then reg ^^^ 0xFFFFFFFF else 0

/-- A DMA_SUBMIT ends with E_FAULT (R471, R472): `detail` and words 4 and 5 say where. -/
def State.dmaEnd (n : Nat) (j : DmaJob) (detail place : Nat) (s : State) : State :=
  (s.complete j.ref eFault detail (j.words ++ [word j.index, word place])).dmaNextJob n

/-- A fault ends a DMA_SUBMIT: ATLAS_FAULT tells of it (R109). -/
def State.dmaFail (n : Nat) (j : DmaJob) (f : AssetFault) (detail place : Nat) (s : State) : State :=
  (s.atlasFault j.ref.tenant f 0x030C 0).dmaEnd n j detail place

/-- Progress of the job at a channel's front. -/
def State.setJob (n : Nat) (j : DmaJob) (s : State) : State :=
  s.modDma n (fun x => { x with jobs := j :: x.jobs.drop 1 })

/-- A descriptor that has moved all its bytes writes its record, if any, and the next one starts (R468, R470). -/
def State.dmaFinish (n : Nat) (j : DmaJob) (d : Descriptor) (s : State) : State :=
  let t := j.ref.tenant
  let last := decide (j.descs.length ≤ 1)
  let crc := d.crcOut j.crc
  let records := bitOf d.flags 2 || last
  let s := if records then s.noteCons n t else s
  let put : DmaPut :=
    if records then
      s.dmaPut n t (dmaRecord d.tag eOk j.index d.length crc.toNat s.now j.ref.index.toNat)
    else .written s
  match put with
  | .noRoom => s.modDma n (fun x => { x with state := .ring })
  | .fault f => s.dmaFail n j f noField 2
  | .written s =>
    let s := if bitOf d.flags 3 then s.event t 0x0F01 [word n, word (s.dmaCh n).count] else s
    let j' : DmaJob := { j with
      descs := j.descs.drop 1, index := j.index + 1, done := 0, carry := j.crc
      crc := (match j.descs.drop 1 with
        | e :: _ => if bitOf e.flags 1 then j.crc else 0xFFFFFFFF
        | [] => 0xFFFFFFFF)
      lastCrc := crc }
    if last then (s.completeOk j.ref j'.words).dmaNextJob n
    else (s.setJob n j').modDma n (fun x => { x with state := .running })

/-- The record of a descriptor that a fault stopped (R471) carries E_FAULT and what it moved, and waits for ring space like any other
(R470); a fault of its own write is one more (R107, R109). -/
def State.dmaFaultRecord (n : Nat) (j : DmaJob) (d : Descriptor) (place : Nat) (s : State) : State :=
  let s := s.noteCons n j.ref.tenant
  match s.dmaPut n j.ref.tenant
      (dmaRecord d.tag eFault j.index j.done (d.crcOut j.crc).toNat s.now j.ref.index.toNat) with
  | .written x => x.dmaEnd n j 0x10 place
  | .fault f => s.dmaFail n j f 0x10 place
  | .noRoom => (s.setJob n { j with stopped := some place }).modDma n (fun x => { x with state := .ring })

/-- A descriptor stops on a fault (R471): it writes its record, if it writes one, and the rest of its list does not run. -/
def State.dmaStop (n : Nat) (j : DmaJob) (d : Descriptor) (e : AssetFault) (place : Nat) (s : State) : State :=
  let s := s.atlasFault j.ref.tenant e 0x030C 0
  if bitOf d.flags 2 || decide (j.descs.length ≤ 1) then s.dmaFaultRecord n j d place else s.dmaEnd n j 0x10 place

/-- One request of the descriptor in progress. The second part says whether the descriptor has moved all its bytes. -/
def State.dmaStep (n : Nat) (j : DmaJob) (d : Descriptor) (s : State) : State × Bool :=
  let t := j.ref.tenant
  let k := d.nextRun j.done
  let (s', bs, f) := s.dmaMove t d j.done k
  let j' := { j with
    done := j.done + bs.length, total := j.total + bs.length
    crc := word (crcBytes polyCrc32c j.crc.toNat bs) }
  match f with
  | some (e, place) => (s'.dmaStop n j' d e place, false)
  | none => (s'.setJob n j', decide (d.length ≤ j'.done))

/-- DMA_TOKEN_GRANT (R474): one 64-byte request of the channel's descriptor, once its tenant's bucket holds 64 bytes. -/
def State.dmaGrant (n : Nat) (s : State) : State :=
  let x := s.dmaCh n
  match x.jobs with
  | [] => s
  | j :: _ =>
    match j.descs with
    | [] => s
    | d :: _ =>
      if !s.enginesRun then s.modDma n (fun x => { x with state := .paused })
      else if x.state = .ring || decide (d.length ≤ j.done) then s
      else match s.takeTokens n j.ref.tenant (d.nextRun j.done) with
        | none => s.modDma n (fun x => { x with state := .tokens })
        | some s => ((s.modDma n (fun x => { x with state := .running })).dmaStep n j d).1

def execDmaTokenGrant (dt n : Nat) (s : State) : Host.Outcome State Fault Refusal := .next ((s.tick dt).dmaGrant n).advanced

/-- Tokens go with a request; none where the tenant's rate has no limit (R474). -/
def Bucket.spend (n : Nat) (b : Bucket) : Bucket := if b.rate = 0 then b else { b with tokens := b.tokens - n * 1024 }

/-- The requests that a descriptor still has to make. -/
def State.dmaRest (n : Nat) : Nat → State → State
  | 0, s => s
  | fuel + 1, s =>
    match (s.dmaCh n).jobs with
    | [] => s
    | j :: _ =>
      match j.descs with
      | [] => s
      | d :: _ =>
        if d.length ≤ j.done then s.dmaFinish n j d
        else
          let t := j.ref.tenant
          match (s.setBucket t ((s.bucket t).spend (d.nextRun j.done))).dmaStep n j d with
          | (s', true) => match (s'.dmaCh n).jobs with
            | j' :: _ => s'.dmaFinish n j' d
            | [] => s'
          | (s', false) =>
            match (s'.dmaCh n).jobs with
            | j' :: _ => if j'.ref = j.ref ∧ j'.index = j.index then State.dmaRest n fuel s' else s'
            | [] => s'

/-- Whether a tenant's bucket holds, or has held since it was last told, tokens for so many bytes (R474). -/
def Bucket.covers (b : Bucket) (n : Nat) : Bool := b.rate = 0 || decide (n * 1024 ≤ b.tokens)

/-- A descriptor's work is told: its tenant's bucket is cut at its burst size, unless another channel draws from it (R474). -/
def State.closeBucket (n t : Nat) (s : State) : State :=
  if s.sharesBucket n t then s else s.setBucket t (s.bucket t).cut

/-- DMA_DESCRIPTOR_COMPLETE (R468): the descriptor's remaining requests are made, its record is written and the next
one starts; a descriptor for whose bytes the tenant's tokens cannot have come by now goes on waiting for them (R474). -/
def State.dmaComplete (n : Nat) (s : State) : State :=
  let x := s.dmaCh n
  if !s.enginesRun || x.state = .ring then s
  else match x.jobs with
    | [] => s
    | j :: _ => match j.descs with
      | [] => s
      | d :: _ =>
        let t := j.ref.tenant
        let b := (s.bucket t).credit s.now
        if b.covers (d.length - j.done) then
          ((s.setBucket t b).dmaRest n (d.length / 64 + 3)).closeBucket n t
        else s.modDma n (fun x => { x with state := .tokens })

def execDmaDescriptorComplete (dt n : Nat) (s : State) : Host.Outcome State Fault Refusal :=
  .next ((s.tick dt).dmaComplete n).advanced

/-- DMA_RING_RECHECK (R470): a channel waiting for ring space rereads its cons_addr. -/
def State.dmaRecheck (n : Nat) (s : State) : State :=
  let x := s.dmaCh n
  if !s.enginesRun || x.state ≠ .ring then s
  else match x.jobs with
    | [] => s
    | j :: _ => match j.descs with
      | [] => s
      | d :: _ => match j.stopped with
        | some place => s.dmaFaultRecord n j d place
        | none => s.dmaFinish n j d

def execDmaRingRecheck (dt n : Nat) (s : State) : Host.Outcome State Fault Refusal := .next ((s.tick dt).dmaRecheck n).advanced

/-! ### Blit -/

/-- Bytes per pixel of a blit format (Table 18.10). -/
def blitBpp (f : Nat) : Nat := if f = 0 then 4 else if f = 1 then 2 else 1

/-- The first byte and the byte after the last of a rectangle of a surface (R476, R479). -/
def blitSpan (addr pitch bpp x y w h : Nat) : Nat × Nat :=
  (addr + y * pitch + x * bpp, addr + (y + h - 1) * pitch + (x + w) * bpp)

/-- A rectangle cut to a clip rectangle: first, count, and how much was cut in front. -/
def clipRun (d n cd cn : Nat) : Nat × Nat × Nat :=
  let a := max d cd
  let b := min (d + n) (cd + cn)
  (a, b - a, a - d)

/-- The bytes that a blit reads and the bytes that it writes, each as a first address and the one after the last (R478). -/
def BlitJob.spans (b : BlitJob) : (Nat × Nat) × (Nat × Nat) :=
  (blitSpan b.srcAddr b.srcPitch (blitBpp b.srcFormat) b.srcX b.srcY b.w b.h,
    blitSpan b.dstAddr b.dstPitch (blitBpp b.dstFormat) b.dstX b.dstY b.w b.h)

/-- A blit reads bytes that it writes. -/
def BlitJob.meets (b : BlitJob) : Bool :=
  decide (b.op ≠ 1) && decide (b.spans.1.1 < b.spans.2.2) && decide (b.spans.2.1 < b.spans.1.2)

/-- The blit that a BLIT_SUBMIT asks for, clipped; one that meets itself from below runs backwards (R476, R478). -/
def blitOf (c : Cmd) (r : CmdRef) : BlitJob :=
  let clip := bitOf (c.u8 0x09) 0
  let h := if clip then clipRun (c.u16 0x28) (c.u16 0x2C) (c.u16 0x30) (c.u16 0x34) else (c.u16 0x28, c.u16 0x2C, 0)
  let v := if clip then clipRun (c.u16 0x2A) (c.u16 0x2E) (c.u16 0x32) (c.u16 0x36) else (c.u16 0x2A, c.u16 0x2E, 0)
  let b : BlitJob :=
    { ref := r, op := c.u8 0x08, premul := bitOf (c.u8 0x09) 1, srcFormat := c.u8 0x0A, dstFormat := c.u8 0x0B
      srcPitch := c.u32 0x0C, srcAddr := c.u64 0x10, dstAddr := c.u64 0x18, dstPitch := c.u32 0x20
      srcX := c.u16 0x24 + h.2.2, srcY := c.u16 0x26 + v.2.2, dstX := h.1, dstY := v.1, w := h.2.1, h := v.2.1
      colour := c.u32 0x38, alpha := c.u8 0x3C, backwards := false }
  { b with backwards := b.meets && decide (b.spans.1.1 < b.spans.2.1) }

/-- BLIT_SUBMIT (R476 to R479). -/
def blitSubmitBody (c : Cmd) (r : CmdRef) (s : State) : CmdRes := do
  let op := c.u8 0x08
  let fl := c.u8 0x09
  need (decide (op ≤ 2)) eRange 0x08
  need (decide (fl ≤ 3)) eBadCmd 0x09
  c.reserved ([(0x08, 2), (0x0B, 1), (0x18, 12), (0x28, 0x14)] ++
    (if op = 1 then [] else [(0x0A, 1), (0x0C, 12), (0x24, 4)]) ++ (if op = 2 then [(0x3C, 1)] else [])) [(0x0C, 4), (0x10, 8), (0x24, 2), (0x26, 2)]
  let sf := c.u8 0x0A
  let df := c.u8 0x0B
  let sp := c.u32 0x0C
  let sa := c.u64 0x10
  let da := c.u64 0x18
  let dp := c.u32 0x20
  let w := c.u16 0x2C
  let h := c.u16 0x2E
  let colour := c.u32 0x38
  let src := decide (op ≠ 1)
  need (!src || decide (sf ≤ 2) && (op ≠ 2 || sf = 0) && (op ≠ 0 || sf = df)) eRange 0x0A
  need (decide (df ≤ 2) && (op ≠ 2 || decide (df ≤ 1))) eRange 0x0B
  need (decide (1 ≤ w) && decide (w ≤ 8192)) eRange 0x2C
  need (decide (1 ≤ h) && decide (h ≤ 8192)) eRange 0x2E
  need (op ≠ 1 || decide (colour < 2 ^ (8 * blitBpp df))) eRange 0x38
  need (!src || decide (w * blitBpp sf ≤ sp)) eRange 0x0C
  need (decide (w * blitBpp df ≤ dp)) eRange 0x20
  need (!src || sa % blitBpp sf = 0) eAlign 0x10
  need (!src || sp % blitBpp sf = 0) eAlign 0x0C
  need (da % blitBpp df = 0) eAlign 0x18
  need (dp % blitBpp df = 0) eAlign 0x20
  let job := blitOf c r
  if job.w = 0 ∨ job.h = 0 then okDone s [0, 0, 0]
  else
    need (!job.meets || (sf = df && sp = dp)) 0x0F02
    .ok ({ s with dma := { s.dma with blits := s.dma.blits ++ [job] } }, .later)

/-- BLIT_START (R481): the next accepted blit starts once the engine is free. -/
def State.blitStart (s : State) : State :=
  if s.dma.blitRun.isSome || !s.enginesRun then s
  else match s.dma.blits with
    | [] => s
    | j :: rest => { s with dma := { s.dma with blitRun := some j, blits := rest } }

def execBlitStart (dt : Nat) (s : State) : Host.Outcome State Fault Refusal := .next (s.tick dt).blitStart

/-- Rounded 8-bit product (R480). -/
def mul8 (x k : Nat) : Nat := (x * k + 127) / 255

/-- Blend one pixel (R480): source ARGB8888, destination in its format; the answer is in the destination's format. -/
def blitPixel (premul : Bool) (alpha df s d : Nat) : Nat :=
  let comp (v i : Nat) := v / 256 ^ i % 256
  let sa := comp s 3
  let pre (i : Nat) := if i = 3 ∨ premul then comp s i else mul8 (comp s i) sa
  let src (i : Nat) := mul8 (pre i) alpha
  let dst (i : Nat) : Nat :=
    if df = 0 then comp d i
    else
      let b5 := d % 32
      let g6 := d / 32 % 64
      let r5 := d / 2048 % 32
      if i = 0 then b5 * 8 + b5 / 4 else if i = 1 then g6 * 4 + g6 / 16 else if i = 2 then r5 * 8 + r5 / 4 else 255
  let out (i : Nat) := min 255 (src i + mul8 (dst i) (255 - src 3))
  if df = 0 then out 0 + 0x100 * out 1 + 0x10000 * out 2 + 0x1000000 * out 3
  else (out 0 * 31 + 127) / 255 + 32 * ((out 1 * 63 + 127) / 255) + 2048 * ((out 2 * 31 + 127) / 255)

/-- The bytes that one row of a blit writes, from its source bytes and the destination's old bytes. -/
def BlitJob.row (j : BlitJob) (src dst : List Byte) : List Byte :=
  let db := blitBpp j.dstFormat
  if j.op = 0 then src
  else if j.op = 1 then (List.replicate j.w (leBytes db j.colour)).flatten
  else ((chunks 4 src).zip (chunks db dst)).flatMap
    (fun p => leBytes db (blitPixel j.premul j.alpha j.dstFormat (leNat p.1) (leNat p.2)))

/-- The offset of the address field that a read at an asset address comes from (R81, R481): a blend reads its destination too. -/
def BlitJob.offsetOf (j : BlitJob) (a : Nat) : Nat :=
  let within (r : Nat × Nat) : Bool := decide (r.1 ≤ a) && decide (a < r.2)
  if j.op = 2 && within j.spans.2 && !within j.spans.1 then 0x18 else 0x10

/-- The pixels of a row's next run, `done` of them done: as many as lie in the 64-byte block of the destination and in that of the
source where it goes on, to the right or backwards to the left (R475, R479). -/
def BlitJob.runOf (j : BlitJob) (sa da done : Nat) : Nat :=
  let inBlock (a bpp : Nat) : Nat :=
    if j.backwards then ((a + (j.w - done) * bpp - 1) % 64 + 1) / bpp else (64 - (a + done * bpp) % 64) / bpp
  let n := inBlock da (blitBpp j.dstFormat)
  min (j.w - done) (max 1 (if j.op = 1 then n else min n (inBlock sa (blitBpp j.srcFormat))))

/-- Carry out what a row still has to do, run by run in the blit's direction (R479), from its source address and its destination
address: the state, the pixels written, and the fault with the detail offset of its side (R481). -/
def State.blitRow (t : Nat) (j : BlitJob) (sa da : Nat) : Nat → Nat → State → State × Nat × Option (AssetFault × Nat)
  | 0, done, s => (s, done, none)
  | fuel + 1, done, s =>
    if j.w ≤ done then (s, done, none)
    else
      let sb := blitBpp j.srcFormat
      let db := blitBpp j.dstFormat
      let n := j.runOf sa da done
      let x := if j.backwards then j.w - done - n else done
      let r := sa + x * sb
      let d := da + x * db
      let src := if j.op = 1 then .ok [] else s.assetRead t r (n * sb)
      let old := if j.op = 2 then s.assetRead t d (n * db) else .ok []
      match src, old with
      | .error f, _ => (s.noteTried t r (n * sb) f, done, some (f, 0x10))
      | .ok _, .error f => ((s.noteAssetRead t r (n * sb)).noteTried t d (n * db) f, done, some (f, 0x18))
      | .ok a, .ok b =>
        let s := if j.op = 1 then s else s.noteAssetRead t r (n * sb)
        let s := if j.op = 2 then s.noteAssetRead t d (n * db) else s
        match s.assetWrite t d (BlitJob.row { j with w := n } a b) with
        | (s', k, some f) => (s', done + k / db, some (f, 0x18))
        | (s', _, none) => State.blitRow t j sa da fuel (done + n) s'

/-- Carry out the rows of a blit in its direction (R479): the state, the pixels written, the rows completed, and the
fault with the detail offset of its side (R481). -/
def State.blitRows (t : Nat) (j : BlitJob) : Nat → Nat → State → State × Nat × Nat × Option (AssetFault × Nat)
  | 0, done, s => (s, done * j.w, done, none)
  | left + 1, done, s =>
    let i := if j.backwards then left else j.h - 1 - left
    let da := j.dstAddr + (j.dstY + i) * j.dstPitch + j.dstX * blitBpp j.dstFormat
    let sa := j.srcAddr + (j.srcY + i) * j.srcPitch + j.srcX * blitBpp j.srcFormat
    match s.blitRow t j sa da j.w 0 with
    | (s', k, some f) => (s', done * j.w + k, done, some f)
    | (s', _, none) => State.blitRows t j left (done + 1) s'

/-- BLIT_DONE (R481): the running blit's last write is accepted and its record formed. -/
def State.blitDone (s : State) : State :=
  match s.dma.blitRun with
  | none => s
  | some j =>
    if !s.enginesRun then s
    else
      let (s', px, rows, f) := s.blitRows j.ref.tenant j j.h 0
      let s' := { s' with dma := { s'.dma with blitRun := none } }
      let ws := [word px, word rows, if j.backwards then 1 else 0]
      match f with
      | none => s'.completeOk j.ref ws
      | some (e, off) => (s'.atlasFault j.ref.tenant e 0x030D 0).complete j.ref eFault off ws

def execBlitDone (dt : Nat) (s : State) : Host.Outcome State Fault Refusal := .next (s.tick dt).blitDone.advanced

end Sys2Proof.Machine
end

