-- ==== Sys2Proof/Machine/Boundary.lean ====
section
/-! DEFINITION. The compose boundary (R16, R204 to R208, R279, R286 to R291, R318) and the composer's lines (R15, R204,
R207, R263, R291, R295). -/

namespace Sys2Proof.Machine

/-! ### Takeover at a boundary (R16 step 1 and 2, R339, R341, R344) -/

/-- A donor gives up its cluster at its own boundary and is held from then on (R341). Where it does not serve with an Active
cluster any more, the takeover chooses again. -/
def State.donate (h : Nat) (s : State) : State :=
  match s.disp.takeovers.find? (fun t => t.donor = some h && decide (0 ≤ meridianDiff s.now t.after)), (s.head h).cluster with
  | some t, some n =>
    if s.mayDonate h then
      let s := (s.setService n .spare (some h) 6).modCluster n (fun k => { k with head := none })
      let s := s.modHead h (fun x => { x with
        cluster := none, held := true
        comp := { x.comp with running := false, busy := false, zeroIssued := false } })
      s.modDisp (fun d => { d with takeovers := (d.takeovers.map (fun k =>
        if k = t then { k with new := some n, donor := none, after := s.now } else k)) ++
        [⟨h, none, some n, s.now, none⟩] })
    else (s.modDisp (fun d => { d with takeovers := d.takeovers.filter (fun k => k != t) })).chooseAgain t
  | some t, none => (s.modDisp (fun d => { d with takeovers := d.takeovers.filter (fun k => k != t) })).chooseAgain t
  | none, _ => s

/-- The 64-byte blocks of a head's frame-store line. -/
def Head.lineBlocks (x : Head) : Nat := roundUp (8 * x.hA) 64 / 64

/-- The old cluster lets go of a head that a new one takes (R269, R344): a Suspect one is quarantined. -/
def State.leaveCluster (h n : Nat) (old : Option Nat) (s : State) : State :=
  match old with
  | none => s
  | some m =>
    let s := if (s.cluster m).service = Service.suspect && (s.cluster m).head = some h then s.quarantine m 2 else s
    let s := s.moveBanks h m n
    if (s.cluster m).head = some h then s.modCluster m (fun k => { k with head := none }) else s

/-- The new cluster of a head begins to serve it: the epoch increments (R16), a line that the old one had in progress keeps
its epoch (R96), and the tab threads restart. -/
def State.joinCluster (h n : Nat) (s : State) : State :=
  let s := (s.assignCluster h n 5).devEvent 2
  let s := s.modHead h (fun x => { x with
    epoch := (x.epoch + 1) % 0x10000, held := false, orphaned := false
    fallbackOn := if x.orphaned then x.fallback else x.fallbackOn
    last := {}, cur := {}, ended := none
    comp := { x.comp with
      running := false, busy := false, lastCrc := none, equal := 0, zeroIssued := false, line := []
      stale := if x.comp.busy then x.comp.stale ++ [⟨x.comp.epoch, x.lineBlocks⟩] else x.comp.stale } })
  s.restartTabs h n

/-- The takeover of a head, when one is ready (R339); a chosen cluster that is Spare no more is not given. The second part says
whether one happened. -/
def State.takeOver (h : Nat) (s : State) : State × Bool :=
  match s.disp.takeovers.find? (fun t => t.head = h && t.new.isSome && decide (0 ≤ meridianDiff s.now t.after)) with
  | none => (s, false)
  | some t =>
    match t.new with
    | none => (s, false)
    | some n =>
      let s := s.modDisp (fun d => { d with takeovers := d.takeovers.filter (fun k => k != t) })
      if (s.cluster n).service = .spare then ((s.leaveCluster h n t.old).joinCluster h n, true)
      else (s.chooseAgain t, false)

/-! ### Committed state (R16 step 3) -/

/-- A list slot of a tenant as its commit leaves it (R209): op 1 frees it, but for one for which the tenant has loaded another
list since. -/
def applyList (t : Nat) (again : Nat → Bool) (m : IMap ListSlot) (e : Nat × Option (List LLine)) : IMap ListSlot :=
  if (IMap.get m {} e.1).owner ≠ some t then m
  else match e.2 with
    | some ls => IMap.put m e.1 { owner := some t, lines := ls }
    | none => if again e.1 then IMap.put m e.1 { owner := some t } else IMap.del m e.1

/-- What a tenant has brought for a head and has not applied there: its accepted commits and its stage. -/
def State.unapplied (s : State) (h t : Nat) : List Stage :=
  ((s.waitingStages h).filter (fun e => e.1 = t)).map Prod.snd ++ [(s.head h).stage t]

/-- Whether a PLANE_SET of the owner that has not applied needs a polyphase scaler for a plane, so that the reservation goes
on (R163). -/
def State.polyWanted (s : State) (h slot owner : Nat) : Bool :=
  (s.unapplied h owner).any (fun g => ((IMap.find? g.planes slot).bind (fun p => p.params)).any (·.needsPoly))

/-- Whether a tenant has loaded a list for a slot that has not applied. -/
def State.listAgain (s : State) (h t slot : Nat) : Bool :=
  (s.unapplied h t).any (fun g => match IMap.find? g.lists slot with | some (some _) => true | _ => false)

/-- The committed state of a tenant on a head takes what a commit brings (R118, R163, R187, R197, R209, R261). -/
def State.applyStage (h t : Nat) (g : Stage) (s : State) : State :=
  let again := s.listAgain h t
  let wanted (slot : Nat) : Bool := s.polyWanted h slot t
  let s := s.modHead h (fun x => { x with
    planes := x.planes.map (fun (e : Nat × Plane) =>
      match IMap.find? g.planes e.1 with
      | none => e
      | some gp =>
        if e.2.owner ≠ t then e
        else (e.1, { e.2 with
          content := gp.over e.2.content
          poly := match gp.params with
            | none => e.2.poly
            | some q => if q.needsPoly || wanted e.1 then e.2.poly else none }))
    palettes := g.palettes.foldl (fun m e =>
      IMap.adjust m e.1 (fun p => if p.owner = some t then { p with words := e.2 } else p)) x.palettes
    luts := g.luts.foldl (fun m e =>
      IMap.adjust m e.1 (fun l => if l.owner = some t then { l with table := e.2 } else l)) x.luts
    lists := g.lists.foldl (applyList t again) x.lists
    postNext := g.post.or x.postNext
    ditherNext := g.dither.or x.ditherNext })
  g.tabs.foldl (fun s e => s.applyTab h e.1 e.2) s

/-! ### The way back of a commit group (R347) -/

/-- What a group finds on a member head before it applies. -/
def Head.undoFor (x : Head) (ref : CmdRef) (h : Nat) (g : Stage) : Undo where
  ref := ref
  head := h
  group := g
  planes := (x.planes.filter (fun e => (IMap.find? g.planes e.1).isSome)).map (fun e => (e.1, e.2.content))
  polys := x.planes.filterMap (fun e =>
    if (IMap.find? g.planes e.1).isSome then e.2.poly.map (fun i => (e.1, i)) else none)
  inverse := {
    palettes := g.palettes.map (fun e => (e.1, (x.palette e.1).words))
    luts := g.luts.map (fun e => (e.1, (x.lut e.1).table))
    lists := g.lists.map (fun e => (e.1, some (x.listSlot e.1).lines))
    post := if g.post.isSome then some (x.postNext.getD x.post) else none
    dither := if g.dither.isSome then some (x.ditherNext.getD (x.depth, x.dmode)) else none }

/-- A later commit of the tenant applies on the head: the items that it sets stay out of the ways back of earlier groups. -/
def State.supersede (h t : Nat) (g : Stage) (s : State) : State :=
  (s.modDisp (fun d => { d with undos := d.undos.map (fun u => if u.head = h && u.ref.tenant = t then { u with
    group := u.group.without g, inverse := u.inverse.without g } else u) })).modTabs h (fun k => { k with
      kept := if s.disp.undos.any (fun u => u.head = h && u.ref.tenant = t) then IMap.lacking k.kept g.tabs else k.kept })

/-- A group's way back on one head: the old committed state returns and the group's state is staged again, under what the
issuer has staged since. -/
def State.rollHead (h : Nat) (u : Undo) (s : State) : State :=
  let t := u.ref.tenant
  let s := s.modHead h (fun x => { x with
    planes := x.planes.map (fun (e : Nat × Plane) => match IMap.find? u.planes e.1, IMap.find? u.group.planes e.1 with
      | some c, some g => (e.1, { e.2 with
          content := g.undo c e.2.content, poly := e.2.poly.or (IMap.find? u.polys e.1) })
      | _, _ => e)
    lists := u.inverse.lists.foldl (fun m e =>
      if (IMap.get m {} e.1).owner.isSome then m else IMap.put m e.1 { owner := some t }) x.lists })
  let s := s.applyStage h t u.inverse
  let s := s.modTabs h (fun k => { k with
    threads := (k.kept.filter (fun e => (IMap.find? u.group.tabs e.1).isSome)).foldl (fun m e =>
      IMap.put m e.1 (if e.2.running then e.2.restart e.2.set else e.2)) k.threads })
  s.modStage h t (fun g => g.merge u.group)

/-- Whether a group's way back is closed: all its members have applied, and none has failed to acknowledge within 2 µs. -/
def Undo.closed (u : Undo) (now : Meridian) : Bool :=
  !u.back && (match u.doneAt with | none => false | some t => decide (ticksOfUs 2 ≤ (now - t).toNat))

/-- The rollbacks that a head's boundary carries out, the newest group first; the second part says whether there was one. -/
def State.rollAtBoundary (h : Nat) (s : State) : State × Bool :=
  let us := (s.disp.undos.filter (fun u => u.head = h && u.back)).reverse
  let s := us.foldl (fun s u => s.rollHead h u) s
  let s := s.modDisp (fun d => { d with undos := d.undos.filter (fun u => u.head != h || !(u.back || u.closed s.now)) })
  (if s.disp.undos.any (fun u => u.head = h) then s else s.modTabs h (fun k => { k with kept := [] }), !us.isEmpty)

/-! ### Commits at a boundary (R286 to R289) -/

/-- Whether a commit has reached its boundary on a head (R286): none where it must still wait, otherwise whether it is
late there. -/
def Commit.readyAt (k : Commit) (h : Nat) (now nominal : Meridian) (deadline : Nat) (missed : Bool) : Option Bool :=
  if k.wait.contains h then none
  else if (match k.notBefore with | none => false | some nb => decide (meridianDiff now nb < 0)) then none
  else if 1 < k.members.length then some k.late
  else if missed then some true
  else if decide ((ticksOfUs deadline : Int) ≤ meridianDiff nominal k.at_) then some false
  else none

/-- The record of a commit whose last member has applied (R289). -/
def State.finishCommit (k : Commit) (s : State) : State :=
  match k.members with
  | [] => s
  | m :: _ =>
    (s.complete k.ref (if k.late then eLate else eOk) noField
      ([m.frame] ++ words64 m.time ++ [if k.late then 1 else 0])).modDisp (fun d => { d with
        commits := d.commits.filter (fun c => c.ref != k.ref)
        undos := d.undos.map (fun u => if u.ref = k.ref then { u with doneAt := some s.now } else u) })

/-- One accepted commit at a head's boundary for frame `f`; the second part says whether it applied. -/
def State.commitAt (h : Nat) (f : Word) (k : Commit) (s : State) : State × Bool :=
  match k.members.find? (fun m => m.head = h && !m.applied), (s.head h).timing with
  | some m, some t =>
    let set (k' : Commit) (s : State) : State :=
      s.modDisp (fun d => { d with commits := d.commits.map (fun c => if c.ref = k.ref then k' else c) })
    if 1 < k.members.length ∧ s.disp.groupHeld k.ref then
      (set { k with late := true, wait := k.members.map (·.head) } s, false)
    else match k.readyAt h s.now (s.head h).nominal t.deadline m.missed with
    | none =>
      let nbPassed := match k.notBefore with | none => true | some nb => decide (0 ≤ meridianDiff s.now nb)
      let k' := { k with
        wait := if nbPassed then k.wait.erase h else k.wait
        late := k.late || (nbPassed && k.members.length == 1 && !k.wait.contains h)
        members := k.members.map (fun j => if j.head = h then
          { j with missed := j.missed || (nbPassed && !k.wait.contains h) } else j) }
      (set k' s, false)
    | some late =>
      let s := s.supersede h k.ref.tenant m.stage
      let s := if 1 < k.members.length then
          let s := m.stage.tabs.foldl (fun s e => s.keepThread h e.1) s
          s.modDisp (fun d => { d with undos := d.undos ++ [{ (s.head h).undoFor k.ref h m.stage with at_ := s.now }] })
        else s
      let s := s.applyStage h k.ref.tenant m.stage
      let k' := { k with
        late := late
        members := k.members.map (fun j => if j.head = h then
          { j with applied := true, frame := f, time := s.now, stage := {} } else j) }
      let s := set k' s
      (if k'.members.all (·.applied) then s.finishCommit k' else s, true)
  | _, _ => (s, false)

/-- Every accepted commit at a head's boundary, in the order of acceptance (R287). -/
def State.commitsAt (h : Nat) (f : Word) (s : State) : State × Bool :=
  s.disp.commits.foldl (fun (acc : State × Bool) k =>
    let (s', b) := acc.1.commitAt h f k
    (s', acc.2 || b)) (s, false)

/-- Definitions and removals of cells whose boundary has come (R318). -/
def State.cellsAt (h : Nat) (s : State) : State × Bool :=
  let x := s.head h
  let dl := ticksOfUs ((x.timing.map (·.deadline)).getD 0)
  let ready (w : CellWait) : Bool := decide ((dl : Int) ≤ meridianDiff x.nominal w.at_)
  let now := x.cellWaits.filter ready
  let s := s.modHead h (fun x => { x with
    cellWaits := x.cellWaits.filter (fun w => !ready w)
    cells := now.foldl (fun m w => match w.set with
      | none => IMap.del m w.cell
      | some k => IMap.put m w.cell k) x.cells })
  (now.foldl (fun s w => s.completeOk w.ref []) s, !now.isEmpty)

/-- Viewport changes (R57). -/
def State.viewsAt (h : Nat) (s : State) : State × Bool :=
  let ps := (s.head h).pendViews
  let s := s.modHead h (fun x => { x with
    pendViews := []
    viewports := ps.foldl (fun m e =>
      if e.2.2.w = 0 ∨ e.2.2.h = 0 then IMap.del m e.2.1 else IMap.put m e.2.1 e.2.2) x.viewports })
  (ps.foldl (fun s e => s.completeOk e.1 []) s, !ps.isEmpty)

/-- Planes whose destruction was pending (R119). -/
def State.destroysAt (h : Nat) (s : State) : State × Bool :=
  let ds := (s.head h).planes.filterMap (fun e => e.2.dying.map (fun r => (e.1, r)))
  (ds.foldl (fun s e => (s.removePlane h e.1).completeOk e.2 []) s, !ds.isEmpty)

/-- The first boundary under a new timing (R279, R57, R206, R322): what the new area cuts is cut, regions outside it go
and the others restart their counters, and the records are written. -/
def State.newTimingAt (h : Nat) (s : State) : State :=
  let x := s.head h
  match x.timing with
  | none => s
  | some t =>
    if x.timingRecs.isEmpty then s
    else
      let s := s.modHead h (fun x =>
        let x := x.cutTo t
        { x with
          timingRecs := []
          regions := (x.regions.filter (fun e => e.2.set.bound.isSome || e.2.set.rect.inside t.hA t.vA)).map (fun e =>
            (e.1, { e.2 with miss := 0, u := 0, prev := none })) })
      x.timingRecs.foldl (fun s r => s.completeOk r []) s

/-- Frame-lock roles that take effect at a head's boundary (R26, R296): the head that becomes the reference takes that place
from another, and role 0 on the reference releases the heads locked to it. DEDUCED (assumption 69): where the reference moves
to another head, the heads locked to it follow the new one. -/
def State.lockRole (h role : Nat) (t0 : Dword) (s : State) : State :=
  let free := role = 0 && refRole (s.head h).lock.role
  let others := (List.range 8).filter (fun k => k != h &&
    ((refRole role && refRole (s.head k).lock.role) || (free && (s.head k).lock.role = 4)))
  let s := others.foldl (fun s k => s.modHead k (fun x => { x with lock := { pend := x.lock.pend } })) s
  s.modHead h (fun x => { x with lock := { role := role, t0 := t0, pend := x.lock.pend } })

/-- The first changes of a head's timing that wait, up to one that is not of the deadline alone (R279). -/
def Head.deadlineChanges (x : Head) : List (Option CmdRef × TimingChange) := x.pendTiming.takeWhile (fun e => e.2.deadlineOnly)

/-- Deadline-only timing changes, the Still policy and the frame-lock role apply at the boundary (R279, R290, R26); with a
timing change the dither phase returns to 0 for the next frame (R200). -/
def State.policiesAt (h : Nat) (s : State) : State × Bool :=
  let x := s.head h
  let dls := x.deadlineChanges
  let s := s.modHead h (fun x => { x with
    timing := (dls.getLast?.bind (fun e => e.2.after)).or x.timing
    pendTiming := x.pendTiming.drop dls.length, phaseReset := x.phaseReset || !dls.isEmpty
    pendStill := [], lock := { x.lock with pend := [] } })
  let s := (dls.filterMap Prod.fst).foldl (fun s r => s.completeOk r []) s
  let s := x.pendStill.foldl (fun s p =>
    (s.modHead h (fun x => { x with stillOn := p.2.1, stillFrames := p.2.2.1, vrrMin := p.2.2.2 })).completeOk p.1 []) s
  let s := x.lock.pend.foldl (fun s p => (s.lockRole h p.2.1 p.2.2).completeOk p.1 []) s
  (s, !dls.isEmpty || !x.pendStill.isEmpty || !x.lock.pend.isEmpty)

/-- Released palettes and transfer slots return to their free content (R124, R189), before anything commits to them anew; the
second part says whether a release acted. -/
def State.releasesAt (h : Nat) (s : State) : State × Bool :=
  let x := s.head h
  (s.modHead h (fun x => { x with
    palettes := x.palettes.map (fun e => if e.2.zero then (e.1, { e.2 with words := [], zero := false }) else e)
    luts := x.luts.map (fun e => if e.2.linear then (e.1, { e.2 with table := [], linear := false }) else e) }),
    x.palettes.any (fun e => e.2.zero) || x.luts.any (fun e => e.2.linear))

/-- The values in force return to the committed ones (R126, R145). -/
def State.installCommitted (h : Nat) (s : State) : State :=
  s.modHead h (fun x => { x with
    palettes := x.palettes.map (fun e => (e.1, { e.2 with live := e.2.words }))
    planes := x.planes.map (fun e => (e.1, { e.2 with live := e.2.content.params })) })

/-! ### Lead (R16 step 4, R206 to R208) -/

/-- The rules 1 to 3 of R208 on the margin of the last composed frame. -/
def LeadState.adjust (l : LeadState) (margin : Option Int) : LeadState :=
  match margin with
  | none => l
  | some m =>
    if m < 8 then { l with lead := Nat.min l.max ((l.lead : Int) + 8 - m).toNat, calm := 0 }
    else if 16 ≤ m then
      if 32 ≤ l.calm + 1 then { l with lead := Nat.max l.min (l.lead - 1), calm := 0 } else { l with calm := l.calm + 1 }
    else { l with calm := 0 }

/-- Rule 4 of R208: the bounds and the governor's cap. -/
def LeadState.clamp (l : LeadState) : LeadState :=
  { l with lead := if l.capped then l.min else clampNat l.min l.max l.lead }

/-- New lead bounds take effect (R206), within what a timing that has changed since leaves. -/
def State.takeBounds (h : Nat) (s : State) : State :=
  let ps := (s.head h).lead.pend
  let s := s.modHead h (fun x => { x with lead := (ps.foldl (fun (l : LeadState) p =>
    { l with min := min p.2.1 (x.vT - 16), max := min p.2.2 (x.vT - 16) }) { x.lead with pend := [] }) })
  ps.foldl (fun s p => s.completeOk p.1 []) s

/-- Lead adjustment at a boundary. -/
def State.leadAt (h : Nat) (s : State) : State :=
  let s := s.takeBounds h
  s.modHead h (fun x => { x with
    lead := ({ x.lead with capped := x.level = 2 }.adjust (x.comp.lastMargin.map Prod.fst)).clamp
    comp := { x.comp with lastMargin := none } })

/-! ### The composer -/

/-- How many lines the beam has gone since it entered line 0 of frame `f`, negative before that. -/
def Head.beamPlace (x : Head) (f : Word) : Int := (x.frames - f).toInt * x.vT + x.line

/-- Whether the beam allows the composer to start line `y` of frame `f` (R204). -/
def Head.beamAllows (x : Head) (f : Word) (y : Nat) : Bool := decide ((y : Int) ≤ x.beamPlace f + x.lead.lead)

/-- The compose boundary of frame `g` becomes due (R205), where it has not been before: a head at level 2 passes every second
one over (R356). -/
def State.makeDue (h : Nat) (g : Word) (nominal : Meridian) (s : State) : State :=
  let x := s.head h
  if x.lastDue = some g then s
  else if x.level = 2 && x.parity && !x.held && x.wakeAt.isNone then
    s.modHead h (fun x => { x with parity := false, lastDue := some g, comp := { x.comp with kept := some g } })
  else s.modHead h (fun x => { x with parity := true, lastDue := some g, due := x.due ++ [(g, nominal)] })

/-- Where a new lead leaves the due line of the frame after `f` behind the beam, its boundary is due at once (R205, R208). -/
def State.dueBehind (h : Nat) (f : Word) (s : State) : State :=
  let x := s.head h
  match x.timing with
  | none => s
  | some t =>
    let past := x.beamPlace f - x.dueLine
    if x.due.isEmpty && x.lastDue = some f && decide (0 ≤ past) then
      s.makeDue h (f + 1) (x.lineAt - BitVec.ofNat 64 (t.lineTicks past.toNat))
    else s

/-- Frets with source composer that a line's start fires, in ascending order (R215). -/
def State.fireComposer (h y : Nat) (s : State) : State :=
  (s.head h).frets.foldl (fun s e => match e.2.cur with
    | some k =>
      if k.armed && k.composer && k.line = y then
        let s := if k.oneShot then s.modHead h (fun x => { x with
          frets := IMap.adjust x.frets e.1 (fun f => { f with cur := some { k with armed := false } }) }) else s
        (s.lineMatch h e.1 e.2.owner y).fireFast h e.1 e.2.owner
      else s
    | none => s) s

/-- The composer starts line `y` (R204, R212, R215, R263). -/
def State.startLine (h y : Nat) (s : State) : State :=
  let x := s.head h
  let s := s.fireComposer h y
  let s := if y + 1 < x.vA then s.issueWakes h (y + 1) (s.tabSlots h)
    else (s.issueWakes h 0 (s.tabSlots h)).modHead h (fun x => { x with comp := { x.comp with zeroIssued := true } })
  let s := (s.applyLists h y).applyTabWrites h y
  let (s, px) := s.composePixels h y
  s.modHead h (fun x => { x with comp := { x.comp with busy := true, line := px, cuts := [], epoch := x.epoch } })

/-- Settings of composer frets that take effect at a boundary (R215). -/
def State.composerFrets (h : Nat) (s : State) : State :=
  s.modHead h (fun x => { x with frets := x.frets.map (fun e =>
    match e.2.next with
    | some k => if k.composer then (e.1, { e.2 with cur := some k, next := none }) else e
    | none => e) })

/-- The frames of unchanged picture that lead to Still state (R290, R356). -/
def Head.stillNeed (x : Head) : Option Nat :=
  if x.level = 1 then some 2 else if x.stillOn then some x.stillFrames else none

/-- Whether a head enters Still state at a boundary where nothing applied (R291). -/
def State.entersStill (s : State) (h : Nat) (quiet : Bool) : Bool :=
  let x := s.head h
  quiet && !s.tabsRun h && x.pendTiming.isEmpty && x.pendStill.isEmpty && x.lock.pend.isEmpty && x.cellWaits.isEmpty &&
    (match x.stillNeed with | none => false | some n => decide (n ≤ x.comp.equal))

/-- The composer starts a frame at its boundary (R205, R263). `calm`: nothing applied there that R291 counts against
the frame. `wakeSlots` are the threads whose line-0 wake has not been issued yet. DEDUCED (assumption 68): at a boundary that
comes after the beam has entered line 0, the frame is clipped by the cells that it is merged with, those latched at line 0. -/
def State.startFrame (h : Nat) (f : Word) (late calm : Bool) (wakeSlots : List Nat) (s : State) : State :=
  let s := s.modHead h (fun x => { x with
    state := .composing, still := false
    clip := if late then x.shown.map (·.rect) else x.cells.map (fun e => e.2.rect)
    comp := { x.comp with
      frame := f, prev := (x.comp.frame, x.comp.done), next := 0, busy := false, running := true, done := 0, kept := none
      margin := none, crc := 0xFFFFFFFF, disturbed := !calm, line := [], waitZero := false, zeroIssued := false } })
  let s := s.issueWakes h 0 wakeSlots
  if s.wakeOpen h 0 then s.modHead h (fun x => { x with comp := { x.comp with waitZero := true } }) else s.startLine h 0

/-- Changes of the encoding act at once at a boundary that comes after the beam has entered line 0 (R197, R200). -/
def Head.encodeNow (x : Head) : Head :=
  { x with
    post := x.postNext.getD x.post, postNext := none
    depth := (x.ditherNext.map Prod.fst).getD x.depth, dmode := (x.ditherNext.map Prod.snd).getD x.dmode
    phase := if x.ditherNext.isSome || x.phaseReset then 0 else x.phase, ditherNext := none, phaseReset := false }

/-- The last of a compose boundary (R16): in Tell nothing is composed (R415), a held head keeps its frame (R341), and otherwise
the head enters Still state or starts composing frame `f`. `issued`: the line-0 wakes of all but the threads started at this
boundary have been issued. -/
def State.beginFrame (h : Nat) (f : Word) (late tell quiet calm issued : Bool) (s : State) : State :=
  if tell then s
  else if (s.head h).held then s.modHead h (fun x => { x with comp := { x.comp with kept := some f } })
  else if !s.served h then s
  else if s.entersStill h quiet then
    s.modHead h (fun x => { x with still := true, state := .still, comp := { x.comp with kept := some f } })
  else
    let s := s.composerFrets h
    let s := s.startFrame h f late calm (if issued then (s.headTabs h).started else s.tabSlots h)
    if late then s.modHead h Head.encodeNow else s

/-- Whether a head's boundary for its first due frame is taken now (R204, R263): the frame before is complete, and its line-0
wakes have ended. -/
def State.boundaryReady (s : State) (h : Nat) : Bool :=
  let x := s.head h
  x.boundaries && !x.comp.running && !(x.comp.busy && s.served h) &&
    !(s.served h && s.power.mode ≠ .tell && s.wakeOpen h 0) && (x.state = .composing || x.state = .still)

/-- Step 3 of R16: the destruction of tenants and planes, releases, the way back of groups, and everything that commits and
platform commands bring. The parts after the state say whether something applied that R291 counts, and whether anything
else did. -/
def State.applyCommitted (h : Nat) (f : Word) (tell : Bool) (s : State) : State × Bool × Bool :=
  let (s, q1) := s.destroyAtBoundary h
  let (s, q2) := s.destroysAt h
  let (s, q8) := s.releasesAt h
  let (s, q3) := s.rollAtBoundary h
  let (s, q4) := if tell then (s, false) else s.commitsAt h f
  let (s, q5) := s.viewsAt h
  let (s, q6) := s.cellsAt h
  let (s, q7) := s.policiesAt h
  let first := !(s.head h).timingRecs.isEmpty
  ((s.newTimingAt h).installCommitted h, q1 || q3 || q4 || q5, q2 || q6 || q7 || q8 || first)

/-- COMPOSE_BOUNDARY (R16): the first boundary that is due is taken when its composer can start. -/
def State.boundary (h : Nat) (s : State) : State :=
  match (s.head h).due with
  | [] => s
  | (f, nominal) :: rest =>
    if !s.boundaryReady h then s
    else
      let tell := decide (s.power.mode = .tell)
      let issued := (s.head h).comp.zeroIssued
      let s := s.modHead h (fun x => { x with due := rest, nominal := nominal, wakeAt := none })
      let s := s.modTabs h (fun k => { k with started := [] })
      let (s, tk) := (s.donate h).takeOver h
      let (s, counts, other) := s.applyCommitted h f tell
      let s := (s.leadAt h).dueBehind h f
      let s := s.modHead h (fun x => { x with last := x.ended.getD x.last, ended := none })
      let calm := !(tk || counts)
      let late := decide (0 ≤ ((s.head h).frames - f).toInt)
      s.beginFrame h f late tell (calm && !other) calm (issued && !tk)

def execComposeBoundary (dt h : Nat) (s : State) : Host.Outcome State Fault Refusal := .next ((s.tick dt).boundary h).advanced

/-- COMPOSER_LINE_START (R204, R263). -/
def State.composerStart (h : Nat) (s : State) : State :=
  let x := s.head h
  if !x.comp.running || x.comp.busy || !(s.served h) || !decide (x.comp.next < x.vA) || s.wakeOpen h x.comp.next ||
      !x.beamAllows x.comp.frame x.comp.next then s
  else (s.modHead h (fun x => { x with comp := { x.comp with waitZero := false } })).startLine h x.comp.next

def execComposerLineStart (dt h : Nat) (s : State) : Host.Outcome State Fault Refusal := .next ((s.tick dt).composerStart h)

/-- The margin of a line that completes now (R207): whole lines until the beam enters it, less the part of a line that
has passed, rounded down. -/
def Head.marginOf (x : Head) (t : Timing) (f : Word) (y : Nat) (now : Meridian) : Int :=
  (y : Int) - x.beamPlace f - (ceilDiv ((now - x.lineAt).toNat * t.rate) (t.hTotal * 1024000000) : Nat)

/-- The frame-store bytes of a composed line, in whole 64-byte blocks (R95). -/
def rowBytes (px : List Nat) : List Byte :=
  let bs := px.flatMap (fun p => leBytes 8 p)
  bs ++ List.replicate (roundUp bs.length 64 - bs.length) 0

/-- The events at the end of a composed frame (R143, R147, R193, R213, R268). -/
def State.frameEvents (h : Nat) (s : State) : State :=
  let f := (s.head h).cur
  let s := f.ovfOwners.foldl (fun s e =>
    s.notify 0x0301 h [word h, word e.2.w0, word e.2.w1, word e.2.w2, word f.ovfLines] (· = e.1)) s
  let s := f.dataErr.foldl (fun s e =>
    match IMap.find? (s.head h).planes e.1 with
    | none => s
    | some p => s.event p.owner 0x0302 [word (handleOf p.gen h e.1), word e.2.w0, word (min 0xFFFFFFFF e.2.count),
        word (e.2.w2 % 0x10000 * 0x10000 + e.2.w1 % 0x10000)]) s
  let s := f.overOwners.foldl (fun s e =>
    s.notify 0x0501 h [word h, word e.2.w0, word (min 0xFFFFFFFF e.2.count),
      word (e.2.w2 % 0x10000 * 0x10000 + e.2.w1 % 0x10000)] (· = e.1)) s
  let s := f.orphans.foldl (fun s e =>
    s.notify 0x0602 e.1 [word h, word e.1, word e.2.count, word e.2.w0] (· = e.2.w1)) s
  let s := f.tabOver.foldl (fun s e =>
    match s.thread? h e.1 with
    | none => s
    | some k => s.notify 0x0702 (k.handle h e.1)
        [word (k.handle h e.1), word e.2.count, word e.2.w0, if k.set.carry then 1 else 0] (· = k.owner)) s
  f.tabIgn.foldl (fun s e =>
    match s.thread? h e.1 with
    | none => s
    | some k => s.notify 0x0703 (k.handle h e.1)
        [word (k.handle h e.1), word e.2.count, word e.2.w0, word e.2.w1] (· = k.owner)) s

/-- The last active line of a frame is complete (R207, R291, R295): the frame's counters are shown from the next boundary on
(R148), but for the evaluator's overflow, which its cluster keeps. -/
def State.frameDone (h : Nat) (s : State) : State :=
  let x := s.head h
  let m := (x.comp.margin.map Prod.fst).getD 0
  let crc := x.comp.crc ^^^ 0xFFFFFFFF
  let s := s.notify 0x0802 h ([word h, x.comp.frame] ++ words64 s.now ++ [wordI m]) (s.seesHead h)
  let s := s.frameEvents h
  let s := match x.cluster with
    | none => s
    | some n => s.modCluster n (fun k => { k with ovf := x.cur.ovfFirst.or k.ovf })
  s.modHead h (fun x => { x with
    ended := some x.cur, cur := {}
    comp := { x.comp with
      running := false
      lastMargin := x.comp.margin, shownMargin := x.comp.margin
      lastCrc := some crc
      equal := if x.comp.disturbed then 0 else if x.comp.lastCrc = some crc && decide (0 < x.comp.equal) then x.comp.equal + 1 else 1 } })

/-- Writes that the stacked DRAM controller drops are counted (R96, R342). -/
def Head.fence (x : Head) (blocks : Nat) : Head := { x with fenced := satInc 0xFFFF x.fenced blocks }

/-- COMPOSER_LINE_COMPLETE (R15, R95, R96, R207, R291, R342): a line of a replaced cluster carries an old epoch, and one of a
Quarantined or Retired cluster is dropped whatever its epoch. -/
def State.lineComplete (h : Nat) (s : State) : State :=
  let x := s.head h
  match x.timing, x.comp.stale with
  | none, _ => s
  | some _, k :: rest =>
    s.modHead h (fun x =>
      let x := if k.epoch = x.epoch then x else x.fence k.blocks
      { x with comp := { x.comp with stale := rest } })
  | some t, [] =>
    if !x.comp.busy then s
    else
      let y := x.comp.next
      let bs := rowBytes x.comp.line
      if !s.served h || x.comp.epoch ≠ x.epoch then
        s.modHead h (fun x => { x.fence (bs.length / 64) with comp := { x.comp with busy := false, line := [] } })
      else
        let s := s.physWrite (frameStore h + y * storePitch t.hA) bs
        let m := x.marginOf t x.comp.frame y s.now
        let s := s.modHead h (fun x => { x with comp := { x.comp with
          busy := false, line := [], next := y + 1, done := y + 1
          crc := word (crcBytes polyCrc32 x.comp.crc.toNat bs)
          margin := match x.comp.margin with
            | none => some (m, y)
            | some b => if m < b.1 then some (m, y) else some b } })
        if y + 1 = t.vA then s.frameDone h else s

def execComposerLineComplete (dt h : Nat) (s : State) : Host.Outcome State Fault Refusal :=
  .next ((s.tick dt).lineComplete h)

end Sys2Proof.Machine
end

