-- ==== Sys2Proof/Machine/Beam.lean ====
section
/-! DEFINITION. The beam and the scan engine (R203, R282 to R284, R292 to R295), the Cartouche merge (R315, R316, R320,
R321), watch regions and their reactions (R322 to R330), and head capture (R297 to R303). -/

namespace Sys2Proof.Machine

/-! ### Entry into line 0 -/

/-- Every copy of an image in the store. -/
def State.imageCopies (s : State) : List CImage :=
  (s.disp.cart.images.map Prod.snd) ++ s.disp.cart.replaces.map (·.new)

/-- The copy of an image that a head shows (R315): the old one until the head has switched. -/
def State.imageFor (s : State) (h i : Nat) : Option CImage :=
  match s.disp.cart.replaces.reverse.find? (fun r => r.image = i && !r.heads.contains h) with
  | some r => some r.new
  | none => IMap.find? s.disp.cart.images i

/-- A replacement that every head has switched to takes the old image's place (R315). -/
def State.finishReplaces (s : State) : State :=
  let done := s.disp.cart.replaces.filter (fun r => r.heads.isEmpty)
  let s := s.modDisp (fun d => { d with cart := { d.cart with
    images := done.foldl (fun m r => IMap.put m r.image r.new) d.cart.images
    replaces := d.cart.replaces.filter (fun r => !r.heads.isEmpty) } })
  done.foldl (fun s r => s.completeOk r.ref []) s

/-- A head switches to the new copies of replaced images (R315). -/
def State.switchImages (h : Nat) (s : State) : State :=
  (s.modDisp (fun d => { d with cart := { d.cart with
    replaces := d.cart.replaces.map (fun r => { r with heads := r.heads.filter (· != h) }) } })).finishReplaces

/-- The state a cell shows for a frame whose line 0 is entered at a time (R320). -/
def Cell.stateAt (k : Cell) (now : Meridian) : Nat :=
  if k.blink then
    let p := (k.onMs + k.offMs) * 1024000
    if (now - k.at_).toNat % max 1 p < k.onMs * 1024000 then k.state else k.blinkState
  else k.state

/-- What every cell of a head shows for the frame (R320, R316). -/
def State.latchCells (h : Nat) (s : State) : State :=
  let s := s.modHead h (fun x => { x with cells := x.cells.map (fun e =>
    if e.2.newly then (e.1, { e.2 with at_ := s.now, newly := false }) else e) })
  let shown := (s.head h).cells.map (fun e =>
    let st := e.2.stateAt s.now
    let i := e.2.images.getD st 255
    let img := if i = 255 then none else match s.imageFor h i with
      | none => none
      | some m => if m.damaged then none else some (i, m.format, m.pages)
    (⟨e.1, e.2.rect, e.2.fill, st, img⟩ : Shown))
  s.modHead h (fun x => { x with shown := shown })

/-- Whether a command of a ring stands before another (R71). -/
def CmdRef.before (a b : CmdRef) : Bool := decide (0 < (b.index - a.index).toInt)

/-- One change of R319, R322 or R325 applies. A definition of the cell that was processed before and still waits takes the new
state as well; one processed later keeps its own (R317). -/
def Head.applyLineZero (x : Head) (now : Meridian) (ref : CmdRef) : LineZero → Head
  | .cellState c st blink bs on off =>
    let f (k : Cell) : Cell := { k with
      state := st, blink := blink, blinkState := bs, onMs := on, offMs := off, at_ := now }
    { x with
      cells := IMap.adjust x.cells c f
      cellWaits := x.cellWaits.map (fun w => if w.cell = c ∧ w.ref.before ref then { w with set := w.set.map f } else w) }
  | .region r none => { x with regions := IMap.del x.regions r, reactions := IMap.del x.reactions r }
  | .region r (some g) => { x with regions := IMap.put x.regions r { set := g } }
  | .refs r rs => { x with regions := IMap.adjust x.regions r (fun k => { k with refs := some rs, miss := 0 }) }

/-- The waiting changes whose entry has come. -/
def State.lineZeroChanges (h : Nat) (s : State) : State :=
  let ready (w : LineZeroWait) : Bool := decide (0 ≤ meridianDiff s.now w.after)
  let ws := (s.head h).lineZero.filter ready
  let soon (w : LineZeroWait) : Bool := decide (meridianDiff s.now (w.at_ + BitVec.ofNat 64 (ticksOfUs 100)) < 0)
  let s := s.modHead h (fun x => ws.foldl (fun x w => x.applyLineZero s.now w.ref w.change)
    { x with lineZero := (x.lineZero.filter (fun w => !ready w)).map (fun w => { w with porchDue := w.porchDue && soon w }) })
  ws.foldl (fun s w => s.completeOk w.ref []) s

/-! ### Capture (R298 to R303) -/

/-- Change a head's capture. -/
def State.modCapture (h : Nat) (f : Capture → Capture) (s : State) : State :=
  s.modHead h (fun x => { x with capture := x.capture.map f })

/-- The end of a captured frame: CAPTURE_FRAME, the page count, and a stop that waited (R301 to R303). -/
def State.captureEvent (h : Nat) (s : State) : State :=
  match (s.head h).capture with
  | none => s
  | some k =>
    match k.frame with
    | none => s
    | some f =>
      match f.status with
      | none => s
      | some st =>
        let covers := ((s.tenant? k.owner).map (fun x => x.covers 0x0804 h)).getD false
        let s := if covers then s.eventStatus k.owner 0x0804 st
            ([word h, f.frame, word f.page, word f.written, word k.skippedSince] ++ words64 f.time) else s
        let s := s.modCapture h (fun k => { k with
          pw := k.pw + word (ceilDiv f.written 4096), frame := none, skippedSince := 0 })
        match k.stop with
        | none => s
        | some rs => rs.foldl (fun s r => s.completeOk r []) (s.modHead h (fun x => { x with capture := none }))

/-- A captured frame is skipped (R299, R300). -/
def State.captureSkip (h : Nat) (s : State) : State :=
  (s.modCapture h (fun k => { k with skippedSince := k.skippedSince + 1 })).modHead h (fun x => { x with
    capSkipped := satInc 0xFFFF x.capSkipped 1 })

/-- A capture begins its frame at line 0, where the ring has room (R297, R299, R300). -/
def State.captureBegin (h : Nat) (s : State) : State :=
  let s := s.captureEvent h
  match (s.head h).capture with
  | none => s
  | some k =>
    let s := s.modCapture h (fun k => { k with phase := (k.phase + 1) % k.decimate })
    if k.phase ≠ 0 ∨ k.stop.isSome ∨ k.rect.w = 0 ∨ k.rect.h = 0 then s
    else match s.assetRead k.owner k.cons 4 with
      | .error f => (s.atlasFault k.owner f 0x0202 h).captureSkip h
      | .ok bs =>
        let s := s.noteAssetRead k.owner k.cons 4
        let used := (k.pw - word (leNat bs)).toNat
        if used + capturePages k.rect ≤ k.pages then
          s.modCapture h (fun k => { k with
            frame := some { frame := (s.head h).frames, time := s.now, page := k.pw.toNat % k.pages } })
        else s.captureSkip h

/-- Write the whole 64-byte blocks of what a frame has gathered (R299, R301): an Atlas fault abandons the rest. -/
def State.captureFlush (h : Nat) : Nat → State → State
  | 0, s => s
  | fuel + 1, s =>
    match (s.head h).capture with
    | none => s
    | some k =>
      match k.frame with
      | none => s
      | some f =>
        if f.status.isSome ∨ f.tail.length < 64 then s
        else
          let page := (f.page + f.written / 4096) % k.pages
          let (s', n, e) := s.assetWrite k.owner (k.ring + page * 4096 + f.written % 4096) (f.tail.take 64)
          match e with
          | some a =>
            (s.atlasFault k.owner a 0x0202 h).modHead h (fun x => { x with
              capTruncated := satInc 0x7FFF x.capTruncated 1
              capture := x.capture.map (fun k => { k with frame := some { f with status := some eFault, tail := [] } }) })
          | none =>
            State.captureFlush h fuel (s'.modCapture h (fun k => { k with
              frame := some { f with written := f.written + n, tail := f.tail.drop 64 } }))

/-- Free bytes, `n` of them (assumption 5). -/
def State.freeBytes : Nat → State → List Byte × State
  | 0, s => ([], s)
  | n + 1, s =>
    let (v, s) := s.fresh
    let (bs, s) := State.freeBytes n s
    (BitVec.ofNat 8 v :: bs, s)

/-- The pixels of a line reach a capture (R298); the last row ends the frame. -/
def State.captureLine (h y : Nat) (px : List Nat) (s : State) : State :=
  let x := s.head h
  match x.capture with
  | none => s
  | some k =>
    match k.frame with
    | none => s
    | some f =>
      if f.status.isSome ∨ y < k.rect.y ∨ k.rect.y + k.rect.h ≤ y then s
      else
        let hide (c : Nat) : Bool := decide (2 ≤ k.owner) &&
          (x.shown.any (fun e => e.rect.has c y) || x.viewports.any (fun v => v.1 ≠ k.owner && v.2.has c y))
        let cols := (List.range k.rect.w).map (fun i => k.rect.x + i)
        let bs := cols.flatMap (fun c => leBytes 4 (if hide c then 0 else px.getD c 0))
        let last := decide (y + 1 = k.rect.y + k.rect.h)
        let all := f.tail ++ bs
        let (pad, s) := if last then s.freeBytes (roundUp all.length 64 - all.length) else ([], s)
        let s := s.modCapture h (fun k => { k with frame := some { f with tail := all ++ pad } })
        let s := s.captureFlush h ((all.length + pad.length) / 64 + 1)
        if last then s.modCapture h (fun k => { k with frame := k.frame.map (fun f =>
          if f.status.isNone then { f with status := some eOk, tail := [] } else f) })
        else s

/-- CAPTURE_FRAME (R302). -/
def execCaptureFrame (dt h : Nat) (s : State) : Host.Outcome State Fault Refusal := .next ((s.tick dt).captureEvent h).advanced

/-- CAPTURE_WRITE_STALL (R301): the rest of the frame is abandoned at the next 64-byte boundary of its data, which is
where the writes stand. -/
def State.captureStall (h : Nat) (s : State) : State :=
  match (s.head h).capture with
  | none => s
  | some k =>
    match k.frame with
    | none => s
    | some f =>
      if f.status.isSome then s
      else s.modHead h (fun x => { x with
        capTruncated := satInc 0x7FFF x.capTruncated 1
        capture := some { k with frame := some { f with status := some eTrunc, tail := [] } } })

def execCaptureWriteStall (dt h : Nat) (s : State) : Host.Outcome State Fault Refusal := .next ((s.tick dt).captureStall h)

/-! ### Watch regions (R323 to R330) -/

/-- The rectangle a region watches in the frame: its own, or that of its cell as latched (R322). -/
def Head.regionRect (x : Head) (g : RegionSet) : Option Rect :=
  match g.bound with
  | none => some g.rect
  | some c => (x.shown.find? (fun k => k.cell = c)).map (·.rect)

/-- The pixels of a line go into the signatures (R323). -/
def Head.signLine (x : Head) (y : Nat) (px : List Nat) : Head :=
  { x with regions := x.regions.map (fun e =>
      match x.regionRect e.2.set with
      | none => e
      | some r =>
        if decide (r.y ≤ y) && decide (y < r.y + r.h) then
          let bs := ((px.drop r.x).take r.w).flatMap (fun p => leBytes 4 p)
          (e.1, { e.2 with crc := word (crcBytes polyCrc32 e.2.crc.toNat bs) })
        else e) }

/-- What an evaluation finds (R324, R326): the region with its counters moved on, whether the reference check fails to
match, and whether the picture froze. -/
def Region.count (k : Region) (state : Nat) : Region × Bool × Bool :=
  let sig := k.crc ^^^ 0xFFFFFFFF
  let refOn := k.set.refCheck && k.refs.isSome
  let refs := k.refs.getD []
  let hit := if k.set.bound.isSome then decide (refs[state]? = some sig) else refs.contains sig
  let miss := if !refOn then k.miss else if hit then 0 else k.miss + 1
  let u := if k.set.freeze then (if k.prev = some sig then k.u + 1 else 0) else k.u
  ({ k with miss := miss, u := u, prev := some sig, last := sig }, refOn && !hit, k.set.freeze && decide (0 < u))

/-- Drive a pin by a reaction (R330). -/
def State.pinReact (h p : Nat) (s : State) : State :=
  let s := (s.modPin p (fun x => { x with safety := true })).settlePin p
  s.modHead h (fun x => { x with pins := if x.pins.contains p then x.pins else x.pins ++ [p] })

/-- Evaluate one region (R327): CARTOUCHE_FAULT with its reaction, or CARTOUCHE_CLEAR. -/
def State.evaluateRegion (h r : Nat) (s : State) : State :=
  let x := s.head h
  match IMap.find? x.regions r with
  | none => s
  | some k =>
    let st := match k.set.bound with
      | none => 0
      | some c => ((x.shown.find? (fun e => e.cell = c)).map (·.state)).getD 0
    let (k', bad, frozen) := k.count st
    let refBad := k'.set.refCheck && k'.refs.isSome && decide (k'.set.missLimit ≤ k'.miss)
    let frzBad := k'.set.freeze && decide (k'.set.freezeK ≤ k'.u)
    let put (k : Region) (s : State) : State := s.modHead h (fun x => { x with regions := IMap.put x.regions r k })
    let ws (cause reaction : Nat) : List Word :=
      [word h, word r, word cause, x.frames, k'.last, word reaction] ++ words64 s.now
    if !k.fault && (refBad || frzBad) then
      let cause := (if refBad then 1 else 0) + (if frzBad then 2 else 0)
      let s := put { k' with fault := true } s
      let (re, pin) := IMap.get x.reactions (0, 0) r
      let s := if bitOf re 0 then s.modHead h (fun x => { x with fallback := true }) else s
      let s := if bitOf re 1 then s.pinReact h pin else s
      ((s.devEvent 3).event 1 0x0901 (ws cause re)).event 0 0x0901 (ws cause re)
    else if k.fault && !bad && !frozen && (!k'.set.refCheck || k'.refs.isSome) then
      ((put { k' with fault := false } s).event 1 0x0902 (ws 0 0)).event 0 0x0902 (ws 0 0)
    else put k' s

/-- The regions whose last row the beam leaves are evaluated in ascending order (R323). -/
def State.evaluateRegions (h y : Nat) (s : State) : State :=
  let x := s.head h
  let rs := (x.regions.filter (fun e => match x.regionRect e.2.set with
    | none => false
    | some r => decide (r.y + r.h = y + 1))).map Prod.fst
  rs.foldl (fun s r => s.evaluateRegion h r) s

/-! ### The scan engine (R282, R283) -/

/-- Pixel (i, j) of a cell as the store holds it, or its fill colour (R312, R316, R321). -/
def State.cellPixel (s : State) (k : Shown) (i j : Nat) : Nat :=
  match k.image with
  | none => k.fill
  | some (_, fmt, pages) =>
    let bad := (s.imageCopies.filter (fun m => m.pages = pages)).flatMap (·.bad)
    let at_ (off : Nat) : Nat := cartBase + pages.getD (off / 4096) 0 * 4096 + off % 4096
    let rd (off len : Nat) : Option Nat :=
      if bad.contains (off / 64) then none else some (leNat (Mem.readRun s.mem.phys (at_ off) len))
    let p := j * k.rect.w + i
    let v := if fmt = 0 then rd (4 * p) 4
      else match rd (1024 + p) 1 with
        | none => none
        | some c => rd (4 * c) 4
    v.getD k.fill

/-- Which pixels of an active line are repeats (R283, R111). -/
def State.repeats (s : State) (h y : Nat) (late : List PixelRun) (px : Nat) : Bool :=
  let x := s.head h
  let ready := x.stillFrame || (x.comp.frame = x.frames && decide (y < x.comp.done)) ||
    (x.comp.prev.1 = x.frames && x.comp.frame ≠ x.frames && decide (y < x.comp.prev.2))
  let base := frameStore h + y * storePitch x.hA + px / 8 * 64
  !ready || late.any (fun r => decide (r.first ≤ px) && decide (px < r.first + r.count)) || s.poisoned base 64

/-- The boot head's fallback in Returned, which nothing ends (R516). -/
def State.servicePattern (s : State) (h : Nat) : Bool := s.boot.lifecycle = .returned && s.disp.bootHead = some h

/-- Stages 1 to 3 of one active line: the pixels in the layout of R298, how many are repeats, and the last frame-store
value delivered. -/
def State.scanStages (s : State) (h y : Nat) (late : List PixelRun) : List Nat × Nat × Nat :=
  let x := s.head h
  if s.servicePattern h then
    ((List.range x.hA).map (fun px => x.outRgb30 (if (px / 16 + y / 16) % 2 = 0 then 0 else 0x1FF7FDFF)), 0, x.lastPixel)
  else if x.fallbackOn || x.tellBypass then
    (List.replicate x.hA (x.outRgb30 x.fallbackColour), 0, x.lastPixel)
  else
    let row := Mem.readRun s.mem.phys (frameStore h + y * storePitch x.hA) (8 * x.hA)
    let (out, n, last, _) := (chunks 8 row).foldl (fun (acc : List Nat × Nat × Nat × Nat) b =>
      let (out, n, last, px) := acc
      let rep := s.repeats h y late px
      let v := if rep then last else leNat b
      (x.outPixel v px y :: out, if rep then n + 1 else n, v, px + 1)) ([], 0, x.lastPixel, 0)
    (out.reverse, n, last)

/-- Stage 4: the Cartouche merge (R321). -/
def State.mergeCells (s : State) (h y : Nat) (px : List Nat) : List Nat :=
  let x := s.head h
  let ks := x.shown.filter (fun k => decide (k.rect.y ≤ y) && decide (y < k.rect.y + k.rect.h))
  if ks.isEmpty then px
  else (px.zipIdx).map (fun e => match ks.find? (fun k => k.rect.has e.2 y) with
    | none => e.1
    | some k => x.outRgb30 (s.cellPixel k (e.2 - k.rect.x) (y - k.rect.y)))

/-- An active line passes through the scan engine. -/
def State.scanLine (h y : Nat) (late : List PixelRun) (s : State) : State :=
  let (px, n, last) := s.scanStages h y late
  let out := s.mergeCells h y px
  let x := s.head h
  let s := if s.mem.ce.isEmpty && s.mem.ue.isEmpty || x.fallbackOn || x.tellBypass then s
    else s.noteRead (frameStore h + y * storePitch x.hA) (8 * x.hA)
  let s := s.modHead h (fun x =>
    let x := x.signLine y out
    { x with
      lastPixel := last
      repeatFirst := if n = 0 then x.repeatFirst else x.repeatFirst.or (some y)
      repeatLines := if n = 0 then x.repeatLines else x.repeatLines + 1
      repeatPixels := satInc 0xFFFFFFFF x.repeatPixels n
      comp := if n = 0 then x.comp else { x.comp with
        equal := 0, disturbed := x.comp.disturbed || decide (x.comp.frame = x.frames) } })
  s.captureLine h y out

/-! ### Line 0, the due line and line v_active -/

/-- A head measures its phase error, the Meridian time from an edge to its nearest line 0 in ticks, and corrects it
(R29): before lock by one stretch of its vertical blanking, otherwise by trimming its pixel PLL within 200 ppm. A head locked
to the part's reference head only trims (R31). The trim's value is free within its limit (assumptions 5 and 57). -/
def State.lockMeasure (h : Nat) (err : Int) (s : State) : State :=
  let x := s.head h
  match x.timing with
  | none => s
  | some t =>
    let line : Int := t.lineTicks 1
    let near := decide (-1024 ≤ err) && decide (err ≤ 1024)
    let good := if near then x.lock.good + 1 else 0
    if x.lock.role ≠ 4 && !x.lock.everLocked && !x.lock.stretched && (decide (line ≤ err) || decide (err ≤ -line)) then
      let late := if 0 ≤ err then (t.lineTicks t.vTotal : Int) - err else -err
      s.modHead h (fun x => { x with lock := { x.lock with
        stretched := true, good := good, addLines := (late / max 1 line).toNat } })
    else
      let (v, s) := s.fresh
      s.modHead h (fun x => { x with lock := { x.lock with
        trim := (v % 401 : Nat) - 200, good := good
        locked := x.lock.locked || decide (8 ≤ good), everLocked := x.lock.everLocked || decide (8 ≤ good) } })

/-- The signed time from an edge to the nearest start of a head's line 0. -/
def State.phaseError (s : State) (h : Nat) (edge : Meridian) : Int :=
  let x := s.head h
  let frame := (x.timing.map (fun t => t.lineTicks t.vTotal)).getD 1
  let d := (edge - x.frameAt).toNat
  if 2 * d ≤ frame then -(d : Int) else (frame : Int) - d

/-- gPTP time in ns of a Meridian value under a relation of offset and ratio, the ratio in ns per tick times 2^32
(R32, assumption 20). -/
def gptpOf (e : Bool × Int × Nat) (m : Meridian) : Int := e.2.1 + (m.toNat * e.2.2 / 2 ^ 32 : Nat)

/-- The relation of a synchronised MAC. -/
def State.gptpRelation (s : State) : Option (Bool × Int × Nat) := (IMap.vals s.disp.gptp).find? (fun e => e.1)

/-- The phase error in ticks of a head in Time role whose line 0 is at gPTP time `g` (R26, R29): the time in ns from the nearest
of the instants `t0 + n × period`, the period taken exactly. -/
def Timing.timeError (t : Timing) (g t0 : Int) : Int :=
  let frame : Int := t.hTotal * t.vTotal * 1000000000
  let d := Int.emod ((g - t0) * t.rate) (max 1 frame)
  let e := if 2 * d ≤ frame then d else d - frame
  Int.fdiv (e * 1024) (1000 * max 1 (t.rate : Int))

/-- The reference head's line 0 for frame lock (R26, R29, R31): its own phase in Time role, and the heads locked to it. -/
def State.lockAtZero (h : Nat) (s : State) : State :=
  let x := s.head h
  let s := if x.lock.role = 3 then
      match s.gptpRelation, x.timing with
      | some g, some t => s.lockMeasure h (t.timeError (gptpOf g s.now) x.lock.t0.toNat)
      | _, _ => s
    else s
  if x.lock.role = 1 ∨ x.lock.role = 2 ∨ x.lock.role = 3 then
    (List.range 8).foldl (fun s k =>
      if k ≠ h ∧ (s.head k).lock.role = 4 then s.lockMeasure k (s.phaseError k s.now) else s) s
  else s

/-- A frame's start (R197, R200, R203, R215, R297, R315, R319, R320, R323, R329). -/
def State.enterZero (h : Nat) (s : State) : State :=
  let s := s.modHead h (fun x =>
    let f := x.frames + 1
    let newly := decide (x.comp.frame = f)
    let kept := x.still || x.wakeAt.isSome || x.comp.kept = some f
    let changed := newly && (x.ditherNext.isSome || x.phaseReset)
    { x with
      frames := f
      frameTime := (s.now - x.frameAt).toNat / 1024 % 2 ^ 24
      frameAt := s.now
      newly := newly
      stillFrame := kept
      post := if newly then x.postNext.getD x.post else x.post
      postNext := if newly then none else x.postNext
      depth := if newly then (x.ditherNext.map Prod.fst).getD x.depth else x.depth
      dmode := if newly then (x.ditherNext.map Prod.snd).getD x.dmode else x.dmode
      ditherNext := if newly then none else x.ditherNext
      phase := if changed then 0 else if newly && !x.phaseHold then (x.phase + 1) % 4 else x.phase
      phaseHold := false
      phaseReset := x.phaseReset && !newly
      tellBypass := s.power.mode = .tell || (x.tellBypass && !newly)
      fallbackOn := x.fallback || x.orphaned || s.servicePattern h
      repeatFirst := none, repeatLines := 0, repeatPixels := 0
      frets := x.frets.map (fun e => match e.2.next with
        | some k => if k.composer then e else (e.1, { e.2 with cur := some k, next := none })
        | none => e) })
  let s := ((s.lineZeroChanges h).switchImages h).latchCells h
  let s := s.modHead h (fun x => { x with regions := x.regions.map (fun e => (e.1, { e.2 with crc := 0xFFFFFFFF })) })
  (s.captureBegin h).lockAtZero h

/-- Frets with source beam that an entry fires, in ascending order (R215). -/
def State.fireBeam (h y : Nat) (s : State) : State :=
  (s.head h).frets.foldl (fun s e => match e.2.cur with
    | some k =>
      if k.armed && !k.composer && k.line = y then
        let s := if k.oneShot then s.modHead h (fun x => { x with
          frets := IMap.adjust x.frets e.1 (fun f => { f with cur := some { k with armed := false } }) }) else s
        (s.lineMatch h e.1 e.2.owner y).fireFast h e.1 e.2.owner
      else s
    | none => s) s

/-- Whether a commit that waits on a head may apply at an instant (R286). DEDUCED (assumption 27): R291 does not count a waiting commit
among what keeps a head out of Still state, so a head in Still state leaves it at the first such boundary. -/
def State.commitReached (s : State) (h : Nat) (at_ : Meridian) : Bool :=
  s.disp.commits.any (fun k => k.members.any (fun m => m.head = h && !m.applied) &&
    (match k.notBefore with | none => true | some nb => decide (0 ≤ meridianDiff at_ nb)))

/-- The entry of line `V_total` less the lead: the boundary of the next frame is due (R205), but in Still state (R206, R292)
and before the instant from which a head that has left it composes again (R294). -/
def State.enterDue (h : Nat) (s : State) : State :=
  let x := s.head h
  if !x.boundaries then s
  else if x.still && s.commitReached h s.now then
    (s.modHead h (fun x => { x with still := false })).makeDue h (x.frames + 1) s.now
  else if x.still then (s.takeBounds h).modHead h (fun x => { x with lead := x.lead.clamp })
  else if (match x.wakeAt with | none => false | some w => decide (meridianDiff s.now w < 0)) then s
  else s.makeDue h (x.frames + 1) s.now

/-- The ports that carry a head. -/
def State.portsOf (s : State) (h : Nat) : List (Nat × Port) :=
  s.disp.ports.filter (fun e => ((e.2.route.map (fun q => q.headList.contains h)).getD false))

/-- The end of a frame for the ports (R306, R308): a starved stream is reported, and a new route begins its training once the
frames of all its heads have ended. -/
def State.portsFrameEnd (h : Nat) (s : State) : State :=
  let s := (s.portsOf h).foldl (fun s e =>
    let (p, q) := e
    let stream := if q.route.map (fun r => r.heads.getD 1 none) = some (some h) then 1 else 0
    let n := IMap.get q.starved 0 stream
    if n = 0 then s
    else (s.event 0 0x0806 [word p, 3, word h, word (min 0xFFFFFFFF n)]).modPort p
      (fun q => { q with starved := IMap.del q.starved stream })) s
  s.frameEnded h

/-- Extra front-porch lines of a frame in Still state with lowered refresh (R293). -/
def State.porchLines (s : State) (h : Nat) : Nat :=
  let x := s.head h
  match x.timing with
  | none => 0
  | some t =>
    let adaptive := (s.portsOf h).any (fun e => match e.2.route with
      | some r => r.mode = 1 || r.mode = 3 || r.mode = 4
      | none => false)
    if x.still && adaptive && x.lock.role = 0 && !x.cells.any (fun c => c.2.blink) then
      min (ceilDiv t.rate (max 1 x.vrrMin * t.hTotal)) (t.rate / max 1 t.hTotal) - t.vTotal
    else 0

/-- The entry of line v_active: BLANK_START, UNDERRUN, the ports, and changes that wait for the end of a frame (R279,
R284, R293, R295, R419). -/
def State.enterBlank (h : Nat) (s : State) : State :=
  let x := s.head h
  let s := s.notify 0x0801 h ([word h, x.frames] ++ words64 s.now ++ [if x.stillFrame then 1 else 0]) (s.seesHead h)
  let s := match x.repeatFirst with
    | none => s
    | some y =>
      let ws := [word h, x.frames, word y, word x.repeatLines, word x.repeatPixels]
      (s.event 0 0x0803 ws).notify 0x0803 h ws (fun t => t ≠ 0 && x.views t)
  let s := s.modHead h (fun x => { x with
    lastRepeatLines := x.repeatLines
    underruns := if x.repeatFirst.isSome then satInc 0xFFFF x.underruns 1 else x.underruns })
  let s := s.portsFrameEnd h
  let n := s.porchLines h
  let s := s.modHead h (fun x => { x with
    lowered := decide (0 < n), porch := n + x.lock.addLines, lock := { x.lock with addLines := 0 } })
  if x.stopDue then s.stopHead h
  else if !x.frameChanges.isEmpty then s.applyTimings h
  else s

/-- Whether the scan engine stops repeating front-porch lines at this line end (R294, R319). -/
def State.porchStops (s : State) (h : Nat) (t : Timing) : Bool :=
  let x := s.head h
  let toDue := (x.dueLine + t.vTotal - (x.line + 1)) % max 1 t.vTotal
  let reach (n : Nat) (w : Meridian) : Bool := decide (0 ≤ meridianDiff (s.now + BitVec.ofNat 64 (t.lineTicks n)) w)
  (match x.wakeAt with | none => false | some w => reach toDue w) ||
  (x.still && s.commitReached h (s.now + BitVec.ofNat 64 (t.lineTicks toDue))) ||
  x.lineZero.any (fun w => w.porchDue && reach (t.vTotal - x.line - 1) (w.at_ + BitVec.ofNat 64 (ticksOfUs 100)))

/-- What the FSYNC pin carries (R26, Table 1.6): in Source role high for the first 4 lines of the reference head's frame and
low otherwise; in every other role the part does not drive it. -/
def State.fsyncOut (s : State) : Option Bool :=
  ((List.range 8).find? (fun h => (s.head h).lock.role = 1)).map (fun h =>
    let x := s.head h
    (x.state = .composing || x.state = .still) && !x.stopped && decide (x.line < 4))

/-- The beam enters line `y` of head `h` (R203, R539). -/
def State.enterLine (h y : Nat) (t : Timing) (dueLine : Nat) (late : List PixelRun) (s : State) : State :=
  let s := if y = 0 then s.enterZero h else s
  let s := s.fireBeam h y
  let s := if y < t.vA then s.scanLine h y late else s
  let s := if y = dueLine then s.enterDue h else s
  if y = t.vA then s.enterBlank h else s

/-- BEAM_LINE_ENTER (R203, R539): the beam enters its next line, or repeats the last line of the front porch. -/
def State.beamEnter (h : Nat) (late : List PixelRun) (s : State) : State :=
  let x := s.head h
  match x.timing with
  | none => s
  | some t =>
    if x.stopped || !(x.state = .composing || x.state = .still) then s
    else
      let atPorch := x.line + 1 = t.vA + t.vF
      if atPorch && decide (0 < x.porch) && !s.porchStops h t then
        s.modHead h (fun x => { x with porch := x.porch - 1, lineAt := s.now })
      else
        let old := x.line
        let y := if old + 1 < t.vTotal then old + 1 else 0
        let s := if old < t.vA then s.evaluateRegions h old else s
        let s := s.modHead h (fun x => { x with
          line := y, lineAt := s.now, porch := if atPorch then 0 else x.porch, lowered := x.lowered && x.still })
        s.enterLine h y t x.dueLine late

def execBeamLineEnter (dt h : Nat) (late : List PixelRun) (s : State) : Host.Outcome State Fault Refusal :=
  .next ((s.tick dt).beamEnter h late).advanced

end Sys2Proof.Machine
end

