-- ==== Sys2Proof/Machine/Clocks.lean ====
section
/-! DEFINITION. Clocks (R427 to R432): the clock plan, frequency measuring, and the loss and return of references. -/

namespace Sys2Proof.Machine

def eClockRatio : Nat := 0x0D01

/-- Whether a clock of Table 16.5, or XI, SXI or the MCLK pin, runs (R432). -/
def State.clockRuns (s : State) (i : Nat) : Bool :=
  if 4 ≤ i ∧ i ≤ 11 then let x := s.head (i - 4); x.timed && !x.stopped
  else if i = 15 then !s.clocks.refsLost.contains .xi
  else if i = 16 then !s.clocks.refsLost.contains .sxi
  else if i = 17 then ((s.block 8).enabled || (s.block 9).enabled) && !s.clocks.refsLost.contains .mclk
  else true

/-- The nominal frequency of a clock in hertz (Table 16.5, R391). -/
def State.nominalHz (s : State) (i : Nat) : Nat :=
  if i = 0 then s.clocks.cclk * 1000000
  else if i = 1 then s.clocks.fclk * 1000000
  else if i = 2 then s.clocks.cpClk * 1000000
  else if i = 3 then 1024000000
  else if i ≤ 11 then ((s.head (i - 4)).timing.map (fun t => if t.dual then t.rate / 2 else t.rate)).getD 0
  else if i = 12 then 49152000
  else if i = 13 then 45158400
  else if i = 14 then 24576000
  else if i = 15 then 25000000
  else if i = 16 then 32768
  else if (s.block 8).enabled then 49152000 else 45158400

/-- A measurement ends (R432): the count is a free value (assumption 5), the frequency computed from it. -/
def State.measure (r : CmdRef) (ref cycles : Nat) (s : State) : State :=
  let (v, s) := s.fresh
  let n := (word v).toNat
  s.completeOk r [word n, word (n * s.nominalHz ref / max 1 cycles)]

/-- The measurements that waited for the clock-monitor self-test run (R432). -/
def State.runMeasures (s : State) : State :=
  let ms := s.clocks.measures
  let s := { s with clocks := { s.clocks with measures := [] } }
  ms.foldl (fun s m => s.measure m.1 m.2.2.1 m.2.2.2) s

def clockMeasureBody (c : Cmd) (r : CmdRef) (s : State) : CmdRes := do
  c.reserved [(0x08, 2), (0x0C, 4)]
  let t := c.u8 0x08
  let f := c.u8 0x09
  let n := c.u32 0x0C
  need (decide (t ≤ 17)) eRange 0x08
  need (decide (f ≤ 17)) eRange 0x09
  need (decide (1000 ≤ n) && decide (n ≤ 100000000)) eRange 0x0C
  need (t ≠ f) eRange 0x08
  need (s.clockRuns t && s.clockRuns f) eState
  if (s.activity 6).running then
    .ok ({ s with clocks := { s.clocks with measures := s.clocks.measures ++ [(r, t, f, n)] } }, .later)
  else .ok (s.measure r f n, .later)

/-- The CCLK that a new ceiling leaves: the ceiling, or the governor's step where that is lower (assumption 31). -/
def Clocks.underCeiling (k : Clocks) (cclkMax : Nat) : Nat :=
  if k.cclk = k.cclkMax then cclkMax else min k.cclk cclkMax

/-- The clocks under a plan. -/
def Clocks.plan (k : Clocks) (cclkMax fclk pclk cp : Nat) : Clocks :=
  { k with cclk := k.underCeiling cclkMax, cclkMax := cclkMax, fclk := fclk, pclk := pclk, cpClk := cp }

/-- What R220 refuses of any head under other clocks (R428). -/
def State.planRefusal (s : State) (k : Clocks) : Option Refused :=
  let s := { s with clocks := k }
  let hs := (List.range 8).filterMap (fun h => (s.head h).timing.map (fun t =>
    (h, s.headView h [], t, (s.head h).boundMin)))
  s.refusal hs (((hs.map (·.1)).head?).getD 0) false

/-- A reference is lost or returns for a PLL index (R431, Table 16.6). -/
def State.clockFault (i back : Nat) (s : State) : State := s.event 0 0x0D02 ([word i, word back] ++ words64 s.now)

/-- The PLLs that run from a reference (Table 16.5, R391). -/
def State.pllsOn (s : State) : ClockRef → List Nat
  | .xi => [0, 1, 2, 3, 4, 5, 6, 7, 8, 9, 10, 11] ++ (if s.audio.clkA.source = 1 then [] else [12]) ++
      (if s.audio.clkB.source = 1 then [] else [13])
  | .mclk => (if s.audio.clkA.source = 1 then [12] else []) ++ (if s.audio.clkB.source = 1 then [13] else [])
  | .sxi => [14]
  | .refclk => []

/-- CLOCK_REFERENCE_LOST (R431): its PLLs coast; without REFCLK the PCIe link goes down (R427). -/
def State.refLost (r : ClockRef) (s : State) : State :=
  if s.clocks.refsLost.contains r then s
  else
    let ps := s.pllsOn r
    let s := { s with
      clocks := { s.clocks with
        refsLost := r :: s.clocks.refsLost
        locked := ps.foldl (fun b i => b &&& ~~~((1 : BitVec 15) <<< i)) s.clocks.locked
        lost := ps.foldl (fun b i => b ||| (1 <<< i)) s.clocks.lost }
      time := { s.time with coasting := s.time.coasting || ps.contains 3 }
      boot := { s.boot with pcieUp := s.boot.pcieUp && r ≠ .refclk } }
    ps.foldl (fun s i => (s.hwMark (.pllLost i)).clockFault i 0) s

/-- CLOCK_REFERENCE_RETURN (R431): its PLLs lock again; their lost bits stay. -/
def State.refReturn (r : ClockRef) (s : State) : State :=
  if !s.clocks.refsLost.contains r then s
  else
    let ps := s.pllsOn r
    let s := { s with
      clocks := { s.clocks with
        refsLost := s.clocks.refsLost.filter (· != r)
        locked := ps.foldl (fun b i => b ||| (1 <<< i)) s.clocks.locked }
      time := { s.time with coasting := s.time.coasting && !ps.contains 3 } }
    ps.foldl (fun s i => s.clockFault i 1) s

def execClockReferenceLost (dt : Nat) (r : ClockRef) (s : State) : Host.Outcome State Fault Refusal :=
  .next ((s.tick dt).refLost r)

def execClockReferenceReturn (dt : Nat) (r : ClockRef) (s : State) : Host.Outcome State Fault Refusal :=
  .next ((s.tick dt).refReturn r)

end Sys2Proof.Machine
end

