-- ==== Sys2Proof/Machine/Audio.lean ====
section
/-! DEFINITION. The audio engine at a sample boundary (R368 to R395): voices, envelopes, sends, lanes, buses, limiters,
ports, talkers and captures; and the audio engine's other events. -/

namespace Sys2Proof.Machine

/-- Saturate to `w` signed bits. -/
def satTo (w : Nat) (v : Int) : Int := clampInt (-(2 ^ (w - 1))) (2 ^ (w - 1) - 1) v

/-- A sample times a Q1.15 gain, rounded (R375, R376, R380). -/
def mulQ (v : Int) (g : Nat) : Int := (v * g + 2 ^ 14) >>> 15

/-- The greatest number whose square is at most `n`, below 2^33. -/
def isqrt (n : Nat) : Nat :=
  (List.range 33).foldl (fun r i => let b := 2 ^ (32 - i); if (r + b) * (r + b) ≤ n then r + b else r) 0

/-- The rate of a course in hertz (Table 14.1). -/
def courseRate (c : Nat) : Nat := if c = 0 then 48000 else if c = 1 then 44100 else 16000

def State.course (s : State) (c : Nat) : Course := IMap.get s.audio.courses {} c

/-! ### Sample data (R372) -/

/-- The IMA ADPCM step table. PRESUMED (assumption 43): R372 names it. -/
def imaSteps : List Nat :=
  [7, 8, 9, 10, 11, 12, 13, 14, 16, 17, 19, 21, 23, 25, 28, 31, 34, 37, 41, 45, 50, 55, 60, 66, 73, 80, 88, 97, 107, 118] ++
  [130, 143, 157, 173, 190, 209, 230, 253, 279, 307, 337, 371, 408, 449, 494, 544, 598, 658, 724, 796, 876, 963, 1060] ++
  [1166, 1282, 1411, 1552, 1707, 1878, 2066, 2272, 2499, 2749, 3024, 3327, 3660, 4026, 4428, 4871, 5358, 5894, 6484] ++
  [7132, 7845, 8630, 9493, 10442, 11487, 12635, 13899, 15289, 16818, 18500, 20350, 22385, 24623, 27086, 29794, 32767]

/-- The IMA ADPCM index table. PRESUMED (assumption 43): R372 names it. -/
def imaIndex (code : Nat) : Int := if code % 8 < 4 then -1 else 2 * (code % 8 : Nat) - 6

/-- Decode one ADPCM code from a predictor and step index. -/
def imaStep (p : Int × Nat) (code : Nat) : Int × Nat :=
  let st := imaSteps.getD p.2 0
  let d := st / 8 + (if bitOf code 2 then st else 0) + (if bitOf code 1 then st / 2 else 0) + (if bitOf code 0 then st / 4 else 0)
  let v := if bitOf code 3 then p.1 - d else p.1 + d
  (clampInt (-32768) 32767 v, (clampInt 0 88 (p.2 + imaIndex code)).toNat)

/-- The 120 s16 samples of an ADPCM block, none where it is malformed (R372). -/
def adpcmBlock (bs : List Byte) : Option (List Int) :=
  let idx := fieldU bs 2 1
  if 88 < idx ∨ fieldU bs 3 1 ≠ 0 then none
  else
    let codes := (List.range 120).map (fun i => fieldU bs (4 + i / 2) 1 / (if i % 2 = 0 then 1 else 16) % 16)
    let (_, out) := codes.foldl (fun (acc : (Int × Nat) × List Int) k =>
      let p := imaStep acc.1 k
      (p, p.1 :: acc.2)) ((fieldS bs 0 2, idx), [])
    some out.reverse

/-- Why sample data could not be had: the cause that VOICE_FAULT gives, and the Atlas fault. -/
structure DataFault where
  cause : Nat
  fault : Option AssetFault := none

/-- Bytes of a voice's sample data: through Atlas, or from the Cartouche store for K0 to K3 (R386). -/
def State.voiceBytes (s : State) (v : Nat) (owner : Nat) (q : VSource) (off n : Nat) : Except DataFault (List Byte) :=
  if 96 ≤ v then
    match s.placeRead (.phys (cartBase + q.pages.getD (off / 4096) 0 * 4096 + off % 4096)) n with
    | .ok bs => .ok bs
    | .error _ => .error { cause := 4 }
  else match s.assetRead owner (q.addr + off) n with
    | .ok bs => .ok bs
    | .error f => .error { cause := 1, fault := some f }

/-- Source sample `i` of a voice's data, as s24 (R372). -/
def State.dataSample (s : State) (v owner : Nat) (q : VSource) (i : Nat) : Except DataFault Int :=
  match q.format with
  | 0 => (s.voiceBytes v owner q (2 * i) 2).map (fun bs => fieldS bs 0 2 * 256)
  | 1 => (s.voiceBytes v owner q (3 * i) 3).map (fun bs => fieldS bs 0 3)
  | _ => match s.voiceBytes v owner q (64 * (i / 120)) 64 with
    | .error e => .error e
    | .ok bs => match adpcmBlock bs with
      | none => .error { cause := 2 }
      | some xs => .ok (xs.getD (i % 120) 0 * 256)

/-- A sampler's source at any index: outside its samples 0, or the loop (R373). -/
def State.samplerAt (s : State) (v owner : Nat) (q : VSource) (i : Int) : Except DataFault Int :=
  if i < 0 then .ok 0
  else
    let n := i.toNat
    if n < q.length then s.dataSample v owner q n
    else match q.loop with
      | none => .ok 0
      | some l => s.dataSample v owner q (l + (n - q.length) % (q.length - l))

/-- A tap of the interpolation table (R373). -/
def tap (ph j : Nat) : Int := if ph = 0 then (if j = 3 then 16384 else 0) else signed 16 (Config.sincTap ph j)

/-- Interpolate around index `k` at a fraction (R373). -/
def interpolate (read : Int → Except DataFault Int) (k frac : Nat) : Except DataFault Int :=
  let ph := frac / 65536
  match (List.range 8).mapM (fun (j : Nat) => read ((k : Int) - 3 + (j : Int))) with
  | .error e => .error e
  | .ok xs =>
    let a := (xs.zipIdx).foldl (fun a e => a + tap ph e.2 * e.1) 0
    .ok (satTo 24 ((a + 8192) >>> 14))

/-- The sample of a stream voice's source (R374, R385, R388, R390, R392). -/
def State.streamSample (s : State) (course : Nat) (q : VSource) : Int :=
  let port := q.addr % 256
  let sub := q.addr / 256 % 256
  let a := s.audio
  match q.format with
  | 0 => match IMap.find? a.tdmIn port with
    | none => 0
    | some p => if p.on && p.course = course then p.frame.getD sub 0 else 0
  | 1 => if (if port = 0 then some 2 else IMap.find? a.pdm port) = some course then IMap.get a.pdmNow 0 (2 * port + sub) else 0
  | _ => match IMap.find? a.avtp (16 + port) with
    | none => 0
    | some p => if p.course = course then p.now.getD sub 0 else 0

/-- What a voice plays at its phase (R373, R374). -/
def State.voiceSample (s : State) (v : Nat) (x : Voice) : Except DataFault Int :=
  match x.src with
  | none => .ok 0
  | some q =>
    let k := x.pos / 2 ^ 24
    let frac := x.pos % 2 ^ 24
    let full : Int := 8388607
    match x.kind with
    | 0 => interpolate (s.samplerAt v ((x.tenant v).getD 0) q) k frac
    | 1 => interpolate (fun i => .ok (q.table.getD (Int.emod i 256).toNat 0)) k frac
    | 2 => .ok (if k < q.format then full else -full)
    | 3 => .ok (if bitOf x.lfsr 0 then full else -full)
    | _ => .ok (s.streamSample x.course q)

/-- One advance of a noise voice's LFSR (R374). PRESUMED (assumption 43): it shifts right, and the sum of its two low bits enters at the top,
one form of the polynomials that R374 names. -/
def lfsrStep (format l : Nat) : Nat :=
  let b := if bitOf l 0 != bitOf l 1 then 1 else 0
  l / 2 + b * (if format = 1 then 0x40 else 0x4000)

/-- All ones for a noise voice (R374). -/
def lfsrSeed (x : Voice) : Nat := if (x.src.map (·.format)) = some 1 then 0x7F else 0x7FFF

/-- The phase moves on by step (R373, R374). -/
def Voice.advance (x : Voice) : Voice :=
  let p := x.pos + x.step
  let n := p / 2 ^ 24 - x.pos / 2 ^ 24
  { x with
    pos := if x.kind = 0 then p % 2 ^ 56 else p % 2 ^ 32
    lfsr := if x.kind = 3 then (List.range n).foldl (fun l _ => lfsrStep ((x.src.map (·.format)).getD 0) l) x.lfsr else x.lfsr }

/-- A sampler without loop has passed its last sample (R377). -/
def Voice.dataEnded (x : Voice) : Bool :=
  x.kind = 0 && (match x.src with
    | none => false
    | some q => q.loop.isNone && decide ((q.length - 1) * 2 ^ 24 < x.pos))

/-! ### Envelopes (R375) -/

/-- The sustain level. -/
def Voice.sustainLevel (x : Voice) : Nat := (x.sustain * 2 ^ 23 + 32767) / 65535

/-- One step of the envelope; a release that reaches 0 leaves the voice idle. -/
def Voice.envelope (x : Voice) : Voice :=
  let top := 2 ^ 23
  let sl := x.sustainLevel
  match x.phase with
  | .idle => x
  | .attack =>
    let e := min top (x.level + (if x.attack = 0 then top else ceilDiv top (16 * x.attack)))
    { x with level := e, phase := if e = top then .decay else .attack }
  | .decay =>
    let e := max sl (x.level - (if x.decay = 0 then top else ceilDiv (top - sl) (16 * x.decay)))
    { x with level := e, phase := if e = sl then .sustain else .decay }
  | .sustain => { x with level := sl }
  | .release =>
    let e := x.level - x.relStep
    { x with level := e, phase := if e = 0 then .idle else .release }

/-- A voice enters release: the step is fixed from the present level. -/
def Voice.toRelease (x : Voice) : Voice :=
  { x with phase := .release, relStep := if x.release = 0 then x.level else ceilDiv x.level (16 * x.release) }

/-! ### Meters (R382) -/

/-- A meter takes one sample. -/
def Meter.take (m : Meter) (x : Int) : Meter :=
  { m with sum := m.sum + x.natAbs * x.natAbs, peak := max m.peak x.natAbs }

/-- A meter's window ends. -/
def Meter.windowEnd (now : Meridian) (m : Meter) : Meter :=
  let renew := decide (m.heldPeak ≤ m.peak) || decide (2048000000 < (now - m.heldAt).toNat)
  { sum := 0, peak := 0, rms := isqrt (m.sum / 1024), last := m.peak, ends := now
    heldPeak := if renew then m.peak else m.heldPeak, heldAt := if renew then now else m.heldAt }

/-! ### Commands at their boundary (R368) -/

/-- By how many boundaries of a course an apply time was missed (R368), at the course's nominal rate. -/
def lateBoundaries (c : Nat) (t now : Meridian) : Nat := ((now - t).toNat + 8) * courseRate c / 1024000000

/-- The store pages of the Cartouche sample that a source names (R386). -/
def State.withPages (s : State) (v : Nat) (q : VSource) : VSource :=
  if 96 ≤ v then { q with pages := ((IMap.find? s.disp.cart.samples q.addr).map (·.pages)).getD [] } else q

/-- A VOICE_SET takes effect (R371): a source write ends a fault and moves the position to 0. -/
def State.voiceWrite (v : Nat) (w : VoiceWrite) (s : State) : State :=
  let src := w.src.map (s.withPages v)
  s.modVoice v (fun x => { x with
    kind := w.kind.getD x.kind
    src := src.or x.src
    pos := if src.isSome then 0 else x.pos
    fault := if src.isSome then 0 else x.fault
    faultDue := if src.isSome then 0 else x.faultDue
    step := w.step.getD x.step
    gain := w.gain.getD x.gain
    attack := (w.env.map (·.1)).getD x.attack
    decay := (w.env.map (·.2.1)).getD x.decay
    sustain := (w.env.map (·.2.2.1)).getD x.sustain
    release := (w.env.map (·.2.2.2)).getD x.release
    sends := w.sends.getD x.sends })

/-- A VOICE_START takes effect (R377): attack begins from the present level. -/
def State.voiceStart (v : Nat) (s : State) : State :=
  s.modVoice v (fun x => { x with
    src := x.src.map (s.withPages v), pos := 0, lfsr := lfsrSeed x, phase := .attack, starved := 0 })

/-- A BUS_SET takes effect (R379): the limiter starts at unity when the bus is allocated (R381). -/
def Bus.apply (g : BusSet) (b : Bus) : Bus :=
  let ms := (List.range g.channels).map (fun i => b.meters.getD i {})
  if b.live then { b with set := g, meters := ms }
  else { b with set := g, live := true, limG := 65536, q := List.replicate 16 65536, delay := [], sat := 0, meters := ms }

/-- A TDM port takes new settings; the frames it has formed or received stay. -/
def TdmPort.over (t : TdmPort) (old : Option TdmPort) : TdmPort :=
  let o := old.getD {}
  { t with frame := o.frame, nextFrame := o.nextFrame, out := o.out }

/-- A bridge lane takes new settings (R383). -/
def Lane.apply (g x : Lane) : Lane := { g with input := x.input, unlocked := x.unlocked, frac := x.frac }

/-- One waiting command takes effect, and its record is formed. -/
def State.audioApply (c : Nat) (w : AudioWait) (s : State) : State :=
  let s := match w.change with
    | .note => s
    | .destroy v => s.freeVoice v
    | .write v g => s.voiceWrite v g
    | .start v => s.voiceStart v
    | .stop v cut =>
      if (s.voice v).phase = EnvPhase.idle then s
      else if cut then s.endVoice v 2 else s.modVoice v Voice.toRelease
    | .bus b g => s.modBus b (Bus.apply g)
    | .freeBus b => s.freeBus b
    | .lane l g => s.modLane l g.apply
    | .freeLane l => s.freeLane l
    | .tdm true p g => s.modAudio (fun a => { a with tdmOut := IMap.put a.tdmOut p (g.over (IMap.find? a.tdmOut p)) })
    | .tdm false p g => s.modAudio (fun a => { a with tdmIn := IMap.put a.tdmIn p (g.over (IMap.find? a.tdmIn p)) })
    | .portOff p => s.modAudio (fun a => { a with tdmOut := IMap.del a.tdmOut p, tdmIn := IMap.del a.tdmIn p })
    | .pdm p k => s.modAudio (fun a => { a with pdm := IMap.put a.pdm p k })
    | .avtp n g => s.modAudio (fun a => { a with avtp := IMap.put a.avtp n g })
    | .avtpOff n => s.modAudio (fun a => { a with avtp := IMap.del a.avtp n })
  let late := match w.at_ with
    | some t => if w.late then lateBoundaries c t s.now else 0
    | none => 0
  s.completeOk w.ref ([w.words.headD 0, word late] ++ words64 s.now)

/-- Whether a later command sets all that an earlier one, still waiting for another course, would set: a lane, port, pin or
stream (R71). -/
def AudioChange.replaces (k old : AudioChange) : Bool :=
  match k, old with
  | .lane l _, .lane m _ => l = m
  | .tdm o p _, .tdm u q _ => o == u && p = q
  | .portOff p, .tdm _ q _ => p = q
  | .tdm _ p _, .portOff q => p = q
  | .pdm p _, .pdm q _ => p = q
  | .avtp n _, .avtp m _ => n = m
  | .avtp n _, .avtpOff m => n = m
  | .avtpOff n, .avtp m _ => n = m
  | _, _ => false

/-- Every waiting command of a course whose boundary this is takes effect, in processing order. -/
def State.audioCommands (c : Nat) (s : State) : State :=
  let ready (w : AudioWait) : Bool := w.course = c && (match w.at_ with
    | none => true
    | some t => decide (0 ≤ meridianDiff s.now t))
  let n := s.audio.waits.length
  (List.range n).foldl (fun s _ => match s.audio.waits.span (fun w => !ready w) with
    | (_, []) => s
    | (earlier, w :: later) => (s.modAudio (fun a => { a with
        waits := earlier.map (fun e => if w.change.replaces e.change then { e with change := .note } else e) ++ later })).audioApply c w) s

/-! ### Voices at a boundary -/

/-- What a voice adds at a boundary: the bus or lane (target 1 or 2), its index, its channel and the value. -/
abbrev AudioPart := Nat × Nat × Nat × Int

/-- The contributions of a voice's sends (R376). -/
def sendsOut (xs : List Send) (v : Int) : List AudioPart :=
  xs.flatMap (fun e => match e.target with
    | 1 => [(1, e.index, e.ch, mulQ v e.ga)] ++ (if e.gb = 0 then [] else [(1, e.index, e.ch + 1, mulQ v e.gb)])
    | 2 => [(2, e.index, 0, mulQ v e.ga)]
    | _ => [])

/-- Whether a send carries a voice's samples: those of K0 to K3 reach Cartouche buses alone, and no other voice's do (R18, R371). -/
def State.sendLives (s : State) (v : Nat) (e : Send) : Bool :=
  if e.target = 1 then (s.bus e.index).set.cart == decide (96 ≤ v) else decide (v < 96)

/-- Whether the audio clock of a course has lost its reference (R391, Table 16.5). -/
def State.audioClockLost (s : State) (c : Nat) : Bool :=
  s.clocks.refsLost.any (fun r => (s.pllsOn r).contains (if c = 1 then 13 else 12))

/-- A voice that has faulted gives nothing, while its envelope goes on (R368, R374). -/
def State.faultedVoice (v : Nat) (s : State) : State :=
  let x := (s.voice v).envelope
  let s := s.modVoice v (fun _ => { x with out := 0 })
  if x.phase = .idle then s.endVoice v 1 else s

/-- One sample of a voice that plays: the state and what its sends give their buses (R368, R369, R374). -/
def State.soundVoice (late : List Nat) (v : Nat) (s : State) : State × List AudioPart :=
  let x := s.voice v
  let starved := (x.kind = 0 && late.contains v) || (decide (v < 96) && s.audioClockLost x.course)
  let (r, bad) : Int × Option DataFault := if starved then (0, none) else match s.voiceSample v x with
    | .ok r => (r, none)
    | .error e => (0, some e)
  let x := x.envelope
  let o := satTo 24 (mulQ (satTo 24 ((r * x.level + 2 ^ 22) >>> 23)) x.gain)
  let x' := { x.advance with
    out := o, starved := if starved then satInc 0xFFFF x.starved 1 else x.starved
    faultDue := (bad.map (·.cause)).getD 0 }
  let s := s.modVoice v (fun _ => x')
  let s := s.modAudio (fun a => { a with meters := IMap.put a.meters v ((IMap.get a.meters {} v).take o) })
  let s := if starved then s.voiceFaultReport v 3 1 else s
  let s := match bad with
    | none => s
    | some e =>
      let s := match e.fault, x.tenant v with
        | some f, some t => s.atlasFault t f 0x030A 0
        | _, _ => s
      s.voiceFaultReport v e.cause 1
  let s := if x'.phase = .idle then s.endVoice v 1 else if x'.dataEnded then s.endVoice v 0 else s
  (s, sendsOut (x.sends.filter (s.sendLives v)) o)

/-- A voice at a boundary of its course (R373 to R378). A faulted voice is silent while its envelope goes on. Without its clock a
tenant voice gives zero samples, and they count as starved (R20). -/
def State.runVoice (late : List Nat) (acc : State × List AudioPart) (v : Nat) : State × List AudioPart :=
  let s := acc.1.modVoice v (fun x =>
    { x with fault := if x.faultDue ≠ 0 then x.faultDue else x.fault, faultDue := 0 })
  let x := s.voice v
  if x.phase = EnvPhase.idle || (decide (v < 96) && s.power.mode = .tell) then
    (s.modVoice v (fun x => { x with out := 0 }), acc.2)
  else if x.fault ≠ 0 then (s.faultedVoice v, acc.2)
  else ((s.soundVoice late v).1, acc.2 ++ (s.soundVoice late v).2)

/-! ### Lanes, buses and limiters -/

/-- The lanes' share (R383, R384): lanes fed on this course take their inputs, and lanes into its buses give their output,
a free value (assumption 5), times gain. -/
def State.runLanes (c : Nat) (cs : List AudioPart) (s : State) : State × List AudioPart :=
  s.audio.lanes.foldl (fun (acc : State × List AudioPart) e =>
    let (s, out) := acc
    let l := e.1
    let x := e.2
    let s := if x.srcCourse = c && !x.fromBus then
        s.modLane l (fun x => { x with
          input := (cs.filter (fun k => k.1 = 2 && k.2.1 = l)).foldl (fun a k => satTo 32 (a + k.2.2.2)) 0 })
      else s
    if x.dead || !(s.bus x.dstBus).live || (s.bus x.dstBus).set.cart || (x.fromBus && (s.bus x.srcBus).set.cart) || (s.bus x.dstBus).set.course ≠ c then (s, out)
    else
      let (v, s) := s.fresh
      let (f, s) := s.fresh
      let v := if x.unlocked then 0 else signed 24 v
      (s.modLane l (fun x => { x with frac := f % 1024 }), out ++ [(1, x.dstBus, x.dstCh, mulQ v x.gain)])) (s, cs)

/-- The limiter's gain after a request (R381). -/
def limiterGain (g release : Nat) (q : List Nat) : Nat :=
  let fall := (q.zipIdx).foldl (fun f e => if e.1 < g then max f ((g - e.1 + e.2) / (e.2 + 1)) else f) 0
  if 0 < fall then min (g - fall) (q.headD 0)
  else min (min (g + release) (q.foldl min 65536)) 65536

/-- A bus at a boundary, from what its channels are given in order (R380, R381); `silent` makes it output 0. -/
def Bus.run (b : Bus) (given : Nat → List Int) (silent : Bool) : Bus :=
  let chans := List.range b.set.channels
  let sums := chans.map (fun ch => (given ch).foldl (fun (a : Int × Bool) v =>
    (satTo 32 (a.1 + v), a.2 || satTo 32 (a.1 + v) ≠ a.1 + v)) ((0, false) : Int × Bool))
  let ys := sums.map (fun a => satTo 32 (mulQ a.1 b.set.gain))
  let pk := ys.foldl (fun m y => max m y.natAbs) 0
  let req := if pk ≤ b.set.threshold then 65536 else b.set.threshold * 65536 / pk
  let q := b.q.drop 1 ++ [req]
  let g := limiterGain b.limG b.set.release q
  let old := b.delay.getD 15 []
  let lim := chans.map (fun ch =>
    let y := old.getD ch 0
    let m : Int := ((y.natAbs * g + 32768) / 65536 : Nat)
    if y < 0 then -m else m)
  let out := lim.map (fun v => if silent || b.set.mute then 0 else v)
  { b with
    sums := sums.map Prod.fst
    sat := satInc 0xFFFF b.sat ((sums.filter (·.2)).length)
    limG := g, q := q, delay := (ys :: b.delay).take 16, out := out
    meters := chans.map (fun ch => (b.meters.getD ch {}).take (if b.set.mute then ys.getD ch 0 else out.getD ch 0)) }

/-- The audio clock of a course (R391). -/
def State.audioClock (s : State) (c : Nat) : AudioClock := if c = 1 then s.audio.clkB else s.audio.clkA

/-- What a bus carries into a Cartouche bus (R380, R387): nothing in Tell. -/
def State.carrierOut (s : State) (b : Bus) (ch : Nat) : List Int :=
  match b.set.carrier with
  | none => []
  | some k =>
    let x := s.bus k
    if !b.set.cart || s.power.mode = .tell || !x.live then [] else [mulQ (x.out.getD ch 0) b.set.duck]

/-- Whether a bus is the carrier of a Cartouche bus (R379). -/
def State.isCarrier (s : State) (b : Nat) : Bool :=
  s.audio.buses.any (fun (e : Nat × Bus) => e.2.live && e.2.set.cart && e.2.set.carrier = some b)

/-- The buses of a course run, Cartouche buses after the others; in Tell a carrier outputs 0 (R387). -/
def State.runBuses (c : Nat) (cs : List AudioPart) (s : State) : State :=
  let mine := s.audio.buses.filter (fun e => e.2.live && e.2.set.course = c)
  let silent := s.audio.muted || (s.audioClock c).locking
  let go (s : State) (e : Nat × Bus) : State :=
    let given (ch : Nat) : List Int :=
      (cs.filter (fun k => k.1 = 1 && k.2.1 = e.1 && k.2.2.1 = ch)).map (fun k => k.2.2.2) ++ s.carrierOut e.2 ch
    s.modBus e.1 (fun b => b.run given (silent || (s.power.mode = .tell && !e.2.set.cart && s.isCarrier e.1)))
  let s := (mine.filter (fun e => !e.2.set.cart)).foldl go s
  (mine.filter (fun e => e.2.set.cart)).foldl go s

/-! ### Ports, talkers and captures -/

/-- The Cartouche bus that holds a slot of a TDM output, and its channel there (R379, R387). -/
def State.slotCart (s : State) (p i : Nat) : Option (Nat × Nat) :=
  (List.find? (fun (e : Nat × Bus) => e.2.live && e.2.set.cart && e.2.set.port = p && decide (e.2.set.slot ≤ i) &&
    decide (i < e.2.set.slot + e.2.set.channels)) s.audio.buses).map (fun e => (e.1, i - e.2.set.slot))

/-- The sample that slot `i` of a TDM output carries (R388). -/
def State.slotOut (s : State) (p : Nat) (t : TdmPort) (i : Nat) : Int :=
  let v := match s.slotCart p i with
    | some (b, ch) => (s.bus b).out.getD ch 0
    | none =>
      let m := t.map.getD i 0
      let b := s.bus (m % 16)
      if bitOf m 15 && b.live && b.set.course = t.course then b.out.getD (m / 16 % 8) 0 else 0
  if t.dataBits = 16 then satTo 16 (roundShift v 8) else satTo 24 v

/-- The TDM outputs of a course: the frame formed at the boundary before starts, and the next is formed (R385). -/
def State.runTdm (c : Nat) (s : State) : State :=
  s.modAudio (fun a => { a with tdmOut := a.tdmOut.map (fun (e : Nat × TdmPort) =>
    if e.2.on && e.2.course = c then
      (e.1, { e.2 with
        out := if a.muted then List.replicate e.2.slots 0 else e.2.nextFrame
        nextFrame := (List.range e.2.slots).map (fun i => s.slotOut e.1 e.2 i) })
    else e) })

/-- What reaches the course's inputs: TDM frames are used at the next boundary, the PDM samples at this one (R385). -/
def State.pdmInputs (inp : CourseInput) (s : State) : State :=
  s.modAudio (fun a => { a with pdmNow := inp.pdm.foldl (fun m e => IMap.put m e.1 (satTo 24 e.2)) a.pdmNow })

def State.tdmInputs (c : Nat) (inp : CourseInput) (s : State) : State :=
  s.modAudio (fun a => { a with tdmIn := a.tdmIn.map (fun (e : Nat × TdmPort) =>
    match inp.tdm.find? (fun k => k.1 = e.1) with
    | some k => if e.2.on && e.2.course = c then
        (e.1, { e.2 with frame := (k.2.take e.2.slots).map (fun v => if e.2.dataBits = 16 then satTo 16 v * 256 else satTo 24 v) })
      else e
    | none => e) })

/-- A talker takes the boundary's samples, and sends a packet when its last sample leaves the limiter (R392). -/
def State.runTalker (n : Nat) (x : Avtp) (s : State) : State :=
  let b := s.bus x.bus
  let fr := (List.range x.channels).map (fun i => if b.live then b.out.getD (x.first + i) 0 else 0)
  let g := (IMap.find? s.disp.gptp x.mac).getD (false, 0, 2 ^ 32)
  let pt := if x.packet.isEmpty then (gptpOf g s.now + x.transit).toNat else x.ptime
  let pk := x.packet ++ [fr]
  let full := decide (x.spp ≤ pk.length)
  let s := s.modAudio (fun a => { a with avtp := IMap.put a.avtp n { x with
    packet := if full then [] else pk, ptime := pt, sent := if full then some (pt, pk) else x.sent } })
  if full then s.modEth x.mac (fun m => { m with tx := satInc 0xFFFFFFFF m.tx 1 }) else s

/-- A listener's sample for this boundary (R392): 0 where none has come due, which after a packet's worth of boundaries
counts as a missing packet. -/
def State.runListener (n : Nat) (x : Avtp) (s : State) : State :=
  let due (e : Meridian × List Int) : Bool := decide (0 ≤ meridianDiff s.now e.1)
  match (x.queue.filter due).getLast? with
  | some e => s.modAudio (fun a => { a with avtp := IMap.put a.avtp n { x with
      queue := x.queue.filter (fun e => !due e), now := e.2, gap := 0 } })
  | none =>
    let lost := x.started && decide (x.spp ≤ x.gap + 1)
    let s := s.modAudio (fun a => { a with avtp := IMap.put a.avtp n { x with
      now := [], gap := if lost then 0 else x.gap + 1, late := if lost then x.late + 1 else x.late } })
    if lost then s.portReport 4 (n - 16) 1 else s

/-- The AVTP streams of a course; streams 16 and up are the listeners. -/
def State.runAvtp (c : Nat) (listeners : Bool) (s : State) : State :=
  s.audio.avtp.foldl (fun s e =>
    if e.2.listener ≠ listeners then s
    else if listeners then (if e.2.course = c then s.runListener e.1 e.2 else s)
    else if (s.bus e.2.bus).set.course = c then s.runTalker e.1 e.2 else s) s

/-- Change a bus's capture. -/
def State.modACap (b : Nat) (f : ACapture → ACapture) (s : State) : State :=
  s.modBus b (fun x => { x with capture := x.capture.map f })

/-- A capture that was told to stop ends once no block is in progress, after the record of its last block (R394). -/
def State.acapStop (b : Nat) (s : State) : State :=
  match (s.bus b).capture with
  | none => s
  | some k =>
    match k.stop with
    | none => s
    | some rs =>
      if (k.live && !k.skip) || k.status.isSome then s
      else
        let s := s.modBus b (fun x => { x with capture := none })
        rs.foldl (fun s r => s.completeOk r ([0, 0] ++ words64 s.now)) s

/-- AUDIO_CAPTURE_BLOCK for a block that has ended (R394). -/
def State.acapEvent (b : Nat) (s : State) : State :=
  match (s.bus b).capture with
  | none => s
  | some k =>
    match k.status with
    | none => s
    | some st =>
      let s := s.eventStatus k.owner 0x0B04 st
        ([word b, word k.page, word k.written, word k.skipped] ++ words64 k.first ++ words64 k.time)
      (s.modACap b (fun k => { k with
        pw := k.pw + word (ceilDiv k.written 4096), status := none, skipped := 0, tail := [] })).acapStop b

/-- Write a capture's whole 64-byte blocks, and with `all` what is left as well; an Atlas fault abandons the rest. -/
def State.acapFlush (b : Nat) (all : Bool) : Nat → State → State
  | 0, s => s
  | fuel + 1, s =>
    match (s.bus b).capture with
    | none => s
    | some k =>
      if !k.live || k.skip || k.status.isSome || k.tail.isEmpty || (k.tail.length < 64 && !all) then s
      else
        let page := (k.page + k.written / 4096) % k.pages
        let (s', n, e) := s.assetWrite k.owner (k.ring + page * 4096 + k.written % 4096) (k.tail.take 64)
        match e with
        | some f => (s.atlasFault k.owner f 0x030A 0).modACap b (fun k => { k with
            status := some eFault, tail := [], skip := true })
        | none => State.acapFlush b all fuel (s'.modACap b (fun k => { k with
            written := k.written + n, tail := k.tail.drop 64 }))

/-- A block begins, where the ring has room for it; otherwise it is skipped and counted (R393, R300). -/
def State.acapBegin (b : Nat) (course : Course) (s : State) : State :=
  match (s.bus b).capture with
  | none => s
  | some k =>
    let skip (s : State) : State := s.modACap b (fun k => { k with
      live := true, skip := true, count := 0, skipped := k.skipped + 1 })
    match s.assetRead k.owner k.cons 4 with
    | .error f => skip (s.atlasFault k.owner f 0x030A 0)
    | .ok bs =>
      let s := s.noteAssetRead k.owner k.cons 4
      let need := ceilDiv (k.block * (s.bus b).set.channels * 4) 4096
      if (k.pw - word (leNat bs)).toNat + need ≤ k.pages then
        s.modACap b (fun k => { k with
          live := true, skip := false, count := 0, page := k.pw.toNat % k.pages, written := 0, tail := []
          first := course.count, time := s.now })
      else skip s

/-- A bus's capture takes the boundary's samples (R393, R394). -/
def State.runCapture (b : Nat) (course : Course) (s : State) : State :=
  let s := if ((s.bus b).capture.map (fun k => k.live)).getD true then s else ((s.acapEvent b).acapStop b)
  match (s.bus b).capture with
  | none => s
  | some k =>
    let s := if k.live then s else s.acapBegin b course
    let x := s.bus b
    let bs := (List.range x.set.channels).flatMap (fun ch =>
      leBytes 4 (wrapTo 32 (if k.dead || !x.live then 0 else x.out.getD ch 0)))
    let last (k : ACapture) : Bool := decide (k.block ≤ k.count + 1)
    let s := s.modACap b (fun k => if k.skip then k else { k with tail := k.tail ++ bs })
    let s := s.acapFlush b false (k.block * x.set.channels * 4 / 64 + 2)
    match (s.bus b).capture with
    | none => s
    | some k =>
      if last k then
        let s := s.acapFlush b true 2
        s.modACap b (fun k => { k with
          live := false, count := 0
          status := if k.skip || k.status.isSome then k.status else some eOk })
      else s.modACap b (fun k => { k with count := k.count + 1 })

/-- Old copies of samples that no Cartouche voice plays any more are freed (R386). -/
def State.pruneSamples (s : State) : State :=
  let playing := (s.audio.voices.filter (fun e => decide (96 ≤ e.1) && e.2.phase ≠ .idle)).flatMap (fun e =>
    (e.2.src.map (·.pages)).getD [])
  s.modDisp (fun d => { d with cart := { d.cart with
    kept := (d.cart.kept.map (fun (e : Nat × List Nat) => (e.1, e.2.filter (fun p => playing.contains p)))).filter
      (fun e => !e.2.isEmpty) } })

/-- The modes in which the audio engine runs (Table 16.1). -/
def State.audioRuns (s : State) : Bool :=
  (s.power.mode = .tell || s.power.mode = .drive || s.power.mode = .service) && s.boot.stage = .running

/-- COURSE_SAMPLE_BOUNDARY (R368). -/
def State.courseBoundary (c : Nat) (inp : CourseInput) (s : State) : State :=
  if !s.audioRuns || 2 < c then s
  else
    let k : Course := { s.course c with count := (s.course c).count + 1, at_ := s.now }
    let s := s.modAudio (fun a => { a with courses := IMap.put a.courses c k })
    let s := ((s.audioCommands c).pdmInputs inp).runAvtp c true
    let vs := (s.audio.voices.filter (fun e => e.2.course = c && (e.2.owner.isSome || decide (96 ≤ e.1)))).map Prod.fst
    let (s, cs) := vs.foldl (State.runVoice inp.starved) (s, [])
    let (s, cs) := s.runLanes c cs
    let s := ((s.runBuses c cs).runTdm c).runAvtp c false
    let s := s.modAudio (fun a => { a with lanes := a.lanes.map (fun (e : Nat × Lane) =>
      if e.2.fromBus && e.2.srcCourse = c then (e.1, { e.2 with input := (s.bus e.2.srcBus).out.getD e.2.srcCh 0 }) else e) })
    let bs := (s.audio.buses.filter (fun e => e.2.set.course = c && e.2.capture.isSome)).map Prod.fst
    let s := bs.foldl (fun s b => s.runCapture b (s.course c)) s
    ((s.tdmInputs c inp).pruneSamples).flushReports

def execCourseSampleBoundary (dt c : Nat) (inp : CourseInput) (s : State) : Host.Outcome State Fault Refusal :=
  .next ((s.tick dt).courseBoundary c inp).advanced

/-! ### The other events -/

/-- METER_WINDOW_END (R382). -/
def State.meterWindow (c : Nat) (s : State) : State :=
  s.modAudio (fun a => { a with
    meters := a.meters.map (fun (e : Nat × Meter) =>
      if (IMap.get a.voices {} e.1).course = c then (e.1, e.2.windowEnd s.now) else e)
    buses := a.buses.map (fun (e : Nat × Bus) =>
      if e.2.set.course = c then (e.1, { e.2 with meters := e.2.meters.map (Meter.windowEnd s.now) }) else e) })

def execMeterWindowEnd (dt c : Nat) (s : State) : Host.Outcome State Fault Refusal := .next ((s.tick dt).meterWindow c)

/-- The words of AUDIO_METER (Table 14.8). -/
def Meter.words (m : Meter) (what ch : Nat) : List Word :=
  [word what, word ch, word m.rms, word m.last, word m.heldPeak] ++ words64 m.ends

/-- AUDIO_METER (R382): to the subscribed owners of voices and buses. -/
def State.audioMeters (s : State) : State :=
  let s := s.audio.voices.foldl (fun s e => match e.2.tenant e.1 with
    | none => s
    | some t =>
      let h := e.2.handle e.1
      s.notify 0x0B03 h ((IMap.get s.audio.meters {} e.1).words h 0) (· = t)) s
  s.audio.buses.foldl (fun s e => match e.2.owner with
    | none => s
    | some t => (e.2.meters.zipIdx).foldl (fun s m => s.notify 0x0B03 e.1 (m.1.words e.1 m.2) (· = t)) s) s

def execAudioMeter (dt : Nat) (s : State) : Host.Outcome State Fault Refusal := .next (s.tick dt).audioMeters

/-- BRIDGE_LANE_RANGE_TIMEOUT (R384): the ratio has stayed out of range for 10 ms, or has returned. -/
def State.laneRange (l : Nat) (ok : Bool) (s : State) : State :=
  match IMap.find? s.audio.lanes l with
  | none => s
  | some x =>
    if x.unlocked ≠ ok then s
    else (s.modLane l (fun x => { x with unlocked := !ok })).portReport (if ok then 3 else 2) l 1

def execBridgeLaneRangeTimeout (dt lane : Nat) (inRange : Bool) (s : State) : Host.Outcome State Fault Refusal :=
  .next ((s.tick dt).laneRange lane inRange)

/-- AUDIO_CLOCK_RELOCK (R391): clock 0 is A, of Courses 48 and 16, and clock 1 is B, of Course 44. -/
def State.audioRelock (k : Nat) (s : State) : State :=
  let x := if k = 0 then s.audio.clkA else s.audio.clkB
  if 1 < k || !x.locking then s
  else
    let y := { x with relock := [], locking := false }
    let s := s.modAudio (fun a => if k = 0 then { a with clkA := y } else { a with clkB := y })
    let bit : BitVec 15 := 1 <<< (12 + k)
    let s := { s with clocks := { s.clocks with
      locked := if s.audioClockLost k then s.clocks.locked &&& ~~~bit else s.clocks.locked ||| bit } }
    let cs := if k = 0 then [0, 2] else [1]
    let s := cs.foldl (fun s c => s.portReport 5 c 1) s
    x.relock.foldl (fun s r => s.completeOk r ([word ((cs.map (fun c => 2 ^ c)).sum), 0] ++ words64 s.now)) s

def execAudioClockRelock (dt clock : Nat) (s : State) : Host.Outcome State Fault Refusal :=
  .next ((s.tick dt).audioRelock clock)

/-- TDM_FRAME_SLIP (R389): an input port drops or repeats a frame by what COURSE_SAMPLE_BOUNDARY delivers; an output port
sends its frame again. A clock master does not slip. -/
def State.tdmSlip (p : Nat) (input : Bool) (s : State) : State :=
  let x := if input then IMap.find? s.audio.tdmIn p else IMap.find? s.audio.tdmOut p
  match x with
  | none => s
  | some t => if !t.on || bitOf t.format 2 then s else s.portReport 1 (if input then p + 4 else p) 1

def execTdmFrameSlip (dt port : Nat) (input : Bool) (s : State) : Host.Outcome State Fault Refusal :=
  .next ((s.tick dt).tdmSlip port input)

/-- AVTP_PACKET_RECEIVE (R392): each sample waits for its presentation time, converted to Meridian (R32). A packet whose
time has passed plays as 0 and is counted. -/
def State.avtpPacket (n ptime : Nat) (samples : List (List Int)) (s : State) : State :=
  match IMap.find? s.audio.avtp (16 + n) with
  | none => s
  | some x =>
    let s := s.modEth x.mac (fun m => { m with rx := satInc 0xFFFFFFFF m.rx 1 })
    let g := (IMap.find? s.disp.gptp x.mac).getD (false, 0, 2 ^ 32)
    let ns := signed 32 (wrapTo 32 ((ptime : Int) - gptpOf g s.now))
    let t : Meridian := s.now + BitVec.ofInt 64 (ns * 2 ^ 32 / (max 1 g.2.2 : Nat))
    if meridianDiff t s.now < 0 then
      (s.modAudio (fun a => { a with avtp := IMap.put a.avtp (16 + n) { x with started := true, late := x.late + 1, gap := 0 } })).portReport
        4 n 1
    else
      let q := samples.zipIdx.map (fun e => (t + BitVec.ofNat 64 (e.2 * 1024000000 / courseRate x.course), e.1))
      s.modAudio (fun a => { a with avtp := IMap.put a.avtp (16 + n) { x with started := true, queue := x.queue ++ q } })

def execAvtpPacketReceive (dt stream ptime : Nat) (samples : List (List Int)) (s : State) :
    Host.Outcome State Fault Refusal := .next ((s.tick dt).avtpPacket stream ptime samples)

/-- AUDIO_CAPTURE_BLOCK (R394). -/
def execAudioCaptureBlock (dt b : Nat) (s : State) : Host.Outcome State Fault Refusal := .next ((s.tick dt).acapEvent b).advanced

/-- AUDIO_CAPTURE_STALL (R394): the rest of the block is abandoned at the next 64-byte boundary, where the writes stand. -/
def State.acapStall (b : Nat) (s : State) : State :=
  match (s.bus b).capture with
  | none => s
  | some k =>
    if !k.live || k.skip || k.status.isSome then s
    else s.modACap b (fun k => { k with status := some eTrunc, tail := [], skip := true })

def execAudioCaptureStall (dt b : Nat) (s : State) : Host.Outcome State Fault Refusal := .next ((s.tick dt).acapStall b)

end Sys2Proof.Machine
end

