-- ==== Sys2Proof/Machine/AudioCmds.lean ====
section
/-! DEFINITION. The commands of group 0x0B (R368 to R393), but CARTOUCHE_VOICE_SET. -/

namespace Sys2Proof.Machine

def eCartBus : Nat := 0x0B01
def eCourse : Nat := 0x0B02

/-! ### What the commands share -/

/-- The apply time of a command (R368) and whether it has passed; none where the command names none. -/
def State.audioTime (s : State) (valid : Bool) (t off : Nat) : Except CErr (Option Meridian × Bool) :=
  if !valid then .ok (none, false)
  else
    let m : Meridian := BitVec.ofNat 64 t
    let d := meridianDiff m s.now
    if 61440000000 < d then .error { status := eRange, detail := off } else .ok (some m, decide (d < 0))

/-- An accepted command waits for a boundary of its course. -/
def State.audioWait (r : CmdRef) (course : Nat) (at_ : Option Meridian × Bool) (ws : List Word) (k : AudioChange)
    (s : State) : CmdRes :=
  .ok (s.modAudio (fun a => { a with waits := a.waits ++ [⟨r, course, at_.1, at_.2, ws, k⟩] }), .later)

/-- The voice that a handle names for its owner (R369). -/
def State.needVoice (s : State) (t h : Nat) : Except CErr Nat :=
  if t = 1 ∧ 0x100 ≤ h ∧ h ≤ 0x103 then .ok (96 + (h - 0x100))
  else
    let v := h % 0x10000
    let x := s.voice v
    if v ≤ 95 ∧ x.owner = some t ∧ x.gen = h / 0x10000 ∧ x.freeDue = false then .ok v
    else .error { status := eNotOwner, detail := 0x08 }

/-- What the commands processed so far leave of a voice (R71): a source, a fault, and whether it is idle. -/
def State.voicePlan (s : State) (v : Nat) : Bool × Bool × Bool :=
  let x := s.voice v
  s.audio.waits.foldl (fun (p : Bool × Bool × Bool) w => match w.change with
    | .write k g => if k = v && g.src.isSome then (true, false, p.2.2) else p
    | .start k => if k = v then (p.1, p.2.1, false) else p
    | .stop k cut => if k = v && cut then (p.1, p.2.1, true) else p
    | _ => p) (x.src.isSome, x.fault ≠ 0 || x.faultDue ≠ 0, x.phase = EnvPhase.idle)

/-- The settings of a bus that its owner has not freed, as the commands processed so far leave them. -/
def State.busPlan? (s : State) (b : Nat) : Option (Nat × BusSet) :=
  let x := s.bus b
  match x.owner with
  | some t => if x.freeDue then none else some (t, x.plan)
  | none => none

/-- A bus that a tenant may name as a destination: its own or a shared one. -/
def State.needBus (s : State) (t b off : Nat) : Except CErr BusSet :=
  match s.busPlan? b with
  | some (o, g) => if o = t || g.shared then .ok g else .error { status := eNotOwner, detail := off }
  | none => .error { status := eNotOwner, detail := off }

/-- The settings of a bridge lane that its owner has not freed, as the commands processed so far leave them (R71). -/
def State.lanePlan? (s : State) (l : Nat) : Option Lane :=
  s.audio.waits.foldl (fun (p : Option Lane) w => match w.change with
    | .lane k x => if k = l then some x else p
    | .freeLane k => if k = l then none else p
    | _ => p) (if (s.lane l).owner.isSome then some (s.lane l) else none)

/-- A TDM output or input as the commands processed so far leave it (R71). -/
def State.tdmPlan (s : State) (output : Bool) (p : Nat) : Option TdmPort :=
  s.audio.waits.foldl (fun (x : Option TdmPort) w => match w.change with
    | .tdm o k t => if o == output && k = p then some t else x
    | .portOff k => if k = p then none else x
    | _ => x) (IMap.find? (if output then s.audio.tdmOut else s.audio.tdmIn) p)

/-- The course of a PDM pin as the commands processed so far leave it (R71): PDM0 runs on Course 16 (R390). -/
def State.pdmPlan (s : State) (p : Nat) : Option Nat :=
  if p = 0 then some 2
  else s.audio.waits.foldl (fun (x : Option Nat) w => match w.change with
    | .pdm k c => if k = p then some c else x
    | _ => x) (IMap.find? s.audio.pdm p)

/-- An AVTP stream as the commands processed so far leave it (R71). -/
def State.avtpPlan (s : State) (n : Nat) : Option Avtp :=
  s.audio.waits.foldl (fun (x : Option Avtp) w => match w.change with
    | .avtp k g => if k = n then some g else x
    | .avtpOff k => if k = n then none else x
    | _ => x) (IMap.find? s.audio.avtp n)

/-! ### Voices -/

/-- VOICE_CREATE (R370). -/
def voiceCreateBody (c : Cmd) (r : CmdRef) (s : State) : CmdRes := do
  let op := c.u8 0x08
  need (decide (op ≤ 1)) eRange 0x08
  if op = 1 then
    c.reserved [(0x08, 1), (0x0C, 4)]
    let h := c.u32 0x0C
    need (c.tenant ≠ 1 || h < 0x100 || decide (0x103 < h)) eRange 0x0C
    let v ← (s.needVoice c.tenant h).mapError (fun e => { e with detail := 0x0C })
    (s.modVoice v (fun x => { x with freeDue := true })).audioWait r (s.voice v).course (none, false) [] (.destroy v)
  else
    c.reserved [(0x08, 4)] [(0x0C, 4)]
    let kind := c.u8 0x09
    let course := c.u8 0x0A
    let n := c.u8 0x0B
    need (decide (kind ≤ 4)) eRange 0x09
    need (decide (course ≤ 2)) eRange 0x0A
    need (decide (n ≤ 95) || n = 0xFF) eRange 0x0B
    let held := (s.audio.voices.filter (fun e => e.2.owner = some c.tenant)).length
    need (decide (held < ((s.tenant? c.tenant).map (·.quotas.voices)).getD 0)) eQuota
    let free (v : Nat) : Bool := (s.voice v).owner.isNone
    match (if n = 0xFF then lowest 96 free else if free n then some n else none) with
    | none => .error { status := eNoRes }
    | some v =>
      let g := (IMap.get s.audio.gens 0 v + 1) % 0x10000
      let x : Voice := { gen := g, owner := some c.tenant, kind := kind, course := course }
      let s := s.modAudio (fun a => { a with voices := IMap.put a.voices v x, gens := IMap.put a.gens v g })
      s.audioWait r course (none, false) [word (x.handle v)] .note

/-- The fields of a VOICE_SET wider than a byte. -/
def voiceSetFields : List (Nat × Nat) :=
  [(0x10, 8), (0x18, 8), (0x20, 4), (0x24, 4), (0x28, 4), (0x2C, 2), (0x30, 2), (0x32, 2), (0x34, 2), (0x36, 2)] ++
    (List.range 8).map (fun i => (0x44 + 8 * (i / 2) + 2 * (i % 2), 2))

/-- The fields of a VOICE_SET that its mask, kind, flags and sends use (Tables 14.2 and 14.3). -/
def voiceSetUsed (c : Cmd) : List (Nat × Nat) :=
  let m := c.u8 0x0C
  let kind := c.u8 0x0D
  let src := bitOf m 0
  [(0x08, 7)] ++ (if bitOf (c.u8 0x0E) 0 then [(0x10, 8)] else []) ++ (if src then [(0x0F, 1)] else []) ++
    (if src && decide (kind ≤ 1) then [(0x18, 8)] else []) ++ (if src && kind = 4 then [(0x18, 2)] else []) ++
    (if src && kind = 0 then [(0x20, 4)] else []) ++ (if src && bitOf (c.u8 0x0E) 1 then [(0x24, 4)] else []) ++
    (if bitOf m 1 then [(0x28, 4)] else []) ++ (if bitOf m 2 then [(0x2C, 2)] else []) ++
    (if bitOf m 3 then [(0x30, 8)] else []) ++
    (if bitOf m 4 then (List.range 4).flatMap (fun i =>
        let o := 0x40 + 8 * i
        match c.u8 o with
        | 1 => [(o, 3), (o + 4, 4)]
        | 2 => [(o, 2), (o + 4, 2)]
        | _ => [(o, 1)])
      else [])

/-- A stream source that exists on a course (R388, R390, R392). -/
def State.streamExists (s : State) (course format addr : Nat) : Bool :=
  let port := addr % 256
  let sub := addr / 256 % 256
  match format with
  | 0 => match s.tdmPlan false port with
    | none => false
    | some p => p.on && p.course = course && decide (sub < p.slots)
  | 1 => decide (sub ≤ 1) && s.pdmPlan port = some course
  | _ => match (if port ≤ 15 then s.avtpPlan (16 + port) else none) with
    | none => false
    | some p => p.course = course && decide (sub < p.channels)

/-- The range checks on the source group (Table 14.2, R386). -/
def voiceSourceRange (c : Cmd) (v course : Nat) (s : State) : Except CErr Unit := do
  let kind := c.u8 0x0D
  let fmt := c.u8 0x0F
  let loop := bitOf (c.u8 0x0E) 1
  let len := c.u32 0x20
  match kind with
  | 0 =>
    need (decide (fmt ≤ 2)) eRange 0x0F
    if 96 ≤ v then
      match (if c.u64 0x18 ≤ 63 then IMap.find? s.disp.cart.samples (c.u64 0x18) else none) with
      | none => need false eRange 0x18
      | some q => do
        need (fmt = if q.format = 0 then 0 else 2) eRange 0x0F
        need (decide (len ≤ q.length)) eRange 0x20
    need (decide (1 ≤ len) && decide (len ≤ 0x1000000)) eRange 0x20
    need (!loop || decide (c.u32 0x24 < len)) eRange 0x24
  | 1 =>
    need (decide (fmt ≤ 1)) eRange 0x0F
    if 96 ≤ v then
      match (if c.u64 0x18 ≤ 63 then IMap.find? s.disp.cart.samples (c.u64 0x18) else none) with
      | none => need false eRange 0x18
      | some q => do
        need (q.format = 0 && fmt = 0) eRange 0x0F
        need (q.length = 256) eRange 0x18
  | 2 => need (decide (1 ≤ fmt)) eRange 0x0F
  | 3 => need (decide (fmt ≤ 1)) eRange 0x0F
  | _ =>
    need (decide (fmt ≤ 2)) eRange 0x0F
    need (s.streamExists course fmt (c.u16 0x18)) eRange 0x18

/-- The alignment checks on the source group. -/
def voiceSourceAlign (c : Cmd) (v : Nat) : Except CErr Unit := do
  let kind := c.u8 0x0D
  if kind ≤ 1 ∧ v < 96 then need (c.u64 0x18 % 64 = 0) eAlign 0x18
  if kind = 0 ∧ c.u8 0x0F = 2 then
    need (c.u32 0x20 % 120 = 0) eAlign 0x20
    need (!bitOf (c.u8 0x0E) 1 || c.u32 0x24 % 120 = 0) eAlign 0x24

/-- A send of the extension (Table 14.3). -/
def voiceSend (c : Cmd) (i : Nat) : Send :=
  let o := 0x40 + 8 * i
  { target := c.u8 o, index := c.u8 (o + 1), ch := c.u8 (o + 2), ga := c.u16 (o + 4), gb := c.u16 (o + 6) }

/-- A check on each send, given its offset. -/
def voiceSends (c : Cmd) (f : Nat → Send → Except CErr Unit) : Except CErr Unit :=
  (List.range 4).forM (fun i => f (0x40 + 8 * i) (voiceSend c i))

/-- The checks on the sends, in the order of R371; a channel is judged once its bus is known. -/
def voiceSendChecks (c : Cmd) (v course : Nat) (s : State) : Except CErr Unit := do
  voiceSends c (fun o e => match e.target with
    | 1 => (s.needBus c.tenant e.index (o + 1)).map (fun _ => ())
    | 2 => need ((s.lanePlan? e.index).any (fun x => decide (x.owner = some c.tenant))) eNotOwner (o + 1)
    | _ => .ok ())
  voiceSends c (fun o e => match e.target with
    | 1 => do
      let g ← s.needBus c.tenant e.index (o + 1)
      need (decide (e.ch < g.channels)) eRange (o + 2)
      need (e.gb = 0 || decide (e.ch + 1 < g.channels)) eRange (o + 6)
    | _ => .ok ())
  voiceSends c (fun o e => match e.target with
    | 1 => do
      let g ← s.needBus c.tenant e.index (o + 1)
      need (g.course = course) eCourse (o + 1)
    | 2 => need ((s.lanePlan? e.index).any (fun x => decide (x.srcCourse = course))) eCourse (o + 1)
    | _ => .ok ())
  voiceSends c (fun o e => match e.target with
    | 1 => do
      let g ← s.needBus c.tenant e.index (o + 1)
      need (g.cart = decide (96 ≤ v)) eCartBus (o + 1)
    | 2 => need (decide (v < 96)) eCartBus (o + 1)
    | _ => .ok ())

/-- The 256 samples of a wavetable, read when the command is processed (R372, R386). -/
def voiceTable (c : Cmd) (v : Nat) (q : VSource) (s : State) : Except CErr (List Int) :=
  if 96 ≤ v then
    match (List.range 256).mapM (fun (i : Nat) => s.dataSample v 1 q i) with
    | .ok xs => .ok xs
    | .error _ => .error { status := eFault, detail := 0x18 }
  else do
    let k := if q.format = 0 then 2 else 3
    let bs ← readFor s c.tenant q.addr (256 * k) 0x18
    .ok ((List.range 256).map (fun (i : Nat) => if k = 2 then fieldS bs (2 * i) 2 * 256 else fieldS bs (3 * i) 3))

/-- The checks of VOICE_SET in their order (R371), and what they find: the voice, the time and the source. -/
def voiceSetChecks (c : Cmd) (s : State) : Except CErr (Nat × (Option Meridian × Bool) × VSource) := do
  let m := c.u8 0x0C
  let kind := c.u8 0x0D
  let fl := c.u8 0x0E
  need (c.ext = if bitOf m 4 then 1 else 0) eBadCmd 0x02
  need (decide (1 ≤ m) && decide (m ≤ 31)) eRange 0x0C
  need (decide (kind ≤ 4)) eRange 0x0D
  need (decide (fl ≤ if kind = 0 && bitOf m 0 then 3 else 1)) eBadCmd 0x0E
  if bitOf m 4 then voiceSends c (fun o e => need (decide (e.target ≤ 2)) eRange o)
  c.reserved (voiceSetUsed c) voiceSetFields
  let v ← s.needVoice c.tenant (c.u32 0x08)
  let course := (s.voice v).course
  need (if v < 96 then decide (kind = (s.voice v).kind) else decide (kind ≤ 3)) eRange 0x0D
  let at_ ← s.audioTime (bitOf fl 0) (c.u64 0x10) 0x10
  if bitOf m 0 then voiceSourceRange c v course s
  if bitOf m 1 then
    need (decide (1 ≤ c.u32 0x28)) eRange 0x28
    need (kind ≠ 4 || c.u32 0x28 = 0x01000000) eRange 0x28
  if bitOf m 4 then
    voiceSends c (fun o e => need (e.target = 0 || decide (e.index ≤ if e.target = 1 then 15 else 31)) eRange (o + 1))
    voiceSends c (fun o e => need (e.target ≠ 1 || decide (e.ch ≤ 7)) eRange (o + 2))
  if bitOf m 0 then voiceSourceAlign c v
  if bitOf m 4 then voiceSendChecks c v course s
  let q : VSource := {
    format := c.u8 0x0F
    addr := if kind ≤ 1 then c.u64 0x18 else if kind = 4 then c.u16 0x18 else 0xFFFF
    length := if kind = 0 then c.u32 0x20 else 0
    loop := if kind = 0 && bitOf fl 1 then some (c.u32 0x24) else none }
  let q ← if bitOf m 0 && kind = 1 then
      (voiceTable c v (s.withPages v q) s).map (fun t => { q with table := t })
    else .ok q
  .ok (v, at_, q)

/-- VOICE_SET (R371). -/
def voiceSetBody (c : Cmd) (r : CmdRef) (s : State) : CmdRes := do
  let (v, at_, q) ← voiceSetChecks c s
  let m := c.u8 0x0C
  let kind := c.u8 0x0D
  let w : VoiceWrite := {
    kind := if 96 ≤ v then some kind else none
    src := if bitOf m 0 then some q else none
    step := if bitOf m 1 then some (c.u32 0x28) else none
    gain := if bitOf m 2 then some (c.u16 0x2C) else none
    env := if bitOf m 3 then some (c.u16 0x30, c.u16 0x32, c.u16 0x34, c.u16 0x36) else none
    sends := if bitOf m 4 then some (((List.range 4).map (voiceSend c)).filter (fun e => e.target != 0)) else none }
  let s := if bitOf m 0 && kind = 1 && decide (v < 96) then
      s.noteAssetRead c.tenant q.addr (if q.format = 0 then 512 else 768)
    else s
  s.audioWait r (s.voice v).course at_ [] (.write v w)

/-- VOICE_START (R377). -/
def voiceStartBody (c : Cmd) (r : CmdRef) (s : State) : CmdRes := do
  let fl := c.u8 0x0C
  need (decide (fl ≤ 1)) eBadCmd 0x0C
  c.reserved ([(0x08, 5)] ++ (if fl = 1 then [(0x10, 8)] else [])) [(0x10, 8)]
  let v ← s.needVoice c.tenant (c.u32 0x08)
  let at_ ← s.audioTime (fl = 1) (c.u64 0x10) 0x10
  let p := s.voicePlan v
  need (p.1 && !p.2.1) eState
  s.audioWait r (s.voice v).course at_ [] (.start v)

/-- VOICE_STOP (R377). -/
def voiceStopBody (c : Cmd) (r : CmdRef) (s : State) : CmdRes := do
  let fl := c.u8 0x0C
  let op := c.u8 0x0D
  need (decide (fl ≤ 1)) eBadCmd 0x0C
  c.reserved ([(0x08, 6)] ++ (if fl = 1 then [(0x10, 8)] else [])) [(0x10, 8)]
  need (decide (op ≤ 1)) eRange 0x0D
  let v ← s.needVoice c.tenant (c.u32 0x08)
  let at_ ← s.audioTime (fl = 1) (c.u64 0x10) 0x10
  need (!(s.voicePlan v).2.2) eState
  s.audioWait r (s.voice v).course at_ [] (.stop v (op = 1))

/-! ### Buses -/

/-- The highest channel of a bus that a send, lane or carrier names, by now or by a command that waits, plus one; `some 0`
stands for a carrier, which names the bus alone. -/
def State.busNamed (s : State) (b : Nat) : List Nat :=
  let ofLane (x : Lane) : List Nat := if x.dead then [] else
    (if x.dstBus = b then [x.dstCh + 1] else []) ++ (if x.fromBus && x.srcBus = b then [x.srcCh + 1] else [])
  let ofSends (xs : List Send) : List Nat := (xs.filter (fun e => e.target = 1 && e.index = b)).map (fun e =>
    if e.gb = 0 then e.ch + 1 else e.ch + 2)
  s.audio.voices.flatMap (fun e => ofSends e.2.sends) ++
    s.audio.waits.flatMap (fun w => match w.change with
      | .write _ g => ofSends (g.sends.getD [])
      | .lane _ x => ofLane x
      | _ => []) ++
    s.audio.lanes.flatMap (fun e => ofLane e.2) ++
    (s.audio.buses.filter (fun e => !e.2.freeDue && e.2.owner.isSome && e.2.plan.carrier = some b)).map (fun _ => 0)

/-- The Cartouche buses that hold slots of a TDM output, as processed commands leave them, other than bus `b`: first slot
and count. -/
def State.cartSlots (s : State) (port : Nat) (b : Option Nat) : List (Nat × Nat) :=
  (s.audio.buses.filter (fun e => e.2.owner.isSome && !e.2.freeDue && e.2.plan.cart && e.2.plan.port = port &&
    some e.1 ≠ b)).map (fun e => (e.2.plan.slot, e.2.plan.channels))

/-- The settings that a BUS_SET asks for (R379). -/
def busSetOf (c : Cmd) : BusSet :=
  let fl := c.u8 0x0C
  { course := c.u8 0x0A, channels := c.u8 0x0B, shared := bitOf fl 0, cart := bitOf fl 1, mute := bitOf fl 2
    carrier := if c.u8 0x0D = 0xFF then none else some (c.u8 0x0D)
    gain := c.u16 0x0E, threshold := c.u32 0x10, release := c.u16 0x14, duck := c.u16 0x16
    port := c.u8 0x18, slot := c.u8 0x19 }

/-- BUS_SET (R379). -/
def busSetBody (c : Cmd) (r : CmdRef) (s : State) : CmdRes := do
  let op := c.u8 0x08
  let n := c.u8 0x09
  let fl := c.u8 0x0C
  need (decide (op ≤ 1)) eRange 0x08
  need (if op = 0 then decide (fl ≤ 15) else fl = 0 || fl = 8) eBadCmd 0x0C
  c.reserved ((if op = 0 then [(0x08, 0x12)] else [(0x08, 2), (0x0C, 1)]) ++ (if bitOf fl 3 then [(0x20, 8)] else []))
    [(0x0E, 2), (0x10, 4), (0x14, 2), (0x16, 2), (0x20, 8)]
  if op = 1 then
    need (decide (n ≤ 15)) eRange 0x09
    let at_ ← s.audioTime (bitOf fl 3) (c.u64 0x20) 0x20
    match s.busPlan? n with
    | none => .error { status := eNotOwner, detail := 0x09 }
    | some (o, g) => do
      need (o = c.tenant) eNotOwner 0x09
      (s.modBus n (fun x => { x with freeDue := true })).audioWait r g.course at_ [word n] (.freeBus n)
  else
    let cart := bitOf fl 1
    let car := c.u8 0x0D
    let g := busSetOf c
    need (decide (n ≤ 15) || n = 0xFF) eRange 0x09
    need (decide (g.course ≤ if cart then 0 else 2)) eRange 0x0A
    need (decide (1 ≤ g.channels) && decide (g.channels ≤ 8)) eRange 0x0B
    need (!(cart && bitOf fl 2)) eRange 0x0C
    need (car = 0xFF || (cart && (match s.busPlan? car with | some (_, k) => k.course = 0 | none => false))) eRange 0x0D
    need (decide (1 ≤ g.threshold) && decide (g.threshold ≤ 0x7FFFFF)) eRange 0x10
    need (decide (1 ≤ g.release)) eRange 0x14
    need (cart || g.duck = 0) eRange 0x16
    need (decide (g.port ≤ if cart then 3 else 0)) eRange 0x18
    need (decide (g.slot ≤ if cart then 15 else 0)) eRange 0x19
    let at_ ← s.audioTime (bitOf fl 3) (c.u64 0x20) 0x20
    need (!cart || c.tenant = 1) eDenied 0x0C
    let mine := n ≤ 15 && (s.busPlan? n).map Prod.fst = some c.tenant
    need (n = 0xFF || mine || (s.bus n).owner.isNone || (s.bus n).owner = some c.tenant) eNotOwner 0x09
    let free (b : Nat) : Bool := (s.bus b).owner.isNone
    match (if mine then some n else if n = 0xFF then lowest 16 free else if free n then some n else none) with
    | none => .error { status := eNoRes }
    | some b => do
      let named := s.busNamed b
      need (!mine || named.isEmpty || (g.course = (s.bus b).plan.course && named.all (fun k => decide (k ≤ g.channels))))
        eBusy
      need (!cart || (match s.tdmPlan true g.port with
        | none => false
        | some p => p.on && p.course = 0 && decide (g.slot + g.channels ≤ p.slots))) eState
      need (!cart || !(s.cartSlots g.port (some b)).any (fun k =>
        decide (k.1 < g.slot + g.channels) && decide (g.slot < k.1 + k.2))) eCartBus
      let s := s.modBus b (fun x => if mine then { x with plan := g }
        else { owner := some c.tenant, plan := g, set := g, capture := x.capture })
      s.audioWait r g.course at_ [word b] (.bus b g)

/-! ### Bridges -/

/-- The lane that a BRIDGE_SET asks for (R383). -/
def laneOf (c : Cmd) : Lane :=
  { owner := some c.tenant, fromBus := c.u8 0x0A = 1, srcCourse := c.u8 0x0B, srcBus := c.u8 0x0C, srcCh := c.u8 0x0D
    dstBus := c.u8 0x0E, dstCh := c.u8 0x0F, gain := c.u16 0x10 }

/-- BRIDGE_SET (R383): a lane belongs to its owner from processing on, and is set or freed at the first boundary of its
destination's course. -/
def bridgeSetBody (c : Cmd) (r : CmdRef) (s : State) : CmdRes := do
  let op := c.u8 0x08
  let n := c.u8 0x09
  need (decide (op ≤ 1)) eRange 0x08
  if op = 1 then
    c.reserved [(0x08, 2)] [(0x10, 2)]
    need (decide (n ≤ 31)) eRange 0x09
    match s.lanePlan? n with
    | none => .error { status := eNotOwner, detail := 0x09 }
    | some x => do
      need (x.owner = some c.tenant) eNotOwner 0x09
      s.audioWait r (s.bus x.dstBus).plan.course (none, false) [word n] (.freeLane n)
  else
    let src := c.u8 0x0A
    need (decide (src ≤ 1)) eRange 0x0A
    c.reserved ([(0x08, 4), (0x0E, 4)] ++ (if src = 1 then [(0x0C, 2)] else []))
    let sc := c.u8 0x0B
    let sb := c.u8 0x0C
    let sch := c.u8 0x0D
    let db := c.u8 0x0E
    let dch := c.u8 0x0F
    need (decide (n ≤ 31) || n = 0xFF) eRange 0x09
    need (decide (sc ≤ 2)) eRange 0x0B
    need (decide (sb ≤ 15)) eRange 0x0C
    need (decide (sch ≤ 7)) eRange 0x0D
    need (decide (db ≤ 15)) eRange 0x0E
    need (decide (dch ≤ 7)) eRange 0x0F
    need (n = 0xFF || (s.lane n).owner.isNone || (s.lane n).owner = some c.tenant) eNotOwner 0x09
    let source := if src = 1 then (s.busPlan? sb).map Prod.snd else none
    need (src = 0 || (s.busPlan? sb).map Prod.fst = some c.tenant) eNotOwner 0x0C
    let dst ← s.needBus c.tenant db 0x0E
    need (dst.course ≠ sc) eRange 0x0B
    need ((source.map (fun g => decide (g.course = sc))).getD true) eRange 0x0C
    need ((source.map (fun g => decide (sch < g.channels))).getD true) eRange 0x0D
    need (decide (dch < dst.channels)) eRange 0x0F
    let mine := n ≤ 31 && (s.lanePlan? n).any (fun x => decide (x.owner = some c.tenant))
    let free (l : Nat) : Bool := (s.lane l).owner.isNone
    match (if mine then some n else if n = 0xFF then lowest 32 free else if free n then some n else none) with
    | none => .error { status := eNoRes }
    | some l => do
      need (!dst.cart) eCartBus 0x0E
      need (!(source.map (·.cart)).getD false) eCartBus 0x0C
      let s := s.modLane l (fun x => if mine then x else { laneOf c with dead := true })
      s.audioWait r dst.course (none, false) [word l] (.lane l (laneOf c))

/-! ### Ports -/

/-- A stream voice that exists uses a source, now or by a command that waits: format 0 TDM input, 1 PDM, 2 AVTP. -/
def State.streamUsed (s : State) (format port : Nat) : Bool :=
  let uses (v : Nat) (q : Option VSource) : Bool := (s.voice v).kind = 4 && (s.voice v).owner.isSome && (match q with
    | none => false
    | some q => q.format = format && q.addr % 256 = port)
  s.audio.voices.any (fun e => uses e.1 e.2.src) ||
    s.audio.waits.any (fun w => match w.change with
      | .write v g => uses v g.src
      | _ => false)

/-- The TDM port that an AUDIO_PORT_SET asks for (Table 14.6). -/
def tdmSet (c : Cmd) (map : List Nat) : TdmPort :=
  { on := true, format := c.u8 0x0A, slots := c.u8 0x0B, slotBits := c.u8 0x0C, dataBits := c.u8 0x0D
    course := c.u8 0x0E, map := map }

/-- The range checks on a TDM port (Table 14.6, R388). -/
def tdmChecks (c : Cmd) : Except CErr Unit := do
  let f := c.u8 0x0A
  let n := c.u8 0x0B
  let sb := c.u8 0x0C
  need (decide (c.u8 0x09 ≤ 3)) eRange 0x09
  need (decide (f ≤ 7) && f % 4 ≠ 3) eRange 0x0A
  need (decide (2 ≤ n) && decide (n ≤ 16) && (f % 4 ≠ 0 || n = 2)) eRange 0x0B
  need (sb = 16 || sb = 32) eRange 0x0C
  need ((c.u8 0x0D = 16 || c.u8 0x0D = 24) && decide (c.u8 0x0D ≤ sb)) eRange 0x0D
  need (decide (c.u8 0x0E ≤ 2)) eRange 0x0E
  need (decide (courseRate (c.u8 0x0E) * n * sb ≤ 24576000)) eRange 0x0B

/-- The slots of a TDM output that Cartouche buses hold, as a mask (R388). -/
def State.cartMask (s : State) (port : Nat) : Nat :=
  ((List.range 16).filter (fun i => (s.cartSlots port none).any (fun k =>
    decide (k.1 ≤ i) && decide (i < k.1 + k.2)))).foldl (fun m i => m + 2 ^ i) 0

/-- AUDIO_PORT_SET (R388, R390, R391). -/
def audioPortSetBody (c : Cmd) (r : CmdRef) (s : State) : CmdRes := do
  let op := c.u8 0x08
  let n := c.u8 0x09
  let f := c.u8 0x0A
  let course := c.u8 0x0E
  need (decide (op ≤ 4)) eRange 0x08
  need (op ≠ 3 || decide (f ≤ 2)) eRange 0x0A
  c.reserved (match op with
    | 0 => [(0x08, 7), (0x10, 32)]
    | 1 => [(0x08, 7)]
    | 2 => [(0x08, 2), (0x0E, 1)]
    | 3 => [(0x08, 3)] ++ (if f = 2 then [(0x0B, 1)] else [])
    | _ => [(0x08, 2)]) ((List.range 16).map (fun i => (0x10 + 2 * i, 2)))
  let out := s.tdmPlan true n
  match op with
  | 0 =>
    (List.range 16).forM (fun i => need (c.u16 (0x10 + 2 * i) &&& 0x7F80 = 0) eBadCmd (0x10 + 2 * i))
    tdmChecks c
    need ((s.cartSlots n none).isEmpty || (match out with
      | none => true
      | some t => t.course = course && t.slots = c.u8 0x0B && t.slotBits = c.u8 0x0C)) eCartBus
    let mask := s.cartMask n
    let map := (List.range 16).map (fun i =>
      if bitOf mask i then ((out.map (·.map)).getD []).getD i 0 else c.u16 (0x10 + 2 * i))
    s.audioWait r course (none, false) [word mask] (.tdm true n (tdmSet c map))
  | 1 =>
    tdmChecks c
    s.audioWait r course (none, false) [] (.tdm false n (tdmSet c []))
  | 2 =>
    need (decide (1 ≤ n) && decide (n ≤ 3)) eRange 0x09
    need (course = 0 || course = 2) eRange 0x0E
    need (!s.streamUsed 1 n) eBusy
    s.audioWait r course (none, false) [] (.pdm n course)
  | 3 =>
    need (decide (n ≤ 2)) eRange 0x09
    let b := decide (n = 1)
    let src := c.u8 0x0B
    need (f ≠ 2 || (match (if src ≤ 15 then s.avtpPlan (16 + src) else none) with
      | none => false
      | some p => decide (p.course = 1) == b)) eRange 0x0B
    need (f ≠ 1 || (s.block (if b then 9 else 8)).enabled) eState
    let k := if b then s.audio.clkB else s.audio.clkA
    let k' : AudioClock := { source := f, stream := src, relock := k.relock ++ [r], locking := true }
    let s := s.modAudio (fun a => if b then { a with clkB := k' } else { a with clkA := k' })
    .ok (s, .later)
  | _ =>
    need (decide (n ≤ 3)) eRange 0x09
    need (s.cartSlots n none).isEmpty eCartBus 0x09
    need (!s.streamUsed 0 n) eBusy
    s.audioWait r (((out.or (s.tdmPlan false n)).map (·.course)).getD 0) (none, false) [] (.portOff n)

/-! ### AVTP and capture -/

/-- The share of a MAC's link that the talkers of a class take, in parts per million, stream `n` left out. -/
def State.classLoad (s : State) (mac cls n : Nat) : Nat :=
  (((List.range 16).filter (fun k => k ≠ n)).map (fun k => match s.avtpPlan k with
    | none => 0
    | some x => if x.mac = mac ∧ x.cls = cls then
        Config.talkerLoad x.channels x.format x.spp (s.bus x.bus).plan.course
      else 0)).sum

/-- The stream that an AVTP_STREAM_SET asks for (R392). -/
def avtpOf (c : Cmd) (course : Nat) : Avtp :=
  { listener := c.u8 0x0A = 1, mac := c.u8 0x0B, channels := c.u8 0x0C, format := c.u8 0x0D, cls := c.u8 0x0E, spp := c.u8 0x0F
    id := BitVec.ofNat 64 (c.u64 0x10), dest := c.bytes 0x18 6, vlan := c.u16 0x1E, transit := c.u32 0x20, bus := c.u8 0x24
    first := c.u8 0x25, course := course }

/-- AVTP_STREAM_SET (R392). -/
def avtpStreamSetBody (c : Cmd) (r : CmdRef) (s : State) : CmdRes := do
  let op := c.u8 0x08
  let n := c.u8 0x09
  let dir := c.u8 0x0A
  let key := if dir = 1 then 16 + n else n
  need (decide (op ≤ 1)) eRange 0x08
  need (decide (dir ≤ 1)) eRange 0x0A
  if op = 1 then
    c.reserved [(0x08, 3)] [(0x10, 8), (0x1E, 2), (0x20, 4)]
    need (decide (n ≤ 15)) eRange 0x09
    match s.avtpPlan key with
    | none => .error { status := eState }
    | some x => do
      need (dir = 0 || !s.streamUsed 2 n) eBusy
      s.audioWait r x.course (none, false) [] (.avtpOff key)
  else
    c.reserved ([(0x08, 0x18)] ++ (if dir = 1 then [(0x26, 1)] else [(0x20, 4), (0x24, 2)])) [(0x20, 4)]
    let vlan := c.u16 0x1E
    let bus := c.u8 0x24
    need (!bitOf vlan 12) eBadCmd 0x1E
    need (decide (n ≤ 15)) eRange 0x09
    need (decide (c.u8 0x0B ≤ 1)) eRange 0x0B
    need (decide (1 ≤ c.u8 0x0C) && decide (c.u8 0x0C ≤ 8)) eRange 0x0C
    need (decide (c.u8 0x0D ≤ 2)) eRange 0x0D
    need (decide (c.u8 0x0E ≤ 1)) eRange 0x0E
    need (decide (1 ≤ c.u8 0x0F) && decide (c.u8 0x0F ≤ 64)) eRange 0x0F
    let g := (if bus ≤ 15 then s.busPlan? bus else none).map Prod.snd
    need (dir = 1 || g.isSome) eRange 0x24
    need (dir = 1 || decide (c.u8 0x25 + c.u8 0x0C ≤ (g.map (·.channels)).getD 0)) eRange 0x25
    need (dir = 0 || decide (c.u8 0x26 ≤ 2)) eRange 0x26
    need ((IMap.find? s.disp.gptp (c.u8 0x0B)).map (·.1) = some true) eState
    let course := if dir = 1 then c.u8 0x26 else (g.map (·.course)).getD 0
    let x := avtpOf c course
    need (dir = 1 || decide (s.classLoad x.mac x.cls n + Config.talkerLoad x.channels x.format x.spp course ≤ 750000)) eNoRes
    s.audioWait r course (none, false) [] (.avtp key x)

/-- AUDIO_CAPTURE_START (R393, R394). -/
def audioCaptureStartBody (c : Cmd) (r : CmdRef) (s : State) : CmdRes := do
  let op := c.u8 0x08
  let b := c.u8 0x09
  need (decide (op ≤ 1)) eRange 0x08
  c.reserved (if op = 0 then [(0x08, 8), (0x10, 16)] else [(0x08, 2)]) [(0x0A, 2), (0x0C, 4), (0x10, 8), (0x18, 8)]
  let block := c.u16 0x0A
  let pages := c.u32 0x0C
  need (decide (b ≤ 15)) eRange 0x09
  let g := s.busPlan? b
  let may := c.tenant = 0 || ((g.map (fun k => decide (k.1 = c.tenant))).getD false)
  let may := may && (!((g.map (fun k => k.2.cart)).getD false) || decide (c.tenant ≤ 1))
  if op = 1 then
    match (s.bus b).capture with
    | none => do
      need may eDenied 0x09
      .error { status := eState }
    | some k => do
      need (may || k.owner = c.tenant) eDenied 0x09
      .ok (s.modACap b (fun k => { k with stop := some (k.stop.getD [] ++ [r]) }), .later)
  else
    need (decide (64 ≤ block) && decide (block ≤ 8192)) eRange 0x0A
    need (decide (2 ≤ pages) && decide (pages ≤ 65536)) eRange 0x0C
    need (c.u64 0x10 % 4096 = 0) eAlign 0x10
    need (c.u64 0x18 % 4 = 0) eAlign 0x18
    need may eDenied 0x09
    match g with
    | none => .error { status := eState }
    | some (_, k) => do
      need (s.bus b).capture.isNone eBusy
      need (decide (ceilDiv (block * k.channels * 4) 4096 ≤ pages)) eNoRes
      let x : ACapture := { owner := c.tenant, block := block, pages := pages, ring := c.u64 0x10, cons := c.u64 0x18 }
      let s := s.modBus b (fun y => { y with capture := some x })
      s.audioWait r k.course (none, false) [] .note

end Sys2Proof.Machine
end

