-- ==== Sys2Proof/Machine/Cartouche.lean ====
section
/-! DEFINITION. The commands of the Cartouche (chapter 12): images (R311 to R316), cells (R317 to R319), watch regions
(R322), reference sets (R325) and fault reactions (R328, R330), and Cartouche samples (R386). -/

namespace Sys2Proof.Machine

def eCellOverlap : Nat := 0x0901
def eImageInuse : Nat := 0x0902
def eImageSize : Nat := 0x0903

/-! ### The store (R311) -/

/-- The pages of the store that hold something. -/
def CStore.used (k : CStore) : List Nat :=
  k.images.flatMap (fun e => e.2.pages) ++ k.samples.flatMap (fun e => e.2.pages) ++ k.loads.flatMap (·.pages) ++
    k.replaces.flatMap (·.new.pages) ++ k.kept.flatMap (·.2)

/-- The pages that images hold, copies being loaded included (Table 12.12). -/
def CStore.imagePages (k : CStore) : Nat :=
  (k.images.flatMap (fun e => e.2.pages) ++ (k.loads.filter (fun l => !l.sample)).flatMap (·.pages) ++
    k.replaces.flatMap (·.new.pages)).length

/-- The lowest free pages of the store (assumption 12), none where there are too few. -/
def CStore.alloc (k : CStore) (n : Nat) : Option (List Nat) :=
  let u := k.used
  let ps := ((List.range 1024).filter (fun p => !u.contains p)).take n
  if ps.length = n then some ps else none

/-- The bytes of an image (Table 12.1). -/
def imageBytes (fmt w h : Nat) : Nat := if fmt = 0 then 4 * w * h else 1024 + w * h

/-- The newest copy of a loaded image. -/
def CStore.newest (k : CStore) (i : Nat) : Option CImage :=
  ((k.replaces.reverse.find? (fun r => r.image = i)).map (·.new)).or (IMap.find? k.images i)

/-- Whether any cell's state table names an image (R314). -/
def State.imageNamed (s : State) (i : Nat) : Bool :=
  s.disp.heads.any (fun e => e.2.allCells.any (fun c => c.2.images.contains i))

/-- The byte offset of the first colour of an image with bit 31 or 30 set (R314). -/
def badColour (fmt : Nat) (data : List Byte) : Option Nat :=
  let n := if fmt = 0 then data.length / 4 else 256
  ((wordsOf 4 data).take n).findIdx? (fun w => decide (0x40000000 ≤ w)) |>.map (fun i => 4 * i)

/-- A release (R314): the pages are free at once; a replacement whose heads had yet to switch ends with it. -/
def State.releaseImage (i : Nat) (s : State) : State :=
  let rs := s.disp.cart.replaces.filter (fun r => r.image = i)
  let s := s.modDisp (fun d => { d with cart := { d.cart with
    images := IMap.del d.cart.images i, replaces := d.cart.replaces.filter (fun r => r.image != i) } })
  rs.foldl (fun s r => s.completeOk r.ref []) s

/-- The check of a flags byte that some operations use. -/
def flagsIf (p : Prop) [Decidable p] (fl mask off : Nat) : Except CErr Unit := if p then needFlags fl mask off else .ok ()

/-- CARTOUCHE_IMAGE_LOAD (R314): the copy into the store is made while the command waits. -/
def cartoucheImageLoadBody (c : Cmd) (r : CmdRef) (s : State) : CmdRes := do
  let op := c.u8 0x08
  let i := c.u8 0x09
  need (decide (op ≤ 1)) eRange 0x08
  c.reserved (if op = 0 then [(0x08, 3), (0x0C, 12)] else [(0x08, 2)]) [(0x0C, 2), (0x0E, 2), (0x10, 8)]
  need (decide (i ≤ 254)) eRange 0x09
  if op = 1 then
    need (!s.imageNamed i) eImageInuse 0x09
    need (s.disp.cart.newest i).isSome eState
    okDone (s.releaseImage i) []
  else
    let fmt := c.u8 0x0A
    let w := c.u16 0x0C
    let h := c.u16 0x0E
    let a := c.u64 0x10
    need (decide (fmt ≤ 1)) eRange 0x0A
    need (decide (1 ≤ w) && decide (w ≤ 256)) eRange 0x0C
    need (decide (1 ≤ h) && decide (h ≤ 256)) eRange 0x0E
    need (a % 64 = 0) eAlign 0x10
    let data ← readFor s c.tenant a (imageBytes fmt w h) 0x10
    match badColour fmt data with
    | some off => .error { status := eRange, words := [word off] }
    | none =>
      match s.disp.cart.alloc (ceilDiv data.length 4096) with
      | none => .error { status := eNoRes }
      | some ps => do
        match s.disp.cart.newest i with
        | none => pure ()
        | some m => do
          need (m.w = w || !s.imageNamed i) eImageSize 0x0C
          need (m.h = h || !s.imageNamed i) eImageSize 0x0E
        let s := (s.noteAssetRead c.tenant a data.length).modDisp (fun d => { d with cart := { d.cart with
          loads := d.cart.loads ++ [⟨r, false, i, fmt, w, h, ps, data⟩] } })
        .ok (s, .wait (.cartouche []))

/-- Write the bytes of a load into its pages. -/
def State.fillPages (ps : List Nat) (data : List Byte) (s : State) : State :=
  (ps.zip (chunks 4096 data)).foldl (fun s e => s.physWrite (cartBase + e.1 * 4096) e.2) s

/-- The heads whose beam shows an image now (R315): each switches at its next entry into line 0. -/
def State.showing (s : State) (i : Nat) : List Nat :=
  (List.range 8).filter (fun h => (s.head h).timed &&
    (s.head h).shown.any (fun k => match k.image with | some (n, _, _) => n = i | none => false))

/-- The copy of an image or a sample is complete (R314, R315, R386). -/
def State.loadDone (l : CLoad) (s : State) : State :=
  let s := (s.fillPages l.pages l.data).modDisp (fun d => { d with cart := { d.cart with
    loads := d.cart.loads.filter (fun x => x.ref != l.ref) } })
  if l.sample then
    let playing := (s.audio.voices.filter (fun e => decide (96 ≤ e.1) && e.2.phase ≠ .idle)).flatMap (fun e =>
      (e.2.src.map (·.pages)).getD [])
    let old := (IMap.find? s.disp.cart.samples l.number).map (·.pages) |>.getD []
    let keep := old.filter (fun p => playing.contains p)
    (s.modDisp (fun d => { d with cart := { d.cart with
      samples := IMap.put d.cart.samples l.number ⟨l.format, l.w, l.pages⟩
      kept := if keep.isEmpty then d.cart.kept else d.cart.kept ++ [(l.number, keep)] } })).completeOk l.ref []
  else
    let new : CImage := { format := l.format, w := l.w, h := l.h, pages := l.pages }
    match IMap.find? s.disp.cart.images l.number with
    | none =>
      (s.modDisp (fun d => { d with cart := { d.cart with
        images := IMap.put d.cart.images l.number new } })).completeOk l.ref []
    | some _ =>
      ((s.setStage l.ref .running).modDisp (fun d => { d with cart := { d.cart with
        replaces := d.cart.replaces ++ [⟨l.ref, l.number, new, s.showing l.number⟩] } })).finishReplaces

/-! ### Cells -/

/-- The cells of a head as the processed commands leave them. -/
def Head.plannedCells (x : Head) : IMap Cell :=
  x.cellWaits.foldl (fun m w => match w.set with
    | none => IMap.del m w.cell
    | some k => IMap.put m w.cell k) x.cells

/-- The regions of a head as the processed commands leave them. -/
def Head.plannedRegions (x : Head) : IMap RegionSet :=
  x.lineZero.foldl (fun m w => match w.change with
    | .region r none => IMap.del m r
    | .region r (some g) => IMap.put m r g
    | _ => m) (x.regions.map (fun e => (e.1, e.2.set)))

/-- A rectangle lies inside the active area that a head has, and inside the one it is to have. -/
def Head.needArea (x : Head) (r : Rect) (off : Nat) : Except CErr Unit :=
  (x.timing.toList ++ x.planned.toList).forM (fun t => r.need t.hA t.vA off)

/-- The instant from which an entry into line 0 counts: 100 µs after now, and not before a given time (R319). -/
def State.after100 (s : State) (nb : Nat) : Meridian :=
  let t := s.now + BitVec.ofNat 64 (ticksOfUs 100)
  let n : Meridian := BitVec.ofNat 64 nb
  if nb ≠ 0 && decide (0 < meridianDiff n t) then n else t

/-- The first of the images of a state table that fails a test. -/
def tableBad (images : List Nat) (p : Nat → Bool) : Option Nat := images.findIdx? (fun i => i ≠ 255 && p i)

/-- CARTOUCHE_CELL_SET (R317 to R319). -/
def cartoucheCellSetBody (c : Cmd) (r : CmdRef) (s : State) : CmdRes := do
  let op := c.u8 0x08
  let fl := c.u8 0x0C
  need (decide (op ≤ 2)) eRange 0x08
  flagsIf (op ≤ 1) fl 1 0x0C
  let blink := decide (op ≤ 1) && bitOf fl 0
  c.reserved ([(0x08, 3)] ++ (if op ≤ 1 then [(0x0B, 2)] else []) ++ (if blink then [(0x0D, 1), (0x1C, 4)] else []) ++
    (if op = 0 then [(0x10, 12), (0x20, 16)] else []) ++ (if op = 1 then [(0x30, 8)] else []))
    [(0x10, 2), (0x12, 2), (0x14, 2), (0x16, 2), (0x18, 4), (0x1C, 2), (0x1E, 2), (0x30, 8)]
  let h := c.u8 0x09
  let n := c.u8 0x0A
  let st := c.u8 0x0B
  let bs := c.u8 0x0D
  let rect := rectOf c 0x10
  let on := c.u16 0x1C
  let off := c.u16 0x1E
  let x := s.head h
  need (decide (h ≤ 7)) eRange 0x09
  need (decide (n ≤ 63)) eRange 0x0A
  need (decide (1 < op) || decide (st ≤ 15)) eRange 0x0B
  need (!blink || decide (bs ≤ 15)) eRange 0x0D
  need (op ≠ 0 || (decide (1 ≤ rect.w) && decide (rect.w ≤ 256))) eRange 0x14
  need (op ≠ 0 || (decide (1 ≤ rect.h) && decide (rect.h ≤ 256))) eRange 0x16
  needIf (op = 0 && x.planned.isSome) (x.needArea rect 0x10)
  need (op ≠ 0 || decide (c.u32 0x18 < 0x40000000)) eRange 0x18
  need (!blink || (decide (1 ≤ on) && decide (on ≤ 10000))) eRange 0x1C
  need (!blink || (decide (1 ≤ off) && decide (off ≤ 10000))) eRange 0x1E
  let nb := c.u64 0x30
  need (op ≠ 1 || nb = 0 || decide (meridianDiff (BitVec.ofNat 64 nb) s.now ≤ 61440000000)) eRange 0x30
  need (x.timed && x.planned.isSome) eState
  need (op = 0 || (IMap.find? x.plannedCells n).isSome) eState
  if op = 1 then
    let w : LineZeroWait := ⟨r, s.now, s.after100 nb, .cellState n st blink bs on off, x.lowered⟩
    .ok (s.modHead h (fun x => { x with lineZero := x.lineZero ++ [w] }), .later)
  else if op = 2 then
    need (!(x.plannedRegions.any (fun e => e.2.bound = some n) || x.regions.any (fun e => e.2.set.bound = some n))) eBusy
    .ok ((s.modHead h (fun x => { x with cellWaits := x.cellWaits ++ [⟨r, s.now, n, none⟩] })).endStill h, .later)
  else
    let images := (c.bytes 0x20 16).map BitVec.toNat
    need (tableBad images (fun i => (s.disp.cart.newest i).isNone)).isNone eState
    match tableBad images (fun i => match s.disp.cart.newest i with
      | none => true
      | some m => m.w ≠ rect.w || m.h ≠ rect.h) with
    | some i => .error { status := eImageSize, detail := 0x20 + i }
    | none => do
    need (!x.allCells.any (fun e => e.1 ≠ n && e.2.rect.meets rect)) eCellOverlap 0x10
    let k : Cell := { rect := rect, fill := c.u32 0x18, images := images, state := st, blink := blink, blinkState := bs,
                      onMs := on, offMs := off }
    .ok ((s.modHead h (fun x => { x with cellWaits := x.cellWaits ++ [⟨r, s.now, n, some k⟩] })).endStill h, .later)

/-! ### Watch regions -/

/-- WATCH_REGION_SET (R322). -/
def watchRegionSetBody (c : Cmd) (r : CmdRef) (s : State) : CmdRes := do
  let op := c.u8 0x08
  let fl := c.u8 0x0B
  need (decide (op ≤ 1)) eRange 0x08
  flagsIf (op = 0) fl 7 0x0B
  let ref := decide (op = 0) && bitOf fl 0
  let frz := decide (op = 0) && bitOf fl 1
  let bnd := decide (op = 0) && bitOf fl 2
  need (op ≠ 0 || ((ref || frz) && (ref || !bnd))) eRange 0x0B
  c.reserved ([(0x08, 3)] ++ (if op = 0 then [(0x0B, 1)] else []) ++ (if bnd then [(0x0C, 1)] else []) ++
    (if frz then [(0x0D, 1)] else []) ++ (if ref then [(0x0E, 1)] else []) ++
    (if op = 0 && !bnd then [(0x10, 8)] else [])) [(0x10, 2), (0x12, 2), (0x14, 2), (0x16, 2)]
  let h := c.u8 0x09
  let n := c.u8 0x0A
  let cell := c.u8 0x0C
  let rect := rectOf c 0x10
  let x := s.head h
  need (decide (h ≤ 7)) eRange 0x09
  need (decide (n ≤ 15)) eRange 0x0A
  need (!bnd || decide (cell ≤ 63)) eRange 0x0C
  need (!frz || decide (1 ≤ c.u8 0x0D)) eRange 0x0D
  need (!ref || decide (1 ≤ c.u8 0x0E)) eRange 0x0E
  need (op ≠ 0 || bnd || decide (1 ≤ rect.w)) eRange 0x14
  need (op ≠ 0 || bnd || decide (1 ≤ rect.h)) eRange 0x16
  needIf (op = 0 && !bnd && x.timed) (rect.need x.hA x.vA 0x10)
  need x.timed eState
  need (!bnd || (IMap.find? x.plannedCells cell).isSome) eState
  need (op = 0 || (IMap.find? x.plannedRegions n).isSome) eState
  let g : RegionSet := ⟨ref, frz, if bnd then some cell else none, c.u8 0x0D, c.u8 0x0E, if bnd then {} else rect⟩
  let w : LineZeroWait := ⟨r, s.now, s.after100 0, .region n (if op = 0 then some g else none), false⟩
  .ok (s.modHead h (fun x => { x with lineZero := x.lineZero ++ [w] }), .later)

/-- REFERENCE_SET (R325). -/
def referenceSetBody (c : Cmd) (r : CmdRef) (s : State) : CmdRes := do
  c.reserved [(0x08, 3), (0x10, 8)]
  let h := c.u8 0x08
  let n := c.u8 0x09
  let k := c.u8 0x0A
  let a := c.u64 0x10
  need (decide (h ≤ 7)) eRange 0x08
  need (decide (n ≤ 15)) eRange 0x09
  let g := IMap.find? (s.head h).plannedRegions n
  let bound := (g.map (fun g => g.bound.isSome)).getD false
  need (decide (1 ≤ k) && decide (k ≤ 64) && (!bound || k = 16)) eRange 0x0A
  need (a % 4 = 0) eAlign 0x10
  let data ← readFor s c.tenant a (4 * k) 0x10
  need ((g.map (fun g => g.refCheck)).getD false) eState
  let w : LineZeroWait := ⟨r, s.now, s.after100 0, .refs n ((wordsOf 4 data).map word), false⟩
  .ok ((s.noteAssetRead c.tenant a (4 * k)).modHead h (fun x => { x with lineZero := x.lineZero ++ [w] }), .later)

/-- A reaction's pin is released (R330): it goes back to the function that should hold it. -/
def State.releaseReaction (p : Nat) (s : State) : State :=
  let s := (s.modPin p (fun x => { x with safety := false })).settlePin p
  s.modDisp (fun d => { d with heads := d.heads.map (fun e => (e.1, { e.2 with pins := e.2.pins.filter (· != p) })) })

/-- FAULT_REACTION_SET (R328 to R330). -/
def faultReactionSetBody (c : Cmd) (_ : CmdRef) (s : State) : CmdRes := do
  let op := c.u8 0x08
  need (decide (op ≤ 3)) eRange 0x08
  let re := if op = 0 then c.u8 0x0B else 0
  needFlags re 3 0x0B
  let usesPin := bitOf re 1 || op = 3
  c.reserved ([(0x08, 2)] ++ (if op = 0 then [(0x0A, 2)] else []) ++ (if usesPin then [(0x0C, 2)] else []) ++
    (if op = 1 then [(0x10, 4)] else [])) [(0x0C, 2), (0x10, 4)]
  let h := c.u8 0x09
  let n := c.u8 0x0A
  let pin := c.u16 0x0C
  let x := s.head h
  need (decide (h ≤ 7)) eRange 0x09
  need (op ≠ 0 || decide (n ≤ 15)) eRange 0x0A
  need (!usesPin || (decide (144 ≤ pin) && decide (pin ≤ 159))) eRange 0x0C
  need (op ≠ 1 || decide (c.u32 0x10 < 0x40000000)) eRange 0x10
  need (!usesPin || (s.pin pin).owner = .tenant 1) eNotOwner 0x0C
  need x.timed eState
  match op with
  | 0 => do
    need (IMap.find? x.plannedRegions n).isSome eState
    need (!usesPin || (s.pin pin).oe) eState
    okDone (s.modHead h (fun x => { x with reactions := IMap.put x.reactions n (re, pin) })) []
  | 1 => okDone (s.modHead h (fun x => { x with fallbackColour := c.u32 0x10 })) []
  | 2 => do
    need (x.fallback || x.fallbackOn) eState
    okDone (s.modHead h (fun x => { x with fallback := false })) []
  | _ => do
    need (s.pin pin).oe eState
    need (s.pin pin).safety eState
    okDone (s.releaseReaction pin) []

/-! ### Cartouche samples (R386) -/

/-- The bytes of a sample: PCM16 two each, ADPCM4 64 for each 120 or part of it (R372). -/
def sampleBytes (fmt n : Nat) : Nat := if fmt = 0 then 2 * n else 64 * ceilDiv n 120

/-- Whether a K voice's source names a sample. -/
def State.sampleNamed (s : State) (n : Nat) : Bool :=
  s.audio.voices.any (fun e => decide (96 ≤ e.1) && (match e.2.src with
    | none => false
    | some v => v.addr = n)) ||
  s.audio.waits.any (fun w => match w.change with
    | .write v k => decide (96 ≤ v) && (match k.src with | none => false | some q => q.addr = n)
    | _ => false)

/-- CARTOUCHE_VOICE_SET (R386): the copy into the store is made while the command waits. -/
def cartoucheVoiceSetBody (c : Cmd) (r : CmdRef) (s : State) : CmdRes := do
  let op := c.u8 0x08
  let n := c.u8 0x09
  need (decide (op ≤ 1)) eRange 0x08
  c.reserved (if op = 0 then [(0x08, 3), (0x0C, 12)] else [(0x08, 2)]) [(0x0C, 4), (0x10, 8)]
  need (decide (n ≤ 63)) eRange 0x09
  if op = 1 then
    need (!s.sampleNamed n) eBusy
    need (IMap.find? s.disp.cart.samples n).isSome eState
    okDone (s.modDisp (fun d => { d with cart := { d.cart with samples := IMap.del d.cart.samples n } })) []
  else
    let fmt := c.u8 0x0A
    let len := c.u32 0x0C
    let a := c.u64 0x10
    need (decide (fmt ≤ 1)) eRange 0x0A
    need (decide (1 ≤ len) && decide (sampleBytes fmt len ≤ 0x400000)) eRange 0x0C
    need (a % 64 = 0) eAlign 0x10
    let data ← readFor s c.tenant a (sampleBytes fmt len) 0x10
    match s.disp.cart.alloc (ceilDiv data.length 4096) with
    | none => .error { status := eNoRes }
    | some ps =>
      let s := (s.noteAssetRead c.tenant a data.length).modDisp (fun d => { d with cart := { d.cart with
        loads := d.cart.loads ++ [⟨r, true, n, fmt, len, 0, ps, data⟩] } })
      .ok (s, .wait (.cartouche []))

end Sys2Proof.Machine
end

