-- ==== Sys2Proof/Machine/Maintenance.lean ====
section
/-! DEFINITION. Heartbeats and self-tests (R337, R338, R343), the maintenance commands and rows (R349 to R352, R363),
priorities and power policy (R361, R362), the governor's query (R364), and updates of the Legend (R41, R42). -/

namespace Sys2Proof.Machine

def eApplyFailed : Nat := 0x0A01
def eThermal : Nat := 0x0A02

/-! ### Heartbeats and self-tests -/

/-- HEARTBEAT_PERIOD_END (R337, R338): the third period in a row with no healthy heartbeat on time is death. -/
def State.heartbeat (n : Nat) (good : Bool) (s : State) : State :=
  let k := s.cluster n
  if !(k.service = .active || k.service = .spare) || !(s.power.mode = .drive || s.power.mode = .service) then s
  else if good then s.modCluster n (fun k => { k with missed := 0 })
  else if k.missed < 2 then s.modCluster n (fun k => { k with missed := k.missed + 1 })
  else s.declareDead n

def execHeartbeatPeriodEnd (dt n : Nat) (onTime healthy : Bool) (s : State) : Host.Outcome State Fault Refusal :=
  .next ((s.tick dt).heartbeat n (onTime && healthy))

/-- CLUSTER_SELF_TEST_END (R343): a quarantined cluster becomes Spare, to serve who waits for one, or Retired. -/
def State.selfTestEnd (n : Nat) (pass : Bool) (s : State) : State :=
  let x := s.activity 4
  if !x.running || x.cluster ≠ some n || (s.cluster n).service ≠ .quarantined then s
  else
    let s := (s.modActivity 4 (fun x => { x with running := false, cluster := none })).orderEvent 4
      (if pass then 2 else 3) 0 (some n)
    let s := (s.setService n (if pass then .spare else .retired) none (if pass then 3 else 4)).modCluster n
      (fun k => { k with head := none, missed := 0 })
    (if pass then s.giveSpare n else s).startQueued

def execClusterSelfTestEnd (dt n : Nat) (pass : Bool) (s : State) : Host.Outcome State Fault Refusal :=
  .next ((s.tick dt).selfTestEnd n pass)

/-! ### Maintenance activities -/

/-- The time from one start of an activity to the next in Meridian ticks (R351). DEDUCED (assumption 74): the period of activity 4
is that of each Spare cluster (Table 13.3), so the activity starts as many times in it as there are Spare clusters. -/
def State.activityPeriod (s : State) (a : Nat) : Nat :=
  let n := if a = 4 then max 1 ((List.range 10).filter (fun n => (s.cluster n).service = .spare)).length else 1
  (s.activity a).period * msTicks / n

/-- MAINTENANCE_ACTIVITY_DUE (R351): the period has elapsed since the previous start; a disabled activity has none. -/
def State.maintenanceDue (a : Nat) (s : State) : State :=
  if 1 ≤ a ∧ a ≤ 6 ∧ (s.activity a).enabled ∧ actInMode a s.power.mode ∧ s.activityPeriod a ≤ s.since (s.activity a).lastStart then
    s.activityDue a none
  else s

def execMaintenanceActivityDue (dt a : Nat) (s : State) : Host.Outcome State Fault Refusal :=
  .next ((s.tick dt).maintenanceDue a)

/-- The duplicate stages of a head fail the latent-fault test (R332): CARTOUCHE_FAULT with cause 4 and region 0xFF. The signature
that the test gave is a free value (assumption 5). -/
def State.latentFault (h : Nat) (s : State) : State :=
  let (sig, s) := s.fresh
  let ws := [word h, 0xFF, 4, (s.head h).frames, word sig, 0] ++ words64 s.now
  (s.event 1 0x0901 ws).event 0 0x0901 ws

/-- The effect of an activity that ends (R93, R316, R332, R349); `heads` are those whose duplicate stages failed. -/
def State.activityEffect (a : Nat) (pass : Bool) (heads : List Nat) (cluster : Option Nat) (s : State) : State :=
  let scrub (lo hi : Nat) (s : State) : State :=
    { s with mem := { s.mem with ce := s.mem.ce.filter (fun w => w < lo || hi ≤ w) } }
  match a with
  | 1 => scrub bankBase (bankBase + 0x4000000) s
  | 2 => scrub cartBase (cartBase + 0x400000) s
  | 3 => scrub dramBase (dramBase + 0x100000000) s
  | 4 => match cluster with
    | some n => if pass then s else s.setService n .retired none 4
    | none => s
  | 6 => s.runMeasures
  | 5 =>
    if pass then s
    else ((List.range 8).filter (fun h => heads.contains h && (s.head h).timed)).foldl (fun s h => s.latentFault h) (s.devEvent 3)
  | _ => s

/-- MAINTENANCE_ACTIVITY_END (R351, R363): the run's commands get their records, and queued activities start. -/
def State.maintenanceEnd (a : Nat) (pass : Bool) (heads : List Nat) (s : State) : State :=
  let x := s.activity a
  let quarantine := match x.cluster with
    | some n => a = 4 && (s.cluster n).service = .quarantined
    | none => false
  if !x.running || quarantine then s
  else
    let s := s.modActivity a (fun x => { x with running := false, cluster := none, refs := [] })
    let s := (s.activityEffect a pass heads x.cluster).orderEvent a (if pass then 2 else 3) 0 x.cluster
    let s := x.refs.foldl (fun s r => s.completeOk r [if pass then 0 else 1]) s
    s.startQueued

/-- MAINTENANCE_ACTIVITY_END (R351). -/
def execMaintenanceActivityEnd (dt a : Nat) (e : ActivityEnd) (s : State) : Host.Outcome State Fault Refusal :=
  .next ((s.tick dt).maintenanceEnd a e.pass e.heads)

/-- The period range of an activity in ms (Table 13.3). -/
def periodRange : Nat → Nat × Nat
  | 1 => (1000, 3600000) | 2 => (100, 10000) | 3 => (60000, 3600000) | 4 => (10000, 3600000) | 5 => (20, 1000)
  | _ => (100, 60000)

/-- MAINTENANCE_SET (R363). -/
def maintenanceSetBody (c : Cmd) (r : CmdRef) (s : State) : CmdRes := do
  let a := c.u8 0x08
  let op := c.u8 0x09
  need (decide (op ≤ 3)) eRange 0x09
  c.reserved ([(0x08, 2)] ++ (if op = 0 then [(0x0C, 4)] else [])) [(0x0C, 4)]
  need (decide (1 ≤ a) && decide (a ≤ 6)) eRange 0x08
  let p := c.u32 0x0C
  need (op ≠ 0 || (decide ((periodRange a).1 ≤ p) && decide (p ≤ (periodRange a).2))) eRange 0x0C
  match op with
  | 0 => okDone (s.modActivity a (fun x => { x with period := p })) []
  | 1 => do
    need (s.power.mode = .service) eState
    .ok (s.activityDue a (some r), .later)
  | 2 => do
    need (a = 1 || a = 3 || a = 4) eDenied 0x08
    okDone (s.modActivity a (fun x => { x with enabled := false })) []
  | _ => okDone (s.modActivity a (fun x => { x with enabled := true })) []

/-! ### Priorities, power policy and the governor's query -/

/-- HEAD_PRIORITY_SET (R361). -/
def headPrioritySetBody (c : Cmd) (_ : CmdRef) (s : State) : CmdRes := do
  c.reserved [(0x08, 2)]
  let h := c.u8 0x08
  need (decide (h ≤ 7)) eRange 0x08
  need (s.head h).timed eState
  okDone (s.modHead h (fun x => { x with priority := c.u8 0x09 })) []

/-- POWER_POLICY_SET (R362): the limits apply at the governor's next evaluation. -/
def powerPolicySetBody (c : Cmd) (_ : CmdRef) (s : State) : CmdRes := do
  c.reserved [(0x08, 4)]
  let w := c.u8 0x08
  let p := c.u8 0x09
  let b := c.u16 0x0A
  need (decide (5 ≤ w) && decide (w ≤ 28)) eRange 0x08
  need (decide (w ≤ p) && decide (p ≤ 36)) eRange 0x09
  need (decide (b ≤ 600)) eRange 0x0A
  okDone (s.modDisp (fun d => { d with gov := { d.gov with policy := some (w, p, b) } })) []

/-- The level field of GOV.STATUS (Table 13.8). -/
def State.levelField (s : State) : Nat :=
  ((List.range 8).map (fun h => (if (s.head h).held then 3 else (s.head h).level) * 4 ^ h)).sum

/-- Clusters in one of some service states. -/
def State.countClusters (s : State) (p : Service → Bool) : Nat :=
  ((List.range 10).filter (fun n => p (s.cluster n).service)).length

/-- GOVERNOR_QUERY (R364). -/
def governorQueryBody (c : Cmd) (_ : CmdRef) (s : State) : CmdRes := do
  c.reserved []
  let g := s.disp.gov
  okDone s [wordI g.tj, word s.clocks.cclk, word s.levelField, word g.avg1ms, word g.avg1s,
    word ((if g.unanchored then 1 else 0) + (if s.power.tellForced then 2 else 0)),
    word (s.countClusters (· = .spare)), word (s.countClusters (fun k => k = .quarantined || k = .retired))]

/-! ### The Legend (R41, R42) -/

/-- The states the Legend would show now. -/
def State.legendNow (s : State) : List Service × Service × List (Nat × Nat) :=
  ((List.range 10).map (fun n => (s.cluster n).service), if s.boot.lpddrFailed then .retired else .active,
    s.legend.suspects)

/-- LEGEND_UPDATE (R42): where a state has changed and 1 ms has passed since the last update, the CP writes every
changed state as one update; generation advances by 2, and LEGEND_CHANGED is raised. -/
def State.legendUpdate (s : State) : State :=
  let (cs, lp, su) := s.legendNow
  let g := s.legend
  if !g.built || (cs = g.shown && lp = g.lpddr && su = g.shownSuspects) ||
      (g.everUpdated && decide (s.since g.lastUpdate < 1024000)) then s
  else
    let s := { s with legend := { g with
      generation := g.generation + 2, shown := cs, lpddr := lp, shownSuspects := su, lastUpdate := s.now
      everUpdated := true } }
    (s.devEvent 0).notify 0x0101 0 [s.legend.generation] (fun _ => true)

def execLegendUpdate (dt : Nat) (s : State) : Host.Outcome State Fault Refusal := .next (s.tick dt).legendUpdate

end Sys2Proof.Machine
end

