-- ==== Sys2Proof/Machine/Modes.lean ====
section
/-! DEFINITION. Power modes (R414 to R421): mode changes by arm-then-apply, the wake controller (R411), and the wake out of
Keep and Listen. -/

namespace Sys2Proof.Machine

def eWakePending : Nat := 0x0C03
def eServicePin : Nat := 0x1102

/-! ### Reports -/

/-- A completed change of mode is reported (R418, R436): DEV.EVENT bit 4 and MODE_CHANGED. -/
def State.modeReport (old new : Mode) (cause : Nat) (s : State) : State :=
  let ws := [word old.code, word new.code, word cause] ++ words64 s.now
  let s := { s with power := { s.power with cause := cause } }
  ((s.devEvent 4).event 0 0x0D01 ws).notify 0x0D01 0 ws (· ≠ 0)

/-- The mode of a code (Table 16.1). -/
def modeOfCode : Nat → Mode
  | 0 => .off | 1 => .keep | 2 => .listen | 3 => .tell | 4 => .drive | _ => .service

/-- A mode in which the CP does not run. -/
def Mode.sleeps (m : Mode) : Bool := m = .keep || m = .listen

/-! ### Arm-then-apply (R345 to R348) -/

/-- The earliest apply time of a CCLK step or mode change, 100 µs from now (Table 13.2; assumption 30). -/
def State.applyTimeFrom (s : State) : Meridian := s.now + 102400

/-- A CCLK step, clock plan or mode change is armed. -/
def State.armChange (kind : ArmKind) (old : List Nat) (s : State) : State :=
  s.modDisp (fun d => { d with
    arms := (d.liveArms.filter (fun a => !(a.applied && a.failed.isEmpty))) ++
      [{ id := d.armNext, kind := kind, applyAt := s.applyTimeFrom, old := old }]
    armNext := d.armNext + 1 })

/-- Drop the armed mode change. -/
def State.dropModeArm (s : State) : State :=
  s.modDisp (fun d => { d with arms := d.arms.filter (fun a => a.kind ≠ .mode) })

/-- A mode change is armed. -/
def State.armMode (target : Mode) (cause : Nat) (ref : Option CmdRef) (s : State) : State :=
  let s := { s with power := { s.power with change := some ⟨target, cause, ref, s.applyTimeFrom, false⟩ } }
  s.armChange .mode [s.power.mode.code]

/-! ### Heads stop and restart -/

/-- A head is to stop at the end of its frame's last active line; one that does not scan stops at once. -/
def State.stopSoon (h : Nat) (s : State) : State :=
  let x := s.head h
  if !x.timed || x.stopped then s
  else if x.state = .composing || x.state = .still then s.modHead h (fun x => { x with stopDue := true })
  else s.stopHead h

/-- The Tell head leaves Still state as Tell is reached: its composer has stopped, and its boundaries keep their nominal times
(R415). DEDUCED (assumption 70). -/
def State.leaveStill (h : Nat) (s : State) : State :=
  s.modHead h (fun x => if x.still then { x with still := false, state := .composing } else x)

/-- A stopped head restarts as after a change of running timing (R420 step 4): its pixel PLL locks, it starts at line
v_active, and its port trains again. -/
def State.restartHead (h : Nat) (s : State) : State :=
  let x := s.head h
  if !x.timed || !(x.stopped || x.stopDue) then s
  else if x.stopDue then s.modHead h (fun x => { x with stopDue := false })
  else
    let s := s.modHead h (fun x => { x with
      stopped := false, state := .changing, line := x.vA, lastPixel := 0, phase := 0, phaseHold := true })
    (s.portsOf h).foldl (fun s e => match e.2.route with
      | none => s
      | some r =>
        if e.2.training then s
        else (s.modPort e.1 (fun q => { q with pend := ⟨none, r, []⟩ :: q.pend })).nextRoute e.1 1) s

/-- The Tell head (R415). -/
def State.chooseTellHead (s : State) : Option Nat :=
  s.disp.bootHead.or ((List.range 8).find? (fun h => !(s.head h).cells.isEmpty))

/-! ### The changes themselves -/

/-- An audio capture block in progress ends with E_TRUNC (R419). -/
def Bus.truncate (b : Bus) : Bus :=
  { b with capture := match b.capture with
    | some k => some { k with
        live := false, count := 0, tail := []
        status := if k.live && !k.skip then k.status.or (some eTrunc) else k.status }
    | none => none }

/-- Tenant debug sessions close (R272): breakpoints clear and halted threads resume with their next wake. -/
def Thread.closeDebug (k : Thread) : Thread :=
  let k := { k with breaks := [], stepping := none, haltDue := [] }
  if k.state = .halted then
    let tr := k.afterHalt
    { k with
      state := if k.running then .waiting else .loaded
      park := if k.fast.isSome then some .wake else none
      regs := if tr then { k.regs with pc := k.regs.pc + 2 } else k.regs
      passBreak := false, afterHalt := false }
  else k

/-- The tenant debug sessions on some threads, by head and thread, close (R272, R518); a TAB_DEBUG that waits for a thread
ends with its session (assumption 62). -/
def State.closeSessions (which : Nat → Thread → Bool) (s : State) : State :=
  let refs := s.tabs.flatMap (fun e => (e.2.threads.filter (fun k => which e.1 k.2)).flatMap (fun k => k.2.debugRefs))
  let s := refs.foldl (fun s r => s.completeOk r []) s
  { s with tabs := s.tabs.map (fun (e : Nat × HeadTabs) => (e.1, { e.2 with
      threads := e.2.threads.map (fun k => (k.1, if which e.1 k.2 then k.2.closeDebug else k.2)) })) }

/-- Every tenant debug grant ends (R518). -/
def State.endGrants (s : State) : State :=
  ({ s with boot := { s.boot with grants := [] } }).closeSessions (fun _ _ => true)

/-- A mode change applies (R415, R419, R521). -/
def State.applyMode (m : ModeChange) (s : State) : State :=
  let s := { s with power := { s.power with change := some { m with applied := true } } }
  match m.target with
  | .service =>
    if s.power.servicePinLow then s
    else
      let s := ({ s with power := { s.power with change := none } }).dropModeArm
      match m.ref with
      | some r => s.complete r eServicePin noField []
      | none => s
  | .tell =>
    let h := s.chooseTellHead
    let s := { s with power := { s.power with tellHead := h } }
    ((List.range 8).filter (fun k => some k ≠ h)).foldl (fun s k => s.stopSoon k) s
  | .keep | .listen =>
    let ws := [word m.target.code] ++ words64 m.applyAt
    let s := match m.ref with
      | some r => (s.completeOk r ws).writeHeld 0 ((s.heldCount 0) + 1)
      | none => s
    let s := (List.range 8).foldl (fun s k => s.stopSoon k) s
    let s := { s with audio := { s.audio with
      muted := true, buses := s.audio.buses.map (fun (e : Nat × Bus) => (e.1, e.2.truncate)) } }
    ((s.endGrants).stopActivities m.target).sleepWhenStopped
  | _ => s

/-- A change into Keep or Listen that has not applied is cancelled by a wake request (R411). -/
def State.cancelSleep (s : State) : State :=
  match s.power.change with
  | none => s
  | some m =>
    if m.applied || !m.target.sleeps then s
    else
      let s := ({ s with power := { s.power with change := none } }).dropModeArm
      match m.ref with
      | some r => s.complete r eWakePending noField []
      | none => s

/-- A wake out of Keep or Listen begins where one is latched (R411, R420): Meridian resumes at a slow-counter edge in a
wake to Tell or Drive. -/
def State.beginWake (s : State) : State :=
  if s.peg.latched && s.power.mode.sleeps && decide (2 ≤ s.peg.reqMode) then
    { s with time := { s.time with stopDue := false, resumeDue := !s.time.running } }
  else s

/-- A request for mode `m`, which the source of `bit` made, meets the mode and the wake in progress (R411, R416, R417): a wake
from Tell to Drive is latched as one out of Keep or Listen is. -/
def State.joinWake (m bit : Nat) (s : State) : State :=
  let later := match s.power.change with
    | some c => c.applied && c.target.sleeps
    | none => false
  let present := match s.power.mode with
    | .keep => 0 | .listen => 1 | .tell => 2 | _ => 3
  if later || (s.power.mode.sleeps && decide (present < m)) then
    let s := s.modPeg (fun g => { g with
      reqMode := if g.latched then max g.reqMode m else m
      forWake := if g.latched then g.forWake ||| bit else bit
      latched := true })
    if later then s else s.beginWake
  else
    let begins := s.power.mode = .tell && decide (2 < m) && s.power.change.isNone
    let s := s.modPeg (fun g => { g with
      reqMode := max g.reqMode m
      latched := g.latched || begins
      forWake := if begins then bit else if g.latched then g.forWake ||| bit else g.forWake })
    if begins then s.armMode .drive 2 none else s

/-- A wake source requests a mode: 1 Listen, 2 Tell, 3 Drive (R410, R411, R417). -/
def State.wakeRequest (src mode : Nat) (s : State) : State :=
  (((s.modPeg (fun g => { g with causes := g.causes ||| 2 ^ src })).hwMark (.wakeCause src)).cancelSleep).joinWake
    (if s.power.tellForced then min mode 2 else mode) (2 ^ src)

/-- A wake source fires with the mode it is set to, where it is enabled (R410). -/
def State.sourceWake (src : Nat) (s : State) : State :=
  let k := IMap.get s.peg.sources { enable := src = 1 || src = 4 || src = 7 } src
  if k.enable then s.wakeRequest src k.mode else s

/-- A forced Tell that had to wait applies (R417). -/
def State.forceDue (s : State) : State :=
  if s.power.tellForcedDue && s.power.change.isNone then
    let s := { s with power := { s.power with tellForcedDue := false } }
    if s.power.mode = .drive || s.power.mode = .service then s.armMode .tell 3 none else s
  else s

/-- Leaving Service in Secured reduces a Device session to Observe, and a halted CP resumes (R519). -/
def State.leaveService (old new : Mode) (s : State) : State :=
  if old = .service && new ≠ .service && s.boot.lifecycle = .secured then
    { s with boot := { s.boot with cpHalted := false, cpStep := false, extest := false } }
  else s

/-- Pins that the Peg core does not own float in Keep and Listen, and pass through a hand-over when they are restored
(R488, R499). -/
def State.floatPins (on : Bool) (s : State) : State :=
  if on then { s with pins := { s.pins with floated := true } }
  else { s with pins := { s.pins with
      floated := false
      pin := s.pins.pin.map (fun (e : Nat × Pin) =>
        if e.2.owner = .peg then e else (e.1, { e.2 with handover := some (e.2.handover.getD e.2.holder) })) } }

/-- WAKE_CAUSE (R411) to the platform tenant. -/
def State.wakeCauseEvent (s : State) : State :=
  s.event 0 0x0C02 ([word s.peg.forWake, word s.power.mode.code, s.peg.ringNext - 1, s.now.truncate 32] ++ s.peg.notes.take 4)

/-- The wake that was latched is over. -/
def State.unlatch (s : State) : State := s.modPeg (fun g => { g with latched := false, forWake := 0 })

/-- The part is in a new mode: the change is over, and the DRAMs that the mode keeps in self-refresh enter it (R97). -/
def State.takeMode (m : ModeChange) (s : State) : State :=
  ({ s with
    power := { s.power with mode := m.target, change := none }
    mem := { s.mem with
      dramRefresh := s.mem.dramRefresh || m.target.sleeps
      lpddrRefresh := s.mem.lpddrRefresh || m.target.sleeps || m.target = Mode.tell } }).dropModeArm

/-- The target mode of a change holds: what it stops, restarts or returns, with the record of the MODE_SET that asked for it
(R411, R413, R420). -/
def State.enterMode (m : ModeChange) (s : State) : State :=
  let old := s.power.mode
  let s := s.takeMode m
  let s := if m.target.sleeps then s.floatPins true else s
  let s := s.leaveService old m.target
  let s := match m.ref with
    | some r => if m.target.sleeps then s else s.completeOk r ([word m.target.code] ++ words64 m.applyAt)
    | none => s
  let s := if m.target = .drive && old = .tell then
      (List.range 8).foldl (fun s h => s.restartHead h) { s with power := { s.power with tellHead := none } }
    else s
  if m.target = .tell then
    (match s.power.tellHead with | none => s | some h => s.leaveStill h).stopActivities .tell
  else s

/-- MODE_REACHED (R418 to R421): an applied change ends in its mode. -/
def State.modeReached (s : State) : State :=
  match s.power.change with
  | none => s
  | some m =>
    let failed := s.disp.arms.any (fun a => a.kind = .mode && !a.failed.isEmpty)
    let asleep := m.target.sleeps
    if !m.applied || failed || (asleep && (s.time.running || s.disp.heads.any (fun e => e.2.stopDue))) then s
    else
      let old := s.power.mode
      let s := s.enterMode m
      let s := if m.cause = 2 then s.wakeCauseEvent.unlatch else s
      let s := (s.modeReport old m.target m.cause).startQueued
      if asleep then s.beginWake else s.forceDue

/-! ### The wake ends -/

/-- Meridian resumes at once with its make-up, where no slow-counter edge has resumed it (R442). -/
def State.resumeMeridian (s : State) : State :=
  let t := s.time
  if t.running then { s with time := { t with stopDue := false, resumeDue := false } }
  else { s with
    now := t.stopValue + 31250 * (t.slow - t.stopSlow)
    time := { t with running := true, stopDue := false, resumeDue := false
                     sleepSlow := word (min 0xFFFFFFFF (t.slow - t.stopSlow).toNat) } }

/-- The host's doorbell writes that were latched in Keep or Listen take effect in their order (R425). -/
def State.replayDoorbells (s : State) : State :=
  let ws := s.power.latchedDoorbells
  let s := { s with power := { s.power with latchedDoorbells := [] } }
  ws.foldl (fun s w => s.dbWrite ((w.1 - 0x400000) / 0x1000) (w.1 % 0x1000) w.2) s

/-- Vectors that were raised asleep and are not masked are sent (R425). -/
def State.sendPending (s : State) : State :=
  let vs := s.dev.pba.filter (fun v => !(s.msix v).ctrl.getLsbD 0)
  let s := { s with dev := { s.dev with pba := s.dev.pba.filter (fun v => !vs.contains v) } }
  vs.foldl (fun s v => s.raiseVector v) s

/-- The events that fell due asleep: the calendar's alarm (R457). -/
def State.lateAlarm (s : State) : State :=
  match s.time.cal.eventDue with
  | none => s
  | some t => (s.modCal (fun k => { k with eventDue := none })).event 0 0x0E03 t.words

/-- The matrix unit first evaluates the frames of the model's context that the ring holds (R407). -/
def State.catchUp (s : State) : State :=
  match s.peg.model with
  | none => s
  | some m => { s with peg := { s.peg with evalDue := s.peg.evalDue || s.peg.hist.length = m.context } }

/-- Tell or Drive begins after a sleep, the running clock resumed (R411, R417). -/
def State.wakeInto (new : Mode) (s : State) : State :=
  let s := { s with
    power := { s.power with
      mode := new, tellHead := if new = Mode.tell then s.chooseTellHead else none, keptDomains := [] }
    audio := { s.audio with muted := s.power.pwrfail } }
  s.floatPins false

/-- What waited for the end of a sleep (R411, R417, R420). -/
def State.afterSleep (new : Mode) (s : State) : State :=
  let s := (if new = Mode.tell then s.power.tellHead.toList else List.range 8).foldl (fun s h => s.restartHead h) s
  ((s.deliverCaught.replayDoorbells).sendPending).lateAlarm.startQueued

/-- A sleep ends in mode `new` (R411, R417, R420). -/
def State.wakeTo (old new : Mode) (s : State) : State :=
  let s := if new = .listen then { s with power := { s.power with mode := .listen } }
    else (s.resumeMeridian.wakeInto new).afterSleep new
  let s := (s.wakeCauseEvent).modeReport old new 2
  if old = .keep then s.catchUp else s

/-- WAKE_COMPLETE (R411, R417, R420). -/
def State.wakeComplete (s : State) : State :=
  if !s.peg.latched || !s.power.mode.sleeps || s.power.change.isSome then s
  else
    let req := if s.power.tellForced then min s.peg.reqMode 2 else s.peg.reqMode
    (s.wakeTo s.power.mode (if req ≤ 1 then .listen else if req = 2 then .tell else .drive)).unlatch

/-! ### MODE_SET (R418) and SERVICE_ENTER (R521) -/

def modeSetBody (c : Cmd) (r : CmdRef) (s : State) : CmdRes := do
  c.reserved [(0x08, 1)]
  let m := c.u8 0x08
  need (decide (1 ≤ m) && decide (m ≤ 4)) eRange 0x08
  let target := modeOfCode m
  if target = s.power.mode then okDone s []
  else do
    need s.power.change.isNone eBusy
    need (!(s.power.tellForced && decide (117 * 16 ≤ s.disp.gov.tj))) eThermal
    .ok (({ s with power := { s.power with tellForced := false, tellForcedDue := false } }).armMode target 1 (some r), .later)

/-- Whether SERVICE_N has been low for at least 10 ms (R521). -/
def State.serviceHeld (s : State) : Bool := s.power.servicePinLow && decide (10240000 ≤ s.since s.power.servicePinAt)

def serviceEnterBody (c : Cmd) (r : CmdRef) (s : State) : CmdRes := do
  c.reserved []
  need (s.power.mode = .drive && !s.power.tellForced) eState
  need s.serviceHeld eServicePin
  need s.power.change.isNone eBusy
  .ok (s.armMode .service 4 (some r), .later)

/-- SERVICE_N_RELEASE_TIMEOUT (R522): SERVICE_N has been high for 10 ms, and the CP firmware leaves Service. -/
def State.serviceReleased (s : State) : State :=
  if s.power.mode = .service && !s.power.servicePinLow && s.power.change.isNone then s.armMode .drive 1 none else s

def execServiceNReleaseTimeout (dt : Nat) (s : State) : Host.Outcome State Fault Refusal :=
  .next (s.tick dt).serviceReleased

end Sys2Proof.Machine
end

