-- ==== Sys2Proof/Machine/Tisa.lean ====
section
/-! DEFINITION. The Tablature instruction set (chapter 09): registers and stacks of a thread, what an instruction asks of
its core, data spaces, faults, and how each core issues an instruction. -/

namespace Sys2Proof.Machine

/-! ### Cores and profiles (R225, Table 9.1) -/

/-- Every core runs the instruction. -/
def onAll : CoreRef → Bool := fun _ => true
/-- Full profile: the tab cores and the CP. -/
def onFull : CoreRef → Bool := fun w => w ≠ .peg
/-- Small profile: the Peg core. -/
def onSmall : CoreRef → Bool := fun w => w = .peg
/-- The raster group and installed custom instructions: the tab cores. -/
def onTab : CoreRef → Bool
  | .tab _ _ => true
  | _ => false
/-- IDLE: the Peg core and the CP. -/
def onIdle : CoreRef → Bool := fun w => !onTab w

/-! ### Registers (R226, R245) -/

/-- The data stack in use, top first. -/
def TRegs.ds (r : TRegs) : List Word := if r.fast then r.sd else r.d
/-- Its capacity. -/
def TRegs.cap (r : TRegs) : Nat := if r.fast then 16 else 32
/-- Replace the data stack in use. -/
def TRegs.setDs (r : TRegs) (xs : List Word) : TRegs := if r.fast then { r with sd := xs } else { r with d := xs }
/-- The pointer registers in use. -/
def TRegs.ps (r : TRegs) : List Word := if r.fast then r.sp else r.p
/-- One pointer register. -/
def TRegs.ptr (r : TRegs) (n : Nat) : Word := r.ps.getD n 0
/-- Write one pointer register. -/
def TRegs.setPtr (r : TRegs) (n : Nat) (v : Word) : TRegs :=
  if r.fast then { r with sp := r.sp.set n v } else { r with p := r.p.set n v }

/-- Replace the top `n` entries, top first: faults 2 and 1, the latter of an effect that grows the stack, come before any
effect (R245). -/
def TRegs.replace (n : Nat) (f : List Word → List Word) (r : TRegs) : Except Nat TRegs :=
  if r.ds.length < n then .error 2
  else
    let ys := f (r.ds.take n) ++ r.ds.drop n
    if r.ds.length < ys.length ∧ r.cap < ys.length then .error 1 else .ok (r.setDs ys)

/-- Push a word. -/
def TRegs.push (v : Word) (r : TRegs) : Except Nat TRegs := r.replace 0 (fun _ => [v])

/-- Pop the top word. -/
def TRegs.pop (r : TRegs) : Except Nat (Word × TRegs) :=
  match r.ds with
  | [] => .error 2
  | a :: xs => .ok (a, r.setDs xs)

/-- Push on the return stack: fault 3. -/
def TRegs.rpush (v : Word) (r : TRegs) : Except Nat TRegs :=
  if 16 ≤ r.r.length then .error 3 else .ok { r with r := v :: r.r }

/-- Pop from the return stack: fault 4. -/
def TRegs.rpop (r : TRegs) : Except Nat (Word × TRegs) :=
  match r.r with
  | [] => .error 4
  | a :: xs => .ok (a, { r with r := xs })

/-- A bit as a number. -/
def bitN (b : Bool) : Nat := if b then 1 else 0

/-- SW (Table 9.2). -/
def TRegs.sw (r : TRegs) : Word :=
  word (r.fault * 2 ^ 28 + r.r.length * 2 ^ 16 + r.ds.length * 2 ^ 8 + bitN r.fast * 128 + bitN r.wrIgn * 32 +
    bitN r.ie * 16 + bitN r.v * 8 + bitN r.c * 4 + bitN r.n * 2 + bitN r.z)

/-- Write SW bits 5:0 (Table 9.2): `ie` on the Peg core and the CP, the flags in the small profile. -/
def TRegs.setSw (who : CoreRef) (v : Word) (r : TRegs) : TRegs :=
  let r := { r with wrIgn := v.getLsbD 5, ie := if onTab who then r.ie else v.getLsbD 4 }
  if who = .peg then { r with v := v.getLsbD 3, c := v.getLsbD 2, n := v.getLsbD 1, z := v.getLsbD 0 } else r

/-! ### What an instruction asks -/

/-- Where an instruction issues: its core, the address after it, and the bytes of its code segment. -/
structure Ctx where
  who  : CoreRef
  next : Word
  lim  : Option Nat

/-- What an instruction does: a change of registers, or an access of the machine. -/
inductive Work where
  | regs (f : Ctx → TRegs → Except Nat TRegs)
  | load (p off size : Nat) (sext post : Bool)
  | store (p off size : Nat) (post : Bool)
  | pwrite (id : Nat)
  | palw
  | waitl
  | line
  | fence
  | yield
  | trap (t : Nat)
  | reti
  | idle
  | custom (c : Nat) (imm ext : Word)

/-- A change of registers after which PC stands at the next instruction. -/
def Work.seq (f : Ctx → TRegs → Except Nat TRegs) : Work :=
  .regs (fun c r => match f c r with
    | .error e => .error e
    | .ok r => .ok { r with pc := c.next })

/-- A change of the data stack alone. -/
def Work.stack (n : Nat) (f : List Word → List Word) : Work := .seq (fun _ r => r.replace n f)

/-- An instruction not in the core's profile, or an illegal one (R228). -/
def Work.illegal : Work := .regs (fun _ _ => .error 5)

/-- Control passes to a code address (R229). -/
def Ctx.go (c : Ctx) (target : Word) (r : TRegs) : Except Nat TRegs :=
  if target.getLsbD 0 then .error 6
  else match c.lim with
    | none => .ok { r with pc := target }
    | some n => if target.toNat < n then .ok { r with pc := target } else .error 6

/-- The target of a relative transfer (R229). -/
def Ctx.rel {w : Nat} (c : Ctx) (off : BitVec w) : Word := c.next + 2 * off.signExtend 32

/-! ### ALU results and flags (R234, R235) -/

/-- z and n from a result, in the small profile. -/
def TRegs.flagZN (small : Bool) (v : Word) (r : TRegs) : TRegs :=
  if small then { r with z := v = 0, n := v.getLsbD 31 } else r

/-- One operand. -/
def Work.alu1 (op : Word → Word) : Work :=
  .seq (fun c r => match r.ds with
    | [] => .error 2
    | a :: xs => .ok ((r.setDs (op a :: xs)).flagZN (c.who = .peg) (op a)))

/-- Two operands, a below b. -/
def Work.alu2 (op : Word → Word → Word) : Work :=
  .seq (fun c r => match r.ds with
    | b :: a :: xs => .ok ((r.setDs (op a b :: xs)).flagZN (c.who = .peg) (op a b))
    | _ => .error 2)

/-- a + b + carry: the result, its carry out and its signed overflow. -/
def addWith (a b : Word) (cin : Bool) : Word × Bool × Bool :=
  let t := a.toNat + b.toNat + bitN cin
  let i := a.toInt + b.toInt + bitN cin
  (word t, decide (2 ^ 32 ≤ t), decide (i < -2147483648) || decide (2147483647 < i))

/-- a − b − borrow as an addition: carry 1 when no borrow occurs (R235). -/
def subWith (a b : Word) (cin : Bool) : Word × Bool × Bool := addWith a (~~~b) cin

/-- The flags of an addition or subtraction. -/
def TRegs.flagAll (small : Bool) (x : Word × Bool × Bool) (r : TRegs) : TRegs :=
  if small then { r.flagZN true x.1 with c := x.2.1, v := x.2.2 } else r

/-- Two operands with carry and overflow; `keep` says whether the result stays on the stack. -/
def Work.arith (keep : Bool) (op : TRegs → Word → Word → Word × Bool × Bool) : Work :=
  .seq (fun c r => match r.ds with
    | b :: a :: xs =>
      let x := op r a b
      .ok ((r.setDs (if keep then x.1 :: xs else xs)).flagAll (c.who = .peg) x)
    | _ => .error 2)

/-- Shift amounts use bits 4:0 (R234). -/
def shiftBy (b : Word) : Nat := b.toNat % 32

def divuW (a b : Word) : Word := if b = 0 then 0xFFFFFFFF else word (a.toNat / b.toNat)
def remuW (a b : Word) : Word := if b = 0 then a else word (a.toNat % b.toNat)
def divsW (a b : Word) : Word := if b = 0 then 0xFFFFFFFF else wordI (a.toInt.tdiv b.toInt)
def remsW (a b : Word) : Word := if b = 0 then a else wordI (a.toInt.tmod b.toInt)
def absW (a : Word) : Word := if a.toInt < 0 then -a else a
/-- Leading zeros of a word. -/
def clzW (a : Word) : Word := word (32 - ((List.range 32).filter (fun i => a.toNat / 2 ^ i ≠ 0)).length)

/-! ### Data space of a tab thread (R230, R231) -/

/-- An access in its naturally aligned halves, lower address first. -/
def halves (addr n : Nat) : List (Nat × Nat) :=
  let m := addr % n
  if m = 0 then [(addr, n)] else [(addr, n - m), ((addr + n - m) % 2 ^ 32, m)]

/-- Where a thread's access lands: a physical address or its owner's asset address. -/
inductive Spot where
  | phys (a n : Nat)
  | asset (a n : Nat)

/-- The place of one half, none where the access faults with cause 7. -/
def Thread.spot (k : Thread) (write : Bool) (e : Nat × Nat) : Option Spot :=
  let (a, n) := e
  if a < 0x40000000 then (if a + n ≤ k.dataSize then some (.phys (k.dataAt + a) n) else none)
  else if a < 0x80000000 then (if write then none else some (.asset (k.assetBase + (a - 0x40000000)) n))
  else if a < 0xC0000000 then
    (if a - 0x80000000 + n ≤ k.codeSize && (!write || k.writable) then some (.phys (k.codeAt + (a - 0x80000000)) n) else none)
  else none

/-- Every place of an access, none where one of them faults. -/
def Thread.spots (k : Thread) (write : Bool) (addr n : Nat) : Option (List Spot) :=
  (halves addr n).mapM (k.spot write)

/-- The read requests of a load as it issues: an asset request is translated now, and once (R104). -/
def State.issueReqs (s : State) (t : Nat) (xs : List Spot) : List LoadReq :=
  xs.map (fun x => match x with
    | .phys a n => .segment a n
    | .asset a n => match s.translate t a false with
      | .ok p => .asset a n p
      | .error c => .faulted a c)

/-- The bytes that the requests of a load return; its fault, with the Atlas fault met (R232). -/
def State.reqRead (s : State) : List LoadReq → Except (Option AssetFault) (List Byte)
  | [] => .ok []
  | .segment a n :: xs =>
    if s.poisoned a n then .error none
    else match State.reqRead s xs with
      | .error e => .error e
      | .ok bs => .ok (Mem.readRun s.mem.phys a n ++ bs)
  | .asset a n p :: xs =>
    match s.placeRead p n with
    | .error c => .error (some ⟨a, c⟩)
    | .ok b => match State.reqRead s xs with
      | .error e => .error e
      | .ok bs => .ok (b ++ bs)
  | .faulted a c :: _ => .error (some ⟨a, c⟩)

/-- The stored-error counters of a load's requests (R110). -/
def State.noteReqs (s : State) (xs : List LoadReq) : State :=
  xs.foldl (fun s x => match x with
    | .segment a n => s.noteRead a n
    | .asset _ n (.phys p) => s.noteRead p n
    | _ => s) s

/-- The bytes of a store go to its places, through port A of the core's bank (R92). -/
def State.spotWrite (s : State) : List Spot → List Byte → State
  | .phys a n :: xs, bs => State.spotWrite (s.physStore true a (bs.take n)) xs (bs.drop n)
  | _, _ => s

/-- A loaded value as a word. -/
def loadedWord (size : Nat) (sext : Bool) (bs : List Byte) : Word :=
  let v := leNat bs
  if sext then wordI (signed (8 * size) v) else word v

/-- The address of a load or store (Table 9.4). -/
def TRegs.addrOf (r : TRegs) (p off size : Nat) : Nat := (r.ptr p + word (off * size)).toNat

/-! ### Tab threads: readiness, halts, overruns -/

/-- Whether a thread has something to issue (R257): it runs on its head's cluster, serves a wake or a fast entry, and is not
parked. -/
def State.tabRuns (s : State) (h : Nat) (k : Thread) : Bool :=
  (k.running || k.stepping.isSome) && (s.head h).cluster.isSome && (s.power.mode = .drive || s.power.mode = .service) &&
    k.park.isNone && (k.state = .serving || (k.state = .waiting && k.fast.isSome))

/-- The issue order of a core. -/
def State.coreSched (s : State) (h core : Nat) : CoreSched := IMap.get (s.headTabs h).cores {} core

/-- The number of the present CCLK cycle. -/
def State.cclkCycle (s : State) : Nat := s.cycle.elapsed * s.clocks.cclk / 1024

/-- The first cycle of its core in which a thread can issue (R244, R257). DESIGN CHOICE (assumption 63): the instruction rows carry
no time, so a core's cycles run on by one for each instruction and never lie behind the time that has passed. -/
def State.issueCycle (s : State) (h slot : Nat) (k : Thread) : Nat :=
  max (max ((s.coreSched h (slotCore slot)).cycle + 1) s.cclkCycle) k.readyAt

/-- Whether a thread that has executed YIELD still waits for another one that is ready to issue (R241). -/
def State.yields (s : State) (h : Nat) (k : Thread) : Bool :=
  k.yielded.any (fun i => match s.thread? h i with
    | none => false
    | some m => s.tabRuns h m)

/-- A thread's place in the round-robin of its core: from the one after the last that issued (R257). -/
def State.robinPlace (s : State) (h slot : Nat) : Nat :=
  match (s.coreSched h (slotCore slot)).last with
  | none => slot % 8
  | some l => (slot % 8 + 7 - l % 8) % 8

/-- Whether a thread is chosen before another of its core (R257): the earlier cycle first, then threads in a fast entry, then the
round-robin. DESIGN CHOICE (assumption 63): the round-robin orders threads in fast entries too. -/
def State.chosenBefore (s : State) (h slot other : Nat) (k m : Thread) : Bool :=
  let a := s.issueCycle h slot k
  let b := s.issueCycle h other m
  decide (a < b) || (a = b && ((k.fast.isSome && m.fast.isNone) ||
    (k.fast.isSome = m.fast.isSome && decide (s.robinPlace h slot < s.robinPlace h other))))

/-- Whether a thread is the one that its core issues from next (R257). -/
def State.tabReady (s : State) (h slot : Nat) (k : Thread) : Bool :=
  s.tabRuns h k && !s.yields h k &&
    (s.headTabs h).threads.all (fun e => e.1 = slot || slotCore e.1 != slotCore slot || !s.tabRuns h e.2 ||
      s.yields h e.2 || s.chosenBefore h slot e.1 k e.2)

/-- The other threads of a thread's core that have something to issue. -/
def State.corePeers (s : State) (h slot : Nat) : List Nat :=
  ((s.headTabs h).threads.filter (fun e => e.1 != slot && slotCore e.1 = slotCore slot && s.tabRuns h e.2)).map Prod.fst

/-- A thread issues: its core's order goes on, it may issue again `wait` cycles later (R244), and threads that have yielded to it
no longer wait for it (R241). -/
def State.markIssue (h slot wait : Nat) (k : Thread) (s : State) : State :=
  let c := s.issueCycle h slot k
  s.modTabs h (fun x => { x with
    cores := IMap.put x.cores (slotCore slot) ⟨c, some slot⟩
    threads := x.threads.map (fun e => (e.1,
      if e.1 = slot then { e.2 with readyAt := c + wait, yielded := [] }
      else { e.2 with yielded := e.2.yielded.filter (· != slot) })) })

/-- A debug session is open for the owner's threads on a head (R517, R518). -/
def State.debugOpen (s : State) (t h : Nat) : Bool := bitOf (IMap.get s.boot.grants 0 t) h

/-- The TAB_DEBUG commands that wait for a thread end, and what waited for them goes on (R53). -/
def State.sessionEnds (k : Thread) (s : State) : State :=
  if k.debugRefs.isEmpty then s else (s.endDebug k).advanced

/-- A thread halts (R271, R272): its wake ends, and TAB_HALTED goes to its subscribed owner. -/
def State.haltThread (h slot cause : Nat) (s : State) : State :=
  match s.thread? h slot with
  | none => s
  | some k =>
    let s := s.modThread h slot (fun k => { k with
      state := .halted, wakes := [], stepping := none, haltDue := [], afterHalt := decide (cause = 3)
      wasWaiting := k.wasWaiting || k.fast.isSome
      lastCharge := if k.wakes.isEmpty then k.lastCharge else min 0xFFFF k.charge })
    let s := s.sessionEnds k
    s.notify 0x0704 (k.handle h slot) [word (k.handle h slot), k.regs.pc, word cause] (· = k.owner)

/-- A thread faults (R245, R267), ending a debug step in progress. -/
def State.faultThread (h slot cause : Nat) (s : State) : State :=
  match s.thread? h slot with
  | none => s
  | some k =>
    State.sessionEnds k ((s.tabFault h slot cause).modThread h slot (fun k => { k with stepping := none, haltDue := [] }))

/-- An instruction of a thread has completed: a halt or the end of a step that waited for it (R271). -/
def State.tabAfter (h slot : Nat) (s : State) : State :=
  match s.thread? h slot with
  | none => s
  | some k =>
    match k.stepping with
    | some (r, n) =>
      if n ≤ 1 then s.haltThread h slot 2 else s.modThread h slot (fun k => { k with stepping := some (r, n - 1) })
    | none => if !k.haltDue.isEmpty then s.haltThread h slot 0 else s

/-- The limit in force and what has been charged against it (R266). -/
def Thread.limit (k : Thread) : Nat := if k.fast.isSome then k.set.fastBudget else k.set.budget
def Thread.spent (k : Thread) : Nat := if k.fast.isSome then k.fastCharge else k.charge
/-- Charge an instruction. -/
def Thread.addCharge (k : Thread) (n : Nat) : Thread :=
  if k.fast.isSome then { k with fastCharge := k.fastCharge + n } else { k with charge := k.charge + n }

/-- A thread is charged for an instruction that it issues (R266); a breakpoint passed holds again (R272). -/
def State.charge (h slot n : Nat) (s : State) : State :=
  s.modThread h slot (fun k => { k.addCharge n with passBreak := false })

/-- The budget would be exceeded (R266): a fault with cause 10, or the wake ends and the thread carries over. -/
def State.overrun (h slot : Nat) (s : State) : State :=
  match s.thread? h slot with
  | none => s
  | some k =>
    if k.fast.isSome then s.faultThread h slot 10
    else
      let s := s.modHead h (fun x => { x with cur := { x.cur with
        tabOver := addTally x.cur.tabOver slot 1 k.line (bitN k.set.carry) 0 } })
      if k.set.carry then s.modThread h slot Thread.endWake else s.faultThread h slot 10

/-- The line that a thread's raster instructions act on (R239, R264). -/
def State.tabLine (s : State) (h : Nat) (k : Thread) : Nat :=
  if k.fast.isSome then
    let x := s.head h
    let n := if x.comp.busy then x.comp.next + 1 else x.comp.next
    if n < x.vA then n else 0
  else k.line

/-- A raster write joins those of its head in the order of issue: where both cores issue one in the same CCLK cycle, that of core
1 counts as the later (R265). -/
def insertWrite (w : TabWrite) (ws : List TabWrite) : List TabWrite :=
  let later := if w.core = 0 then (ws.reverse.takeWhile (fun x => x.core = 1 && x.cycle = w.cycle)).length else 0
  ws.take (ws.length - later) ++ w :: ws.drop (ws.length - later)

/-- A raster write of a thread (R239, R240): for the line served, or ignored. -/
def State.tabWrite (h slot : Nat) (k : Thread) (w : LWrite) (s : State) : State :=
  let y := s.tabLine h k
  if (s.lineWrite h k.owner w).2 then s.modTabs h (fun x => { x with
    writes := insertWrite ⟨k.owner, y, w, slotCore slot, (s.coreSched h (slotCore slot)).cycle⟩ x.writes })
  else
    let id := match w with | .param _ id _ => id | .pal .. => 0xFFFFFFFF
    (s.modThread h slot (fun k => { k with regs := { k.regs with wrIgn := true } })).modHead h (fun x => { x with
      cur := { x.cur with tabIgn := addTally x.cur.tabIgn slot 1 y id 0 } })

/-- Set a thread's registers. -/
def State.setRegs (h slot : Nat) (r : TRegs) (s : State) : State := s.modThread h slot (fun k => { k with regs := r })

/-- The work of an instruction that neither parks nor ends a wake. -/
def State.tabSimple (h slot : Nat) (k : Thread) (c : Ctx) (w : Work) (s : State) : Except Nat State :=
  let r := k.regs
  match w with
  | .regs f =>
    match f c r with
    | .error e => .error e
    | .ok r => .ok (s.setRegs h slot r)
  | .store p off size post =>
    match r.pop with
    | .error e => .error e
    | .ok (v, r') =>
      let a := r.addrOf p off size
      match k.spots true a size with
      | none => .error 7
      | some xs =>
        let r' := if post then r'.setPtr p (r.ptr p + 4) else r'
        .ok ((s.spotWrite xs (leBytes size v.toNat)).setRegs h slot { r' with pc := c.next })
  | .pwrite id =>
    match r.ds with
    | v :: hd :: xs =>
      .ok ((s.setRegs h slot { r.setDs xs with pc := c.next }).tabWrite h slot k (.param hd.toNat id v.toNat))
    | _ => .error 2
  | .palw =>
    match r.ds with
    | v :: n :: xs =>
      .ok ((s.setRegs h slot { r.setDs xs with pc := c.next }).tabWrite h slot k (.pal (n.toNat % 2 ^ 14) v.toNat))
    | _ => .error 2
  | .line =>
    match r.push (word (s.tabLine h k)) with
    | .error e => .error e
    | .ok r => .ok (s.setRegs h slot { r with pc := c.next })
  | _ => .error 5

/-! ### Custom instructions (R246 to R252) -/

/-- Decode entry fields (Table 9.10). -/
def entStart (e : Nat) : Nat := bits e 8 0
def entLen (e : Nat) : Nat := bits e 14 9 + 1
def entExt (e : Nat) : Nat := bits e 17 16
def entPops (e : Nat) : Nat := bits e 19 18
def entPushes (e : Nat) : Nat := bits e 21 20
def entPeak (e : Nat) : Nat := bits e 27 24

/-- The micro-ops of an installed entry. -/
def Microcode.seqOf (u : Microcode) (e : Nat) : List Word :=
  (List.range (entLen e)).map (fun i => IMap.get u.ops 0 (entStart e + i))

/-- A micro-op's unit as work, with the stack entries it needs and leaves (R248): none where the unit is not allowed. -/
def unitWork (u : Nat) : Option (Nat × Nat × Work) :=
  let k := bits u 4 0
  let p := bits u 7 5
  let op := bits u 11 8
  let a2 (f : Word → Word → Word) : Option (Nat × Nat × Work) := if bits u 6 0 = 0 then some (2, 1, .alu2 f) else none
  let a1 (f : Word → Word) : Option (Nat × Nat × Work) := if bits u 6 0 = 0 then some (1, 1, .alu1 f) else none
  let st (n m : Nat) (f : List Word → List Word) : Option (Nat × Nat × Work) :=
    if bits u 7 0 = 0 then some (n, m, .stack n f) else none
  match u / 0x1000 with
  | 0 =>
    match op with
    | 0 => st 0 0 id
    | 1 => st 1 0 (fun _ => [])
    | 2 => st 1 2 (fun x => x.take 1 ++ x)
    | 3 => st 2 2 List.reverse
    | 4 => st 2 3 (fun x => x.drop 1 ++ x)
    | 5 => st 3 3 (fun x => x.drop 2 ++ x.take 2)
    | 6 => st 2 1 (fun x => x.take 1)
    | 7 => st 2 3 (fun x => x ++ x.take 1)
    | 8 => if bits u 7 5 = 0 then some (k + 1, k + 2, .stack (k + 1) (fun x => x.drop k ++ x)) else none
    | 9 => if bits u 7 0 = 0 then some (0, 1, .seq (fun _ r => r.push (word r.ds.length))) else none
    | _ => none
  | 1 =>
    match bits u 11 7 with
    | 0 => if bits u 6 0 = 0 then some (2, 1, .arith true (fun _ a b => addWith a b false)) else none
    | 1 => if bits u 6 0 = 0 then some (2, 1, .arith true (fun _ a b => subWith a b true)) else none
    | 2 => a2 (· &&& ·) | 3 => a2 (· ||| ·) | 4 => a2 (· ^^^ ·)
    | 5 => a2 (fun a b => a <<< shiftBy b) | 6 => a2 (fun a b => a >>> shiftBy b)
    | 7 => a2 (fun a b => a.sshiftRight (shiftBy b))
    | 8 => a2 (· * ·)
    | 9 => a2 (fun a b => word (a.toNat * b.toNat / 2 ^ 32))
    | 10 => a2 (fun a b => wordI (a.toInt * b.toInt / 2 ^ 32))
    | 11 => a2 divuW | 12 => a2 divsW | 13 => a2 remuW | 14 => a2 remsW
    | 15 => a2 (fun a b => if a.toInt < b.toInt then a else b) | 16 => a2 (fun a b => if a.toInt < b.toInt then b else a)
    | 17 => a2 (fun a b => if a.toNat < b.toNat then a else b) | 18 => a2 (fun a b => if a.toNat < b.toNat then b else a)
    | 19 => a2 (fun a b => if a.toInt < b.toInt then 1 else 0) | 20 => a2 (fun a b => if a.toNat < b.toNat then 1 else 0)
    | 21 => a1 (~~~ ·) | 22 => a1 (- ·) | 23 => a1 absW | 24 => a1 clzW
    | 25 => a1 (fun a => wordI (signed 8 a.toNat)) | 26 => a1 (fun a => wordI (signed 16 a.toNat))
    | _ => none
  | 2 => if bitOf u 11 then none else some (0, 1, .seq (fun _ r => r.push (wordI (signed 11 (bits u 10 0)))))
  | 3 =>
    match op with
    | 0 => some (0, 1, .load p k 4 false false) | 1 => some (0, 1, .load p k 2 false false)
    | 2 => some (0, 1, .load p k 2 true false) | 3 => some (0, 1, .load p k 1 false false)
    | 4 => some (0, 1, .load p k 1 true false) | 5 => some (1, 0, .store p k 4 false)
    | 6 => some (1, 0, .store p k 2 false) | 7 => some (1, 0, .store p k 1 false)
    | 8 => if k = 0 then some (0, 1, .load p 0 4 false true) else none
    | 9 => if k = 0 then some (1, 0, .store p 0 4 true) else none
    | 10 => if k = 0 then some (0, 1, .seq (fun _ r => r.push (r.ptr p))) else none
    | 11 => if k = 0 then some (1, 0, .seq (fun _ r => match r.pop with
        | .error e => .error e | .ok (a, r) => .ok (r.setPtr p a))) else none
    | 12 => if k = 0 then some (1, 0, .seq (fun _ r => match r.pop with
        | .error e => .error e | .ok (a, r) => .ok (r.setPtr p (r.ptr p + a)))) else none
    | 13 => some (0, 0, .seq (fun _ r => .ok (r.setPtr p (r.ptr p + wordI (signed 5 k)))))
    | _ => none
  | 6 =>
    match op with
    | 0 => some (2, 0, .pwrite (bits u 7 0))
    | 1 => if bits u 7 0 = 0 then some (2, 0, .palw) else none
    | 3 => if bits u 7 0 = 0 then some (0, 1, .line) else none
    | _ => none
  | _ => none

/-- How a run of micro-ops stopped. -/
inductive MicroEnd where
  | done
  | parked
  | fault (cause : Nat)

/-- Push a value in a thread's stack during a sequence; R249 has proved that it fits. -/
def State.microPush (h slot : Nat) (k : Thread) (v : Word) (s : State) : State :=
  match k.regs.push v with
  | .ok r => s.setRegs h slot r
  | .error _ => s

/-- The cycles of an iterative unit beyond the first, by a unit (R244). -/
def iterativeExtra (u : Nat) : Nat :=
  if u / 0x1000 ≠ 1 then 0
  else if bits u 11 7 = 9 ∨ bits u 11 7 = 10 then 1
  else if 11 ≤ bits u 11 7 ∧ bits u 11 7 ≤ 14 then 17
  else 0

/-- The cycles that a micro-op's unit is charged (R244): one, and what its split access or its iterative unit adds. -/
def microCycles (k : Thread) (u : Nat) : Nat :=
  match unitWork u with
  | some (_, _, .load p off size _ _) => (halves (k.regs.addrOf p off size) size).length
  | some (_, _, .store p off size _) => (halves (k.regs.addrOf p off size) size).length
  | _ => 1 + iterativeExtra u

/-- Run micro-ops in order (R247), with the cycles that those executed are charged; PC stays at the custom instruction. In a
trial run loads return at once. -/
def State.microRun (h slot : Nat) (imm ext : Word) (trial : Bool) : List Word → Nat → Nat → State → State × Nat × MicroEnd
  | [], _, n, s => (s, n, .done)
  | _ :: us, skip + 1, n, s => State.microRun h slot imm ext trial us skip n s
  | u :: us, 0, n, s =>
    match s.thread? h slot with
    | none => (s, n, .done)
    | some k =>
      let u := u.toNat
      let c : Ctx := ⟨.tab h slot, k.regs.pc, some k.codeSize⟩
      let skipIf (take : Word → Bool) : State × Nat × MicroEnd :=
        match k.regs.pop with
        | .error e => (s, n, .fault e)
        | .ok (v, r) =>
          State.microRun h slot imm ext trial us (if take v then bits u 19 16 else 0) (n + 1) (s.setRegs h slot r)
      match bits u 30 28 with
      | 0 =>
        let n' := n + microCycles k (u % 0x10000)
        match unitWork (u % 0x10000) with
        | none => (s, n, .fault 5)
        | some (_, _, .load p off size sext post) =>
          let a := k.regs.addrOf p off size
          match k.spots false a size with
          | none => (s, n, .fault 7)
          | some xs =>
            if trial then
              let v := match s.reqRead (s.issueReqs k.owner xs) with
                | .ok bs => loadedWord size sext bs
                | .error _ => 0
              let s := s.microPush h slot (if post then { k with regs := k.regs.setPtr p (k.regs.ptr p + 4) } else k) v
              State.microRun h slot imm ext trial us 0 n' s
            else
              (s.modThread h slot (fun k => { k with
                park := some (.load (s.issueReqs k.owner xs) size sext (if post then some p else none) 1 (some (us, imm, ext))) }),
                n', .parked)
        | some (_, _, w) =>
          match s.tabSimple h slot k c w with
          | .error e => (s, n, .fault e)
          | .ok s => State.microRun h slot imm ext trial us 0 n' s
      | 1 => State.microRun h slot imm ext trial us 0 (n + 1) (s.microPush h slot k imm)
      | 2 => State.microRun h slot imm ext trial us 0 (n + 1) (s.microPush h slot k ext)
      | 3 => skipIf (· = 0)
      | 4 => skipIf (· ≠ 0)
      | _ => (s, n, .fault 5)

/-- A sequence stops: at its end PC passes the custom instruction, at a fault it stays there (R252). -/
def State.microEnd (h slot units : Nat) (x : State × Nat × MicroEnd) : State :=
  match x.2.2 with
  | .done => (x.1.modThread h slot (fun k => { k with regs := { k.regs with pc := k.regs.pc + word (2 * units) } })).tabAfter
      h slot
  | .parked => x.1.modThread h slot (fun k => { k with park := match k.park with
      | some (.load a z e p _ c) => some (.load a z e p units c)
      | q => q })
  | .fault e => x.1.faultThread h slot e

/-- The checks at the issue of a custom instruction (R249), and the micro-ops it will run. -/
def State.customCheck (s : State) (k : Thread) (c : Nat) : Except Nat (List Word) :=
  match IMap.find? s.ucode.entries c with
  | none => .error 5
  | some e =>
    let e := e.toNat
    let d := k.regs.ds.length
    if d < entPops e then .error 2
    else if k.regs.cap < d - entPops e + entPeak e then .error 1
    else .ok (s.ucode.seqOf e)

/-- Cycles beyond those of the units (R244): the second half of a split access, and the micro-ops of a custom instruction. -/
def State.extraCost (s : State) (h slot : Nat) (k : Thread) : Work → Nat
  | .load p off size _ _ => (halves (k.regs.addrOf p off size) size).length - 1
  | .store p off size _ => (halves (k.regs.addrOf p off size) size).length - 1
  | .custom c imm ext =>
    match s.customCheck k c with
    | .error _ => 0
    | .ok us => (s.microRun h slot imm ext true us 0 0).2.1
  | _ => 0

/-! ### Issue on a tab core -/

/-- RETI (R241, R264): SW and PC come back from the return stack; leaving the fast entry, the thread serves or waits. -/
def TRegs.reti (c : Ctx) (r : TRegs) : Except Nat TRegs :=
  match r.r with
  | sw :: pc :: rest =>
    match c.go pc { r with r := rest } with
    | .error e => .error e
    | .ok r => .ok { r.setSw c.who sw with fast := sw.getLsbD 7 }
  | _ => .error 4

/-- The thread after a RETI. -/
def Thread.afterReti (k : Thread) : Thread :=
  if k.fast.isSome && !k.regs.fast then
    if k.wasWaiting then
      match k.wakes with
      | [] => { k with fast := none, state := .waiting }
      | y :: _ => { k with fast := none, state := .serving, line := y, charge := 0 }
    else { k with fast := none }
  else k

/-- A WAITL (R239, R263): it ends the wake; with none being served it simply waits. -/
def Thread.waitl (next : Word) (k : Thread) : Thread :=
  let k := { k with regs := { k.regs with pc := next } }
  if k.fast.isSome then
    let k := if k.wakes.isEmpty then k else { k with
      wakes := [], lastCharge := min 0xFFFF k.charge, charge := 0, wasWaiting := true }
    { k with state := .waiting, park := some .wake }
  else k.endWake

/-- A thread carries out an instruction. -/
def State.tabRun (h slot units : Nat) (k : Thread) (w : Work) (s : State) : State :=
  let c : Ctx := ⟨.tab h slot, k.regs.pc + word (2 * units), some k.codeSize⟩
  let simple (w : Work) : State := match s.tabSimple h slot k c w with
    | .error e => s.faultThread h slot e
    | .ok s => s.tabAfter h slot
  match w with
  | .load p off size sext post =>
    let a := k.regs.addrOf p off size
    if k.regs.cap ≤ k.regs.ds.length then s.faultThread h slot 1
    else match k.spots false a size with
      | none => s.faultThread h slot 7
      | some xs => s.modThread h slot (fun k => { k with
          park := some (.load (s.issueReqs k.owner xs) size sext (if post then some p else none) units none) })
  | .fence => s.modThread h slot (fun k => { k with park := some .fence })
  | .waitl => (s.modThread h slot (Thread.waitl c.next)).tabAfter h slot
  | .yield => (s.modThread h slot (fun k => { k with
      regs := { k.regs with pc := c.next }, yielded := s.corePeers h slot })).tabAfter h slot
  | .trap t =>
    if t = 0 && s.debugOpen k.owner h then s.haltThread h slot 3
    else (s.modThread h slot (fun k => { k with regs := { k.regs with trap := t } })).faultThread h slot 8
  | .reti =>
    match k.regs.reti c with
    | .error e => s.faultThread h slot e
    | .ok r => ((s.setRegs h slot r).modThread h slot Thread.afterReti).tabAfter h slot
  | .custom op imm ext =>
    match s.customCheck k op with
    | .error e => s.faultThread h slot e
    | .ok us => State.microEnd h slot units (s.microRun h slot imm ext false us 0 0)
  | w => simple w

/-- The cycles after which a thread may issue again (R244): four for each issue slot, and no fewer than an iterative unit or a
custom sequence takes. -/
def issueWait (units n : Nat) (k : Thread) : Work → Nat
  | .load p off size _ _ => 4 * (units + (halves (k.regs.addrOf p off size) size).length - 1)
  | .store p off size _ => 4 * (units + (halves (k.regs.addrOf p off size) size).length - 1)
  | _ => max (4 * units) n

/-- A tab thread issues an instruction (R257, R266, R272): a breakpoint halts it, an end of the code segment or the budget
stops it, and otherwise it is charged and carried out. -/
def State.tabIssue (h slot units cost : Nat) (w : Work) (s : State) : State :=
  match s.thread? h slot with
  | none => s
  | some k =>
    if !s.tabReady h slot k then s
    else if k.breaks.any (fun b => b.2 = k.regs.pc) && !k.passBreak then s.haltThread h slot 1
    else if k.codeSize < k.regs.pc.toNat + 2 * units then s.faultThread h slot 6
    else
      let n := cost + s.extraCost h slot k w
      if k.limit < k.spent + n then s.overrun h slot
      else ((s.markIssue h slot (issueWait units n k w) k).charge h slot n).tabRun h slot units k w

/-! ### The Peg core (R399, R402) -/

/-- The Pegbox parts that do not run in Keep run: outside Keep, or once a wake has been latched (R398, R409). -/
def State.pegAwake (s : State) : Bool :=
  !(s.power.mode = .off) && !(s.power.mode = .keep && !s.peg.latched) && !s.boot.resetLow

/-- STATUS of the I²C target (Table 15.4). -/
def State.i2cStatus (s : State) : Byte := BitVec.ofNat 8 (s.power.mode.code + bitN s.peg.latched * 128)

/-- Bytes of a list of words or of 16-bit values. -/
def byteOf (xs : List Nat) (size off : Nat) : Byte := BitVec.ofNat 8 (xs.getD (off / size) 0 / 256 ^ (off % size))

/-- A byte of the Peg core's data space (Table 15.1), none where a read faults. -/
def State.pegByte (s : State) (a : Nat) : Option Byte :=
  let g := s.peg
  if a < 0x10000 then some (Mem.read g.data a)
  else if 0x10000000 ≤ a ∧ a ≤ 0x100270FF then some (Mem.read g.ring (a - 0x10000000))
  else if 0x20000000 ≤ a ∧ a ≤ 0x2000004F then some (byteOf (g.mel.map (wrapTo 16)) 2 (a - 0x20000000))
  else if 0x20000080 ≤ a ∧ a ≤ 0x2000009F then some (byteOf g.scores 4 (a - 0x20000080))
  else if 0x30000004 ≤ a ∧ a ≤ 0x30000007 then some (byteOf [(g.ringNext - 1).toNat] 4 (a - 0x30000004))
  else if 0x30000008 ≤ a ∧ a ≤ 0x3000000B then some (byteOf [g.i2c.last.toNat] 4 (a - 0x30000008))
  else if 0x30000010 ≤ a ∧ a ≤ 0x3000002F then some (byteOf (g.notes.map (·.toNat)) 4 (a - 0x30000010))
  else if a = 0x30000040 then some s.i2cStatus
  else if a = 0x30000041 then some (BitVec.ofNat 8 g.i2c.modeReq)
  else if 0x30000042 ≤ a ∧ a ≤ 0x3000004F then some (g.user.getD (a - 0x30000040) 0)
  else none

/-- Whether a byte of the Peg core's data space can be written. -/
def pegWritable (a : Nat) : Bool :=
  decide (a < 0x10000) || (decide (0x30000000 ≤ a) && decide (a ≤ 0x30000003)) ||
  (decide (0x30000010 ≤ a) && decide (a ≤ 0x3000002F)) || (decide (0x30000042 ≤ a) && decide (a ≤ 0x3000004F))

/-- A byte is written there; PEG_WAKE_REQ requests a wake (R399, R410). -/
def State.pegStore (a : Nat) (b : Byte) (s : State) : State :=
  let g := s.peg
  if a < 0x10000 then { s with peg := { g with data := Mem.write g.data a [b] } }
  else if a = 0x30000000 then
    let m := b.toNat % 4
    let k := IMap.get g.sources { enable := true } 7
    if m = 0 ∨ !k.enable then s else s.wakeRequest 7 m
  else if 0x30000010 ≤ a ∧ a ≤ 0x3000002F then
    let i := (a - 0x30000010) / 4
    let old := leBytes 4 (g.notes.getD i 0).toNat
    { s with peg := { g with notes := g.notes.set i (word (leNat (old.set (a % 4) b))) } }
  else if 0x30000042 ≤ a ∧ a ≤ 0x3000004F then { s with peg := { g with user := g.user.set (a - 0x30000040) b } }
  else s

/-- Set the Peg core's registers. -/
def State.setPegRegs (r : TRegs) (s : State) : State := { s with peg := { s.peg with regs := r } }

/-- A Peg core fault (R402): the program stops, and PEG_FAULT goes to the platform tenant. -/
def State.pegFault (cause : Nat) (s : State) : State :=
  let r := { s.peg.regs with fault := cause }
  ({ s with peg := { s.peg with regs := r, running := false, pending := [] } }).event 0 0x0C03 [word cause, r.pc, r.sw]

/-- The Peg core carries out an instruction; its loads and stores never park (R399). -/
def State.pegRun (units : Nat) (w : Work) (s : State) : State :=
  let r := s.peg.regs
  let c : Ctx := ⟨.peg, r.pc + word (2 * units), some 0x10000⟩
  let put (x : Except Nat TRegs) : State := match x with
    | .error e => s.pegFault e
    | .ok r => s.setPegRegs r
  match w with
  | .regs f => put (f c r)
  | .load p off size sext post =>
    let a := r.addrOf p off size
    let bs := ((List.range size).map (fun i => s.pegByte ((a + i) % 2 ^ 32))).mapM id
    if r.cap ≤ r.ds.length then s.pegFault 1
    else match bs with
      | none => s.pegFault 7
      | some bs =>
        let r := if post then r.setPtr p (r.ptr p + 4) else r
        put ((r.push (loadedWord size sext bs)).map (fun r => { r with pc := c.next }))
  | .store p off size post =>
    match r.pop with
    | .error e => s.pegFault e
    | .ok (v, r') =>
      let a := r.addrOf p off size
      if !(List.range size).all (fun i => pegWritable ((a + i) % 2 ^ 32)) then s.pegFault 7
      else
        let r' := if post then r'.setPtr p (r.ptr p + 4) else r'
        ((leBytes size v.toNat).zipIdx).foldl (fun s e => s.pegStore ((a + e.2) % 2 ^ 32) e.1)
          (s.setPegRegs { r' with pc := c.next })
  | .trap t => ({ s with peg := { s.peg with regs := { r with trap := t } } }).pegFault 8
  | .reti => put (r.reti c)
  | .idle => (s.setPegRegs { r with pc := c.next }) |> fun s => { s with peg := { s.peg with idle := true } }
  | .fence => s.setPegRegs { r with pc := c.next }
  | .yield => s.setPegRegs { r with pc := c.next }
  | _ => s.pegFault 5

/-- The Peg core issues an instruction (R399, R402). -/
def State.pegIssue (units : Nat) (w : Work) (s : State) : State :=
  let r := s.peg.regs
  if !s.peg.running || !s.pegAwake || s.peg.idle then s
  else if r.pc.getLsbD 0 || decide (0x10000 < r.pc.toNat + 2 * units) then s.pegFault 6
  else s.pegRun units w

/-! ### The CP -/

/-- Set the CP's registers. -/
def State.setCpRegs (r : TRegs) (s : State) : State := { s with cp := { s.cp with regs := r } }

/-- A CP fault (R245): the thread stops, and DEV.EVENT bit 6 is set. -/
def State.cpFault (cause : Nat) (s : State) : State :=
  (s.setCpRegs { s.cp.regs with fault := cause }).devEvent 6

/-- Whether the CP issues: it has left reset, is not halted (R519), its mode runs it, and its thread has not faulted. -/
def State.cpReady (s : State) : Bool :=
  !(s.boot.stage = .reset || s.boot.stage = .pegRom || s.boot.stage = .stopped) && (!s.boot.cpHalted || s.boot.cpStep) && !s.power.pwrfail &&
  !(s.power.mode.sleeps || s.power.mode = .off) && s.cp.regs.fault = 0 && !s.cp.idle

/-- A single step that the debug port asked of the CP is used up (R519). -/
def State.cpSpendStep (s : State) : State := { s with boot := { s.boot with cpStep := false } }

/-- Fresh free values as words. -/
def State.freshWords : Nat → State → List Word × State
  | 0, s => ([], s)
  | n + 1, s =>
    let (v, s) := s.fresh
    let (ws, s) := State.freshWords n s
    (word v :: ws, s)

/-- A custom instruction of the CP, which the firmware alone defines (Table 9.1): PC passes its one unit, and the data stack and
the pointer registers in use hold free values after it (assumption 33). -/
def State.cpCustom (next : Word) (s : State) : State :=
  let (n, s) := s.fresh
  let (ds, s) := s.freshWords (n % (s.cp.regs.cap + 1))
  let (ps, s) := s.freshWords 8
  let r := { (s.cp.regs.setDs ds) with pc := next }
  s.setCpRegs (if r.fast then { r with sp := ps } else { r with p := ps })

/-- The CP carries out an instruction. Its address map is not stated: its loads deliver free values, its stores reach memory
that no other rule reads (assumption 33), and its code has no stated end. -/
def State.cpRun (units : Nat) (w : Work) (s : State) : State :=
  let r := s.cp.regs
  let c : Ctx := ⟨.cp, r.pc + word (2 * units), none⟩
  let put (x : Except Nat TRegs) (s : State) : State := match x with
    | .error e => s.cpFault e
    | .ok r => s.setCpRegs r
  match w with
  | .regs f => put (f c r) s
  | .load p _ size sext post =>
    if r.cap ≤ r.ds.length then s.cpFault 1
    else
      let (v, s) := s.fresh
      let r := if post then r.setPtr p (r.ptr p + 4) else r
      put ((r.push (loadedWord size sext (leBytes size v))).map (fun r => { r with pc := c.next })) s
  | .store p _ _ post =>
    match r.pop with
    | .error e => s.cpFault e
    | .ok (_, r') =>
      s.setCpRegs { (if post then r'.setPtr p (r.ptr p + 4) else r') with pc := c.next }
  | .trap t => ({ s with cp := { s.cp with regs := { r with trap := t } } }).cpFault 8
  | .reti =>
    match r.reti c with
    | .error e => s.cpFault e
    | .ok r => (s.setCpRegs r).endEntry
  | .idle => { s with cp := { s.cp with regs := { r with pc := c.next }, idle := true } }
  | .fence => s.setCpRegs { r with pc := c.next }
  | .yield => s.setCpRegs { r with pc := c.next }
  | .custom _ _ _ => s.cpCustom c.next
  | _ => s.cpFault 5

/-- The CP issues an instruction. -/
def State.cpIssue (units : Nat) (w : Work) (s : State) : State :=
  if !s.cpReady then s
  else
    let s := s.cpSpendStep
    if s.cp.regs.pc.getLsbD 0 then s.cpFault 6 else s.cpRun units w

/-! ### Any core -/

/-- A core issues an instruction of `units` units, charged `cost` on a tab core; one that is not in the core's profile is
illegal (R228). -/
def State.issue (ok : CoreRef → Bool) (units cost : Nat) (w : Work) (who : CoreRef) (s : State) : State :=
  let w' := if ok who then w else Work.illegal
  let u := if ok who then units else 1
  match who with
  | .tab h slot => s.tabIssue h slot u (if ok who then cost else 1) w'
  | .peg => s.pegIssue u w'
  | .cp => s.cpIssue u w'

end Sys2Proof.Machine
end

