-- ==== Sys2Proof/Machine/TabCmds.lean ====
section
/-! DEFINITION. The commands of group 0x07: TAB_LOAD, TAB_START, TAB_STOP (R259 to R262), DECODE_TABLE_LOAD (R246 to R251)
and TAB_DEBUG (R271, R272). -/

namespace Sys2Proof.Machine

def eDecodeInUse : Nat := 0x0701
def eMicrocode : Nat := 0x0702
def eEntry : Nat := 0x0703

/-! ### Segments -/

/-- The segments of every tab thread: physical address and bytes. -/
def State.segments (s : State) : List (Nat × Nat) :=
  s.tabs.flatMap (fun e => e.2.threads.flatMap (fun k => [(k.2.codeAt, k.2.codeSize), (k.2.dataAt, k.2.dataSize)]))

/-- The lowest place for a segment in the banks of a core (assumption 12). -/
def State.placeSegment (s : State) (used : List (Nat × Nat)) (core n : Nat) : Option Nat :=
  let banks := (List.range 16).filter (fun b => let k := s.bank b; k.cls = 2 && k.inst = core)
  let fits (a : Nat) : Bool :=
    banks.any (fun b => decide (bankBase + b * 0x400000 ≤ a) && decide (a + n ≤ bankBase + (b + 1) * 0x400000)) &&
    !used.any (fun u => decide (u.1 < a + n) && decide (a < u.1 + u.2))
  let starts := banks.map (fun b => bankBase + b * 0x400000) ++ used.map (fun u => u.1 + u.2)
  (sortBy (fun a b => decide (a ≤ b)) (starts.filter fits)).head?

/-- The tab threads a tenant holds on all heads (Table 3.1). -/
def State.threadCount (s : State) (t : Nat) : Nat :=
  (s.tabs.map (fun e => (e.2.threads.filter (fun k => k.2.owner = t)).length)).sum

/-- The tab core that runs a slot of a head (R259), 0xFF where no cluster serves the head. -/
def State.slotCoreNo (s : State) (h slot : Nat) : Nat :=
  match (s.head h).cluster with
  | some n => 2 * n + slotCore slot
  | none => 0xFF

/-- The places of a thread's code and data segments in the banks of a core, if it has room (R259). -/
def State.placeThread (s : State) (core code data : Nat) : Option (Nat × Nat) :=
  match s.placeSegment s.segments core code with
  | none => none
  | some ca =>
    (if data = 0 then some ca else s.placeSegment ((ca, code) :: s.segments) core data).map (fun da => (ca, da))

/-- The slot that a TAB_LOAD takes: the one named, or the lowest free slot whose core has room (R547); with none that has, the
lowest free one. -/
def State.loadSlot (s : State) (h slot code data : Nat) : Option Nat :=
  let free (i : Nat) : Bool := (IMap.find? (s.headTabs h).threads i).isNone
  if slot = 0xFF then
    (lowest 16 (fun i => free i && (s.placeThread (s.slotCoreNo h i) code data).isSome)).or (lowest 16 free)
  else if free slot then some slot else none

/-- TAB_LOAD (R260). -/
def tabLoadBody (c : Cmd) (_ : CmdRef) (s : State) : CmdRes := do
  let fl := c.u8 0x0A
  let init := c.u32 0x1C
  needFlags fl 1 0x0A
  c.reserved ([(0x08, 3), (0x0C, 20), (0x28, 8)] ++ (if init = 0 then [] else [(0x20, 8)])) [(0x20, 8)]
  let h := c.u8 0x08
  let slot := c.u8 0x09
  let code := c.u32 0x0C
  let data := c.u32 0x18
  need (decide (h ≤ 7)) eRange 0x08
  need (decide (slot ≤ 15) || slot = 0xFF) eRange 0x09
  need (decide (64 ≤ code) && decide (code ≤ 65536)) eRange 0x0C
  need (decide (data ≤ 262144)) eRange 0x18
  need (decide (init ≤ data)) eRange 0x1C
  need (code % 64 = 0) eAlign 0x0C
  need (c.u64 0x10 % 64 = 0) eAlign 0x10
  need (data % 64 = 0) eAlign 0x18
  need (init % 64 = 0) eAlign 0x1C
  need (c.u64 0x20 % 64 = 0) eAlign 0x20
  need (c.u64 0x28 % 65536 = 0) eAlign 0x28
  need (s.head h).timed eState
  need (decide (s.threadCount c.tenant < ((s.tenant? c.tenant).map (fun x => x.quotas.threads)).getD 0)) eQuota
  match s.loadSlot h slot code data with
  | none => .error { status := eNoRes }
  | some i => do
    let core := s.slotCoreNo h i
    match s.placeThread core code data with
    | none => .error { status := eNoRes, words := [0, word core] }
    | some (ca, da) => do
        let image ← readFor s c.tenant (c.u64 0x10) code 0x10
        let first ← noting [.asset c.tenant (c.u64 0x10) code] (readFor s c.tenant (c.u64 0x20) init 0x20)
        let gen := (IMap.get (s.headTabs h).gens 0 i + 1) % 0x10000
        let s := (s.noteAssetRead c.tenant (c.u64 0x10) code).noteAssetRead c.tenant (c.u64 0x20) init
        let s := ((s.physWrite ca image).physZero da data).physWrite da first
        let k : Thread := {
          gen := gen, owner := c.tenant, codeAt := ca, codeSize := code, dataAt := da, dataSize := data
          writable := bitOf fl 0, assetBase := c.u64 0x28 }
        let s := s.modTabs h (fun x => { x with gens := IMap.put x.gens i gen, threads := IMap.put x.threads i k })
        okDone s [word (k.handle h i), word core]

/-- The thread that a handle of its owner names (R117, R259). -/
def needThread (s : State) (t hd off : Nat) : Except CErr (Nat × Nat × Thread) :=
  let bad : CErr := { status := eNotOwner, detail := off }
  if bits hd 15 11 ≠ 0 ∨ bits hd 7 4 ≠ 0 then .error bad
  else match s.thread? (bits hd 10 8) (bits hd 3 0) with
    | none => .error bad
    | some k => if k.gen = bits hd 31 16 ∧ k.owner = t then .ok (bits hd 10 8, bits hd 3 0, k) else .error bad

/-- A code address that an entry or handler may have (R262). -/
def Thread.codeOk (k : Thread) (a : Nat) : Bool := a % 2 = 0 && decide (a < k.codeSize)

/-- TAB_START (R262): staged. -/
def tabStartBody (c : Cmd) (_ : CmdRef) (s : State) : CmdRes := do
  let fl := c.u8 0x18
  needFlags fl 1 0x18
  c.reserved [(0x08, 17), (0x1A, 4), (0x20, 8)]
  let f0 := c.u8 0x1C
  let f1 := c.u8 0x1D
  let fret (f : Nat) : Bool := decide (f ≤ 15) || f = 0xFF
  let none_ := f0 = 0xFF && f1 = 0xFF
  let fb := c.u16 0x1A
  need (decide (c.u16 0x10 ≤ c.u16 0x12)) eRange 0x12
  need (decide (1 ≤ c.u16 0x14) && decide (c.u16 0x14 ≤ 4096)) eRange 0x14
  need (decide (1 ≤ c.u16 0x16) && decide (c.u16 0x16 ≤ 4096)) eRange 0x16
  need (if none_ then fb = 0 else decide (1 ≤ fb) && decide (fb ≤ 1024)) eRange 0x1A
  need (fret f0) eRange 0x1C
  need (fret f1) eRange 0x1D
  let (h, slot, k) ← needThread s c.tenant (c.u32 0x08) 0x08
  let x := s.head h
  need (!x.timed || decide (c.u16 0x10 < x.vA)) eRange 0x10
  need (!x.timed || decide (c.u16 0x12 < x.vA)) eRange 0x12
  need (k.codeOk (c.u32 0x0C)) eEntry 0x0C
  need (f0 = 0xFF || k.codeOk (c.u32 0x20)) eEntry 0x20
  need (f1 = 0xFF || k.codeOk (c.u32 0x24)) eEntry 0x24
  let mine (f : Nat) : Bool := f = 0xFF || ((IMap.find? x.frets f).map (fun r => r.owner == c.tenant)).getD false
  need (mine f0) eNotOwner 0x1C
  need (mine f1) eNotOwner 0x1D
  need x.timed eState
  let t : TabSet := {
    entry := word (c.u32 0x0C), first := c.u16 0x10, last := c.u16 0x12, stride := c.u16 0x14, budget := c.u16 0x16
    carry := bitOf fl 0, fastBudget := fb, fret0 := f0, fret1 := f1
    handler0 := word (c.u32 0x20), handler1 := word (c.u32 0x24) }
  okDone (s.modStage h c.tenant (fun g => { g with tabs := IMap.put g.tabs slot (.start k.gen t) })) []

/-- TAB_STOP (R261): staged. -/
def tabStopBody (c : Cmd) (_ : CmdRef) (s : State) : CmdRes := do
  let op := c.u8 0x0C
  need (decide (op ≤ 1)) eRange 0x0C
  c.reserved [(0x08, 5)]
  let (h, slot, k) ← needThread s c.tenant (c.u32 0x08) 0x08
  need (op = 1 || k.running) eState
  need (s.head h).timed eState
  okDone (s.modStage h c.tenant (fun g => { g with tabs := IMap.put g.tabs slot (.stop k.gen (op = 1)) })) []

/-! ### DECODE_TABLE_LOAD -/

/-- A decode entry keeps the form of Table 9.10. -/
def entryOk (e : Nat) : Bool :=
  decide (e < 2 ^ 28) && bits e 23 22 = 0 && bitOf e 15 = false && entExt e ≠ 3 && decide (entStart e + entLen e ≤ 512) &&
    decide (max (entPops e) (entPushes e) ≤ entPeak e)

/-- A micro-op keeps the form of Table 9.11 and R248: `left` micro-ops follow it. -/
def microOk (ext left u : Nat) : Bool :=
  let kind := bits u 30 28
  let sk := bits u 19 16
  let unit := bits u 15 0
  decide (bitOf u 31 = (left = 0)) && bits u 27 20 = 0 &&
    (match kind with
     | 0 => sk = 0 && (unitWork unit).isSome
     | 1 => sk = 0 && unit = 0
     | 2 => sk = 0 && unit = 0 && ext ≠ 0
     | 3 => unit = 0 && decide (1 ≤ sk) && decide (sk < left)
     | 4 => unit = 0 && decide (1 ≤ sk) && decide (sk < left)
     | _ => false)

/-- The stack entries a micro-op needs and leaves. -/
def microEffect (u : Nat) : Nat × Nat :=
  match bits u 30 28 with
  | 0 => match unitWork (bits u 15 0) with
    | some (n, m, _) => (n, m)
    | none => (0, 0)
  | 1 => (0, 1)
  | 2 => (0, 1)
  | _ => (1, 0)

/-- Follow every path (R250): `depths` are the numbers of entries above the base with which a path comes to the micro-op
`i`, and `more` those that skips bring to later ones. The result is the first micro-op whose effect differs from the
declaration, or the greatest number met. -/
def followPaths (pushes peak : Nat) : List Nat → Nat → List Nat → List (Nat × Nat) → Nat → Except Nat Nat
  | [], _, _, _, top => .ok top
  | u :: us, i, depths, more, top =>
    let ds := (depths ++ (more.filter (fun e => e.1 = i)).map Prod.snd).eraseDups
    let (n, m) := microEffect u
    let out := ds.map (fun d => d - n + m)
    let top := out.foldl max top
    if ds.any (fun d => decide (d < n)) || decide (peak < top) || (us.isEmpty && out.any (· != pushes)) then .error i
    else
      let skips := if bits u 30 28 = 3 ∨ bits u 30 28 = 4 then out.map (fun d => (i + 1 + bits u 19 16, d)) else []
      followPaths pushes peak us (i + 1) out (more ++ skips) top

/-- What is wrong with a new entry: the micro-op index, or 0xFFFFFFFF for the entry itself. -/
def entryFault (e : Nat) (ops : List Nat) : Option Nat :=
  if !entryOk e then some 0xFFFFFFFF
  else
    let n := ops.length
    match (ops.zipIdx).find? (fun u => !microOk (entExt e) (n - 1 - u.2) u.1) with
    | some u => some (entStart e + u.2)
    | none =>
      match followPaths (entPushes e) (entPeak e) ops 0 [entPops e] [] (entPops e) with
      | .error i => some (entStart e + i)
      | .ok top => if top = entPeak e then none else some 0xFFFFFFFF

/-- The micro-op indices of an entry. -/
def entRange (e : Nat) : List Nat := (List.range (entLen e)).map (fun i => entStart e + i)

/-- The entries of an install image that a mask selects, with their micro-ops (R250). -/
def readInstall (s : State) (t addr : Nat) : List Nat → Except CErr (List (Nat × Nat × List Nat))
  | [] => .ok []
  | c :: cs => do
    let e := leNat (← readFor s t (addr + 8 * c) 8 0x10)
    let n := min (entLen e) (512 - entStart e)
    let bs ← noting [.asset t (addr + 8 * c) 8] (readFor s t (addr + 0x100 + 4 * entStart e) (4 * n) 0x10)
    let rest ← noting [.asset t (addr + 8 * c) 8, .asset t (addr + 0x100 + 4 * entStart e) (4 * n)] (readInstall s t addr cs)
    return (c, e, (chunks 4 bs).map leNat) :: rest

/-- The reads of an install: the named entries, and the micro-ops within their ranges (R250). -/
def installReads (t addr : Nat) (es : List (Nat × Nat × List Nat)) : List NotedRead :=
  es.flatMap (fun e => [.asset t (addr + 8 * e.1) 8, .asset t (addr + 0x100 + 4 * entStart e.2.1) (4 * e.2.2.length)])

/-- The first of the new entries that is in use already, or whose micro-ops overlap others' (R250). -/
def State.installClash (s : State) : List Nat → List (Nat × Nat × List Nat) → Option (Nat × Nat)
  | _, [] => none
  | seen, (c, e, _) :: rest =>
    if (IMap.find? s.ucode.entries c).isSome then some (c, 0xFFFFFFFF)
    else
      let used := seen ++ s.ucode.entries.flatMap (fun x => entRange x.2.toNat)
      match (entRange e).find? (fun i => used.contains i) with
      | some i => some (c, i)
      | none => State.installClash s (seen ++ entRange e) rest

/-- Custom instructions are installed with their micro-ops (R246, R250). -/
def State.installCode (es : List (Nat × Nat × List Nat)) (s : State) : State :=
  { s with ucode := es.foldl (fun u e =>
    { entries := IMap.put u.entries e.1 (BitVec.ofNat 64 e.2.1)
      ops := (e.2.2.zipIdx).foldl (fun m o => IMap.put m (entStart e.2.1 + o.2) (word o.1)) u.ops }) s.ucode }

/-- Custom instructions are removed (R250). -/
def State.removeCode (cs : List Nat) (s : State) : State :=
  { s with ucode := cs.foldl (fun u k =>
    match IMap.find? u.entries k with
    | none => u
    | some e => { entries := IMap.del u.entries k
                  ops := u.ops.filter (fun o => !(entRange e.toNat).contains o.1) }) s.ucode }

/-- DECODE_TABLE_LOAD (R250, R251). -/
def decodeTableLoadBody (c : Cmd) (_ : CmdRef) (s : State) : CmdRes := do
  let op := c.u8 0x08
  need (decide (op ≤ 1)) eRange 0x08
  c.reserved ([(0x08, 1), (0x0C, 4)] ++ (if op = 0 then [(0x10, 8)] else [])) [(0x10, 8)]
  let mask := c.u32 0x0C
  let addr := c.u64 0x10
  let cs := (List.range 32).filter (fun i => bitOf mask i)
  need (mask ≠ 0) eRange 0x0C
  need (addr % 64 = 0) eAlign 0x10
  if op = 0 then
    let es ← readInstall s c.tenant addr cs
    noting (installReads c.tenant addr es) (match s.installClash [] es with
    | some (k, i) => .error { status := eDecodeInUse, words := [word k, word i] }
    | none =>
      match es.findSome? (fun e => (entryFault e.2.1 e.2.2).map (fun i => (e.1, i))) with
      | some (k, i) => .error { status := eMicrocode, words := [word k, word i] }
      | none => okDone (((installReads c.tenant addr es).foldl State.note s).installCode es) [])
  else
    need (cs.all (fun k => (IMap.find? s.ucode.entries k).isSome)) eState
    okDone (s.removeCode cs) []

/-! ### TAB_DEBUG -/

/-- The state code of Table 10.6. -/
def Thread.code (k : Thread) : Nat :=
  match k.state with
  | .loaded => 1
  | .waiting => if k.fast.isSome then 4 else 2
  | .serving => if k.fast.isSome then 4 else 3
  | .faulted => 5
  | .halted => 6

/-- Eight stack entries from entry `i` of the bottom up (assumption 34); those not in use are free values. -/
def State.stackWords (i : Nat) (xs : List Word) : Nat → State → List Word × State
  | 0, s => ([], s)
  | n + 1, s =>
    match xs.reverse[i]? with
    | some v => let (r, s) := State.stackWords (i + 1) xs n s; (v :: r, s)
    | none =>
      let (v, s) := s.fresh
      let (r, s) := State.stackWords (i + 1) xs n s
      (word v :: r, s)

/-- The result words of op 3 (Table 10.5). -/
def State.debugWords (s : State) (k : Thread) (i : Nat) : List Word × State :=
  let r := k.regs
  if i = 0 then
    ([r.pc, r.sw, word r.trap, word k.line, word (if r.fast then k.fastCharge else k.charge), word k.code], s)
  else if i = 1 then (r.p, s)
  else if i ≤ 5 then
    let (ws, s) := State.stackWords (8 * (i - 2)) r.d 8 s
    (ws ++ [word r.d.length], s)
  else if i ≤ 7 then State.stackWords (8 * (i - 6)) r.r 8 s
  else if i = 8 then (r.sp, s)
  else State.stackWords (8 * (i - 9)) r.sd 8 s

/-- A halted or faulted thread resumes with its next wake (R271, R272). -/
def Thread.resume (k : Thread) : Thread :=
  let past := k.afterHalt && k.state = .halted
  { k with
    state := if k.running then .waiting else .loaded
    park := if k.fast.isSome then some .wake else none
    regs := { k.regs with fault := 0, trap := 0, pc := if past then k.regs.pc + 2 else k.regs.pc }
    passBreak := !past, afterHalt := false }

/-- A halted thread runs `n` instructions at once, charged as usual (R272). -/
def Thread.step (k : Thread) (r : CmdRef) (n : Nat) : Thread :=
  let past := k.afterHalt
  { k with
    state := if k.fast.isSome then .waiting else .serving, park := none
    regs := { k.regs with trap := 0, pc := if past then k.regs.pc + 2 else k.regs.pc }
    passBreak := !past, afterHalt := false, stepping := some (r, n) }

/-- The fields an op of TAB_DEBUG uses. -/
def debugFields (op : Nat) : List (Nat × Nat) :=
  [(0x08, 5)] ++ (if op = 3 ∨ op = 4 then [(0x0D, 1)] else []) ++ (if op = 2 ∨ op = 5 ∨ op = 6 then [(0x0E, 2)] else []) ++
    (if 4 ≤ op then [(0x10, 4)] else [])

/-- TAB_DEBUG (R271, R272). -/
def tabDebugBody (c : Cmd) (r : CmdRef) (s : State) : CmdRes := do
  let op := c.u8 0x0C
  need (decide (op ≤ 6)) eRange 0x0C
  c.reserved (debugFields op) [(0x0E, 2), (0x10, 4)]
  let idx := c.u8 0x0D
  let n := c.u16 0x0E
  let v := c.u32 0x10
  let (h, slot, k) ← needThread s c.tenant (c.u32 0x08) 0x08
  need (s.debugOpen c.tenant h) eDenied
  let stopped := k.state = .halted || k.state = .faulted
  match op with
  | 0 =>
    if k.state = .halted then okDone s []
    else match k.park with
      | some (.load ..) => .ok (s.modThread h slot (fun k => { k with haltDue := k.haltDue ++ [r] }), .later)
      | some .fence => .ok (s.modThread h slot (fun k => { k with haltDue := k.haltDue ++ [r] }), .later)
      | _ => okDone (s.haltThread h slot 0) []
  | 1 => do
    need stopped eState
    okDone (s.modThread h slot Thread.resume) []
  | 2 => do
    need (k.state = .halted && k.regs.fault = 0) eState
    need (decide (1 ≤ n) && decide (n ≤ 256)) eRange 0x0E
    .ok (s.modThread h slot (fun k => k.step r n), .later)
  | 3 => do
    need stopped eState
    need (decide (idx ≤ 10)) eRange 0x0D
    let (ws, s) := s.debugWords k idx
    okDone s ws
  | 4 => do
    need (decide (idx ≤ 1)) eRange 0x0D
    need (v = 0xFFFFFFFF || k.codeOk v) eRange 0x10
    okDone (s.modThread h slot (fun k => { k with
      breaks := if v = 0xFFFFFFFF then IMap.del k.breaks idx else IMap.put k.breaks idx (word v) })) []
  | 5 => do
    need stopped eState
    need (decide (1 ≤ n) && decide (n ≤ 9)) eRange 0x0E
    need (decide (v + 4 * n ≤ k.dataSize)) eRange 0x10
    need (v % 4 = 0) eAlign 0x10
    noting [.phys (k.dataAt + v) (4 * n)] (need (!s.poisoned (k.dataAt + v) (4 * n)) eFault 0x10)
    okDone (s.noteRead (k.dataAt + v) (4 * n))
      ((chunks 4 (Mem.readRun s.mem.phys (k.dataAt + v) (4 * n))).map (fun b => word (leNat b)))
  | _ => do
    need (decide (4 * n + 4 ≤ k.dataSize)) eRange 0x0E
    okDone (s.physWrite (k.dataAt + 4 * n) (leBytes 4 v)) []

end Sys2Proof.Machine
end

