-- ==== Sys2Proof/Machine/Pegbox.lean ====
section
/-! DEFINITION. The Pegbox (chapter 15): phrase models, the listen program's commands, the pre-roll ring, the I²C wake
target and the wake sources; and the slow counter's edges (chapter 17). -/

namespace Sys2Proof.Machine

def eModel : Nat := 0x0C01
def ePrerollGone : Nat := 0x0C02

/-- The settings of a wake source: 1, 4 and 7 are enabled at reset, with mode 3 (R410). -/
def Peg.source (g : Peg) (src : Nat) : WakeSource := IMap.get g.sources { enable := src = 1 || src = 4 || src = 7 } src

/-- A cause enters the Peg core where a program runs (R400): source 4 once for each byte, the others once until taken. -/
def State.pegCause (src : Nat) (s : State) : State :=
  if !s.peg.running || (src ≠ 4 && s.peg.pending.contains src) then s
  else s.modPeg (fun g => { g with pending := g.pending ++ [src] })

/-- `n` free values (assumption 5). -/
def State.freshList (s : State) (n : Nat) : List Nat × State :=
  ((List.range n).map (fun i => Config.freeValue (s.freeCount + i)), { s with freeCount := s.freeCount + n })

/-! ### Phrase models (R405, R406) -/

/-- Check a layer descriptor at `d`, its input shape being `inF` by `inC`: the offset of the first offending field, or
the layer with its output shape. -/
def checkLayer (m : List Byte) (layers d inF inC : Nat) (last : Bool) (classes : Nat) : Except Nat Layer :=
  let u (off n : Nat) := fieldU m (d + off) n
  let ty := u 0 1
  let kernel := u 1 1
  let stride := u 2 1
  let outF := u 8 2
  let outC := u 0x0A 2
  let table := 0x40 + 32 * layers
  let wants := if ty = 0 then outC * inF * inC else if ty = 1 then outC * kernel * inC else inC * kernel
  let macs := if ty = 0 then outC * inF * inC else if ty = 1 then outF * outC * kernel * inC else outF * inC * kernel
  let wo := u 0x0C 4
  let bo := u 0x14 4
  let no (b : Bool) (off : Nat) : Except Nat Unit := if b then .ok () else .error (d + off)
  do
    no (decide (ty ≤ 2)) 0
    no (if ty = 0 then kernel = 1 else decide (1 ≤ kernel) && decide (kernel ≤ 32) && decide (kernel ≤ inF)) 1
    no (if ty = 0 then stride = 1 else decide (1 ≤ stride) && decide (stride ≤ 8) && (inF - kernel) % stride = 0) 2
    no (decide (u 3 1 ≤ 31)) 3
    no (u 4 2 = inF && decide (1 ≤ inF) && decide (inF ≤ 100)) 4
    no (u 6 2 = inC && decide (1 ≤ inC) && decide (inC ≤ 16384) && decide (inF * inC ≤ 16384)) 6
    no (decide (1 ≤ outF) && decide (outF ≤ 100) && (!last || outF = 1) &&
      (if ty = 0 then outF = 1 else outF = (inF - kernel) / stride + 1)) 8
    no (decide (1 ≤ outC) && decide (outC ≤ 16384) && decide (outF * outC ≤ 16384) && (!last || outC = classes) &&
      (ty ≠ 2 || outC = inC)) 0x0A
    no (wo % 4 = 0 && decide (table ≤ wo) && decide (wo + wants ≤ m.length)) 0x0C
    no (u 0x10 4 = wants) 0x10
    no (bo % 4 = 0 && decide (table ≤ bo) && decide (bo + 4 * outC ≤ m.length)) 0x14
    no (u 0x18 4 = macs) 0x18
    no (u 0x1C 4 = 0) 0x1C
    .ok { type := ty, kernel := kernel, stride := stride, shift := u 3 1, inF := inF, inC := inC, outF := outF, outC := outC
          weights := (slice m wo wants).map (·.toInt)
          biases := (List.range outC).map (fun i => fieldS m (bo + 4 * i) 4) }

/-- The multiply-accumulates of a layer (R406). -/
def Layer.macs (l : Layer) : Nat :=
  if l.type = 0 then l.outC * l.inF * l.inC
  else if l.type = 1 then l.outF * l.outC * l.kernel * l.inC else l.outF * l.inC * l.kernel

/-- Check the descriptors from layer `i` on; `left` of them remain. -/
def checkLayers (m : List Byte) (layers classes : Nat) : Nat → Nat → Nat → Nat → Except Nat (List Layer)
  | 0, _, _, _ => .ok []
  | left + 1, i, inF, inC => do
    let l ← checkLayer m layers (0x40 + 32 * i) inF inC (left = 0) classes
    let rest ← checkLayers m layers classes left (i + 1) l.outF l.outC
    .ok (l :: rest)

/-- Check a model (Table 15.3): the offset of the first offending field, or the model. The header's fields come first,
then the descriptors in turn, then the header's macs against their sum. -/
def checkModel (m : List Byte) : Except Nat Model :=
  let layers := fieldU m 6 1
  let context := fieldU m 7 1
  let classes := fieldU m 8 1
  let no (b : Bool) (off : Nat) : Except Nat Unit := if b then .ok () else .error off
  do
    no (fieldU m 0 4 = 0x4C444D50) 0
    no (fieldU m 4 2 = 0x0100) 4
    no (decide (1 ≤ layers) && decide (layers ≤ 16) && decide (0x40 + 32 * layers ≤ m.length)) 6
    no (decide (1 ≤ context) && decide (context ≤ 100)) 7
    no (decide (1 ≤ classes) && decide (classes ≤ 8)) 8
    no (decide (fieldU m 9 1 ≤ 2)) 9
    no (decide (fieldU m 0x0C 1 ≤ 15)) 0x0C
    no (fieldU m 0x0D 3 = 0) 0x0D
    no (decide (fieldU m 0x10 4 ≤ 12000000)) 0x10
    no (fieldU m 0x14 44 = 0) 0x14
    let ls ← checkLayers m layers classes layers 0 context 40
    no (fieldU m 0x10 4 = (ls.map Layer.macs).sum) 0x10
    .ok { context := context, classes := classes, mic := fieldU m 9 1, inOffset := fieldS m 0x0A 2
          inShift := fieldU m 0x0C 1, layers := ls }

/-- A layer's output from its input activations (R406). -/
def Layer.run (last : Bool) (l : Layer) (x : List Int) : List Int :=
  let xs := x.toArray
  let ws := l.weights.toArray
  let at_ (i : Nat) : Int := xs.getD i 0
  let w (i : Nat) : Int := ws.getD i 0
  let sum (n : Nat) (f : Nat → Int) : Int := (List.range n).foldl (fun a i => a + f i) 0
  let out (acc : Int) : Int :=
    let v := clampInt (-128) 127 ((BitVec.ofInt 32 acc).toInt >>> l.shift)
    if last then v else max 0 v
  (List.range (l.outF * l.outC)).map (fun n =>
    let f := n / l.outC
    let o := n % l.outC
    let b := l.biases.getD o 0
    out (b + (match l.type with
      | 0 => sum (l.inF * l.inC) (fun i => w (o * (l.inF * l.inC) + i) * at_ i)
      | 1 => sum (l.kernel * l.inC) (fun i =>
          w (o * (l.kernel * l.inC) + i) * at_ ((f * l.stride + i / l.inC) * l.inC + i % l.inC))
      | _ => sum l.kernel (fun k => w (o * l.kernel + k) * at_ ((f * l.stride + k) * l.inC + o)))))

/-- All layers of a model in turn. -/
def runLayers : List Layer → List Int → List Int
  | [], x => x
  | [l], x => l.run true x
  | l :: ls, x => runLayers ls (l.run false x)

/-- The class scores of a model over its last `context` mel frames, oldest first (R404, R405). -/
def Model.scores (m : Model) (frames : List (List Int)) : List Nat :=
  let q (v : Int) : Int := clampInt (-128) 127 ((v - m.inOffset) >>> m.inShift)
  (runLayers m.layers (frames.flatten.map q)).map (fun o => (o + 128).toNat)

/-- MODEL_LOAD (R405): a model that passes waits for the next mel frame, where its record is formed. -/
def modelLoadBody (c : Cmd) (r : CmdRef) (s : State) : CmdRes := do
  c.reserved [(0x0C, 12)]
  let n := c.u32 0x0C
  let a := c.u64 0x10
  need (decide (64 ≤ n) && decide (n ≤ 262144)) eRange 0x0C
  need (a % 64 = 0) eAlign 0x10
  let m ← readFor s c.tenant a n 0x10
  match checkModel m with
  | .error off => .error { status := eModel, words := [word off] }
  | .ok k => .ok ((s.noteAssetRead c.tenant a n).modPeg (fun g => { g with
      nextModel := some k, modelRefs := g.modelRefs ++ [r] }), .later)

/-! ### The listen program (R401) -/

def listenProgramLoadBody (c : Cmd) (_ : CmdRef) (s : State) : CmdRes := do
  let op := c.u8 0x08
  need (decide (op ≤ 1)) eRange 0x08
  c.reserved ((0x08, 1) :: (if op = 0 then [(0x0C, 16), (0x20, 8)] else []))
    [(0x0C, 4), (0x10, 8), (0x18, 4), (0x20, 8)]
  if op = 1 then do
    need s.peg.running eState
    okDone (s.modPeg (fun g => { g with running := false, idle := false, pending := [] })) []
  else do
    let n := c.u32 0x0C
    let a := c.u64 0x10
    let k := c.u32 0x18
    let b := c.u64 0x20
    need (decide (64 ≤ n) && decide (n ≤ 65536)) eRange 0x0C
    need (decide (k ≤ 65536)) eRange 0x18
    need (n % 64 = 0) eAlign 0x0C
    need (a % 64 = 0) eAlign 0x10
    need (k % 64 = 0) eAlign 0x18
    need (b % 64 = 0) eAlign 0x20
    let code ← readFor s c.tenant a n 0x10
    let init ← readFor s c.tenant b k 0x20
    let s := (s.noteAssetRead c.tenant a n).noteAssetRead c.tenant b k
    okDone (s.modPeg (fun g => { g with
      running := true, idle := false, pending := []
      code := Mem.write g.code 0 code, codeSize := n
      data := Mem.write [] 0 init
      regs := { pc := word (fieldU code 0 4) } })) []

/-! ### Wake sources (R410) -/

/-- The bytes of WAKE_SOURCE_SET that a source uses. -/
def wakeFields (src : Nat) : List (Nat × Nat) :=
  [(0x08, 3)] ++ (match src with
    | 2 => [(0x0C, 3)]
    | 3 => [(0x0B, 3)]
    | 6 => [(0x0C, 1), (0x0E, 26)]
    | _ => [])

def wakeSourceSetBody (c : Cmd) (_ : CmdRef) (s : State) : CmdRes := do
  let src := c.u8 0x08
  need (decide (1 ≤ src) && decide (src ≤ 7)) eRange 0x08
  c.reserved (wakeFields src)
  let en := c.u8 0x09
  let mode := c.u8 0x0A
  let slot := c.u8 0x0B
  need (decide (en ≤ 1)) eRange 0x09
  need (decide (1 ≤ mode) && decide (mode ≤ 3)) eRange 0x0A
  let w : WakeSource := { enable := en = 1, mode := mode }
  let put (w : WakeSource) : CmdRes := okDone (s.modPeg (fun g => { g with sources := IMap.put g.sources src w })) []
  match src with
  | 2 => do
    need (decide (c.u8 0x0C ≤ 7)) eRange 0x0C
    need (decide (1 ≤ c.u8 0x0E) && decide (c.u8 0x0E ≤ 50)) eRange 0x0E
    put { w with cls := c.u8 0x0C, threshold := c.u8 0x0D, frames := c.u8 0x0E }
  | 3 => do
    let p := c.u16 0x0C
    need (decide (slot ≤ 15)) eRange 0x0B
    need (decide (p ≤ 159) && (s.pin p).owner = .peg) eRange 0x0C
    okDone (s.modPeg (fun g => { g with slots := IMap.put g.slots slot { w with pin := p } })) []
  | 6 => do
    need (decide (c.u8 0x0C ≤ 1)) eRange 0x0C
    put { w with
      mac := c.u8 0x0C, ethType := c.u16 0x0E, dest := c.bytes 0x10 6, patOff := c.u16 0x16, pattern := c.bytes 0x18 16 }
  | _ => put w

/-- CLKREQ_ASSERT (R410, Table 15.5). -/
def execClkreqAssert (dt : Nat) (s : State) : Host.Outcome State Fault Refusal := .next ((s.tick dt).sourceWake 5)

/-- Whether a frame matches the filter of source 6: destination, EtherType in network order, and the pattern. -/
def WakeSource.frameMatches (w : WakeSource) (mac : Nat) (f : List Byte) : Bool :=
  w.mac = mac && f.take 6 == w.dest &&
  (f.getD 12 0).toNat * 256 + (f.getD 13 0).toNat == w.ethType && (f.drop w.patOff).take 16 == w.pattern

/-- WAKE_FRAME_RECEIVE (R410): the MAC counts the frame (R545). -/
def State.wakeFrame (mac : Nat) (f : List Byte) (s : State) : State :=
  let s := if mac < 2 then s.modEth mac (fun m => { m with rx := satInc 0xFFFFFFFF m.rx 1 }) else s
  if (s.peg.source 6).frameMatches mac f then s.sourceWake 6 else s

def execWakeFrameReceive (dt mac : Nat) (frame : List Byte) (s : State) : Host.Outcome State Fault Refusal :=
  .next ((s.tick dt).wakeFrame mac frame)

/-- PEG_WAKE_REQ_WRITE (R399): the listen program's store. -/
def State.wakeReqStore (v : Word) (s : State) : State :=
  if s.peg.running && s.pegAwake then s.pegStore 0x30000000 (v.truncate 8) else s

def execPegWakeReqWrite (dt : Nat) (v : Word) (s : State) : Host.Outcome State Fault Refusal :=
  .next ((s.tick dt).wakeReqStore v)

/-- The pin wake slots that name a pin fire (R495): wake source 3 with each slot's mode, and the Peg core's source 3. -/
def State.slotsFire (p : Nat) (s : State) : State :=
  (s.peg.slots.filter (fun (e : Nat × WakeSource) => e.2.enable && e.2.pin = p)).foldl
    (fun s e => (s.wakeRequest 3 e.2.mode).pegCause 3) s

/-! ### The pre-roll ring (R407, R408) -/

/-- An s24 sample rounded to s16 with saturation. -/
def toS16 (v : Int) : Int := clampInt (-32768) 32767 (roundShift v 8)

/-- One sample frame is written (R407). -/
def Peg.sampleFrame (g : Peg) (m : Int × Int) : Peg :=
  { g with
    ring := Mem.write g.ring (4 * (g.ringNext.toNat % 40000))
      (leBytes 2 (wrapTo 16 (toS16 m.1)) ++ leBytes 2 (wrapTo 16 (toS16 m.2)))
    ringNext := g.ringNext + 1, ringHeld := min 40000 (g.ringHeld + 1) }

/-- The oldest and the newest index held. -/
def Peg.held (g : Peg) : Word × Word := (g.ringNext - word g.ringHeld, g.ringNext - 1)

/-- Whether a frame has been overwritten: it is older than the oldest held. -/
def Peg.gone (g : Peg) (n : Word) : Bool := (n - g.held.1).slt 0

/-- Whether a frame is newer than the newest written. -/
def Peg.unwritten (g : Peg) (n : Word) : Bool := !(n - g.ringNext).slt 0

/-- The bytes of `n` frames that a PREROLL_READ copies next, oldest first. -/
def Peg.preroll (g : Peg) (p : Preroll) (n : Nat) : List Byte :=
  (List.range n).flatMap (fun i =>
    let at_ := 4 * ((p.start + word (p.done + i)).toNat % 40000)
    (if bitOf p.mics 0 then Mem.readRun g.ring at_ 2 else []) ++
      (if bitOf p.mics 1 then Mem.readRun g.ring (at_ + 2) 2 else []))

/-- Whether the next frame of a PREROLL_READ has been overwritten. -/
def Peg.prerollGone (g : Peg) (p : Preroll) : Bool := decide (p.done < p.count) && g.gone (p.start + word p.done)

/-- A PREROLL_READ copies every frame that is written and not yet overwritten (R408). -/
def Peg.copyPreroll (g : Peg) (p : Preroll) : Preroll :=
  let next := p.start + word p.done
  let n := if g.prerollGone p || g.unwritten next then 0 else min (p.count - p.done) (g.ringNext - next).toNat
  { p with done := p.done + n, data := p.data ++ g.preroll p n }

/-- PREROLL_READ (R408): the copying ends at COMMAND_WAIT_END. -/
def prerollReadBody (c : Cmd) (r : CmdRef) (s : State) : CmdRes := do
  c.reserved [(0x08, 17)]
  let p : Preroll := { ref := r, start := word (c.u32 0x08), count := c.u32 0x0C, addr := c.u64 0x10, mics := c.u8 0x18, words := [s.peg.held.1, s.peg.held.2] }
  need (decide (1 ≤ p.count) && decide (p.count ≤ 40000)) eRange 0x0C
  need (decide (1 ≤ p.mics) && decide (p.mics ≤ 3)) eRange 0x18
  need (p.addr % 64 = 0) eAlign 0x10
  if s.peg.gone p.start then .error { status := ePrerollGone, words := p.words }
  else .ok ({ s with prerolls := s.prerolls ++ [p] }, .wait (.preroll p.words))

/-- The copying of a PREROLL_READ ends (R408): while a frame is not written yet it waits; where one was overwritten before it
was copied it fails, and the destination is undefined (free values). -/
def State.prerollEnd (p : Preroll) (s : State) : State :=
  let q := s.peg.copyPreroll p
  if q.done < q.count ∧ s.peg.prerollGone q = false then
    { s with prerolls := s.prerolls.map (fun x => if x = p then q else x) }
  else
    let s := { s with prerolls := s.prerolls.filter (· ≠ p) }
    if q.done < q.count then
      let (vs, s) := s.freshList (p.count * (bitN (bitOf p.mics 0) + bitN (bitOf p.mics 1)) * 2)
      (s.assetWrite p.ref.tenant p.addr (vs.map (BitVec.ofNat 8))).1.complete p.ref ePrerollGone noField p.words
    else match s.assetWrite p.ref.tenant p.addr q.data with
      | (s, _, some f) => (s.atlasFault p.ref.tenant f 0x0300 0).complete p.ref eFault 0x10 []
      | (s, _, none) => s.completeOk p.ref p.words

/-! ### The phrase detector (R403, R404) -/

/-- A model that waits replaces the old one at a frame boundary; the streak and the history restart (R405). -/
def State.modelSwap (s : State) : State :=
  match s.peg.nextModel with
  | none => s
  | some m =>
    let rs := s.peg.modelRefs
    let s := s.modPeg (fun g => { g with
      model := some m, nextModel := none, modelRefs := [], streak := 0, hist := [], evalDue := false })
    rs.foldl (fun s r => s.completeOk r []) s

/-- MEL_FRAME_READY (R403): the ring takes the new sample frames, which reads that run have copied up to here (R408), and the 40 mel bands are free values (assumption 5).
The matrix unit evaluates once the model's context of frames is there, and in Keep it does not run (R398). -/
def State.melFrame (samples : List (Int × Int)) (s : State) : State :=
  if s.power.mode = .off then s
  else
    let s := s.modelSwap
    let s := if s.cpRuns then { s with prerolls := s.prerolls.map s.peg.copyPreroll } else s
    let (vs, s) := s.freshList 40
    let s := s.modPeg (fun g =>
      let g := samples.foldl Peg.sampleFrame g
      let mel := vs.map (fun v => Int.ofNat (v % 0x8000))
      let n := (g.model.map (·.context)).getD 0
      let hist := g.hist ++ [mel]
      { g with mel := mel, hist := hist.drop (hist.length - n) })
    let full := match s.peg.model with
      | none => false
      | some m => s.peg.hist.length = m.context
    (s.modPeg (fun g => { g with evalDue := full && s.pegAwake })).pegCause 1

def execMelFrameReady (dt : Nat) (samples : List (Int × Int)) (s : State) : Host.Outcome State Fault Refusal :=
  .next ((s.tick dt).melFrame samples)

/-- A phrase match (R404). -/
def State.phraseMatch (cls score : Nat) (s : State) : State :=
  let s := (s.modPeg (fun g => { g with streak := 0, matchCount := satInc 0xFFFF g.matchCount 1 })).pegCause 5
  let ws := [word cls, word score, s.peg.ringNext - 1]
  let s := if s.power.mode = .tell || s.power.mode = .drive || s.power.mode = .service then s.event 0 0x0C01 ws else s
  if s.peg.running then s else s.sourceWake 2

/-- MODEL_EVALUATION_DONE (R404): the scores, and a match once the chosen class has stayed at or above its threshold. -/
def State.evaluationDone (s : State) : State :=
  match s.peg.model with
  | none => s
  | some m =>
    if !s.peg.evalDue || !s.pegAwake then s
    else
      let sc := m.scores s.peg.hist
      let s := s.modPeg (fun g => { g with evalDue := false, scores := sc ++ g.scores.drop sc.length })
      match IMap.find? s.peg.sources 2 with
      | none => s
      | some w =>
        match sc[w.cls]? with
        | none => s
        | some v =>
          let streak := if w.threshold ≤ v then s.peg.streak + 1 else 0
          let s := s.modPeg (fun g => { g with score := v, streak := streak })
          if w.frames ≤ streak then s.phraseMatch w.cls v else s

def execModelEvaluationDone (dt : Nat) (s : State) : Host.Outcome State Fault Refusal :=
  .next (s.tick dt).evaluationDone

/-! ### The I²C wake target (R409) -/

/-- Change the I²C target. -/
def State.modI2c (s : State) (f : I2c → I2c) : State := s.modPeg (fun g => { g with i2c := f g.i2c })

/-- I2C_ADDRESS_MATCH: a matched address raises wake source 1 at its acknowledge; in Keep the target stretches. -/
def State.i2cMatch (addr : BitVec 7) (read : Bool) (s : State) : State :=
  if addr.toNat ≠ 0x4C + s.peg.i2c.straps || s.power.mode = .off || s.boot.resetLow then
    s.modI2c (fun i => { i with active := false })
  else
    (s.modI2c (fun i => { i with
      active := true, reading := read, first := !read, stretching := !s.pegAwake, dead := false, nack := false })).sourceWake 1

def execI2cAddressMatch (dt : Nat) (addr : BitVec 7) (read : Bool) (s : State) : Host.Outcome State Fault Refusal :=
  .next ((s.tick dt).i2cMatch addr read)

/-- A data byte that sets the index or is stored at it (R409). PEG_I2C_LAST names no register for an index byte: bits 11:8
are then free. -/
def State.i2cStore (v : Byte) (s : State) : State :=
  let i := s.peg.i2c
  if i.first then
    let (x, s) := s.fresh
    s.modI2c (fun i => { i with
      first := false, stretching := false, nack := false, index := v.toNat % 16
      last := word (0x8000 + x % 16 * 0x100 + v.toNat) })
  else
    let s := s.modI2c (fun i => { i with
      stretching := false, nack := false, index := (i.index + 1) % 16, last := word (i.index * 0x100 + v.toNat) })
    if i.index = 1 then
      let s := s.modI2c (fun i => { i with modeReq := v.toNat })
      if v.toNat % 4 = 0 || !(s.peg.source 1).enable then s else s.wakeRequest 1 (v.toNat % 4)
    else if 2 ≤ i.index && s.peg.running then s.modPeg (fun g => { g with user := g.user.set i.index v })
    else s

/-- I2C_DATA_BYTE_WRITE. -/
def State.i2cWrite (v : Byte) (s : State) : State :=
  let i := s.peg.i2c
  if !i.active || i.reading then s
  else if i.dead then s.modI2c (fun i => { i with nack := true })
  else if !s.pegAwake then s
  else (s.i2cStore v).pegCause 4

def execI2cDataByteWrite (dt : Nat) (v : Byte) (s : State) : Host.Outcome State Fault Refusal :=
  .next ((s.tick dt).i2cWrite v)

/-- The byte that a read of a target register returns (Table 15.4). -/
def State.i2cValue (s : State) (index : Nat) : Byte :=
  if index = 0 then s.i2cStatus
  else if index = 1 then 0
  else if s.peg.running then s.peg.user.getD index 0 else 0xFF

/-- I2C_DATA_BYTE_READ. -/
def State.i2cRead (s : State) : State :=
  let i := s.peg.i2c
  if !i.active || !i.reading then s
  else if i.dead then s.modI2c (fun i => { i with readData := 0xFF })
  else if !s.pegAwake then s
  else s.modI2c (fun i => { i with
    stretching := false, readData := s.i2cValue i.index, index := (i.index + 1) % 16 })

def execI2cDataByteRead (dt : Nat) (s : State) : Host.Outcome State Fault Refusal := .next (s.tick dt).i2cRead

/-- I2C_STRETCH_TIMEOUT: SCL is released with the data phase still not run. -/
def State.i2cTimeout (s : State) : State :=
  let i := s.peg.i2c
  if i.active && i.stretching then s.modI2c (fun i => { i with stretching := false, dead := true }) else s

def execI2cStretchTimeout (dt : Nat) (s : State) : Host.Outcome State Fault Refusal := .next (s.tick dt).i2cTimeout

/-! ### SLOW_COUNTER_EDGE (R441, R442, R454 to R457) -/

/-- The alarm fires (R457). -/
def State.alarmFires (s : State) : State :=
  let t := s.time.cal.time
  let s := s.modCal (fun k => { k with
    fired := true
    alarm := match k.alarm with
      | some a => if a.daily then some a else none
      | none => none })
  let s := s.hwMark .calFired
  let s := if s.asleep then s.modCal (fun k => { k with eventDue := some t })
    else if s.power.mode = .off then s else s.event 0 0x0E03 t.words
  (s.sourceWake 4).pegCause 2

def State.slowEdge (s : State) : State :=
  let s := s.meridianEdge
  let before := s.time.cal.time
  let s := (s.modCal Calendar.count).calendarCommands
  if s.time.cal.fires before then s.alarmFires else s

def execSlowCounterEdge (dt : Nat) (s : State) : Host.Outcome State Fault Refusal := .next (s.tick dt).slowEdge

end Sys2Proof.Machine
end

