-- ==== Sys2Proof/Machine/Boot.lean ====
section
/-! DEFINITION. Reset, start-up and power failure (R433 to R435, R506 to R513), supplies (R416, R441), and the lifecycle,
token and debug commands (R503, R514 to R518, R523). -/

namespace Sys2Proof.Machine

def eDebugToken : Nat := 0x1101

/-! ### Reset (R510) -/

/-- Change the start-up and debug state. -/
def State.modBoot (s : State) (f : Boot → Boot) : State := { s with boot := f s.boot }

/-- The state that a reset leaves: everything returns to reset but the slow counter and the calendar (R441), the fuses
(R503), and what lies outside the part: host memory, the straps, the supplies and the levels at its pins. -/
def State.partReset (s : State) : State :=
  { State.reset with
    pending := s.pending
    freeCount := s.freeCount
    time := { slow := s.time.slow, cal := { s.time.cal with waiting := [], eventDue := none } }
    boot := { lifecycle := s.boot.lifecycle, ownerHash := s.boot.ownerHash, extest := false }
    mem := { host := s.mem.host, hostFail := s.mem.hostFail }
    power := { servicePinLow := s.power.servicePinLow, servicePinAt := s.power.servicePinAt }
    pins := { pin := s.pins.pin.map (fun (e : Nat × Pin) => (e.1, { ball := e.2.ball })), vddioHigh := s.pins.vddioHigh
              vddioOff := s.pins.vddioOff }
    peg := { i2c := { straps := s.peg.i2c.straps } } }

/-- Start-up begins: the Peg ROM runs, and every pin takes its default configuration (R489, R500, R510). -/
def State.startUp (s : State) : State :=
  { s with
    boot := { s.boot with resetLow := false, stage := .pegRom }
    pins := { s.pins with harmless := false } }

/-- RESET (R510): RESET_N is low. -/
def execResetPin (dt : Nat) (s : State) : Host.Outcome State Fault Refusal := .next (s.tick dt).partReset

/-- RESET_RELEASE (R409, R510, R526): the straps and the banks' levels are sampled, with every VDDIO supply up (R527). -/
def State.resetRelease (straps : BitVec 2) (vddioHigh : BitVec 5) (s : State) : State :=
  if !s.boot.resetLow then s
  else
    let s := s.startUp
    { s with
      power := { s.power with mode := .drive }
      pins := { s.pins with vddioHigh := vddioHigh, vddioOff := [] }
      peg := { s.peg with i2c := { s.peg.i2c with straps := straps.toNat } } }

def execResetRelease (dt : Nat) (straps : BitVec 2) (vddioHigh : BitVec 5) (s : State) :
    Host.Outcome State Fault Refusal := .next ((s.tick dt).resetRelease straps vddioHigh)

/-- TOKEN_RESET (R510, R514): 10 ms after the record of a Return or Secure token. -/
def State.tokenReset (s : State) : State :=
  match s.boot.resetDue with
  | none => s
  | some t => if meridianDiff s.now t < 0 then s else s.partReset.startUp

def execTokenReset (dt : Nat) (s : State) : Host.Outcome State Fault Refusal := .next (s.tick dt).tokenReset

/-! ### Power failure and supplies -/

/-- PWRFAIL_N_ASSERT (R433, R434). -/
def State.powerFail (s : State) : State :=
  { s with
    power := { s.power with pwrfail := true }
    audio := { s.audio with
      muted := true
      buses := s.audio.buses.map (fun (e : Nat × Bus) => (e.1, { e.2 with
        capture := e.2.capture.map (fun k => { k with live := false, status := none, tail := [] }) })) }
    disp := { s.disp with
      ports := s.disp.ports.map (fun (e : Nat × Port) => (e.1, { e.2 with sending := false }))
      heads := s.disp.heads.map (fun (e : Nat × Head) => (e.1, { e.2 with
        capture := e.2.capture.map (fun k => { k with frame := none }) }))
      gov := { s.disp.gov with thermtrip := false } } }

def execPwrfailNAssert (dt : Nat) (s : State) : Host.Outcome State Fault Refusal := .next (s.tick dt).powerFail

/-- PWRFAIL_N_RELEASE (R435): the part resets itself and starts up as from reset release. -/
def execPwrfailNRelease (dt : Nat) (s : State) : Host.Outcome State Fault Refusal :=
  let s := s.tick dt
  .next (if s.power.pwrfail then s.partReset.startUp else s)

/-- SUPPLY_REMOVAL (R416, R425, R426): Off keeps the slow counter and the calendar while VDD_AON is held up, and nothing
else; a bank's VDDIO goes off alone. -/
def State.supplyRemoval (what : Supply) (s : State) : State :=
  match what with
  | .vddio b =>
    if s.pins.vddioOff.contains b then s else { s with pins := { s.pins with vddioOff := b :: s.pins.vddioOff } }
  | .allButAon => let s := s.partReset; { s with power := { s.power with mode := .off } }
  | .everything => let s := s.partReset; { s with power := { s.power with mode := .off }, time := {} }

def execSupplyRemoval (dt : Nat) (what : Supply) (s : State) : Host.Outcome State Fault Refusal :=
  .next ((s.tick dt).supplyRemoval what)

/-- VDD_AON_RISE (R441, R454). -/
def State.aonRise (s : State) : State :=
  { s with time := { s.time with slow := 0, cal := { waiting := s.time.cal.waiting } } }

def execVddAonRise (dt : Nat) (s : State) : Host.Outcome State Fault Refusal := .next (s.tick dt).aonRise

/-! ### The boot flash image (R504 to R508) -/

/-- What the CP firmware's key engine can use of the device-unique key (R505): nothing once the part is Returned. -/
def State.engineKey (s : State) : Option (List Byte) :=
  if s.boot.lifecycle = .returned then none else some Config.deviceKey

/-- A section of a header: its offset and size. -/
def bootSection (h : List Byte) (off : Nat) : Nat × Nat := (fieldU h off 4, fieldU h (off + 4) 4)

/-- A section lies within the copy's 16 MiB. -/
def inCopy (x : Nat × Nat) : Bool := x.2 = 0 || decide (x.1 + x.2 ≤ 0x1000000)

/-- A channel configuration lies within Table 4.6. -/
def channelOk (k : Config.ChannelConfig) : Bool :=
  (k.rate = 6400 || k.rate = 7500 || k.rate = 8533) && (k.ranks = 1 || k.ranks = 2) && (k.gib = 2 || k.gib = 4) && !k.x8

/-- A memory configuration lies within Table 4.6: one rate and one capacity on 4 or 8 channels, bank-group mode, and none of the
options that the table rules out. Link ECC is supported and may be on or off. -/
def memoryOk (r : Config.MemoryConfig) : Bool :=
  let gib := (r.channels.map (·.gib)).sum
  (r.channels.length = 4 || r.channels.length = 8) && r.channels.all channelOk &&
    r.channels.all (fun k => r.channels.all (fun j => k.rate = j.rate && k.gib = j.gib)) &&
    decide (8 ≤ gib) && decide (gib ≤ 32) &&
    (r.bankMode = Config.BankMode.group) && !r.inlineEcc && !r.dvfsc && !r.partialRefresh

/-- The capacity of a memory configuration in bytes. -/
def memoryBytes (r : Config.MemoryConfig) : Nat := (r.channels.map (·.gib)).sum * 2 ^ 30

/-- The peak of a memory configuration in MB/s: 2 bytes a transfer on every 16-bit channel. -/
def memoryPeak (r : Config.MemoryConfig) : Nat := (r.channels.map (fun k => 2 * k.rate)).sum

/-- Verify a copy in the order of R507: its BOOTSTAT code, 1 where it is accepted (R509). -/
def State.verifyCopy (s : State) (k : BootCopy) : Nat :=
  let h := slice k.header 0 0x200
  let fw := bootSection h 0x008
  let cb := bootSection h 0x010
  let mm := bootSection h 0x018
  let key := slice h 0x100 96
  let secured := s.boot.lifecycle = .secured
  if !k.responds then 0x10
  else if fieldU h 0 4 ≠ 0x544F4258 ∨ fieldU h 4 2 ≠ 0x0100 ∨ 1 < fieldU h 6 1 ∨ fieldU h 7 1 ≠ 0 ∨
      fieldU h 0xB0 80 ≠ 0 ∨ fieldU h 0x1C0 64 ≠ 0 then 0x11
  else if Config.sha384 key ≠ (if secured then s.boot.ownerHash else Config.rootKeyHash) then 0x12
  else if !Config.ecdsaVerifies key (slice h 0 0x160) (slice h 0x160 96) then 0x13
  else if fw.1 % 4096 ≠ 0 ∨ fw.2 < 64 ∨ 0x400000 < fw.2 ∨ fw.2 % 64 ≠ 0 ∨ 0x400000 < cb.2 ∨
      !(inCopy fw && inCopy cb && inCopy mm) then 0x14
  else if mm.2 ≠ 0 ∧ Config.sha384 (slice k.memory 0 mm.2) ≠ slice h 0x080 48 then 0x15
  else if mm.2 ≠ 0 ∧ !memoryOk (Config.memoryRecord (slice k.memory 0 mm.2)) then 0x16
  else if Config.sha384 (slice k.firmware 0 fw.2) ≠ slice h 0x020 48 then 0x15
  else if cb.2 ≠ 0 ∧ Config.sha384 (slice k.cartouche 0 cb.2) ≠ slice h 0x050 48 then 0x15
  else 0x01

/-- An accepted copy: the LPDDR5X is configured and trained (R508), and the firmware starts. -/
def State.acceptCopy (k : BootCopy) (which : Nat) (s : State) : State :=
  let cb := bootSection k.header 0x010
  let mm := bootSection k.header 0x018
  let m := Config.memoryRecord (slice k.memory 0 mm.2)
  let fitted := decide (mm.2 ≠ 0)
  { s with
    mem := { s.mem with
      lpddrBytes := if fitted && k.trained then memoryBytes m else 0
      lpddrPeak := if fitted && k.trained then memoryPeak m else 0
      lpddrChannels := if fitted && k.trained then m.channels.length else 0 }
    boot := { s.boot with
      stage := .running, copy := which, fwBuild := Config.firmwareBuild
      lpddrFailed := fitted && !k.trained
      cbi := if cb.2 = 0 then [] else slice k.cartouche 0 cb.2
      keyUsed := if s.boot.lifecycle = .secured then 1 else 0 } }

/-- BOOT_COPY_VERIFY (R507): copy A first, copy B where A is rejected; a flash that does not respond stops start-up. Meridian
counts from the first of them on. -/
def State.bootVerify (k : BootCopy) (s : State) : State :=
  if s.boot.stage ≠ .pegRom && s.boot.stage ≠ .header then s
  else
    let s := if s.time.running then s else { s with now := 0, time := { s.time with running := true } }
    let code := s.verifyCopy k
    if s.boot.codeA = 0 then
      let s := s.modBoot (fun b => { b with codeA := code, stage := if code = 0x10 then .stopped else .header })
      if code = 1 then s.acceptCopy k 1 else s
    else
      let s := s.modBoot (fun b => { b with codeB := code })
      if code = 1 then s.acceptCopy k 2 else s.modBoot (fun b => { b with stage := .stopped })

def execBootCopyVerify (dt : Nat) (image : BootCopy) (s : State) : Host.Outcome State Fault Refusal :=
  .next ((s.tick dt).bootVerify image)

/-! ### The Cartouche boot image (R333, R334) -/

/-- Record `i` of a boot image, as tenant 1 issues it for group 0x09 and tenant 0 otherwise. -/
def bootRecord (img : List Byte) (i : Nat) : Nat × Cmd :=
  let bs := slice img (0x20 + 64 * i) 64
  let op := fieldU bs 0 2
  (op, { tenant := if op / 0x100 = 9 then 1 else 0, index := word i, flags := BitVec.ofNat 16 (fieldU bs 2 2)
         tag := word (fieldU bs 4 4), payload := bs.drop 8, dt := 0 })

/-- The body of a command that a boot image may hold, and whether the record names the boot head (R334). -/
def bootBody (op bh i : Nat) (c : Cmd) : Option (Cmd → CmdRef → State → CmdRes) :=
  let named (off : Nat) (b : Cmd → CmdRef → State → CmdRes) : Option (Cmd → CmdRef → State → CmdRes) :=
    if c.u8 off = bh ∧ 2 ≤ i then some b else none
  match op with
  | 0x0801 => if i = 0 ∧ c.u8 0x08 = bh then some headTimingSetBody else none
  | 0x0802 =>
    let named := (c.u8 0x0C = bh ∧ c.u8 0x0D = 0xFF) ∨ (c.u8 0x0C = 0xFF ∧ c.u8 0x0D = bh)
    if i = 1 ∧ named then some portRouteSetBody else none
  | 0x0503 => named 0x08 ditherSetBody
  | 0x0807 => named 0x08 stillPolicySetBody
  | 0x0901 => if 2 ≤ i then some cartoucheImageLoadBody else none
  | 0x0902 => if c.u8 0x08 = 0 then named 0x09 cartoucheCellSetBody else none
  | 0x0903 => named 0x09 watchRegionSetBody
  | 0x0904 => named 0x08 referenceSetBody
  | 0x0905 => named 0x09 faultReactionSetBody
  | _ => none

/-- Apply one record: none where it fails. What the command stages applies with the head's next compose boundary, and a
copy into the store is made at once. -/
def State.bootApply (bh i : Nat) (s : State) : Option State :=
  let (op, c) := bootRecord s.boot.cbi i
  if c.flags ≠ 0 ∨ c.tag ≠ 0 then none
  else match bootBody op bh i c with
    | none => none
    | some body =>
      match body c (c.ref op) s with
      | .error _ => none
      | .ok (_, .failed _) => none
      | .ok (s, .wait _) =>
        match s.disp.cart.loads.find? (fun l => l.ref = c.ref op) with
        | none => some s
        | some l => some (s.loadDone l)
      | .ok (s, _) =>
        let d := (((s.head bh).stage 0).dither)
        some (s.modHead bh (fun x => { x with
          ditherNext := d.or x.ditherNext, stages := IMap.del x.stages 0 }))

/-- Apply the records from `i` on; in Returned only the first two (R516). -/
def State.bootRecords (bh : Nat) : Nat → Nat → State → Option State
  | 0, _, s => some s
  | n + 1, i, s =>
    if s.boot.lifecycle = .returned ∧ 2 ≤ i then some s
    else match s.bootApply bh i with
      | none => none
      | some s => State.bootRecords bh n (i + 1) s

/-- The header of a boot image is well formed (Table 12.7). -/
def bootHeaderOk (img : List Byte) : Bool :=
  let n := fieldU img 6 2
  fieldU img 0 4 = 0x49425443 && fieldU img 4 2 = 0x0100 && decide (2 ≤ n) && decide (n ≤ 512) &&
    fieldU img 8 4 = img.length && decide (fieldU img 12 1 ≤ 7) && fieldU img 13 19 = 0 && decide (0x20 + 64 * n ≤ img.length)

/-- CARTOUCHE_BOOT_IMAGE_APPLY (R334): an image that fails leaves the head off. -/
def State.bootImage (s : State) : State :=
  let img := s.boot.cbi
  if s.boot.stage ≠ .running || s.boot.fwReady || s.boot.cbiApplied || img.isEmpty then s
  else
    let off := s.modBoot (fun b => { b with cbiApplied := true })
    if !bootHeaderOk img then off
    else
      let bh := fieldU img 12 1
      match (s.modBoot (fun b => { b with applying := true })).bootRecords bh (fieldU img 6 2) 0 with
      | none => off
      | some s => { s with
          boot := { s.boot with applying := false, cbiApplied := true }
          disp := { s.disp with bootHead := some bh } }

def execCartoucheBootImageApply (dt : Nat) (s : State) : Host.Outcome State Fault Refusal :=
  .next (s.tick dt).bootImage

/-- FIRMWARE_READY (R49, R510): the Legend is complete, tenants 0 and 1 exist, and fw_ready is 1 in Drive. -/
def State.firmwareReady (s : State) : State :=
  if s.boot.stage ≠ .running || s.boot.fwReady || !(s.boot.cbi.isEmpty || s.boot.cbiApplied) then s
  else
    let (cs, lp, su) := s.legendNow
    { s with
      boot := { s.boot with fwReady := true }
      power := { s.power with mode := .drive }
      legend := { s.legend with built := true, shown := cs, lpddr := lp, shownSuspects := su }
      tenants := IMap.put (IMap.put s.tenants 0 { pasid := 0, quotas := {} }) 1
        { pasid := 0, quotas := { inflight := 256, planes := 8, threads := 8, voices := 0, dma := 2, atlasMib := 4096 } } }

def execFirmwareReady (dt : Nat) (s : State) : Host.Outcome State Fault Refusal := .next (s.tick dt).firmwareReady

/-! ### The PCIe link and host reset (R512, R513) -/

/-- PCIE_LINK_UP (R512): the endpoint trains without firmware. -/
def execPcieLinkUp (dt : Nat) (s : State) : Host.Outcome State Fault Refusal :=
  let s := s.tick dt
  .next (if s.boot.resetLow then s else s.modBoot (fun b => { b with pcieUp := true, perst := false }))

/-- The destruction of a tenant begins (R53 step 1): it is fetched from no more, and its records are discarded. -/
def State.beginDestroy (t : Nat) (r : CmdRef) (s : State) : State :=
  match s.tenant? t with
  | none => s
  | some x =>
    let s := x.mbox.held.foldl (fun s h => s.dropFlight h.ref) s
    (s.modTenant t (fun x => { x with
      dying := .draining r x.mbox.held.length
      mbox := { x.mbox with held := [], events := [] } })).advanceDestroy t

/-- A reference that no command in flight has. -/
def noRef : CmdRef := ⟨0, 0, 0, 0x10000⟩

/-- What a host reset does to the tenants (R513). -/
def State.detachTenants (s : State) : State :=
  let ts := (IMap.keys s.tenants).filter (fun t => decide (2 ≤ t) && (match s.tenant? t with
    | some x => x.dying = .no
    | none => false))
  let s := ts.foldl (fun s t => s.beginDestroy t noRef) s
  [0, 1].foldl (fun s t => (s.mboxDisable t).modTenant t (fun x => { x with
    atlas := x.atlas.keep (fun l => l.target != 1) })) s

/-- PERST_ASSERT (R513). -/
def State.hostReset (s : State) : State :=
  if s.boot.resetLow then s
  else
    ({ s with
      boot := { s.boot with perst := true, pcieUp := false }
      dev := { s.dev with msix := [], pba := [], pasid0 := 0, pasid1 := 0, pasidLock := false } }).detachTenants.endGrants

def execPerstAssert (dt : Nat) (s : State) : Host.Outcome State Fault Refusal := .next (s.tick dt).hostReset

/-! ### Commands of group 0x11 -/

/-- The debug sessions on a tenant's threads, on the heads of a mask, end (R518). -/
def State.closeDebugOf (t m : Nat) (s : State) : State := s.closeSessions (fun h k => bitOf m h && k.owner = t)

/-- DEBUG_GRANT (R518). -/
def debugGrantBody (c : Cmd) (_ : CmdRef) (s : State) : CmdRes := do
  c.reserved [(0x08, 4)]
  let op := c.u8 0x08
  let m := c.u8 0x09
  let t := c.u16 0x0A
  need (decide (op ≤ 1)) eRange 0x08
  need (m ≠ 0) eRange 0x09
  need (decide (t ≤ 1023)) eRange 0x0A
  need (s.exists_ t) 0x0102 0x0A
  let old := IMap.get s.boot.grants 0 t
  let new := if op = 0 then old ||| m else old &&& (0xFF - m)
  let s := s.modBoot (fun b => { b with grants := IMap.put b.grants t new })
  okDone (if op = 0 then s else s.closeDebugOf t m) [word new]

/-- The code of a lifecycle state (Table 20.5, R523). -/
def Lifecycle.code : Lifecycle → Nat
  | .blank => 1 | .secured => 2 | .returned => 3

/-- The public key that signs tokens in a lifecycle state (Table 20.1). -/
def State.tokenKey (s : State) : List Byte :=
  if s.boot.lifecycle = .secured then Config.ownerKey s.boot.ownerHash else Config.rootKey

/-- A token passes the checks of R514, and for kind 3 those of a partly written owner hash (R515). -/
def State.tokenOk (s : State) (k : List Byte) : Bool :=
  let kind := fieldU k 6 1
  fieldU k 0 4 = 0x4B4C4E55 && fieldU k 4 2 = 0x0100 &&
  (kind = 1 || (kind = 2 && s.boot.lifecycle ≠ .returned) || (kind = 3 && s.boot.lifecycle = .blank)) &&
  fieldU k 7 1 = s.boot.lifecycle.code && fieldU k 8 4 = dieSerial.toNat &&
  fieldU k 0x0C 20 = 0 && fieldU k 0xB0 16 = 0 && (kind = 3 || fieldU k 0x20 48 = 0) &&
  (kind ≠ 3 || ((s.boot.ownerHash.zip (slice k 0x20 48)).all (fun e => e.1 &&& ~~~e.2 = 0))) &&
  Config.ecdsaVerifies s.tokenKey (slice k 0 0x50) (slice k 0x50 96)

/-- DEBUG_UNLOCK (R514): the fuses are blown with the record, and the part resets 10 ms later. -/
def debugUnlockBody (c : Cmd) (_ : CmdRef) (s : State) : CmdRes := do
  let op := c.u8 0x08
  need (c.ext = 0 || c.ext = 3) eBadCmd 0x0002
  need (decide (op ≤ 1)) eRange 0x08
  need (c.ext = if op = 0 then 3 else 0) eBadCmd 0x0002
  c.reserved [(0x08, 1), (0x40, 192)]
  if op = 1 then do
    need s.boot.deviceSession eState
    okDone (s.modBoot (fun b => { b with deviceSession := false, observed := [], cpHalted := false, extest := false })) []
  else do
    let k := c.bytes 0x40 192
    let kind := fieldU k 6 1
    need (s.tokenOk k) eDebugToken
    need (kind ≠ 1 || !s.boot.deviceSession) eState
    need (kind = 1 || s.power.change.isNone) eBusy
    match kind with
    | 1 => okDone (s.modBoot (fun b => { b with deviceSession := true })) []
    | 2 => okDone (s.modBoot (fun b => { b with
        lifecycle := .returned, resetDue := some (s.now + 10240000) })) []
    | _ => okDone (s.modBoot (fun b => { b with
        lifecycle := .secured, ownerHash := slice k 0x20 48, resetDue := some (s.now + 10240000) })) []

/-- LIFECYCLE_QUERY (R523). -/
def lifecycleQueryBody (c : Cmd) (_ : CmdRef) (s : State) : CmdRes := do
  c.reserved []
  let b := s.boot
  okDone s [word b.lifecycle.code,
    word (bitN (IMap.get b.grants 0 c.tenant ≠ 0) + 2 * bitN b.deviceSession),
    dieSerial, s.fwVersion, word b.copy, word b.keyUsed,
    word (bitN s.power.servicePinLow + 2 * bitN b.lpddrFailed)]

end Sys2Proof.Machine
end

