-- ==== Sys2Proof/Machine/Legend.lean ====
section
/-! DEFINITION. What BAR0 shows: the Legend's bytes (R33 to R48), the device status page (R77), the doorbell pages (R61) and
the MSI-X structures (Table 3.2). And the power domains and their votes (R422 to R424). -/

namespace Sys2Proof.Machine

/-! ### Units (Table 1.1) -/

/-- Unit types whose parent is a cluster, with the count per cluster. -/
def clusterUnits : List (Nat × Nat) :=
  [(0x0100, 8), (0x0101, 1), (0x0102, 4), (0x0103, 1), (0x0104, 1), (0x0105, 1), (0x0106, 4), (0x0107, 1), (0x0108, 2)]

/-- Unit types whose parent is a region, with the count per region. -/
def regionUnits : List (Nat × Nat) := [(0x0200, 1), (0x0201, 1), (0x0202, 4), (0x0203, 1)]

/-- Unit types whose parent is the logic die, with their count. -/
def dieUnits : List (Nat × Nat) :=
  [(0x0300, 1), (0x0301, 1), (0x0302, 16), (0x0303, 1), (0x0304, 1), (0x0305, 1), (0x0306, 1), (0x0307, 1), (0x0308, 4),
    (0x0309, 4), (0x030A, 1), (0x030B, 2), (0x030C, 1), (0x030D, 1), (0x030E, 1), (0x030F, 1), (0x0310, 5), (0x0311, 1),
    (0x0312, 1), (0x0313, 1)]

/-- The instances of some unit types. -/
def instancesOf (k : Nat) (us : List (Nat × Nat)) : List (Nat × Nat) :=
  us.flatMap (fun u => (List.range (k * u.2)).map (fun i => (u.1, i)))

/-- The units of entries 16 onwards: type and instance. -/
def laterUnits : List (Nat × Nat) := instancesOf 10 clusterUnits ++ instancesOf 2 regionUnits ++ instancesOf 1 dieUnits

/-- A list in an order that each part fixes for itself (R37): every place takes one of those that remain. -/
def inSomeOrder (pick : Nat → Nat) : Nat → List (Nat × Nat) → List (Nat × Nat)
  | 0, _ => []
  | n + 1, us =>
    let i := pick n % max 1 us.length
    match us[i]? with
    | none => []
    | some u => u :: inSomeOrder pick n (us.eraseIdx i)

/-- The units of the Legend by entry: type and instance (R37). -/
def legendUnits : List (Nat × Nat) :=
  [(0x0001, 0), (0x0002, 0), (0x0003, 0), (0x0003, 1), (0x0004, 0), (0x0004, 1)] ++
    (List.range 10).map (fun n => (0x0005, n)) ++ inSomeOrder Config.legendPick laterUnits.length laterUnits

/-! ### Register windows (R37, Table 4.2) -/

/-- The 4 KiB pages that the registers of a unit type need: the interrupt controller has registers up to offset 0x17FC, the
other types that have registers have them below 0x1000. -/
def windowNeed (ty : Nat) : Nat :=
  if ty = 0x030F then 2
  else if [0x0100, 0x0101, 0x0102, 0x0103, 0x0104, 0x0107, 0x0108, 0x0202, 0x0302, 0x0303, 0x0308, 0x0309, 0x030A, 0x030B,
    0x030C, 0x030D, 0x030E, 0x0310, 0x0311, 0x0312, 0x0313].contains ty then 1
  else 0

/-- The windows of units in rising order from page `at_`, with `left` pages to spare: each unit with the first page and the
number of pages of its window. No two overlap, each holds what its unit needs, and the size fits the field of Table 2.2;
all else is free (R37). -/
def placeWindows : List (Nat × Nat) → Nat → Nat → List ((Nat × Nat) × Nat × Nat)
  | [], _, _ => []
  | u :: us, at_, left =>
    let need := windowNeed u.1
    let gap := Config.windowGap us.length % (left + 1)
    let spare := Config.windowSpare us.length % (min (left - gap) (0xFFF - need) + 1)
    (u, at_ + gap, need + spare) :: placeWindows us (at_ + gap + need + spare) (left - gap - spare)

/-- The units that may have a window, in the order of their addresses. -/
def windowUnits : List (Nat × Nat) :=
  let us := [(0x0001, 0), (0x0002, 0), (0x0003, 0), (0x0003, 1), (0x0004, 0), (0x0004, 1)] ++
    (List.range 10).map (fun n => (0x0005, n)) ++ laterUnits
  inSomeOrder Config.windowPick us.length us

/-- The register windows of the part, in the 65,536 pages of the register range (Table 4.2). -/
def windows : List ((Nat × Nat) × Nat × Nat) :=
  placeWindows windowUnits 0 (65536 - (windowUnits.map (fun u => windowNeed u.1)).sum)

/-- The window word of a unit's Legend entry (Table 2.2): its base and its size in pages. -/
def windowWord (ty i : Nat) : Word :=
  match windows.find? (fun w => w.1 = (ty, i)) with
  | none => 0
  | some w => word (w.2.1 * 4096 + w.2.2)

/-- The unit whose window holds a register address, with the offset in that window (R35, R37). -/
def unitAt (addr : Nat) : Option ((Nat × Nat) × Nat) :=
  (windows.find? (fun w => decide (w.2.1 * 4096 ≤ addr) && decide (addr < (w.2.1 + w.2.2) * 4096))).map
    (fun w => (w.1, addr - w.2.1 * 4096))

/-- The cluster that a unit is, or belongs to (R38, R41). -/
def unitCluster (ty i : Nat) : Option Nat :=
  if ty = 0x0005 then some i else ((clusterUnits.find? (fun u => u.1 = ty)).map (fun u => i / u.2))

/-- The index of a unit's parent entry (R37). -/
def unitParent (ty i : Nat) : Nat :=
  match ty with
  | 0x0001 => 0xFFFF
  | 0x0002 => 0
  | 0x0003 => 0
  | 0x0004 => 1
  | 0x0005 => 4 + i / 5
  | _ => match unitCluster ty i with
    | some k => 6 + k
    | none => match regionUnits.find? (fun u => u.1 = ty) with
      | some u => 4 + i / u.2
      | none => 1

/-- A unit's level (Table 2.2). -/
def unitLevel (ty : Nat) : Nat :=
  match ty with
  | 0x0001 => 4
  | 0x0002 => 3
  | 0x0003 => 3
  | 0x0004 => 2
  | 0x0005 => 1
  | _ => 0

/-- A unit's capability words (Table 2.5, R542). -/
def State.unitCaps (s : State) (ty : Nat) : Word × Word :=
  match ty with
  | 0x0001 => (0x000000A1, 0x00009624)
  | 0x0004 => (0x00000005, 0)
  | 0x0005 => (0x04080410, 0x06001010)
  | 0x0100 => (0x10000102, 0)
  | 0x0101 => (0x02002000, 0x00004000)
  | 0x0102 => (0x20000002, 0x0000003F)
  | 0x0103 => (0x00010000, 0x00100800)
  | 0x0106 => (0x08400608, 0)
  | 0x0108 => (0x01102008, 0x00200100)
  | 0x0202 => (0x08701400, 0x189002D0)
  | 0x0302 => (0x00001000, 3)
  | 0x0303 => (0x00001000, 1)
  | 0x0308 => (0x03021E04, 0)
  | 0x0309 => (0x00000110, 0)
  | 0x030A => (0x20100460, 7)
  | 0x030C => (0x00000030, 0)
  | 0x0300 => (s.fwVersion, 0x00000400)
  | _ => (0, 0)

/-- The state that the Legend shows for a unit (R41). -/
def State.shownState (s : State) (ty i : Nat) : Nat :=
  if s.legend.shownSuspects.contains (ty, i) then 4
  else match unitCluster ty i with
    | some k => (s.legend.shown.getD k .spare).code
    | none => if ty = 0x0305 then s.legend.lpddr.code else 0

/-- The service state a unit is in now (R41, R44). -/
def State.unitService (s : State) (ty i : Nat) : Service :=
  match unitCluster ty i with
  | some k => (s.cluster k).service
  | none => if ty = 0x0305 ∧ s.boot.lpddrFailed then .retired else .active

/-- The bytes of a unit's entry (Table 2.2, R39, R542). -/
def State.entryBytes (s : State) (u : Nat × Nat) : List Byte :=
  let (ty, i) := u
  let caps := s.unitCaps ty
  leBytes 2 ty ++ leBytes 2 i ++ leBytes 2 (unitParent ty i) ++ leBytes 1 (unitLevel ty) ++ leBytes 1 (s.shownState ty i) ++
    leBytes 4 0x01020040 ++ leBytes 4 (windowWord ty i).toNat ++ leBytes 2 i ++ leBytes 2 ty ++
    leBytes 4 dieSerial.toNat ++ leBytes 4 caps.1.toNat ++ leBytes 4 caps.2.toNat

/-- The Legend with given crc and generation fields (Table 2.1). -/
def State.legendWith (s : State) (crc gen : Word) : List Byte :=
  leBytes 4 0x444E474C ++ leBytes 2 0x0100 ++ leBytes 2 306 ++ leBytes 4 crc.toNat ++ leBytes 4 gen.toNat ++
    leBytes 2 32 ++ leBytes 2 32 ++ List.replicate 12 0 ++ legendUnits.flatMap s.entryBytes

/-- The Legend's crc (R36). -/
def State.legendCrc (s : State) : Word := crc32 (s.legendWith 0 0)

/-- The Legend as BAR0 shows it: all zero until it is first built (R34). -/
def State.legendBytes (s : State) : List Byte :=
  if s.legend.built then s.legendWith s.legendCrc s.legend.generation else []

/-! ### BAR0 (R58) -/

/-- The code of a mailbox state (Table 3.6). -/
def MboxState.code : MboxState → Nat
  | .disabled => 0 | .running => 1 | .stopped => 2 | .draining => 3

/-- A register of a doorbell page (Table 3.3). -/
def Mailbox.reg (m : Mailbox) (off : Nat) : Word :=
  match off with
  | 0x00 => m.cmdTail
  | 0x04 => m.cmdHead
  | 0x08 => m.cplHead
  | 0x0C => m.cplTail
  | 0x10 => m.cmdBaseLo
  | 0x14 => m.cmdBaseHi
  | 0x18 => m.cplBaseLo
  | 0x1C => m.cplBaseHi
  | 0x20 => m.ringCfg
  | 0x24 => if m.state = .running || m.state = .stopped then 1 else 0
  | 0x28 => word (m.fault * 0x10000 + m.state.code)
  | 0x2C => m.irqMod
  | 0x30 => m.eventLost
  | _ => 0

/-- A read of a doorbell page; the page of a tenant that does not exist reads 0 (R49). -/
def State.dbRead (s : State) (t off : Nat) : Word :=
  match s.tenant? t with
  | none => 0
  | some x => x.mbox.reg off

/-- A read of the device status page (R77): 0 before the Legend is built (R78). DESIGN CHOICE (assumption 76): Meridian is read
without the lag that R25 allows. -/
def State.devRead (s : State) (off : Nat) : Word :=
  if !s.legend.built then 0
  else match off with
    | 0x00 => word (s.power.mode.code + (if s.boot.fwReady then 0x100 else 0) + 0x01000000)
    | 0x04 => s.dev.event
    | 0x08 => s.dev.eventEn
    | 0x10 => s.dev.pasid0
    | 0x14 => s.dev.pasid1
    | 0x18 => if s.dev.pasidLock then 1 else 0
    | 0x20 => s.now.truncate 32
    | 0x24 => s.dev.meridianHi
    | _ => 0

/-- A word of the MSI-X table. -/
def MsixEntry.word (e : MsixEntry) (k : Nat) : Word :=
  match k with
  | 0 => e.addrLo
  | 1 => e.addrHi
  | 2 => e.data
  | _ => e.ctrl

/-- The bytes of an access. -/
def accessBytes : AccessWidth → Nat
  | .byte => 1 | .half => 2 | .word => 4 | .dword => 8

/-- An aligned 32-bit read of BAR0 beyond the Legend (Table 3.2). -/
def State.bar0Word (s : State) (off : Nat) : Word :=
  if off < 0x5000 then s.devRead (off - 0x4000)
  else if 0x100000 ≤ off ∧ off < 0x104100 then (s.msix ((off - 0x100000) / 16)).word ((off - 0x100000) % 16 / 4)
  else if 0x108000 ≤ off ∧ off < 0x108088 then
    let b := 8 * (off - 0x108000)
    word (((List.range 32).filter (fun i => s.dev.pba.contains (b + i))).map (fun i => 2 ^ i)).sum
  else if 0x400000 ≤ off ∧ off < 0x800000 then s.dbRead ((off - 0x400000) / 0x1000) (off % 0x1000)
  else 0

/-- Whether an offset lies in the MSI-X table or its pending-bit array. -/
def inMsix (off : Nat) : Bool := (decide (0x100000 ≤ off) && decide (off < 0x104100)) || (decide (0x108000 ≤ off) && decide (off < 0x108088))

/-- An access to the MSI-X structures is an aligned one of 4 or 8 bytes. PRESUMED (assumption 22): PCI Express 4.0, which R59 names,
leaves the result of any other undefined. -/
def msixAligned (off : Nat) (w : AccessWidth) : Bool := (w = .word && off % 4 = 0) || (w = .dword && off % 8 = 0)

/-- A read of BAR0 (R59). The Legend's bytes are read at any offset and width, which R59 does not limit (assumption 72); the other
pages take aligned 32-bit reads alone, and return 0 to others. -/
def State.bar0Read (s : State) (off : Nat) (w : AccessWidth) : Dword :=
  if off < 0x4000 then BitVec.ofNat 64 (fieldU s.legendBytes off (accessBytes w))
  else if inMsix off then
    if !msixAligned off w then BitVec.ofNat 64 (Config.freeValue s.freeCount % 256 ^ accessBytes w)
    else if w = .dword then dword (s.bar0Word off) + (dword (s.bar0Word (off + 4)) <<< 32)
    else dword (s.bar0Word off)
  else if w = .word && off % 4 = 0 then dword (s.bar0Word off)
  else 0

/-- What else a read of BAR0 does: DEV.MERIDIAN_LO latches the high half (R77), and an undefined result uses up a free value. -/
def State.bar0ReadEffect (off : Nat) (w : AccessWidth) (s : State) : State :=
  if inMsix off && !msixAligned off w then s.fresh.2
  else if off = 0x4020 ∧ w = .word ∧ s.legend.built then { s with dev := { s.dev with meridianHi := (s.now >>> 32).truncate 32 } } else s

/-- A write of the MSI-X table; a vector that is unmasked while pending sends its message. PRESUMED (assumption 22): PCI Express 4.0, which
R59 names. -/
def State.msixWrite (v k : Nat) (w : Word) (s : State) : State :=
  let e := s.msix v
  let e := match k with
    | 0 => { e with addrLo := w &&& 0xFFFFFFFC }
    | 1 => { e with addrHi := w }
    | 2 => { e with data := w }
    | _ => { e with ctrl := w &&& 1 }
  let s := { s with dev := { s.dev with msix := IMap.put s.dev.msix v e } }
  if k = 3 && !e.ctrl.getLsbD 0 && s.dev.pba.contains v then
    let s := { s with dev := { s.dev with pba := s.dev.pba.filter (fun x => x != v) } }
    s.raiseVector v
  else s

/-! ### Power domains -/

/-- The domain of a unit (Table 16.4); a unit of the whole part has none. -/
def unitDomain (ty i : Nat) : Option Nat :=
  let inCluster (k j : Nat) : Option Nat := some (66 + 7 * k + j)
  match ty with
  | 0x0100 => inCluster (i / 8) 0
  | 0x0101 => inCluster i 1
  | 0x0102 => inCluster (i / 4) 2
  | 0x0103 => inCluster i 1
  | 0x0104 => inCluster i 4
  | 0x0105 => inCluster i 3
  | 0x0106 => inCluster (i / 4) 3
  | 0x0107 => inCluster i 4
  | 0x0108 => inCluster (i / 2) (5 + i % 2)
  | 0x0200 => some (37 + i)
  | 0x0201 => some (37 + i)
  | 0x0202 => some (39 + i)
  | 0x0203 => some (37 + i)
  | 0x0300 => some 1
  | 0x0301 => some 36
  | 0x0302 => some (10 + i)
  | 0x0303 => some 26
  | 0x0304 => some 27
  | 0x0305 => some 28
  | 0x0306 => some 2
  | 0x0307 => some 47
  | 0x0308 => some (48 + i)
  | 0x0309 => some (52 + i)
  | 0x030A => some 56
  | 0x030B => some (58 + i)
  | 0x030C => some 60
  | 0x030D => some 61
  | 0x030E => some 4
  | 0x030F => some 3
  | 0x0310 => some (5 + i)
  | 0x0311 => some 62
  | 0x0312 => some 62
  | 0x0313 => some 0
  | _ => none

/-- The domains that the mode votes for (R423, Table 16.1). DEDUCED (assumption 21): Tell's row means PD065 as well, whose clocks its units
run from. -/
def State.modeVotes (s : State) : List Nat :=
  match s.power.mode with
  | .off => []
  | .keep => [0]
  | .listen => [0]
  | .tell =>
    let head := match s.power.tellHead with
      | none => []
      | some h => [37 + h / 4, 39 + h] ++ (match (s.head h).port with
        | none => []
        | some (p, _) => [48 + p])
    [0, 1, 2, 3, 4, 5, 6, 7, 8, 9, 10, 26, 27, 47, 56, 62, 65] ++ head
  | .drive => [0, 1, 2, 3, 4, 10, 27, 47, 62, 65]
  | .service => [0, 1, 2, 3, 4, 10, 27, 47, 62, 63, 65]

/-- The domains of a cluster. -/
def clusterDomains (k : Nat) : List Nat := (List.range 7).map (fun j => 66 + 7 * k + j)

/-- Whether a pin is owned by a tenant. -/
def Pin.tenanted (x : Pin) : Bool := match x.owner with | .tenant _ => true | _ => false

/-- The domains that the CP votes for because their units serve something (R423). DEDUCED from Table 16.4 (assumption 21). -/
def State.useVotes (s : State) : List Nat :=
  let a := s.audio
  let heads := (List.range 8).filter (fun h => (s.head h).timed)
  let leaves := s.tenants.flatMap (fun e => e.2.atlas.leaves)
  heads.flatMap (fun h => [37 + h / 4, 39 + h] ++
      (match (s.head h).port with | none => [] | some (p, _) => [48 + p]) ++
      (match (s.head h).cluster with | none => [] | some k => (37 + k / 5) :: clusterDomains k) ++
      (if (s.head h).capture.isSome then [64] else [])) ++
    (s.banks.filter (fun e => e.2.cls ≠ 0)).map (fun e => 10 + e.1) ++
    (if s.disp.cart.used.isEmpty then [] else [26]) ++
    (if leaves.any (fun l => l.target = 2) then (List.range 8).map (fun i => 28 + i) else []) ++
    (if leaves.isEmpty then [] else [36]) ++
    (if a.voices.isEmpty && a.buses.isEmpty && a.lanes.isEmpty && a.tdmOut.isEmpty && a.tdmIn.isEmpty && a.pdm.isEmpty
      then [] else [56]) ++
    (if a.voices.any (fun e => e.1 < 96 && e.2.owner.isSome) then [57] else []) ++
    (if a.buses.any (fun e => e.2.capture.isSome) then [64] else []) ++
    a.avtp.map (fun e => 58 + e.2.mac) ++
    (if s.dma.ch.any (fun e => e.2.owner.isSome) then [60] else []) ++
    (if s.dma.blitRun.isSome || !s.dma.blits.isEmpty then [61] else []) ++
    (s.pins.pin.filter (fun e => e.2.tenanted)).map (fun e => 5 + e.1 / 32)

/-- The domains that running maintenance activities claim (R423, Table 13.3). -/
def State.maintenanceVotes (s : State) : List Nat :=
  (List.range 7).flatMap (fun a =>
    if !(s.activity a).running then []
    else match a with
      | 1 => (List.range 16).map (fun b => 10 + b)
      | 2 => [26]
      | 3 => [27]
      | 4 => match (s.activity 4).cluster with | none => [] | some k => clusterDomains k
      | 5 => 26 :: ((List.range 8).filter (fun h => (s.head h).timed)).map (fun h => 39 + h)
      | 6 => [65]
      | _ => [])

/-- Whether a domain is powered (R422, R423); a unit that a mode change left out keeps its domains as they were (R346). Until the CP firmware runs every domain is (Table 16.8). -/
def State.domainOn (s : State) (d : Nat) : Bool :=
  if s.power.mode = .off then false
  else if !s.boot.fwReady then decide (d ≤ 135)
  else
    let drive := s.power.mode = .drive || s.power.mode = .service
    let filter := s.power.mode.sleeps && (s.peg.source 6).enable && d = 58 + (s.peg.source 6).mac
    s.power.accessVotes.contains d || match s.power.keptDomains.find? (fun e => e.1 = d) with
    | some e => e.2
    | none => s.modeVotes.contains d || (drive && s.useVotes.contains d) || (!s.power.mode.sleeps && s.maintenanceVotes.contains d) ||
      filter || (s.boot.deviceSession && (d = 63 || s.boot.observed.contains d))

/-! ### The gating tree (R430)

Each PLL is the root of a tree whose children are the domains that its clock serves; a domain's own node is gated while the domain
is not powered (R426), and a root may be gated above it. PRESUMED (assumption 71): which PLL serves which domain. -/

/-- The PLLs of Table 16.5 that serve a domain. -/
def domainPlls (d : Nat) : List Nat :=
  if d = 0 then [14]
  else if d = 1 then [2]
  else if d = 4 then [3]
  else if 39 ≤ d ∧ d ≤ 46 then [d - 35]
  else if d = 56 ∨ d = 57 then [12, 13]
  else if 66 ≤ d then [0]
  else [1]

/-- Whether a root of the tree has an ungated child in use. -/
def State.pllInUse (s : State) (p : Nat) : Bool := (List.range 136).any (fun d => (domainPlls d).contains p && s.domainOn d)

/-- The CP firmware's request to gate a root: with an ungated child in use it is refused, the node stays running and
GOV.PLL_STATUS.gate_refused is set. -/
def State.gateRequest (p : Nat) (s : State) : State :=
  if s.pllInUse p then ({ s with clocks := { s.clocks with gateRefused := true } }).hwMark .gateRefused
  else { s with clocks := { s.clocks with gated := if s.clocks.gated.contains p then s.clocks.gated else p :: s.clocks.gated } }

/-- The path to a domain's units opens. -/
def State.openPath (d : Nat) (s : State) : State :=
  { s with clocks := { s.clocks with gated := s.clocks.gated.filter (fun p => !(domainPlls d).contains p) } }

/-- An access to a unit whose domain is not powered wakes it, and leaves it an access vote (R424); the path to its clock opens
(R430). -/
def State.wakeDomain (d : Nat) (s : State) : State :=
  let s := if s.domainOn d then s else { s with power := { s.power with accessVotes := s.power.accessVotes ++ [d] } }
  s.openPath d

/-- GOV.PD_ON[k] (Table 16.8). -/
def State.pdOn (s : State) (k : Nat) : Word :=
  word (((List.range 32).filter (fun i => decide (32 * k + i ≤ 135) && s.domainOn (32 * k + i))).map (fun i => 2 ^ i)).sum

/-- ACCESS_VOTE_EXPIRY (R423): 1 ms has passed with no access. -/
def execAccessVoteExpiry (dt d : Nat) (s : State) : Host.Outcome State Fault Refusal :=
  let s := s.tick dt
  .next { s with power := { s.power with accessVotes := s.power.accessVotes.filter (fun x => x != d) } }

end Sys2Proof.Machine
end

