-- ==== Sys2Proof/Machine/Governor.lean ====
section
/-! DEFINITION. The governor (R353 to R360), CLOCK_PLAN_SET (R428, R429), and arm-then-apply: arm deadlines, apply times,
acknowledgements that do not come, and rollbacks (R345 to R348). -/

namespace Sys2Proof.Machine

/-- Change the governor. -/
def State.modGov (s : State) (f : Governor → Governor) : State :=
  s.modDisp (fun d => { d with gov := f d.gov })

/-- A decision is reported (R353, R365): DEV.EVENT bit 1 and GOVERNOR_DECISION. -/
def State.decision (action value : Nat) (s : State) : State :=
  let g := s.disp.gov
  let ws := [word action, word value, wordI g.tj, word g.avg1ms] ++ words64 s.now
  ((s.devEvent 1).event 0 0x0A01 ws).notify 0x0A01 0 ws (· ≠ 0)

/-- Degrees in the 1/16 °C of Tj. -/
def celsius (n : Int) : Int := 16 * n

/-- Whether at least `ms` milliseconds have passed since an instant, or there was none. -/
def State.sinceMs (s : State) (t : Option Meridian) (ms : Nat) : Bool :=
  match t with
  | none => true
  | some t => decide (ms * msTicks ≤ s.since t)

/-- A condition that began at an instant and has held for `ms` milliseconds. -/
def State.heldMs (s : State) (t : Option Meridian) (ms : Nat) : Bool := t.isSome && s.sinceMs t ms

/-- Since when a condition holds. -/
def holding (b : Bool) (old : Option Meridian) (now : Meridian) : Option Meridian := if b then old.or (some now) else none

/-- The estimate of power (R360) in mW. -/
def State.powerEstimate (s : State) (tj : Int) (activity : List Nat) : Nat :=
  let dyn := ((activity.zipIdx).map (fun e => Config.activityCoefficient e.2 * e.1)).sum
  let g := s.disp.gov
  let leak := match g.anchor with
    | some c => if g.unanchored then Config.fusedLeakage tj * 5 / 4 else Config.anchoredLeakage c tj
    | none => if g.unanchored then Config.fusedLeakage tj * 5 / 4 else Config.fusedLeakage tj
  dyn + leak

/-- The readings of one evaluation (R353, R359, R360, R362). -/
def State.takeReadings (temps : List Int) (activity : List Nat) (s : State) : State :=
  let tj := temps.foldl (fun (m : Int) t => if m < t then t else m) (temps.headD 0)
  let sensor := (temps.findIdx? (· = tj)).getD 0
  let p := s.powerEstimate tj activity
  s.modGov (fun g =>
    let (sus, pk, bu) := g.policy.getD (g.sustained, g.peak, g.burst)
    let w := (p :: g.window).take 1000
    let a := w.sum / max 1 w.length
    { g with
      tj := tj, sensor := sensor, avg1ms := p, window := w, avg1s := a
      sustained := sus, peak := pk, burst := bu, policy := none
      cool105 := holding (decide (tj < celsius 105)) g.cool105 s.now
      cool113 := holding (decide (tj < celsius 113)) g.cool113 s.now
      overSince := holding (decide (sus * 1000 < a)) g.overSince s.now })

/-- Whether a CCLK step, plan or mode change is still to apply or to roll back. -/
def State.armBusy (s : State) : Bool := !s.disp.openArms.isEmpty

/-- Step CCLK down (R354, R359): at most once per 10 ms. -/
def State.stepDown (s : State) : State :=
  let g := s.disp.gov
  let hot := decide (celsius 110 ≤ g.tj)
  let burst := s.heldMs g.overSince (g.burst * 1000)
  if (hot || decide (g.peak * 1000 < g.avg1ms) || burst) && decide (625 ≤ s.clocks.cclk) && s.sinceMs g.downAt 10 &&
      !s.armBusy then
    let n := s.clocks.cclk - 125
    ((s.modGov (fun g => { g with
      downAt := some s.now, overSince := if burst then some s.now else g.overSince })).armChange (.cclk n) [s.clocks.cclk])
        |>.decision 1 n
  else s

/-- Step CCLK up (R354, R355, R359): Tj has been below 105 °C for 1 s, one step a second. -/
def State.stepUp (s : State) : State :=
  let g := s.disp.gov
  if s.heldMs g.cool105 1000 && s.sinceMs g.upAt 1000 && decide (s.clocks.cclk + 125 ≤ s.clocks.cclkMax) &&
      decide (10 * g.avg1s < 9 * g.sustained * 1000) && decide (10 * g.avg1ms < 9 * g.peak * 1000) && !s.armBusy then
    let n := s.clocks.cclk + 125
    ((s.modGov (fun g => { g with upAt := some s.now })).armChange (.cclk n) [s.clocks.cclk]).decision 2 n
  else s

/-- The next degradation step (R356): level 1 for each head in degradation order, then level 2; held heads are skipped. -/
def State.nextDegradation (s : State) : Option (Nat × Nat) :=
  let hs := s.degradationOrder.filter (fun h => !(s.head h).held)
  match hs.find? (fun h => (s.head h).level = 0) with
  | some h => some (h, 1)
  | none => (hs.find? (fun h => (s.head h).level = 1)).map (fun h => (h, 2))

/-- A head's degradation level changes. -/
def State.setLevel (h l : Nat) (s : State) : State := s.modHead h (fun x => { x with level := l, parity := false })

/-- One degradation step every 100 ms at 118 °C and above (R354). -/
def State.degrade (s : State) : State :=
  let g := s.disp.gov
  if decide (celsius 118 ≤ g.tj) && s.sinceMs g.degAt 100 then
    match s.nextDegradation with
    | none => s
    | some (h, l) =>
      ((s.setLevel h l).modGov (fun g => { g with degAt := some s.now, steps := h :: g.steps })).decision 3 (h * 256 + l)
  else s

/-- One degradation step undone every 100 ms, in reverse order, once Tj has been below 113 °C for 1 s (R354). -/
def State.restore (s : State) : State :=
  let g := s.disp.gov
  let steps := g.steps.dropWhile (fun h => (s.head h).level = 0)
  if s.heldMs g.cool113 1000 && s.sinceMs g.resAt 100 then
    match steps with
    | [] => s.modGov (fun g => { g with steps := [] })
    | h :: rest =>
      let l := (s.head h).level - 1
      ((s.setLevel h l).modGov (fun g => { g with resAt := some s.now, steps := rest })).decision 4 (h * 256 + l)
  else s

/-- Force Tell at 122 °C and above (R354, R357, R417). -/
def State.forceTell (s : State) : State :=
  if decide (celsius 122 ≤ s.disp.gov.tj) && !s.power.tellForced then
    let s := { s with power := { s.power with
      tellForced := true, tellForcedDue := s.power.mode = Mode.drive || s.power.mode = Mode.service } }
    (s.decision 5 0).forceDue
  else s

/-- Whether the governor runs (R417): in Tell, Drive and Service, and during a wake to one of them. -/
def State.governs (s : State) : Bool :=
  s.boot.fwReady && !(s.power.mode = .off) && (!s.power.mode.sleeps || (s.peg.latched && decide (2 ≤ s.peg.reqMode)))

/-- GOVERNOR_EVALUATION (R353, R354, R359). -/
def State.govern (temps : List Int) (activity : List Nat) (s : State) : State :=
  if s.governs then ((((s.takeReadings temps activity).forceTell.stepDown).stepUp).degrade).restore else s

def execGovernorEvaluation (dt : Nat) (temps : List Int) (activity : List Nat) (s : State) :
    Host.Outcome State Fault Refusal := .next ((s.tick dt).govern temps activity)

/-- Whether the part is quiet (R360): no composer runs, and the DMA and blit engines are idle. -/
def State.quiet (s : State) : Bool :=
  !s.disp.heads.any (fun e => e.2.comp.running || e.2.comp.busy) &&
  !s.dma.ch.any (fun e => e.2.shown s.enginesRun = .running) && s.dma.blitRun.isNone

/-- LEAKAGE_ANCHOR (R360). -/
def State.anchor (current : Nat) (s : State) : State :=
  if s.governs && s.quiet then
    let was := s.disp.gov.unanchored
    let s := s.modGov (fun g => { g with anchor := some current, unanchored := false, lastAnchor := s.now })
    if was then s.decision 8 0 else s
  else s

def execLeakageAnchor (dt current : Nat) (s : State) : Host.Outcome State Fault Refusal :=
  .next ((s.tick dt).anchor current)

/-- ESTIMATOR_UNANCHORED (R360): no quiet interval for 10 s. -/
def State.unanchor (s : State) : State :=
  if s.governs && !s.disp.gov.unanchored && decide (10000 * msTicks ≤ s.since s.disp.gov.lastAnchor) then
    (s.modGov (fun g => { g with unanchored := true })).decision 7 0
  else s

def execEstimatorUnanchored (dt : Nat) (s : State) : Host.Outcome State Fault Refusal := .next (s.tick dt).unanchor

/-- THERMTRIP_ASSERT (R358): the comparator needs no governor, and sets DEV.EVENT bit 1 whether that runs or not (Table 3.10);
where it runs, the decision is reported. While PWRFAIL_N is low the pin stays released (R433). -/
def State.thermtrip (s : State) : State :=
  if s.power.pwrfail then s
  else
    let s := s.modGov (fun g => { g with thermtrip := true })
    if s.governs then s.decision 6 0 else s.devEvent 1

def execThermtripAssert (dt : Nat) (s : State) : Host.Outcome State Fault Refusal := .next (s.tick dt).thermtrip

/-! ### Clocks follow the mode (R430)

DESIGN CHOICE (assumption 71): as a mode is reached, the CP firmware asks to gate the roots whose units that mode does not run. -/

/-- The roots that the firmware asks to gate in a mode: the clusters' clock, and the pixel clocks of heads that do not scan. -/
def State.gateTargets (s : State) : List Nat :=
  match s.power.mode with
  | .keep => [0, 4, 5, 6, 7, 8, 9, 10, 11]
  | .listen => [0, 4, 5, 6, 7, 8, 9, 10, 11]
  | .tell => 0 :: ((List.range 8).filter (fun h => s.power.tellHead ≠ some h)).map (fun h => 4 + h)
  | _ => []

/-- The gating tree after a mode is reached: paths in use open, and the firmware makes its requests. -/
def State.gateForMode (s : State) : State :=
  let s := { s with clocks := { s.clocks with gated := s.clocks.gated.filter (fun p => !s.pllInUse p) } }
  s.gateTargets.foldl (fun s p => s.gateRequest p) s

/-- A step that may reach a mode, with its clocks. -/
def State.withClocks (old : State) (s : State) : State := if s.power.mode = old.power.mode then s else s.gateForMode

/-- MODE_REACHED (R418 to R421). -/
def execModeReached (dt : Nat) (s : State) : Host.Outcome State Fault Refusal :=
  let s := s.tick dt
  .next (s.withClocks s.modeReached)

/-- WAKE_COMPLETE (R411, R417, R420). -/
def execWakeComplete (dt : Nat) (s : State) : Host.Outcome State Fault Refusal :=
  let s := s.tick dt
  .next (s.withClocks s.wakeComplete)

/-! ### CLOCK_PLAN_SET (R428, R429) -/

def clockPlanSetBody (c : Cmd) (r : CmdRef) (s : State) : CmdRes := do
  c.reserved [(0x08, 8)]
  let cc := c.u16 0x08
  let f := c.u16 0x0A
  let p := c.u16 0x0C
  let cp := c.u16 0x0E
  need ([500, 625, 750, 875, 1000].contains cc) eRange 0x08
  need ([400, 600, 800].contains f) eRange 0x0A
  need ([100, 200].contains p) eRange 0x0C
  need ([400, 600, 800].contains cp) eRange 0x0E
  need (decide (cc ≤ 2 * f)) eClockRatio 0x0A
  need (decide (2 * p ≤ f)) eClockRatio 0x0C
  need (decide (8 * s.fastestSerial 0 ≤ p * 1000000)) eClockRatio 0x0C
  need (decide (cp ≤ f)) eClockRatio 0x0E
  needAdmitted (s.planRefusal (s.clocks.plan cc f p cp))
  let k := s.clocks
  need (!(k.refsLost.contains .xi && (cc ≠ k.cclkMax || f ≠ k.fclk || cp ≠ k.cpClk))) eState
  .ok (s.armChange (.plan r cc f p cp) [k.cclkMax, k.fclk, k.pclk, k.cpClk, k.cclk], .later)

/-! ### The units of a change (Table 13.2) -/

/-- The member heads of a commit group, those that have applied among them. -/
def State.groupHeads (s : State) (r : CmdRef) : List Nat :=
  (s.disp.commits.filter (fun k => k.ref = r)).flatMap (fun k => k.members.map (·.head)) ++
    (s.disp.undos.filter (fun u => u.ref = r)).map (·.head)

/-- The cluster that a unit of a change is. -/
def State.armCluster (s : State) : ArmUnit → Option Nat
  | .head h => (s.head h).cluster
  | .cluster n => some n
  | .unit ty i => if ty = 5 then some i else none

/-- The domains of a unit of a change (Table 16.4). -/
def State.armDomains (s : State) (u : ArmUnit) : List Nat :=
  match s.armCluster u, u with
  | some n, _ => clusterDomains n
  | none, .unit ty i => if laterUnits.contains (ty, i) then (unitDomain ty i).toList else []
  | none, _ => []

/-- Whether a mode change affects a domain: it is powered in one of the two modes alone (R345, R423). -/
def State.modeAffects (s : State) (m : Mode) (d : Nat) : Bool :=
  let t : State := { s with power := { s.power with
    mode := m, tellHead := if m = Mode.tell then s.chooseTellHead else none, keptDomains := [] } }
  t.domainOn d != s.domainOn d

/-- Whether a unit takes part in a change (Table 13.2): a group's member clusters; for CCLK and the clock plan every cluster in
state Active, Spare or Suspect; for a mode change every unit whose domains it affects. Units left out do not. -/
def State.takesPart (s : State) (a : ArmChange) (u : ArmUnit) : Bool :=
  !a.leftOut.contains u && (match a.kind with
    | .group r => match s.armCluster u with
      | some n => n < 10 && (s.groupHeads r).any (fun h => (s.head h).cluster = some n)
      | none => false
    | .cclk _ => match s.armCluster u with
      | some n => n < 10 && [Service.active, Service.spare, Service.suspect].contains (s.cluster n).service
      | none => false
    | .plan .. => match s.armCluster u with
      | some n => n < 10 && [Service.active, Service.spare, Service.suspect].contains (s.cluster n).service
      | none => false
    | .mode => match s.power.change with
      | some m => (s.armDomains u).any (fun d => decide (d ≤ 135) && s.modeAffects m.target d)
      | none => false)

/-- Whether a change that is no commit group is armed by now: it waits for commit groups and changes that came before it (R348). -/
def Display.armedNow (d : Display) (id : Nat) : Bool := !d.groupBefore id && !d.openArms.any (fun a => decide (a.id < id))

/-- Whether a Meridian time has come; while Meridian stands still for a sleep, nothing waits for one. -/
def State.hasCome (s : State) (t : Meridian) : Bool := !s.time.running || decide (0 ≤ meridianDiff s.now t)

/-! ### Arm deadlines -/

/-- The attempts in a row that each unit has missed, after one more deadline (R346). -/
def missCount (old : List (ArmUnit × Nat)) (unarmed : List ArmUnit) : List (ArmUnit × Nat) :=
  unarmed.map (fun u => (u, ((old.find? (fun e => e.1 = u)).map Prod.snd).getD 0 + 1))

/-- Change an armed change. -/
def State.modArm (id : Nat) (f : ArmChange → ArmChange) (s : State) : State :=
  s.modDisp (fun d => { d with arms := d.arms.map (fun a => if a.id = id then f a else a) })

/-- The heads that the units of a group serve. -/
def State.unitHeads (s : State) (us : List ArmUnit) : List Nat :=
  us.filterMap (fun u => (s.armCluster u).bind (fun n => (s.cluster n).head))

/-- The arm deadline has passed for a unit (Table 13.2): a member's commit deadline, or 20 µs before the apply time. -/
def State.deadlinePassed (s : State) (a : ArmChange) (u : ArmUnit) : Bool :=
  match a.kind with
  | .group r => match s.disp.commits.find? (fun k => k.ref = r) with
    | none => false
    | some k => (s.unitHeads [u]).any (fun h => s.misses h k.notBefore)
  | _ => s.hasCome (a.applyAt - BitVec.ofNat 64 (ticksOfUs 20))

/-- ARM_DEADLINE (R346): where a unit has not armed, no unit applies, and the change is armed again. A unit that fails a
third time in a row is marked Suspect and left out. -/
def State.armDeadline (id : Nat) (unarmed : List ArmUnit) (s : State) : State :=
  match s.disp.arms.find? (fun a => a.id = id) with
  | none => s
  | some a =>
    let us := unarmed.filter (fun u => s.takesPart a u && s.deadlinePassed a u)
    let started := match a.kind with
      | .group r => !s.disp.commits.any (fun k => k.ref = r && !k.members.any (·.applied))
      | _ => a.applied || !s.disp.armedNow a.id
    if us.isEmpty || started then s
    else
      let counts := missCount a.missed us
      let out := (counts.filter (fun e => decide (3 ≤ e.2))).map Prod.fst
      let s := out.foldl (fun s u => s.markSuspect u) s
      let s := s.modArm id (fun a => { a with
        attempt := a.attempt + 1
        missed := counts.filter (fun e => decide (e.2 < 3))
        leftOut := a.leftOut ++ out
        applyAt := a.applyAt + BitVec.ofNat 64 msTicks })
      match a.kind with
      | .group r =>
        s.modDisp (fun d => { d with commits := d.commits.map (fun k =>
          if k.ref = r then { k with
            late := true, attempt := k.attempt + 1
            wait := k.members.map (·.head) ++ s.unitHeads (a.leftOut ++ out) }
          else k) })
      | .mode => { s with power := { s.power with change := s.power.change.map (fun m =>
          { m with applyAt := m.applyAt + BitVec.ofNat 64 msTicks }) } }
      | _ => s

def execArmDeadline (dt id : Nat) (unarmed : List ArmUnit) (s : State) : Host.Outcome State Fault Refusal :=
  .next ((s.tick dt).armDeadline id unarmed)

/-! ### Apply times -/

/-- The CCLK that a unit runs at. -/
def Clocks.unitCclk (k : Clocks) (u : ArmUnit) : Nat := ((k.keeps.find? (fun e => e.1 = u)).map Prod.snd).getD k.cclk

/-- Units that a change leaves out keep the CCLK that they have in `old`, and the others follow (R346). -/
def State.keepUnits (us : List ArmUnit) (old : Clocks) (s : State) : State :=
  { s with clocks := { s.clocks with keeps := us.map (fun u => (u, old.unitCclk u)) } }

/-- APPLY_TIME (R346, R348): at or after the apply time, once the changes before it are done, the change applies. -/
def State.applyTime (id : Nat) (s : State) : State :=
  match s.disp.arms.find? (fun a => a.id = id) with
  | none => s
  | some a =>
    let group := match a.kind with | .group _ => true | _ => false
    if group || a.applied || !s.disp.armedNow id || !s.hasCome a.applyAt then s
    else
      let k := s.clocks
      let s := s.modArm id (fun a => { a with applied := true, appliedAt := s.now, oldKeeps := k.keeps })
      match a.kind with
      | .cclk n => ({ s with clocks := { k with cclk := min n k.cclkMax } }).keepUnits a.leftOut k
      | .plan r cc f p cp => (({ s with clocks := k.plan cc f p cp }).keepUnits a.leftOut k).completeOk r []
      | .mode =>
        match s.power.change with
        | some m =>
          if m.applied then s
          else
            let kept := (a.leftOut.flatMap (fun u => s.armDomains u)).map (fun d => (d, s.domainOn d))
            let s := s.modArm id (fun a => { a with oldDomains := s.power.keptDomains })
            ({ s with power := { s.power with keptDomains := kept } }).applyMode m
        | none => s
      | _ => s

def execApplyTime (dt id : Nat) (s : State) : Host.Outcome State Fault Refusal := .next ((s.tick dt).applyTime id).advanced

/-! ### A failure at the apply time (R347) -/

/-- The Legend type and instance of a unit, for the words of E_APPLY_FAILED. -/
def State.unitName (s : State) : ArmUnit → Nat × Nat
  | .head h => (5, (s.head h).cluster.getD 0xFF)
  | .cluster n => (5, n)
  | .unit ty i => (ty, i)

/-- A frame later (R347): the longest frame period of the heads with timing in whole milliseconds, or 1 ms. -/
def State.frameLater (s : State) : Meridian :=
  let longest := (((List.range 8).filterMap (fun h => (s.head h).timing.map (fun t => t.lineTicks t.vTotal))).foldl max 0)
  BitVec.ofNat 64 (max 1 (ceilDiv longest msTicks) * msTicks)

/-- A record still held becomes the failure's; a command not complete completes with it. -/
def State.failRecord (r : CmdRef) (ws : List Word) (s : State) : State :=
  let held := ((s.tenant? r.tenant).map (fun x => x.mbox.held.any (fun k => k.ref = r))).getD false
  if held then s.modMbox r.tenant (fun m => { m with held := m.held.map (fun k =>
    if k.ref = r then { k with status := eApplyFailed, detail := noField, words := ws } else k) })
  else if s.flights.any (fun f => f.is r && f.stage ≠ .formed) then s.complete r eApplyFailed noField ws
  else s

/-- A failed commit group (R347): members that applied roll back at their next boundary, and the state of the others is
staged again, under what the issuer has staged since. The unit that failed has not applied, so its heads `at_` keep the old state
at once, and so do heads that have no boundaries. -/
def State.failGroup (r : CmdRef) (at_ : List Nat) (ws : List Word) (s : State) : State :=
  let s := s.modDisp (fun d => { d with undos := d.undos.map (fun u => if u.ref = r then { u with back := true } else u) })
  let s := match s.disp.commits.find? (fun k => k.ref = r) with
    | none => s
    | some k =>
      let s := (k.members.filter (fun (m : Member) => !m.applied)).foldl (fun (s : State) (m : Member) =>
        s.modStage m.head r.tenant (fun g => g.merge m.stage)) s
      s.modDisp (fun d => { d with commits := d.commits.filter (fun k => k.ref ≠ r) })
  let s := ((List.range 8).filter (fun h => at_.contains h || !(s.head h).boundaries)).foldl (fun s h => (s.rollAtBoundary h).1) s
  s.failRecord r ws

/-- Whether 2 µs have passed since an instant (R347). -/
def State.ackDue (s : State) (t : Meridian) : Bool := decide (ticksOfUs 2 ≤ s.since t)

/-- When a group's members among some heads applied: at their last boundary. -/
def State.appliedAt (s : State) (r : CmdRef) (hs : List Nat) : Option Meridian :=
  ((s.disp.undos.find? (fun u => u.ref = r && hs.contains u.head)).map (fun u => u.at_))

/-- APPLY_ACK_TIMEOUT (R347): a unit that has not acknowledged 2 µs after the apply time is marked Suspect, and the change is to
roll back one frame later. -/
def State.ackTimeout (id : Nat) (u : ArmUnit) (s : State) : State :=
  match s.disp.arms.find? (fun a => a.id = id) with
  | none => s
  | some a =>
    let (ty, i) := s.unitName u
    if !s.takesPart a u then s
    else match a.kind with
    | .group r =>
      let hs := s.unitHeads [u]
      match s.appliedAt r hs with
      | none => s
      | some t => if s.ackDue t then (s.markSuspect u).failGroup r hs [word ty, word i] else s
    | _ =>
      if !a.applied || a.failed.contains u || !s.ackDue a.appliedAt then s
      else
        let s := (s.markSuspect u).modArm id (fun a => { a with
          failed := a.failed ++ [u], applyAt := if a.failed.isEmpty then a.applyAt + s.frameLater else a.applyAt })
        match a.kind with
        | .cclk _ => { s with clocks := { s.clocks with keeps := s.clocks.keeps ++ [(u, a.old.getLastD s.clocks.cclk)] } }
        | .plan r .. =>
          ({ s with clocks := { s.clocks with keeps := s.clocks.keeps ++ [(u, a.old.getLastD s.clocks.cclk)] } }).failRecord r []
        | .mode =>
          let kept := (s.armDomains u).map (fun d => (d, s.domainOn d))
          let s := { s with power := { s.power with keptDomains := s.power.keptDomains ++ kept } }
          match s.power.change.bind (·.ref) with
          | some r => s.failRecord r []
          | none => s
        | _ => s

def execApplyAckTimeout (dt id : Nat) (u : ArmUnit) (s : State) : Host.Outcome State Fault Refusal :=
  .next ((s.tick dt).ackTimeout id u).advanced

/-- A mode change that failed is undone: what it stopped runs again, and MODE_CHANGED carries cause 5. -/
def State.undoMode (s : State) : State :=
  match s.power.change with
  | none => s
  | some m =>
    let s : State := { s with power := { s.power with
      change := none, tellHead := if s.power.mode = Mode.tell then s.power.tellHead else none } }
    let s : State := if m.target.sleeps then
        { (s.resumeMeridian) with audio := { s.audio with muted := s.power.pwrfail } }
      else if m.cause = 2 then s.unlatch else s
    let hs := if s.power.mode = .tell then s.power.tellHead.toList else List.range 8
    let s := hs.foldl (fun s h => s.restartHead h) s
    ((s.modeReport m.target s.power.mode 5).startQueued).forceDue

/-- ROLLBACK (R347): at or after the time of the way back. A commit group's way back is taken at each member's boundary. -/
def State.rollback (id : Nat) (s : State) : State :=
  match s.disp.arms.find? (fun a => a.id = id) with
  | none => s
  | some a =>
    if a.failed.isEmpty || !s.disp.armedNow id || !s.hasCome a.applyAt then s
    else
      let s := s.modDisp (fun d => { d with arms := d.arms.filter (fun a => a.id ≠ id) })
      match a.kind with
      | .cclk _ =>
        ({ s with clocks := { s.clocks with cclk := a.old.headD s.clocks.cclk, keeps := a.oldKeeps } }).modGov (fun g =>
          { g with downAt := none, upAt := none })
      | .plan .. =>
        match a.old with
        | [cm, f, p, cp, c] => { s with clocks := { s.clocks with
            cclkMax := cm, fclk := f, pclk := p, cpClk := cp, cclk := c, keeps := a.oldKeeps } }
        | _ => s
      | .mode => ({ s with power := { s.power with keptDomains := a.oldDomains } }).undoMode
      | _ => s

def execRollback (dt id : Nat) (s : State) : Host.Outcome State Fault Refusal := .next ((s.tick dt).rollback id)

end Sys2Proof.Machine
end

