-- ==== Sys2Proof/Machine/Ports.lean ====
section
/-! DEFINITION. Display ports: link training, HPD and starved streams (R23, R306, R308), AUX transactions (R544), and
frame lock across parts (R26 to R32). -/

namespace Sys2Proof.Machine

/-! ### AUX transactions (R544) -/

/-- Whether a request code is one of Table 11.16. -/
def auxRequestOk (r : Nat) : Bool := [0x8, 0x9, 0, 4, 1, 5, 2, 6].contains r
/-- A request that reads. -/
def auxReads (r : Nat) : Bool := r = 0x9 || r = 1 || r = 5

/-- A transaction ends with a result, its byte count and the bytes read (Table 11.17). -/
def Port.auxEnd (q : Port) (result count : Nat) (data : List Byte) : Port :=
  { q with
    auxBusy := false, auxWait := false, auxDone := true, auxResult := result, auxCount := count
    auxData := if data.isEmpty then q.auxData else (List.range 4).map (fun k =>
      let old := leBytes 4 (q.auxData.getD k 0).toNat
      word (leNat ((List.range 4).map (fun j => (data[4 * k + j]?).getD (old.getD j 0))))) }

/-- A write of AUX_CTL (R544): a start runs, waits for the CP's use of the channel, or is discarded; a reserved request,
or HPD low, ends it at once. -/
def State.auxStart (p : Nat) (v : Word) (cpUses : Bool) (s : State) : State :=
  if !v.getLsbD 31 then s.modPort p (fun q => { q with auxCtl := v &&& 0xF0F })
  else if (s.portAt p).auxBusy then (s.modPort p (fun q => { q with auxOverrun := true })).hwMark (.auxOverrun p)
  else s.modPort p (fun q =>
    let q := { q with auxCtl := v &&& 0xF0F, auxDone := false, auxBusy := true, auxWait := cpUses }
    if !cpUses && (!q.hpd || !auxRequestOk (bits v.toNat 3 0)) then q.auxEnd 6 0 [] else q)

def execAuxCtlStart (dt p : Nat) (v : Word) (cpUses : Bool) (s : State) : Host.Outcome State Fault Refusal :=
  .next ((s.tick dt).auxStart p v cpUses)

/-- The result that a reply's code gives (Table 11.17). -/
def auxCodeResult : AuxCode → Nat
  | .ack => 0 | .nack => 1 | .defer => 2 | .i2cNack => 3 | .i2cDefer => 4

/-- AUX_TRANSACTION_END (R544): a read counts the bytes that came, a write those that the sink accepted. -/
def State.auxTransactionEnd (p : Nat) (reply : AuxReply) (s : State) : State :=
  let q := s.portAt p
  let r := bits q.auxCtl.toNat 3 0
  let n := bits q.auxCtl.toNat 11 8 + 1
  if !q.auxBusy || (q.auxWait && q.training) then s
  else if !q.hpd || !auxRequestOk r then s.modPort p (fun q => q.auxEnd 6 0 [])
  else match reply with
    | .timeout => s.modPort p (fun q => q.auxEnd 5 0 [])
    | .reply k accepted d =>
      if auxReads r then
        (s.modPort p (fun q => q.auxEnd (auxCodeResult k) (min n d.length) (d.take n))).hwMark (.auxData p)
      else s.modPort p (fun q => q.auxEnd (auxCodeResult k) (min n accepted) [])

/-- A transaction that waited for the CP's use of the channel begins (R544). -/
def Port.auxTurn (q : Port) : Port :=
  if !q.auxBusy || !q.auxWait || q.training then q
  else if !q.hpd || !auxRequestOk (bits q.auxCtl.toNat 3 0) then q.auxEnd 6 0 []
  else { q with auxWait := false }

def execAuxTransactionEnd (dt p : Nat) (reply : AuxReply) (s : State) : Host.Outcome State Fault Refusal :=
  .next ((s.tick dt).auxTransactionEnd p reply)

/-! ### Links -/

/-- PORT_STATE (R308) to the platform tenant. -/
def State.portState (p what w2 w3 : Nat) (s : State) : State := s.event 0 0x0806 [word p, word what, word w2, word w3]

/-- The heads of a route learn their port and stream, or lose them. -/
def State.setRouteHeads (p : Nat) (r : Route) (on : Bool) (s : State) : State :=
  (r.heads.zipIdx).foldl (fun s e => match e.1 with
    | none => s
    | some h => s.modHead h (fun x => { x with port := if on then some (p, e.2) else none })) s

/-- LINK_TRAINING_DONE (R306): the route is in place and sends, or is removed. DEDUCED (assumption 29): the record
tells of it, and PORT_STATE only of what follows HPD and starved streams (R308). -/
def State.trainingDone (p : Nat) (ok : Bool) (lanes rate : Nat) (s : State) : State :=
  let q := s.portAt p
  match q.pend with
  | [] => s
  | w :: rest =>
    if !q.training then s
    else
      let s := match q.route with
        | none => s
        | some old => s.setRouteHeads p old false
      let s := if ok then
          (s.setRouteHeads p w.route true).modPort p (fun q => { q with
            route := some w.route, pend := rest, training := false, trained := true, sending := !s.power.pwrfail, hpd := true
            gotLanes := lanes, gotRate := rate, starved := [] })
        else s.modPort p (fun q => { q.unrouted with pend := rest })
      let s := match w.ref with
        | none => s
        | some r => if ok then s.completeOk r [] else s.complete r eLinkTrain noField [word lanes, word rate]
      (s.nextRoute p rest.length).modPort p Port.auxTurn

def execLinkTrainingDone (dt p : Nat) (ok : Bool) (lanes rate : Nat) (s : State) : Host.Outcome State Fault Refusal :=
  .next ((s.tick dt).trainingDone p ok lanes rate)

/-- HPD_FALL (R308): a routed port stops sending; the head scans on. An AUX transaction ends at once (R544). -/
def State.hpdFall (p : Nat) (s : State) : State :=
  let q := s.portAt p
  let s := s.modPort p (fun q =>
    { (if q.auxBusy then q.auxEnd 6 0 [] else q) with
      hpd := false, sending := false, trained := false, gotLanes := 0, gotRate := 0 })
  if q.route.isSome && q.hpd then s.portState p 0 q.gotLanes q.gotRate else s

def execHpdFall (dt p : Nat) (s : State) : Host.Outcome State Fault Refusal := .next ((s.tick dt).hpdFall p)

/-- HPD_RISE (R308): a routed port retrains up to three times; `attempts` are the outcomes. -/
def State.hpdRise (p : Nat) (attempts : List Bool) (s : State) : State :=
  let q := s.portAt p
  let s := s.modPort p (fun q => { q with hpd := true })
  match q.route with
  | none => s
  | some r =>
    if q.sending then s
    else if (attempts.take 3).any id then
      (s.modPort p (fun q => { q with trained := true, sending := !s.power.pwrfail, gotLanes := r.lanes, gotRate := r.rate })).portState
        p 1 r.lanes r.rate
    else s.portState p 2 r.lanes r.rate

def execHpdRise (dt p : Nat) (attempts : List Bool) (s : State) : Host.Outcome State Fault Refusal :=
  .next ((s.tick dt).hpdRise p attempts)

/-- PORT_PIXEL_NEED (R23): with an empty queue the port sends its last pixel again and counts it. -/
def State.pixelNeed (p stream : Nat) (empty : Bool) (s : State) : State :=
  if empty && s.portSends p then
    s.modPort p (fun q => { q with
      starved := IMap.put q.starved stream (satInc 0xFFFFFFFF (IMap.get q.starved 0 stream) 1) })
  else s

def execPortPixelNeed (dt p stream : Nat) (empty : Bool) (s : State) : Host.Outcome State Fault Refusal :=
  .next ((s.tick dt).pixelNeed p stream empty)

/-! ### Frame lock (R28 to R32) -/

/-- The source's frame period (R28) is the time between two edges that follow each other: not over a gap of two periods or
more, and not over a loss. -/
def Display.noteEdge (d : Display) (now : Meridian) : Display :=
  match d.fsyncAt with
  | none => { d with fsyncAt := some now }
  | some a =>
    let n := (now - a).toNat
    let gap := !d.fsyncGap && (match d.fsyncPeriod with | none => false | some p => decide (2 * p ≤ n))
    { d with fsyncAt := some now, fsyncGap := gap, fsyncPeriod := if gap then d.fsyncPeriod else some n }

/-- FSYNC_EDGE (R28, R29, R30). -/
def State.fsyncEdge (s : State) : State :=
  let s := s.modDisp (fun d => d.noteEdge s.now)
  match (List.range 8).find? (fun h => (s.head h).lock.role = 2) with
  | none => s
  | some h =>
    let s := s.modHead h (fun x => { x with lock := { x.lock with lost := false } })
    s.lockMeasure h (s.phaseError h s.now)

def execFsyncEdge (dt : Nat) (s : State) : Host.Outcome State Fault Refusal := .next (s.tick dt).fsyncEdge

/-- A follower loses its source (R30): it holds its trim and runs free, and from then on corrects by trim alone. -/
def LockState.lose (k : LockState) : LockState := { k with lost := true, good := 0, stretched := true }

/-- Whether no edge has come for two expected frame periods (R30). -/
def State.edgesMissing (s : State) (h : Nat) : Bool :=
  match s.disp.fsyncAt with
  | none => true
  | some a =>
    let frame := ((s.head h).timing.map (fun t => t.lineTicks t.vTotal)).getD 1
    decide (2 * s.disp.fsyncPeriod.getD frame ≤ (s.now - a).toNat)

/-- FSYNC_LOST (R30). -/
def State.fsyncLost (s : State) : State :=
  match (List.range 8).find? (fun h => (s.head h).lock.role = 2) with
  | none => s
  | some h =>
    if s.edgesMissing h then
      (s.modHead h (fun x => { x with lock := x.lock.lose })).modDisp (fun d => { d with fsyncAt := none })
    else s

def execFsyncLost (dt : Nat) (s : State) : Host.Outcome State Fault Refusal := .next (s.tick dt).fsyncLost

/-- GPTP_STATE_CHANGE (R30, R32): the relation between gPTP and Meridian, and a Time-role head's loss where no MAC of the part is
synchronised. -/
def State.gptpChange (mac : Nat) (synced : Bool) (offset : Int) (ratio : Nat) (s : State) : State :=
  let s := s.modDisp (fun d => { d with gptp := IMap.put d.gptp mac (synced, offset, ratio) })
  let s := { s with eth := IMap.put s.eth mac { IMap.get s.eth {} mac with ptp := synced } }
  let lost := s.gptpRelation.isNone
  (List.range 8).foldl (fun s h =>
    if (s.head h).lock.role = 3 then
      s.modHead h (fun x => { x with lock := if lost then x.lock.lose else { x.lock with lost := false } }) else s) s

def execGptpStateChange (dt mac : Nat) (synced : Bool) (offset : Int) (ratio : Nat) (s : State) :
    Host.Outcome State Fault Refusal := .next ((s.tick dt).gptpChange mac synced offset ratio)

end Sys2Proof.Machine
end

