-- ==== Sys2Proof/Machine/Windows.lean ====
section
/-! DEFINITION. The register windows that the Legend records: what each unit type's registers read (Tables 4.4 to 19.9) and
what a write does to them by its access type (R9 to R11). -/

namespace Sys2Proof.Machine

/-- A flag at a bit. -/
def flagAt (b : Bool) (i : Nat) : Nat := if b then 2 ^ i else 0

/-- The sum of some flags and fields as a word. -/
def fields (xs : List Nat) : Word := word xs.sum

/-- The head that a cluster serves, with its last frame's counters. -/
def State.servedHead (s : State) (k : Nat) : Option (Nat × Head) := ((s.cluster k).head).map (fun h => (h, s.head h))

/-! ### Units of a cluster: their counters read 0 while the unit serves no head -/

/-- GFETCH (Table 5.14). -/
def Head.gfetchReg (x : Head) (j off : Nat) : Word :=
  let n (slot : Nat) : Nat := min 0xFFFF (((IMap.find? x.last.dataErr slot).map (fun t => t.count)).getD 0)
  if off = 0x40 then fields [n (2 * j + 1) * 2 ^ 16, n (2 * j)] else 0

/-- OBJEV (Tables 5.15, 5.16) of a cluster: ovf and first_line keep their values also while it serves no head (R148). -/
def Cluster.objevReg (k : Cluster) (x : Option Head) (off : Nat) : Word :=
  let last : FrameStats := (x.map (·.last)).getD {}
  match off with
  | 0x40 => fields [flagAt k.ovf.isSome 31, k.ovf.getD 0 % 4096 * 2 ^ 16, min 0xFFFF last.ovfLines]
  | 0x44 => fields [last.maxObjects * 2 ^ 16, last.maxPixels]
  | _ => 0

/-- CANVAS (Tables 6.9, 6.10): unit `j` holds slots 20 + 2j and 21 + 2j. -/
def Head.canvasReg (x : Head) (j off : Nat) : Word :=
  let half (slot : Nat) : Nat := match IMap.find? x.planes slot with
    | none => 0
    | some p =>
      let poly := p.content.params.any (·.needsPoly) && p.poly.isSome
      flagAt p.content.canvas.isSome 3 + flagAt poly 2 + (if poly then p.poly.getD 0 % 4 else 0)
  let px (slot : Nat) : Nat := IMap.get x.last.srcPixels 0 slot
  match off with
  | 0x40 => fields [half (21 + 2 * j) * 16, half (20 + 2 * j)]
  | 0x44 => word (min 0xFFFFFFFF (px (20 + 2 * j) + px (21 + 2 * j)))
  | _ => 0

/-- CONTOUR (Tables 6.11, 6.12). -/
def Head.contourReg (x : Head) (off : Nat) : Word :=
  match off with
  | 0x40 => fields [x.last.peakLine * 2 ^ 16, x.last.peakEdges]
  | 0x44 => word (x.planes.map (fun e => e.2.content.edges.length)).sum
  | _ => 0

/-- BLEND (Tables 7.5 to 7.7). -/
def Head.blendReg (x : Head) (off : Nat) : Word :=
  match off with
  | 0x40 => word (min 0xFFFFFFFF x.last.overdraw)
  | 0x44 => match x.last.overPos with
    | none => 0
    | some (px, y) => fields [2 ^ 31, y * 2 ^ 16, px]
  | 0x48 => fields [x.last.maxOffered * 2 ^ 16, x.last.maxKept]
  | _ => 0

/-- LLIST (Table 8.11). -/
def Head.llistReg (x : Head) (off : Nat) : Word :=
  if off = 0x40 then
    fields [x.last.peakWrites * 2 ^ 16, min 0xFFFF (x.last.orphans.map (fun e => e.2.count)).sum]
  else 0

/-- TABCORE.THREAD's state code (Table 10.6). -/
def Thread.stateCode (k : Thread) : Nat :=
  match k.state with
  | .loaded => 1
  | .waiting => if k.fast.isSome then 4 else 2
  | .serving => if k.fast.isSome then 4 else 3
  | .faulted => 5
  | .halted => 6

/-- TABCORE (Tables 9.13, 10.6, 10.7): core `j` of the cluster. -/
def State.tabcoreReg (s : State) (h : Nat) (x : Head) (j off : Nat) : Word :=
  if off = 0x44 then
    fields [min 0xFF (((x.last.tabOver.filter (fun e => slotCore e.1 = j)).map (fun e => e.2.count)).sum) * 2 ^ 24,
      min 0xFF (IMap.get x.last.tabDropped 0 j) * 2 ^ 16, min 0xFFFF (IMap.get x.last.tabSkipped 0 j)]
  else if 0x80 ≤ off ∧ off < 0xA0 then
    match s.thread? h (8 * j + (off - 0x80) / 4) with
    | none => 0
    | some k => fields [k.regs.fault % 16 * 2 ^ 28, k.stateCode * 2 ^ 25, min 0xFFFF k.lastCharge]
  else 0

/-- A register of a unit whose parent is a cluster. -/
def State.clusterReg (s : State) (ty i off : Nat) : Word :=
  if ty = 0x0108 ∧ off = 0x40 then word ((s.ucode.entries.map (fun e => 2 ^ e.1)).sum)
  else if ty = 0x0101 then (s.cluster i).objevReg ((s.servedHead i).map Prod.snd) off
  else match (unitCluster ty i).bind s.servedHead with
    | none => 0
    | some (h, x) => match ty with
      | 0x0100 => x.gfetchReg (i % 8) off
      | 0x0102 => x.canvasReg (i % 4) off
      | 0x0103 => x.contourReg off
      | 0x0104 => x.llistReg off
      | 0x0107 => x.blendReg off
      | 0x0108 => s.tabcoreReg h x (i % 2) off
      | _ => 0

/-! ### Scan engines -/

/-- The code of a scan state (Table 11.11). -/
def ScanState.code : ScanState → Nat
  | .off => 0 | .starting => 1 | .composing => 2 | .still => 3 | .changing => 4

/-- HEAD[n] (Tables 7.8, 8.7 to 8.10, 11.11 to 11.13, 12.8 to 12.10, 13.7). -/
def Head.scanReg (x : Head) (off : Nat) : Word :=
  match off with
  | 0x080 => fields [x.phase % 4 * 2 ^ 6, x.dmode % 4 * 2 ^ 2, x.depth % 2]
  | 0x090 => fields [flagAt x.lead.capped 31, x.lead.calm % 64 * 2 ^ 12, x.lead.lead % 4096]
  | 0x094 => fields [x.lead.max % 4096 * 2 ^ 16, x.lead.min % 4096]
  | 0x098 => match x.comp.shownMargin with
    | none => 0
    | some (m, y) => fields [y % 4096 * 2 ^ 16, wrapTo 16 (clampInt (-32768) 32767 m)]
  | 0x09C => fields [x.frames.toNat % 2 ^ 20 * 2 ^ 12, x.line % 4096]
  | 0x0A0 => fields [(x.port.map (fun p => p.1 % 8 * 2 ^ 21 + 2 ^ 20 + p.2 % 2 * 2 ^ 19)).getD 0, flagAt x.lock.locked 18,
      flagAt x.lock.lost 17, flagAt x.lowered 16, flagAt ((x.timing.map (fun t => t.dual)).getD false) 4, x.state.code]
  | 0x0A4 => fields [min 0xFFFF x.underruns * 2 ^ 16, x.lastRepeatLines % 4096]
  | 0x0A8 => fields [flagAt x.capture.isSome 31, min 0x7FFF x.capTruncated * 2 ^ 16, min 0xFFFF x.capSkipped]
  | 0x0AC => word (x.frameTime % 2 ^ 24)
  | 0x0B0 => fields [flagAt x.fallbackOn 31, flagAt (!x.pins.isEmpty) 30, x.shown.length % 128 * 2 ^ 16,
      (x.cells.filter (fun e => e.2.blink)).length % 128]
  | 0x0B4 => fields [(x.regions.map (fun e => 2 ^ (16 + e.1))).sum,
      ((x.regions.filter (fun e => e.2.fault)).map (fun e => 2 ^ e.1)).sum]
  | 0x100 => fields [min 0xFFFF x.fenced * 2 ^ 16, x.epoch % 2 ^ 16]
  | _ =>
    if 0x0C0 ≤ off ∧ off < 0x100 then ((IMap.find? x.regions ((off - 0x0C0) / 4)).map (fun r => r.last)).getD 0 else 0

/-! ### Units of the die -/

/-- BANK (Table 4.4, R543). -/
def Bank.reg (b : Bank) (off : Nat) : Word :=
  match off with
  | 0x40 => fields [b.ueCount * 2 ^ 24, b.collide * 2 ^ 16, b.ceCount]
  | 0x44 => b.errAddr
  | _ => 0

/-- CSTORE (Tables 12.11, 12.12). -/
def CStore.reg (k : CStore) (off : Nat) : Word :=
  match off with
  | 0x40 => fields [min 0xFF k.ue * 2 ^ 24, min 0xFFFF k.ce]
  | 0x44 => fields [k.imagePages * 2 ^ 16, 1024 - k.used.length]
  | _ => 0

/-- DPTX and APTX (Tables 11.14 to 11.18); `dp` tells DisplayPort from A-PHY, and `sends` whether pictures go out. -/
def Port.reg (q : Port) (dp sends : Bool) (off : Nat) : Word :=
  match off with
  | 0x50 => q.auxAddr
  | 0x54 => q.auxCtl
  | 0x58 => fields [flagAt q.auxBusy 31, flagAt q.auxDone 30, flagAt q.auxOverrun 29, q.auxCount % 32 * 2 ^ 8,
      q.auxResult % 8]
  | 0x60 => fields [flagAt q.hpd 31, flagAt (q.trained && sends) 30, q.gotRate % 256 * 2 ^ 8,
      if q.gotLanes = 0 then 0 else if dp then q.gotLanes % 8 else 1]
  | _ => if 0x40 ≤ off ∧ off < 0x50 then q.auxData.getD ((off - 0x40) / 4) 0 else 0

/-- AUDIO.VOICE's state (Table 14.10). -/
def Voice.stateCode (x : Voice) (v : Nat) : Nat :=
  if v < 96 ∧ x.owner = none then 0
  else if x.fault ≠ 0 then 6
  else match x.phase with
    | .idle => 1 | .attack => 2 | .decay => 3 | .sustain => 4 | .release => 5

/-- AUDIO (Tables 14.9 to 14.12). -/
def State.audioReg (s : State) (off : Nat) : Word :=
  if 0x40 ≤ off ∧ off < 0x58 then
    let c := s.course ((off - 0x40) / 8)
    if off % 8 = 0 then c.count.truncate 32 else c.latched
  else if 0x100 ≤ off ∧ off < 0x290 then
    let v := (off - 0x100) / 4
    let x := s.voice v
    fields [x.stateCode v * 2 ^ 29, x.course % 4 * 2 ^ 27, x.kind % 8 * 2 ^ 24, min 0xFFFF x.starved]
  else if 0x300 ≤ off ∧ off < 0x340 then
    let b := s.bus ((off - 0x300) / 4)
    if b.owner.isNone then 0
    else fields [2 ^ 31, flagAt b.set.cart 30, flagAt (decide (b.limG < 65536)) 29, b.set.course % 4 * 2 ^ 27,
      (b.set.channels - 1) % 8 * 2 ^ 24, min 0xFFFF b.sat]
  else if 0x380 ≤ off ∧ off < 0x400 then
    let l := s.lane ((off - 0x380) / 4)
    if l.owner.isNone then 0 else fields [2 ^ 31, flagAt l.unlocked 30, l.frac % 1024]
  else 0

/-- ETH (Tables 14.13 to 14.15, R545). -/
def Eth.reg (e : Eth) (off : Nat) : Word :=
  match off with
  | 0x40 => e.mdioCtl
  | 0x44 => fields [flagAt e.busy 31, e.rdata.toNat]
  | 0x80 => word (min 0xFFFFFFFF e.tx)
  | 0x84 => word (min 0xFFFFFFFF e.rx)
  | 0x88 => word (min 0xFFFFFFFF e.fcs)
  | 0x8C => word (min 0xFFFFFFFF e.dropped)
  | 0x90 => fields [flagAt e.ptp 1, flagAt e.link 0]
  | _ => 0

/-- DMA.CH (Table 18.11). -/
def DmaState.code : DmaState → Nat
  | .idle => 0 | .running => 1 | .tokens => 2 | .ring => 3 | .paused => 4

def DmaChannel.reg (c : DmaChannel) (runs : Bool) : Word :=
  fields [flagAt c.owner.isSome 31, (c.shown runs).code * 2 ^ 28, c.owner.getD 0 % 1024 * 2 ^ 16,
    min 0xFFFF (c.jobs.map (fun j => j.descs.length)).sum]

/-- BLIT.STATUS (Table 18.12). -/
def Dma.blitReg (d : Dma) : Word :=
  match d.blitRun with
  | none => word (min 0xFFFF d.blits.length)
  | some b => fields [2 ^ 31, flagAt b.backwards 30, b.op % 4 * 2 ^ 28, b.ref.tenant % 1024 * 2 ^ 16,
      min 0xFFFF d.blits.length]

/-- TMR, CC and PW (Tables 17.5 to 17.7). -/
def State.timerReg (s : State) (off : Nat) : Word :=
  if off = 0x40 then s.time.sleepSlow
  else if 0x100 ≤ off ∧ off < 0x180 then
    let c := s.captureCh ((off - 0x100) / 4)
    if c.owner.isNone then 0
    else fields [2 ^ 31, flagAt c.level 30, c.queue.length % 32 * 2 ^ 16, min 0xFFFF c.dropped]
  else if 0x180 ≤ off ∧ off < 0x1C0 then
    let u := s.pwmUnit ((off - 0x180) / 4)
    fields [flagAt u.running 31, flagAt u.active 30, flagAt u.trunc 29, u.count % 2 ^ 17]
  else 0

/-- Bits of the sources of word `k` for which something holds. -/
def sourceBits (k : Nat) (p : Nat → Bool) : Word :=
  word (((List.range 32).filter (fun i => p (32 * k + i))).map (fun i => 2 ^ i)).sum

/-- INTC.SRC_CFG (Table 18.5). -/
def State.srcReg (s : State) (i : Nat) : Word :=
  let x := s.src i
  let lv := s.isLevel i
  fields [(if lv then 0 else x.count % 256) * 2 ^ 24, flagAt x.overflow 23, flagAt x.latched 22, flagAt x.inService 21,
    flagAt lv 8, flagAt x.fast 4, x.level % 16]

/-- INTC (Tables 18.2 to 18.5, INTC.ACTIVE). -/
def State.intcReg (s : State) (off : Nat) : Word :=
  if 0x40 ≤ off ∧ off < 0x100 then sourceBits ((off - 0x40) / 4 % 16) s.srcPending
  else if 0x100 ≤ off ∧ off < 0x1C0 then sourceBits ((off - 0x100) / 4 % 16) (fun i => (s.src i).enabled)
  else if 0x200 ≤ off ∧ off < 0x280 then
    let g := (off - 0x200) / 4
    fields [flagAt (s.intc.holding.contains g) 31, IMap.get s.intc.holdoff 0 g % 2 ^ 16]
  else if off = 0x280 then
    fields [(s.intc.normal.map (fun i => i + 2 ^ 15)).getD 0, (s.intc.fast.map (fun i => i * 2 ^ 16 + 2 ^ 31)).getD 0]
  else if 0x1000 ≤ off ∧ off < 0x1800 then s.srcReg ((off - 0x1000) / 4)
  else 0

/-- The priority of the function that holds a pin (Table 19.2). -/
def PinFn.priority : PinFn → Nat
  | .safety => 1 | .block _ => 2 | .timer => 3 | .gpio => 4

/-- GPIO.PIN_CFG (Table 19.6). -/
def Pin.cfgReg (x : Pin) : Word :=
  let (k, t) := match x.owner with
    | .cp => (0, 0)
    | .peg => (1, 0)
    | .tenant t => (2, t)
  fields [flagAt x.locked 31, x.holder.priority * 2 ^ 28, k * 2 ^ 26, t % 1024 * 2 ^ 16, x.debounce % 256 * 2 ^ 8,
    x.irqMode % 8 * 2 ^ 5, x.pull % 4 * 2 ^ 3, flagAt x.openDrain 2, x.strength % 4]

/-- GPIO (Tables 19.6 to 19.9). -/
def State.gpioReg (s : State) (b off : Nat) : Word :=
  let half (high : Bool) (f : Pin → Bool) : Word :=
    word (((List.range 16).filter (fun i => f (s.pin (32 * b + (if high then 16 else 0) + i)))).map (fun i => 2 ^ i)).sum
  match off with
  | 0x40 => half false (fun x => x.out)
  | 0x44 => half true (fun x => x.out)
  | 0x48 => half false (fun x => x.oe)
  | 0x4C => half true (fun x => x.oe)
  | 0x50 => sourceBits b (fun p => s.receives p && (s.pin p).ball)
  | 0x60 => word (IMap.get s.pins.intEn 0 b)
  | 0x64 => word (IMap.get s.pins.intEn 0 b)
  | 0x68 => word (IMap.get s.pins.intEn 0 b)
  | _ => if 0x100 ≤ off ∧ off < 0x180 then (s.pin (32 * b + (off - 0x100) / 4)).cfgReg else 0

/-- The PLLs that are locked (Table 16.9): a pixel PLL locks again after a change of timing, an audio PLL after a change of
source. -/
def State.lockedField (s : State) : Nat :=
  let locks (i : Nat) : Bool :=
    if 4 ≤ i ∧ i ≤ 11 then decide ((s.head (i - 4)).state = .starting ∨ (s.head (i - 4)).state = .changing)
    else (i = 12 && s.audio.clkA.locking) || (i = 13 && s.audio.clkB.locking)
  (((List.range 15).filter (fun i => s.clocks.locked.getLsbD i && !locks i)).map (fun i => 2 ^ i)).sum

/-- GOV (Tables 13.8 to 13.10, 16.7 to 16.9). -/
def State.govReg (s : State) (off : Nat) : Word :=
  let g := s.disp.gov
  match off with
  | 0x40 => fields [flagAt g.unanchored 31, flagAt g.thermtrip 30, flagAt s.power.tellForced 29,
      (1000 - s.clocks.cclk) / 125 % 8 * 2 ^ 16, s.levelField]
  | 0x44 => fields [g.sensor % 16 * 2 ^ 16, wrapTo 16 g.tj]
  | 0x48 => fields [min 0xFFFF (g.avg1s / 10) * 2 ^ 16, min 0xFFFF (g.avg1ms / 10)]
  | 0x80 => fields [s.power.cause % 8 * 2 ^ 12, flagAt s.power.servicePinLow 9, flagAt s.power.change.isSome 8,
      (s.power.change.map (fun m => m.target.code)).getD 0 * 2 ^ 4, s.power.mode.code]
  | 0xA4 => fields [flagAt s.clocks.gateRefused 31, s.clocks.lost.toNat * 2 ^ 16, s.lockedField]
  | _ => if 0x90 ≤ off ∧ off < 0xA4 ∧ off % 4 = 0 then s.pdOn ((off - 0x90) / 4) else 0

/-- ARB.STATUS (Table 13.11). -/
def State.arbReg (s : State) (off : Nat) : Word :=
  if off = 0x40 then
    fields ((List.range 6).map (fun a =>
      flagAt ((s.activity (a + 1)).queued.isSome || (a = 3 && !s.disp.arbiter.tests.isEmpty)) (8 + a) + flagAt (s.activity (a + 1)).running a))
  else 0

/-- The Pegbox window (Tables 15.6, 15.7, 17.8). -/
def State.pegReg (s : State) (off : Nat) : Word :=
  let g := s.peg
  match off with
  | 0x40 => fields [g.reqMode % 4 * 2 ^ 8, g.causes % 256 / 2 * 2, flagAt g.latched 0]
  | 0x44 => fields [flagAt g.model.isSome 31, flagAt g.running 30, g.streak % 64 * 2 ^ 24, g.score % 256 * 2 ^ 16,
      min 0xFFFF g.matchCount]
  | 0x48 => fields [flagAt s.time.cal.fired 3, flagAt s.time.cal.alarm.isSome 2, flagAt s.time.cal.ended 1,
      flagAt s.time.cal.valid 0]
  | _ => 0

/-! ### Reads and writes of a window -/

/-- What a register of a unit's window reads; an offset without a register reads 0. -/
def State.windowRead (s : State) (ty i off : Nat) : Word :=
  match ty with
  | 0x0202 => (s.head i).scanReg off
  | 0x0302 => (s.bank i).reg off
  | 0x0303 => s.disp.cart.reg off
  | 0x0308 => (s.portAt i).reg true (s.portSends i) off
  | 0x0309 => (s.portAt (4 + i)).reg false (s.portSends (4 + i)) off
  | 0x030A => s.audioReg off
  | 0x030B => (IMap.get s.eth {} i).reg off
  | 0x030C => if 0x100 ≤ off ∧ off < 0x1C0 then (s.dmaCh ((off - 0x100) / 4)).reg s.enginesRun else 0
  | 0x030D => if off = 0x40 then s.dma.blitReg else 0
  | 0x030E => s.timerReg off
  | 0x030F => s.intcReg off
  | 0x0310 => s.gpioReg i off
  | 0x0311 => s.govReg off
  | 0x0312 => s.arbReg off
  | 0x0313 => s.pegReg off
  | _ => s.clusterReg ty i off

/-- The low word of AUDIO.COURSE_CNT latches its high word (Table 14.9). -/
def State.latchCourse (c : Nat) (s : State) : State :=
  let k : Course := { s.course c with latched := ((s.course c).count >>> 32).truncate 32 }
  s.modAudio (fun a => { a with courses := IMap.put a.courses c k })

/-- What else a read of a register does. -/
def State.windowReadEffect (ty off : Nat) (s : State) : State :=
  if ty = 0x030A ∧ 0x40 ≤ off ∧ off < 0x58 ∧ off % 8 = 0 then s.latchCourse ((off - 0x40) / 8) else s

/-- Whether a frame of a MAC's window runs on the MDC and MDIO pins (R545). -/
def State.mdioRuns (s : State) (m : Nat) : Bool :=
  let e := IMap.get s.eth {} m
  e.busy && !e.waiting

/-- Whether an MDIO_CTL holds a read frame (Table 14.13). -/
def mdioReads (v : Word) : Bool := v.getLsbD 29 && (v.getLsbD 30 || !v.getLsbD 28)

/-- A write of MDIO_CTL (R545): a start while a frame of the window runs or waits is discarded; one while the other
window's frame runs waits. -/
def State.mdioWrite (m : Nat) (v : Word) (s : State) : State :=
  let f := v &&& 0x73FFFFFF
  if !v.getLsbD 31 then s.modEth m (fun e => { e with mdioCtl := f })
  else if (IMap.get s.eth {} m).busy then s
  else s.modEth m (fun e => { e with mdioCtl := f, busy := true, waiting := s.mdioRuns (1 - m), reads := mdioReads v })

/-- An MDIO frame ends (R545): the other window's frame may then run. -/
def State.mdioEnd (m : Nat) (rdata : Half) (s : State) : State :=
  if s.mdioRuns m then
    let s := s.modEth m (fun e => { e with busy := false, rdata := if e.reads then rdata else e.rdata })
    s.modEth (1 - m) (fun e => { e with waiting := false })
  else s

/-- A write to an AUX register (Tables 11.14 to 11.17). PRESUMED (assumption 29): the CP uses the channel while the link trains. -/
def State.auxWrite (p off : Nat) (v : Word) (s : State) : State :=
  match off with
  | 0x50 => s.modPort p (fun q => { q with auxAddr := v &&& 0xFFFFF })
  | 0x54 => s.auxStart p v (s.portAt p).training
  | 0x58 => if v.getLsbD 29 && !s.hwHas (.auxOverrun p) then s.modPort p (fun q => { q with auxOverrun := false }) else s
  | _ => if 0x40 ≤ off ∧ off < 0x50 ∧ s.hwHas (.auxData p) = false then
      s.modPort p (fun q => { q with auxData := modAt q.auxData ((off - 0x40) / 4) (fun _ => v) })
    else s

/-- A write to the interrupt controller (Tables 18.2 to 18.5, R461). -/
def State.intcWrite (off : Nat) (v : Word) (s : State) : State :=
  let edges (k : Nat) : List Nat := (wordSources k v).filter (fun i => !s.isLevel i)
  if 0x80 ≤ off ∧ off < 0xC0 then
    (edges ((off - 0x80) / 4)).foldl (fun s i => s.modSrc i (fun x => { x with count := min 255 (x.count + 1) })) s
  else if 0xC0 ≤ off ∧ off < 0x100 then
    (edges ((off - 0xC0) / 4)).foldl (fun s i => s.clearCount i []) s
  else if 0x140 ≤ off ∧ off < 0x180 then
    (wordSources ((off - 0x140) / 4) v).foldl (fun s i => s.modSrc i (fun x => { x with enabled := true })) s
  else if 0x180 ≤ off ∧ off < 0x1C0 then
    (wordSources ((off - 0x180) / 4) v).foldl (fun s i => s.modSrc i (fun x => { x with enabled := false })) s
  else if 0x200 ≤ off ∧ off < 0x280 then
    { s with intc := { s.intc with holdoff := IMap.put s.intc.holdoff ((off - 0x200) / 4) (v.toNat % 2 ^ 16) } }
  else if 0x1000 ≤ off ∧ off < 0x1800 then
    s.modSrc ((off - 0x1000) / 4) (fun x => { x with
      overflow := x.overflow && !(v.getLsbD 23 && !s.hwHas (.srcOverflow ((off - 0x1000) / 4)))
      latched := x.latched && !(v.getLsbD 22 && !s.hwHas (.srcLatched ((off - 0x1000) / 4)))
      fast := v.getLsbD 4, level := v.toNat % 16 })
  else s

/-- A write to a GPIO controller (Tables 19.7, 19.9). -/
def State.gpioWrite (b off : Nat) (v : Word) (s : State) : State :=
  match off with
  | 0x40 => s.maskedWrite b .out false v
  | 0x44 => s.maskedWrite b .out true v
  | 0x48 => s.maskedWrite b .oe false v
  | 0x4C => s.maskedWrite b .oe true v
  | 0x64 => s.setIntEn b (fun n => n ||| v.toNat)
  | 0x68 => s.setIntEn b (fun n => n &&& (~~~v).toNat)
  | _ => s

/-- A write to a register of a unit's window; read-only fields and offsets without a register ignore it (R9). -/
def State.windowWrite (ty i off : Nat) (v : Word) (s : State) : State :=
  match ty with
  | 0x0308 => s.auxWrite i off v
  | 0x0309 => s.auxWrite (4 + i) off v
  | 0x030B => if off = 0x40 then s.mdioWrite i v else s
  | 0x030E =>
    if 0x180 ≤ off ∧ off < 0x1C0 ∧ v.getLsbD 29 ∧ (IMap.find? s.timers.pwm ((off - 0x180) / 4)).isSome ∧
        s.hwHas (.pwmTrunc ((off - 0x180) / 4)) = false then
      s.setPwm ((off - 0x180) / 4) { s.pwmUnit ((off - 0x180) / 4) with trunc := false }
    else s
  | 0x030F => s.intcWrite off v
  | 0x0310 => s.gpioWrite i off v
  | 0x0311 =>
    if off = 0xA4 then { s with clocks := { s.clocks with
      gateRefused := s.clocks.gateRefused && !(v.getLsbD 31 && !s.hwHas .gateRefused)
      lost := s.clocks.lost &&& ~~~((s.clearBits 15 HwField.pllLost (v >>> 16)).truncate 15) } }
    else s
  | 0x0313 =>
    if off = 0x40 then
      let w := s.clearBits 8 HwField.wakeCause (v &&& 0xFE)
      s.modPeg (fun g => { g with causes := g.causes &&& (~~~w).toNat })
    else if off = 0x48 ∧ v.getLsbD 3 ∧ s.hwHas .calFired = false then { s with time := { s.time with cal := { s.time.cal with fired := false } } }
    else s
  | _ => s

end Sys2Proof.Machine
end

