-- ==== Sys2Proof/Machine/Registers.lean ====
section
/-! DEFINITION. How registers are reached: REG_READ and REG_WRITE (R82 to R84), writes by access type (R8 to R11), host
accesses to BAR0 (R58, R59, R77, R425), and the Ethernet MACs' own events (R545). -/

namespace Sys2Proof.Machine

/-! ### Registers by address -/

/-- The domain of a unit wakes for an access (R424). -/
def State.wakeUnit (ty i : Nat) (s : State) : State :=
  match unitDomain ty i with
  | none => s
  | some d => s.wakeDomain d

/-- Read one register of a unit's window: its value, and the state after it. -/
def State.readReg (u : (Nat × Nat) × Nat) (s : State) : Word × State :=
  let s := s.wakeUnit u.1.1 u.1.2
  (s.windowRead u.1.1 u.1.2 u.2, s.windowReadEffect u.1.1 u.2)

/-- Write one register of a unit's window. -/
def State.writeReg (u : (Nat × Nat) × Nat) (v : Word) (s : State) : State :=
  (s.wakeUnit u.1.1 u.1.2).windowWrite u.1.1 u.1.2 u.2 v

/-! ### REG_READ and REG_WRITE (R82 to R84) -/

/-- Table 3.14 for REG_READ. -/
def readListed (ty : Nat) : Bool := !([0x0300, 0x0303, 0x0313].contains ty)

/-- A GPIO masked register (Table 19.7). -/
def maskedReg (ty off : Nat) : Bool := ty = 0x0310 && [0x40, 0x44, 0x48, 0x4C].contains off

/-- Table 3.14 for REG_WRITE. -/
def writeListed (ty off : Nat) : Bool := [0x0308, 0x0309, 0x030B].contains ty || maskedReg ty off

/-- The registers that an address and a count name: E_DENIED where one lies outside the whitelist. -/
def listedRegs (ok : Nat → Nat → Bool) (addr n : Nat) : Except CErr (List ((Nat × Nat) × Nat)) :=
  (List.range n).mapM (fun i => match unitAt (addr + 4 * i) with
    | none => .error { status := eDenied, detail := 0x08 }
    | some u => if ok u.1.1 u.2 then .ok u else .error { status := eDenied, detail := 0x08 })

/-- The checks that both commands make of their address and count. -/
def regRange (c : Cmd) : Except CErr Unit := do
  need (c.u32 0x08 % 4 = 0) eAlign 0x08
  need (decide (1 ≤ c.u8 0x0C) && decide (c.u8 0x0C ≤ 8)) eRange 0x0C

/-- Read registers one after another. -/
def State.readRegs (us : List ((Nat × Nat) × Nat)) (s : State) : State × List Word :=
  us.foldl (fun (acc : State × List Word) u =>
    let r := acc.1.readReg u
    (r.2, acc.2 ++ [r.1])) (s, [])

/-- REG_READ (R82). -/
def regReadBody (c : Cmd) (_ : CmdRef) (s : State) : CmdRes := do
  c.reserved [(0x08, 4), (0x0C, 1)]
  regRange c
  let us ← listedRegs (fun ty _ => readListed ty) (c.u32 0x08) (c.u8 0x0C)
  let r := s.readRegs us
  okDone r.1 r.2

/-- One write of REG_WRITE, with the mask applied (R84). -/
def State.tenantWrite (u : (Nat × Nat) × Nat) (v : Word) (s : State) : State × Word :=
  if maskedReg u.1.1 u.2 then
    let w := filterMask u.1.2 (u.2 = 0x44 || u.2 = 0x4C) v (s.mayWritePin 0)
    (s.writeReg u w, w >>> 16)
  else (s.writeReg u v, 0)

/-- Write registers one after another. -/
def State.tenantWrites (us : List (((Nat × Nat) × Nat) × Word)) (s : State) : State × List Word :=
  us.foldl (fun (acc : State × List Word) u =>
    let r := acc.1.tenantWrite u.1 u.2
    (r.1, acc.2 ++ [r.2])) (s, [])

/-- REG_WRITE (R82, R84). DESIGN CHOICE (assumption 73): value words beyond the count are ignored. -/
def regWriteBody (c : Cmd) (_ : CmdRef) (s : State) : CmdRes := do
  c.reserved [(0x08, 4), (0x0C, 1), (0x10, 32)]
  regRange c
  let us ← listedRegs writeListed (c.u32 0x08) (c.u8 0x0C)
  need (us.all (fun u => match s.unitService u.1.1 u.1.2 with
    | .quarantined => false
    | .retired => false
    | _ => true)) eState
  let r := s.tenantWrites (us.zipIdx.map (fun u => (u.1, word (c.u32 (0x10 + 4 * u.2)))))
  okDone r.1 r.2

/-! ### Writes by access type (R8 to R11) and host accesses (R58, R59) -/

/-- A write to the device status page (R77, R78). -/
def State.devWrite (off : Nat) (v : Word) (s : State) : State :=
  if !s.boot.fwReady then s
  else
    let d := s.dev
    match off with
    | 0x04 => s.clearDevEvent v
    | 0x08 => s.writeEventEn v
    | 0x10 => if d.pasidLock then s else { s with dev := { d with pasid0 := v &&& 0x800FFFFF } }
    | 0x14 => if d.pasidLock then s else { s with dev := { d with pasid1 := v &&& 0x800FFFFF } }
    | 0x18 => if v.getLsbD 0 then { s with dev := { d with pasidLock := true } } else s
    | _ => s

/-- The doorbell page and register that a BAR0 offset names. -/
def doorbellAt (off : Nat) : Option (Nat × Nat) :=
  if 0x400000 ≤ off ∧ off < 0x800000 then some ((off - 0x400000) / 0x1000, off % 0x1000) else none

/-- A write of the MSI-X table at an offset in it: one double word or two; with any other access the double word at the offset
takes a free value (assumption 22). -/
def State.msixAccess (at_ : Nat) (w : AccessWidth) (v : Dword) (s : State) : State :=
  let put (a : Nat) (x : Word) (s : State) : State := s.msixWrite (a / 16) (a % 16 / 4) x
  if !msixAligned at_ w then put at_ (word s.fresh.1) s.fresh.2
  else if w = .dword then put (at_ + 4) ((v >>> 32).truncate 32) (put at_ (v.truncate 32) s)
  else put at_ (v.truncate 32) s

/-- A host write to BAR0 (Table 3.2, R59): those that are not aligned 32-bit ones are discarded but for the MSI-X table, and in
Keep and Listen a doorbell write is latched (R425). -/
def State.bar0Write (off : Nat) (w : AccessWidth) (v : Dword) (s : State) : State :=
  if 0x100000 ≤ off ∧ off < 0x104100 then s.msixAccess (off - 0x100000) w v
  else if w ≠ .word ∨ off % 4 ≠ 0 then s
  else if 0x4000 ≤ off ∧ off < 0x5000 then s.devWrite (off - 0x4000) (v.truncate 32)
  else match doorbellAt off with
    | none => s
    | some (t, reg) => if s.asleep then s.latchWrite off (v.truncate 32) else s.dbWrite t reg (v.truncate 32)

/-- A host access in Keep or Listen wakes PD002, and with wake source 5 enabled raises its request (R425). -/
def State.bar0Wake (s : State) : State := if s.asleep then (s.wakeDomain 2).sourceWake 5 else s

/-- A host read of BAR0, whose data the host receives. -/
def State.bar0Access (write : Bool) (off : Nat) (w : AccessWidth) (v : Dword) (s : State) : State :=
  let s := s.bar0Wake
  if write then s.bar0Write off w v
  else State.bar0ReadEffect off w { s with dev := { s.dev with readData := s.bar0Read off w } }

/-- Whether the CP reaches register windows: it runs in Tell, Drive and Service alone (Table 16.1). -/
def State.cpAwake (s : State) : Bool := s.power.mode = .tell || s.power.mode = .drive || s.power.mode = .service

/-- REGISTER_WRITE (R9): by the host to BAR0, or by the CP to a unit's window (R8). -/
def State.registerWrite (space : RegSpace) (addr : Nat) (w : AccessWidth) (v : Dword) (s : State) : State :=
  match space with
  | .bar0 => s.bar0Access true addr w v
  | .window => if s.cpAwake && w = .word && addr % 4 = 0 then match unitAt addr with
      | none => s
      | some u => s.writeReg u (v.truncate 32)
    else s

def execRegisterWrite (dt : Nat) (space : RegSpace) (addr : Nat) (v : Access) (s : State) :
    Host.Outcome State Fault Refusal := .next ((s.tick dt).registerWrite space addr v.width v.value).advanced

/-- HOST_BAR0_ACCESS_ASLEEP (R425). -/
def execHostBar0AccessAsleep (dt : Nat) (write : Bool) (off : Nat) (v : Access) (s : State) :
    Host.Outcome State Fault Refusal := .next ((s.tick dt).bar0Access write off v.width v.value).advanced

/-- COURSE_CNT_READ (R396): the low word is read, and the high word of the same instant latched. -/
def execCourseCntRead (dt c : Nat) (s : State) : Host.Outcome State Fault Refusal :=
  .next (if c < 3 then (s.tick dt).latchCourse c else s.tick dt)

/-! ### Ethernet (R545) -/

/-- MDIO_CTL_START. -/
def execMdioCtlStart (dt mac : Nat) (v : Word) (s : State) : Host.Outcome State Fault Refusal :=
  .next (if mac < 2 then (s.tick dt).mdioWrite mac v else s.tick dt)

/-- MDIO_FRAME_END. -/
def execMdioFrameEnd (dt mac : Nat) (rdata : Half) (s : State) : Host.Outcome State Fault Refusal :=
  .next (if mac < 2 then (s.tick dt).mdioEnd mac rdata else s.tick dt)

/-- USXGMII_LINK_CHANGE. -/
def execUsxgmiiLinkChange (dt mac : Nat) (up : Bool) (s : State) : Host.Outcome State Fault Refusal :=
  .next (if mac < 2 then (s.tick dt).modEth mac (fun e => { e with link := up }) else s.tick dt)

/-- A frame that is not AVTP's is counted (R545). PRESUMED (assumption 48): RX_FRAMES counts the frames received without an error. -/
def Eth.receive (e : Eth) : EthFrame → Eth
  | .gptp => { e with rx := satInc 0xFFFFFFFF e.rx 1 }
  | .other => { e with rx := satInc 0xFFFFFFFF e.rx 1 }
  | .fcsError => { e with fcs := satInc 0xFFFFFFFF e.fcs 1 }
  | .queueFull => { e with dropped := satInc 0xFFFFFFFF e.dropped 1 }

/-- ETHERNET_FRAME_RECEIVE. -/
def execEthernetFrameReceive (dt mac : Nat) (kind : EthFrame) (s : State) : Host.Outcome State Fault Refusal :=
  .next (if mac < 2 then (s.tick dt).modEth mac (fun e => e.receive kind) else s.tick dt)

end Sys2Proof.Machine
end

