-- ==== Sys2Proof/Machine/TenantCmds.lean ====
section
/-! DEFINITION. The commands of group 0x01 that reach other chapters' state: TENANT_DESTROY and its end (R53), VIEWPORT_SET
(R56, R57) and EVENT_SUBSCRIBE (R73, R88). -/

namespace Sys2Proof.Machine

def eTenantAbsent : Nat := 0x0102
def eEventUnknown : Nat := 0x0104

/-- TENANT_DESTROY (R53). -/
def tenantDestroyBody (c : Cmd) (r : CmdRef) (s : State) : CmdRes := do
  c.reserved [(0x08, 2)]
  let t := c.u16 0x08
  need (decide (t ≤ 1023)) eRange 0x08
  need (decide (2 ≤ t)) eDenied 0x08
  match s.tenant? t with
  | none => .error { status := eTenantAbsent, detail := 0x08 }
  | some x => do
    need (x.dying = .no) eBusy
    .ok (s.beginDestroy t r, .later)

/-- TENANT_DESTROY_COMPLETE (R53): the tenant's last host-memory request has completed. The record goes to the platform
tenant and the number is free again. -/
def State.destroyComplete (t : Nat) (s : State) : State :=
  let s := s.advanceDestroy t
  match (s.tenant? t).map Tenant.dying with
  | some (Dying.released r n) =>
    ({ s with tenants := IMap.del s.tenants t }).completeOk r [word n]
  | _ => s

def execTenantDestroyComplete (dt t : Nat) (s : State) : Host.Outcome State Fault Refusal :=
  .next ((s.tick dt).destroyComplete t)

/-- VIEWPORT_SET (R56, R57, R88): it takes effect at the head's next compose boundary, and ends Still state (R294). -/
def viewportSetBody (c : Cmd) (r : CmdRef) (s : State) : CmdRes := do
  c.reserved [(0x08, 3), (0x0C, 8)]
  let t := c.u16 0x08
  let h := c.u8 0x0A
  let v : Rect := { x := c.u16 0x0C, y := c.u16 0x0E, w := c.u16 0x10, h := c.u16 0x12 }
  need (decide (t ≤ 1023)) eRange 0x08
  need (decide (h ≤ 7)) eRange 0x0A
  match s.tenant? t with
  | none => .error { status := eTenantAbsent, detail := 0x08 }
  | some x => do
    match (s.head h).timing with
    | none => .error { status := eState }
    | some k => do
      let off := v.w = 0 || v.h = 0
      need (off || decide (v.x < k.hA)) eRange 0x0C
      need (off || decide (v.y < k.vA)) eRange 0x0E
      need (off || decide (v.x + v.w ≤ k.hA)) eRange 0x10
      need (off || decide (v.y + v.h ≤ k.vA)) eRange 0x12
      need (x.dying = .no) eBusy
      .ok ((s.modHead h (fun y => { y with pendViews := y.pendViews ++ [(r, t, v)] })).endStill h, .later)

/-! ### EVENT_SUBSCRIBE -/

/-- What an event names: no resource, a head, or a resource. -/
inductive EventScope where
  | nothing
  | head
  | resource
deriving DecidableEq, Repr

/-- The event codes, by chapter, with what they name (R86, R88). -/
def eventScope (code : Nat) : Option EventScope :=
  if [0x0101, 0x0102, 0x0201, 0x0202, 0x0903, 0x0A01, 0x0A02, 0x0A03, 0x0C01, 0x0C02, 0x0C03, 0x0D01, 0x0D02,
      0x0E03].contains code then some .nothing
  else if [0x0301, 0x0501, 0x0801, 0x0802, 0x0803, 0x0901, 0x0902].contains code then some .head
  else if [0x0302, 0x0601, 0x0602, 0x0701, 0x0702, 0x0703, 0x0704, 0x0705, 0x0804, 0x0806, 0x0B01, 0x0B02, 0x0B03, 0x0B04,
      0x0B05, 0x0E01, 0x0E02, 0x0F01, 0x1001, 0x1002].contains code then some .resource
  else none

/-- The voice of a tenant that a handle names (R369). -/
def State.ownsVoice (s : State) (t h : Nat) : Bool :=
  (t = 1 && decide (0x100 ≤ h) && decide (h ≤ 0x103)) ||
    s.audio.voices.any (fun e => e.1 < 96 && e.2.owner = some t && e.2.handle e.1 = h)

/-- Whether a tenant owns the resource that an event of a code names (R88). Ports and streams are the platform
tenant's. -/
def State.ownsResource (s : State) (t code res : Nat) : Bool :=
  match code with
  | 0x0302 => (s.findPlane t res).isSome
  | 0x0601 => s.disp.heads.any (fun e => match IMap.find? e.2.frets res with | some f => f.owner = t | none => false)
  | 0x0602 => s.disp.heads.any (fun e => match IMap.find? e.2.lists res with | some l => l.owner = some t | none => false)
  | 0x0804 => match (s.head res).capture with | some k => k.owner = t | none => false
  | 0x0806 => t = 0 && decide (res ≤ 7)
  | 0x0B01 => s.ownsVoice t res
  | 0x0B02 => s.ownsVoice t res
  | 0x0B03 => s.ownsVoice t res || (decide (res ≤ 15) && (s.bus res).owner = some t)
  | 0x0B04 => match (s.bus res).capture with | some k => k.owner = t | none => false
  | 0x0B05 => decide (res ≤ 31) && (s.lane res).owner = some t
  | 0x0E01 => (s.compareCh res).owner = some t
  | 0x0E02 => (s.captureCh res).owner = some t
  | 0x0F01 => (s.dmaCh res).owner = some t
  | 0x1001 => decide (res ≤ 159) && (s.pin res).owner = .tenant t
  | 0x1002 => decide (res ≤ 9) && (blockPins res).all (fun p => (s.pin p).owner = .tenant t)
  | _ => match needThread s t res 0x0C with | .ok _ => true | .error _ => false

/-- Subscriptions to one code change (R88): op 1 with no resource covers all and clears the exclusions, op 0 with no
resource ends every subscription, and op 0 with one ends it and excludes it while a scope-0 subscription is on. -/
def Tenant.resubscribe (x : Tenant) (code : Nat) (on : Bool) (res : Option Nat) : Tenant :=
  let u : Sub := (x.subs.find? (fun u => u.code = code)).getD ⟨code, false, [], []⟩
  let rest := x.subs.filter (fun v => v.code != code)
  match res with
  | none => if on then { x with subs := rest ++ [{ u with all := true, off := [] }] } else { x with subs := rest }
  | some n =>
    if on then x.subscribe code n
    else { x with subs := rest ++ [{ u with
      on := u.on.filter (· != n), off := if u.all && !u.off.contains n then u.off ++ [n] else u.off }] }

/-- EVENT_SUBSCRIBE (R73, R88). -/
def eventSubscribeBody (c : Cmd) (_ : CmdRef) (s : State) : CmdRes := do
  let code := c.u16 0x08
  let op := c.u8 0x0A
  let scope := c.u8 0x0B
  let res := c.u32 0x0C
  need (decide (scope ≤ 1)) eRange 0x0B
  c.reserved ([(0x08, 4)] ++ (if scope = 1 then [(0x0C, 4)] else [])) [(0x0C, 4)]
  match eventScope code with
  | none => .error { status := eEventUnknown, detail := 0x08 }
  | some k => do
    need (decide (op ≤ 1)) eRange 0x0A
    need (scope = 0 || k ≠ .nothing) eRange 0x0B
    need (scope = 0 || k ≠ .head || decide (res ≤ 7)) eRange 0x0C
    need (scope = 0 || k ≠ .resource || s.ownsResource c.tenant code res) eNotOwner 0x0C
    okDone (s.modTenant c.tenant (fun x => x.resubscribe code (op = 1) (if scope = 1 then some res else none))) []

end Sys2Proof.Machine
end

