-- ==== Sys2Proof/Machine/CommandRows.lean ====
section
/-! DEFINITION. The rows of the commands of Table 3.12: each takes its turn (R51, R66, R71, R546) with its opcode, who may issue it,
its extension entries and its own body, and a tenant whose destruction waited for it goes on (R53). -/

namespace Sys2Proof.Machine

/-! ### Group 0x01: tenants and registers -/

/-- NOP (R87). -/
def execNop (c : Cmd) (s : State) : Host.Outcome State Fault Refusal :=
  .next (s.command 0x0101 .anyone 0 0 nopBody c).advanced

/-- TENANT_CREATE (R52). -/
def execTenantCreate (c : Cmd) (s : State) : Host.Outcome State Fault Refusal :=
  .next (s.command 0x0102 .platform 0 0 tenantCreateBody c).advanced

/-- TENANT_DESTROY (R53). -/
def execTenantDestroy (c : Cmd) (s : State) : Host.Outcome State Fault Refusal :=
  .next (s.command 0x0103 .platform 0 0 tenantDestroyBody c).advanced

/-- QUOTA_SET (R54). -/
def execQuotaSet (c : Cmd) (s : State) : Host.Outcome State Fault Refusal :=
  .next (s.command 0x0104 .platform 0 0 quotaSetBody c).advanced

/-- VIEWPORT_SET (R56). -/
def execViewportSet (c : Cmd) (s : State) : Host.Outcome State Fault Refusal :=
  .next (s.command 0x0105 .platform 0 0 viewportSetBody c).advanced

/-- REG_READ (R82). -/
def execRegRead (c : Cmd) (s : State) : Host.Outcome State Fault Refusal :=
  .next (s.command 0x0106 .platform 0 0 regReadBody c).advanced

/-- REG_WRITE (R82). -/
def execRegWrite (c : Cmd) (s : State) : Host.Outcome State Fault Refusal :=
  .next (s.command 0x0107 .platform 0 0 regWriteBody c).advanced

/-- EVENT_SUBSCRIBE (R88). -/
def execEventSubscribe (c : Cmd) (s : State) : Host.Outcome State Fault Refusal :=
  .next (s.command 0x0108 .anyone 0 0 eventSubscribeBody c).advanced

/-- TENANT_QUERY (R87). -/
def execTenantQuery (c : Cmd) (s : State) : Host.Outcome State Fault Refusal :=
  .next (s.command 0x0109 .anyone 0 0 tenantQueryBody c).advanced

/-! ### Group 0x02: memory -/

/-- ATLAS_MAP (R101). -/
def execAtlasMap (c : Cmd) (s : State) : Host.Outcome State Fault Refusal :=
  .next (s.command 0x0201 .anyone 0 0 atlasMapBody c).advanced

/-- ATLAS_UNMAP (R103). -/
def execAtlasUnmap (c : Cmd) (s : State) : Host.Outcome State Fault Refusal :=
  .next (s.command 0x0202 .anyone 0 0 atlasUnmapBody c).advanced

/-- BANK_ASSIGN (R91). -/
def execBankAssign (c : Cmd) (s : State) : Host.Outcome State Fault Refusal :=
  .next (s.command 0x0203 .platform 0 0 bankAssignBody c).advanced

/-! ### Group 0x03: planes and graticules -/

/-- PLANE_CREATE (R116). -/
def execPlaneCreate (c : Cmd) (s : State) : Host.Outcome State Fault Refusal :=
  .next (s.command 0x0301 .anyone 0 0 planeCreateBody c).advanced

/-- PLANE_DESTROY (R119). -/
def execPlaneDestroy (c : Cmd) (s : State) : Host.Outcome State Fault Refusal :=
  .next (s.command 0x0302 .anyone 0 0 planeDestroyBody c).advanced

/-- PLANE_SET (R118). -/
def execPlaneSet (c : Cmd) (s : State) : Host.Outcome State Fault Refusal :=
  .next (s.command 0x0303 .anyone 0 1 planeSetBody c).advanced

/-- PALETTE_LOAD (R124). -/
def execPaletteLoad (c : Cmd) (s : State) : Host.Outcome State Fault Refusal :=
  .next (s.command 0x0304 .anyone 0 0 paletteLoadBody c).advanced

/-- OBJECT_TABLE_SET (R135). -/
def execObjectTableSet (c : Cmd) (s : State) : Host.Outcome State Fault Refusal :=
  .next (s.command 0x0305 .anyone 0 0 objectTableSetBody c).advanced

/-! ### Group 0x04: canvases and contours -/

/-- CANVAS_SET (R152). -/
def execCanvasSet (c : Cmd) (s : State) : Host.Outcome State Fault Refusal :=
  .next (s.command 0x0401 .anyone 0 0 canvasSetBody c).advanced

/-- SCALER_COEF_LOAD (R166). -/
def execScalerCoefLoad (c : Cmd) (s : State) : Host.Outcome State Fault Refusal :=
  .next (s.command 0x0402 .anyone 0 0 scalerCoefLoadBody c).advanced

/-- CONTOUR_SET (R170). -/
def execContourSet (c : Cmd) (s : State) : Host.Outcome State Fault Refusal :=
  .next (s.command 0x0403 .anyone 0 0 contourSetBody c).advanced

/-- PAINT_SET (R176). -/
def execPaintSet (c : Cmd) (s : State) : Host.Outcome State Fault Refusal :=
  .next (s.command 0x0404 .anyone 0 15 paintSetBody c).advanced

/-! ### Group 0x05: colour -/

/-- TRANSFER_LUT_LOAD (R189). -/
def execTransferLutLoad (c : Cmd) (s : State) : Host.Outcome State Fault Refusal :=
  .next (s.command 0x0501 .anyone 0 0 transferLutLoadBody c).advanced

/-- POST_LUT_LOAD (R196). -/
def execPostLutLoad (c : Cmd) (s : State) : Host.Outcome State Fault Refusal :=
  .next (s.command 0x0502 .platform 0 0 postLutLoadBody c).advanced

/-- DITHER_SET (R198). -/
def execDitherSet (c : Cmd) (s : State) : Host.Outcome State Fault Refusal :=
  .next (s.command 0x0503 .platform 0 0 ditherSetBody c).advanced

/-! ### Group 0x06: raster effects -/

/-- LINELIST_SET (R211). -/
def execLinelistSet (c : Cmd) (s : State) : Host.Outcome State Fault Refusal :=
  .next (s.command 0x0601 .anyone 0 0 linelistSetBody c).advanced

/-- FRET_SET (R214). -/
def execFretSet (c : Cmd) (s : State) : Host.Outcome State Fault Refusal :=
  .next (s.command 0x0602 .anyone 0 0 fretSetBody c).advanced

/-- LEAD_BOUNDS_SET (R206). -/
def execLeadBoundsSet (c : Cmd) (s : State) : Host.Outcome State Fault Refusal :=
  .next (s.command 0x0603 .platform 0 0 leadBoundsSetBody c).advanced

/-- COST_QUERY (R222). -/
def execCostQuery (c : Cmd) (s : State) : Host.Outcome State Fault Refusal :=
  .next (s.command 0x0604 .anyone 0 0 costQueryBody c).advanced

/-! ### Group 0x07: tab cores -/

/-- TAB_LOAD (R260). -/
def execTabLoad (c : Cmd) (s : State) : Host.Outcome State Fault Refusal :=
  .next (s.command 0x0701 .anyone 0 0 tabLoadBody c).advanced

/-- TAB_START (R262). -/
def execTabStart (c : Cmd) (s : State) : Host.Outcome State Fault Refusal :=
  .next (s.command 0x0702 .anyone 0 0 tabStartBody c).advanced

/-- TAB_STOP (R261). -/
def execTabStop (c : Cmd) (s : State) : Host.Outcome State Fault Refusal :=
  .next (s.command 0x0703 .anyone 0 0 tabStopBody c).advanced

/-- DECODE_TABLE_LOAD (R250). -/
def execDecodeTableLoad (c : Cmd) (s : State) : Host.Outcome State Fault Refusal :=
  .next (s.command 0x0704 .platform 0 0 decodeTableLoadBody c).advanced

/-- TAB_DEBUG (R271). -/
def execTabDebug (c : Cmd) (s : State) : Host.Outcome State Fault Refusal :=
  .next (s.command 0x0705 .anyone 0 0 tabDebugBody c).advanced

/-! ### Group 0x08: scan-out -/

/-- HEAD_TIMING_SET (R279). -/
def execHeadTimingSet (c : Cmd) (s : State) : Host.Outcome State Fault Refusal :=
  .next (s.command 0x0801 .platform 0 0 headTimingSetBody c).advanced

/-- PORT_ROUTE_SET (R306). -/
def execPortRouteSet (c : Cmd) (s : State) : Host.Outcome State Fault Refusal :=
  .next (s.command 0x0802 .platform 0 0 portRouteSetBody c).advanced

/-- COMMIT_SUBMIT (R285). -/
def execCommitSubmit (c : Cmd) (s : State) : Host.Outcome State Fault Refusal :=
  .next (s.command 0x0803 .anyone 0 0 commitSubmitBody c).advanced

/-- CAPTURE_START (R297). -/
def execCaptureStart (c : Cmd) (s : State) : Host.Outcome State Fault Refusal :=
  .next (s.command 0x0804 .anyone 0 0 captureStartBody c).advanced

/-- CAPTURE_STOP (R303). -/
def execCaptureStop (c : Cmd) (s : State) : Host.Outcome State Fault Refusal :=
  .next (s.command 0x0805 .anyone 0 0 captureStopBody c).advanced

/-- FRAMELOCK_SET (R296). -/
def execFramelockSet (c : Cmd) (s : State) : Host.Outcome State Fault Refusal :=
  .next (s.command 0x0806 .platform 0 0 framelockSetBody c).advanced

/-- STILL_POLICY_SET (R290). -/
def execStillPolicySet (c : Cmd) (s : State) : Host.Outcome State Fault Refusal :=
  .next (s.command 0x0807 .platform 0 0 stillPolicySetBody c).advanced

/-! ### Group 0x09: the Cartouche -/

/-- CARTOUCHE_IMAGE_LOAD (R314). -/
def execCartoucheImageLoad (c : Cmd) (s : State) : Host.Outcome State Fault Refusal :=
  .next (s.command 0x0901 .safety 0 0 cartoucheImageLoadBody c).advanced

/-- CARTOUCHE_CELL_SET (R317). -/
def execCartoucheCellSet (c : Cmd) (s : State) : Host.Outcome State Fault Refusal :=
  .next (s.command 0x0902 .safety 0 0 cartoucheCellSetBody c).advanced

/-- WATCH_REGION_SET (R322). -/
def execWatchRegionSet (c : Cmd) (s : State) : Host.Outcome State Fault Refusal :=
  .next (s.command 0x0903 .safety 0 0 watchRegionSetBody c).advanced

/-- REFERENCE_SET (R325). -/
def execReferenceSet (c : Cmd) (s : State) : Host.Outcome State Fault Refusal :=
  .next (s.command 0x0904 .safety 0 0 referenceSetBody c).advanced

/-- FAULT_REACTION_SET (R328). -/
def execFaultReactionSet (c : Cmd) (s : State) : Host.Outcome State Fault Refusal :=
  .next (s.command 0x0905 .safety 0 0 faultReactionSetBody c).advanced

/-! ### Group 0x0A: governor and maintenance -/

/-- HEAD_PRIORITY_SET (R361). -/
def execHeadPrioritySet (c : Cmd) (s : State) : Host.Outcome State Fault Refusal :=
  .next (s.command 0x0A01 .platform 0 0 headPrioritySetBody c).advanced

/-- POWER_POLICY_SET (R362). -/
def execPowerPolicySet (c : Cmd) (s : State) : Host.Outcome State Fault Refusal :=
  .next (s.command 0x0A02 .platform 0 0 powerPolicySetBody c).advanced

/-- MAINTENANCE_SET (R363). -/
def execMaintenanceSet (c : Cmd) (s : State) : Host.Outcome State Fault Refusal :=
  .next (s.command 0x0A03 .platform 0 0 maintenanceSetBody c).advanced

/-- GOVERNOR_QUERY (R364). -/
def execGovernorQuery (c : Cmd) (s : State) : Host.Outcome State Fault Refusal :=
  .next (s.command 0x0A04 .anyone 0 0 governorQueryBody c).advanced

/-! ### Group 0x0B: audio -/

/-- VOICE_CREATE (R370). -/
def execVoiceCreate (c : Cmd) (s : State) : Host.Outcome State Fault Refusal :=
  .next (s.command 0x0B01 .anyone 0 0 voiceCreateBody c).advanced

/-- VOICE_SET (R371). -/
def execVoiceSet (c : Cmd) (s : State) : Host.Outcome State Fault Refusal :=
  .next (s.command 0x0B02 .anyone 0 1 voiceSetBody c).advanced

/-- VOICE_START (R377). -/
def execVoiceStart (c : Cmd) (s : State) : Host.Outcome State Fault Refusal :=
  .next (s.command 0x0B03 .anyone 0 0 voiceStartBody c).advanced

/-- VOICE_STOP (R377). -/
def execVoiceStop (c : Cmd) (s : State) : Host.Outcome State Fault Refusal :=
  .next (s.command 0x0B04 .anyone 0 0 voiceStopBody c).advanced

/-- BUS_SET (R379). -/
def execBusSet (c : Cmd) (s : State) : Host.Outcome State Fault Refusal :=
  .next (s.command 0x0B05 .anyone 0 0 busSetBody c).advanced

/-- BRIDGE_SET (R383). -/
def execBridgeSet (c : Cmd) (s : State) : Host.Outcome State Fault Refusal :=
  .next (s.command 0x0B06 .anyone 0 0 bridgeSetBody c).advanced

/-- AUDIO_PORT_SET (R388). -/
def execAudioPortSet (c : Cmd) (s : State) : Host.Outcome State Fault Refusal :=
  .next (s.command 0x0B07 .platform 0 0 audioPortSetBody c).advanced

/-- AVTP_STREAM_SET (R392). -/
def execAvtpStreamSet (c : Cmd) (s : State) : Host.Outcome State Fault Refusal :=
  .next (s.command 0x0B08 .platform 0 0 avtpStreamSetBody c).advanced

/-- AUDIO_CAPTURE_START (R393). -/
def execAudioCaptureStart (c : Cmd) (s : State) : Host.Outcome State Fault Refusal :=
  .next (s.command 0x0B09 .anyone 0 0 audioCaptureStartBody c).advanced

/-- CARTOUCHE_VOICE_SET (R386). -/
def execCartoucheVoiceSet (c : Cmd) (s : State) : Host.Outcome State Fault Refusal :=
  .next (s.command 0x0B0A .safety 0 0 cartoucheVoiceSetBody c).advanced

/-! ### Group 0x0C: the Pegbox -/

/-- MODEL_LOAD (R405). -/
def execModelLoad (c : Cmd) (s : State) : Host.Outcome State Fault Refusal :=
  .next (s.command 0x0C01 .platform 0 0 modelLoadBody c).advanced

/-- LISTEN_PROGRAM_LOAD (R401). -/
def execListenProgramLoad (c : Cmd) (s : State) : Host.Outcome State Fault Refusal :=
  .next (s.command 0x0C02 .platform 0 0 listenProgramLoadBody c).advanced

/-- WAKE_SOURCE_SET (R410). -/
def execWakeSourceSet (c : Cmd) (s : State) : Host.Outcome State Fault Refusal :=
  .next (s.command 0x0C03 .platform 0 0 wakeSourceSetBody c).advanced

/-- PREROLL_READ (R408). -/
def execPrerollRead (c : Cmd) (s : State) : Host.Outcome State Fault Refusal :=
  .next (s.command 0x0C04 .platform 0 0 prerollReadBody c).advanced

/-! ### Group 0x0D: modes and clocks -/

/-- MODE_SET (R418). -/
def execModeSet (c : Cmd) (s : State) : Host.Outcome State Fault Refusal :=
  .next (s.command 0x0D01 .platform 0 0 modeSetBody c).advanced

/-- CLOCK_PLAN_SET (R428). -/
def execClockPlanSet (c : Cmd) (s : State) : Host.Outcome State Fault Refusal :=
  .next (s.command 0x0D02 .platform 0 0 clockPlanSetBody c).advanced

/-- CLOCK_MEASURE (R432). -/
def execClockMeasure (c : Cmd) (s : State) : Host.Outcome State Fault Refusal :=
  .next (s.command 0x0D03 .platform 0 0 clockMeasureBody c).advanced

/-! ### Group 0x0E: timers -/

/-- COMPARE_SET (R444). -/
def execCompareSet (c : Cmd) (s : State) : Host.Outcome State Fault Refusal :=
  .next (s.command 0x0E01 .anyone 0 0 compareSetBody c).advanced

/-- CAPTURE_CHANNEL_SET (R449). -/
def execCaptureChannelSet (c : Cmd) (s : State) : Host.Outcome State Fault Refusal :=
  .next (s.command 0x0E02 .anyone 0 0 captureChannelSetBody c).advanced

/-- PWM_SET (R452). -/
def execPwmSet (c : Cmd) (s : State) : Host.Outcome State Fault Refusal :=
  .next (s.command 0x0E03 .anyone 0 0 pwmSetBody c).advanced

/-- CALENDAR_SET (R455). -/
def execCalendarSet (c : Cmd) (s : State) : Host.Outcome State Fault Refusal :=
  .next (s.command 0x0E04 .platform 0 0 calendarSetBody c).advanced

/-- CALENDAR_ALARM_SET (R456). -/
def execCalendarAlarmSet (c : Cmd) (s : State) : Host.Outcome State Fault Refusal :=
  .next (s.command 0x0E05 .platform 0 0 calendarAlarmSetBody c).advanced

/-! ### Group 0x0F: DMA and blit -/

/-- DMA_CHANNEL_SET (R466). -/
def execDmaChannelSet (c : Cmd) (s : State) : Host.Outcome State Fault Refusal :=
  .next (s.command 0x0F01 .anyone 0 0 dmaChannelSetBody c).advanced

/-- DMA_SUBMIT (R467). -/
def execDmaSubmit (c : Cmd) (s : State) : Host.Outcome State Fault Refusal :=
  .next (s.command 0x0F02 .anyone 0 0 dmaSubmitBody c).advanced

/-- BLIT_SUBMIT (R477). -/
def execBlitSubmit (c : Cmd) (s : State) : Host.Outcome State Fault Refusal :=
  .next (s.command 0x0F03 .anyone 0 0 blitSubmitBody c).advanced

/-- DMA_SHARE_SET (R474). -/
def execDmaShareSet (c : Cmd) (s : State) : Host.Outcome State Fault Refusal :=
  .next (s.command 0x0F04 .platform 0 0 dmaShareSetBody c).advanced

/-! ### Group 0x10: pins -/

/-- PIN_OWNER_SET (R490). -/
def execPinOwnerSet (c : Cmd) (s : State) : Host.Outcome State Fault Refusal :=
  .next (s.command 0x1001 .platform 0 0 pinOwnerSetBody c).advanced

/-- PIN_CONFIG_SET (R491). -/
def execPinConfigSet (c : Cmd) (s : State) : Host.Outcome State Fault Refusal :=
  .next (s.command 0x1002 .anyone 0 0 pinConfigSetBody c).advanced

/-- PIN_WRITE (R493). -/
def execPinWrite (c : Cmd) (s : State) : Host.Outcome State Fault Refusal :=
  .next (s.command 0x1003 .anyone 0 0 pinWriteBody c).advanced

/-- PIN_LOCK (R497). -/
def execPinLock (c : Cmd) (s : State) : Host.Outcome State Fault Refusal :=
  .next (s.command 0x1004 .anyone 0 0 pinLockBody c).advanced

/-! ### Group 0x11: debug -/

/-- DEBUG_GRANT (R518). -/
def execDebugGrant (c : Cmd) (s : State) : Host.Outcome State Fault Refusal :=
  .next (s.command 0x1101 .platform 0 0 debugGrantBody c).advanced

/-- DEBUG_UNLOCK (R514). -/
def execDebugUnlock (c : Cmd) (s : State) : Host.Outcome State Fault Refusal :=
  .next (s.command 0x1102 .platform 0 15 debugUnlockBody c).advanced

/-- SERVICE_ENTER (R521). -/
def execServiceEnter (c : Cmd) (s : State) : Host.Outcome State Fault Refusal :=
  .next (s.command 0x1103 .platform 0 0 serviceEnterBody c).advanced

/-- LIFECYCLE_QUERY (R523). -/
def execLifecycleQuery (c : Cmd) (s : State) : Host.Outcome State Fault Refusal :=
  .next (s.command 0x1104 .anyone 0 0 lifecycleQueryBody c).advanced

end Sys2Proof.Machine
end

