-- ==== Sys2Proof/Machine/Debug.lean ====
section
/-! DEFINITION. Level changes at the pins (R495, R521) and the debug access port (R509, R519, R520). -/

namespace Sys2Proof.Machine

/-- The number by which PIN_LEVEL_CHANGE names the SERVICE_N ball, which is no general-purpose pin. DESIGN CHOICE (assumption 50). -/
def servicePin : Nat := 160

/-- SERVICE_N changes (R521, R522). -/
def State.servicePinLevel (level : Bool) (s : State) : State :=
  if s.power.servicePinLow = !level then s
  else { s with power := { s.power with servicePinLow := !level, servicePinAt := s.now } }

/-- A level change at a pin: the debouncer's, and the wake slots that name the pin (R495). -/
def State.pinChange (p : Nat) (level : Bool) (s : State) : State :=
  if p = servicePin then s.servicePinLevel level
  else if servicePin < p then s
  else
    let r := s.pinLevel p level
    if r.2 then r.1.slotsFire p else r.1

/-- PIN_LEVEL_CHANGE (R495). -/
def execPinLevelChange (dt p : Nat) (level : Bool) (s : State) : Host.Outcome State Fault Refusal :=
  .next ((s.tick dt).pinChange p level)

/-! ### BOOTSTAT (Table 20.3) -/

/-- The stage code of BOOTSTAT. -/
def BootStage.code : BootStage → Nat
  | .reset => 0 | .pegRom => 0 | .header => 1 | .memory => 2 | .firmware => 3 | .cartouche => 4 | .running => 5
  | .stopped => 6

/-- BOOTSTAT (R509). -/
def Boot.bootstat (b : Boot) : Word :=
  fields [b.codeB % 256 * 2 ^ 24, b.codeA % 256 * 2 ^ 16, b.stage.code * 16, flagAt b.lpddrFailed 3, b.copy % 4]

/-! ### The debug access port -/

/-- The TAP's pins are active: the part is powered and out of reset, and not in Keep or Listen (R519). -/
def State.tapActive (s : State) : Bool := s.cpAwake && !s.boot.resetLow

/-- A Device session gives Observe (Table 20.6). -/
def State.observes (s : State) : Bool := s.tapActive && s.boot.deviceSession

/-- A Device session gives Full access (Table 20.6). -/
def State.fullAccess (s : State) : Bool := s.observes && (s.boot.lifecycle ≠ .secured || s.power.mode = .service)

/-- What a read over the port delivers. -/
def State.jtagOut (v : Word) (s : State) : State := { s with boot := { s.boot with jtagData := v } }

/-- The Device session votes for a domain that it observes, until it closes (R423). -/
def State.observe (d : Option Nat) (s : State) : State :=
  match d with
  | none => s
  | some d => { s with boot := { s.boot with
      observed := if s.boot.observed.contains d then s.boot.observed else s.boot.observed ++ [d] } }

/-- The domain that an internal physical address lies in (Tables 4.5 and 16.4). -/
def State.memoryDomain (s : State) (a : Nat) : Option Nat :=
  match bankOf a with
  | some b => some (10 + b)
  | none =>
    if cartBase ≤ a ∧ a < cartBase + 0x400000 then some 26
    else if dramBase ≤ a ∧ a < dramBase + 0x100000000 then some 27
    else if lpddrBase ≤ a ∧ a < lpddrBase + s.mem.lpddrBytes then some (28 + s.lpddrChannel a)
    else none

/-- A word of memory by internal physical address: a free value where the read meets a decode error (R89) or an
uncorrectable word (R111), since no rule says what the port then delivers. -/
def State.jtagRead (a : Nat) (s : State) : State :=
  let s := s.observe (s.memoryDomain a)
  match s.placeRead (.phys a) 4 with
  | .ok bs => (s.noteRead a 4).jtagOut (word (leNat bs))
  | .error _ =>
    let s := if s.physOk a 4 then s.noteRead a 4 else s
    let (v, s) := s.fresh
    s.jtagOut (word v)

/-- A register by its address in the window range: a free value where no window holds the address. -/
def State.jtagReadReg (a : Nat) (s : State) : State :=
  match unitAt a with
  | some u =>
    let r := (s.observe (unitDomain u.1.1 u.1.2)).readReg u
    r.2.jtagOut r.1
  | none =>
    let (v, s) := s.fresh
    s.jtagOut (word v)

/-- The CP's state by number: the PC, SW, P0 to P7, the data stack from its bottom, the return stack from its bottom.
DESIGN CHOICE (assumption 50): R519 gives the state, not its numbers. -/
def TRegs.numbered (r : TRegs) (k : Nat) : Word :=
  if k = 0 then r.pc
  else if k = 1 then r.sw
  else if k < 10 then r.p.getD (k - 2) 0
  else if 16 ≤ k ∧ k < 48 then r.d.reverse.getD (k - 16) 0
  else if 48 ≤ k ∧ k < 80 then r.r.reverse.getD (k - 48) 0
  else 0

/-- JTAG_ACCESS (R519, R520): an access that the level in force does not give changes nothing. -/
def State.jtagAccess (op : JtagOp) (s : State) : State :=
  match op with
  | .idcode => if s.tapActive then s.jtagOut Config.idcode else s
  | .bypass => s
  | .sample => s
  | .bootstat => if s.tapActive then s.jtagOut s.boot.bootstat else s
  | .readMem a => if s.observes then s.jtagRead a else s
  | .readReg a => if s.observes then s.jtagReadReg a else s
  | .readCp k => if s.observes then (s.observe (some 1)).jtagOut (s.cp.regs.numbered k) else s
  | .writeMem a v => if s.fullAccess && s.physOk a 4 then s.physWrite a (leBytes 4 v.toNat) else s
  | .writeReg a v => if s.fullAccess then match unitAt a with
      | none => s
      | some u => s.writeReg u v
    else s
  | .haltCp => if s.fullAccess then { s with boot := { s.boot with cpHalted := true, cpStep := false } } else s
  | .stepCp => if s.fullAccess && s.boot.cpHalted then { s with boot := { s.boot with cpStep := true } } else s
  | .resumeCp => if s.fullAccess then { s with boot := { s.boot with cpHalted := false, cpStep := false } } else s
  | .boundaryTest on => if s.fullAccess then { s with boot := { s.boot with extest := on } } else s

def execJtagAccess (dt : Nat) (op : JtagOp) (s : State) : Host.Outcome State Fault Refusal :=
  .next ((s.tick dt).jtagAccess op)

end Sys2Proof.Machine
end

