-- ==== Sys2Proof/Machine/TisaDecode.lean ====
section
/-! DEFINITION. Decoding of instruction units (R227, R228, Tables 9.3 to 9.7): the row that a first unit and its extension
literal spell on a core, or none where R228 makes the encoding illegal there. -/

namespace Sys2Proof.Machine

/-- Group 0, the stack (Table 9.4): bits 7:5 are reserved, and 4:0 but for PICK. -/
def stackUnit (who : CoreRef) (u : Nat) : Option Instr :=
  if bits u 7 5 ≠ 0 ∨ (bits u 11 8 ≠ 8 ∧ bits u 4 0 ≠ 0) then none
  else match bits u 11 8 with
    | 0 => some (.nopInstruction who) | 1 => some (.drop who) | 2 => some (.dup who) | 3 => some (.swap who)
    | 4 => some (.overOp who) | 5 => some (.rot who) | 6 => some (.nip who) | 7 => some (.tuck who)
    | 8 => some (.pick who (BitVec.ofNat 5 u)) | 9 => some (.depth who) | 10 => some (.tor who) | 11 => some (.fromr who)
    | 12 => some (.rfetch who) | 13 => some (.rdrop who) | _ => none

/-- Group 1, the ALU (Table 9.4): bits 6:0 are reserved; MULHU to REMS are the full profile's, CMP to SBC the small one's. -/
def aluUnit (who : CoreRef) (u : Nat) : Option Instr :=
  let full (i : Instr) : Option Instr := if onFull who then some i else none
  let small (i : Instr) : Option Instr := if onSmall who then some i else none
  if bits u 6 0 ≠ 0 then none
  else match bits u 11 7 with
    | 0 => some (.add who) | 1 => some (.sub who) | 2 => some (.andOp who) | 3 => some (.orOp who) | 4 => some (.xorOp who)
    | 5 => some (.shl who) | 6 => some (.shr who) | 7 => some (.sar who) | 8 => some (.mul who)
    | 9 => full (.mulhu who) | 10 => full (.mulhs who) | 11 => full (.divu who) | 12 => full (.divs who)
    | 13 => full (.remu who) | 14 => full (.rems who)
    | 15 => some (.min who) | 16 => some (.max who) | 17 => some (.minu who) | 18 => some (.maxu who)
    | 19 => some (.slt who) | 20 => some (.sltu who) | 21 => some (.notOp who) | 22 => some (.neg who) | 23 => some (.abs who)
    | 24 => some (.clz who) | 25 => some (.sext8 who) | 26 => some (.sext16 who)
    | 27 => small (.cmp who) | 28 => small (.tst who) | 29 => small (.adc who) | 30 => small (.sbc who) | _ => none

/-- Group 2, the literals (Table 9.3): `x` is the extension literal. -/
def literalUnit (who : CoreRef) (u : Nat) (x : Word) : Option Instr :=
  match bits u 11 10 with
  | 2 => if bits u 8 0 ≠ 0 then none else if bitOf u 9 then some (.lit16s who (x.truncate 16)) else some (.lit16 who (x.truncate 16))
  | 3 => if bits u 9 0 ≠ 0 then none else some (.lit32 who x)
  | _ => some (.lits who (BitVec.ofNat 11 u))

/-- Group 3, loads, stores and pointers (Table 9.4): *k* is reserved in LD32P to PADD. -/
def memoryUnit (who : CoreRef) (u : Nat) : Option Instr :=
  let p := BitVec.ofNat 3 (bits u 7 5)
  let k := BitVec.ofNat 5 u
  let bare (i : Instr) : Option Instr := if bits u 4 0 = 0 then some i else none
  match bits u 11 8 with
  | 0 => some (.ld32 who p k) | 1 => some (.ld16u who p k) | 2 => some (.ld16s who p k) | 3 => some (.ld8u who p k)
  | 4 => some (.ld8s who p k) | 5 => some (.st32 who p k) | 6 => some (.st16 who p k) | 7 => some (.st8 who p k)
  | 8 => bare (.ld32p who p) | 9 => bare (.st32p who p) | 10 => bare (.pget who p) | 11 => bare (.pset who p)
  | 12 => bare (.padd who p) | 13 => some (.paddi who p k) | _ => none

/-- Group 4, the branches (Tables 9.5 and 9.6): each profile has its own layout. -/
def branchUnit (who : CoreRef) (u : Nat) : Option Instr :=
  let off := BitVec.ofNat 9 u
  if onSmall who then (if bits u 11 8 = 15 then none else some (.bcc who (BitVec.ofNat 4 (bits u 11 8)) (BitVec.ofNat 8 u)))
  else match bits u 11 9 with
    | 0 => some (.beq who off) | 1 => some (.bne who off) | 2 => some (.blt who off) | 3 => some (.bge who off)
    | 4 => some (.bltu who off) | 5 => some (.bgeu who off) | 6 => some (.bz who off) | _ => some (.bnz who off)

/-- Group 5, jumps, calls and returns (Table 9.5): `x` is the extension literal of JMPL and CALLL. -/
def jumpUnit (who : CoreRef) (u : Nat) (x : Word) : Option Instr :=
  match bits u 11 10 with
  | 0 => some (.jmp who (BitVec.ofNat 10 u))
  | 1 => some (.call who (BitVec.ofNat 10 u))
  | 2 => if bits u 7 0 ≠ 0 then none else match bits u 9 8 with
    | 0 => some (.jmpi who) | 1 => some (.calli who) | 2 => some (.ret who) | _ => none
  | _ => if bits u 8 0 ≠ 0 then none else if bitOf u 9 then some (.calll who x) else some (.jmpl who x)

/-- Group 6, the raster instructions of the tab cores (Table 9.7). -/
def rasterUnit (who : CoreRef) (u : Nat) : Option Instr :=
  if !onTab who then none
  else if bits u 11 8 = 0 then some (.pwrite who (BitVec.ofNat 8 u))
  else if bits u 7 0 ≠ 0 then none
  else match bits u 11 8 with
    | 1 => some (.palw who) | 2 => some (.waitl who) | 3 => some (.line who) | _ => none

/-- Group 7, the system instructions (Table 9.7): IDLE is the Peg core's and the CP's. -/
def systemUnit (who : CoreRef) (u : Nat) : Option Instr :=
  if bits u 11 8 = 3 then some (.trap who (BitVec.ofNat 8 u))
  else if bits u 7 0 ≠ 0 then none
  else match bits u 11 8 with
    | 0 => some (.flush who) | 1 => some (.fence who) | 2 => some (.yield who) | 4 => some (.reti who)
    | 5 => some (.swget who) | 6 => some (.swset who) | 7 => if onIdle who then some (.idle who) else none | _ => none

/-- Group 15 (R249): a tab core runs an opcode that has an installed entry, and the CP the firmware's own (Table 9.1). -/
def State.customUnit (s : State) (who : CoreRef) (u : Nat) (x : Word) : Option Instr :=
  if who = .cp ∨ (onTab who ∧ (IMap.find? s.ucode.entries (bits u 11 7)).isSome) then
    some (.customInstruction who (BitVec.ofNat 5 (bits u 11 7)) (BitVec.ofNat 7 u) x)
  else none

/-- The instruction that a first unit `u` with extension literal `x` spells on a core (Table 9.3), or none (R228). -/
def State.decodeUnit (s : State) (who : CoreRef) (u : Nat) (x : Word) : Option Instr :=
  match u / 0x1000 with
  | 0 => stackUnit who u
  | 1 => aluUnit who u
  | 2 => literalUnit who u x
  | 3 => memoryUnit who u
  | 4 => branchUnit who u
  | 5 => jumpUnit who u x
  | 6 => rasterUnit who u
  | 7 => systemUnit who u
  | 15 => s.customUnit who u x
  | _ => none

/-- The extension units that follow a first unit (R227, Table 9.3; of a custom opcode, as its entry declares). -/
def State.extUnits (s : State) (u : Nat) : Nat :=
  match u / 0x1000 with
  | 2 => if bits u 11 10 = 2 then 1 else if bits u 11 10 = 3 then 2 else 0
  | 5 => if bits u 11 10 = 3 then 2 else 0
  | 15 => ((IMap.find? s.ucode.entries (bits u 11 7)).map (fun e => entExt e.toNat)).getD 0
  | _ => 0

/-- The instruction that a run of units begins with: the units after the first hold its literal, the low unit first (R227). -/
def State.decodeUnits (s : State) (who : CoreRef) : List Nat → Option Instr
  | [] => none
  | u :: us =>
    let n := s.extUnits u
    if us.length < n then none
    else s.decodeUnit who u (word ((us.take n).getD 0 0 + 0x10000 * (us.take n).getD 1 0))

end Sys2Proof.Machine
end

