-- ==== Sys2Proof/Machine/TisaSys.lean ====
section
/-! DEFINITION. TISA raster and system instructions (R238 to R241, Table 9.7), custom and illegal instructions (R228, R249),
the return of loads and fences, budget overruns (R266), and entries (R242, R243, R264, R400, R460). -/

namespace Sys2Proof.Machine

/-- PWRITE *id* ( handle value -- ). -/
def execPwrite (who : CoreRef) (id : Byte) (s : State) : Host.Outcome State Fault Refusal :=
  .next (s.issue onTab 1 1 (.pwrite id.toNat) who)

/-- PALW ( word value -- ). -/
def execPalw (who : CoreRef) (s : State) : Host.Outcome State Fault Refusal := .next (s.issue onTab 1 1 .palw who)

/-- WAITL. -/
def execWaitl (who : CoreRef) (s : State) : Host.Outcome State Fault Refusal := .next (s.issue onTab 1 1 .waitl who)

/-- LINE ( -- y ). -/
def execLine (who : CoreRef) (s : State) : Host.Outcome State Fault Refusal := .next (s.issue onTab 1 1 .line who)

/-- FLUSH (R233): stores are accepted in order before it, and no unit is fetched ahead in this model. -/
def execFlush (who : CoreRef) (s : State) : Host.Outcome State Fault Refusal :=
  .next (s.issue onAll 1 8 (.stack 0 id) who)

/-- FENCE (R232): a tab thread parks until FENCE_COMPLETE. -/
def execFence (who : CoreRef) (s : State) : Host.Outcome State Fault Refusal := .next (s.issue onAll 1 1 .fence who)

/-- YIELD (R241): the thread then waits until the other threads of its core that are ready have issued once; on the Peg core, and
on the CP, whose threads the firmware defines, it acts as NOP. -/
def execYield (who : CoreRef) (s : State) : Host.Outcome State Fault Refusal := .next (s.issue onAll 1 1 .yield who)

/-- TRAP *t*. -/
def execTrap (who : CoreRef) (t : Byte) (s : State) : Host.Outcome State Fault Refusal :=
  .next (s.issue onAll 1 1 (.trap t.toNat) who)

/-- RETI R:( pc sw -- ). -/
def execReti (who : CoreRef) (s : State) : Host.Outcome State Fault Refusal := .next (s.issue onAll 1 1 .reti who)

/-- SWGET ( -- sw ). -/
def execSwget (who : CoreRef) (s : State) : Host.Outcome State Fault Refusal :=
  .next (s.issue onAll 1 1 (.seq (fun _ r => r.push r.sw)) who)

/-- SWSET ( sw -- ): bits 5:0. -/
def execSwset (who : CoreRef) (s : State) : Host.Outcome State Fault Refusal :=
  .next (s.issue onAll 1 1 (.seq (fun c r => match r.pop with
    | .error e => .error e
    | .ok (v, r) => .ok (r.setSw c.who v))) who)

/-- IDLE. -/
def execIdle (who : CoreRef) (s : State) : Host.Outcome State Fault Refusal := .next (s.issue onIdle 1 1 .idle who)

/-- The extension literal of a custom instruction as its entry declares it: its units, and its value zero-extended. -/
def State.customExt (s : State) (c : Nat) (ext : Word) : Nat × Word :=
  let n := ((IMap.find? s.ucode.entries c).map (fun e => entExt e.toNat)).getD 0
  (n, if n = 1 then ext &&& 0xFFFF else ext)

/-- A custom instruction (R244, R249): one charge for each unit, and what its micro-ops take. On the CP it is the firmware's own
(Table 9.1). -/
def execCustomInstruction (who : CoreRef) (c : BitVec 5) (imm : BitVec 7) (ext : Word) (s : State) :
    Host.Outcome State Fault Refusal :=
  let (n, x) := if who = .cp then (0, ext) else s.customExt c.toNat ext
  .next (s.issue onFull (1 + n) (1 + n) (.custom c.toNat (imm.zeroExtend 32) x) who)

/-- Whether a core runs the instruction that a unit begins (R227, R228). -/
def State.legalUnit (s : State) (who : CoreRef) (u : Nat) : Bool := (s.decodeUnit who u 0).isSome

/-- ILLEGAL_INSTRUCTION (R228): a unit that the core does not run raises fault cause 5; of one that it runs this row is
not the issue. -/
def execIllegalInstruction (who : CoreRef) (unit : Half) (s : State) : Host.Outcome State Fault Refusal :=
  .next (if s.legalUnit who unit.toNat then s else s.issue onAll 1 1 Work.illegal who)

/-! ### Loads and fences come back -/

/-- The Atlas fault or poison that a returned load reports; poison in asset space counts as a fault of cause 4 (R111). -/
def loadFault (asset : Bool) : FetchOutcome → Option (Option AssetFault)
  | .unmapped a => some (some ⟨a, 1⟩)
  | .access a => some (some ⟨a, 2⟩)
  | .hostError a => some (some ⟨a, 3⟩)
  | .decodeError a => some (some ⟨a, 4⟩)
  | .poisoned a _ => some (if asset then some ⟨a, 4⟩ else none)
  | _ => none

/-- A load that meets an Atlas fault or poisoned data (R232): cause 9, and ATLAS_FAULT for the thread's owner, once per thread and
frame (R109). -/
def State.loadFails (h slot : Nat) (k : Thread) (f : Option AssetFault) (s : State) : State :=
  let core := 2 * ((s.head h).cluster.getD 0) + slotCore slot
  let s := match f with
    | some f =>
      let told := (s.head h).cur.tabFaulted.contains slot
      let s := s.modHead h (fun x => { x with cur := { x.cur with tabFaulted := slot :: x.cur.tabFaulted.erase slot } })
      if told then s.countFault k.owner else s.atlasFault k.owner f 0x0108 core
    | none => s
  (s.modThread h slot (fun k => { k with park := none })).faultThread h slot 9

/-- LOAD_RETURN (R231, R232, R258). -/
def State.loadReturn (h slot : Nat) (o : FetchOutcome) (s : State) : State :=
  match s.thread? h slot with
  | none => s
  | some k =>
    match k.park with
    | some (.load reqs size sext post units cont) =>
        let s := s.learnError o
        let s := match o with
          | .corrected p => s.noteCe (wordBase p)
          | .poisoned _ p => s.noteUe (wordBase p)
          | _ => s.noteReqs reqs
        match loadFault (!k.assetLoads.isEmpty) o with
        | some f => s.loadFails h slot k f
        | none =>
          match s.reqRead reqs with
          | .error f => s.loadFails h slot k f
          | .ok bs =>
            let v := loadedWord size sext bs
            let r := match post with
              | some p => k.regs.setPtr p (k.regs.ptr p + 4)
              | none => k.regs
            match r.push v with
            | .error e => (s.modThread h slot (fun k => { k with park := none })).faultThread h slot e
            | .ok r =>
              match cont with
              | none =>
                (s.modThread h slot (fun k => { k with
                  park := none, regs := { r with pc := r.pc + word (2 * units) } })).tabAfter h slot
              | some (us, imm, ext) =>
                let s := s.modThread h slot (fun k => { k with park := none, regs := r })
                State.microEnd h slot units (s.microRun h slot imm ext false us 0 0)
    | _ => s

def execLoadReturn (dt core thread : Nat) (o : FetchOutcome) (s : State) : Host.Outcome State Fault Refusal :=
  .next ((s.tick dt).loadReturn core thread o).advanced

/-- FENCE_COMPLETE (R232, R241): a store outstanding that met poisoned data raises cause 9 at the FENCE. -/
def State.fenceComplete (h slot : Nat) (poisoned : Bool) (s : State) : State :=
  match s.thread? h slot with
  | none => s
  | some k =>
    if k.park ≠ some .fence then s
    else
      let s := s.modThread h slot (fun k => { k with park := none })
      if poisoned then s.faultThread h slot 9
      else (s.modThread h slot (fun k => { k with regs := { k.regs with pc := k.regs.pc + 2 } })).tabAfter h slot

def execFenceComplete (dt core thread : Nat) (poisoned : Bool) (s : State) : Host.Outcome State Fault Refusal :=
  .next ((s.tick dt).fenceComplete core thread poisoned)

/-- TAB_BUDGET_OVERRUN (R266): the next instruction's charge would take the total above the limit. -/
def State.budgetOverrun (h slot charge : Nat) (s : State) : State :=
  match s.thread? h slot with
  | none => s
  | some k => if s.tabReady h slot k && decide (k.limit < k.spent + charge) then s.overrun h slot else s

def execTabBudgetOverrun (dt core thread charge : Nat) (s : State) : Host.Outcome State Fault Refusal :=
  .next ((s.tick dt).budgetOverrun core thread charge)

/-! ### Entries -/

/-- The registers after an entry (R242): PC and SW pushed, SW.ie cleared, and for the fast class the shadow stack
selected, empty. -/
def TRegs.enter (fast : Bool) (handler : Word) (r : TRegs) : TRegs :=
  { r with
    r := r.sw :: r.pc :: r.r, ie := false, pc := handler
    fast := r.fast || fast, sd := if fast then [] else r.sd }

/-- Whether E1 finds two free entries (R242). -/
def TRegs.entryRoom (r : TRegs) : Bool := decide (r.r.length + 2 ≤ 16)

/-- A fast entry of a tab thread (R264): source 0 outranks source 1, and one that arrives by E3 takes the entry over. A
parked access that has not completed is made again after the RETI; a custom sequence in progress completes first. -/
def State.tabEntry (h slot : Nat) (arrivals : List Nat) (s : State) : State :=
  match s.thread? h slot with
  | none => s
  | some k =>
    let mid := match k.park with
      | some (.load _ _ _ _ _ (some _)) => true
      | _ => false
    let ok := k.running && (k.state = .waiting || k.state = .serving) && !k.regs.fast && !mid && !k.pending.isEmpty &&
      (s.head h).cluster.isSome && (s.power.mode = .drive || s.power.mode = .service)
    if !ok then s
    else if !k.regs.entryRoom then (s.modThread h slot (fun k => { k with park := none })).faultThread h slot 3
    else
      let mine := arrivals.filter (fun i => (i = 0 && k.set.fret0 ≠ 0xFF) || (i = 1 && k.set.fret1 ≠ 0xFF))
      let all := k.pending ++ mine.filter (fun i => !k.pending.contains i)
      let src := if all.contains 0 then 0 else 1
      s.modThread h slot (fun k => { k with
        regs := k.regs.enter true (if src = 0 then k.set.handler0 else k.set.handler1)
        fast := some src, pending := all.filter (· != src), park := none, fastCharge := 0
        wasWaiting := k.state = .waiting })

/-- The Peg core's sources that may enter now (R242, R400): 5 is fast, the others normal. -/
def TRegs.pegAllows (r : TRegs) (i : Nat) : Bool := if i = 5 then !r.fast else r.ie

/-- An entry of the Peg core (R400): a higher source number has higher priority. -/
def State.pegEntry (arrivals : List Nat) (s : State) : State :=
  let g := s.peg
  let r := g.regs
  if !g.running || !s.pegAwake || !g.pending.any r.pegAllows then s
  else if !r.entryRoom then s.pegFault 3
  else
    let all := g.pending ++ arrivals.filter (fun i => decide (1 ≤ i) && decide (i ≤ 5))
    let src := (all.filter r.pegAllows).foldl max 0
    let handler := word (leNat (Mem.readRun g.code (4 * src) 4))
    { s with peg := { s.peg with
        regs := r.enter (src = 5) handler, pending := all.erase src, idle := false } }

/-- The CP source that an entry would be taken for (R460), among the classes that may enter. -/
def State.chooseFor (s : State) (fast normal : Bool) : Option Nat :=
  let ready := (List.range 512).filter (fun i =>
    let x := s.src i
    s.srcPending i && x.enabled && (if x.fast then fast else normal && !s.intc.holding.contains (i / 16)))
  ready.foldl (fun best i => match best with
    | none => some i
    | some b => if (s.src b).rank < (s.src i).rank then some i else some b) none

/-- An entry of the CP (R242, R243, R460 to R465). The handler's address is a free value (assumption 5). -/
def State.cpEntry (arrivals : List Nat) (s : State) : State :=
  let ready := { s with cp := { s.cp with idle := false } }.cpReady && !s.intcStopped
  let r := s.cp.regs
  let first := s.chooseFor (!r.fast) r.ie
  let s := arrivals.foldl (fun s i => s.sourceEvent i true) s
  if !ready || first.isNone then s
  else if !r.entryRoom then s.cpFault 3
  else match s.chooseFor (!r.fast) r.ie with
    | none => s
    | some i =>
      let fast := (s.src i).fast
      let (v, s) := s.fresh
      let s := s.takeSource i
      { s with cp := { regs := r.enter fast (word v &&& 0xFFFFFFFE), idle := false } }

/-- CORE_ENTRY (R242). -/
def execCoreEntry (dt : Nat) (who : CoreRef) (arrivals : List Nat) (s : State) : Host.Outcome State Fault Refusal :=
  let s := s.tick dt
  .next (match who with
    | .tab h slot => s.tabEntry h slot arrivals
    | .peg => s.pegEntry arrivals
    | .cp => s.cpEntry arrivals)

end Sys2Proof.Machine
end

