-- ==== Sys2Proof/Machine/Fetches.lean ====
section
/-! DEFINITION. How waits end: commands that waited while they were processed (R546), and read requests whose data returns
or faults (R107 to R113, R316). -/

namespace Sys2Proof.Machine

/-! ### Commands that waited (R546) -/

/-- The pages of a mapping are zeroed and mapped (R102). -/
def State.mapEnd (r : CmdRef) (ls : List Leaf) (n : Nat) (s : State) : State :=
  let s := ls.foldl (fun s l => s.physZero l.out l.size) s
  (s.modTenant r.tenant (fun x => { x with atlas := x.atlas.addAll r.tenant ls })).completeOk r [word n]

/-- An unmapping ends once no request translated under it is outstanding (R103). -/
def State.unmapEnd (r : CmdRef) (ls : List Leaf) (s : State) : State :=
  if ls.any (fun l => s.loadsOutstanding r.tenant l.base l.size) then s else s.completeOk r []

/-- A bank is zeroed and assigned (R91). -/
def State.bankEnd (r : CmdRef) (b cls inst : Nat) (s : State) : State :=
  ((s.physZero (bankBase + b * 0x400000) 0x400000).modBank b (fun k => { k with cls := cls, inst := inst })).completeOk r []

/-- What a waiting command does when its wait ends. -/
def State.jobEnd (r : CmdRef) (s : State) : Job → State
  | .map ls n => s.mapEnd r ls n
  | .unmap ls => s.unmapEnd r ls
  | .bank b cls inst => s.bankEnd r b cls inst
  | .cartouche _ => match s.disp.cart.loads.find? (fun l => l.ref = r) with
    | none => s
    | some l => s.loadDone l
  | .preroll _ => match s.prerolls.find? (fun p => p.ref = r) with
    | none => s
    | some p => s.prerollEnd p

/-- The flight of a tenant's command by its entry count. -/
def State.flightAt (s : State) (t : Nat) (index : Word) : Option Flight :=
  s.flights.find? (fun f => f.cmd.tenant = t && f.cmd.index = index)

/-- COMMAND_WAIT_END (R546). -/
def State.waitEnd (t : Nat) (index : Word) (s : State) : State :=
  match s.flightAt t index with
  | none => s
  | some f => match f.stage with
    | .waiting j => s.jobEnd (f.cmd.ref f.opcode) j
    | _ => s

def execCommandWaitEnd (dt t : Nat) (index : Word) (s : State) : Host.Outcome State Fault Refusal :=
  .next ((s.tick dt).waitEnd t index).advanced

/-! ### The Cartouche store (R316) -/

/-- Whether a physical address lies in the Cartouche store. -/
def inStore (p : Nat) : Bool := decide (cartBase ≤ p) && decide (p < cartBase + 0x400000)

/-- An image keeps the blocks that an uncorrectable error has spoilt, by their place in it. -/
def CImage.spoil (m : CImage) (off : Nat) : CImage :=
  match m.pages.findIdx? (· = off / 4096) with
  | none => m
  | some i => { m with damaged := true, bad := (i * 64 + off % 4096 / 64) :: m.bad }

/-- A read of the store meets an error: `kind` 1 corrected, 2 uncorrectable. -/
def State.storeError (p kind : Nat) (s : State) : State :=
  let off := p - cartBase
  let page := off / 4096
  let k := s.disp.cart
  let image := ((List.find? (fun (e : Nat × CImage) => e.2.pages.contains page) k.images).map Prod.fst).or
    (((k.replaces.find? (fun r => r.new.pages.contains page)).map (·.image)).or
      ((k.loads.find? (fun l => !l.sample && l.pages.contains page)).map (·.number)))
  let s := (s.eventLimited 1 0x0903 0 64
    [match image with | some i => word i | none => 0xFFFFFFFF, word kind, word off]).1
  s.modDisp (fun d => { d with cart :=
    if kind = 1 then { d.cart with ce := satInc 0xFFFF d.cart.ce 1 }
    else { d.cart with
      ue := satInc 0xFF d.cart.ue 1
      images := d.cart.images.map (fun (e : Nat × CImage) => (e.1, e.2.spoil off))
      replaces := d.cart.replaces.map (fun r => { r with new := r.new.spoil off }) } })

/-! ### Read requests return (R107 to R113) -/

/-- The fault that an outcome is, if it is one; poisoned data counts as cause 4 (R111). -/
def outcomeFault : FetchOutcome → Option AssetFault
  | .unmapped a => some ⟨a, 1⟩
  | .access a => some ⟨a, 2⟩
  | .hostError a => some ⟨a, 3⟩
  | .decodeError a => some ⟨a, 4⟩
  | .poisoned a _ => some ⟨a, 4⟩
  | .data => none
  | .corrected _ => none
  | .retried _ => none

/-- The counters and events of an outcome (R110, R316). -/
def State.countError (o : FetchOutcome) (s : State) : State :=
  match o with
  | .corrected p => if inStore p then s.storeError p 1 else s.noteCe (wordBase p)
  | .poisoned _ p => if inStore p then s.storeError p 2 else s.noteUe (wordBase p)
  | _ => s

/-- A voice's fetch faults (R108, R378): it outputs zero from the next sample and sets its fault flag. A voice that has its
fault flag set already makes no further event, and the fault is counted alone (R107, R109). -/
def State.voiceFetchFault (v cause : Nat) (f : Option AssetFault) (s : State) : State :=
  let x := s.voice v
  if x.fault ≠ 0 || x.faultDue ≠ 0 then
    match f, x.tenant v with
    | some _, some t => s.countFault t
    | _, _ => s
  else
  let s := s.modVoice v (fun x => { x with faultDue := cause })
  let s := match f, x.tenant v with
    | some f, some t => s.atlasFault t f 0x030A 0
    | _, _ => s
  s.voiceFaultReport v cause 1

/-- The read of a command's data faults while the command waits (R81, R109): a load into the store is given up. -/
def State.commandFetchFault (t : Nat) (index : Word) (f : AssetFault) (s : State) : State :=
  match s.flightAt t index with
  | none => s
  | some g => match g.stage with
    | .waiting (.cartouche _) =>
      let r := g.cmd.ref g.opcode
      let s := s.modDisp (fun d => { d with cart := { d.cart with loads := d.cart.loads.filter (fun l => l.ref != r) } })
      (s.atlasFault t f 0x0300 0).complete r eFault 0x10 []
    | _ => s

/-- A blit meets a fault of a read (R481): it ends there. DEDUCED (assumption 47): no pixel of it is counted. -/
def State.blitFetchFault (f : AssetFault) (s : State) : State :=
  match s.dma.blitRun with
  | none => s
  | some j =>
    let s := { s with dma := { s.dma with blitRun := none } }
    (s.atlasFault j.ref.tenant f 0x030D 0).complete j.ref eFault (j.offsetOf f.addr) [0, 0, if j.backwards then 1 else 0]

/-- What a fault does to its requester (Tables 4.9 and 4.10). -/
def State.requesterFault (req : Requester) (f : AssetFault) (poison : Bool) (s : State) : State :=
  match req with
  | .plane h slot _ px => match IMap.find? (s.head h).planes slot with
    | none => s
    | some p => (s.planeFault h slot p.owner f).cutPlane h slot px
  | .lineList h slot => match (IMap.find? (s.head h).lists slot).bind (·.owner) with
    | none => s
    | some t => (if poison then s else s.atlasFault t f 0x0104 ((s.head h).cluster.getD 0)).cutList h slot
  | .voice v => s.voiceFetchFault v 1 (some f)
  | .cartoucheVoice v => s.voiceFetchFault v 4 none
  | .cartoucheScan _ _ => s
  | .dma n => match (s.dmaCh n).jobs with
    | [] => s
    | j :: _ => match j.descs with
      | [] => s
      | d :: _ => if (s.dmaCh n).state = .ring then (match j.stopped with
          | some place => s.dmaFail n j f 0x10 place
          | none => s.dmaFail n j f noField 2) else s.dmaStop n j d f 0
  | .blit => s.blitFetchFault f
  | .command t i => s.commandFetchFault t i f
  | .cpFirmware => s.cpFault 9
  | .scan _ _ _ => s
  | .ring t => match s.tenant? t with
    | none => s
    | some x => if x.mbox.state = .running then s.stopMbox t eFault false else s

/-- FETCH_RETURN (R113): the tag is free again; errors are counted, and a fault acts on its requester. A scan engine's own
counters count with the line that shows the pixels (R111). -/
def State.fetchReturn (req : Requester) (o : FetchOutcome) (s : State) : State :=
  let s := s.learnError o
  let s := match req with
    | .scan _ _ _ => s
    | _ => s.countError o
  match outcomeFault o with
  | none => s
  | some f => s.requesterFault req f (match o with | .poisoned _ _ => true | _ => false)

def execFetchReturn (dt : Nat) (req : Requester) (o : FetchOutcome) (s : State) : Host.Outcome State Fault Refusal :=
  .next ((s.tick dt).fetchReturn req o).advanced

end Sys2Proof.Machine
end

