-- ==== Sys2Proof/Machine/MailRows.lean ====
section
/-! DEFINITION. The rows of mailboxes and of the device status page (R61 to R78), and of serial transfers' ends. -/

namespace Sys2Proof.Machine

/-- COMMAND_FETCH (R72): a round, and the rejection of unknown commands whose turns have come. -/
def execCommandFetch (dt : Nat) (s : State) : Host.Outcome State Fault Refusal := .next (s.tick dt).turned.fetchRound.turned

/-- MAILBOX_DRAIN_END (R65). -/
def execMailboxDrainEnd (dt t : Nat) (s : State) : Host.Outcome State Fault Refusal := .next ((s.tick dt).drainEnd t)

/-- CMD_TAIL_WRITE (R64, R425). -/
def execCmdTailWrite (dt t : Nat) (v : Word) (s : State) : Host.Outcome State Fault Refusal :=
  let s := s.tick dt
  .next (if s.asleep then s.latchWrite (dbOffset t 0) v else s.writeCmdTail t v)

/-- CPL_HEAD_WRITE (R64, R425). -/
def execCplHeadWrite (dt t : Nat) (v : Word) (s : State) : Host.Outcome State Fault Refusal :=
  let s := s.tick dt
  .next (if s.asleep then s.latchWrite (dbOffset t 8) v else s.writeCplHead t v)

/-- MBOX_ENABLE (R63). -/
def execMboxEnable (dt t : Nat) (s : State) : Host.Outcome State Fault Refusal :=
  let s := s.tick dt
  .next (if s.asleep then s.latchWrite (dbOffset t 0x24) 1 else s.mboxEnable t)

/-- MBOX_DISABLE (R65). -/
def execMboxDisable (dt t : Nat) (s : State) : Host.Outcome State Fault Refusal :=
  let s := s.tick dt
  .next (if s.asleep then s.latchWrite (dbOffset t 0x24) 0 else s.mboxDisable t)

/-- MBOX_RESET (R65). -/
def execMboxReset (dt t : Nat) (enable : Bool) (s : State) : Host.Outcome State Fault Refusal :=
  let s := s.tick dt
  .next (if s.asleep then s.latchWrite (dbOffset t 0x24) (if enable then 3 else 2) else s.mboxReset t enable)

/-- DEV_EVENT_CLEAR (R75): discarded before fw_ready (R78). -/
def execDevEventClear (dt : Nat) (v : Word) (s : State) : Host.Outcome State Fault Refusal :=
  let s := s.tick dt
  .next (if s.boot.fwReady then s.clearDevEvent v else s)

/-- DEV_EVENT_EN_WRITE (R75). -/
def execDevEventEnWrite (dt : Nat) (v : Word) (s : State) : Host.Outcome State Fault Refusal :=
  let s := s.tick dt
  .next (if s.boot.fwReady then s.writeEventEn v else s)

/-- PASID_LOCK (R77): a one sets the lock; it clears only at reset. -/
def execPasidLock (dt : Nat) (v : Word) (s : State) : Host.Outcome State Fault Refusal :=
  let s := s.tick dt
  .next (if s.boot.fwReady && v.getLsbD 0 then { s with dev := { s.dev with pasidLock := true } } else s)

/-- MERIDIAN_LO_READ (R77): the read returns the low half and latches the high half of the same instant. -/
def execMeridianLoRead (dt : Nat) (s : State) : Host.Outcome State Fault Refusal :=
  let s := s.tick dt
  .next (if s.legend.built then
    { s with dev := { s.dev with readData := dword (s.now.truncate 32), meridianHi := (s.now >>> 32).truncate 32 } }
  else { s with dev := { s.dev with readData := 0 } })

/-- IRQ_AGE_LIMIT (R76): the vector is raised once the age limit has passed since the first record. -/
def execIrqAgeLimit (dt t : Nat) (s : State) : Host.Outcome State Fault Refusal := .next ((s.tick dt).moderate t)

/-- RECORD_WRITE_ERROR_COMPLETION (R64, R107). -/
def execRecordWriteErrorCompletion (dt t : Nat) (s : State) : Host.Outcome State Fault Refusal :=
  .next (((s.tick dt).countFault t).recordWriteError t)

/-- HELD_RECORD_WRITE (R70): a command that waited for a record with the fence flag may be rejected then (R71). -/
def execHeldRecordWrite (dt t : Nat) (s : State) : Host.Outcome State Fault Refusal := .next ((s.tick dt).heldWrite t).turned

/-- SERIAL_TRANSFER_DONE (R493). -/
def execSerialTransferDone (dt k : Nat) (o : SerialOutcome) (s : State) : Host.Outcome State Fault Refusal :=
  .next ((s.tick dt).serialDone k o).advanced

end Sys2Proof.Machine
end

