-- ==== Sys2Proof/Machine/TisaFlow.lean ====
section
/-! DEFINITION. TISA memory and pointer instructions (R231, R236) and control transfers (R229, R237, Tables 9.5 and 9.6). -/

namespace Sys2Proof.Machine

/-- LD32: load from P*n* + *k* x size. -/
def execLd32 (who : CoreRef) (p : BitVec 3) (k : BitVec 5) (s : State) : Host.Outcome State Fault Refusal :=
  .next (s.issue onAll 1 1 (.load p.toNat k.toNat 4 false false) who)

/-- LD16U: load from P*n* + *k* x size. -/
def execLd16u (who : CoreRef) (p : BitVec 3) (k : BitVec 5) (s : State) : Host.Outcome State Fault Refusal :=
  .next (s.issue onAll 1 1 (.load p.toNat k.toNat 2 false false) who)

/-- LD16S: load from P*n* + *k* x size. -/
def execLd16s (who : CoreRef) (p : BitVec 3) (k : BitVec 5) (s : State) : Host.Outcome State Fault Refusal :=
  .next (s.issue onAll 1 1 (.load p.toNat k.toNat 2 true false) who)

/-- LD8U: load from P*n* + *k* x size. -/
def execLd8u (who : CoreRef) (p : BitVec 3) (k : BitVec 5) (s : State) : Host.Outcome State Fault Refusal :=
  .next (s.issue onAll 1 1 (.load p.toNat k.toNat 1 false false) who)

/-- LD8S: load from P*n* + *k* x size. -/
def execLd8s (who : CoreRef) (p : BitVec 3) (k : BitVec 5) (s : State) : Host.Outcome State Fault Refusal :=
  .next (s.issue onAll 1 1 (.load p.toNat k.toNat 1 true false) who)

/-- ST32: store to P*n* + *k* x size. -/
def execSt32 (who : CoreRef) (p : BitVec 3) (k : BitVec 5) (s : State) : Host.Outcome State Fault Refusal :=
  .next (s.issue onAll 1 1 (.store p.toNat k.toNat 4 false) who)

/-- ST16: store to P*n* + *k* x size. -/
def execSt16 (who : CoreRef) (p : BitVec 3) (k : BitVec 5) (s : State) : Host.Outcome State Fault Refusal :=
  .next (s.issue onAll 1 1 (.store p.toNat k.toNat 2 false) who)

/-- ST8: store to P*n* + *k* x size. -/
def execSt8 (who : CoreRef) (p : BitVec 3) (k : BitVec 5) (s : State) : Host.Outcome State Fault Refusal :=
  .next (s.issue onAll 1 1 (.store p.toNat k.toNat 1 false) who)

/-- LD32P: load from P*n*, then P*n* += 4. -/
def execLd32p (who : CoreRef) (p : BitVec 3) (s : State) : Host.Outcome State Fault Refusal :=
  .next (s.issue onAll 1 1 (.load p.toNat 0 4 false true) who)

/-- ST32P: store to P*n*, then P*n* += 4. -/
def execSt32p (who : CoreRef) (p : BitVec 3) (s : State) : Host.Outcome State Fault Refusal :=
  .next (s.issue onAll 1 1 (.store p.toNat 0 4 true) who)

/-- PGET ( -- P*n* ). -/
def execPget (who : CoreRef) (p : BitVec 3) (s : State) : Host.Outcome State Fault Refusal :=
  .next (s.issue onAll 1 1 (.seq (fun _ r => r.push (r.ptr p.toNat))) who)

/-- PSET ( a -- ): P*n* takes a. -/
def execPset (who : CoreRef) (p : BitVec 3) (s : State) : Host.Outcome State Fault Refusal :=
  .next (s.issue onAll 1 1 (.seq (fun _ r => match r.pop with
    | .error e => .error e
    | .ok (a, r) => .ok (r.setPtr p.toNat a))) who)

/-- PADD ( a -- ): P*n* takes P*n* + a. -/
def execPadd (who : CoreRef) (p : BitVec 3) (s : State) : Host.Outcome State Fault Refusal :=
  .next (s.issue onAll 1 1 (.seq (fun _ r => match r.pop with
    | .error e => .error e
    | .ok (a, r) => .ok (r.setPtr p.toNat (r.ptr p.toNat + a)))) who)

/-- PADDI: P*n* takes P*n* + *k* sign-extended. -/
def execPaddi (who : CoreRef) (p : BitVec 3) (k : BitVec 5) (s : State) : Host.Outcome State Fault Refusal :=
  .next (s.issue onAll 1 1 (.seq (fun _ r => .ok (r.setPtr p.toNat (r.ptr p.toNat + k.signExtend 32)))) who)

/-! ### Control transfers -/

/-- A branch that pops two operands whether taken or not (R237). -/
def Work.branch2 (off : BitVec 9) (cond : Word → Word → Bool) : Work :=
  .regs (fun c r => match r.ds with
    | b :: a :: xs =>
      let r := r.setDs xs
      if cond a b then c.go (c.rel off) r else .ok { r with pc := c.next }
    | _ => .error 2)

/-- A branch that pops one operand. -/
def Work.branch1 (off : BitVec 9) (cond : Word → Bool) : Work :=
  .regs (fun c r => match r.ds with
    | a :: xs =>
      let r := r.setDs xs
      if cond a then c.go (c.rel off) r else .ok { r with pc := c.next }
    | _ => .error 2)

/-- Whether a small-profile condition holds (Table 9.6). -/
def TRegs.holds (r : TRegs) (cc : Nat) : Bool :=
  match cc with
  | 0 => r.z | 1 => !r.z | 2 => r.c | 3 => !r.c | 4 => r.n | 5 => !r.n | 6 => r.v | 7 => !r.v
  | 8 => r.c && !r.z | 9 => !r.c || r.z | 10 => r.n = r.v | 11 => r.n ≠ r.v
  | 12 => !r.z && r.n = r.v | 13 => r.z || r.n ≠ r.v | _ => true

/-- A call: the return address is pushed, then control passes. -/
def Ctx.callTo (c : Ctx) (target : Word) (r : TRegs) : Except Nat TRegs :=
  match r.rpush c.next with
  | .error e => .error e
  | .ok r => c.go target r

/-- BEQ: taken when a = b. -/
def execBeq (who : CoreRef) (off : BitVec 9) (s : State) : Host.Outcome State Fault Refusal :=
  .next (s.issue onFull 1 1 (.branch2 off (· = ·)) who)

/-- BNE: taken when a ≠ b. -/
def execBne (who : CoreRef) (off : BitVec 9) (s : State) : Host.Outcome State Fault Refusal :=
  .next (s.issue onFull 1 1 (.branch2 off (· ≠ ·)) who)

/-- BLT: taken when a < b, signed. -/
def execBlt (who : CoreRef) (off : BitVec 9) (s : State) : Host.Outcome State Fault Refusal :=
  .next (s.issue onFull 1 1 (.branch2 off (fun a b => a.toInt < b.toInt)) who)

/-- BGE: taken when a ≥ b, signed. -/
def execBge (who : CoreRef) (off : BitVec 9) (s : State) : Host.Outcome State Fault Refusal :=
  .next (s.issue onFull 1 1 (.branch2 off (fun a b => b.toInt ≤ a.toInt)) who)

/-- BLTU: taken when a < b, unsigned. -/
def execBltu (who : CoreRef) (off : BitVec 9) (s : State) : Host.Outcome State Fault Refusal :=
  .next (s.issue onFull 1 1 (.branch2 off (fun a b => a.toNat < b.toNat)) who)

/-- BGEU: taken when a ≥ b, unsigned. -/
def execBgeu (who : CoreRef) (off : BitVec 9) (s : State) : Host.Outcome State Fault Refusal :=
  .next (s.issue onFull 1 1 (.branch2 off (fun a b => b.toNat ≤ a.toNat)) who)

/-- BZ: taken when a = 0. -/
def execBz (who : CoreRef) (off : BitVec 9) (s : State) : Host.Outcome State Fault Refusal :=
  .next (s.issue onFull 1 1 (.branch1 off (· = 0)) who)

/-- BNZ: taken when a ≠ 0. -/
def execBnz (who : CoreRef) (off : BitVec 9) (s : State) : Host.Outcome State Fault Refusal :=
  .next (s.issue onFull 1 1 (.branch1 off (· ≠ 0)) who)

/-- B*cc*: the small profile's conditional branch; condition 15 is reserved (R228). -/
def execBcc (who : CoreRef) (cc : BitVec 4) (off : BitVec 8) (s : State) : Host.Outcome State Fault Refusal :=
  .next (s.issue onSmall 1 1 (.regs (fun c r =>
    if cc = 15 then .error 5
    else if r.holds cc.toNat then c.go (c.rel off) r else .ok { r with pc := c.next })) who)

/-- JMP. -/
def execJmp (who : CoreRef) (off : BitVec 10) (s : State) : Host.Outcome State Fault Refusal :=
  .next (s.issue onAll 1 1 (.regs (fun c r => c.go (c.rel off) r)) who)

/-- CALL R:( -- ret ). -/
def execCall (who : CoreRef) (off : BitVec 10) (s : State) : Host.Outcome State Fault Refusal :=
  .next (s.issue onAll 1 1 (.regs (fun c r => c.callTo (c.rel off) r)) who)

/-- JMPI ( t -- ). -/
def execJmpi (who : CoreRef) (s : State) : Host.Outcome State Fault Refusal :=
  .next (s.issue onAll 1 1 (.regs (fun c r => match r.pop with
    | .error e => .error e
    | .ok (t, r) => c.go t r)) who)

/-- CALLI ( t -- ) R:( -- ret ). -/
def execCalli (who : CoreRef) (s : State) : Host.Outcome State Fault Refusal :=
  .next (s.issue onAll 1 1 (.regs (fun c r => match r.pop with
    | .error e => .error e
    | .ok (t, r) => c.callTo t r)) who)

/-- RET R:( ret -- ). -/
def execRet (who : CoreRef) (s : State) : Host.Outcome State Fault Refusal :=
  .next (s.issue onAll 1 1 (.regs (fun c r => match r.rpop with
    | .error e => .error e
    | .ok (t, r) => c.go t r)) who)

/-- JMPL: to the absolute address in the extension. -/
def execJmpl (who : CoreRef) (target : Word) (s : State) : Host.Outcome State Fault Refusal :=
  .next (s.issue onAll 3 3 (.regs (fun c r => c.go target r)) who)

/-- CALLL: as JMPL; ret is the address after the extension. -/
def execCalll (who : CoreRef) (target : Word) (s : State) : Host.Outcome State Fault Refusal :=
  .next (s.issue onAll 3 3 (.regs (fun c r => c.callTo target r)) who)

end Sys2Proof.Machine
end

