-- ==== Sys2Proof/Machine/TisaStack.lean ====
section
/-! DEFINITION. TISA stack, ALU and literal instructions (R234 to R236, Table 9.4). Stack effects are written with TOS at
the right; `Work.stack` takes the entries top first. -/

namespace Sys2Proof.Machine

/-- NOP ( -- ). -/
def execNopInstruction (who : CoreRef) (s : State) : Host.Outcome State Fault Refusal :=
  .next (s.issue onAll 1 1 (.stack 0 id) who)

/-- DROP ( a -- ). -/
def execDrop (who : CoreRef) (s : State) : Host.Outcome State Fault Refusal :=
  .next (s.issue onAll 1 1 (.stack 1 (fun _ => [])) who)

/-- DUP ( a -- a a ). -/
def execDup (who : CoreRef) (s : State) : Host.Outcome State Fault Refusal :=
  .next (s.issue onAll 1 1 (.stack 1 (fun x => x ++ x)) who)

/-- SWAP ( a b -- b a ). -/
def execSwap (who : CoreRef) (s : State) : Host.Outcome State Fault Refusal :=
  .next (s.issue onAll 1 1 (.stack 2 List.reverse) who)

/-- OVER ( a b -- a b a ). -/
def execOver (who : CoreRef) (s : State) : Host.Outcome State Fault Refusal :=
  .next (s.issue onAll 1 1 (.stack 2 (fun x => x.drop 1 ++ x)) who)

/-- ROT ( a b c -- b c a ). -/
def execRot (who : CoreRef) (s : State) : Host.Outcome State Fault Refusal :=
  .next (s.issue onAll 1 1 (.stack 3 (fun x => x.drop 2 ++ x.take 2)) who)

/-- NIP ( a b -- b ). -/
def execNip (who : CoreRef) (s : State) : Host.Outcome State Fault Refusal :=
  .next (s.issue onAll 1 1 (.stack 2 (fun x => x.take 1)) who)

/-- TUCK ( a b -- b a b ). -/
def execTuck (who : CoreRef) (s : State) : Host.Outcome State Fault Refusal :=
  .next (s.issue onAll 1 1 (.stack 2 (fun x => x ++ x.take 1)) who)

/-- PICK *n*: copy entry *n* below TOS. -/
def execPick (who : CoreRef) (n : BitVec 5) (s : State) : Host.Outcome State Fault Refusal :=
  .next (s.issue onAll 1 1 (.stack (n.toNat + 1) (fun x => x.drop n.toNat ++ x)) who)

/-- DEPTH ( -- d ): entries before the push. -/
def execDepth (who : CoreRef) (s : State) : Host.Outcome State Fault Refusal :=
  .next (s.issue onAll 1 1 (.seq (fun _ r => r.push (word r.ds.length))) who)

/-- TOR ( a -- ) R:( -- a ). -/
def execTor (who : CoreRef) (s : State) : Host.Outcome State Fault Refusal :=
  .next (s.issue onAll 1 1 (.seq (fun _ r => match r.pop with
    | .error e => .error e
    | .ok (a, r) => r.rpush a)) who)

/-- FROMR ( -- a ) R:( a -- ). -/
def execFromr (who : CoreRef) (s : State) : Host.Outcome State Fault Refusal :=
  .next (s.issue onAll 1 1 (.seq (fun _ r => match r.rpop with
    | .error e => .error e
    | .ok (a, r) => r.push a)) who)

/-- RFETCH ( -- a ) R:( a -- a ). -/
def execRfetch (who : CoreRef) (s : State) : Host.Outcome State Fault Refusal :=
  .next (s.issue onAll 1 1 (.seq (fun _ r => match r.rpop with
    | .error e => .error e
    | .ok (a, _) => r.push a)) who)

/-- RDROP R:( a -- ). -/
def execRdrop (who : CoreRef) (s : State) : Host.Outcome State Fault Refusal :=
  .next (s.issue onAll 1 1 (.seq (fun _ r => r.rpop.map Prod.snd)) who)

/-! ### ALU -/

/-- ADD ( a b -- a+b ). -/
def execAdd (who : CoreRef) (s : State) : Host.Outcome State Fault Refusal :=
  .next (s.issue onAll 1 1 (.arith true (fun _ a b => addWith a b false)) who)

/-- SUB ( a b -- a-b ). -/
def execSub (who : CoreRef) (s : State) : Host.Outcome State Fault Refusal :=
  .next (s.issue onAll 1 1 (.arith true (fun _ a b => subWith a b true)) who)

/-- AND ( a b -- r ). -/
def execAndOp (who : CoreRef) (s : State) : Host.Outcome State Fault Refusal :=
  .next (s.issue onAll 1 1 (.alu2 (· &&& ·)) who)

/-- OR ( a b -- r ). -/
def execOrOp (who : CoreRef) (s : State) : Host.Outcome State Fault Refusal :=
  .next (s.issue onAll 1 1 (.alu2 (· ||| ·)) who)

/-- XOR ( a b -- r ). -/
def execXorOp (who : CoreRef) (s : State) : Host.Outcome State Fault Refusal :=
  .next (s.issue onAll 1 1 (.alu2 (· ^^^ ·)) who)

/-- SHL ( a b -- r ). -/
def execShl (who : CoreRef) (s : State) : Host.Outcome State Fault Refusal :=
  .next (s.issue onAll 1 1 (.alu2 (fun a b => a <<< shiftBy b)) who)

/-- SHR ( a b -- r ). -/
def execShr (who : CoreRef) (s : State) : Host.Outcome State Fault Refusal :=
  .next (s.issue onAll 1 1 (.alu2 (fun a b => a >>> shiftBy b)) who)

/-- SAR ( a b -- r ). -/
def execSar (who : CoreRef) (s : State) : Host.Outcome State Fault Refusal :=
  .next (s.issue onAll 1 1 (.alu2 (fun a b => a.sshiftRight (shiftBy b))) who)

/-- MUL ( a b -- r ): the low word of the product. -/
def execMul (who : CoreRef) (s : State) : Host.Outcome State Fault Refusal :=
  .next (s.issue onAll 1 1 (.alu2 (· * ·)) who)

/-- MULHU ( a b -- r ): the high word of the unsigned product. -/
def execMulhu (who : CoreRef) (s : State) : Host.Outcome State Fault Refusal :=
  .next (s.issue onFull 1 2 (.alu2 (fun a b => word (a.toNat * b.toNat / 2 ^ 32))) who)

/-- MULHS ( a b -- r ): the high word of the signed product. -/
def execMulhs (who : CoreRef) (s : State) : Host.Outcome State Fault Refusal :=
  .next (s.issue onFull 1 2 (.alu2 (fun a b => wordI (a.toInt * b.toInt / 2 ^ 32))) who)

/-- DIVU ( a b -- r ). -/
def execDivu (who : CoreRef) (s : State) : Host.Outcome State Fault Refusal :=
  .next (s.issue onFull 1 18 (.alu2 divuW) who)

/-- DIVS ( a b -- r ). -/
def execDivs (who : CoreRef) (s : State) : Host.Outcome State Fault Refusal :=
  .next (s.issue onFull 1 18 (.alu2 divsW) who)

/-- REMU ( a b -- r ). -/
def execRemu (who : CoreRef) (s : State) : Host.Outcome State Fault Refusal :=
  .next (s.issue onFull 1 18 (.alu2 remuW) who)

/-- REMS ( a b -- r ). -/
def execRems (who : CoreRef) (s : State) : Host.Outcome State Fault Refusal :=
  .next (s.issue onFull 1 18 (.alu2 remsW) who)

/-- MIN ( a b -- r ), signed. -/
def execMin (who : CoreRef) (s : State) : Host.Outcome State Fault Refusal :=
  .next (s.issue onAll 1 1 (.alu2 (fun a b => if a.toInt < b.toInt then a else b)) who)

/-- MAX ( a b -- r ), signed. -/
def execMax (who : CoreRef) (s : State) : Host.Outcome State Fault Refusal :=
  .next (s.issue onAll 1 1 (.alu2 (fun a b => if a.toInt < b.toInt then b else a)) who)

/-- MINU ( a b -- r ), unsigned. -/
def execMinu (who : CoreRef) (s : State) : Host.Outcome State Fault Refusal :=
  .next (s.issue onAll 1 1 (.alu2 (fun a b => if a.toNat < b.toNat then a else b)) who)

/-- MAXU ( a b -- r ), unsigned. -/
def execMaxu (who : CoreRef) (s : State) : Host.Outcome State Fault Refusal :=
  .next (s.issue onAll 1 1 (.alu2 (fun a b => if a.toNat < b.toNat then b else a)) who)

/-- SLT ( a b -- r ), signed. -/
def execSlt (who : CoreRef) (s : State) : Host.Outcome State Fault Refusal :=
  .next (s.issue onAll 1 1 (.alu2 (fun a b => if a.toInt < b.toInt then 1 else 0)) who)

/-- SLTU ( a b -- r ), unsigned. -/
def execSltu (who : CoreRef) (s : State) : Host.Outcome State Fault Refusal :=
  .next (s.issue onAll 1 1 (.alu2 (fun a b => if a.toNat < b.toNat then 1 else 0)) who)

/-- NOT ( a -- r ). -/
def execNotOp (who : CoreRef) (s : State) : Host.Outcome State Fault Refusal :=
  .next (s.issue onAll 1 1 (.alu1 (~~~ ·)) who)

/-- NEG ( a -- r ): 0 - TOS, with the flags of that subtraction (R235). -/
def execNeg (who : CoreRef) (s : State) : Host.Outcome State Fault Refusal :=
  .next (s.issue onAll 1 1 (.seq (fun c r => match r.ds with
    | a :: xs => .ok ((r.setDs ((subWith 0 a true).1 :: xs)).flagAll (c.who = .peg) (subWith 0 a true))
    | [] => .error 2)) who)

/-- ABS ( a -- r ). -/
def execAbs (who : CoreRef) (s : State) : Host.Outcome State Fault Refusal :=
  .next (s.issue onAll 1 1 (.alu1 absW) who)

/-- CLZ ( a -- r ): the leading zero count. -/
def execClz (who : CoreRef) (s : State) : Host.Outcome State Fault Refusal :=
  .next (s.issue onAll 1 1 (.alu1 clzW) who)

/-- SEXT8 ( a -- r ). -/
def execSext8 (who : CoreRef) (s : State) : Host.Outcome State Fault Refusal :=
  .next (s.issue onAll 1 1 (.alu1 (fun a => wordI (signed 8 a.toNat))) who)

/-- SEXT16 ( a -- r ). -/
def execSext16 (who : CoreRef) (s : State) : Host.Outcome State Fault Refusal :=
  .next (s.issue onAll 1 1 (.alu1 (fun a => wordI (signed 16 a.toNat))) who)

/-- CMP ( a b -- ): the flags of a - b. -/
def execCmp (who : CoreRef) (s : State) : Host.Outcome State Fault Refusal :=
  .next (s.issue onSmall 1 1 (.arith false (fun _ a b => subWith a b true)) who)

/-- TST ( a b -- ): z and n of a AND b. -/
def execTst (who : CoreRef) (s : State) : Host.Outcome State Fault Refusal :=
  .next (s.issue onSmall 1 1 (.seq (fun c r => match r.ds with
    | b :: a :: xs => .ok ((r.setDs xs).flagZN (c.who = .peg) (a &&& b))
    | _ => .error 2)) who)

/-- ADC ( a b -- r ): NOS + TOS + c. -/
def execAdc (who : CoreRef) (s : State) : Host.Outcome State Fault Refusal :=
  .next (s.issue onSmall 1 1 (.arith true (fun r a b => addWith a b r.c)) who)

/-- SBC ( a b -- r ): NOS - TOS - (1 - c). -/
def execSbc (who : CoreRef) (s : State) : Host.Outcome State Fault Refusal :=
  .next (s.issue onSmall 1 1 (.arith true (fun r a b => subWith a b r.c)) who)

/-! ### Literals -/

/-- LITS *v*: the 11-bit literal, sign-extended. -/
def execLits (who : CoreRef) (v : BitVec 11) (s : State) : Host.Outcome State Fault Refusal :=
  .next (s.issue onAll 1 1 (.seq (fun _ r => r.push (v.signExtend 32))) who)

/-- LIT16: one extension unit, zero-extended. -/
def execLit16 (who : CoreRef) (x : Half) (s : State) : Host.Outcome State Fault Refusal :=
  .next (s.issue onAll 2 2 (.seq (fun _ r => r.push (x.zeroExtend 32))) who)

/-- LIT16S: one extension unit, sign-extended. -/
def execLit16s (who : CoreRef) (x : Half) (s : State) : Host.Outcome State Fault Refusal :=
  .next (s.issue onAll 2 2 (.seq (fun _ r => r.push (x.signExtend 32))) who)

/-- LIT32: two extension units, the low one first. -/
def execLit32 (who : CoreRef) (x : Word) (s : State) : Host.Outcome State Fault Refusal :=
  .next (s.issue onAll 3 3 (.seq (fun _ r => r.push x)) who)

end Sys2Proof.Machine
end

