-- ==== Sys2Proof/Machine/Dispatch.lean ====
section
/-! DEFINITION. The dispatch from a command to its meaning, one arm per row of the opcode table. -/

namespace Sys2Proof.Machine

open Sys2Proof

/-- The effect of one command on everything but the queue of waiting commands. -/
def exec (i : Instr) (s : State) : Host.Outcome State Fault Refusal :=
  match i with
  | .nop c => Sys2Proof.Machine.execNop c s
  | .tenantCreate c => Sys2Proof.Machine.execTenantCreate c s
  | .tenantDestroy c => Sys2Proof.Machine.execTenantDestroy c s
  | .tenantDestroyComplete dt tenant => Sys2Proof.Machine.execTenantDestroyComplete dt tenant s
  | .quotaSet c => Sys2Proof.Machine.execQuotaSet c s
  | .viewportSet c => Sys2Proof.Machine.execViewportSet c s
  | .regRead c => Sys2Proof.Machine.execRegRead c s
  | .regWrite c => Sys2Proof.Machine.execRegWrite c s
  | .eventSubscribe c => Sys2Proof.Machine.execEventSubscribe c s
  | .tenantQuery c => Sys2Proof.Machine.execTenantQuery c s
  | .atlasMap c => Sys2Proof.Machine.execAtlasMap c s
  | .atlasUnmap c => Sys2Proof.Machine.execAtlasUnmap c s
  | .bankAssign c => Sys2Proof.Machine.execBankAssign c s
  | .planeCreate c => Sys2Proof.Machine.execPlaneCreate c s
  | .planeDestroy c => Sys2Proof.Machine.execPlaneDestroy c s
  | .planeSet c => Sys2Proof.Machine.execPlaneSet c s
  | .paletteLoad c => Sys2Proof.Machine.execPaletteLoad c s
  | .objectTableSet c => Sys2Proof.Machine.execObjectTableSet c s
  | .canvasSet c => Sys2Proof.Machine.execCanvasSet c s
  | .scalerCoefLoad c => Sys2Proof.Machine.execScalerCoefLoad c s
  | .contourSet c => Sys2Proof.Machine.execContourSet c s
  | .paintSet c => Sys2Proof.Machine.execPaintSet c s
  | .transferLutLoad c => Sys2Proof.Machine.execTransferLutLoad c s
  | .postLutLoad c => Sys2Proof.Machine.execPostLutLoad c s
  | .ditherSet c => Sys2Proof.Machine.execDitherSet c s
  | .linelistSet c => Sys2Proof.Machine.execLinelistSet c s
  | .fretSet c => Sys2Proof.Machine.execFretSet c s
  | .leadBoundsSet c => Sys2Proof.Machine.execLeadBoundsSet c s
  | .costQuery c => Sys2Proof.Machine.execCostQuery c s
  | .tabLoad c => Sys2Proof.Machine.execTabLoad c s
  | .tabStart c => Sys2Proof.Machine.execTabStart c s
  | .tabStop c => Sys2Proof.Machine.execTabStop c s
  | .decodeTableLoad c => Sys2Proof.Machine.execDecodeTableLoad c s
  | .tabDebug c => Sys2Proof.Machine.execTabDebug c s
  | .headTimingSet c => Sys2Proof.Machine.execHeadTimingSet c s
  | .portRouteSet c => Sys2Proof.Machine.execPortRouteSet c s
  | .commitSubmit c => Sys2Proof.Machine.execCommitSubmit c s
  | .captureStart c => Sys2Proof.Machine.execCaptureStart c s
  | .captureStop c => Sys2Proof.Machine.execCaptureStop c s
  | .framelockSet c => Sys2Proof.Machine.execFramelockSet c s
  | .stillPolicySet c => Sys2Proof.Machine.execStillPolicySet c s
  | .cartoucheImageLoad c => Sys2Proof.Machine.execCartoucheImageLoad c s
  | .cartoucheCellSet c => Sys2Proof.Machine.execCartoucheCellSet c s
  | .watchRegionSet c => Sys2Proof.Machine.execWatchRegionSet c s
  | .referenceSet c => Sys2Proof.Machine.execReferenceSet c s
  | .faultReactionSet c => Sys2Proof.Machine.execFaultReactionSet c s
  | .headPrioritySet c => Sys2Proof.Machine.execHeadPrioritySet c s
  | .powerPolicySet c => Sys2Proof.Machine.execPowerPolicySet c s
  | .maintenanceSet c => Sys2Proof.Machine.execMaintenanceSet c s
  | .governorQuery c => Sys2Proof.Machine.execGovernorQuery c s
  | .voiceCreate c => Sys2Proof.Machine.execVoiceCreate c s
  | .voiceSet c => Sys2Proof.Machine.execVoiceSet c s
  | .voiceStart c => Sys2Proof.Machine.execVoiceStart c s
  | .voiceStop c => Sys2Proof.Machine.execVoiceStop c s
  | .busSet c => Sys2Proof.Machine.execBusSet c s
  | .bridgeSet c => Sys2Proof.Machine.execBridgeSet c s
  | .audioPortSet c => Sys2Proof.Machine.execAudioPortSet c s
  | .avtpStreamSet c => Sys2Proof.Machine.execAvtpStreamSet c s
  | .audioCaptureStart c => Sys2Proof.Machine.execAudioCaptureStart c s
  | .cartoucheVoiceSet c => Sys2Proof.Machine.execCartoucheVoiceSet c s
  | .modelLoad c => Sys2Proof.Machine.execModelLoad c s
  | .listenProgramLoad c => Sys2Proof.Machine.execListenProgramLoad c s
  | .wakeSourceSet c => Sys2Proof.Machine.execWakeSourceSet c s
  | .prerollRead c => Sys2Proof.Machine.execPrerollRead c s
  | .modeSet c => Sys2Proof.Machine.execModeSet c s
  | .clockPlanSet c => Sys2Proof.Machine.execClockPlanSet c s
  | .clockMeasure c => Sys2Proof.Machine.execClockMeasure c s
  | .compareSet c => Sys2Proof.Machine.execCompareSet c s
  | .captureChannelSet c => Sys2Proof.Machine.execCaptureChannelSet c s
  | .pwmSet c => Sys2Proof.Machine.execPwmSet c s
  | .calendarSet c => Sys2Proof.Machine.execCalendarSet c s
  | .calendarAlarmSet c => Sys2Proof.Machine.execCalendarAlarmSet c s
  | .dmaChannelSet c => Sys2Proof.Machine.execDmaChannelSet c s
  | .dmaSubmit c => Sys2Proof.Machine.execDmaSubmit c s
  | .blitSubmit c => Sys2Proof.Machine.execBlitSubmit c s
  | .dmaShareSet c => Sys2Proof.Machine.execDmaShareSet c s
  | .pinOwnerSet c => Sys2Proof.Machine.execPinOwnerSet c s
  | .pinConfigSet c => Sys2Proof.Machine.execPinConfigSet c s
  | .pinWrite c => Sys2Proof.Machine.execPinWrite c s
  | .pinLock c => Sys2Proof.Machine.execPinLock c s
  | .debugGrant c => Sys2Proof.Machine.execDebugGrant c s
  | .debugUnlock c => Sys2Proof.Machine.execDebugUnlock c s
  | .serviceEnter c => Sys2Proof.Machine.execServiceEnter c s
  | .lifecycleQuery c => Sys2Proof.Machine.execLifecycleQuery c s
  | .commandFetch dt => Sys2Proof.Machine.execCommandFetch dt s
  | .heldRecordWrite dt tenant => Sys2Proof.Machine.execHeldRecordWrite dt tenant s
  | .mailboxDrainEnd dt tenant => Sys2Proof.Machine.execMailboxDrainEnd dt tenant s
  | .cmdTailWrite dt tenant v => Sys2Proof.Machine.execCmdTailWrite dt tenant v s
  | .cplHeadWrite dt tenant v => Sys2Proof.Machine.execCplHeadWrite dt tenant v s
  | .mboxEnable dt tenant => Sys2Proof.Machine.execMboxEnable dt tenant s
  | .mboxDisable dt tenant => Sys2Proof.Machine.execMboxDisable dt tenant s
  | .mboxReset dt tenant enable => Sys2Proof.Machine.execMboxReset dt tenant enable s
  | .devEventClear dt v => Sys2Proof.Machine.execDevEventClear dt v s
  | .devEventEnWrite dt v => Sys2Proof.Machine.execDevEventEnWrite dt v s
  | .pasidLock dt v => Sys2Proof.Machine.execPasidLock dt v s
  | .meridianLoRead dt => Sys2Proof.Machine.execMeridianLoRead dt s
  | .courseCntRead dt course => Sys2Proof.Machine.execCourseCntRead dt course s
  | .intcPendingSet dt k v => Sys2Proof.Machine.execIntcPendingSet dt k v s
  | .intcPendingClr dt k v edges => Sys2Proof.Machine.execIntcPendingClr dt k v edges s
  | .intcEnableSet dt k v => Sys2Proof.Machine.execIntcEnableSet dt k v s
  | .intcEnableClr dt k v => Sys2Proof.Machine.execIntcEnableClr dt k v s
  | .gpioMaskedWrite dt bank reg high v => Sys2Proof.Machine.execGpioMaskedWrite dt bank reg high v s
  | .gpioIntEnSet dt bank v => Sys2Proof.Machine.execGpioIntEnSet dt bank v s
  | .gpioIntEnClr dt bank v => Sys2Proof.Machine.execGpioIntEnClr dt bank v s
  | .auxCtlStart dt port v cpUses => Sys2Proof.Machine.execAuxCtlStart dt port v cpUses s
  | .auxTransactionEnd dt port reply => Sys2Proof.Machine.execAuxTransactionEnd dt port reply s
  | .mdioCtlStart dt mac v => Sys2Proof.Machine.execMdioCtlStart dt mac v s
  | .mdioFrameEnd dt mac rdata => Sys2Proof.Machine.execMdioFrameEnd dt mac rdata s
  | .pegWakeReqWrite dt v => Sys2Proof.Machine.execPegWakeReqWrite dt v s
  | .hostBar0AccessAsleep dt write off v => Sys2Proof.Machine.execHostBar0AccessAsleep dt write off v s
  | .registerWrite dt space addr v => Sys2Proof.Machine.execRegisterWrite dt space addr v s
  | .beamLineEnter dt head late => Sys2Proof.Machine.execBeamLineEnter dt head late s
  | .composeBoundary dt head => Sys2Proof.Machine.execComposeBoundary dt head s
  | .composerLineStart dt head => Sys2Proof.Machine.execComposerLineStart dt head s
  | .composerLineComplete dt head => Sys2Proof.Machine.execComposerLineComplete dt head s
  | .fetchReturn dt req outcome => Sys2Proof.Machine.execFetchReturn dt req outcome s
  | .portPixelNeed dt port stream empty => Sys2Proof.Machine.execPortPixelNeed dt port stream empty s
  | .heartbeatPeriodEnd dt cluster onTime healthy => Sys2Proof.Machine.execHeartbeatPeriodEnd dt cluster onTime healthy s
  | .clusterSelfTestEnd dt cluster pass => Sys2Proof.Machine.execClusterSelfTestEnd dt cluster pass s
  | .legendUpdate dt => Sys2Proof.Machine.execLegendUpdate dt s
  | .armDeadline dt id unarmed => Sys2Proof.Machine.execArmDeadline dt id unarmed s
  | .applyTime dt id => Sys2Proof.Machine.execApplyTime dt id s
  | .applyAckTimeout dt id failed => Sys2Proof.Machine.execApplyAckTimeout dt id failed s
  | .rollback dt id => Sys2Proof.Machine.execRollback dt id s
  | .governorEvaluation dt temps activity => Sys2Proof.Machine.execGovernorEvaluation dt temps activity s
  | .leakageAnchor dt current => Sys2Proof.Machine.execLeakageAnchor dt current s
  | .estimatorUnanchored dt => Sys2Proof.Machine.execEstimatorUnanchored dt s
  | .thermtripAssert dt => Sys2Proof.Machine.execThermtripAssert dt s
  | .maintenanceActivityDue dt activity => Sys2Proof.Machine.execMaintenanceActivityDue dt activity s
  | .maintenanceActivityEnd dt activity result => Sys2Proof.Machine.execMaintenanceActivityEnd dt activity result s
  | .irqAgeLimit dt tenant => Sys2Proof.Machine.execIrqAgeLimit dt tenant s
  | .courseSampleBoundary dt course inp => Sys2Proof.Machine.execCourseSampleBoundary dt course inp s
  | .meterWindowEnd dt course => Sys2Proof.Machine.execMeterWindowEnd dt course s
  | .audioMeter dt => Sys2Proof.Machine.execAudioMeter dt s
  | .bridgeLaneRangeTimeout dt lane inRange => Sys2Proof.Machine.execBridgeLaneRangeTimeout dt lane inRange s
  | .audioClockRelock dt clock => Sys2Proof.Machine.execAudioClockRelock dt clock s
  | .tdmFrameSlip dt port input => Sys2Proof.Machine.execTdmFrameSlip dt port input s
  | .avtpPacketReceive dt stream ptime samples => Sys2Proof.Machine.execAvtpPacketReceive dt stream ptime samples s
  | .audioCaptureBlock dt bus => Sys2Proof.Machine.execAudioCaptureBlock dt bus s
  | .audioCaptureStall dt bus => Sys2Proof.Machine.execAudioCaptureStall dt bus s
  | .captureFrame dt head => Sys2Proof.Machine.execCaptureFrame dt head s
  | .captureWriteStall dt head => Sys2Proof.Machine.execCaptureWriteStall dt head s
  | .compareEvaluation dt => Sys2Proof.Machine.execCompareEvaluation dt s
  | .pwmTick dt pwm => Sys2Proof.Machine.execPwmTick dt pwm s
  | .captureFilterSample dt channel level => Sys2Proof.Machine.execCaptureFilterSample dt channel level s
  | .interruptSourceEvent dt source asserted => Sys2Proof.Machine.execInterruptSourceEvent dt source asserted s
  | .holdoffExpiry dt group => Sys2Proof.Machine.execHoldoffExpiry dt group s
  | .coreEntry dt who arrivals => Sys2Proof.Machine.execCoreEntry dt who arrivals s
  | .slowCounterEdge dt => Sys2Proof.Machine.execSlowCounterEdge dt s
  | .melFrameReady dt samples => Sys2Proof.Machine.execMelFrameReady dt samples s
  | .modelEvaluationDone dt => Sys2Proof.Machine.execModelEvaluationDone dt s
  | .i2cAddressMatch dt addr read => Sys2Proof.Machine.execI2cAddressMatch dt addr read s
  | .i2cDataByteWrite dt v => Sys2Proof.Machine.execI2cDataByteWrite dt v s
  | .i2cDataByteRead dt => Sys2Proof.Machine.execI2cDataByteRead dt s
  | .i2cStretchTimeout dt => Sys2Proof.Machine.execI2cStretchTimeout dt s
  | .wakeComplete dt => Sys2Proof.Machine.execWakeComplete dt s
  | .modeReached dt => Sys2Proof.Machine.execModeReached dt s
  | .pinLevelChange dt pin level => Sys2Proof.Machine.execPinLevelChange dt pin level s
  | .pinEventCoalesceEnd dt pin => Sys2Proof.Machine.execPinEventCoalesceEnd dt pin s
  | .pinHandoverEnd dt pin => Sys2Proof.Machine.execPinHandoverEnd dt pin s
  | .serialTransferDone dt block outcome => Sys2Proof.Machine.execSerialTransferDone dt block outcome s
  | .uartByteReceive dt uart v => Sys2Proof.Machine.execUartByteReceive dt uart v s
  | .uartLineIdle dt uart => Sys2Proof.Machine.execUartLineIdle dt uart s
  | .hpdFall dt port => Sys2Proof.Machine.execHpdFall dt port s
  | .hpdRise dt port attempts => Sys2Proof.Machine.execHpdRise dt port attempts s
  | .linkTrainingDone dt port ok lanes rate => Sys2Proof.Machine.execLinkTrainingDone dt port ok lanes rate s
  | .pixelPllLock dt head => Sys2Proof.Machine.execPixelPllLock dt head s
  | .fsyncEdge dt => Sys2Proof.Machine.execFsyncEdge dt s
  | .fsyncLost dt => Sys2Proof.Machine.execFsyncLost dt s
  | .gptpStateChange dt mac synced offset ratio => Sys2Proof.Machine.execGptpStateChange dt mac synced offset ratio s
  | .clockReferenceLost dt ref => Sys2Proof.Machine.execClockReferenceLost dt ref s
  | .clockReferenceReturn dt ref => Sys2Proof.Machine.execClockReferenceReturn dt ref s
  | .pwrfailNAssert dt => Sys2Proof.Machine.execPwrfailNAssert dt s
  | .pwrfailNRelease dt => Sys2Proof.Machine.execPwrfailNRelease dt s
  | .resetPin dt => Sys2Proof.Machine.execResetPin dt s
  | .resetRelease dt straps vddioHigh => Sys2Proof.Machine.execResetRelease dt straps vddioHigh s
  | .bootCopyVerify dt image => Sys2Proof.Machine.execBootCopyVerify dt image s
  | .cartoucheBootImageApply dt => Sys2Proof.Machine.execCartoucheBootImageApply dt s
  | .firmwareReady dt => Sys2Proof.Machine.execFirmwareReady dt s
  | .pcieLinkUp dt => Sys2Proof.Machine.execPcieLinkUp dt s
  | .perstAssert dt => Sys2Proof.Machine.execPerstAssert dt s
  | .clkreqAssert dt => Sys2Proof.Machine.execClkreqAssert dt s
  | .wakeFrameReceive dt mac frame => Sys2Proof.Machine.execWakeFrameReceive dt mac frame s
  | .serviceNReleaseTimeout dt => Sys2Proof.Machine.execServiceNReleaseTimeout dt s
  | .tokenReset dt => Sys2Proof.Machine.execTokenReset dt s
  | .jtagAccess dt op => Sys2Proof.Machine.execJtagAccess dt op s
  | .dmaDescriptorComplete dt channel => Sys2Proof.Machine.execDmaDescriptorComplete dt channel s
  | .dmaRingRecheck dt channel => Sys2Proof.Machine.execDmaRingRecheck dt channel s
  | .dmaTokenGrant dt channel => Sys2Proof.Machine.execDmaTokenGrant dt channel s
  | .blitStart dt => Sys2Proof.Machine.execBlitStart dt s
  | .blitDone dt => Sys2Proof.Machine.execBlitDone dt s
  | .loadReturn dt core thread outcome => Sys2Proof.Machine.execLoadReturn dt core thread outcome s
  | .fenceComplete dt core thread poisonedStore => Sys2Proof.Machine.execFenceComplete dt core thread poisonedStore s
  | .tabBudgetOverrun dt core thread charge => Sys2Proof.Machine.execTabBudgetOverrun dt core thread charge s
  | .nopInstruction who => Sys2Proof.Machine.execNopInstruction who s
  | .drop who => Sys2Proof.Machine.execDrop who s
  | .dup who => Sys2Proof.Machine.execDup who s
  | .swap who => Sys2Proof.Machine.execSwap who s
  | .overOp who => Sys2Proof.Machine.execOver who s
  | .rot who => Sys2Proof.Machine.execRot who s
  | .nip who => Sys2Proof.Machine.execNip who s
  | .tuck who => Sys2Proof.Machine.execTuck who s
  | .pick who n => Sys2Proof.Machine.execPick who n s
  | .depth who => Sys2Proof.Machine.execDepth who s
  | .tor who => Sys2Proof.Machine.execTor who s
  | .fromr who => Sys2Proof.Machine.execFromr who s
  | .rfetch who => Sys2Proof.Machine.execRfetch who s
  | .rdrop who => Sys2Proof.Machine.execRdrop who s
  | .add who => Sys2Proof.Machine.execAdd who s
  | .sub who => Sys2Proof.Machine.execSub who s
  | .andOp who => Sys2Proof.Machine.execAndOp who s
  | .orOp who => Sys2Proof.Machine.execOrOp who s
  | .xorOp who => Sys2Proof.Machine.execXorOp who s
  | .shl who => Sys2Proof.Machine.execShl who s
  | .shr who => Sys2Proof.Machine.execShr who s
  | .sar who => Sys2Proof.Machine.execSar who s
  | .mul who => Sys2Proof.Machine.execMul who s
  | .mulhu who => Sys2Proof.Machine.execMulhu who s
  | .mulhs who => Sys2Proof.Machine.execMulhs who s
  | .divu who => Sys2Proof.Machine.execDivu who s
  | .divs who => Sys2Proof.Machine.execDivs who s
  | .remu who => Sys2Proof.Machine.execRemu who s
  | .rems who => Sys2Proof.Machine.execRems who s
  | .min who => Sys2Proof.Machine.execMin who s
  | .max who => Sys2Proof.Machine.execMax who s
  | .minu who => Sys2Proof.Machine.execMinu who s
  | .maxu who => Sys2Proof.Machine.execMaxu who s
  | .slt who => Sys2Proof.Machine.execSlt who s
  | .sltu who => Sys2Proof.Machine.execSltu who s
  | .notOp who => Sys2Proof.Machine.execNotOp who s
  | .neg who => Sys2Proof.Machine.execNeg who s
  | .abs who => Sys2Proof.Machine.execAbs who s
  | .clz who => Sys2Proof.Machine.execClz who s
  | .sext8 who => Sys2Proof.Machine.execSext8 who s
  | .sext16 who => Sys2Proof.Machine.execSext16 who s
  | .cmp who => Sys2Proof.Machine.execCmp who s
  | .tst who => Sys2Proof.Machine.execTst who s
  | .adc who => Sys2Proof.Machine.execAdc who s
  | .sbc who => Sys2Proof.Machine.execSbc who s
  | .lits who v => Sys2Proof.Machine.execLits who v s
  | .lit16 who x => Sys2Proof.Machine.execLit16 who x s
  | .lit16s who x => Sys2Proof.Machine.execLit16s who x s
  | .lit32 who x => Sys2Proof.Machine.execLit32 who x s
  | .ld32 who p k => Sys2Proof.Machine.execLd32 who p k s
  | .ld16u who p k => Sys2Proof.Machine.execLd16u who p k s
  | .ld16s who p k => Sys2Proof.Machine.execLd16s who p k s
  | .ld8u who p k => Sys2Proof.Machine.execLd8u who p k s
  | .ld8s who p k => Sys2Proof.Machine.execLd8s who p k s
  | .st32 who p k => Sys2Proof.Machine.execSt32 who p k s
  | .st16 who p k => Sys2Proof.Machine.execSt16 who p k s
  | .st8 who p k => Sys2Proof.Machine.execSt8 who p k s
  | .ld32p who p => Sys2Proof.Machine.execLd32p who p s
  | .st32p who p => Sys2Proof.Machine.execSt32p who p s
  | .pget who p => Sys2Proof.Machine.execPget who p s
  | .pset who p => Sys2Proof.Machine.execPset who p s
  | .padd who p => Sys2Proof.Machine.execPadd who p s
  | .paddi who p k => Sys2Proof.Machine.execPaddi who p k s
  | .beq who off => Sys2Proof.Machine.execBeq who off s
  | .bne who off => Sys2Proof.Machine.execBne who off s
  | .blt who off => Sys2Proof.Machine.execBlt who off s
  | .bge who off => Sys2Proof.Machine.execBge who off s
  | .bltu who off => Sys2Proof.Machine.execBltu who off s
  | .bgeu who off => Sys2Proof.Machine.execBgeu who off s
  | .bz who off => Sys2Proof.Machine.execBz who off s
  | .bnz who off => Sys2Proof.Machine.execBnz who off s
  | .bcc who cc off => Sys2Proof.Machine.execBcc who cc off s
  | .jmp who off => Sys2Proof.Machine.execJmp who off s
  | .call who off => Sys2Proof.Machine.execCall who off s
  | .jmpi who => Sys2Proof.Machine.execJmpi who s
  | .calli who => Sys2Proof.Machine.execCalli who s
  | .ret who => Sys2Proof.Machine.execRet who s
  | .jmpl who target => Sys2Proof.Machine.execJmpl who target s
  | .calll who target => Sys2Proof.Machine.execCalll who target s
  | .pwrite who id => Sys2Proof.Machine.execPwrite who id s
  | .palw who => Sys2Proof.Machine.execPalw who s
  | .waitl who => Sys2Proof.Machine.execWaitl who s
  | .line who => Sys2Proof.Machine.execLine who s
  | .flush who => Sys2Proof.Machine.execFlush who s
  | .fence who => Sys2Proof.Machine.execFence who s
  | .yield who => Sys2Proof.Machine.execYield who s
  | .trap who t => Sys2Proof.Machine.execTrap who t s
  | .reti who => Sys2Proof.Machine.execReti who s
  | .swget who => Sys2Proof.Machine.execSwget who s
  | .swset who => Sys2Proof.Machine.execSwset who s
  | .idle who => Sys2Proof.Machine.execIdle who s
  | .customInstruction who c imm ext => Sys2Proof.Machine.execCustomInstruction who c imm ext s
  | .vddAonRise dt => Sys2Proof.Machine.execVddAonRise dt s
  | .supplyRemoval dt what => Sys2Proof.Machine.execSupplyRemoval dt what s
  | .accessVoteExpiry dt domain => Sys2Proof.Machine.execAccessVoteExpiry dt domain s
  | .commandWaitEnd dt tenant index => Sys2Proof.Machine.execCommandWaitEnd dt tenant index s
  | .recordWriteErrorCompletion dt tenant => Sys2Proof.Machine.execRecordWriteErrorCompletion dt tenant s
  | .illegalInstruction who unit => Sys2Proof.Machine.execIllegalInstruction who unit s
  | .usxgmiiLinkChange dt mac up => Sys2Proof.Machine.execUsxgmiiLinkChange dt mac up s
  | .ethernetFrameReceive dt mac kind => Sys2Proof.Machine.execEthernetFrameReceive dt mac kind s

end Sys2Proof.Machine
end

