-- ==== Sys2Proof/Safety.lean ====
section
/-! DEFINITION. What counts as a safe run, in the terms the claims use: the invariant of the part, and what no command but a
reset undoes. -/

namespace Sys2Proof.Machine

/-- Every memory of the part is in its canonical form. -/
def State.memWf (s : State) : Bool :=
  Mem.wf s.mem.phys && Mem.wf s.mem.host && Mem.wf s.peg.code && Mem.wf s.peg.data && Mem.wf s.peg.ring

/-- The reserved bits of the device status page read 0 (R77, Table 3.10). -/
def DevPage.reservedZero (d : DevPage) : Bool :=
  (d.eventEn &&& 0xFFFFFF80 == 0) && (d.pasid0 &&& 0x7FF00000 == 0) && (d.pasid1 &&& 0x7FF00000 == 0)

/-- Tenant numbers stand once each, in rising order, below 1,024 (R49). -/
def State.tenantsWf (s : State) : Bool :=
  decide ((IMap.keys s.tenants).Pairwise (· < ·)) && (IMap.keys s.tenants).all (fun t => decide (t < 1024))

/-- The invariant of the part. -/
def State.Inv (s : State) : Prop :=
  s.memWf = true ∧ s.dev.reservedZero = true ∧ s.tenantsWf = true

/-- How far the lifecycle has gone (R503). -/
def Lifecycle.rank : Lifecycle → Nat
  | .blank => 0
  | .secured => 1
  | .returned => 2

/-- A step that goes on: neither a fault nor a refusal. -/
def goesOn (o : Host.Outcome State Fault Refusal) : Prop := ∃ t, o = .next t

/-! ### Commands (chapter 03)

What the claims say of a command row: when the CP processes the command and it passes its checks, and the state it does so
in. -/

/-- The state once a command row's time has passed and the CP has fetched the command, where it can (assumption 2). -/
def State.fetched (s : State) (c : Cmd) (op : Nat) : State :=
  let s := (s.tick c.dt).turned
  if s.isFetched c (c.ref op) then s else if s.fetchable c then s.takeCmd c op else s

/-- The state in which the CP processes a command. -/
def State.turn (s : State) (c : Cmd) (op : Nat) : State := (s.fetched c op).setStage (c.ref op) .running

/-- A command's turn has come (R71), its header passes (R541 steps 2 and 3), and it passes the checks of its own. -/
def State.accepts (s : State) (c : Cmd) (op : Nat) (p : Privilege) (lo hi : Nat)
    (body : Cmd → CmdRef → State → CmdRes) : Bool :=
  (s.fetched c op).mayProcess c (c.ref op) && (headerCheck op p lo hi c (s.turn c op)).isOk &&
    (body c (c.ref op) (s.turn c op)).isOk

/-- A command's turn has come, and a check rejects it with `e`. -/
def State.rejects (s : State) (c : Cmd) (op : Nat) (p : Privilege) (lo hi : Nat)
    (body : Cmd → CmdRef → State → CmdRes) (e : CErr) : Prop :=
  (s.fetched c op).mayProcess c (c.ref op) = true ∧
    (headerCheck op p lo hi c (s.turn c op) = .error e ∨
      headerCheck op p lo hi c (s.turn c op) = .ok () ∧ body c (c.ref op) (s.turn c op) = .error e)

/-- A command that has joined those that wait for a boundary of their Course (R368). -/
def State.withWait (w : AudioWait) (s : State) : State := s.modAudio (fun u => { u with waits := u.waits ++ [w] })

/-- A command row: its opcode, who may issue it, the extension entries it takes at least and at most, and its checks with
their effect. -/
structure CommandRow where
  op   : Nat
  who  : Privilege
  lo   : Nat
  hi   : Nat
  body : Cmd → CmdRef → State → CmdRes

/-- The command that an instruction of the model issues, with its row (Table 3.12); none for the rows that are no command. -/
def commandOf : Instr → Option (Cmd × CommandRow)
  | .nop c => some (c, ⟨0x0101, .anyone, 0, 0, nopBody⟩)
  | .tenantCreate c => some (c, ⟨0x0102, .platform, 0, 0, tenantCreateBody⟩)
  | .tenantDestroy c => some (c, ⟨0x0103, .platform, 0, 0, tenantDestroyBody⟩)
  | .quotaSet c => some (c, ⟨0x0104, .platform, 0, 0, quotaSetBody⟩)
  | .viewportSet c => some (c, ⟨0x0105, .platform, 0, 0, viewportSetBody⟩)
  | .regRead c => some (c, ⟨0x0106, .platform, 0, 0, regReadBody⟩)
  | .regWrite c => some (c, ⟨0x0107, .platform, 0, 0, regWriteBody⟩)
  | .eventSubscribe c => some (c, ⟨0x0108, .anyone, 0, 0, eventSubscribeBody⟩)
  | .tenantQuery c => some (c, ⟨0x0109, .anyone, 0, 0, tenantQueryBody⟩)
  | .atlasMap c => some (c, ⟨0x0201, .anyone, 0, 0, atlasMapBody⟩)
  | .atlasUnmap c => some (c, ⟨0x0202, .anyone, 0, 0, atlasUnmapBody⟩)
  | .bankAssign c => some (c, ⟨0x0203, .platform, 0, 0, bankAssignBody⟩)
  | .planeCreate c => some (c, ⟨0x0301, .anyone, 0, 0, planeCreateBody⟩)
  | .planeDestroy c => some (c, ⟨0x0302, .anyone, 0, 0, planeDestroyBody⟩)
  | .planeSet c => some (c, ⟨0x0303, .anyone, 0, 1, planeSetBody⟩)
  | .paletteLoad c => some (c, ⟨0x0304, .anyone, 0, 0, paletteLoadBody⟩)
  | .objectTableSet c => some (c, ⟨0x0305, .anyone, 0, 0, objectTableSetBody⟩)
  | .canvasSet c => some (c, ⟨0x0401, .anyone, 0, 0, canvasSetBody⟩)
  | .scalerCoefLoad c => some (c, ⟨0x0402, .anyone, 0, 0, scalerCoefLoadBody⟩)
  | .contourSet c => some (c, ⟨0x0403, .anyone, 0, 0, contourSetBody⟩)
  | .paintSet c => some (c, ⟨0x0404, .anyone, 0, 15, paintSetBody⟩)
  | .transferLutLoad c => some (c, ⟨0x0501, .anyone, 0, 0, transferLutLoadBody⟩)
  | .postLutLoad c => some (c, ⟨0x0502, .platform, 0, 0, postLutLoadBody⟩)
  | .ditherSet c => some (c, ⟨0x0503, .platform, 0, 0, ditherSetBody⟩)
  | .linelistSet c => some (c, ⟨0x0601, .anyone, 0, 0, linelistSetBody⟩)
  | .fretSet c => some (c, ⟨0x0602, .anyone, 0, 0, fretSetBody⟩)
  | .leadBoundsSet c => some (c, ⟨0x0603, .platform, 0, 0, leadBoundsSetBody⟩)
  | .costQuery c => some (c, ⟨0x0604, .anyone, 0, 0, costQueryBody⟩)
  | .tabLoad c => some (c, ⟨0x0701, .anyone, 0, 0, tabLoadBody⟩)
  | .tabStart c => some (c, ⟨0x0702, .anyone, 0, 0, tabStartBody⟩)
  | .tabStop c => some (c, ⟨0x0703, .anyone, 0, 0, tabStopBody⟩)
  | .decodeTableLoad c => some (c, ⟨0x0704, .platform, 0, 0, decodeTableLoadBody⟩)
  | .tabDebug c => some (c, ⟨0x0705, .anyone, 0, 0, tabDebugBody⟩)
  | .headTimingSet c => some (c, ⟨0x0801, .platform, 0, 0, headTimingSetBody⟩)
  | .portRouteSet c => some (c, ⟨0x0802, .platform, 0, 0, portRouteSetBody⟩)
  | .commitSubmit c => some (c, ⟨0x0803, .anyone, 0, 0, commitSubmitBody⟩)
  | .captureStart c => some (c, ⟨0x0804, .anyone, 0, 0, captureStartBody⟩)
  | .captureStop c => some (c, ⟨0x0805, .anyone, 0, 0, captureStopBody⟩)
  | .framelockSet c => some (c, ⟨0x0806, .platform, 0, 0, framelockSetBody⟩)
  | .stillPolicySet c => some (c, ⟨0x0807, .platform, 0, 0, stillPolicySetBody⟩)
  | .cartoucheImageLoad c => some (c, ⟨0x0901, .safety, 0, 0, cartoucheImageLoadBody⟩)
  | .cartoucheCellSet c => some (c, ⟨0x0902, .safety, 0, 0, cartoucheCellSetBody⟩)
  | .watchRegionSet c => some (c, ⟨0x0903, .safety, 0, 0, watchRegionSetBody⟩)
  | .referenceSet c => some (c, ⟨0x0904, .safety, 0, 0, referenceSetBody⟩)
  | .faultReactionSet c => some (c, ⟨0x0905, .safety, 0, 0, faultReactionSetBody⟩)
  | .headPrioritySet c => some (c, ⟨0x0A01, .platform, 0, 0, headPrioritySetBody⟩)
  | .powerPolicySet c => some (c, ⟨0x0A02, .platform, 0, 0, powerPolicySetBody⟩)
  | .maintenanceSet c => some (c, ⟨0x0A03, .platform, 0, 0, maintenanceSetBody⟩)
  | .governorQuery c => some (c, ⟨0x0A04, .anyone, 0, 0, governorQueryBody⟩)
  | .voiceCreate c => some (c, ⟨0x0B01, .anyone, 0, 0, voiceCreateBody⟩)
  | .voiceSet c => some (c, ⟨0x0B02, .anyone, 0, 1, voiceSetBody⟩)
  | .voiceStart c => some (c, ⟨0x0B03, .anyone, 0, 0, voiceStartBody⟩)
  | .voiceStop c => some (c, ⟨0x0B04, .anyone, 0, 0, voiceStopBody⟩)
  | .busSet c => some (c, ⟨0x0B05, .anyone, 0, 0, busSetBody⟩)
  | .bridgeSet c => some (c, ⟨0x0B06, .anyone, 0, 0, bridgeSetBody⟩)
  | .audioPortSet c => some (c, ⟨0x0B07, .platform, 0, 0, audioPortSetBody⟩)
  | .avtpStreamSet c => some (c, ⟨0x0B08, .platform, 0, 0, avtpStreamSetBody⟩)
  | .audioCaptureStart c => some (c, ⟨0x0B09, .anyone, 0, 0, audioCaptureStartBody⟩)
  | .cartoucheVoiceSet c => some (c, ⟨0x0B0A, .safety, 0, 0, cartoucheVoiceSetBody⟩)
  | .modelLoad c => some (c, ⟨0x0C01, .platform, 0, 0, modelLoadBody⟩)
  | .listenProgramLoad c => some (c, ⟨0x0C02, .platform, 0, 0, listenProgramLoadBody⟩)
  | .wakeSourceSet c => some (c, ⟨0x0C03, .platform, 0, 0, wakeSourceSetBody⟩)
  | .prerollRead c => some (c, ⟨0x0C04, .platform, 0, 0, prerollReadBody⟩)
  | .modeSet c => some (c, ⟨0x0D01, .platform, 0, 0, modeSetBody⟩)
  | .clockPlanSet c => some (c, ⟨0x0D02, .platform, 0, 0, clockPlanSetBody⟩)
  | .clockMeasure c => some (c, ⟨0x0D03, .platform, 0, 0, clockMeasureBody⟩)
  | .compareSet c => some (c, ⟨0x0E01, .anyone, 0, 0, compareSetBody⟩)
  | .captureChannelSet c => some (c, ⟨0x0E02, .anyone, 0, 0, captureChannelSetBody⟩)
  | .pwmSet c => some (c, ⟨0x0E03, .anyone, 0, 0, pwmSetBody⟩)
  | .calendarSet c => some (c, ⟨0x0E04, .platform, 0, 0, calendarSetBody⟩)
  | .calendarAlarmSet c => some (c, ⟨0x0E05, .platform, 0, 0, calendarAlarmSetBody⟩)
  | .dmaChannelSet c => some (c, ⟨0x0F01, .anyone, 0, 0, dmaChannelSetBody⟩)
  | .dmaSubmit c => some (c, ⟨0x0F02, .anyone, 0, 0, dmaSubmitBody⟩)
  | .blitSubmit c => some (c, ⟨0x0F03, .anyone, 0, 0, blitSubmitBody⟩)
  | .dmaShareSet c => some (c, ⟨0x0F04, .platform, 0, 0, dmaShareSetBody⟩)
  | .pinOwnerSet c => some (c, ⟨0x1001, .platform, 0, 0, pinOwnerSetBody⟩)
  | .pinConfigSet c => some (c, ⟨0x1002, .anyone, 0, 0, pinConfigSetBody⟩)
  | .pinWrite c => some (c, ⟨0x1003, .anyone, 0, 0, pinWriteBody⟩)
  | .pinLock c => some (c, ⟨0x1004, .anyone, 0, 0, pinLockBody⟩)
  | .debugGrant c => some (c, ⟨0x1101, .platform, 0, 0, debugGrantBody⟩)
  | .debugUnlock c => some (c, ⟨0x1102, .platform, 0, 15, debugUnlockBody⟩)
  | .serviceEnter c => some (c, ⟨0x1103, .platform, 0, 0, serviceEnterBody⟩)
  | .lifecycleQuery c => some (c, ⟨0x1104, .anyone, 0, 0, lifecycleQueryBody⟩)
  | _ => none

/-! ### Instructions (chapter 09)

What the claims say of an instruction row: when a core can issue it, and the state when it has. -/

/-- The core that issues an instruction row; none for the other rows (R225). -/
def coreOf : Instr → Option CoreRef
  | .nopInstruction who | .drop who | .dup who | .swap who | .overOp who | .rot who | .nip who | .tuck who
  | .pick who _ | .depth who | .tor who | .fromr who | .rfetch who | .rdrop who | .add who | .sub who | .andOp who
  | .orOp who | .xorOp who | .shl who | .shr who | .sar who | .mul who | .mulhu who | .mulhs who | .divu who
  | .divs who | .remu who | .rems who | .min who | .max who | .minu who | .maxu who | .slt who | .sltu who
  | .notOp who | .neg who | .abs who | .clz who | .sext8 who | .sext16 who | .cmp who | .tst who | .adc who
  | .sbc who | .lits who _ | .lit16 who _ | .lit16s who _ | .lit32 who _ | .ld32 who _ _ | .ld16u who _ _
  | .ld16s who _ _ | .ld8u who _ _ | .ld8s who _ _ | .st32 who _ _ | .st16 who _ _ | .st8 who _ _ | .ld32p who _
  | .st32p who _ | .pget who _ | .pset who _ | .padd who _ | .paddi who _ _ | .beq who _ | .bne who _ | .blt who _
  | .bge who _ | .bltu who _ | .bgeu who _ | .bz who _ | .bnz who _ | .bcc who _ _ | .jmp who _ | .call who _
  | .jmpi who | .calli who | .ret who | .jmpl who _ | .calll who _ | .pwrite who _ | .palw who | .waitl who
  | .line who | .flush who | .fence who | .yield who | .trap who _ | .reti who | .swget who | .swset who | .idle who
  | .customInstruction who _ _ _ | .illegalInstruction who _ => some who
  | _ => none

/-- The registers of the thread that a core runs, none where no thread stands there. -/
def State.coreRegs? (s : State) : CoreRef → Option TRegs
  | .tab h slot => (s.thread? h slot).map Thread.regs
  | .peg => some s.peg.regs
  | .cp => some s.cp.regs

/-- A core is ready to issue an instruction of `units` units: on a tab core the thread is the one chosen (R257), no breakpoint
stands at it (R272), it lies in the code segment (R229), and its charge keeps within the limit (R266); on the Peg core and
the CP the thread runs, awake, and PC is a code address. -/
def State.canIssue (s : State) (units cost : Nat) : CoreRef → Bool
  | .tab h slot => match s.thread? h slot with
    | none => false
    | some k => s.tabReady h slot k && !(k.breaks.any (fun b => b.2 = k.regs.pc) && !k.passBreak) &&
        decide (k.regs.pc.toNat + 2 * units ≤ k.codeSize) && decide (k.spent + cost ≤ k.limit)
  | .peg => s.peg.running && s.pegAwake && !s.peg.idle && !s.peg.regs.pc.getLsbD 0 &&
      decide (s.peg.regs.pc.toNat + 2 * units ≤ 0x10000)
  | .cp => s.cpReady && !s.cp.regs.pc.getLsbD 0

/-- The registers of a core's thread become `r`. -/
def State.setCoreRegs (r : TRegs) (s : State) : CoreRef → State
  | .tab h slot => s.setRegs h slot r
  | .peg => s.setPegRegs r
  | .cp => s.setCpRegs r

/-- A tab thread's issue is paid for: it may issue again `wait` cycles later, and is charged `cost` (R244, R257). -/
def State.spent (h slot wait cost : Nat) (k : Thread) (s : State) : State := (s.markIssue h slot wait k).charge h slot cost

/-- An instruction of a core is paid for: a tab thread's issue slots and its charge (R244, R257), the CP's single step. -/
def State.paid (units cost : Nat) (s : State) : CoreRef → State
  | .tab h slot => match s.thread? h slot with
    | none => s
    | some k => s.spent h slot (max (4 * units) cost) cost k
  | .peg => s
  | .cp => s.cpSpendStep

/-- What follows an instruction: a tab thread that was asked to halt does (R271). -/
def State.settled (s : State) : CoreRef → State
  | .tab h slot => s.tabAfter h slot
  | .peg => s
  | .cp => s

/-- A core has issued an instruction of `units` units charged `cost`, and its thread's registers are `r`. -/
def State.issued (units cost : Nat) (who : CoreRef) (r : TRegs) (s : State) : State :=
  ((s.paid units cost who).setCoreRegs r who).settled who

/-- A core has issued an instruction that faults (R245, R271, R402). -/
def State.faulted (units charge cause : Nat) (who : CoreRef) (s : State) : State :=
  let s := s.paid units charge who
  match who with
  | .tab h slot => s.faultThread h slot cause
  | .peg => s.pegFault cause
  | .cp => s.cpFault cause

end Sys2Proof.Machine
end

