-- ==== Sys2Proof/Certificates/Slice0/Obligations.lean ====
section
/-! DEFINITION. The statements about the part: what every row of the table does, and what holds of every step. -/

open Sys2Proof Sys2Proof.Machine

/-- Group 0x01 (R52 to R54, R56, R82, R87, R88): what each accepted command does. Where the spec leaves a point open it holds of
the model's choice there (assumptions 5, 16 and 17). -/
def Obligations.TenantCommandsComplete : Prop :=
  ∀ (c : Cmd) (s : State),
    (s.accepts c 0x0101 .anyone 0 0 nopBody = true →
      exec (.nop c) s = .next ((s.turn c 0x0101).completeOk (c.ref 0x0101) []).advanced) ∧
    (s.accepts c 0x0102 .platform 0 0 tenantCreateBody = true →
      ∃ q, quotaPayload c {} = .ok q ∧
        exec (.tenantCreate c) s = .next (State.completeOk (c.ref 0x0102) []
          { s.turn c 0x0102 with
            tenants := IMap.put (s.turn c 0x0102).tenants (c.u16 0x08) { pasid := c.u32 0x0C, quotas := q } }).advanced) ∧
    (s.accepts c 0x0103 .platform 0 0 tenantDestroyBody = true →
      exec (.tenantDestroy c) s = .next ((s.turn c 0x0103).beginDestroy (c.u16 0x08) (c.ref 0x0103)).advanced) ∧
    (s.accepts c 0x0104 .platform 0 0 quotaSetBody = true →
      ∃ x q, (s.turn c 0x0104).tenant? (c.u16 0x08) = some x ∧ quotaPayload c x.quotas = .ok q ∧
        exec (.quotaSet c) s = .next ((((s.turn c 0x0104).modTenant (c.u16 0x08) (fun x => { x with quotas := q })).markQuiet
          (c.ref 0x0104) (q = x.quotas)).completeOk (c.ref 0x0104) []).advanced) ∧
    (s.accepts c 0x0105 .platform 0 0 viewportSetBody = true →
      exec (.viewportSet c) s = .next (((s.turn c 0x0105).modHead (c.u8 0x0A) (fun y => { y with
        pendViews := y.pendViews ++ [(c.ref 0x0105, c.u16 0x08,
          ⟨c.u16 0x0C, c.u16 0x0E, c.u16 0x10, c.u16 0x12⟩)] })).endStill (c.u8 0x0A)).advanced) ∧
    (s.accepts c 0x0106 .platform 0 0 regReadBody = true →
      ∃ us, listedRegs (fun ty _ => readListed ty) (c.u32 0x08) (c.u8 0x0C) = .ok us ∧
        exec (.regRead c) s = .next (((s.turn c 0x0106).readRegs us).1.completeOk (c.ref 0x0106)
          ((s.turn c 0x0106).readRegs us).2).advanced) ∧
    (s.accepts c 0x0107 .platform 0 0 regWriteBody = true →
      ∃ us, listedRegs writeListed (c.u32 0x08) (c.u8 0x0C) = .ok us ∧
        let r := (s.turn c 0x0107).tenantWrites (us.zipIdx.map (fun u => (u.1, word (c.u32 (0x10 + 4 * u.2)))))
        exec (.regWrite c) s = .next (r.1.completeOk (c.ref 0x0107) r.2).advanced) ∧
    (s.accepts c 0x0108 .anyone 0 0 eventSubscribeBody = true →
      exec (.eventSubscribe c) s = .next (((s.turn c 0x0108).modTenant c.tenant (fun x =>
        x.resubscribe (c.u16 0x08) (c.u8 0x0A = 1) (if c.u8 0x0B = 1 then some (c.u32 0x0C) else none))).completeOk
          (c.ref 0x0108) []).advanced) ∧
    (s.accepts c 0x0109 .anyone 0 0 tenantQueryBody = true →
      ∀ x, (s.turn c 0x0109).tenant? c.tenant = some x →
        exec (.tenantQuery c) s = .next ((s.turn c 0x0109).completeOk (c.ref 0x0109)
          [word c.tenant, word x.quotas.inflight, word x.quotas.planes, word x.quotas.threads, word x.quotas.voices,
            word x.quotas.dma, word x.quotas.atlasMib, word ((s.turn c 0x0109).inFlight c.tenant)]).advanced)

/-- Group 0x02 (R91, R100 to R103): mappings of host memory and of a bank are made at once; pages of a pool, which are free,
inside the pool and apart from each other, and a bank are zeroed while the command waits; and an unmapped range leaves the
table. Where the spec leaves a point open it holds of the model's choice there (assumptions 12 and 24). -/
def Obligations.AtlasCommandsComplete : Prop :=
  ∀ (c : Cmd) (s : State),
    (s.accepts c 0x0201 .anyone 0 0 atlasMapBody = true →
      let a := s.turn c 0x0201
      let size := if c.u8 0x21 = 1 then 0x200000 else 0x10000
      let n := c.u64 0x10 / size
      let leaves := newLeaves (c.u64 0x08) size (c.u8 0x20) (c.u8 0x21 = 1) (c.u8 0x22 / 2 = 1) (c.u8 0x22 % 2 = 1)
      ((c.u8 0x20 = 1 ∨ c.u8 0x20 = 4) →
        exec (.atlasMap c) s = .next ((a.modTenant c.tenant (fun x => { x with
          atlas := x.atlas.addAll c.tenant (leaves ((List.range n).map (fun i =>
            (if c.u8 0x20 = 1 then c.u64 0x18 else bankBase + c.u8 0x23 * 0x400000 + c.u64 0x18) + i * size))) })).completeOk
              (c.ref 0x0201) [word n]).advanced) ∧
      ((c.u8 0x20 = 2 ∨ c.u8 0x20 = 3) →
        let base := (a.pool (c.u8 0x20)).1
        let bytes := (a.pool (c.u8 0x20)).2
        let outs := allocPages (a.allLeaves.map (fun l => (l.out, l.size))) size (base + bytes) (bytes / size + 1) base n
        outs.length = n ∧ outs.Pairwise (fun p q => p + size ≤ q) ∧
          (∀ p ∈ outs, base ≤ p ∧ p + size ≤ base + bytes ∧ ∀ l ∈ a.allLeaves, p + size ≤ l.out ∨ l.out + l.size ≤ p) ∧
          exec (.atlasMap c) s = .next (a.setStage (c.ref 0x0201) (.waiting (.map (leaves outs) n))).advanced)) ∧
    (s.accepts c 0x0202 .anyone 0 0 atlasUnmapBody = true →
      ∃ x, (s.turn c 0x0202).tenant? c.tenant = some x ∧
        let a := s.turn c 0x0202
        let gone := x.atlas.leaves.filter (fun l =>
          decide (l.base < c.u64 0x08 + c.u64 0x10) && decide (c.u64 0x08 < l.base + l.size))
        let b := a.modTenant c.tenant (fun x => { x with atlas := x.atlas.keep (fun l => !gone.contains l) })
        (a.loadsOutstanding c.tenant (c.u64 0x08) (c.u64 0x10) = true →
          exec (.atlasUnmap c) s = .next (b.setStage (c.ref 0x0202) (.waiting (.unmap gone))).advanced) ∧
        (a.loadsOutstanding c.tenant (c.u64 0x08) (c.u64 0x10) = false →
          exec (.atlasUnmap c) s = .next (b.completeOk (c.ref 0x0202) []).advanced)) ∧
    (s.accepts c 0x0203 .platform 0 0 bankAssignBody = true →
      exec (.bankAssign c) s = .next (((s.turn c 0x0203).modBank (c.u8 0x08) (fun x => { x with
        cls := 0, inst := 0 })).setStage (c.ref 0x0203) (.waiting (.bank (c.u8 0x08) (c.u8 0x09) (c.u16 0x0A)))).advanced)

/-- Groups 0x03 and 0x04 (R116, R118, R138, R151, R158, R176): a plane is created in a free slot under a new handle, destroyed at
its head's next boundary, and the commands that set a plane stage what they carry. Where the spec leaves a point open it
holds of the model's choice there (assumptions 12 and 25). -/
def Obligations.PlaneCommandsComplete : Prop :=
  ∀ (c : Cmd) (s : State),
    (s.accepts c 0x0301 .anyone 0 0 planeCreateBody = true →
      let a := s.turn c 0x0301
      let h := c.u8 0x08
      ∃ slot, (a.head h).freeSlot (c.u8 0x09) (c.u8 0x0C = 1) = some slot ∧
        let gen := (IMap.get (a.head h).gens 0 slot + 1) % 0x10000
        exec (.planeCreate c) s = .next ((a.modHead h (fun x => { x with
          gens := IMap.put x.gens slot gen
          planes := IMap.put x.planes slot
            { gen := gen, owner := c.tenant, z := c.u8 0x0A, cls := c.u8 0x0B, affine := c.u8 0x0C = 1 } })).completeOk
              (c.ref 0x0301) [word (handleOf gen h slot)]).advanced) ∧
    (s.accepts c 0x0302 .anyone 0 0 planeDestroyBody = true →
      let a := s.turn c 0x0302
      ∃ h slot p, needPlane a c.tenant (c.u32 0x08) 0x08 = .ok (h, slot, p) ∧
        exec (.planeDestroy c) s = .next (if (a.head h).boundaries then
          (a.modHead h (fun x => { x with
            planes := IMap.adjust x.planes slot (fun p => { p with dying := some (c.ref 0x0302) }) })).endStill h
        else (a.removePlane h slot).completeOk (c.ref 0x0302) []).advanced) ∧
    (s.accepts c 0x0303 .anyone 0 1 planeSetBody = true →
      let a := s.turn c 0x0303
      ∃ h slot p q, needPlane a c.tenant (c.u32 0x08) 0x08 = .ok (h, slot, p) ∧
        let scaler := p.poly.or (a.freePoly h)
        planeParams c (a.head h) slot p scaler.isSome (a.planeView h slot p) = .ok q ∧
        let poly := if slotKind slot = 2 && q.needsPoly then scaler else p.poly
        exec (.planeSet c) s = .next (((a.modHead h (fun x => { x with
          planes := IMap.adjust x.planes slot (fun p => { p with poly := poly }) })).stagePlane h c.tenant slot
            (fun g => { g with params := some q })).completeOk (c.ref 0x0303) []).advanced) ∧
    (s.accepts c 0x0304 .anyone 0 0 paletteLoadBody = true →
      let a := s.turn c 0x0304
      let h := c.u8 0x08
      let n := c.u8 0x0A
      let ps := (List.range n).map (· + c.u8 0x09)
      (bitOf (c.u8 0x0B) 0 = true →
        exec (.paletteLoad c) s = .next ((a.freePalettes h c.tenant ps).completeOk (c.ref 0x0304) []).advanced) ∧
      (bitOf (c.u8 0x0B) 0 = false →
        ∃ bs, readFor a c.tenant (c.u64 0x10) (n * 1024) 0x10 = .ok bs ∧
          exec (.paletteLoad c) s = .next (((((a.noteAssetRead c.tenant (c.u64 0x10) (n * 1024)).modHead h (fun x => { x with
            palettes := ps.foldl (fun m p => IMap.put m p { IMap.get m {} p with owner := some c.tenant })
              x.palettes })).modStage h c.tenant (fun g => { g with
                palettes := (ps.zip (chunks 256 (wordsOf 4 bs))).foldl (fun m e => IMap.put m e.1 e.2)
                  g.palettes })).completeOk (c.ref 0x0304) [])).advanced)) ∧
    (s.accepts c 0x0305 .anyone 0 0 objectTableSetBody = true →
      let a := s.turn c 0x0305
      ∃ h slot p bs, needStaged a c.tenant (c.u32 0x08) 1 = .ok (h, slot, p) ∧
        readFor a c.tenant (c.u64 0x10) (32 * c.u16 0x0C) 0x10 = .ok bs ∧
        exec (.objectTableSet c) s = .next (((a.noteAssetRead c.tenant (c.u64 0x10) (32 * c.u16 0x0C)).stagePlane h c.tenant
          slot (fun g => { g with objects := some ((chunks 32 bs).map objEntry) })).completeOk (c.ref 0x0305) []).advanced) ∧
    (s.accepts c 0x0401 .anyone 0 0 canvasSetBody = true →
      let a := s.turn c 0x0401
      ∃ h slot p, needStaged a c.tenant (c.u32 0x08) 2 = .ok (h, slot, p) ∧
        exec (.canvasSet c) s = .next ((a.stagePlane h c.tenant slot (fun g => { g with
          canvas := some ⟨c.u8 0x0C, c.u8 0x0D, c.u16 0x10, c.u16 0x12, c.u32 0x14, c.u64 0x18, c.u64 0x20,
            c.u32 0x28⟩ })).completeOk (c.ref 0x0401) []).advanced) ∧
    (s.accepts c 0x0402 .anyone 0 0 scalerCoefLoadBody = true →
      let a := s.turn c 0x0402
      ∃ h slot p bs, needStaged a c.tenant (c.u32 0x08) 2 = .ok (h, slot, p) ∧
        readFor a c.tenant (c.u64 0x10) 1792 0x10 = .ok bs ∧
        exec (.scalerCoefLoad c) s = .next (((a.noteAssetRead c.tenant (c.u64 0x10) 1792).stagePlane h c.tenant slot
          (fun g => { g with
            coefs := some ⟨((wordsOf 2 bs).take 512).map coefOf, ((wordsOf 2 bs).drop 512).map coefOf⟩ })).completeOk
              (c.ref 0x0402) []).advanced) ∧
    (s.accepts c 0x0403 .anyone 0 0 contourSetBody = true →
      let a := s.turn c 0x0403
      ∃ h slot p bs, needStaged a c.tenant (c.u32 0x08) 3 = .ok (h, slot, p) ∧
        readFor a c.tenant (c.u64 0x10) (24 * c.u32 0x0C) 0x10 = .ok bs ∧
        let es := flatten none ((chunks 24 bs).map pathElem)
        exec (.contourSet c) s = .next (((a.noteAssetRead c.tenant (c.u64 0x10) (24 * c.u32 0x0C)).stagePlane h c.tenant slot
          (fun g => { g with edges := some es })).completeOk (c.ref 0x0403) [word es.length, word (peakActive es)]).advanced) ∧
    (s.accepts c 0x0404 .anyone 0 15 paintSetBody = true →
      ∃ h slot p, needStaged (s.turn c 0x0404) c.tenant (c.u32 0x08) 3 = .ok (h, slot, p) ∧
        exec (.paintSet c) s = .next (((s.turn c 0x0404).stagePlane h c.tenant slot (fun g => { g with
          paint := some (paintOf c) })).completeOk (c.ref 0x0404) []).advanced)

/-- Groups 0x05 and 0x06 (R188 to R199, R206, R213, R222): look-up tables, dither, line lists and frets are staged or owned as
the command says, a look-up slot and a fret are freed, new lead bounds wait, and a cost query answers for the worst band.
Where the spec leaves a point open it holds of the model's choice there (assumptions 25 and 26). -/
def Obligations.ColourAndRasterCommandsComplete : Prop :=
  ∀ (c : Cmd) (s : State),
    (s.accepts c 0x0501 .anyone 0 0 transferLutLoadBody = true →
      let a := s.turn c 0x0501
      (c.u8 0x08 = 0 → ∃ bs, readFor a c.tenant (c.u64 0x10) 6144 0x10 = .ok bs ∧
        exec (.transferLutLoad c) s = .next ((((a.noteAssetRead c.tenant (c.u64 0x10) 6144).modHead (c.u8 0x09) (fun x => { x with
          luts := IMap.put x.luts (c.u8 0x0A) { (a.head (c.u8 0x09)).lut (c.u8 0x0A) with
            owner := some c.tenant } })).modStage (c.u8 0x09) c.tenant (fun g => { g with
              luts := IMap.put g.luts (c.u8 0x0A) (wordsOf 2 bs) })).completeOk (c.ref 0x0501) []).advanced) ∧
      (c.u8 0x08 = 1 →
        exec (.transferLutLoad c) s = .next (((a.dropStaged (c.u8 0x09) c.tenant (fun g => { g with
          luts := IMap.del g.luts (c.u8 0x0A) })).modHead (c.u8 0x09) (fun x => { x with
            luts := IMap.put x.luts (c.u8 0x0A) (if x.boundaries then
              { (a.head (c.u8 0x09)).lut (c.u8 0x0A) with owner := none, linear := true } else {}) })).completeOk
                (c.ref 0x0501) []).advanced) ∧
      (c.u8 0x08 = 2 → ∃ h slot p, needPlane a c.tenant (c.u32 0x0C) 0x0C = .ok (h, slot, p) ∧
        exec (.transferLutLoad c) s = .next ((a.stagePlane h c.tenant slot (fun g => { g with
          transfer := some (c.u8 0x0B) })).completeOk (c.ref 0x0501) []).advanced)) ∧
    (s.accepts c 0x0502 .platform 0 0 postLutLoadBody = true →
      let a := s.turn c 0x0502
      (bitOf (c.u8 0x09) 0 = true → exec (.postLutLoad c) s = .next ((a.modStage (c.u8 0x08) c.tenant (fun g => { g with
        post := some [] })).completeOk (c.ref 0x0502) []).advanced) ∧
      (bitOf (c.u8 0x09) 0 = false → ∃ bs, readFor a c.tenant (c.u64 0x10) 24576 0x10 = .ok bs ∧
        exec (.postLutLoad c) s = .next (((a.noteAssetRead c.tenant (c.u64 0x10) 24576).modStage (c.u8 0x08) c.tenant
          (fun g => { g with post := some (wordsOf 2 bs) })).completeOk (c.ref 0x0502) []).advanced)) ∧
    (s.accepts c 0x0503 .platform 0 0 ditherSetBody = true →
      exec (.ditherSet c) s = .next (((s.turn c 0x0503).modStage (c.u8 0x08) c.tenant (fun g => { g with
        dither := some (c.u8 0x09, c.u8 0x0A) })).completeOk (c.ref 0x0503) []).advanced) ∧
    (s.accepts c 0x0601 .anyone 0 0 linelistSetBody = true →
      let a := s.turn c 0x0601
      (c.u8 0x08 = 1 → exec (.linelistSet c) s = .next ((a.modStage (c.u8 0x09) c.tenant (fun g => { g with
        lists := IMap.put g.lists (c.u8 0x0A) none })).completeOk (c.ref 0x0601) [word (c.u8 0x0A)]).advanced) ∧
      (c.u8 0x08 = 0 → ∃ k ls, linelistLoad c a = .ok (k, ls) ∧
        exec (.linelistSet c) s = .next ((a.takeList c k ls).completeOk (c.ref 0x0601)
          [word k, word (mostWrites ls).1, word (mostWrites ls).2]).advanced)) ∧
    (s.accepts c 0x0602 .anyone 0 0 fretSetBody = true →
      let a := s.turn c 0x0602
      let h := c.u8 0x09
      let set : FretSet := ⟨bitOf (c.u8 0x0B) 0, bitOf (c.u8 0x0B) 1, bitOf (c.u8 0x0B) 2, c.u16 0x0C⟩
      (c.u8 0x08 = 0 → ∃ n, IMap.find? (a.head h).frets n = none ∧
        (c.u8 0x0A ≠ 0xFF → n = c.u8 0x0A) ∧
        (c.u8 0x0A = 0xFF → lowest 16 (fun i => ((IMap.find? (a.head h).frets i).map (·.owner)).isNone) = some n) ∧
        exec (.fretSet c) s = .next ((a.modHead h (fun x => { x with
          frets := IMap.put x.frets n { owner := c.tenant, next := some set } })).completeOk (c.ref 0x0602) [word n]).advanced) ∧
      (c.u8 0x08 = 1 → exec (.fretSet c) s = .next ((a.modHead h (fun x => { x with
        frets := IMap.adjust x.frets (c.u8 0x0A) (fun k => { k with next := some set }) })).completeOk (c.ref 0x0602)
          [word (c.u8 0x0A)]).advanced) ∧
      (c.u8 0x08 = 2 → exec (.fretSet c) s = .next (((a.dropFret h (c.u8 0x0A)).modHead h (fun x => { x with
        frets := IMap.del x.frets (c.u8 0x0A) })).completeOk (c.ref 0x0602) [word (c.u8 0x0A)]).advanced)) ∧
    (s.accepts c 0x0603 .platform 0 0 leadBoundsSetBody = true →
      exec (.leadBoundsSet c) s = .next ((s.turn c 0x0603).modHead (c.u8 0x08) (fun x => { x with
        lead := { x.lead with pend := x.lead.pend ++ [(c.ref 0x0603, c.u16 0x0A, c.u16 0x0C)] } })).advanced) ∧
    (s.accepts c 0x0604 .anyone 0 0 costQueryBody = true →
      ∃ t, ((s.turn c 0x0604).head (c.u8 0x08)).timing = some t ∧
        exec (.costQuery c) s = .next ((s.turn c 0x0604).completeOk (c.ref 0x0604)
          ((s.turn c 0x0604).costWords c t)).advanced)

/-- Group 0x07 (R259 to R262, R270 to R273, R250, R547): a thread is loaded into the slot given or found, with its image in
place, its start and stop are staged, the decode table changes as a whole, and each of the seven debug operations acts on the
thread. Where the spec leaves a point open it holds of the model's choice there (assumptions 5, 12 and 34). -/
def Obligations.TabCommandsComplete : Prop :=
  ∀ (c : Cmd) (s : State),
    (s.accepts c 0x0701 .anyone 0 0 tabLoadBody = true →
      let a := s.turn c 0x0701
      let h := c.u8 0x08
      ∃ i ca da image first, a.loadSlot h (c.u8 0x09) (c.u32 0x0C) (c.u32 0x18) = some i ∧
        a.placeThread (a.slotCoreNo h i) (c.u32 0x0C) (c.u32 0x18) = some (ca, da) ∧
        readFor a c.tenant (c.u64 0x10) (c.u32 0x0C) 0x10 = .ok image ∧
        readFor a c.tenant (c.u64 0x20) (c.u32 0x1C) 0x20 = .ok first ∧
        let gen := (IMap.get (a.headTabs h).gens 0 i + 1) % 0x10000
        let b := (a.noteAssetRead c.tenant (c.u64 0x10) (c.u32 0x0C)).noteAssetRead c.tenant (c.u64 0x20) (c.u32 0x1C)
        exec (.tabLoad c) s = .next (((((b.physWrite ca image).physZero da (c.u32 0x18)).physWrite da first).modTabs h (fun x =>
          { x with
            gens := IMap.put x.gens i gen
            threads := IMap.put x.threads i {
              gen := gen, owner := c.tenant, codeAt := ca, codeSize := c.u32 0x0C, dataAt := da, dataSize := c.u32 0x18
              writable := bitOf (c.u8 0x0A) 0, assetBase := c.u64 0x28 } })).completeOk (c.ref 0x0701)
                [word (handleOf gen h i), word (a.slotCoreNo h i)]).advanced) ∧
    (s.accepts c 0x0702 .anyone 0 0 tabStartBody = true →
      let a := s.turn c 0x0702
      ∃ h slot k, needThread a c.tenant (c.u32 0x08) 0x08 = .ok (h, slot, k) ∧
        exec (.tabStart c) s = .next ((a.modStage h c.tenant (fun g => { g with
          tabs := IMap.put g.tabs slot (.start k.gen {
            entry := word (c.u32 0x0C), first := c.u16 0x10, last := c.u16 0x12, stride := c.u16 0x14, budget := c.u16 0x16
            carry := bitOf (c.u8 0x18) 0, fastBudget := c.u16 0x1A, fret0 := c.u8 0x1C, fret1 := c.u8 0x1D
            handler0 := word (c.u32 0x20), handler1 := word (c.u32 0x24) }) })).completeOk (c.ref 0x0702) []).advanced) ∧
    (s.accepts c 0x0703 .anyone 0 0 tabStopBody = true →
      let a := s.turn c 0x0703
      ∃ h slot k, needThread a c.tenant (c.u32 0x08) 0x08 = .ok (h, slot, k) ∧
        exec (.tabStop c) s = .next ((a.modStage h c.tenant (fun g => { g with
          tabs := IMap.put g.tabs slot (.stop k.gen (c.u8 0x0C = 1)) })).completeOk (c.ref 0x0703) []).advanced) ∧
    (s.accepts c 0x0704 .platform 0 0 decodeTableLoadBody = true →
      let a := s.turn c 0x0704
      let cs := (List.range 32).filter (fun i => bitOf (c.u32 0x0C) i)
      (c.u8 0x08 = 0 → ∃ es, readInstall a c.tenant (c.u64 0x10) cs = .ok es ∧
        exec (.decodeTableLoad c) s = .next (State.completeOk (c.ref 0x0704) []
          (((installReads c.tenant (c.u64 0x10) es).foldl State.note a).installCode es)).advanced) ∧
      (c.u8 0x08 = 1 → exec (.decodeTableLoad c) s = .next ((a.removeCode cs).completeOk (c.ref 0x0704) []).advanced)) ∧
    (s.accepts c 0x0705 .anyone 0 0 tabDebugBody = true →
      let a := s.turn c 0x0705
      let r := c.ref 0x0705
      ∃ h slot k, needThread a c.tenant (c.u32 0x08) 0x08 = .ok (h, slot, k) ∧
        (c.u8 0x0C = 0 →
          (k.state = .halted → exec (.tabDebug c) s = .next (a.completeOk r []).advanced) ∧
          (k.state ≠ .halted → (k.park = none ∨ k.park = some .wake) →
            exec (.tabDebug c) s = .next ((a.haltThread h slot 0).completeOk r []).advanced) ∧
          (k.state ≠ .halted → ¬(k.park = none ∨ k.park = some .wake) →
            exec (.tabDebug c) s = .next (a.modThread h slot (fun k => { k with haltDue := k.haltDue ++ [r] })).advanced)) ∧
        (c.u8 0x0C = 1 → exec (.tabDebug c) s = .next ((a.modThread h slot Thread.resume).completeOk r []).advanced) ∧
        (c.u8 0x0C = 2 → exec (.tabDebug c) s = .next (a.modThread h slot (fun k => k.step r (c.u16 0x0E))).advanced) ∧
        (c.u8 0x0C = 3 → exec (.tabDebug c) s = .next ((a.debugWords k (c.u8 0x0D)).2.completeOk r
          (a.debugWords k (c.u8 0x0D)).1).advanced) ∧
        (c.u8 0x0C = 4 → exec (.tabDebug c) s = .next ((a.modThread h slot (fun k => { k with
          breaks := if c.u32 0x10 = 0xFFFFFFFF then IMap.del k.breaks (c.u8 0x0D)
            else IMap.put k.breaks (c.u8 0x0D) (word (c.u32 0x10)) })).completeOk r []).advanced) ∧
        (c.u8 0x0C = 5 → exec (.tabDebug c) s = .next ((a.noteRead (k.dataAt + c.u32 0x10) (4 * c.u16 0x0E)).completeOk r
          ((chunks 4 (Mem.readRun a.mem.phys (k.dataAt + c.u32 0x10) (4 * c.u16 0x0E))).map (fun b => word (leNat b)))).advanced) ∧
        (c.u8 0x0C = 6 → exec (.tabDebug c) s = .next ((a.physWrite (k.dataAt + 4 * c.u16 0x0E)
          (leBytes 4 (c.u32 0x10))).completeOk r []).advanced))

/-- Group 0x08 (R281, R285, R290, R296, R297, R303, R306): timings, routes, lock roles and Still policies wait for their
boundary, a commit takes the issuer's staged state of its heads, and a capture starts at once. Where the spec leaves a point
open it holds of the model's choice there (assumptions 12 and 25). -/
def Obligations.DisplayCommandsComplete : Prop :=
  ∀ (c : Cmd) (s : State),
    (s.accepts c 0x0801 .platform 0 0 headTimingSetBody = true →
      let a := s.turn c 0x0801
      let h := c.u8 0x08
      let r := c.ref 0x0801
      (bitOf (c.u8 0x09) 0 = true →
        ((a.head h).planned = none → exec (.headTimingSet c) s = .next (a.completeOk r []).advanced) ∧
        ((a.head h).planned ≠ none → exec (.headTimingSet c) s = .next (a.acceptTiming h (some r, .off)).advanced)) ∧
      (bitOf (c.u8 0x09) 0 = false →
        ((a.head h).planned = none →
          exec (.headTimingSet c) s = .next (a.acceptTiming h (some r, .first (timingOf c))).advanced) ∧
        (∀ old, (a.head h).planned = some old →
          exec (.headTimingSet c) s = .next (a.acceptTiming h
            (some r, if old.sameBut (timingOf c) then .deadline (timingOf c) else .change (timingOf c))).advanced))) ∧
    (s.accepts c 0x0802 .platform 0 0 portRouteSetBody = true →
      let a := s.turn c 0x0802
      let b := (a.lostHeads (c.u8 0x08) (routeOf c)).foldl (fun s h => s.modHead h (fun x => { x with port := none })) a
      let d := b.modPort (c.u8 0x08) (fun p => { p with
        pend := p.pend ++ [⟨some (c.ref 0x0802), routeOf c, (routeOf c).headList⟩] })
      exec (.portRouteSet c) s = .next (d.nextRoute (c.u8 0x08) (d.portAt (c.u8 0x08)).pend.length).advanced ∧
      ((a.portAt (c.u8 0x08)).pend = [] →
        ((routeOf c).headList ≠ [] → exec (.portRouteSet c) s = .next d.advanced) ∧
        ((routeOf c).headList = [] → (a.portAt (c.u8 0x08)).training = false →
          let lost := (((a.portAt (c.u8 0x08)).route.map Route.headList).getD [])
          exec (.portRouteSet c) s = .next (((lost.foldl (fun s h => s.modHead h (fun x => { x with port := none })) d).modPort
            (c.u8 0x08) (fun p => { p.unrouted with pend := [] })).completeOk (c.ref 0x0802) []).advanced))) ∧
    (s.accepts c 0x0803 .anyone 0 0 commitSubmitBody = true →
      let a := s.turn c 0x0803
      let hs := maskHeads (c.u8 0x08)
      let k := a.commitOf c (c.ref 0x0803) hs
        (if bitOf (c.u8 0x09) 0 then some (BitVec.ofNat 64 (c.u64 0x10)) else none)
      k.members.map (fun m => m.stage) = hs.map (fun h => (a.head h).stage c.tenant) ∧
      exec (.commitSubmit c) s = .next (a.acceptCommit c hs k).advanced ∧
      (a.acceptCommit c hs k).disp.commits = a.disp.commits ++ [k]) ∧
    (s.accepts c 0x0804 .anyone 0 0 captureStartBody = true →
      exec (.captureStart c) s = .next ((((s.turn c 0x0804).modTenant c.tenant (fun x =>
        x.subscribe 0x0804 (c.u8 0x08))).modHead (c.u8 0x08) (fun x => { x with
          capture := some { owner := c.tenant, decimate := c.u8 0x09, rect := rectOf c 0x0C, pages := c.u32 0x14
                            ring := c.u64 0x18, cons := c.u64 0x20 } })).completeOk (c.ref 0x0804) []).advanced) ∧
    (s.accepts c 0x0805 .anyone 0 0 captureStopBody = true →
      let a := s.turn c 0x0805
      ∃ k, (a.head (c.u8 0x08)).capture = some k ∧
        (k.frame = none → exec (.captureStop c) s = .next ((a.modHead (c.u8 0x08) (fun x => { x with
          capture := none })).completeOk (c.ref 0x0805) []).advanced) ∧
        (k.frame ≠ none → exec (.captureStop c) s = .next (a.modHead (c.u8 0x08) (fun x => { x with
          capture := x.capture.map (fun k => { k with stop := some (k.stop.getD [] ++ [c.ref 0x0805]) }) })).advanced)) ∧
    (s.accepts c 0x0806 .platform 0 0 framelockSetBody = true →
      exec (.framelockSet c) s = .next (((s.turn c 0x0806).modHead (c.u8 0x08) (fun x => { x with
        lock := { x.lock with pend := x.lock.pend ++ [(c.ref 0x0806, c.u8 0x09, BitVec.ofNat 64 (c.u64 0x10))] } })).endStill
          (c.u8 0x08)).advanced) ∧
    (s.accepts c 0x0807 .platform 0 0 stillPolicySetBody = true →
      exec (.stillPolicySet c) s = .next (((s.turn c 0x0807).modHead (c.u8 0x08) (fun x => { x with
        pendStill := x.pendStill ++ [(c.ref 0x0807, decide (c.u8 0x09 = 1), c.u8 0x0A, c.u8 0x0B)] })).endStill (c.u8 0x08)).advanced)

/-- Group 0x09 and CARTOUCHE_VOICE_SET (R314, R317, R322, R325, R328 to R330, R386): images and samples are copied while the
command waits or are released, cells wait for a boundary, and region, reference and state changes wait for line 0. Where the
spec leaves a point open it holds of the model's choice there (assumptions 12 and 37). -/
def Obligations.CartoucheCommandsComplete : Prop :=
  ∀ (c : Cmd) (s : State),
    (s.accepts c 0x0901 .safety 0 0 cartoucheImageLoadBody = true →
      let a := s.turn c 0x0901
      (c.u8 0x08 = 1 → exec (.cartoucheImageLoad c) s = .next ((a.releaseImage (c.u8 0x09)).completeOk (c.ref 0x0901) []).advanced) ∧
      (c.u8 0x08 = 0 → ∃ data ps,
        readFor a c.tenant (c.u64 0x10) (imageBytes (c.u8 0x0A) (c.u16 0x0C) (c.u16 0x0E)) 0x10 = .ok data ∧
        a.disp.cart.alloc (ceilDiv data.length 4096) = some ps ∧
        exec (.cartoucheImageLoad c) s = .next (((a.noteAssetRead c.tenant (c.u64 0x10) data.length).modDisp (fun d => { d with
          cart := { d.cart with loads := d.cart.loads ++
            [⟨c.ref 0x0901, false, c.u8 0x09, c.u8 0x0A, c.u16 0x0C, c.u16 0x0E, ps, data⟩] } })).setStage
              (c.ref 0x0901) (.waiting (.cartouche []))).advanced)) ∧
    (s.accepts c 0x0902 .safety 0 0 cartoucheCellSetBody = true →
      let a := s.turn c 0x0902
      let h := c.u8 0x09
      let blink := decide (c.u8 0x08 ≤ 1) && bitOf (c.u8 0x0C) 0
      (c.u8 0x08 = 0 → exec (.cartoucheCellSet c) s = .next ((a.modHead h (fun x => { x with
        cellWaits := x.cellWaits ++ [⟨c.ref 0x0902, a.now, c.u8 0x0A, some
          { rect := rectOf c 0x10, fill := c.u32 0x18, images := (c.bytes 0x20 16).map BitVec.toNat, state := c.u8 0x0B
            blink := blink, blinkState := c.u8 0x0D, onMs := c.u16 0x1C, offMs := c.u16 0x1E }⟩] })).endStill h).advanced) ∧
      (c.u8 0x08 = 1 → exec (.cartoucheCellSet c) s = .next (a.modHead h (fun x => { x with
        lineZero := x.lineZero ++ [⟨c.ref 0x0902, a.now, a.after100 (c.u64 0x30),
          .cellState (c.u8 0x0A) (c.u8 0x0B) blink (c.u8 0x0D) (c.u16 0x1C) (c.u16 0x1E), (a.head h).lowered⟩] })).advanced) ∧
      (c.u8 0x08 = 2 → exec (.cartoucheCellSet c) s = .next ((a.modHead h (fun x => { x with
        cellWaits := x.cellWaits ++ [⟨c.ref 0x0902, a.now, c.u8 0x0A, none⟩] })).endStill h).advanced)) ∧
    (s.accepts c 0x0903 .safety 0 0 watchRegionSetBody = true →
      let a := s.turn c 0x0903
      let bound := bitOf (c.u8 0x0B) 2
      let g : Option RegionSet := if c.u8 0x08 = 0 then some {
        refCheck := bitOf (c.u8 0x0B) 0, freeze := bitOf (c.u8 0x0B) 1, bound := if bound then some (c.u8 0x0C) else none
        freezeK := c.u8 0x0D, missLimit := c.u8 0x0E, rect := if bound then {} else rectOf c 0x10 } else none
      exec (.watchRegionSet c) s = .next (a.modHead (c.u8 0x09) (fun x => { x with
          lineZero := x.lineZero ++ [⟨c.ref 0x0903, a.now, a.after100 0, .region (c.u8 0x0A) g, false⟩] })).advanced) ∧
    (s.accepts c 0x0904 .safety 0 0 referenceSetBody = true →
      let a := s.turn c 0x0904
      ∃ data, readFor a c.tenant (c.u64 0x10) (4 * c.u8 0x0A) 0x10 = .ok data ∧
        exec (.referenceSet c) s = .next ((a.noteAssetRead c.tenant (c.u64 0x10) (4 * c.u8 0x0A)).modHead (c.u8 0x08)
          (fun x => { x with
            lineZero := x.lineZero ++ [⟨c.ref 0x0904, a.now, a.after100 0, .refs (c.u8 0x09) ((wordsOf 4 data).map word), false⟩] })).advanced) ∧
    (s.accepts c 0x0905 .safety 0 0 faultReactionSetBody = true →
      let a := s.turn c 0x0905
      let h := c.u8 0x09
      (c.u8 0x08 = 0 → exec (.faultReactionSet c) s = .next ((a.modHead h (fun x => { x with
        reactions := IMap.put x.reactions (c.u8 0x0A) (c.u8 0x0B, c.u16 0x0C) })).completeOk (c.ref 0x0905) []).advanced) ∧
      (c.u8 0x08 = 1 → exec (.faultReactionSet c) s = .next ((a.modHead h (fun x => { x with
        fallbackColour := c.u32 0x10 })).completeOk (c.ref 0x0905) []).advanced) ∧
      (c.u8 0x08 = 2 → exec (.faultReactionSet c) s = .next ((a.modHead h (fun x => { x with
        fallback := false })).completeOk (c.ref 0x0905) []).advanced) ∧
      (c.u8 0x08 = 3 → exec (.faultReactionSet c) s = .next ((a.releaseReaction (c.u16 0x0C)).completeOk (c.ref 0x0905) []).advanced)) ∧
    (s.accepts c 0x0B0A .safety 0 0 cartoucheVoiceSetBody = true →
      let a := s.turn c 0x0B0A
      (c.u8 0x08 = 1 → exec (.cartoucheVoiceSet c) s = .next ((a.modDisp (fun d => { d with
        cart := { d.cart with samples := IMap.del d.cart.samples (c.u8 0x09) } })).completeOk (c.ref 0x0B0A) []).advanced) ∧
      (c.u8 0x08 = 0 → ∃ data ps,
        readFor a c.tenant (c.u64 0x10) (sampleBytes (c.u8 0x0A) (c.u32 0x0C)) 0x10 = .ok data ∧
        a.disp.cart.alloc (ceilDiv data.length 4096) = some ps ∧
        exec (.cartoucheVoiceSet c) s = .next (((a.noteAssetRead c.tenant (c.u64 0x10) data.length).modDisp (fun d => { d with
          cart := { d.cart with loads := d.cart.loads ++
            [⟨c.ref 0x0B0A, true, c.u8 0x09, c.u8 0x0A, c.u32 0x0C, 0, ps, data⟩] } })).setStage
              (c.ref 0x0B0A) (.waiting (.cartouche []))).advanced))

/-- Groups 0x0A and 0x0D and SERVICE_ENTER (R361 to R364, R415, R430, R482, R521): priorities, policies and maintenance settings
change at once, a query answers from the governor, and mode and clock changes arm. Where the spec leaves a point open it
holds of the model's choice there (assumptions 5, 30 and 32). -/
def Obligations.PowerCommandsComplete : Prop :=
  ∀ (c : Cmd) (s : State),
    (s.accepts c 0x0A01 .platform 0 0 headPrioritySetBody = true →
      exec (.headPrioritySet c) s = .next (((s.turn c 0x0A01).modHead (c.u8 0x08) (fun x => { x with
        priority := c.u8 0x09 })).completeOk (c.ref 0x0A01) []).advanced) ∧
    (s.accepts c 0x0A02 .platform 0 0 powerPolicySetBody = true →
      exec (.powerPolicySet c) s = .next (((s.turn c 0x0A02).modDisp (fun d => { d with
        gov := { d.gov with policy := some (c.u8 0x08, c.u8 0x09, c.u16 0x0A) } })).completeOk (c.ref 0x0A02) []).advanced) ∧
    (s.accepts c 0x0A03 .platform 0 0 maintenanceSetBody = true →
      let a := s.turn c 0x0A03
      let n := c.u8 0x08
      (c.u8 0x09 = 0 → exec (.maintenanceSet c) s = .next ((a.modActivity n (fun x => { x with
        period := c.u32 0x0C })).completeOk (c.ref 0x0A03) []).advanced) ∧
      (c.u8 0x09 = 1 → exec (.maintenanceSet c) s = .next (a.activityDue n (some (c.ref 0x0A03))).advanced) ∧
      (c.u8 0x09 = 2 → exec (.maintenanceSet c) s = .next ((a.modActivity n (fun x => { x with
        enabled := false })).completeOk (c.ref 0x0A03) []).advanced) ∧
      (c.u8 0x09 = 3 → exec (.maintenanceSet c) s = .next ((a.modActivity n (fun x => { x with
        enabled := true })).completeOk (c.ref 0x0A03) []).advanced)) ∧
    (s.accepts c 0x0A04 .anyone 0 0 governorQueryBody = true →
      let a := s.turn c 0x0A04
      let g := a.disp.gov
      exec (.governorQuery c) s = .next (a.completeOk (c.ref 0x0A04)
        [wordI g.tj, word a.clocks.cclk, word a.levelField, word g.avg1ms, word g.avg1s,
          word ((if g.unanchored then 1 else 0) + (if a.power.tellForced then 2 else 0)),
          word (a.countClusters (· = .spare)), word (a.countClusters (fun k => k = .quarantined || k = .retired))]).advanced) ∧
    (s.accepts c 0x0D01 .platform 0 0 modeSetBody = true →
      let a := s.turn c 0x0D01
      let m := modeOfCode (c.u8 0x08)
      (m = a.power.mode → exec (.modeSet c) s = .next (a.completeOk (c.ref 0x0D01) []).advanced) ∧
      (m ≠ a.power.mode → exec (.modeSet c) s = .next (State.armMode m 1 (some (c.ref 0x0D01))
        { a with power := { a.power with tellForced := false, tellForcedDue := false } }).advanced)) ∧
    (s.accepts c 0x0D02 .platform 0 0 clockPlanSetBody = true →
      let a := s.turn c 0x0D02
      exec (.clockPlanSet c) s = .next (a.armChange (.plan (c.ref 0x0D02) (c.u16 0x08) (c.u16 0x0A) (c.u16 0x0C) (c.u16 0x0E))
        [a.clocks.cclkMax, a.clocks.fclk, a.clocks.pclk, a.clocks.cpClk, a.clocks.cclk]).advanced) ∧
    (s.accepts c 0x0D03 .platform 0 0 clockMeasureBody = true →
      let a := s.turn c 0x0D03
      exec (.clockMeasure c) s = .next (if (a.activity 6).running then
        { a with clocks := { a.clocks with
          measures := a.clocks.measures ++ [(c.ref 0x0D03, c.u8 0x08, c.u8 0x09, c.u32 0x0C)] } }
        else a.measure (c.ref 0x0D03) (c.u8 0x09) (c.u32 0x0C)).advanced) ∧
    (s.accepts c 0x1103 .platform 0 0 serviceEnterBody = true →
      exec (.serviceEnter c) s = .next ((s.turn c 0x1103).armMode .service 4 (some (c.ref 0x1103))).advanced)

/-- Group 0x0B (R369 to R371, R377, R381, R383, R391 to R394): every accepted audio command waits for a boundary of its Course,
with its apply time; an allocation and a release are seen at once by the commands after it. Where the spec leaves a point
open it holds of the model's choice there (assumptions 12, 41, 42 and 46). -/
def Obligations.AudioCommandsComplete : Prop :=
  ∀ (c : Cmd) (s : State),
    (s.accepts c 0x0B01 .anyone 0 0 voiceCreateBody = true →
      let a := s.turn c 0x0B01
      let r := c.ref 0x0B01
      (c.u8 0x08 = 0 → ∃ v, (a.voice v).owner = none ∧ (c.u8 0x0B ≠ 0xFF → v = c.u8 0x0B) ∧
        (c.u8 0x0B = 0xFF → lowest 96 (fun v => (a.voice v).owner.isNone) = some v) ∧
        let g := (IMap.get a.audio.gens 0 v + 1) % 0x10000
        let x : Voice := { gen := g, owner := some c.tenant, kind := c.u8 0x09, course := c.u8 0x0A }
        exec (.voiceCreate c) s = .next (State.withWait ⟨r, c.u8 0x0A, none, false, [word (x.handle v)], .note⟩
          (a.modAudio (fun u => { u with voices := IMap.put u.voices v x, gens := IMap.put u.gens v g }))).advanced) ∧
      (c.u8 0x08 = 1 → ∃ v, exec (.voiceCreate c) s = .next (State.withWait ⟨r, (a.voice v).course, none, false, [], .destroy v⟩
        (a.modVoice v (fun x => { x with freeDue := true }))).advanced ∧
          (a.voice v).owner = some c.tenant ∧ (a.voice v).gen = c.u32 0x0C / 0x10000 ∧ v = c.u32 0x0C % 0x10000)) ∧
    (s.accepts c 0x0B02 .anyone 0 1 voiceSetBody = true →
      let a := s.turn c 0x0B02
      let m := c.u8 0x0C
      ∃ v t q, voiceSetChecks c a = .ok (v, t, q) ∧
        let w : VoiceWrite := {
          kind := if 96 ≤ v then some (c.u8 0x0D) else none
          src := if bitOf m 0 then some q else none
          step := if bitOf m 1 then some (c.u32 0x28) else none
          gain := if bitOf m 2 then some (c.u16 0x2C) else none
          env := if bitOf m 3 then some (c.u16 0x30, c.u16 0x32, c.u16 0x34, c.u16 0x36) else none
          sends := if bitOf m 4 then some (((List.range 4).map (voiceSend c)).filter (fun e => e.target != 0)) else none }
        let b := if bitOf m 0 && c.u8 0x0D = 1 && decide (v < 96)
          then a.noteAssetRead c.tenant q.addr (if q.format = 0 then 512 else 768) else a
        exec (.voiceSet c) s = .next (State.withWait ⟨c.ref 0x0B02, (b.voice v).course, t.1, t.2, [], .write v w⟩ b).advanced) ∧
    (s.accepts c 0x0B03 .anyone 0 0 voiceStartBody = true →
      let a := s.turn c 0x0B03
      ∃ v t, a.needVoice c.tenant (c.u32 0x08) = .ok v ∧ a.audioTime (c.u8 0x0C = 1) (c.u64 0x10) 0x10 = .ok t ∧
        exec (.voiceStart c) s = .next (State.withWait ⟨c.ref 0x0B03, (a.voice v).course, t.1, t.2, [], .start v⟩ a).advanced) ∧
    (s.accepts c 0x0B04 .anyone 0 0 voiceStopBody = true →
      let a := s.turn c 0x0B04
      ∃ v t, a.needVoice c.tenant (c.u32 0x08) = .ok v ∧ a.audioTime (c.u8 0x0C = 1) (c.u64 0x10) 0x10 = .ok t ∧
        exec (.voiceStop c) s = .next (State.withWait
          ⟨c.ref 0x0B04, (a.voice v).course, t.1, t.2, [], .stop v (c.u8 0x0D = 1)⟩ a).advanced) ∧
    (s.accepts c 0x0B05 .anyone 0 0 busSetBody = true →
      let a := s.turn c 0x0B05
      let n := c.u8 0x09
      ∃ t, a.audioTime (bitOf (c.u8 0x0C) 3) (c.u64 0x20) 0x20 = .ok t ∧
      (c.u8 0x08 = 1 → ∃ g, a.busPlan? n = some (c.tenant, g) ∧
        exec (.busSet c) s = .next (State.withWait ⟨c.ref 0x0B05, g.course, t.1, t.2, [word n], .freeBus n⟩
          (a.modBus n (fun x => { x with freeDue := true }))).advanced) ∧
      (c.u8 0x08 = 0 →
        let g := busSetOf c
        let mine := n ≤ 15 ∧ (a.busPlan? n).map Prod.fst = some c.tenant
        (mine → exec (.busSet c) s = .next (State.withWait ⟨c.ref 0x0B05, g.course, t.1, t.2, [word n], .bus n g⟩
          (a.modBus n (fun x => { x with plan := g }))).advanced) ∧
        (¬mine → ∃ b, (a.bus b).owner = none ∧ (n ≠ 0xFF → b = n) ∧
          (n = 0xFF → lowest 16 (fun b => (a.bus b).owner.isNone) = some b) ∧
          exec (.busSet c) s = .next (State.withWait ⟨c.ref 0x0B05, g.course, t.1, t.2, [word b], .bus b g⟩
            (a.modBus b (fun x => { owner := some c.tenant, plan := g, set := g, capture := x.capture }))).advanced))) ∧
    (s.accepts c 0x0B06 .anyone 0 0 bridgeSetBody = true →
      let a := s.turn c 0x0B06
      let n := c.u8 0x09
      let w (k : Nat) (l : Nat) (x : AudioChange) : AudioWait := ⟨c.ref 0x0B06, k, none, false, [word l], x⟩
      (c.u8 0x08 = 1 → ∃ x, a.lanePlan? n = some x ∧ x.owner = some c.tenant ∧
        exec (.bridgeSet c) s = .next (State.withWait (w (a.bus x.dstBus).plan.course n (.freeLane n)) a).advanced) ∧
      (c.u8 0x08 = 0 → ∃ l d, a.needBus c.tenant (c.u8 0x0E) 0x0E = .ok d ∧ (n ≠ 0xFF → l = n) ∧
        let mine := n ≤ 31 ∧ (a.lanePlan? n).any (fun x => decide (x.owner = some c.tenant)) = true
        (mine → exec (.bridgeSet c) s = .next (State.withWait (w d.course l (.lane l (laneOf c))) (a.modLane l id)).advanced) ∧
        (¬mine → (a.lane l).owner = none ∧ (n = 0xFF → lowest 32 (fun l => (a.lane l).owner.isNone) = some l) ∧
          exec (.bridgeSet c) s = .next (State.withWait (w d.course l (.lane l (laneOf c)))
            (a.modLane l (fun _ => { laneOf c with dead := true }))).advanced))) ∧
    (s.accepts c 0x0B07 .platform 0 0 audioPortSetBody = true →
      let a := s.turn c 0x0B07
      let n := c.u8 0x09
      let w (ws : List Word) (k : Nat) (x : AudioChange) : AudioWait := ⟨c.ref 0x0B07, k, none, false, ws, x⟩
      let out := a.tdmPlan true n
      (c.u8 0x08 = 0 → exec (.audioPortSet c) s = .next (State.withWait (w [word (a.cartMask n)] (c.u8 0x0E)
        (.tdm true n (tdmSet c ((List.range 16).map (fun i =>
          if bitOf (a.cartMask n) i then ((out.map (·.map)).getD []).getD i 0 else c.u16 (0x10 + 2 * i)))))) a).advanced) ∧
      (c.u8 0x08 = 1 → exec (.audioPortSet c) s =
        .next (State.withWait (w [] (c.u8 0x0E) (.tdm false n (tdmSet c []))) a).advanced) ∧
      (c.u8 0x08 = 2 → exec (.audioPortSet c) s =
        .next (State.withWait (w [] (c.u8 0x0E) (.pdm n (c.u8 0x0E))) a).advanced) ∧
      (c.u8 0x08 = 3 → exec (.audioPortSet c) s = .next (a.modAudio (fun u =>
        let k (o : AudioClock) : AudioClock :=
          { source := c.u8 0x0A, stream := c.u8 0x0B, relock := o.relock ++ [c.ref 0x0B07], locking := true }
        if n = 1 then { u with clkB := k a.audio.clkB } else { u with clkA := k a.audio.clkA })).advanced) ∧
      (c.u8 0x08 = 4 → exec (.audioPortSet c) s = .next (State.withWait
        (w [] (((out.or (a.tdmPlan false n)).map (·.course)).getD 0) (.portOff n)) a).advanced)) ∧
    (s.accepts c 0x0B08 .platform 0 0 avtpStreamSetBody = true →
      let a := s.turn c 0x0B08
      let key := if c.u8 0x0A = 1 then 16 + c.u8 0x09 else c.u8 0x09
      let w (k : Nat) (x : AudioChange) : AudioWait := ⟨c.ref 0x0B08, k, none, false, [], x⟩
      (c.u8 0x08 = 1 → ∃ x, a.avtpPlan key = some x ∧
        exec (.avtpStreamSet c) s = .next (State.withWait (w x.course (.avtpOff key)) a).advanced) ∧
      (c.u8 0x08 = 0 →
        let k := if c.u8 0x0A = 1 then c.u8 0x26
          else (((if c.u8 0x24 ≤ 15 then a.busPlan? (c.u8 0x24) else none).map Prod.snd).map (·.course)).getD 0
        exec (.avtpStreamSet c) s = .next (State.withWait (w k (.avtp key (avtpOf c k))) a).advanced)) ∧
    (s.accepts c 0x0B09 .anyone 0 0 audioCaptureStartBody = true →
      let a := s.turn c 0x0B09
      let b := c.u8 0x09
      (c.u8 0x08 = 1 → exec (.audioCaptureStart c) s = .next (a.modACap b (fun k => { k with
        stop := some (k.stop.getD [] ++ [c.ref 0x0B09]) })).advanced) ∧
      (c.u8 0x08 = 0 → ∃ o g, a.busPlan? b = some (o, g) ∧
        exec (.audioCaptureStart c) s = .next (State.withWait ⟨c.ref 0x0B09, g.course, none, false, [], .note⟩
          (a.modBus b (fun y => { y with
            capture := some { owner := c.tenant, block := c.u16 0x0A, pages := c.u32 0x0C, ring := c.u64 0x10
                              cons := c.u64 0x18 } }))).advanced))

/-- Groups 0x0C and 0x0E (R444, R449, R452, R455, R456): what each accepted Pegbox and timer command does; a model and a calendar
command answer later. Where the spec leaves a point open it holds of the model's choice there (assumptions 12, 44 and 46). -/
def Obligations.PegboxAndTimerCommandsComplete : Prop :=
  ∀ (c : Cmd) (s : State),
    (s.accepts c 0x0C01 .platform 0 0 modelLoadBody = true →
      let a := s.turn c 0x0C01
      ∃ image k, readFor a c.tenant (c.u64 0x10) (c.u32 0x0C) 0x10 = .ok image ∧ checkModel image = .ok k ∧
        exec (.modelLoad c) s = .next ((a.noteAssetRead c.tenant (c.u64 0x10) (c.u32 0x0C)).modPeg (fun g => { g with
          nextModel := some k, modelRefs := g.modelRefs ++ [c.ref 0x0C01] })).advanced) ∧
    (s.accepts c 0x0C02 .platform 0 0 listenProgramLoadBody = true →
      let a := s.turn c 0x0C02
      (c.u8 0x08 = 1 → exec (.listenProgramLoad c) s = .next ((a.modPeg (fun g => { g with
        running := false, idle := false, pending := [] })).completeOk (c.ref 0x0C02) []).advanced) ∧
      (c.u8 0x08 = 0 → ∃ code init, readFor a c.tenant (c.u64 0x10) (c.u32 0x0C) 0x10 = .ok code ∧
        readFor a c.tenant (c.u64 0x20) (c.u32 0x18) 0x20 = .ok init ∧
        exec (.listenProgramLoad c) s = .next ((((a.noteAssetRead c.tenant (c.u64 0x10) (c.u32 0x0C)).noteAssetRead c.tenant
          (c.u64 0x20) (c.u32 0x18)).modPeg (fun g => { g with
            running := true, idle := false, pending := [], code := Mem.write g.code 0 code, codeSize := c.u32 0x0C
            data := Mem.write [] 0 init, regs := { pc := word (fieldU code 0 4) } })).completeOk (c.ref 0x0C02) []).advanced)) ∧
    (s.accepts c 0x0C03 .platform 0 0 wakeSourceSetBody = true →
      let w : WakeSource := { enable := c.u8 0x09 = 1, mode := c.u8 0x0A }
      let put (w : WakeSource) : State := ((s.turn c 0x0C03).modPeg (fun g => { g with
        sources := IMap.put g.sources (c.u8 0x08) w })).completeOk (c.ref 0x0C03) []
      (c.u8 0x08 = 2 → exec (.wakeSourceSet c) s = .next (put { w with
        cls := c.u8 0x0C, threshold := c.u8 0x0D, frames := c.u8 0x0E }).advanced) ∧
      (c.u8 0x08 = 3 → exec (.wakeSourceSet c) s = .next (((s.turn c 0x0C03).modPeg (fun g => { g with
        slots := IMap.put g.slots (c.u8 0x0B) { w with pin := c.u16 0x0C } })).completeOk (c.ref 0x0C03) []).advanced) ∧
      (c.u8 0x08 = 6 → exec (.wakeSourceSet c) s = .next (put { w with
        mac := c.u8 0x0C, ethType := c.u16 0x0E, dest := c.bytes 0x10 6, patOff := c.u16 0x16
        pattern := c.bytes 0x18 16 }).advanced) ∧
      (c.u8 0x08 = 1 ∨ c.u8 0x08 = 4 ∨ c.u8 0x08 = 5 ∨ c.u8 0x08 = 7 → exec (.wakeSourceSet c) s = .next (put w).advanced)) ∧
    (s.accepts c 0x0C04 .platform 0 0 prerollReadBody = true →
      let a := s.turn c 0x0C04
      let r := c.ref 0x0C04
      let ws := [a.peg.held.1, a.peg.held.2]
      exec (.prerollRead c) s = .next (State.setStage r (.waiting (.preroll ws)) { a with
        prerolls := a.prerolls ++ [{ ref := r, start := word (c.u32 0x08), count := c.u32 0x0C, addr := c.u64 0x10
                                     mics := c.u8 0x18, words := ws }] }).advanced) ∧
    (s.accepts c 0x0E01 .anyone 0 0 compareSetBody = true →
      let a := s.turn c 0x0E01
      let r := c.ref 0x0E01
      let ch := c.u8 0x09
      let fl := c.u8 0x0A
      (c.u8 0x08 = 1 → exec (.compareSet c) s = .next ((a.putCompare ch {}).completeOk r
        ([word ch] ++ words64 (a.compareCh ch).value)).advanced) ∧
      (c.u8 0x08 = 0 → ∃ n, ((a.compareCh n).owner = none ∨ (a.compareCh n).owner = some c.tenant) ∧ (ch ≠ 0xFF → n = ch) ∧
        (ch = 0xFF → lowest 56 (fun n => (a.compareCh n).owner.isNone) = some n) ∧
        let v : Meridian := BitVec.ofNat 64 (c.u64 0x10) + (if bitOf fl 2 then a.now else 0)
        exec (.compareSet c) s = .next ((a.putCompare n
          { owner := some c.tenant, event := bitOf fl 0, pin := if bitOf fl 1 then some (c.u8 0x0B, c.u16 0x0C) else none
            value := v, period := c.u64 0x18, armed := true }).completeOk r ([word n] ++ words64 v)).advanced)) ∧
    (s.accepts c 0x0E02 .anyone 0 0 captureChannelSetBody = true →
      let a := s.turn c 0x0E02
      let ch := c.u8 0x09
      (c.u8 0x08 = 1 → exec (.captureChannelSet c) s = .next ((a.setCapture ch {}).completeOk (c.ref 0x0E02) [word ch]).advanced) ∧
      (c.u8 0x08 = 0 → ∃ n, ((a.captureCh n).owner = none ∨ (a.captureCh n).owner = some c.tenant) ∧ (ch ≠ 0xFF → n = ch) ∧
        (ch = 0xFF → lowest 32 (fun n => (a.captureCh n).owner.isNone) = some n) ∧
        exec (.captureChannelSet c) s = .next ((a.setCapture n
          { owner := some c.tenant, edge := c.u8 0x0A, filter := c.u8 0x0B, pin := c.u16 0x0C, prescale := c.u16 0x0E
            level := (a.pin (c.u16 0x0C)).ball }).completeOk (c.ref 0x0E02) [word n]).advanced)) ∧
    (s.accepts c 0x0E03 .anyone 0 0 pwmSetBody = true →
      let a := s.turn c 0x0E03
      let r := c.ref 0x0E03
      let u := c.u8 0x09
      let runs (n : Nat) : Bool := (a.pwmUnit n).running && (a.pwmUnit n).started
      (c.u8 0x08 = 1 → runs u = true → exec (.pwmSet c) s = .next ((a.setPwm u { a.pwmUnit u with
        next := .free (bitOf (c.u8 0x0A) 2) }).completeOk r [word u]).advanced) ∧
      (c.u8 0x08 = 1 → runs u = false → exec (.pwmSet c) s = .next ((a.applyPwm u (a.pwmUnit u).freed).completeOk r
        [word u]).advanced) ∧
      (c.u8 0x08 = 0 →
        let going := u ≠ 0xFF ∧ (a.pwmUnit u).owner = some c.tenant ∧ runs u = true
        (going → exec (.pwmSet c) s = .next ((a.setPwm u { a.pwmUnit u with next := .set (pwmSetOf c) }).completeOk r
          [word u]).advanced) ∧
        (¬going → ∃ n, ((a.pwmUnit n).owner = none ∨ (a.pwmUnit n).owner = some c.tenant) ∧ (u ≠ 0xFF → n = u) ∧
          (u = 0xFF → lowest 16 (fun n => (a.pwmUnit n).owner.isNone) = some n) ∧
          exec (.pwmSet c) s = .next ((a.applyPwm n {
            owner := some c.tenant, cur := pwmSetOf c, running := (pwmSetOf c).enable
            trunc := (a.pwmUnit n).trunc }).completeOk r [word n]).advanced))) ∧
    (s.accepts c 0x0E04 .platform 0 0 calendarSetBody = true →
      let k (t : Option CalTime) : State := (s.turn c 0x0E04).modCal (fun k => { k with
        waiting := k.waiting ++ [(c.ref 0x0E04, t)] })
      (c.u8 0x08 = 1 → exec (.calendarSet c) s = .next (k none).advanced) ∧
      (c.u8 0x08 = 0 → exec (.calendarSet c) s = .next (k (some
        ⟨c.u16 0x0A, c.u8 0x09, c.u8 0x0C, c.u8 0x0D, c.u8 0x0E, c.u8 0x0F, c.u16 0x10⟩)).advanced)) ∧
    (s.accepts c 0x0E05 .platform 0 0 calendarAlarmSetBody = true →
      let k (x : Option Alarm) : State := ((s.turn c 0x0E05).modCal (fun k => { k with alarm := x })).completeOk
        (c.ref 0x0E05) []
      (c.u8 0x08 = 1 → exec (.calendarAlarmSet c) s = .next (k none).advanced) ∧
      (c.u8 0x08 = 0 → exec (.calendarAlarmSet c) s = .next (k (some ⟨bitOf (c.u8 0x09) 0,
        if bitOf (c.u8 0x09) 0 then ⟨2000, 1, 1, c.u8 0x0E, c.u8 0x0F, c.u8 0x10, 0⟩
        else ⟨c.u16 0x0A, c.u8 0x0C, c.u8 0x0D, c.u8 0x0E, c.u8 0x0F, c.u8 0x10, 0⟩⟩)).advanced))

/-- Groups 0x0F, 0x10 and 0x11 (R466, R467, R474, R476, R481, R490, R493, R495, R497, R514, R518, R523): what each accepted DMA,
blit, pin, lock and debug command does; a submission and a serial transfer answer later. Where the spec leaves a point open
it holds of the model's choice there (assumptions 5, 46 and 49). -/
def Obligations.DmaPinAndDebugCommandsComplete : Prop :=
  ∀ (c : Cmd) (s : State),
    (s.accepts c 0x0F01 .anyone 0 0 dmaChannelSetBody = true →
      let a := s.turn c 0x0F01
      let ch := c.u8 0x09
      (c.u8 0x08 = 1 → exec (.dmaChannelSet c) s = .next ((a.modDma ch (fun _ => {})).completeOk (c.ref 0x0F01) [word ch]).advanced) ∧
      (c.u8 0x08 = 0 → ∃ n, ((a.dmaCh n).owner = none ∨ (a.dmaCh n).owner = some c.tenant) ∧ (ch ≠ 0xFF → n = ch) ∧
        (ch = 0xFF → lowest 48 (fun n => (a.dmaCh n).owner.isNone) = some n) ∧
        exec (.dmaChannelSet c) s = .next ((a.modDma n (fun _ => {
          owner := some c.tenant, log2 := c.u8 0x0A, ring := c.u64 0x10, cons := c.u64 0x18 })).completeOk (c.ref 0x0F01)
            [word n]).advanced)) ∧
    (s.accepts c 0x0F02 .anyone 0 0 dmaSubmitBody = true →
      let a := s.turn c 0x0F02
      let n := 32 * c.u32 0x0C
      ∃ bs, readFor a c.tenant (c.u64 0x10) n 0x10 = .ok bs ∧
        exec (.dmaSubmit c) s = .next (((a.noteAssetRead c.tenant (c.u64 0x10) n).openBucket c.tenant).modDma (c.u8 0x08) (fun x => { x with
          jobs := x.jobs ++ [⟨c.ref 0x0F02, (chunks 32 bs).map readDescriptor, 0, 0, 0xFFFFFFFF, 0, 0, 0xFFFFFFFF, none⟩]
          state := if x.jobs.isEmpty then (if a.enginesRun then .running else .paused) else x.state })).advanced) ∧
    (s.accepts c 0x0F03 .anyone 0 0 blitSubmitBody = true →
      let a := s.turn c 0x0F03
      let job := blitOf c (c.ref 0x0F03)
      (job.w = 0 ∨ job.h = 0 → exec (.blitSubmit c) s = .next (a.completeOk (c.ref 0x0F03) [0, 0, 0]).advanced) ∧
      (job.w ≠ 0 → job.h ≠ 0 → exec (.blitSubmit c) s = .next
        ({ a with dma := { a.dma with blits := a.dma.blits ++ [job] } } : State).advanced)) ∧
    (s.accepts c 0x0F04 .platform 0 0 dmaShareSetBody = true →
      let a := s.turn c 0x0F04
      let t := c.u16 0x08
      exec (.dmaShareSet c) s = .next ((a.setBucket t { (a.bucket t).fill a.now with
        rate := c.u32 0x0C, burst := c.u16 0x0A }).completeOk (c.ref 0x0F04) []).advanced) ∧
    (s.accepts c 0x1001 .platform 0 0 pinOwnerSetBody = true →
      ∃ o, pinOwnerOf (c.u16 0x0C) = some o ∧
        exec (.pinOwnerSet c) s = .next ((((List.range (c.u16 0x0A)).map (fun i => c.u16 0x08 + i)).foldl (fun s p =>
          (s.modPin p (defaultPin o)).clearSource (320 + p)) (s.turn c 0x1001)).completeOk (c.ref 0x1001) []).advanced) ∧
    (s.accepts c 0x1002 .anyone 0 0 pinConfigSetBody = true →
      let a := s.turn c 0x1002
      let k := c.u8 0x09
      (c.u8 0x08 = 0 → exec (.pinConfigSet c) s = .next ((((List.range (c.u8 0x0C)).map (fun i => c.u16 0x0A + i)).foldl
        (fun s p => s.configPin c p) a).completeOk (c.ref 0x1002) []).advanced) ∧
      (c.u8 0x08 = 1 → exec (.pinConfigSet c) s = .next (((blockPins k).foldl State.settlePin (a.modBlock k (fun _ => {
        enabled := true, rate := c.u32 0x14, mode := c.u8 0x18 }))).completeOk (c.ref 0x1002) []).advanced) ∧
      (c.u8 0x08 = 2 → exec (.pinConfigSet c) s = .next (((blockPins k).foldl State.settlePin
        (a.modBlock k (fun _ => {}))).completeOk (c.ref 0x1002) []).advanced)) ∧
    (s.accepts c 0x1003 .anyone 0 0 pinWriteBody = true →
      let a := s.turn c 0x1003
      let r := c.ref 0x1003
      let half := c.u8 0x0B = 1
      let bank := c.u8 0x0A
      let v := word (c.u32 0x0C)
      (c.u8 0x08 = 0 →
        let w := filterMask bank half v (a.mayWritePin c.tenant)
        exec (.pinWrite c) s = .next ((a.maskedWrite bank (if c.u8 0x09 = 0 then .out else .oe) half w).completeOk r
          [w >>> 16]).advanced) ∧
      (c.u8 0x08 = 1 → exec (.pinWrite c) s = .next (a.modBlock (c.u8 0x09) (fun b => { b with
        queue := b.queue ++ [⟨r, c.u8 0x0A, c.bytes 0x10 (c.u8 0x0B), c.u8 0x0C⟩] })).advanced) ∧
      (c.u8 0x08 = 2 →
        let w := filterMask bank half v (fun p => a.setsPin c.tenant p)
        let ps := ((List.range 16).filter (fun i => w.getLsbD (16 + i))).map
          (fun i => 32 * bank + (if half then 16 else 0) + i)
        exec (.pinWrite c) s = .next ((ps.foldl (fun s p => s.ackPin p) a).completeOk r []).advanced)) ∧
    (s.accepts c 0x1004 .anyone 0 0 pinLockBody = true →
      let a := s.turn c 0x1004
      let b := a.dropArm c.tenant
      (c.u8 0x08 = 0 → (pinLockChecks c a).isOk = true →
        exec (.pinLock c) s = .next (State.completeOk (c.ref 0x1004) [word (b.fresh.1 % 0xFFFF + 1)] { b.fresh.2 with
          pins := { b.fresh.2.pins with
            arms := ⟨c.tenant, c.u16 0x0A, b.fresh.1 % 0xFFFF + 1, a.now⟩ :: b.fresh.2.pins.arms } }).advanced) ∧
      (c.u8 0x08 = 1 → (pinLockChecks c a).isOk = true →
        exec (.pinLock c) s = .next ((((lockPins (c.u16 0x0A)).foldl (fun s p =>
          s.modPin p (fun x => { x with locked := true })) b)).completeOk (c.ref 0x1004) []).advanced) ∧
      (∀ e, pinLockChecks c a = .error e →
        exec (.pinLock c) s = .next (b.complete (c.ref 0x1004) e.status e.detail e.words).advanced)) ∧
    (s.accepts c 0x1101 .platform 0 0 debugGrantBody = true →
      let a := s.turn c 0x1101
      let m := c.u8 0x09
      let t := c.u16 0x0A
      let old := IMap.get a.boot.grants 0 t
      let put (g : Nat) : State := a.modBoot (fun b => { b with grants := IMap.put b.grants t g })
      (c.u8 0x08 = 0 → exec (.debugGrant c) s = .next ((put (old ||| m)).completeOk (c.ref 0x1101) [word (old ||| m)]).advanced) ∧
      (c.u8 0x08 = 1 → exec (.debugGrant c) s = .next (((put (old &&& (0xFF - m))).closeDebugOf t m).completeOk
        (c.ref 0x1101) [word (old &&& (0xFF - m))]).advanced)) ∧
    (s.accepts c 0x1102 .platform 0 15 debugUnlockBody = true →
      let a := s.turn c 0x1102
      let k := c.bytes 0x40 192
      let put (f : Boot → Boot) : State := (a.modBoot f).completeOk (c.ref 0x1102) []
      (c.u8 0x08 = 1 → exec (.debugUnlock c) s = .next (put (fun b => { b with
        deviceSession := false, observed := [], cpHalted := false, extest := false })).advanced) ∧
      (c.u8 0x08 = 0 → fieldU k 6 1 = 1 → exec (.debugUnlock c) s = .next (put (fun b => { b with
        deviceSession := true })).advanced) ∧
      (c.u8 0x08 = 0 → fieldU k 6 1 = 2 → exec (.debugUnlock c) s = .next (put (fun b => { b with
        lifecycle := .returned, resetDue := some (a.now + 10240000) })).advanced) ∧
      (c.u8 0x08 = 0 → fieldU k 6 1 = 3 → exec (.debugUnlock c) s = .next (put (fun b => { b with
        lifecycle := .secured, ownerHash := slice k 0x20 48, resetDue := some (a.now + 10240000) })).advanced)) ∧
    (s.accepts c 0x1104 .anyone 0 0 lifecycleQueryBody = true →
      let a := s.turn c 0x1104
      let b := a.boot
      exec (.lifecycleQuery c) s = .next (a.completeOk (c.ref 0x1104) [word b.lifecycle.code,
        word (bitN (IMap.get b.grants 0 c.tenant ≠ 0) + 2 * bitN b.deviceSession), dieSerial, a.fwVersion, word b.copy,
        word b.keyUsed, word (bitN a.power.servicePinLow + 2 * bitN b.lpddrFailed)]).advanced)

/-- R61 to R65, R425. The doorbell rows: in Keep and Listen the write is latched for the wake; otherwise a tenant that is there
takes CMD_TAIL and CPL_HEAD within their bounds and stops outside them, and the enable, disable and reset bits move the
mailbox between its states. Where the part itself changed CPL_HEAD or the enable bit in the same cycle, the write is the one
that is lost (R10). Where the spec leaves a point open it holds of the model's choice there (assumption 51). -/
def Obligations.DoorbellRowsComplete : Prop :=
  ∀ (s : State) (dt t : Nat) (v : Word) (en : Bool),
    let a := s.tick dt
    (a.asleep = true →
      exec (.cmdTailWrite dt t v) s = .next (a.latchWrite (dbOffset t 0x00) v) ∧
      exec (.cplHeadWrite dt t v) s = .next (a.latchWrite (dbOffset t 0x08) v) ∧
      exec (.mboxEnable dt t) s = .next (a.latchWrite (dbOffset t 0x24) 1) ∧
      exec (.mboxDisable dt t) s = .next (a.latchWrite (dbOffset t 0x24) 0) ∧
      exec (.mboxReset dt t en) s = .next (a.latchWrite (dbOffset t 0x24) (if en then 3 else 2))) ∧
    (a.asleep = false →
      (a.doorbell? t = none →
        exec (.cmdTailWrite dt t v) s = .next a ∧ exec (.cplHeadWrite dt t v) s = .next a ∧
        exec (.mboxEnable dt t) s = .next a ∧ exec (.mboxDisable dt t) s = .next a ∧ exec (.mboxReset dt t en) s = .next a) ∧
      ∀ m, a.doorbell? t = some m →
        let fits := (v - m.cmdHead).toNat ≤ 2 ^ bits m.ringCfg.toNat 3 0
        let ahead := (v - m.cplHead).toNat ≤ (m.cplTail - m.cplHead).toNat
        let tail := a.modMbox t (fun m => { m with cmdTail := v })
        let head := a.modMbox t (fun m => { m with cplHead := v })
        let drain := a.modMbox t (fun m => { m with state := .draining })
        (m.state = .running ∨ m.state = .stopped → fits → exec (.cmdTailWrite dt t v) s = .next tail) ∧
        (m.state = .running → ¬fits → exec (.cmdTailWrite dt t v) s = .next (a.stopMbox t eRange false)) ∧
        (m.state = .stopped → ¬fits → exec (.cmdTailWrite dt t v) s = .next a) ∧
        (m.state = .disabled ∨ m.state = .draining → exec (.cmdTailWrite dt t v) s = .next a) ∧
        (a.hwHas (.cplHead t) = true → exec (.cplHeadWrite dt t v) s = .next a) ∧
        (a.hwHas (.cplHead t) = false →
          (m.state = .disabled ∨ ahead → exec (.cplHeadWrite dt t v) s = .next head) ∧
          (m.state = .running → ¬ahead → exec (.cplHeadWrite dt t v) s = .next (a.stopMbox t eRange true)) ∧
          (m.state = .stopped ∨ m.state = .draining → ¬ahead →
            exec (.cplHeadWrite dt t v) s = .next (a.ringLost t eRange))) ∧
        (m.state ≠ .disabled ∨ a.hwHas (.mboxEnable t) = true → exec (.mboxEnable dt t) s = .next a) ∧
        (m.state = .disabled → a.hwHas (.mboxEnable t) = false →
          (a.enableFault t m = none → exec (.mboxEnable dt t) s = .next (a.modMbox t (fun m => { m with
            cmdHead := 0, cplTail := 0, eventLost := 0, phase := true, state := .running, usable := true }))) ∧
          (∀ e, a.enableFault t m = some e → exec (.mboxEnable dt t) s = .next (a.stopMbox t e true))) ∧
        (m.state = .running ∨ m.state = .stopped → exec (.mboxDisable dt t) s = .next drain) ∧
        (m.state = .disabled ∨ m.state = .draining → exec (.mboxDisable dt t) s = .next a) ∧
        (m.state = .stopped → exec (.mboxReset dt t en) s = .next drain) ∧
        (m.state ≠ .stopped → exec (.mboxReset dt t en) s = exec (if en then .mboxEnable dt t else .mboxDisable dt t) s))

/-- R64 to R67, R72, R75 to R78. The device page and the rows that the mailbox engine signals: a fetch round serves tenant 1
first, a drained mailbox is disabled, the age limit raises the vector, and a failed record write stops the mailbox. Where the
spec leaves a point open it holds of the model's choice there (assumption 9). -/
def Obligations.DevicePageAndMailboxEngineRowsComplete : Prop :=
  ∀ (s : State) (dt t : Nat) (v : Word),
    let a := s.tick dt
    exec (.commandFetch dt) s = .next (((1 :: (IMap.keys a.turned.tenants).filter (fun t => t ≠ 1)).foldl
      (fun s t => s.fetchTenant t 8) a.turned).turned) ∧
    (∀ x, a.tenant? t = some x →
      (x.mbox.state = .draining → a.inFlight t = 0 →
        exec (.mailboxDrainEnd dt t) s = .next (((a.hwMark (.cplHead t)).hwMark (.mboxEnable t)).modMbox t (fun m => { m with
          state := .disabled, cmdTail := 0, cmdHead := 0, cplHead := 0, cplTail := 0, held := [], events := []
          eventLost := word (satInc 0xFFFFFFFF m.eventLost.toNat m.events.length)
          dropped := satInc 0xFFFFFFFF m.dropped m.events.length }))) ∧
      (1 ≤ x.mbox.sinceIrq → (max 1 (bits x.mbox.irqMod.toNat 7 0) ≤ x.mbox.sinceIrq ∨
          bits x.mbox.irqMod.toNat 31 16 * 1024 ≤ a.since x.mbox.firstAt) →
        exec (.irqAgeLimit dt t) s = .next ((a.modMbox t (fun m => { m with sinceIrq := 0 })).raiseVector t)) ∧
      (x.mbox.state = .running →
        exec (.recordWriteErrorCompletion dt t) s = .next ((a.countFault t).stopMbox t eFault true)) ∧
      (x.mbox.state = .stopped ∨ x.mbox.state = .draining →
        exec (.recordWriteErrorCompletion dt t) s = .next ((a.countFault t).ringLost t eFault)) ∧
      (x.mbox.state = .disabled → exec (.recordWriteErrorCompletion dt t) s = .next (a.countFault t))) ∧
    (a.boot.fwReady = true →
      exec (.devEventClear dt v) s = .next { a with dev := { a.dev with
        event := a.dev.event &&& ~~~(a.clearBits 7 HwField.devEvent v) } } ∧
      exec (.devEventEnWrite dt v) s = .next (((List.range 7).filter (fun b =>
        v.getLsbD b && !a.dev.eventEn.getLsbD b && a.dev.event.getLsbD b)).foldl (fun s b => s.raiseVector (1024 + b))
          { a with dev := { a.dev with eventEn := v &&& 0x7F } }) ∧
      (v.getLsbD 0 = true → exec (.pasidLock dt v) s = .next { a with dev := { a.dev with pasidLock := true } }) ∧
      (v.getLsbD 0 = false → exec (.pasidLock dt v) s = .next a)) ∧
    (a.boot.fwReady = false →
      exec (.devEventClear dt v) s = .next a ∧ exec (.devEventEnWrite dt v) s = .next a ∧ exec (.pasidLock dt v) s = .next a) ∧
    (a.legend.built = true → exec (.meridianLoRead dt) s = .next { a with
      dev := { a.dev with readData := dword (a.now.truncate 32), meridianHi := (a.now >>> 32).truncate 32 } }) ∧
    (a.legend.built = false → exec (.meridianLoRead dt) s = .next { a with dev := { a.dev with readData := 0 } })

/-- R10, R11, R461 to R464. The interrupt controller: an edge is counted up to 255 and then overflows, a level is followed, an
edge met by a stopped clock is caught, and a register write changes the sources of its word, and no others. Where the spec
leaves a point open it holds of the model's choice there (assumption 6). -/
def Obligations.InterruptControllerRowsComplete : Prop :=
  ∀ (s : State) (dt i k g : Nat) (v : Word) (edges : List Nat),
    let a := s.tick dt
    let x := a.src i
    (512 ≤ i → ∀ b, exec (.interruptSourceEvent dt i b) s = .next a) ∧
    (i < 512 → a.isLevel i = true → ∀ b,
      exec (.interruptSourceEvent dt i b) s = .next (a.modSrc i (fun x => { x with asserted := b }))) ∧
    (i < 512 → a.isLevel i = false →
      exec (.interruptSourceEvent dt i false) s = .next a ∧
      (a.intcStopped = true →
        exec (.interruptSourceEvent dt i true) s = .next (a.modSrc i (fun x => { x with caught := true }))) ∧
      (a.intcStopped = false → x.count < 255 →
        exec (.interruptSourceEvent dt i true) s = .next ((a.modSrc i (fun x => { x with
          count := x.count + 1 })).hwMark (.srcEdge i))) ∧
      (a.intcStopped = false → 255 ≤ x.count →
        exec (.interruptSourceEvent dt i true) s = .next (((a.modSrc i (fun x => { x with
          overflow := true })).hwMark (.srcOverflow i)).hwMark (.srcEdge i)))) ∧
    (a.time.running = true → ∃ t, exec (.holdoffExpiry dt g) s = .next t ∧ t.intc.holding = a.intc.holding.filter (· != g) ∧
      { t with intc := { t.intc with holding := a.intc.holding } } = a) ∧
    (a.time.running = false → exec (.holdoffExpiry dt g) s = .next a) ∧
    ∀ (row : Instr) (f : Nat → IntSrc → IntSrc),
      (row, f) ∈ ([
        (.intcPendingSet dt k v, fun n y => if a.isLevel n then y else { y with count := min 255 (y.count + 1) }),
        (.intcPendingClr dt k v edges, fun n y =>
          if a.isLevel n then y else { y with
            count := if edges.contains n || a.hwHas (.srcEdge n) then 1 else 0 }),
        (.intcEnableSet dt k v, fun _ y => { y with enabled := true }),
        (.intcEnableClr dt k v, fun _ y => { y with enabled := false })] : List (Instr × (Nat → IntSrc → IntSrc))) →
      ∃ t, exec row s = .next t ∧
        (∀ n, t.src n = if n / 32 = k ∧ v.getLsbD (n % 32) = true then f n (a.src n) else a.src n) ∧
        { t with intc := a.intc } = a ∧ { t.intc with src := a.intc.src } = a.intc

/-- R445 to R448, R450, R451 to R453, R70. The timer rows: an evaluation fires the due channels in ascending order; a sample is
filtered, counted and captured; a PWM unit starts, counts and wraps; and held records are written, then the captures that the
freed queue takes. All but the last stop with Meridian. Where the spec leaves a point open it holds of the model's choice
there (assumption 46). -/
def Obligations.TimerRowsComplete : Prop :=
  ∀ (s : State) (dt n t : Nat) (lv : Bool),
    let a := s.tick dt
    let x := a.captureCh n
    let u := a.pwmUnit n
    (a.time.running = true → a.now.toNat % 8 = 0 →
      exec (.compareEvaluation dt) s = .next ((List.range 56).foldl (fun s n =>
        if (s.compareCh n).owner.isSome && (s.compareCh n).armed && decide (0 ≤ meridianDiff s.now (s.compareCh n).value)
        then s.fireCompare n else s) a)) ∧
    (a.time.running = false ∨ a.now.toNat % 8 ≠ 0 → exec (.compareEvaluation dt) s = .next a) ∧
    (a.time.running = true → x.owner.isSome = true →
      let put (y : CaptureCh) : State :=
        ((a.modPin x.pin (fun p => { p with ball := lv })).setCapture n y).drainCapture n 16
      (lv = x.level → exec (.captureFilterSample dt n lv) s = .next (put { x with runLen := 0 })) ∧
      (lv ≠ x.level →
        let since := if x.runLen = 0 then a.now else x.runAt
        let y : CaptureCh := { x with level := lv, runLen := 0, runAt := since }
        (x.runLen < x.filter → exec (.captureFilterSample dt n lv) s = .next (put { x with
          runLen := x.runLen + 1, runAt := since })) ∧
        (x.filter ≤ x.runLen →
          (bitOf x.edge (if lv then 0 else 1) = false → exec (.captureFilterSample dt n lv) s = .next (put y)) ∧
          (bitOf x.edge (if lv then 0 else 1) = true → (x.edges + 1) % x.prescale ≠ 0 →
            exec (.captureFilterSample dt n lv) s = .next (put { y with edges := x.edges + 1 })) ∧
          (bitOf x.edge (if lv then 0 else 1) = true → (x.edges + 1) % x.prescale = 0 → x.queue.length < 16 →
            exec (.captureFilterSample dt n lv) s = .next (put { y with
              edges := x.edges + 1, queue := x.queue ++ [(if lv then 1 else 2, since)] })) ∧
          (bitOf x.edge (if lv then 0 else 1) = true → (x.edges + 1) % x.prescale = 0 → 16 ≤ x.queue.length →
            exec (.captureFilterSample dt n lv) s = .next (put { y with
              edges := x.edges + 1, dropped := satInc 0xFFFF x.dropped 1, lost := x.lost + 1 }))))) ∧
    (a.time.running = false ∨ x.owner = none → exec (.captureFilterSample dt n lv) s = .next a) ∧
    (a.time.running = false ∨ u.running = false → exec (.pwmTick dt n) s = .next a) ∧
    (a.time.running = true → u.running = true →
      (u.started = false → (∀ at_, u.cur.start = some at_ → 0 ≤ meridianDiff a.now at_) →
        exec (.pwmTick dt n) s = .next ((a.setPwm n { u with started := true, count := 0 }).drivePwm n)) ∧
      (u.started = false → ∀ at_, u.cur.start = some at_ → meridianDiff a.now at_ < 0 →
        exec (.pwmTick dt n) s = .next a) ∧
      (u.started = true → u.next = .none → u.count + 1 < u.cur.period →
        exec (.pwmTick dt n) s = .next (a.applyPwm n { u with count := u.count + 1 })) ∧
      (u.started = true → u.next = .none → u.cur.period ≤ u.count + 1 →
        exec (.pwmTick dt n) s = .next (a.applyPwm n { u with count := 0 })) ∧
      (u.started = true → ∀ p, u.next = .set p → u.cur.period ≤ u.count + 1 →
        exec (.pwmTick dt n) s = .next (a.applyPwm n { u with
          cur := p, next := .none, count := 0, running := p.enable, started := p.enable })) ∧
      (u.started = true → ∀ i, u.next = .free i → i = true ∨ u.cur.period ≤ u.count + 1 →
        exec (.pwmTick dt n) s = .next (a.applyPwm n u.freed)) ∧
      (u.started = true → u.next = .free false ∨ (∃ p, u.next = .set p ∧ p.immediate = false) →
        u.count + 1 < u.cur.period → exec (.pwmTick dt n) s = .next (a.applyPwm n { u with count := u.count + 1 })) ∧
      (u.started = true → ∀ p, u.next = .set p → p.immediate = true → u.count + 1 < u.cur.period →
        (p.period ≤ u.count + 1 → exec (.pwmTick dt n) s = .next ((a.applyPwm n { u with
          cur := p, next := .none, count := 0, trunc := true, running := p.enable, started := p.enable }).hwMark
            (.pwmTrunc n))) ∧
        (u.count + 1 < p.period → exec (.pwmTick dt n) s = .next (a.applyPwm n { u with
          cur := { p with shift := u.cur.shift }, count := u.count + 1,
          next := if p.shift = u.cur.shift then .none else .set { p with immediate := false },
          running := p.enable, started := p.enable })))) ∧
    (a.cpRuns = true → exec (.heldRecordWrite dt t) s = .next (State.turned (
      ((List.range 32).filter (fun n => ((a.writeHeld t (a.heldCount t)).captureCh n).owner = some t)).foldl
        (fun s n => s.drainCapture n 16) (a.writeHeld t (a.heldCount t))))) ∧
    (a.cpRuns = false → exec (.heldRecordWrite dt t) s = .next a.turned)

/-- R11, R488, R492 to R494, R496. The pin rows: a masked write changes the unlocked pins of its half that its mask names and no
others; the enables, the coalesced event and the handover; and what a serial transfer and a UART byte do. -/
def Obligations.PinRowsComplete : Prop :=
  ∀ (s : State) (dt bank p k u : Nat) (high : Bool) (v : Word) (o : SerialOutcome) (b : Byte),
    let a := s.tick dt
    let x := a.pin p
    (∀ reg, ∃ t, exec (.gpioMaskedWrite dt bank reg high v) s = .next t ∧ { t with pins := a.pins } = a ∧
      { t.pins with pin := a.pins.pin } = a.pins ∧
      let first := 32 * bank + (if high then 16 else 0)
      (∀ i, i < 16 → v.getLsbD (16 + i) = true → (a.pin (first + i)).locked = false → t.pin (first + i) =
        (match reg with
          | .out => { a.pin (first + i) with out := v.getLsbD i }
          | .oe => { a.pin (first + i) with oe := v.getLsbD i })) ∧
      (∀ i, i < 16 → v.getLsbD (16 + i) = false ∨ (a.pin (first + i)).locked = true → t.pin (first + i) = a.pin (first + i)) ∧
      (∀ q, q < first ∨ first + 16 ≤ q → t.pin q = a.pin q)) ∧
    (∀ en row, (en, row) ∈ [(IMap.get a.pins.intEn 0 bank ||| v.toNat, Instr.gpioIntEnSet dt bank v),
        (IMap.get a.pins.intEn 0 bank &&& (~~~v).toNat, .gpioIntEnClr dt bank v)] →
      exec row s = .next ((List.range 32).foldl (fun s i => s.followLevel (32 * bank + i))
        { a with pins := { a.pins with intEn := IMap.put a.pins.intEn bank en } })) ∧
    (x.coalesce = true → 0 < x.count → exec (.pinEventCoalesceEnd dt p) s = .next
      ((a.pinEventOut p x.lastKind x.count x.firstAt).modPin p (fun x => { x with coalesce := false, count := 0 }))) ∧
    (x.coalesce = false ∨ x.count = 0 → exec (.pinEventCoalesceEnd dt p) s = .next
      (a.modPin p (fun x => { x with coalesce := false, count := 0 }))) ∧
    (∀ f, x.handover = some f → exec (.pinHandoverEnd dt p) s = .next
      (a.modPin p (fun x => { x with holder := f, handover := none }))) ∧
    (∀ f rest, (a.block k).queue = f :: rest →
      let b := a.modBlock k (fun b => { b with queue := rest })
      exec (.serialTransferDone dt k o) s = .next (State.advanced (match o with
        | .done bs => b.completeOk f.ref (serialWords (bs.take f.read) f.write.length)
        | .nackAddress => b.complete f.ref 0x1003 0x0A (serialWords [] 0)
        | .nackData n => b.complete f.ref 0x1003 0x10 (serialWords [] n)
        | .arbitrationLost n => b.complete f.ref 0x1003 noField (serialWords [] n)
        | .stretched n => b.complete f.ref 0x1003 noField (serialWords [] n)))) ∧
    (a.receives (23 + 4 * u) = false → exec (.uartByteReceive dt u b) s = .next a) ∧
    (u < 2 → (a.block (6 + u)).enabled = true → a.receives (23 + 4 * u) = true →
      let kept := a.modBlock (6 + u) (fun k => { k with rx := k.rx ++ [b] })
      (256 ≤ (a.block (6 + u)).rx.length → exec (.uartByteReceive dt u b) s = .next
        (a.modBlock (6 + u) (fun k => { k with rxDropped := true }))) ∧
      ((a.block (6 + u)).rx.length < 27 → exec (.uartByteReceive dt u b) s = .next kept) ∧
      (27 ≤ (a.block (6 + u)).rx.length → (a.block (6 + u)).rx.length < 256 →
        exec (.uartByteReceive dt u b) s = .next (kept.uartSend (6 + u)))) ∧
    (u < 2 → (a.block (6 + u)).rx ≠ [] → exec (.uartLineIdle dt u) s = .next (a.uartSend (6 + u))) ∧
    ((a.block (6 + u)).rx = [] → exec (.uartLineIdle dt u) s = .next a)

/-- R468 to R475, R479, R481. The DMA and blit rows: a request moves once its tenant's bucket holds 64 bytes; a descriptor that
has moved its bytes writes its record or waits for ring space; and the blit engine runs one blit at a time. Where the spec
leaves a point open it holds of the model's choice there (assumption 47). -/
def Obligations.DmaRowsComplete : Prop :=
  ∀ (s : State) (dt n : Nat),
    let a := s.tick dt
    let x := a.dmaCh n
    (∀ j js d ds, x.jobs = j :: js → j.descs = d :: ds → a.enginesRun = true → x.state ≠ .ring →
      (j.done < d.length → a.takeTokens n j.ref.tenant (d.nextRun j.done) = none →
        exec (.dmaTokenGrant dt n) s = .next (a.modDma n (fun x => { x with state := .tokens })).advanced) ∧
      (j.done < d.length → ∀ b u bs, a.takeTokens n j.ref.tenant (d.nextRun j.done) = some b →
        (b.modDma n (fun x => { x with state := .running })).dmaMove j.ref.tenant d j.done (d.nextRun j.done) = (u, bs, none) →
        exec (.dmaTokenGrant dt n) s = .next (u.setJob n { j with
          done := j.done + bs.length, total := j.total + bs.length
          crc := word (crcBytes polyCrc32c j.crc.toNat bs) }).advanced) ∧
      (j.done < d.length → ∀ b u bs e place, a.takeTokens n j.ref.tenant (d.nextRun j.done) = some b →
        (b.modDma n (fun x => { x with state := .running })).dmaMove j.ref.tenant d j.done (d.nextRun j.done) =
          (u, bs, some (e, place)) →
        exec (.dmaTokenGrant dt n) s = .next (u.dmaStop n { j with
          done := j.done + bs.length, total := j.total + bs.length
          crc := word (crcBytes polyCrc32c j.crc.toNat bs) } d e place).advanced) ∧
      (let t := j.ref.tenant
       let b := (a.bucket t).credit a.now
       let told := a.setBucket t b
       (d.length ≤ j.done → exec (.dmaDescriptorComplete dt n) s = .next ((told.dmaFinish n j d).closeBucket n t).advanced) ∧
       (j.done < d.length → b.rate = 0 ∨ (d.length - j.done) * 1024 ≤ b.tokens → exec (.dmaDescriptorComplete dt n) s =
         .next ((told.dmaRest n (d.length / 64 + 3)).closeBucket n t).advanced) ∧
       (b.rate ≠ 0 → b.tokens < (d.length - j.done) * 1024 → exec (.dmaDescriptorComplete dt n) s =
         .next (a.modDma n (fun x => { x with state := .tokens })).advanced))) ∧
    (∀ j js d ds, x.jobs = j :: js → j.descs = d :: ds → a.enginesRun = true → x.state = .ring →
      (j.stopped = none → exec (.dmaRingRecheck dt n) s = .next (a.dmaFinish n j d).advanced) ∧
      (∀ place, j.stopped = some place → exec (.dmaRingRecheck dt n) s = .next (a.dmaFaultRecord n j d place).advanced)) ∧
    (∀ j d place, let b := a.noteCons n j.ref.tenant
      b.dmaPut n j.ref.tenant (dmaRecord d.tag eFault j.index j.done (d.crcOut j.crc).toNat b.now j.ref.index.toNat) =
        .noRoom → a.dmaFaultRecord n j d place =
          (b.setJob n { j with stopped := some place }).modDma n (fun x => { x with state := .ring })) ∧
    (∀ j d, let b := a.noteCons n j.ref.tenant
      b.dmaPut n j.ref.tenant (dmaRecord d.tag eOk j.index d.length (d.crcOut j.crc).toNat b.now j.ref.index.toNat) =
        .noRoom → bitOf d.flags 2 = true → a.dmaFinish n j d = b.modDma n (fun x => { x with state := .ring })) ∧
    (∀ j d u, let b := a.noteCons n j.ref.tenant
      b.dmaPut n j.ref.tenant (dmaRecord d.tag eOk j.index d.length (d.crcOut j.crc).toNat b.now j.ref.index.toNat) =
        .written u → j.descs = [d] → bitOf d.flags 3 = false → a.dmaFinish n j d = (u.completeOk j.ref
          [word (j.index + 1), word (j.total % 2 ^ 32), word (j.total / 2 ^ 32), d.crcOut j.crc]).dmaNextJob n) ∧
    (∀ j js, a.dma.blitRun = none → a.enginesRun = true → a.dma.blits = j :: js →
      exec (.blitStart dt) s = .next { a with dma := { a.dma with blitRun := some j, blits := js } }) ∧
    (a.dma.blitRun.isSome = true ∨ a.enginesRun = false ∨ a.dma.blits = [] → exec (.blitStart dt) s = .next a) ∧
    ∀ j u px rows f, a.dma.blitRun = some j → a.enginesRun = true → a.blitRows j.ref.tenant j j.h 0 = (u, px, rows, f) →
      let w := { u with dma := { u.dma with blitRun := none } }
      let ws := [word px, word rows, if j.backwards then 1 else 0]
      (f = none → exec (.blitDone dt) s = .next (w.completeOk j.ref ws).advanced) ∧
      (∀ e off, f = some (e, off) →
        exec (.blitDone dt) s = .next ((w.atlasFault j.ref.tenant e 0x030D 0).complete j.ref eFault off ws).advanced)

/-- R16, R96, R203, R204, R207, R263, R301, R302. The rows of the beam and the composer: the beam enters the line after the last
or repeats a porch line; a boundary that is due applies its changes in their order and begins the frame; a line starts once
nothing holds it; and a complete line goes into the frame store of a head that is still served. Where the spec leaves a point
open it holds of the model's choice there (assumptions 5 and 27). -/
def Obligations.BeamAndComposerRowsComplete : Prop :=
  ∀ (s : State) (dt h : Nat) (late : List PixelRun),
    let a := s.tick dt
    let x := a.head h
    (∀ t, x.timing = some t → x.stopped = false → x.state = .composing ∨ x.state = .still →
      let atPorch := x.line + 1 = t.vA + t.vF
      let y := if x.line + 1 < t.vTotal then x.line + 1 else 0
      (atPorch → 0 < x.porch → a.porchStops h t = false → exec (.beamLineEnter dt h late) s =
        .next (a.modHead h (fun x => { x with porch := x.porch - 1, lineAt := a.now })).advanced) ∧
      (¬atPorch ∨ x.porch = 0 ∨ a.porchStops h t = true →
        (t.vA ≤ x.line → exec (.beamLineEnter dt h late) s = .next ((a.modHead h (fun x => { x with
          line := y, lineAt := a.now, porch := if atPorch then 0 else x.porch
          lowered := x.lowered && x.still })).enterLine h y t x.dueLine late).advanced) ∧
        (x.line < t.vA →
          let b := a.evaluateRegions h x.line
          exec (.beamLineEnter dt h late) s = .next ((b.modHead h (fun x => { x with
            line := y, lineAt := b.now, porch := if atPorch then 0 else x.porch
            lowered := x.lowered && x.still })).enterLine h y t x.dueLine late).advanced))) ∧
    (x.timing = none ∨ x.stopped = true → exec (.beamLineEnter dt h late) s = .next a.advanced) ∧
    (x.due = [] ∨ x.comp.running = true → exec (.composeBoundary dt h) s = .next a.advanced) ∧
    (∀ f at_ rest, x.due = (f, at_) :: rest → x.boundaries = true → x.comp.running = false → x.comp.busy = false →
      a.wakeOpen h 0 = false → x.state = .composing ∨ x.state = .still → a.power.mode ≠ .tell →
        let b := (a.modHead h (fun x => { x with due := rest, nominal := at_, wakeAt := none })).modTabs h
          (fun k => { k with started := [] })
        let r := (b.donate h).takeOver h
        let q1 := r.1.destroyAtBoundary h
        let q2 := q1.1.destroysAt h
        let q3 := q2.1.releasesAt h
        let q4 := q3.1.rollAtBoundary h
        let q5 := q4.1.commitsAt h f
        let q6 := q5.1.viewsAt h
        let q7 := q6.1.cellsAt h
        let q8 := q7.1.policiesAt h
        let b := ((((q8.1.newTimingAt h).installCommitted h).leadAt h).dueBehind h f).modHead h (fun x => { x with
          last := x.ended.getD x.last, ended := none })
        let calm := !(r.2 || (q1.2 || q4.2 || q5.2 || q6.2))
        let other := q2.2 || q7.2 || q8.2 || q3.2 || !(q8.1.head h).timingRecs.isEmpty
        exec (.composeBoundary dt h) s = .next (b.beginFrame h f (decide (0 ≤ ((b.head h).frames - f).toInt)) false
          (calm && !other) calm (x.comp.zeroIssued && !r.2)).advanced) ∧
    (x.comp.running = true → x.comp.busy = false → a.served h = true → x.comp.next < x.vA →
      a.wakeOpen h x.comp.next = false → x.beamAllows x.comp.frame x.comp.next = true →
      exec (.composerLineStart dt h) s = .next ((a.modHead h (fun x => { x with
        comp := { x.comp with waitZero := false } })).startLine h x.comp.next)) ∧
    (x.comp.running = false ∨ x.comp.busy = true → exec (.composerLineStart dt h) s = .next a) ∧
    (∀ t k rest, x.timing = some t → x.comp.stale = k :: rest → exec (.composerLineComplete dt h) s =
      .next (a.modHead h (fun x => { x with
        fenced := if k.epoch = x.epoch then x.fenced else satInc 0xFFFF x.fenced k.blocks
        comp := { x.comp with stale := rest } }))) ∧
    (∀ t, x.timing = some t → x.comp.stale = [] → x.comp.busy = true →
      let bs := rowBytes x.comp.line
      (a.served h = false ∨ x.comp.epoch ≠ x.epoch → exec (.composerLineComplete dt h) s =
        .next (a.modHead h (fun x => { x with
          fenced := satInc 0xFFFF x.fenced (bs.length / 64), comp := { x.comp with busy := false, line := [] } }))) ∧
      (a.served h = true → x.comp.epoch = x.epoch → ∃ u,
        let w := a.physWrite (frameStore h + x.comp.next * storePitch t.hA) bs
        { u with disp := w.disp } = w ∧
        (u.head h).comp.busy = false ∧ (u.head h).comp.done = x.comp.next + 1 ∧ (u.head h).comp.next = x.comp.next + 1 ∧
        (u.head h).comp.crc = word (crcBytes polyCrc32 (w.head h).comp.crc.toNat bs) ∧
        exec (.composerLineComplete dt h) s = .next (if x.comp.next + 1 = t.vA then u.frameDone h else u))) ∧
    (x.comp.stale = [] → x.comp.busy = false → exec (.composerLineComplete dt h) s = .next a) ∧
    (∀ k f st, x.capture = some k → k.frame = some f → f.status = some st →
      let covers := ∃ o, a.tenant? k.owner = some o ∧ o.covers 0x0804 h = true
      let out := a.eventStatus k.owner 0x0804 st
          ([word h, f.frame, word f.page, word f.written, word k.skippedSince] ++ words64 f.time)
      let next (b : State) : State := b.modCapture h (fun k => { k with
          pw := k.pw + word (ceilDiv f.written 4096), frame := none, skippedSince := 0 })
      (∀ b, covers ∧ b = out ∨ ¬covers ∧ b = a →
        (k.stop = none → exec (.captureFrame dt h) s = .next (next b).advanced) ∧
        (∀ rs, k.stop = some rs → exec (.captureFrame dt h) s = .next (rs.foldl (fun s r => s.completeOk r [])
          ((next b).modHead h (fun x => { x with capture := none }))).advanced))) ∧
    (x.capture = none → exec (.captureFrame dt h) s = .next a.advanced) ∧
    (∀ k f, x.capture = some k → k.frame = some f → f.status = none →
      exec (.captureWriteStall dt h) s = .next (a.modHead h (fun x => { x with
        capTruncated := satInc 0x7FFF x.capTruncated 1
        capture := some { k with frame := some { f with status := some eTrunc, tail := [] } } })))

/-- R23, R28 to R30, R32, R306, R308, R544. The port and frame-lock rows: what training, HPD, a starved stream, an AUX
transaction, an FSYNC edge or loss, and a gPTP change leave. Where the spec leaves a point open it holds of the model's
choice there (assumptions 20, 29 and 57). -/
def Obligations.PortAndLockRowsComplete : Prop :=
  ∀ (s : State) (dt p st lanes rate mac : Nat) (tries : List Bool) (v : Word) (cp : Bool) (reply : AuxReply) (sy : Bool)
    (off : Int),
    let a := s.tick dt
    let q := a.portAt p
    (∀ w rest, q.pend = w :: rest → q.training = true →
      let b := match q.route with
        | none => a
        | some old => a.setRouteHeads p old false
      let up := (b.setRouteHeads p w.route true).modPort p (fun q => { q with
        route := some w.route, pend := rest, training := false, trained := true
        sending := !b.power.pwrfail, hpd := true, gotLanes := lanes, gotRate := rate
        starved := [] })
      let down := b.modPort p (fun q => { q with
        route := none, pend := rest, training := false, trained := false, sending := false, gotLanes := 0, gotRate := 0 })
      let next (b : State) : State := (b.nextRoute p rest.length).modPort p Port.auxTurn
      (∀ k, w.ref = some k →
        exec (.linkTrainingDone dt p true lanes rate) s = .next (next (up.completeOk k [])) ∧
        exec (.linkTrainingDone dt p false lanes rate) s =
          .next (next (down.complete k eLinkTrain noField [word lanes, word rate]))) ∧
      (w.ref = none →
        exec (.linkTrainingDone dt p true lanes rate) s = .next (next up) ∧
        exec (.linkTrainingDone dt p false lanes rate) s = .next (next down))) ∧
    (q.pend = [] ∨ q.training = false → ∀ ok, exec (.linkTrainingDone dt p ok lanes rate) s = .next a) ∧
    (let low := a.modPort p (fun q => { (if q.auxBusy then q.auxEnd 6 0 [] else q) with
       hpd := false, sending := false, trained := false, gotLanes := 0, gotRate := 0 })
     (q.route.isSome = true → q.hpd = true → exec (.hpdFall dt p) s = .next (low.portState p 0 q.gotLanes q.gotRate)) ∧
     (q.route = none ∨ q.hpd = false → exec (.hpdFall dt p) s = .next low)) ∧
    (let high := a.modPort p (fun q => { q with hpd := true })
     (q.route = none ∨ q.sending = true → exec (.hpdRise dt p tries) s = .next high) ∧
     (∀ r, q.route = some r → q.sending = false → true ∈ tries.take 3 →
       exec (.hpdRise dt p tries) s = .next ((high.modPort p (fun q => { q with
         trained := true, sending := !a.power.pwrfail, gotLanes := r.lanes, gotRate := r.rate })).portState p 1 r.lanes
           r.rate)) ∧
     (∀ r, q.route = some r → q.sending = false → true ∉ tries.take 3 →
       exec (.hpdRise dt p tries) s = .next (high.portState p 2 r.lanes r.rate))) ∧
    (a.portSends p = true → exec (.portPixelNeed dt p st true) s = .next (a.modPort p (fun q => { q with
      starved := IMap.put q.starved st (satInc 0xFFFFFFFF (IMap.get q.starved 0 st) 1) }))) ∧
    (a.portSends p = false → exec (.portPixelNeed dt p st true) s = .next a) ∧
    exec (.portPixelNeed dt p st false) s = .next a ∧
    (let put (x : Port) : State := a.modPort p (fun _ => x)
     let started : Port := { q with auxCtl := v &&& 0xF0F, auxDone := false, auxBusy := true, auxWait := cp }
     (v.getLsbD 31 = false → exec (.auxCtlStart dt p v cp) s = .next (put { q with auxCtl := v &&& 0xF0F })) ∧
     (v.getLsbD 31 = true → q.auxBusy = true → exec (.auxCtlStart dt p v cp) s =
       .next ((put { q with auxOverrun := true }).hwMark (.auxOverrun p))) ∧
     (v.getLsbD 31 = true → q.auxBusy = false → cp = true ∨ (q.hpd = true ∧ auxRequestOk (bits v.toNat 3 0) = true) →
       exec (.auxCtlStart dt p v cp) s = .next (put started)) ∧
     (v.getLsbD 31 = true → q.auxBusy = false → cp = false → q.hpd = false ∨ auxRequestOk (bits v.toNat 3 0) = false →
       exec (.auxCtlStart dt p v cp) s = .next (put (started.auxEnd 6 0 []))) ∧
     (q.auxBusy = false ∨ (q.auxWait = true ∧ q.training = true) → exec (.auxTransactionEnd dt p reply) s = .next a) ∧
     (q.auxBusy = true → q.auxWait = false ∨ q.training = false → q.hpd = false →
       exec (.auxTransactionEnd dt p reply) s = .next (put (q.auxEnd 6 0 []))) ∧
     (q.auxBusy = true → q.auxWait = false ∨ q.training = false → q.hpd = true →
       auxRequestOk (bits q.auxCtl.toNat 3 0) = true →
       let n := bits q.auxCtl.toNat 11 8 + 1
       let r := bits q.auxCtl.toNat 3 0
       exec (.auxTransactionEnd dt p .timeout) s = .next (put (q.auxEnd 5 0 [])) ∧
       ∀ k took d, let result := (match k with | .ack => 0 | .nack => 1 | .defer => 2 | .i2cNack => 3 | .i2cDefer => 4)
         (auxReads r = true → exec (.auxTransactionEnd dt p (.reply k took d)) s =
           .next ((put (q.auxEnd result (min n d.length) (d.take n))).hwMark (.auxData p))) ∧
         (auxReads r = false → exec (.auxTransactionEnd dt p (.reply k took d)) s =
           .next (put (q.auxEnd result (min n took) []))))) ∧
    (let b := a.modDisp (fun d => match d.fsyncAt with
       | none => { d with fsyncAt := some a.now }
       | some z =>
         let n := (a.now - z).toNat
         let gap := !d.fsyncGap && (match d.fsyncPeriod with | none => false | some p => decide (2 * p ≤ n))
         { d with fsyncAt := some a.now, fsyncGap := gap, fsyncPeriod := if gap then d.fsyncPeriod else some n })
     ((∀ h < 8, (a.head h).lock.role ≠ 2) → exec (.fsyncEdge dt) s = .next b ∧ exec (.fsyncLost dt) s = .next a) ∧
     ∀ h < 8, (a.head h).lock.role = 2 → (∀ k < h, (a.head k).lock.role ≠ 2) →
       let c := b.modHead h (fun x => { x with lock := { x.lock with lost := false } })
       exec (.fsyncEdge dt) s = .next (c.lockMeasure h (c.phaseError h a.now)) ∧
       (a.edgesMissing h = true → exec (.fsyncLost dt) s = .next ((a.modHead h (fun x => { x with
         lock := x.lock.lose })).modDisp (fun d => { d with fsyncAt := none }))) ∧
       (a.edgesMissing h = false → exec (.fsyncLost dt) s = .next a)) ∧
    ∃ t, exec (.gptpStateChange dt mac sy off rate) s = .next t ∧
      { t with disp := a.disp, eth := a.eth } = a ∧ { t.disp with heads := a.disp.heads, gptp := a.disp.gptp } = a.disp ∧
      t.disp.gptp = IMap.put a.disp.gptp mac (sy, off, rate) ∧
      t.eth = IMap.put a.eth mac { IMap.get a.eth {} mac with ptp := sy } ∧
      ∀ h, t.head h = if h < 8 ∧ (a.head h).lock.role = 3 then
        { a.head h with lock :=
          if (IMap.vals t.disp.gptp).any (fun e => e.1) then { (a.head h).lock with lost := false } else (a.head h).lock.lose }
        else a.head h

/-- R8, R9, R58, R59, R77, R425, R396, R545, R43, R406. The register and Ethernet rows: a host write lands in the device page,
where the lock allows it, or in a doorbell page, and while the part sleeps it wakes PD002; a window write is the CP's; and
MDIO, the links, the counters, an access vote and the Legend follow their rules. Where the spec leaves a point open it holds
of the model's choice there (assumptions 18, 29, 48 and 51). -/
def Obligations.RegisterRowsComplete : Prop :=
  ∀ (s : State) (dt addr t reg c mac d : Nat) (v : Word) (z : Dword) (wd : AccessWidth) (rd : Half) (up : Bool) (k : EthFrame),
    let a := s.tick dt
    (a.asleep = false → a.boot.fwReady = true →
      let host (off : Nat) := exec (.registerWrite dt .bar0 off ⟨.word, dword v⟩) s
      (a.dev.pasidLock = false →
        host 0x4010 = .next { a with dev := { a.dev with pasid0 := v &&& 0x800FFFFF } }.advanced ∧
        host 0x4014 = .next { a with dev := { a.dev with pasid1 := v &&& 0x800FFFFF } }.advanced) ∧
      (a.dev.pasidLock = true → host 0x4010 = .next a.advanced ∧ host 0x4014 = .next a.advanced) ∧
      (v.getLsbD 0 = true → host 0x4018 = .next { a with dev := { a.dev with pasidLock := true } }.advanced) ∧
      (v.getLsbD 0 = false → host 0x4018 = .next a.advanced) ∧
      ((∀ n, a.hwHas (.devEvent n) = false) →
        host 0x4004 = .next { a with dev := { a.dev with event := a.dev.event &&& ~~~v } }.advanced)) ∧
    (a.asleep = false → addr < 0x100000 ∨ 0x104100 ≤ addr → wd ≠ .word ∨ addr % 4 ≠ 0 →
      exec (.registerWrite dt .bar0 addr ⟨wd, z⟩) s = .next a.advanced) ∧
    (t < 1024 → reg < 0x1000 → reg % 4 = 0 →
      (a.asleep = false → exec (.registerWrite dt .bar0 (0x400000 + 0x1000 * t + reg) ⟨.word, dword v⟩) s =
        .next (a.dbWrite t reg v).advanced) ∧
      (((a.wakeDomain 2).sourceWake 5).asleep = true → a.asleep = true →
        exec (.registerWrite dt .bar0 (0x400000 + 0x1000 * t + reg) ⟨.word, dword v⟩) s =
          .next (((a.wakeDomain 2).sourceWake 5).latchWrite (0x400000 + 0x1000 * t + reg) v).advanced ∧
        exec (.hostBar0AccessAsleep dt true (0x400000 + 0x1000 * t + reg) ⟨.word, dword v⟩) s =
          .next (((a.wakeDomain 2).sourceWake 5).latchWrite (0x400000 + 0x1000 * t + reg) v).advanced)) ∧
    (let b := if a.asleep then (a.wakeDomain 2).sourceWake 5 else a
     exec (.hostBar0AccessAsleep dt false addr ⟨wd, z⟩) s = .next (State.bar0ReadEffect addr wd { b with
       dev := { b.dev with readData := b.bar0Read addr wd } }).advanced) ∧
    (a.power.mode = .tell ∨ a.power.mode = .drive ∨ a.power.mode = .service → addr % 4 = 0 →
      (∀ u, unitAt addr = some u →
        exec (.registerWrite dt .window addr ⟨.word, dword v⟩) s = .next (a.writeReg u v).advanced) ∧
      (unitAt addr = none → exec (.registerWrite dt .window addr ⟨.word, dword v⟩) s = .next a.advanced)) ∧
    (c < 3 → exec (.courseCntRead dt c) s = .next (a.modAudio (fun u =>
      let k : Course := { a.course c with latched := ((a.course c).count >>> 32).truncate 32 }
      { u with courses := IMap.put u.courses c k }))) ∧
    (mac < 2 →
      (v.getLsbD 31 = false → exec (.mdioCtlStart dt mac v) s = .next (a.modEth mac (fun e => { e with
        mdioCtl := v &&& 0x73FFFFFF }))) ∧
      (v.getLsbD 31 = true → (IMap.get a.eth {} mac).busy = true → exec (.mdioCtlStart dt mac v) s = .next a) ∧
      (v.getLsbD 31 = true → (IMap.get a.eth {} mac).busy = false →
        exec (.mdioCtlStart dt mac v) s = .next (a.modEth mac (fun e => { e with
          mdioCtl := v &&& 0x73FFFFFF, busy := true, waiting := a.mdioRuns (1 - mac), reads := mdioReads v }))) ∧
      (a.mdioRuns mac = true → exec (.mdioFrameEnd dt mac rd) s = .next ((a.modEth mac (fun e => { e with
        busy := false, rdata := if e.reads then rd else e.rdata })).modEth (1 - mac) (fun e => { e with
          waiting := false }))) ∧
      (a.mdioRuns mac = false → exec (.mdioFrameEnd dt mac rd) s = .next a) ∧
      exec (.usxgmiiLinkChange dt mac up) s = .next (a.modEth mac (fun e => { e with link := up })) ∧
      exec (.ethernetFrameReceive dt mac k) s = .next (a.modEth mac (fun e => match k with
        | .gptp => { e with rx := satInc 0xFFFFFFFF e.rx 1 }
        | .other => { e with rx := satInc 0xFFFFFFFF e.rx 1 }
        | .fcsError => { e with fcs := satInc 0xFFFFFFFF e.fcs 1 }
        | .queueFull => { e with dropped := satInc 0xFFFFFFFF e.dropped 1 }))) ∧
    exec (.accessVoteExpiry dt d) s = .next { a with power := { a.power with
      accessVotes := a.power.accessVotes.filter (fun x => x != d) } } ∧
    (a.legend.built = true → a.legend.everUpdated = false →
      (a.legendNow = (a.legend.shown, a.legend.lpddr, a.legend.shownSuspects) → exec (.legendUpdate dt) s = .next a) ∧
      (a.legendNow.1 ≠ a.legend.shown → exec (.legendUpdate dt) s = .next (
        let b := { a with legend := { a.legend with
          generation := a.legend.generation + 2, shown := a.legendNow.1, lpddr := a.legendNow.2.1
          shownSuspects := a.legendNow.2.2, lastUpdate := a.now, everUpdated := true } }
        (b.devEvent 0).notify 0x0101 0 [b.legend.generation] (fun _ => true)))) ∧
    (a.legend.built = false ∨ (a.legend.everUpdated = true ∧ a.since a.legend.lastUpdate < 1024000) →
      exec (.legendUpdate dt) s = .next a)

/-- R368, R381, R382, R384, R389, R391, R392, R394. The audio rows: a boundary of a Course stamps and counts it and then runs its
commands, voices, lanes, buses, ports and captures in their order; windows, relocks, slips, packets and stalls. Where the
spec leaves a point open it holds of the model's choice there (assumptions 5 and 41). -/
def Obligations.AudioRowsComplete : Prop :=
  ∀ (s : State) (dt c l p n b : Nat) (inp : CourseInput) (ok : Bool) (pt : Nat) (xs : List (List Int)),
    let a := s.tick dt
    (a.audioRuns = true → c ≤ 2 →
      let r : Course := { a.course c with count := (a.course c).count + 1, at_ := a.now }
      let d := (((a.modAudio (fun u => { u with courses := IMap.put u.courses c r })).audioCommands c).pdmInputs inp).runAvtp
        c true
      let vs := (d.audio.voices.filter (fun e => e.2.course = c && (e.2.owner.isSome || decide (96 ≤ e.1)))).map Prod.fst
      let v := vs.foldl (State.runVoice inp.starved) (d, [])
      let w := v.1.runLanes c v.2
      let x := ((w.1.runBuses c w.2).runTdm c).runAvtp c false
      let y := x.modAudio (fun u => { u with lanes := u.lanes.map (fun (e : Nat × Lane) =>
        if e.2.fromBus && e.2.srcCourse = c then (e.1, { e.2 with input := (x.bus e.2.srcBus).out.getD e.2.srcCh 0 }) else e) })
      let bs := (y.audio.buses.filter (fun e => e.2.set.course = c && e.2.capture.isSome)).map Prod.fst
      exec (.courseSampleBoundary dt c inp) s = .next (((((bs.foldl (fun s b => s.runCapture b (s.course c)) y).tdmInputs c
        inp).pruneSamples).flushReports).advanced)) ∧
    (a.audioRuns = false ∨ 2 < c → exec (.courseSampleBoundary dt c inp) s = .next a.advanced) ∧
    (∃ t, exec (.meterWindowEnd dt c) s = .next t ∧ { t with audio := a.audio } = a ∧
      (∀ v, IMap.find? t.audio.meters v = (IMap.find? a.audio.meters v).map (fun m =>
        if (IMap.get a.audio.voices {} v).course = c then m.windowEnd a.now else m)) ∧
      ∀ v, IMap.find? t.audio.buses v = (IMap.find? a.audio.buses v).map (fun x =>
        if x.set.course = c then { x with meters := x.meters.map (Meter.windowEnd a.now) } else x)) ∧
    (exec (.audioMeter dt) s = .next (
      let m := a.audio.voices.foldl (fun s e => match e.2.tenant e.1 with
        | none => s
        | some t => s.notify 0x0B03 (e.2.handle e.1) ((IMap.get s.audio.meters {} e.1).words (e.2.handle e.1) 0) (· = t)) a
      m.audio.buses.foldl (fun s e => match e.2.owner with
        | none => s
        | some t => (e.2.meters.zipIdx).foldl (fun s q => s.notify 0x0B03 e.1 (q.1.words e.1 q.2) (· = t)) s) m)) ∧
    (∀ x, IMap.find? a.audio.lanes l = some x →
      (x.unlocked = ok → exec (.bridgeLaneRangeTimeout dt l ok) s =
        .next ((a.modLane l (fun x => { x with unlocked := !ok })).portReport (if ok then 3 else 2) l 1)) ∧
      (x.unlocked = !ok → exec (.bridgeLaneRangeTimeout dt l ok) s = .next a)) ∧
    (let lock (k : Nat) (z : State) : State := { z with clocks := { z.clocks with
        locked := if z.audioClockLost k then z.clocks.locked &&& ~~~((1 : BitVec 15) <<< (12 + k))
          else z.clocks.locked ||| ((1 : BitVec 15) <<< (12 + k)) } }
     (a.audio.clkA.locking = true → exec (.audioClockRelock dt 0) s = .next (a.audio.clkA.relock.foldl (fun s r =>
       s.completeOk r ([5, 0] ++ words64 s.now)) (((lock 0 (a.modAudio (fun u => { u with
         clkA := { a.audio.clkA with relock := [], locking := false } }))).portReport 5 0 1).portReport 5 2 1))) ∧
     (a.audio.clkB.locking = true → exec (.audioClockRelock dt 1) s = .next (a.audio.clkB.relock.foldl (fun s r =>
       s.completeOk r ([2, 0] ++ words64 s.now)) ((lock 1 (a.modAudio (fun u => { u with
         clkB := { a.audio.clkB with relock := [], locking := false } }))).portReport 5 1 1)))) ∧
    (∀ t, IMap.find? a.audio.tdmIn p = some t →
      (t.on = true → bitOf t.format 2 = false → exec (.tdmFrameSlip dt p true) s = .next (a.portReport 1 (p + 4) 1)) ∧
      (t.on = false ∨ bitOf t.format 2 = true → exec (.tdmFrameSlip dt p true) s = .next a)) ∧
    (∀ t, IMap.find? a.audio.tdmOut p = some t → t.on = true → bitOf t.format 2 = false →
      exec (.tdmFrameSlip dt p false) s = .next (a.portReport 1 p 1)) ∧
    (∀ x g, IMap.find? a.audio.avtp (16 + n) = some x → IMap.find? a.disp.gptp x.mac = some g →
      let m := a.modEth x.mac (fun m => { m with rx := satInc 0xFFFFFFFF m.rx 1 })
      let ns := signed 32 (wrapTo 32 ((pt : Int) - gptpOf g a.now))
      let t : Meridian := a.now + BitVec.ofInt 64 (ns * 2 ^ 32 / (max 1 g.2.2 : Nat))
      (meridianDiff t a.now < 0 → exec (.avtpPacketReceive dt n pt xs) s = .next ((m.modAudio (fun u => { u with
        avtp := IMap.put u.avtp (16 + n) { x with started := true, late := x.late + 1, gap := 0 } })).portReport 4 n 1)) ∧
      (0 ≤ meridianDiff t a.now → exec (.avtpPacketReceive dt n pt xs) s = .next (m.modAudio (fun u => { u with
        avtp := IMap.put u.avtp (16 + n) { x with
          started := true
          queue := x.queue ++ xs.zipIdx.map (fun e =>
            (t + BitVec.ofNat 64 (e.2 * 1024000000 / courseRate x.course), e.1)) } })))) ∧
    (∀ k st, (a.bus b).capture = some k → k.status = some st → exec (.audioCaptureBlock dt b) s = .next (State.acapStop b
      ((a.eventStatus k.owner 0x0B04 st
        ([word b, word k.page, word k.written, word k.skipped] ++ words64 k.first ++ words64 k.time)).modACap b (fun k => { k with
          pw := k.pw + word (ceilDiv k.written 4096), status := none, skipped := 0, tail := [] }))).advanced) ∧
    ((a.bus b).capture = none → exec (.audioCaptureBlock dt b) s = .next a.advanced ∧ exec (.audioCaptureStall dt b) s = .next a) ∧
    (∀ x, (a.bus b).capture = some x → x.live = true → x.skip = false → x.status = none →
      exec (.audioCaptureStall dt b) s = .next (a.modACap b (fun k => { k with
        status := some eTrunc, tail := [], skip := true })))

/-- R107 to R113, R316, R337, R338, R343, R351, R363, R546. Waits, fetches and maintenance: a waiting command's effect happens
when its wait ends; a read that returns leaves what it shows of the memory's errors, and a fault acts on its requester;
heartbeats, self tests and activities move the clusters and the arbiter. Where the spec leaves a point open it holds of the
model's choice there (assumptions 38, 39 and 48). -/
def Obligations.WaitFetchAndMaintenanceRowsComplete : Prop :=
  ∀ (s : State) (dt t n p h slot px v : Nat) (i : Word) (ok good : Bool) (heads : List Nat),
    let a := s.tick dt
    (∀ f, a.flightAt t i = some f →
      let r := f.cmd.ref f.opcode
      let ends (b : State) : Prop := exec (.commandWaitEnd dt t i) s = .next b
      (∀ ls k, f.stage = .waiting (.map ls k) → ends
        (((ls.foldl (fun s l => s.physZero l.out l.size) a).modTenant r.tenant (fun x => { x with
          atlas := x.atlas.addAll r.tenant ls })).completeOk r [word k]).advanced) ∧
      (∀ ls, f.stage = .waiting (.unmap ls) → ls.any (fun l => a.loadsOutstanding r.tenant l.base l.size) = false →
        ends (a.completeOk r []).advanced) ∧
      (∀ b cls k, f.stage = .waiting (.bank b cls k) → ends
        (((a.physZero (bankBase + b * 0x400000) 0x400000).modBank b (fun x => { x with cls := cls, inst := k })).completeOk
          r []).advanced) ∧
      (f.stage = .fetched ∨ f.stage = .running ∨ f.stage = .formed → ends a.advanced)) ∧
    (a.flightAt t i = none → exec (.commandWaitEnd dt t i) s = .next a.advanced) ∧
    (∀ req, exec (.fetchReturn dt req .data) s = .next a.advanced) ∧
    (∀ req, inStore p = false → (∀ x y z, req ≠ .scan x y z) →
      exec (.fetchReturn dt req (.corrected p)) s = .next ((a.learnError (.corrected p)).noteCe (wordBase p)).advanced) ∧
    (∀ q, IMap.find? (a.head h).planes slot = some q → exec (.fetchReturn dt (.plane h slot 0 px) (.unmapped p)) s =
      .next ((a.planeFault h slot q.owner ⟨p, 1⟩).cutPlane h slot px).advanced) ∧
    (∀ o, (a.voice v).tenant v = some o → (a.voice v).fault = 0 → (a.voice v).faultDue = 0 → exec (.fetchReturn dt (.voice v) (.access p)) s =
      .next (((a.modVoice v (fun x => { x with faultDue := 1 })).atlasFault o ⟨p, 2⟩ 0x030A 0).voiceFaultReport v 1 1).advanced) ∧
    (∀ x, a.tenant? t = some x → x.mbox.state = .running →
      exec (.fetchReturn dt (.ring t) (.hostError p)) s = .next (a.stopMbox t eFault false).advanced) ∧
    exec (.fetchReturn dt .cpFirmware (.decodeError p)) s = .next (a.cpFault 9).advanced ∧
    ((a.cluster n).service = .active ∨ (a.cluster n).service = .spare →
      a.power.mode = .drive ∨ a.power.mode = .service →
      exec (.heartbeatPeriodEnd dt n true true) s = .next (a.modCluster n (fun k => { k with missed := 0 })) ∧
      ((ok && good) = false → (a.cluster n).missed < 2 → exec (.heartbeatPeriodEnd dt n ok good) s =
        .next (a.modCluster n (fun k => { k with missed := k.missed + 1 }))) ∧
      ((ok && good) = false → 2 ≤ (a.cluster n).missed → exec (.heartbeatPeriodEnd dt n ok good) s = .next (a.declareDead n))) ∧
    ((a.activity 4).running = true → (a.activity 4).cluster = some n → (a.cluster n).service = .quarantined →
      let b := (a.modActivity 4 (fun x => { x with running := false, cluster := none })).orderEvent 4
        (if ok then 2 else 3) 0 (some n)
      let c := (b.setService n (if ok then .spare else .retired) none (if ok then 3 else 4)).modCluster n
        (fun k => { k with head := none, missed := 0 })
      exec (.clusterSelfTestEnd dt n ok) s = .next (if ok then c.giveSpare n else c).startQueued) ∧
    (1 ≤ n → n ≤ 6 → (a.activity n).enabled = true → actInMode n a.power.mode = true →
      a.activityPeriod n ≤ a.since (a.activity n).lastStart →
      exec (.maintenanceActivityDue dt n) s = .next (a.activityDue n none)) ∧
    ((a.activity n).enabled = false ∨ a.since (a.activity n).lastStart < a.activityPeriod n →
      exec (.maintenanceActivityDue dt n) s = .next a) ∧
    ((a.activity n).running = true → n ≠ 4 →
      let x := a.activity n
      let b := a.modActivity n (fun x => { x with running := false, cluster := none, refs := [] })
      let c := (b.activityEffect n ok heads x.cluster).orderEvent n (if ok then 2 else 3) 0 x.cluster
      exec (.maintenanceActivityEnd dt n ⟨ok, heads⟩) s =
        .next (x.refs.foldl (fun s r => s.completeOk r [if ok then 0 else 1]) c).startQueued)

/-- R346 to R348, R353, R354, R358 to R360. The governor and armed changes: readings drive the level, the estimator's anchor and
THERMTRIP_N; an armed change that a unit missed is armed again a millisecond later, applies at its time when no commit group
is armed, and rolls back after a unit failed. Where the spec leaves a point open it holds of the model's choice there
(assumptions 9, 40 and 56). -/
def Obligations.GovernorAndArmRowsComplete : Prop :=
  ∀ (s : State) (dt id i : Nat) (temps : List Int) (acts : List Nat) (us : List ArmUnit) (u : ArmUnit),
    let a := s.tick dt
    (a.governs = true → exec (.governorEvaluation dt temps acts) s =
      .next ((((((a.takeReadings temps acts).forceTell).stepDown).stepUp).degrade).restore)) ∧
    (a.governs = false →
      exec (.governorEvaluation dt temps acts) s = .next a ∧ exec (.leakageAnchor dt i) s = .next a ∧
      exec (.estimatorUnanchored dt) s = .next a) ∧
    (a.power.pwrfail = false →
      let b := a.modGov (fun g => { g with thermtrip := true })
      (a.governs = true → exec (.thermtripAssert dt) s = .next (b.decision 6 0)) ∧
      (a.governs = false → exec (.thermtripAssert dt) s = .next (b.devEvent 1))) ∧
    (a.power.pwrfail = true → exec (.thermtripAssert dt) s = .next a) ∧
    (a.governs = true →
      (a.quiet = true →
        let b := a.modGov (fun g => { g with anchor := some i, unanchored := false, lastAnchor := a.now })
        exec (.leakageAnchor dt i) s = .next (if a.disp.gov.unanchored then b.decision 8 0 else b)) ∧
      (a.quiet = false → exec (.leakageAnchor dt i) s = .next a) ∧
      (a.disp.gov.unanchored = false → 10000 * 1024000 ≤ a.since a.disp.gov.lastAnchor →
        exec (.estimatorUnanchored dt) s = .next ((a.modGov (fun g => { g with unanchored := true })).decision 7 0))) ∧
    (a.disp.arms.find? (fun k => k.id = id) = none →
      exec (.armDeadline dt id us) s = .next a ∧ exec (.applyTime dt id) s = .next a.advanced ∧
      exec (.applyAckTimeout dt id u) s = .next a.advanced ∧ exec (.rollback dt id) s = .next a) ∧
    (∀ k, a.disp.arms.find? (fun k => k.id = id) = some k →
      (∀ n, k.kind = .cclk n → k.applied = false → a.disp.armedNow id = true → k.leftOut = [] → k.missed = [] → us ≠ [] →
        (∀ u ∈ us, a.takesPart k u = true ∧ a.deadlinePassed k u = true) →
        exec (.armDeadline dt id us) s = .next (a.modArm id (fun k => { k with
          attempt := k.attempt + 1, missed := us.map (fun u => (u, 1)), leftOut := k.leftOut
          applyAt := k.applyAt + 1024000 }))) ∧
      ((∀ u ∈ us, a.takesPart k u = false ∨ a.deadlinePassed k u = false) → exec (.armDeadline dt id us) s = .next a) ∧
      (k.applied = false → a.disp.armedNow id = true → a.hasCome k.applyAt = true →
        let b := a.modArm id (fun k => { k with applied := true, appliedAt := a.now, oldKeeps := a.clocks.keeps })
        let keeps := k.leftOut.map (fun u => (u, a.clocks.unitCclk u))
        (∀ n, k.kind = .cclk n → exec (.applyTime dt id) s = .next { b with
          clocks := { a.clocks with cclk := min n a.clocks.cclkMax, keeps := keeps } }.advanced) ∧
        (∀ r cc f p cp, k.kind = .plan r cc f p cp → exec (.applyTime dt id) s = .next (State.completeOk r []
          { b with clocks := { a.clocks.plan cc f p cp with keeps := keeps } }).advanced)) ∧
      (a.hasCome k.applyAt = false →
        exec (.applyTime dt id) s = .next a.advanced ∧ exec (.rollback dt id) s = .next a) ∧
      (∀ n, k.kind = .cclk n → k.applied = true → u ∉ k.failed → a.takesPart k u = true → a.ackDue k.appliedAt = true →
        let b := a.markSuspect u
        let c := b.modArm id (fun k => { k with
          failed := k.failed ++ [u], applyAt := if k.failed.isEmpty then k.applyAt + a.frameLater else k.applyAt })
        exec (.applyAckTimeout dt id u) s = .next { c with
          clocks := { c.clocks with keeps := c.clocks.keeps ++ [(u, k.old.getLastD c.clocks.cclk)] } }.advanced) ∧
      (a.takesPart k u = false → exec (.applyAckTimeout dt id u) s = .next a.advanced) ∧
      (∀ n, k.kind = .cclk n → k.failed ≠ [] → a.disp.armedNow id = true → a.hasCome k.applyAt = true →
        let b := a.modDisp (fun d => { d with arms := d.arms.filter (fun a => a.id ≠ id) })
        let c : State := { b with clocks := { b.clocks with cclk := k.old.headD b.clocks.cclk, keeps := k.oldKeeps } }
        exec (.rollback dt id) s = .next (c.modGov (fun g => { g with downAt := none, upAt := none }))))

/-- R399, R403, R404, R409, R410, R495. The Pegbox rows: wake sources 5, 6 and the Peg core's own; a mel frame's ring entries and
due evaluation; an evaluation's scores and match; and the I²C wake target's phases. Where the spec leaves a point open it
holds of the model's choice there (assumptions 5, 44 and 45). -/
def Obligations.PegboxRowsComplete : Prop :=
  ∀ (s : State) (dt mac : Nat) (frame : List Byte) (v : Word) (xs : List (Int × Int)) (addr : BitVec 7) (rd : Bool) (b : Byte),
    let a := s.tick dt
    let i := a.peg.i2c
    (exec (.clkreqAssert dt) s = .next (a.sourceWake 5)) ∧
    (let c := if mac < 2 then a.modEth mac (fun m => { m with rx := satInc 0xFFFFFFFF m.rx 1 }) else a
     ((a.peg.source 6).frameMatches mac frame = true → exec (.wakeFrameReceive dt mac frame) s = .next (c.sourceWake 6)) ∧
     ((a.peg.source 6).frameMatches mac frame = false → exec (.wakeFrameReceive dt mac frame) s = .next c)) ∧
    (a.peg.running = true → a.pegAwake = true →
      exec (.pegWakeReqWrite dt v) s = .next (a.pegStore 0x30000000 (v.truncate 8))) ∧
    (a.peg.running = false ∨ a.pegAwake = false → exec (.pegWakeReqWrite dt v) s = .next a) ∧
    (a.power.mode = .off → exec (.melFrameReady dt xs) s = .next a) ∧
    (a.power.mode ≠ .off →
      let p := a.modelSwap
      let m := (if p.cpRuns then { p with prerolls := p.prerolls.map p.peg.copyPreroll } else p).freshList 40
      let mel := m.1.map (fun v => Int.ofNat (v % 0x8000))
      let c := m.2.modPeg (fun g => { xs.foldl Peg.sampleFrame g with
        mel := mel
        hist := (let k := xs.foldl Peg.sampleFrame g
          (k.hist ++ [mel]).drop ((k.hist ++ [mel]).length - ((k.model.map (·.context)).getD 0))) })
      exec (.melFrameReady dt xs) s = .next ((c.modPeg (fun g => { g with
        evalDue := (match c.peg.model with
          | none => false
          | some m => c.peg.hist.length = m.context) && c.pegAwake })).pegCause 1)) ∧
    (∀ m w y, a.peg.model = some m → a.peg.evalDue = true → a.pegAwake = true → IMap.find? a.peg.sources 2 = some w →
      (m.scores a.peg.hist)[w.cls]? = some y →
      let sc := m.scores a.peg.hist
      let c := a.modPeg (fun g => { g with
        evalDue := false, scores := sc ++ g.scores.drop sc.length, score := y
        streak := if w.threshold ≤ y then a.peg.streak + 1 else 0 })
      (w.threshold ≤ y → w.frames ≤ a.peg.streak + 1 → exec (.modelEvaluationDone dt) s = .next (c.phraseMatch w.cls y)) ∧
      (w.threshold ≤ y → a.peg.streak + 1 < w.frames → exec (.modelEvaluationDone dt) s = .next c) ∧
      (y < w.threshold → 0 < w.frames → exec (.modelEvaluationDone dt) s = .next c)) ∧
    (a.peg.model = none → exec (.modelEvaluationDone dt) s = .next a) ∧
    (addr.toNat = 0x4C + i.straps → a.power.mode ≠ .off → a.boot.resetLow = false →
      exec (.i2cAddressMatch dt addr rd) s = .next ((a.modI2c (fun i => { i with
        active := true, reading := rd, first := !rd, stretching := !a.pegAwake, dead := false, nack := false })).sourceWake
          1)) ∧
    (addr.toNat ≠ 0x4C + i.straps →
      exec (.i2cAddressMatch dt addr rd) s = .next (a.modI2c (fun i => { i with active := false }))) ∧
    (i.active = true → i.reading = false → i.dead = false → a.pegAwake = true → i.first = false →
      let c := a.modI2c (fun i => { i with
        stretching := false, nack := false, index := (i.index + 1) % 16, last := word (i.index * 0x100 + b.toNat) })
      (2 ≤ i.index → a.peg.running = true → exec (.i2cDataByteWrite dt b) s =
        .next ((c.modPeg (fun g => { g with user := g.user.set i.index b })).pegCause 4)) ∧
      (i.index = 0 → exec (.i2cDataByteWrite dt b) s = .next (c.pegCause 4)) ∧
      (i.index = 1 → b.toNat % 4 = 0 → exec (.i2cDataByteWrite dt b) s =
        .next ((c.modI2c (fun i => { i with modeReq := b.toNat })).pegCause 4))) ∧
    (i.active = true → i.reading = false → i.dead = true →
      exec (.i2cDataByteWrite dt b) s = .next (a.modI2c (fun i => { i with nack := true }))) ∧
    (i.active = true → i.reading = true →
      (i.dead = true → exec (.i2cDataByteRead dt) s = .next (a.modI2c (fun i => { i with readData := 0xFF }))) ∧
      (i.dead = false → a.pegAwake = true → exec (.i2cDataByteRead dt) s = .next (a.modI2c (fun i => { i with
        stretching := false, readData := a.i2cValue i.index, index := (i.index + 1) % 16 })))) ∧
    (i.active = true → i.stretching = true →
      exec (.i2cStretchTimeout dt) s = .next (a.modI2c (fun i => { i with stretching := false, dead := true }))) ∧
    (i.active = false → exec (.i2cDataByteWrite dt b) s = .next a ∧ exec (.i2cDataByteRead dt) s = .next a ∧
      exec (.i2cStretchTimeout dt) s = .next a)

/-- R411, R417 to R421, R431, R441, R442, R454 to R457, R522. Modes, wake, clocks and the slow counter: an applied change ends in
its mode; a wake ends in the mode it asks for; a lost reference takes its PLLs' lock and a returned one gives it back; and
each slow-counter edge moves the counter, Meridian and the calendar. Where the spec leaves a point open it holds of the
model's choice there (assumptions 8, 32 and 55). -/
def Obligations.ModeAndClockRowsComplete : Prop :=
  ∀ (s : State) (dt : Nat) (r : ClockRef),
    let a := s.tick dt
    (a.power.change = none → exec (.modeReached dt) s = .next a) ∧
    (∀ m, a.power.change = some m → m.applied = true → m.target = .drive → a.power.mode = .service → m.ref = none →
      a.disp.arms.any (fun k => k.kind = .mode && !k.failed.isEmpty) = false →
      let t := (a.takeMode m).leaveService .service .drive
      let u := if m.cause = 2 then t.wakeCauseEvent.unlatch else t
      exec (.modeReached dt) s = .next (a.withClocks (((u.modeReport .service .drive m.cause).startQueued).forceDue))) ∧
    (∀ z : State, (z.power.mode = a.power.mode → a.withClocks z = z) ∧
      (z.power.mode ≠ a.power.mode → a.withClocks z = z.gateForMode)) ∧
    (a.peg.latched = true → a.power.mode.sleeps = true → a.power.change = none → a.power.tellForced = false →
      let ends (n : Mode) : Prop := exec (.wakeComplete dt) s = .next (a.withClocks ((a.wakeTo a.power.mode n).modPeg
        (fun g => { g with latched := false, forWake := 0 })))
      (a.peg.reqMode ≤ 1 → ends .listen) ∧ (a.peg.reqMode = 2 → ends .tell) ∧ (3 ≤ a.peg.reqMode → ends .drive)) ∧
    (a.peg.latched = false ∨ a.power.mode.sleeps = false → exec (.wakeComplete dt) s = .next a) ∧
    (a.power.mode = .service → a.power.servicePinLow = false → a.power.change = none →
      exec (.serviceNReleaseTimeout dt) s = .next (a.armMode .drive 1 none)) ∧
    (a.power.mode ≠ .service ∨ a.power.servicePinLow = true → exec (.serviceNReleaseTimeout dt) s = .next a) ∧
    (r ∈ a.clocks.refsLost → exec (.clockReferenceLost dt r) s = .next a) ∧
    (r ∉ a.clocks.refsLost → exec (.clockReferenceReturn dt r) s = .next a) ∧
    (r ∉ a.clocks.refsLost →
      let ps := a.pllsOn r
      exec (.clockReferenceLost dt r) s = .next (ps.foldl (fun s i => (s.hwMark (.pllLost i)).clockFault i 0) { a with
        clocks := { a.clocks with
          refsLost := r :: a.clocks.refsLost
          locked := ps.foldl (fun b i => b &&& ~~~((1 : BitVec 15) <<< i)) a.clocks.locked
          lost := ps.foldl (fun b i => b ||| (1 <<< i)) a.clocks.lost }
        time := { a.time with coasting := a.time.coasting || ps.contains 3 }
        boot := { a.boot with pcieUp := a.boot.pcieUp && r ≠ .refclk } })) ∧
    (r ∈ a.clocks.refsLost →
      let ps := a.pllsOn r
      exec (.clockReferenceReturn dt r) s = .next (ps.foldl (fun s i => s.clockFault i 1) { a with
        clocks := { a.clocks with
          refsLost := a.clocks.refsLost.filter (· != r)
          locked := ps.foldl (fun b i => b ||| (1 <<< i)) a.clocks.locked }
        time := { a.time with coasting := a.time.coasting && !ps.contains 3 } })) ∧
    (let e := a.meridianEdge
     let b := (e.modCal Calendar.count).calendarCommands
     (b.time.cal.fires e.time.cal.time = true → exec (.slowCounterEdge dt) s = .next b.alarmFires) ∧
     (b.time.cal.fires e.time.cal.time = false → exec (.slowCounterEdge dt) s = .next b)) ∧
    (a.meridianEdge.time.slow = a.time.slow + 1) ∧
    (a.time.stopDue = true → a.meridianEdge.now = a.now ∧ a.meridianEdge.time.running = false ∧
      a.meridianEdge.time.stopValue = a.now) ∧
    (a.time.stopDue = false → a.time.resumeDue = true → a.meridianEdge.time.running = true ∧
      a.meridianEdge.now = a.time.stopValue + 31250 * (a.time.slow + 1 - a.time.stopSlow))

/-- R53, R279, R409, R416, R425, R426, R433 to R435, R441, R454, R507, R510. Start-up, reset and power: a reset leaves what the
reset state holds but for the slow counter, the calendar, the fuses, the host's memory, the straps and the levels at the
pins; its release samples the straps; a power failure silences the outputs, and its end starts the part up again. Where the
spec leaves a point open it holds of the model's choice there (assumptions 8 and 49). -/
def Obligations.ResetAndSupplyRowsComplete : Prop :=
  ∀ (s : State) (dt h t b : Nat) (k : BootCopy) (straps : BitVec 2) (io : BitVec 5),
    let a := s.tick dt
    let after : State := { State.reset with
      pending := a.pending, freeCount := a.freeCount
      time := { slow := a.time.slow, cal := { a.time.cal with waiting := [], eventDue := none } }
      boot := { lifecycle := a.boot.lifecycle, ownerHash := a.boot.ownerHash }
      mem := { host := a.mem.host, hostFail := a.mem.hostFail }
      power := { servicePinLow := a.power.servicePinLow, servicePinAt := a.power.servicePinAt }
      pins := { pin := a.pins.pin.map (fun e => (e.1, { ball := e.2.ball })), vddioHigh := a.pins.vddioHigh, vddioOff := a.pins.vddioOff }
      peg := { i2c := { straps := a.peg.i2c.straps } } }
    let up (x : State) : State := { x with
      boot := { x.boot with resetLow := false, stage := .pegRom }, pins := { x.pins with harmless := false } }
    exec (.resetPin dt) s = .next after ∧
    (∀ due, a.boot.resetDue = some due → 0 ≤ meridianDiff a.now due → exec (.tokenReset dt) s = .next (up after)) ∧
    (∀ due, a.boot.resetDue = some due → meridianDiff a.now due < 0 → exec (.tokenReset dt) s = .next a) ∧
    (a.boot.resetDue = none → exec (.tokenReset dt) s = .next a) ∧
    (a.boot.resetLow = true → ∃ u, exec (.resetRelease dt straps io) s = .next u ∧ u.power.mode = .drive ∧
      u.boot.stage = .pegRom ∧ u.boot.resetLow = false ∧ u.peg.i2c.straps = straps.toNat ∧ u.pins.vddioHigh = io ∧
      { u with power := a.power, boot := a.boot, peg := a.peg, pins := a.pins } = a) ∧
    (a.boot.resetLow = false → exec (.resetRelease dt straps io) s = .next a) ∧
    (∃ u, exec (.pwrfailNAssert dt) s = .next u ∧ u.power = { a.power with pwrfail := true } ∧ u.audio.muted = true ∧
      (∀ e ∈ u.disp.ports, e.2.sending = false) ∧ u.disp.gov.thermtrip = false ∧
      { u with power := a.power, audio := a.audio, disp := a.disp } = a) ∧
    (a.power.pwrfail = true → exec (.pwrfailNRelease dt) s = .next (up after)) ∧
    (a.power.pwrfail = false → exec (.pwrfailNRelease dt) s = .next a) ∧
    exec (.supplyRemoval dt .allButAon) s = .next { after with power := { after.power with mode := .off } } ∧
    exec (.supplyRemoval dt .everything) s = .next { after with power := { after.power with mode := .off }, time := {} } ∧
    (b ∉ a.pins.vddioOff → exec (.supplyRemoval dt (.vddio b)) s = .next { a with
      pins := { a.pins with vddioOff := b :: a.pins.vddioOff } }) ∧
    exec (.vddAonRise dt) s = .next { a with time := { a.time with slow := 0, cal := { waiting := a.time.cal.waiting } } } ∧
    (a.boot.stage = .pegRom → a.time.running = true → a.boot.codeA = 0 →
      let c := a.verifyCopy k
      let v := a.modBoot (fun b => { b with codeA := c, stage := if c = 16 then .stopped else .header })
      (c = 1 → exec (.bootCopyVerify dt k) s = .next (v.acceptCopy k 1)) ∧
      (c ≠ 1 → exec (.bootCopyVerify dt k) s = .next v)) ∧
    (a.boot.stage = .header → a.time.running = true → a.boot.codeA ≠ 0 →
      let c := a.verifyCopy k
      let v := a.modBoot (fun b => { b with codeB := c })
      (c = 1 → exec (.bootCopyVerify dt k) s = .next (v.acceptCopy k 2)) ∧
      (c ≠ 1 → exec (.bootCopyVerify dt k) s = .next (v.modBoot (fun b => { b with stage := .stopped })))) ∧
    (∀ m, (a.head h).timing = some m → (a.head h).state = .starting ∨ (a.head h).state = .changing →
      exec (.pixelPllLock dt h) s = .next (a.modHead h (fun x => { x with
        state := .composing, line := m.vA, lineAt := a.now, frameAt := a.now, due := [], lastDue := none, porch := 0
        comp := { x.comp with running := false, busy := false, frame := x.frames, kept := none, zeroIssued := false } }))) ∧
    ((a.head h).timing = none → exec (.pixelPllLock dt h) s = .next a) ∧
    ∀ r n, ((a.advanceDestroy t).tenant? t).map Tenant.dying = some (.released r n) →
      exec (.tenantDestroyComplete dt t) s = .next (State.completeOk r [word n]
        { a.advanceDestroy t with tenants := IMap.del (a.advanceDestroy t).tenants t })

/-- R49, R334, R495, R509, R512, R513, R519 to R521. The firmware, the host link, the pins' levels and the debug port: what makes
the part ready, what a host reset ends, and what each access of the port does in the level in force. Where the spec leaves a
point open it holds of the model's choice there (assumptions 5, 49 and 50). -/
def Obligations.FirmwareLinkAndDebugRowsComplete : Prop :=
  ∀ (s : State) (dt addr k p : Nat) (v : Word) (on lv : Bool),
    let a := s.tick dt
    (a.boot.stage = .running → a.boot.fwReady = false → a.boot.cbi = [] ∨ a.boot.cbiApplied = true →
      ∃ u, exec (.firmwareReady dt) s = .next u ∧ u.boot = { a.boot with fwReady := true } ∧ u.power.mode = .drive ∧
        u.legend.built = true ∧ u.exists_ 0 = true ∧ u.exists_ 1 = true ∧
        (∀ x, u.tenant? 1 = some x → x.quotas = ⟨256, 8, 8, 0, 2, 4096⟩)) ∧
    (a.boot.stage ≠ .running ∨ a.boot.fwReady = true → exec (.firmwareReady dt) s = .next a) ∧
    (a.boot.stage = .running → a.boot.fwReady = false → a.boot.cbiApplied = false → a.boot.cbi ≠ [] →
      let off := a.modBoot (fun b => { b with cbiApplied := true })
      let bh := fieldU a.boot.cbi 12 1
      (bootHeaderOk a.boot.cbi = false → exec (.cartoucheBootImageApply dt) s = .next off) ∧
      (bootHeaderOk a.boot.cbi = true →
        let run := (a.modBoot (fun b => { b with applying := true })).bootRecords bh (fieldU a.boot.cbi 6 2) 0
        (run = none → exec (.cartoucheBootImageApply dt) s = .next off) ∧
        ∀ u, run = some u → exec (.cartoucheBootImageApply dt) s = .next { u with
          boot := { u.boot with applying := false, cbiApplied := true }, disp := { u.disp with bootHead := some bh } })) ∧
    (a.boot.fwReady = true ∨ a.boot.cbi = [] → exec (.cartoucheBootImageApply dt) s = .next a) ∧
    (a.boot.resetLow = false →
      exec (.pcieLinkUp dt) s = .next (a.modBoot (fun b => { b with pcieUp := true, perst := false })) ∧
      exec (.perstAssert dt) s = .next (State.endGrants (State.detachTenants { a with
        boot := { a.boot with perst := true, pcieUp := false }
        dev := { a.dev with msix := [], pba := [], pasid0 := 0, pasid1 := 0, pasidLock := false } }))) ∧
    (a.boot.resetLow = true → exec (.pcieLinkUp dt) s = .next a ∧ exec (.perstAssert dt) s = .next a) ∧
    (p < 160 → exec (.pinLevelChange dt p lv) s =
      .next (if (a.pinLevel p lv).2 then (a.pinLevel p lv).1.slotsFire p else (a.pinLevel p lv).1)) ∧
    (a.power.servicePinLow = lv → exec (.pinLevelChange dt 160 lv) s = .next { a with
      power := { a.power with servicePinLow := !lv, servicePinAt := a.now } }) ∧
    (a.power.servicePinLow = !lv → exec (.pinLevelChange dt 160 lv) s = .next a) ∧
    (let j (op : JtagOp) := exec (.jtagAccess dt op) s
     let out (w : Word) : State := { a with boot := { a.boot with jtagData := w } }
     let awake := a.power.mode = .tell ∨ a.power.mode = .drive ∨ a.power.mode = .service
     j .bypass = .next a ∧ j .sample = .next a ∧
     (awake → a.boot.resetLow = false → j .idcode = .next (out Config.idcode) ∧ j .bootstat = .next (out a.boot.bootstat)) ∧
     (a.boot.resetLow = true → j .idcode = .next a ∧ j .bootstat = .next a) ∧
     (awake → a.boot.resetLow = false → a.boot.deviceSession = true →
       let seen (d : Option Nat) : State := a.modBoot (fun b => match d with
         | none => b
         | some d => { b with observed := if b.observed.contains d then b.observed else b.observed ++ [d] })
       j (.readCp k) = .next ((seen (some 1)).jtagOut (a.cp.regs.numbered k)) ∧
       (let b := seen (a.memoryDomain addr)
        ∀ bs, b.placeRead (.phys addr) 4 = .ok bs →
         j (.readMem addr) = .next ((b.noteRead addr 4).jtagOut (word (leNat bs)))) ∧
       (∀ u, unitAt addr = some u →
         let b := seen (unitDomain u.1.1 u.1.2)
         j (.readReg addr) = .next ((b.readReg u).2.jtagOut (b.readReg u).1))) ∧
     (awake → a.boot.resetLow = false → a.boot.deviceSession = true → a.boot.lifecycle ≠ .secured ∨ a.power.mode = .service →
       (a.physOk addr 4 = true → j (.writeMem addr v) = .next (a.physWrite addr (leBytes 4 v.toNat))) ∧
       (∀ u, unitAt addr = some u → j (.writeReg addr v) = .next (a.writeReg u v)) ∧
       j .haltCp = .next { a with boot := { a.boot with cpHalted := true, cpStep := false } } ∧
       j .resumeCp = .next { a with boot := { a.boot with cpHalted := false, cpStep := false } } ∧
       (a.boot.cpHalted = true → j .stepCp = .next { a with boot := { a.boot with cpStep := true } }) ∧
       j (.boundaryTest on) = .next { a with boot := { a.boot with extest := on } }) ∧
     (a.boot.deviceSession = false → j (.readCp k) = .next a ∧ j (.readMem addr) = .next a ∧ j (.readReg addr) = .next a ∧
       j (.writeMem addr v) = .next a ∧ j (.writeReg addr v) = .next a ∧ j .haltCp = .next a ∧ j .stepCp = .next a ∧
       j .resumeCp = .next a ∧ j (.boundaryTest on) = .next a))

/-- R234, R245, Table 9.4. A stack instruction that finds its operands and room for its result gives the thread the stack that
the table writes, top first here, and PC the next instruction; every other register, flag and pointer stands. Where the spec
leaves a point open it holds of the model's choice there (assumption 35). -/
def Obligations.StackInstructionsComplete : Prop :=
  ∀ (who : CoreRef) (s : State) (r : TRegs), s.coreRegs? who = some r → s.canIssue 1 1 who = true →
    let gives (q : TRegs) : Host.Outcome State Fault Refusal := .next (s.issued 1 1 who { q with pc := r.pc + 2 })
    exec (.nopInstruction who) s = gives r ∧
    (∀ a xs, r.ds = a :: xs → exec (.drop who) s = gives (r.setDs xs)) ∧
    (∀ a xs, r.ds = a :: xs → r.ds.length < r.cap → exec (.dup who) s = gives (r.setDs (a :: a :: xs))) ∧
    (∀ a b xs, r.ds = b :: a :: xs → exec (.swap who) s = gives (r.setDs (a :: b :: xs))) ∧
    (∀ a b xs, r.ds = b :: a :: xs → r.ds.length < r.cap → exec (.overOp who) s = gives (r.setDs (a :: b :: a :: xs))) ∧
    (∀ a b c xs, r.ds = c :: b :: a :: xs → exec (.rot who) s = gives (r.setDs (a :: c :: b :: xs))) ∧
    (∀ a b xs, r.ds = b :: a :: xs → exec (.nip who) s = gives (r.setDs (b :: xs))) ∧
    (∀ a b xs, r.ds = b :: a :: xs → r.ds.length < r.cap → exec (.tuck who) s = gives (r.setDs (b :: a :: b :: xs))) ∧
    (∀ (n : BitVec 5) a, r.ds[n.toNat]? = some a → r.ds.length < r.cap → exec (.pick who n) s = gives (r.setDs (a :: r.ds))) ∧
    (r.ds.length < r.cap → exec (.depth who) s = gives (r.setDs (word r.ds.length :: r.ds))) ∧
    (∀ a xs, r.ds = a :: xs → r.r.length < 16 → exec (.tor who) s = gives { r.setDs xs with r := a :: r.r }) ∧
    (∀ a xs, r.r = a :: xs → r.ds.length < r.cap → exec (.fromr who) s = gives { r.setDs (a :: r.ds) with r := xs }) ∧
    (∀ a xs, r.r = a :: xs → r.ds.length < r.cap → exec (.rfetch who) s = gives (r.setDs (a :: r.ds))) ∧
    (∀ a xs, r.r = a :: xs → exec (.rdrop who) s = gives { r with r := xs })

/-- R234, R235, Table 9.4. An ALU instruction that finds its operands replaces them by its exact result, advances PC, and on the
Peg core sets the flags of that result; every other register stands. Operands a below b, TOS at the right. -/
def Obligations.AluInstructionsComplete : Prop :=
  ∀ (who : CoreRef) (s : State) (r : TRegs), s.coreRegs? who = some r →
    let gives (cost : Nat) (v : Word) (xs : List Word) : Host.Outcome State Fault Refusal := .next (s.issued 1 cost who
      { r.setDs (v :: xs) with
        pc := r.pc + 2
        z := if who = .peg then decide (v = 0) else r.z
        n := if who = .peg then v.msb else r.n })
    let toCV (v : Word) (c o : Bool) (xs : List Word) : Host.Outcome State Fault Refusal := .next (s.issued 1 1 who
      { r.setDs (v :: xs) with
        pc := r.pc + 2
        z := if who = .peg then decide (v = 0) else r.z
        n := if who = .peg then v.msb else r.n
        c := if who = .peg then c else r.c
        v := if who = .peg then o else r.v })
    (s.canIssue 1 1 who = true → ∀ a b xs, r.ds = b :: a :: xs →
      exec (.add who) s = toCV (a + b) (decide (2 ^ 32 ≤ a.toNat + b.toNat)) (BitVec.saddOverflow a b) xs ∧
      exec (.sub who) s = toCV (a - b) (decide (b.toNat ≤ a.toNat)) (BitVec.ssubOverflow a b) xs ∧
      exec (.andOp who) s = gives 1 (a &&& b) xs ∧ exec (.orOp who) s = gives 1 (a ||| b) xs ∧
      exec (.xorOp who) s = gives 1 (a ^^^ b) xs ∧
      exec (.shl who) s = gives 1 (a <<< (b.toNat % 32)) xs ∧ exec (.shr who) s = gives 1 (a >>> (b.toNat % 32)) xs ∧
      exec (.sar who) s = gives 1 (a.sshiftRight (b.toNat % 32)) xs ∧
      exec (.mul who) s = gives 1 (a * b) xs ∧
      exec (.min who) s = gives 1 (if a.slt b then a else b) xs ∧ exec (.max who) s = gives 1 (if a.slt b then b else a) xs ∧
      exec (.minu who) s = gives 1 (if a.ult b then a else b) xs ∧ exec (.maxu who) s = gives 1 (if a.ult b then b else a) xs ∧
      exec (.slt who) s = gives 1 (if a.slt b then 1 else 0) xs ∧ exec (.sltu who) s = gives 1 (if a.ult b then 1 else 0) xs) ∧
    (who ≠ .peg → s.canIssue 1 2 who = true → ∀ a b xs, r.ds = b :: a :: xs →
      exec (.mulhu who) s = gives 2 ((a.zeroExtend 64 * b.zeroExtend 64).extractLsb' 32 32) xs ∧
      exec (.mulhs who) s = gives 2 ((a.signExtend 64 * b.signExtend 64).extractLsb' 32 32) xs) ∧
    (who ≠ .peg → s.canIssue 1 18 who = true → ∀ a b xs, r.ds = b :: a :: xs →
      exec (.divu who) s = gives 18 (if b = 0 then 0xFFFFFFFF else a / b) xs ∧
      exec (.divs who) s = gives 18 (if b = 0 then 0xFFFFFFFF else a.sdiv b) xs ∧
      exec (.remu who) s = gives 18 (if b = 0 then a else a % b) xs ∧
      exec (.rems who) s = gives 18 (if b = 0 then a else a.srem b) xs) ∧
    (s.canIssue 1 1 who = true → ∀ a xs, r.ds = a :: xs →
      exec (.notOp who) s = gives 1 (~~~a) xs ∧
      exec (.neg who) s = toCV (-a) (decide (a = 0)) (BitVec.ssubOverflow 0 a) xs ∧
      exec (.abs who) s = gives 1 (if a.slt 0 then -a else a) xs ∧ exec (.clz who) s = gives 1 (BitVec.clz a) xs ∧
      exec (.sext8 who) s = gives 1 ((a.truncate 8).signExtend 32) xs ∧
      exec (.sext16 who) s = gives 1 ((a.truncate 16).signExtend 32) xs)

/-- R235, Tables 9.4 and 9.6. The small profile's own instructions, on the Peg core: CMP and TST discard the result and keep its
flags; ADC and SBC take the carry in; a B*cc* pops nothing and goes by the flags. Where the spec leaves a point open it holds
of the model's choice there (assumption 35). -/
def Obligations.SmallProfileInstructionsComplete : Prop :=
  ∀ (s : State) (r : TRegs), s.peg.regs = r → s.canIssue 1 1 .peg = true →
    let gives (q : TRegs) : Host.Outcome State Fault Refusal := .next (s.issued 1 1 .peg q)
    let flags (v : Word) (c o : Bool) (q : TRegs) : TRegs :=
      { q with pc := r.pc + 2, z := decide (v = 0), n := v.msb, c := c, v := o }
    let cin : Nat := if r.c then 1 else 0
    let outside (i : Int) : Bool := decide (i < -2147483648 ∨ 2147483647 < i)
    (∀ a b xs, r.ds = b :: a :: xs →
      exec (.cmp .peg) s = gives (flags (a - b) (decide (b.toNat ≤ a.toNat)) (BitVec.ssubOverflow a b) (r.setDs xs)) ∧
      exec (.tst .peg) s = gives (flags (a &&& b) r.c r.v (r.setDs xs)) ∧
      exec (.adc .peg) s = gives (flags (a + b + BitVec.ofNat 32 cin) (decide (2 ^ 32 ≤ a.toNat + b.toNat + cin))
        (outside (a.toInt + b.toInt + cin)) (r.setDs ((a + b + BitVec.ofNat 32 cin) :: xs))) ∧
      exec (.sbc .peg) s = gives (flags (a - b - BitVec.ofNat 32 (1 - cin)) (decide (b.toNat + (1 - cin) ≤ a.toNat))
        (outside (a.toInt - b.toInt - (1 - cin : Nat))) (r.setDs ((a - b - BitVec.ofNat 32 (1 - cin)) :: xs)))) ∧
    (∀ (cc : BitVec 4) (off : BitVec 8),
      let taken : Bool := match cc.toNat with
        | 0 => r.z | 1 => !r.z | 2 => r.c | 3 => !r.c | 4 => r.n | 5 => !r.n | 6 => r.v | 7 => !r.v
        | 8 => r.c && !r.z | 9 => !r.c || r.z | 10 => decide (r.n = r.v) | 11 => decide (r.n ≠ r.v)
        | 12 => !r.z && decide (r.n = r.v) | 13 => r.z || decide (r.n ≠ r.v) | _ => true
      let target := r.pc + 2 + 2 * off.signExtend 32
      cc ≠ 15 →
        (taken = false → exec (.bcc .peg cc off) s = gives { r with pc := r.pc + 2 }) ∧
        (taken = true → target.getLsbD 0 = false → target.toNat < 0x10000 →
          exec (.bcc .peg cc off) s = gives { r with pc := target }))

/-- R226, R234, R236, Table 9.4. A literal is pushed; a P register is read, written and added to. Every other register stands.
Where the spec leaves a point open it holds of the model's choice there (assumption 35). -/
def Obligations.LiteralAndPointerInstructionsComplete : Prop :=
  ∀ (who : CoreRef) (s : State) (r : TRegs), s.coreRegs? who = some r →
    let gives (cost : Nat) (q : TRegs) : Host.Outcome State Fault Refusal :=
      .next (s.issued cost cost who { q with pc := r.pc + word (2 * cost) })
    (r.ds.length < r.cap →
      (s.canIssue 1 1 who = true → ∀ v : BitVec 11, exec (.lits who v) s = gives 1 (r.setDs (v.signExtend 32 :: r.ds))) ∧
      (s.canIssue 2 2 who = true → ∀ x : Half,
        exec (.lit16 who x) s = gives 2 (r.setDs (x.zeroExtend 32 :: r.ds)) ∧
        exec (.lit16s who x) s = gives 2 (r.setDs (x.signExtend 32 :: r.ds))) ∧
      (s.canIssue 3 3 who = true → ∀ x : Word, exec (.lit32 who x) s = gives 3 (r.setDs (x :: r.ds))) ∧
      (s.canIssue 1 1 who = true → ∀ p : BitVec 3, exec (.pget who p) s = gives 1 (r.setDs (r.ptr p.toNat :: r.ds)))) ∧
    (s.canIssue 1 1 who = true → ∀ (p : BitVec 3),
      (∀ a xs, r.ds = a :: xs →
        exec (.pset who p) s = gives 1 ((r.setDs xs).setPtr p.toNat a) ∧
        exec (.padd who p) s = gives 1 ((r.setDs xs).setPtr p.toNat (r.ptr p.toNat + a))) ∧
      (∀ k : BitVec 5, exec (.paddi who p k) s = gives 1 (r.setPtr p.toNat (r.ptr p.toNat + k.signExtend 32))))

/-- R231, R236, R244, R399, Table 9.4. A load from P*n* + *k* × size that finds room on the stack and a readable place: on a tab
core it charges one slot for each half of the access and parks the thread; on the Peg core it pushes the bytes read, as an
unsigned or a signed value, in one issue. (What a CP load reads the spec does not state: the value is free, assumption 33.) -/
def Obligations.LoadInstructionsComplete : Prop :=
  ∀ (who : CoreRef) (s : State) (r : TRegs), s.coreRegs? who = some r → r.ds.length < r.cap →
    let loads (i : Instr) (p k size : Nat) (sext post : Bool) : Prop :=
      let a := (r.ptr p + word (k * size)).toNat
      let r' := if post then r.setPtr p (r.ptr p + 4) else r
      let value (n : Nat) : Word := if sext then wordI (signed (8 * size) n) else word n
      let pushed (n : Nat) : TRegs := { r'.setDs (value n :: r.ds) with pc := r.pc + 2 }
      (∀ h slot x xs, who = .tab h slot → s.thread? h slot = some x → x.spots false a size = some xs →
        s.canIssue 1 (halves a size).length who = true →
        let n := (halves a size).length
        let paid := s.spent h slot (4 * n) n x
        exec i s = .next (paid.modThread h slot (fun x => { x with
          park := some (.load (paid.issueReqs x.owner xs) size sext (if post then some p else none) 1 none) }))) ∧
      (∀ bs : List Byte, who = .peg → s.canIssue 1 1 who = true → bs.length = size →
        (∀ j, j < size → s.pegByte ((a + j) % 2 ^ 32) = bs[j]?) → exec i s = .next (s.issued 1 1 .peg (pushed (leNat bs)))) ∧
      (who = .cp → s.canIssue 1 1 who = true →
        exec i s = .next (({ s.cpSpendStep with freeCount := s.freeCount + 1 } : State).setCpRegs
          (pushed (leNat (leBytes size (Config.freeValue s.freeCount))))))
    (∀ (p : BitVec 3) (k : BitVec 5),
      loads (.ld32 who p k) p.toNat k.toNat 4 false false ∧ loads (.ld16u who p k) p.toNat k.toNat 2 false false ∧
      loads (.ld16s who p k) p.toNat k.toNat 2 true false ∧ loads (.ld8u who p k) p.toNat k.toNat 1 false false ∧
      loads (.ld8s who p k) p.toNat k.toNat 1 true false ∧ loads (.ld32p who p) p.toNat 0 4 false true)

/-- R231, R236, R244, R399, Table 9.4. A store to P*n* + *k* × size: on a tab core the low bytes of TOS are in the places that
the address names, in order, and every other byte of memory reads as before; on the Peg core each byte goes to its register
or memory; TOS is popped and PC advances. Where the spec leaves a point open it holds of the model's choice there
(assumptions 33 and 35). -/
def Obligations.StoreInstructionsComplete : Prop :=
  ∀ (who : CoreRef) (s : State) (r : TRegs) (v : Word) (vs : List Word), s.coreRegs? who = some r → r.ds = v :: vs →
    let stores (i : Instr) (p k size : Nat) (post : Bool) : Prop :=
      let a := (r.ptr p + word (k * size)).toNat
      let r' := if post then (r.setDs vs).setPtr p (r.ptr p + 4) else r.setDs vs
      let q : TRegs := { r' with pc := r.pc + 2 }
      (∀ h slot x xs, who = .tab h slot → s.thread? h slot = some x → x.spots true a size = some xs →
        s.canIssue 1 (halves a size).length who = true →
        let n := (halves a size).length
        let u := (s.spent h slot (4 * n) n x).spotWrite xs (leBytes size v.toNat)
        ∃ t, exec i s = .next t ∧ t = (u.setRegs h slot q).tabAfter h slot ∧ (s.dyingTenants = [] → t.mem = u.mem) ∧
          xs.flatMap (fun e => match e with | .phys b n => Mem.readRun u.mem.phys b n | .asset _ _ => []) =
            leBytes size v.toNat ∧
          (∀ y, (∀ e ∈ xs, match e with | .phys b n => y < b ∨ b + n ≤ y | .asset _ _ => True) →
            Mem.read u.mem.phys y = Mem.read s.mem.phys y)) ∧
      (who = .peg → s.canIssue 1 1 who = true → (∀ j, j < size → pegWritable ((a + j) % 2 ^ 32) = true) →
        ∃ t, exec i s = .next t ∧
          t = (leBytes size v.toNat).zipIdx.foldl (fun z e => z.pegStore ((a + e.2) % 2 ^ 32) e.1) (s.setPegRegs q) ∧
          (a + size ≤ 0x10000 → t.mem = s.mem ∧ t.peg.regs = q ∧
            (∀ j, j < size → some (Mem.read t.peg.data (a + j)) = (leBytes size v.toNat)[j]?) ∧
            (∀ y, y < a ∨ a + size ≤ y → Mem.read t.peg.data y = Mem.read s.peg.data y))) ∧
      (who = .cp → s.canIssue 1 1 who = true → exec i s = .next (s.issued 1 1 .cp q))
    (∀ (p : BitVec 3) (k : BitVec 5),
      stores (.st32 who p k) p.toNat k.toNat 4 false ∧ stores (.st16 who p k) p.toNat k.toNat 2 false ∧
      stores (.st8 who p k) p.toNat k.toNat 1 false ∧ stores (.st32p who p) p.toNat 0 4 true)

/-- R229, R237, Tables 9.5 and 9.6. A branch pops its operands whether taken or not, and goes to the address after it plus twice
its offset where its condition holds; a jump and a call go to theirs, a call leaving the address after it on the return
stack; RET and the indirect forms take theirs from a stack. A target must be even and, on a tab core and the Peg core, lie in
the code segment. Where the spec leaves a point open it holds of the model's choice there (assumptions 33 and 35). -/
def Obligations.ControlTransfersComplete : Prop :=
  ∀ (who : CoreRef) (s : State) (r : TRegs), s.coreRegs? who = some r →
    let fits (target : Word) : Prop := target.getLsbD 0 = false ∧
      match who with
      | .tab h slot => ∀ k, s.thread? h slot = some k → target.toNat < k.codeSize
      | .peg => target.toNat < 0x10000
      | .cp => True
    let gives (cost : Nat) (q : TRegs) (pc : Word) : Host.Outcome State Fault Refusal := .next (s.issued cost cost who { q with pc := pc })
    let pushed (units : Nat) (q : TRegs) : TRegs := { q with r := (r.pc + word (2 * units)) :: r.r }
    let branch (i : Instr) (taken : Bool) (off : BitVec 9) (xs : List Word) : Prop :=
      let target := r.pc + 2 + 2 * off.signExtend 32
      (taken = false → exec i s = gives 1 (r.setDs xs) (r.pc + 2)) ∧ (taken = true → fits target → exec i s = gives 1 (r.setDs xs) target)
    (who ≠ .peg → s.canIssue 1 1 who = true → ∀ (off : BitVec 9),
      (∀ a b xs, r.ds = b :: a :: xs →
        branch (.beq who off) (decide (a = b)) off xs ∧ branch (.bne who off) (decide (a ≠ b)) off xs ∧
        branch (.blt who off) (a.slt b) off xs ∧ branch (.bge who off) (b.sle a) off xs ∧
        branch (.bltu who off) (a.ult b) off xs ∧ branch (.bgeu who off) (b.ule a) off xs) ∧
      (∀ a xs, r.ds = a :: xs →
        branch (.bz who off) (decide (a = 0)) off xs ∧ branch (.bnz who off) (decide (a ≠ 0)) off xs)) ∧
    (s.canIssue 1 1 who = true →
      (∀ off : BitVec 10, let target := r.pc + 2 + 2 * off.signExtend 32
        fits target → exec (.jmp who off) s = gives 1 r target ∧
          (r.r.length < 16 → exec (.call who off) s = gives 1 (pushed 1 r) target)) ∧
      (∀ a xs, r.ds = a :: xs → fits a → exec (.jmpi who) s = gives 1 (r.setDs xs) a ∧
          (r.r.length < 16 → exec (.calli who) s = gives 1 (pushed 1 (r.setDs xs)) a)) ∧
      (∀ a xs, r.r = a :: xs → fits a → exec (.ret who) s = gives 1 { r with r := xs } a)) ∧
    (s.canIssue 3 3 who = true → ∀ target : Word, fits target →
      exec (.jmpl who target) s = gives 3 r target ∧
      (r.r.length < 16 → exec (.calll who target) s = gives 3 (pushed 3 r) target))

/-- R239, R240, Table 9.7. The raster instructions, on a tab core: a PWRITE or PALW pops its operands and joins the writes for
the line served, or, where it would change nothing, sets SW.wr_ign; LINE pushes the line served; WAITL ends the wake, with PC
past it and every other register kept. Where the spec leaves a point open it holds of the model's choice there (assumption
35). -/
def Obligations.RasterInstructionsComplete : Prop :=
  ∀ (h slot : Nat) (s : State) (k : Thread), s.thread? h slot = some k → s.canIssue 1 1 (.tab h slot) = true →
    let who := CoreRef.tab h slot
    let r := k.regs
    let ran (q : TRegs) : State := (s.spent h slot 4 1 k).setRegs h slot { q with pc := r.pc + 2 }
    let writes (i : Instr) (w : LWrite) (id : Nat) (xs : List Word) : Prop :=
      ((s.lineWrite h k.owner w).2 = true →
        exec i s = .next (((ran (r.setDs xs)).modTabs h (fun x => { x with
          writes := insertWrite ⟨k.owner, s.tabLine h k, w, slotCore slot, s.issueCycle h slot k⟩ x.writes })).tabAfter h slot)) ∧
      ((s.lineWrite h k.owner w).2 = false →
        exec i s = .next ((((ran (r.setDs xs)).modThread h slot (fun x => { x with
          regs := { x.regs with wrIgn := true } })).modHead h (fun x => { x with
          cur := { x.cur with tabIgn := addTally x.cur.tabIgn slot 1 (s.tabLine h k) id 0 } })).tabAfter h slot))
    (∀ (id : Byte) v hd xs, r.ds = v :: hd :: xs →
      writes (.pwrite who id) (.param hd.toNat id.toNat v.toNat) id.toNat xs) ∧
    (∀ v n xs, r.ds = v :: n :: xs → writes (.palw who) (.pal (n.toNat % 2 ^ 14) v.toNat) 0xFFFFFFFF xs) ∧
    (r.ds.length < r.cap →
      exec (.line who) s = .next ((ran (r.setDs (word (s.tabLine h k) :: r.ds))).tabAfter h slot)) ∧
    exec (.waitl who) s = .next (((s.spent h slot 4 1 k).modThread h slot (fun x =>
      let x := { x with regs := { x.regs with pc := r.pc + 2 } }
      if x.fast.isSome then
        let x := if x.wakes.isEmpty then x else
          { x with wakes := [], lastCharge := min 0xFFFF x.charge, charge := 0, wasWaiting := true }
        { x with state := .waiting, park := some .wake }
      else { x with state := .waiting, wakes := [], lastCharge := min 0xFFFF x.charge, charge := 0 })).tabAfter h slot)

/-- R232, R233, R241, R272, R519, Tables 9.2 and 9.7. FLUSH and YIELD go on with PC past them; a FENCE parks a tab thread until
its stores are accepted, and goes on at once on the other cores; a TRAP keeps its number and raises fault cause 8, or, where
it is 0 and a debug session is open, halts the tab thread; RETI takes SW and PC from the return stack; SWGET pushes SW as
Table 9.2 lays it out; SWSET writes its bits 5:0; IDLE stops the issue of the Peg core or the CP. Where the spec leaves a
point open it holds of the model's choice there (assumption 35). -/
def Obligations.SystemInstructionsComplete : Prop :=
  ∀ (who : CoreRef) (s : State) (r : TRegs), s.coreRegs? who = some r →
    let gives (cost : Nat) (q : TRegs) : Host.Outcome State Fault Refusal := .next (s.issued 1 cost who { q with pc := r.pc + 2 })
    let flagged (w : Word) (q : TRegs) : TRegs := { q with
      wrIgn := w.getLsbD 5
      ie := match who with | .tab _ _ => q.ie | _ => w.getLsbD 4
      v := if who = .peg then w.getLsbD 3 else q.v
      c := if who = .peg then w.getLsbD 2 else q.c
      n := if who = .peg then w.getLsbD 1 else q.n
      z := if who = .peg then w.getLsbD 0 else q.z }
    let paid : State := match who with
      | .tab h slot => (match s.thread? h slot with | none => s | some k => s.spent h slot 4 1 k)
      | _ => s
    (s.canIssue 1 8 who = true → exec (.flush who) s = gives 8 r) ∧
    (s.canIssue 1 1 who = true →
      exec (.yield who) s = (match who with
        | .tab h slot => .next ((paid.modThread h slot (fun x => { x with
            regs := { x.regs with pc := r.pc + 2 }, yielded := paid.corePeers h slot })).tabAfter h slot)
        | _ => gives 1 r) ∧
      exec (.fence who) s = (match who with
        | .tab h slot => .next (paid.modThread h slot (fun x => { x with park := some .fence }))
        | _ => gives 1 r) ∧
      (∀ t : Byte, exec (.trap who t) s = .next (match who with
        | .tab h slot =>
          if t = 0 ∧ (∃ k, s.thread? h slot = some k ∧ s.debugOpen k.owner h = true) then paid.haltThread h slot 3
          else (paid.modThread h slot (fun x => { x with
            regs := { x.regs with trap := t.toNat } })).faultThread h slot 8
        | .peg => (s.setPegRegs { r with trap := t.toNat }).pegFault 8
        | .cp => (s.cpSpendStep.setCpRegs { r with trap := t.toNat }).cpFault 8)) ∧
      (∀ sw pc rest, r.r = sw :: pc :: rest → pc.getLsbD 0 = false →
        (match who with
          | .tab h slot => ∀ k, s.thread? h slot = some k → pc.toNat < k.codeSize
          | .peg => pc.toNat < 0x10000
          | .cp => True) →
        let q : TRegs := { flagged sw { r with r := rest, pc := pc } with fast := sw.getLsbD 7 }
        exec (.reti who) s = .next (match who with
          | .tab h slot => ((paid.setRegs h slot q).modThread h slot Thread.afterReti).tabAfter h slot
          | .peg => s.setPegRegs q
          | .cp => (s.cpSpendStep.setCpRegs q).endEntry)) ∧
      (r.ds.length < r.cap → ∃ w : Word, exec (.swget who) s = gives 1 (r.setDs (w :: r.ds)) ∧
        (r.fault < 16 → r.r.length < 32 → r.ds.length < 64 →
          w.toNat / 2 ^ 28 = r.fault ∧ w.toNat / 2 ^ 16 % 2 ^ 12 = r.r.length ∧ w.toNat / 2 ^ 8 % 2 ^ 8 = r.ds.length ∧
          w.getLsbD 7 = r.fast ∧ w.getLsbD 6 = false ∧ w.getLsbD 5 = r.wrIgn ∧ w.getLsbD 4 = r.ie ∧ w.getLsbD 3 = r.v ∧
          w.getLsbD 2 = r.c ∧ w.getLsbD 1 = r.n ∧ w.getLsbD 0 = r.z)) ∧
      (∀ w xs, r.ds = w :: xs → exec (.swset who) s = gives 1 (flagged w (r.setDs xs))) ∧
      (who = .peg → exec (.idle who) s =
        .next { s.setPegRegs { r with pc := r.pc + 2 } with peg := { (s.setPegRegs { r with pc := r.pc + 2 }).peg with idle := true } }) ∧
      (who = .cp → exec (.idle who) s =
        .next { s.cpSpendStep with cp := { s.cp with regs := { r with pc := r.pc + 2 }, idle := true } }))

/-- R228, R231, R232, R241, R266. A unit that its core does not run raises fault cause 5. A load that returns its data pushes it,
advances its pointer in the form that does, and lets the thread go on after the load; a FENCE completes with PC past it, or
faults with cause 9 for a poisoned store. A thread whose next instruction does not fit its budget faults with cause 10, or,
carrying over, waits for its next wake. Where the spec leaves a point open it holds of the model's choice there (assumptions
35 and 36). -/
def Obligations.TabReturnRowsComplete : Prop :=
  (∀ (who : CoreRef) (u : Half) (s : State), s.legalUnit who u.toNat = false → s.canIssue 1 1 who = true →
    exec (.illegalInstruction who u) s = .next (s.faulted 1 1 5 who)) ∧
  (∀ (dt h slot : Nat) (s : State) (k : Thread), (s.tick dt).thread? h slot = some k →
    let a := s.tick dt
    (∀ reqs size sext post units bs, k.park = some (.load reqs size sext post units none) →
      (a.noteReqs reqs).reqRead reqs = .ok bs → k.regs.ds.length < k.regs.cap →
      let r := match post with
        | some p => k.regs.setPtr p (k.regs.ptr p + 4)
        | none => k.regs
      let v : Word := if sext then wordI (signed (8 * size) (leNat bs)) else word (leNat bs)
      exec (.loadReturn dt h slot .data) s = .next (((a.noteReqs reqs).modThread h slot (fun x => { x with
        park := none
        regs := { r.setDs (v :: k.regs.ds) with pc := r.pc + word (2 * units) } })).tabAfter h slot).advanced) ∧
    (k.park = some .fence →
      exec (.fenceComplete dt h slot false) s = .next ((a.modThread h slot (fun k => { k with
        park := none, regs := { k.regs with pc := k.regs.pc + 2 } })).tabAfter h slot) ∧
      exec (.fenceComplete dt h slot true) s =
        .next ((a.modThread h slot (fun k => { k with park := none })).faultThread h slot 9)) ∧
    (∀ charge, a.tabReady h slot k = true → k.limit < k.spent + charge →
      exec (.tabBudgetOverrun dt h slot charge) s = .next (if k.fast.isSome then a.faultThread h slot 10 else
        let b := a.modHead h (fun x => { x with cur := { x.cur with
          tabOver := addTally x.cur.tabOver slot 1 k.line (bitN k.set.carry) 0 } })
        if k.set.carry then b.modThread h slot (fun x => { x with
          state := .waiting, wakes := [], lastCharge := min 0xFFFF x.charge, charge := 0 }) else b.faultThread h slot 10)))

/-- R242, R243, R264, R400, R460 to R464. An entry is taken where a pending source's class may enter and two return-stack entries
are free: PC and SW are pushed, SW.ie is cleared, a fast entry selects its empty shadow stack, and PC takes the handler of
the highest source pending once the arrivals count. Where fewer are free the thread faults with cause 3. Where the spec
leaves a point open it holds of the model's choice there (assumptions 5 and 36). -/
def Obligations.CoreEntryCompletes : Prop :=
  ∀ (dt : Nat) (arrivals : List Nat) (s : State),
    let a := s.tick dt
    let entered (fast : Bool) (handler : Word) (r : TRegs) : TRegs := { r with
      r := r.sw :: r.pc :: r.r, ie := false, pc := handler, fast := r.fast || fast, sd := if fast then [] else r.sd }
    (∀ h slot k, a.thread? h slot = some k → k.running = true → k.state = .waiting ∨ k.state = .serving → k.regs.fast = false →
      (∀ x y z p u c, k.park ≠ some (.load x y z p u (some c))) → k.pending ≠ [] → (a.head h).cluster.isSome = true →
      a.power.mode = .drive ∨ a.power.mode = .service →
      let mine := arrivals.filter (fun i => (i = 0 && k.set.fret0 ≠ 0xFF) || (i = 1 && k.set.fret1 ≠ 0xFF))
      let all := k.pending ++ mine.filter (fun i => !k.pending.contains i)
      let src := if all.contains 0 then 0 else 1
      exec (.coreEntry dt (.tab h slot) arrivals) s = .next (if k.regs.r.length + 2 ≤ 16 then a.modThread h slot (fun k => { k with
        regs := entered true (if src = 0 then k.set.handler0 else k.set.handler1) k.regs
        fast := some src, pending := all.filter (· != src), park := none, fastCharge := 0, wasWaiting := k.state = .waiting })
        else (a.modThread h slot (fun k => { k with park := none })).faultThread h slot 3)) ∧
    (a.peg.running = true → a.pegAwake = true →
      let may (i : Nat) : Bool := if i = 5 then !a.peg.regs.fast else a.peg.regs.ie
      a.peg.pending.any may = true →
      let all := a.peg.pending ++ arrivals.filter (fun i => decide (1 ≤ i) && decide (i ≤ 5))
      let src := (all.filter may).foldl max 0
      exec (.coreEntry dt .peg arrivals) s = .next (if a.peg.regs.r.length + 2 ≤ 16 then { a with peg := { a.peg with
        regs := entered (src = 5) (word (leNat (Mem.readRun a.peg.code (4 * src) 4))) a.peg.regs
        pending := all.erase src, idle := false } } else a.pegFault 3)) ∧
    (({ a with cp := { a.cp with idle := false } } : State).cpReady = true → a.intcStopped = false →
      (a.chooseFor (!a.cp.regs.fast) a.cp.regs.ie).isSome = true →
      let b := arrivals.foldl (fun s i => s.sourceEvent i true) a
      (16 < a.cp.regs.r.length + 2 → exec (.coreEntry dt .cp arrivals) s = .next (b.cpFault 3)) ∧
      (∀ i, a.cp.regs.r.length + 2 ≤ 16 → b.chooseFor (!a.cp.regs.fast) a.cp.regs.ie = some i →
        exec (.coreEntry dt .cp arrivals) s = .next { ({ b with freeCount := b.freeCount + 1 } : State).takeSource i with
          cp := { regs := entered (b.src i).fast (word (Config.freeValue b.freeCount) &&& 0xFFFFFFFE) a.cp.regs, idle := false } }))

/-- R227, R244, R247, R249, Table 9.11. A custom instruction that passes the checks at its issue runs the micro-ops of its entry;
on the CP, whose customs the spec calls firmware's own, it ends at the next instruction with the return stack kept and any
data stack and pointers (assumption 33). The worked example of chapter 09: an entry of 0x03180440 whose micro-ops push the
immediate, shift and add turns ( base y ) into ( base + (y << imm) ) in one instruction, charged its unit and three
micro-ops. -/
def Obligations.CustomInstructionCompletes : Prop :=
  (∀ (s : State) (c : BitVec 5) (imm : BitVec 7) (ext : Word), s.canIssue 1 1 .cp = true →
    ∃ t, exec (.customInstruction .cp c imm ext) s = .next t ∧ t.cp.regs.pc = s.cp.regs.pc + 2 ∧ t.cp.regs.r = s.cp.regs.r ∧
      t.cp.regs.ds.length ≤ t.cp.regs.cap ∧ { t with cp := s.cp, freeCount := s.freeCount } = s.cpSpendStep) ∧
  ∀ (h slot : Nat) (s : State) (k : Thread) (c : BitVec 5) (imm : BitVec 7) (ext : Word), s.thread? h slot = some k →
    let who := CoreRef.tab h slot
    let r := k.regs
    let n := (s.customExt c.toNat ext).1
    let x := (s.customExt c.toNat ext).2
    let i : Word := imm.zeroExtend 32
    (∀ us, s.customCheck k c.toNat = .ok us →
      let cost := 1 + n + (s.microRun h slot i x true us 0 0).2.1
      s.canIssue (1 + n) cost who = true →
      exec (.customInstruction who c imm ext) s =
        .next (State.microEnd h slot (1 + n) ((s.spent h slot (max (4 * (1 + n)) cost) cost k).microRun h slot i x false us 0 0))) ∧
    (∀ y base xs, IMap.find? s.ucode.entries c.toNat = some 0x03180440 → IMap.get s.ucode.ops 0 0x40 = 0x10000000 →
      IMap.get s.ucode.ops 0 0x41 = 0x00001280 → IMap.get s.ucode.ops 0 0x42 = 0x80001000 →
      r.ds = y :: base :: xs → r.ds.length < r.cap → s.canIssue 1 4 who = true →
      exec (.customInstruction who c imm ext) s = .next (s.issued 1 4 who
        { r.setDs ((base + y <<< (imm.toNat % 32)) :: xs) with pc := r.pc + 2 }))

/-- R245, R229, Table 9.9. A fault is precise: SW.fault takes the cause, every other register of the thread and every byte of the
part's memory stand. An instruction that needs more entries than the data stack holds faults with cause 2, one that would
grow it above its capacity with cause 1; the return stack likewise with causes 4 and 3; a target that is odd, with cause 6.
Where the spec leaves a point open it holds of the model's choice there (assumption 35). -/
def Obligations.InstructionFaultsArePrecise : Prop :=
  ∀ (who : CoreRef) (s : State) (r : TRegs), s.coreRegs? who = some r →
    (∀ units cost cause, (∀ h slot, who = .tab h slot → s.dyingTenants = []) →
      (s.faulted units cost cause who).coreRegs? who = some { r with fault := cause } ∧
      ∀ y, Mem.read (s.faulted units cost cause who).mem.phys y = Mem.read s.mem.phys y) ∧
    (s.canIssue 1 1 who = true →
      let faults (i : Instr) (cause : Nat) : Prop := exec i s = .next (s.faulted 1 1 cause who)
      (r.ds = [] →
        faults (.drop who) 2 ∧ faults (.dup who) 2 ∧ faults (.tor who) 2 ∧ faults (.notOp who) 2 ∧ faults (.neg who) 2 ∧
        faults (.abs who) 2 ∧ faults (.clz who) 2 ∧ faults (.sext8 who) 2 ∧ faults (.sext16 who) 2 ∧ faults (.swset who) 2 ∧
        faults (.jmpi who) 2 ∧ faults (.calli who) 2 ∧ (∀ p, faults (.pset who p) 2 ∧ faults (.padd who p) 2)) ∧
      (r.ds.length < 2 →
        faults (.swap who) 2 ∧ faults (.overOp who) 2 ∧ faults (.nip who) 2 ∧ faults (.tuck who) 2 ∧ faults (.add who) 2 ∧
        faults (.sub who) 2 ∧ faults (.andOp who) 2 ∧ faults (.orOp who) 2 ∧ faults (.xorOp who) 2 ∧ faults (.shl who) 2 ∧
        faults (.shr who) 2 ∧ faults (.sar who) 2 ∧ faults (.mul who) 2 ∧ faults (.min who) 2 ∧ faults (.max who) 2 ∧
        faults (.minu who) 2 ∧ faults (.maxu who) 2 ∧ faults (.slt who) 2 ∧ faults (.sltu who) 2) ∧
      (r.ds.length < 3 → faults (.rot who) 2) ∧
      (∀ n : BitVec 5, r.ds.length ≤ n.toNat → faults (.pick who n) 2) ∧
      (r.ds.length = r.cap →
        faults (.dup who) 1 ∧ faults (.overOp who) 1 ∧ faults (.tuck who) 1 ∧ faults (.depth who) 1 ∧ faults (.swget who) 1 ∧
        (∀ v, faults (.lits who v) 1) ∧ (∀ p, faults (.pget who p) 1) ∧
        (∀ n : BitVec 5, n.toNat < r.ds.length → faults (.pick who n) 1) ∧
        (r.r ≠ [] → faults (.fromr who) 1 ∧ faults (.rfetch who) 1)) ∧
      (16 ≤ r.r.length →
        (r.ds ≠ [] → faults (.tor who) 3 ∧ faults (.calli who) 3) ∧ (∀ off, faults (.call who off) 3)) ∧
      (r.r = [] → faults (.fromr who) 4 ∧ faults (.rfetch who) 4 ∧ faults (.rdrop who) 4 ∧ faults (.ret who) 4) ∧
      (r.r.length < 2 → faults (.reti who) 4) ∧
      (∀ a xs, r.ds = a :: xs → a.getLsbD 0 = true → faults (.jmpi who) 6) ∧
      (∀ a xs, r.r = a :: xs → a.getLsbD 0 = true → faults (.ret who) 6))

/-- R225, R228, Table 9.1. An instruction outside its core's profile is illegal: it raises fault cause 5 and nothing else. Where
the spec leaves a point open it holds of the model's choice there (assumption 35). -/
def Obligations.ProfilesAreEnforced : Prop :=
  ∀ (who : CoreRef) (s : State), s.canIssue 1 1 who = true →
    let illegal (i : Instr) : Prop := exec i s = .next (s.faulted 1 1 5 who)
    (who = .peg →
      illegal (.mulhu who) ∧ illegal (.mulhs who) ∧ illegal (.divu who) ∧ illegal (.divs who) ∧ illegal (.remu who) ∧
      illegal (.rems who) ∧ (∀ off, illegal (.beq who off) ∧ illegal (.bne who off) ∧ illegal (.blt who off) ∧
        illegal (.bge who off) ∧ illegal (.bltu who off) ∧ illegal (.bgeu who off) ∧ illegal (.bz who off) ∧
        illegal (.bnz who off)) ∧ (∀ off, illegal (.bcc who 15 off))) ∧
    (who ≠ .peg →
      illegal (.cmp who) ∧ illegal (.tst who) ∧ illegal (.adc who) ∧ illegal (.sbc who) ∧
      (∀ cc off, illegal (.bcc who cc off))) ∧
    ((∀ h slot, who ≠ .tab h slot) →
      (∀ id, illegal (.pwrite who id)) ∧ illegal (.palw who) ∧ illegal (.waitl who) ∧ illegal (.line who)) ∧
    (who = .peg → ∀ c imm ext, illegal (.customInstruction who c imm ext)) ∧
    (∀ h slot, who = .tab h slot → illegal (.idle who))

/-- R51, Table 3.12. A command marked (P) in the command index is accepted only from tenant 0, one marked (S) only from tenant 1;
any other issuer, the safety and the platform tenant of each other's commands included, receives E_DENIED, and the command
does nothing else. -/
def Obligations.PrivilegesAreEnforced : Prop :=
  ∀ (i : Instr) (c : Cmd) (row : CommandRow) (s : State), commandOf i = some (c, row) →
    (s.fetched c row.op).mayProcess c (c.ref row.op) = true →
    let denied : Prop := exec i s = .next ((s.turn c row.op).complete (c.ref row.op) eDenied noField []).advanced
    (row.op ∈ [0x0102, 0x0103, 0x0104, 0x0105, 0x0106, 0x0107, 0x0203, 0x0502, 0x0503, 0x0603, 0x0704, 0x0801, 0x0802, 0x0806,
        0x0807, 0x0A01, 0x0A02, 0x0A03, 0x0B07, 0x0B08, 0x0C01, 0x0C02, 0x0C03, 0x0C04, 0x0D01, 0x0D02, 0x0D03, 0x0E04,
        0x0E05, 0x0F04, 0x1001, 0x1101, 0x1102, 0x1103] → c.tenant ≠ 0 → denied) ∧
    (row.op ∈ [0x0901, 0x0902, 0x0903, 0x0904, 0x0905, 0x0B0A] → c.tenant ≠ 1 → denied)

/-- R67. A non-zero extension count on a command that defines no extension is rejected with E_BADCMD at the flags field, and
CMD_HEAD stands past all the entries that the count claims. Where the spec leaves a point open it holds of the model's choice
there (assumption 2). -/
def Obligations.UnclaimedExtensionsAreRejected : Prop :=
  ∀ (i : Instr) (c : Cmd) (row : CommandRow) (s : State) (x : Tenant), commandOf i = some (c, row) →
    row.op ∉ [0x0303, 0x0404, 0x0B02, 0x1102] → c.ext ≠ 0 →
    (s.fetched c row.op).mayProcess c (c.ref row.op) = true → headerCheck row.op row.who 0 15 c (s.turn c row.op) = .ok () →
    (s.tick c.dt).turned.isFetched c (c.ref row.op) = false → (s.tick c.dt).turned.tenant? c.tenant = some x →
    ∃ t y, exec i s = .next t.advanced ∧ t = (s.turn c row.op).complete (c.ref row.op) eBadCmd 0x0002 [] ∧
      t.tenant? c.tenant = some y ∧ y.mbox.cmdHead = x.mbox.cmdHead + word c.entries

/-- R3, R109, R541. A command that a check rejects leaves the state as it was when the CP took it up: what changes is its own
record, its place in flight, and, where a read of the issuer's asset space faulted, that tenant's fault count and event.
Where the spec leaves a point open it holds of the model's choice there (assumption 54). -/
def Obligations.RejectedCommandsChangeNothing : Prop :=
  ∀ (i : Instr) (c : Cmd) (row : CommandRow) (s : State) (e : CErr), commandOf i = some (c, row) →
    s.rejects c row.op row.who row.lo row.hi row.body e →
    let b := e.reads.foldl State.note (s.turn c row.op)
    ∃ t, exec i s = .next t.advanced ∧ t = { b with flights := t.flights, tenants := t.tenants } ∧
      (e.fault = none → t = b.complete (c.ref row.op) e.status e.detail e.words) ∧
      (∀ u, u ≠ c.tenant → t.tenant? u = b.tenant? u) ∧
      (∀ x, b.tenant? c.tenant = some x → ∃ y, t.tenant? c.tenant = some y ∧
        y = { x with mbox := y.mbox, dying := y.dying, faults := y.faults, rates := y.rates } ∧
        y.mbox = { x.mbox with
          held := y.mbox.held, events := y.mbox.events, eventLost := y.mbox.eventLost, dropped := y.mbox.dropped }) ∧
      (∀ f ∈ t.flights, ∃ g ∈ b.flights, f.cmd = g.cmd ∧ f.opcode = g.opcode ∧ (f.is (c.ref row.op) = false → f = g))

/-- A step takes the command at the front of the queue out and is that command's meaning on the state with the queue's rest. -/
def Obligations.StepRunsTheFrontCommand : Prop :=
  ∀ (i : Instr) (rest : List Instr) (s : State),
    (s.pending = i :: rest → step s = exec i { s with pending := rest }) ∧
    step { s with pending := i :: s.pending } = exec i s

/-- With nothing waiting the part idles (the model's choice, assumption 1). -/
def Obligations.EmptyQueueIdles : Prop :=
  ∀ s : State, s.pending = [] → step s = .next s

/-- Nothing stops the part: every step goes on, and the queue after it is the queue before it without its front. Where the spec
leaves a point open it holds of the model's choice there (assumptions 1 and 9). -/
def Obligations.EveryStepGoesOnWithTheQueuesTail : Prop :=
  ∀ s : State, ∃ t, step s = .next t ∧ t.pending = s.pending.tail

/-- R49, R77, R93. Every step keeps the invariant of the part: each memory lists its bytes in rising order and no byte that
equals what an unlisted address reads as, the reserved bits of the device status page read 0, and tenants stand once each,
below 1,024. Where the spec leaves a point open it holds of the model's choice there (assumption 3). -/
def Obligations.StepKeepsTheInvariant : Prop :=
  ∀ s t : State, s.Inv → step s = .next t → t.Inv

/-- The state right after reset meets the invariant of the part. -/
def Obligations.ResetMeetsTheInvariant : Prop := State.reset.Inv

/-- R503. The lifecycle only moves forward, whatever steps the part takes, resets and supply losses included, and LIFECYCLE_QUERY
reports it: 1 Blank, 2 Secured, 3 Returned. -/
def Obligations.LifecycleOnlyMovesForward : Prop :=
  (∀ s t : State, step s = .next t → s.boot.lifecycle = t.boot.lifecycle ∨
    (s.boot.lifecycle = .blank ∧ (t.boot.lifecycle = .secured ∨ t.boot.lifecycle = .returned)) ∨
    (s.boot.lifecycle = .secured ∧ t.boot.lifecycle = .returned)) ∧
  (∀ (s : State) (c : Cmd), s.accepts c 0x1104 .anyone 0 0 lifecycleQueryBody = true →
    let a := s.turn c 0x1104
    ∃ ws : List Word, exec (.lifecycleQuery c) s = .next (a.completeOk (c.ref 0x1104) ws).advanced ∧
      ws.head? = some (match a.boot.lifecycle with | .blank => 1 | .secured => 2 | .returned => 3))

/-- R504, R514. The hash of the owner key is fused once: no step changes it in a part that has left Blank. -/
def Obligations.OwnerHashIsFusedOnce : Prop :=
  ∀ s t : State, s.boot.lifecycle ≠ .blank → step s = .next t → t.boot.ownerHash = s.boot.ownerHash

/-- R77, R510, R513. Once DEV.PASID_LOCK is set, only a reset opens it: no other row changes the lock or the PASIDs of tenants 0
and 1 that it locks. -/
def Obligations.PasidLockHoldsUntilReset : Prop :=
  ∀ (i : Instr) (s t : State), (∀ dt, i ≠ .resetPin dt ∧ i ≠ .tokenReset dt ∧ i ≠ .pwrfailNRelease dt ∧ i ≠ .perstAssert dt) →
    (∀ dt what, i ≠ .supplyRemoval dt what) → exec i s = .next t → s.dev.pasidLock = true →
    t.dev.pasidLock = true ∧ t.dev.pasid0 = s.dev.pasid0 ∧ t.dev.pasid1 = s.dev.pasid1

/-- R225, R226. Isolation of the cores: an instruction that one core issues, whatever it does, leaves the thread of every other
core as it was: its registers, its stacks, its halts, its pending entries and its faults; only the note that a neighbour on
the same core has yielded to it may go (R241), and a tenant that is being destroyed may be released by a command's end. Where
the spec leaves a point open it holds of the model's choice there (assumption 33). -/
def Obligations.InstructionsStayOnTheirCore : Prop :=
  ∀ (i : Instr) (who : CoreRef) (s t : State), coreOf i = some who → exec i s = .next t →
    s.dyingTenants = [] →
    (∀ h slot, who ≠ .tab h slot → (t.thread? h slot).map (fun k => { k with yielded := [] }) =
      (s.thread? h slot).map (fun k => { k with yielded := [] })) ∧
    (who ≠ .peg → t.peg = s.peg) ∧ (who ≠ .cp → t.cp = s.cp)

/-- R240. A PWRITE whose handle does not name a live plane of the thread's owner on the head, or whose ID is not listed for the
plane's kind, changes nothing and sets SW.wr_ign, and so does a PALW of a palette the owner does not own: the operands are
popped, PC moves past the instruction, the write is counted for the report, and no fault is raised. -/
def Obligations.IgnoredRasterWritesSetTheBit : Prop :=
  ∀ (h slot : Nat) (s : State) (k : Thread), s.thread? h slot = some k → s.canIssue 1 1 (.tab h slot) = true →
    let r := k.regs
    let ignored (i : Instr) (id : Nat) (xs : List Word) : Prop :=
      exec i s = .next ((((s.spent h slot 4 1 k).setRegs h slot { r.setDs xs with pc := r.pc + 2, wrIgn := true }).modHead h
        (fun x => { x with cur := { x.cur with tabIgn := addTally x.cur.tabIgn slot 1 (s.tabLine h k) id 0 } })).tabAfter h slot)
    (∀ (id : Byte) v hd xs, r.ds = v :: hd :: xs →
      (∀ n p, s.findPlane k.owner hd.toNat = some (h, n, p) →
        paramListed (slotKind n) p.affine id.toNat = false ∨ id = 0x12 ∧ p.content.paint.kind ≠ 0) →
      ignored (.pwrite (.tab h slot) id) id.toNat xs) ∧
    (∀ v n xs, r.ds = v :: n :: xs → ((s.head h).palette (n.toNat / 256 % 64)).owner ≠ some k.owner →
      ignored (.palw (.tab h slot)) 0xFFFFFFFF xs)

/-- R462. A level source is pending exactly while its input is asserted and no entry of it is in service: taking its entry puts
it in service, an edge or a level at its input does not bring it back, PENDING_SET and PENDING_CLR leave it as it is, and at
the RETI that ends the entry it is pending again if the input is still asserted. -/
def Obligations.LevelSourcesFollowTheirInput : Prop :=
  ∀ (s : State) (i : Nat), i < 512 → s.isLevel i = true →
    (s.srcPending i = true ↔ (s.src i).asserted = true ∧ (s.src i).inService = false) ∧
    (s.takeSource i).src i = { s.src i with inService := true } ∧ (s.takeSource i).srcPending i = false ∧
    (s.intc.fast = some i ∨ s.intc.fast = none ∧ s.intc.normal = some i →
      s.endEntry.src i = { s.src i with inService := false } ∧ s.endEntry.srcPending i = (s.src i).asserted) ∧
    (∀ dt k v edges b,
      (∃ t, exec (.interruptSourceEvent dt i b) s = .next t ∧ t.src i = { s.src i with asserted := b }) ∧
      (∃ t, exec (.intcPendingSet dt k v) s = .next t ∧ t.src i = s.src i) ∧
      (∃ t, exec (.intcPendingClr dt k v edges) s = .next t ∧ t.src i = s.src i))

/-- R78. Tenant 0 or 1 can enable its mailbox only while its DEV.PASID is valid: where the other checks of R63 pass, the enable
stops the mailbox with E_STATE while it is not, and starts it while it is. -/
def Obligations.ThePlatformMailboxesNeedAPasid : Prop :=
  ∀ (s : State) (dt t : Nat) (m : Mailbox), t = 0 ∨ t = 1 →
    let a := s.tick dt
    a.asleep = false → a.hwHas (.mboxEnable t) = false → a.doorbell? t = some m → m.state = .disabled →
    m.cmdBaseLo.toNat % 4096 = 0 → m.cplBaseLo.toNat % 4096 = 0 →
    4 ≤ bits m.ringCfg.toNat 3 0 → bits m.ringCfg.toNat 3 0 ≤ 12 → 4 ≤ bits m.ringCfg.toNat 11 8 →
    bits m.ringCfg.toNat 11 8 ≤ 12 → m.cmdTail = 0 → m.cplHead = 0 →
    let valid : Bool := (if t = 0 then a.dev.pasid0 else a.dev.pasid1).getLsbD 31
    (valid = false → exec (.mboxEnable dt t) s = .next (a.stopMbox t eState true)) ∧
    (valid = true → exec (.mboxEnable dt t) s = .next (a.modMbox t (fun m => { m with
      cmdHead := 0, cplTail := 0, eventLost := 0, phase := true, state := .running, usable := true })))

/-- R137. A plain object takes the image pixel of its box pixel, mirrored by hflip and vflip. -/
def Obligations.PlainObjectsTakeTheirPixel : Prop :=
  ∀ (o : ObjEntry) (i j : Nat), o.affine = false → i < o.w → j < o.h → ∃ si sj, objectSample o i j = some (si, sj) ∧
    (si : Int) = (if o.hflip then (o.w : Int) - 1 - i else i) ∧ (sj : Int) = (if o.vflip then (o.h : Int) - 1 - j else j)

/-- R141. The candidates of a line are taken in rank order while their number stays within 512 and their counted pixels within
16,384; the first that would pass either limit is dropped, with every one ranked after it, whatever its size. -/
def Obligations.ObjectLimitsDropTheRestOfTheLine : Prop :=
  ∀ (cs taken dropped : List Candidate), takeObjects cs 0 0 = (taken, dropped) →
    cs = taken ++ dropped ∧ taken.length ≤ 512 ∧ (taken.map (·.count)).sum ≤ 16384 ∧
    (∀ k ks, dropped = k :: ks → taken.length = 512 ∨ 16384 < (taken.map (·.count)).sum + k.count) ∧
    (∀ front back, cs = front ++ back → front.length ≤ 512 → (front.map (·.count)).sum ≤ 16384 → front.length ≤ taken.length)

/-- R230. Isolation of the tab threads' memories: whatever instruction a tab thread issues, custom ones included, every byte of
the part's memories outside the thread's data segment, and outside its code segment where that is writable, stays as it was,
and so does the memory of the host; stated for a part that is destroying no tenant (R53: the end of a command may complete a
destruction, which zeroes that tenant's memory). Where the spec leaves a point open it holds of the model's choice there
(assumption 33). -/
def Obligations.TabThreadsWriteOnlyTheirSegments : Prop :=
  ∀ (i : Instr) (h slot : Nat) (s t : State) (k : Thread), coreOf i = some (.tab h slot) → s.thread? h slot = some k →
    exec i s = .next t → s.dyingTenants = [] →
    t.mem.host = s.mem.host ∧
    ∀ a, ¬(k.dataAt ≤ a ∧ a < k.dataAt + k.dataSize) →
      ¬(k.writable = true ∧ k.codeAt ≤ a ∧ a < k.codeAt + k.codeSize) → Mem.read t.mem.phys a = Mem.read s.mem.phys a

/-- R49, R77, R368, R410, R439, R543, R545, Tables 4.4, 14.12 and 18.6. What the spec gives the part right after reset: Meridian
reads 0, the firmware has not reported ready, no tenant exists, the registers of the device status page are 0 and unlocked,
no command is in flight, no interrupt entry is in progress, the counters of the courses, the Ethernet MACs and the banks are
0, and the wake sources 1, 4 and 7 are enabled with mode 3. -/
def Obligations.ResetLeavesWhatTheSpecGives : Prop :=
  let s := State.reset
  s.now = 0 ∧ s.boot.fwReady = false ∧ (∀ t, s.tenant? t = none ∧ s.doorbell? t = none) ∧
  s.dev.event = 0 ∧ s.dev.eventEn = 0 ∧ s.dev.pasid0 = 0 ∧ s.dev.pasid1 = 0 ∧ s.dev.pasidLock = false ∧
  s.flights = [] ∧ s.pending = [] ∧ s.intc.normal = none ∧ s.intc.fast = none ∧
  (∀ c, (s.course c).count = 0) ∧
  (∀ m, let e := IMap.get s.eth {} m; e.tx = 0 ∧ e.rx = 0 ∧ e.fcs = 0 ∧ e.dropped = 0) ∧
  (∀ b, let k := IMap.get s.banks {} b; k.ueCount = 0 ∧ k.ceCount = 0 ∧ k.errAddr = 0) ∧
  (∀ n ∈ [1, 4, 7], (s.peg.source n).enable = true ∧ (s.peg.source n).mode = 3)
end

