-- ==== Sys2Proof/Laws/Data.lean ====
section
/-! SUPPORT. Laws of the plain containers: keyed tables, and byte memory in its canonical form. -/

namespace Sys2Proof.Machine

/-! ### Keyed tables -/

variable {α : Type}

/-- A map whose values are all changed. -/
theorem IMap.find_map {α β : Type} (m : IMap α) (f : Nat × α → β) (v : Nat) :
    IMap.find? (m.map (fun e => (e.1, f e))) v = (IMap.find? m v).map (fun x => f (v, x)) := by
  induction m with
  | nil => rfl
  | cons e m ih =>
    obtain ⟨k, x⟩ := e
    show (if k = v then _ else _) = Option.map _ (if k = v then _ else _)
    by_cases h : k = v
    · subst h; simp
    · rw [if_neg h, if_neg h]; exact ih

theorem IMap.find_mem {m : IMap α} {k : Nat} {a : α} (h : IMap.find? m k = some a) : ∃ e ∈ m, e.2 = a := by
  induction m with
  | nil => cases h
  | cons e m ih =>
    simp only [IMap.find?] at h
    split at h
    · cases h; exact ⟨e, List.mem_cons_self, rfl⟩
    · obtain ⟨x, hx, hy⟩ := ih h
      exact ⟨x, List.mem_cons_of_mem _ hx, hy⟩

@[simp] theorem IMap.find_put_same (m : IMap α) (k : Nat) (a : α) : IMap.find? (IMap.put m k a) k = some a := by
  induction m with
  | nil => simp [IMap.put, IMap.find?]
  | cons e m ih =>
    obtain ⟨j, b⟩ := e
    by_cases h : j = k
    · simp [IMap.put, IMap.find?, h]
    · by_cases g : k < j
      · simp [IMap.put, IMap.find?, h, g]
      · simp [IMap.put, IMap.find?, h, g, ih]

theorem IMap.find_put_other (m : IMap α) {k i : Nat} (a : α) (h : i ≠ k) :
    IMap.find? (IMap.put m k a) i = IMap.find? m i := by
  induction m with
  | nil => simp [IMap.put, IMap.find?, Ne.symm h]
  | cons e m ih =>
    obtain ⟨j, b⟩ := e
    by_cases g : j = k
    · subst g
      simp [IMap.put, IMap.find?, Ne.symm h]
    · by_cases l : k < j
      · simp [IMap.put, IMap.find?, g, l, Ne.symm h]
      · simp [IMap.put, IMap.find?, g, l, ih]

@[simp] theorem IMap.get_put_same (m : IMap α) (d : α) (k : Nat) (a : α) : IMap.get (IMap.put m k a) d k = a := by
  simp [IMap.get]

theorem IMap.get_put_other (m : IMap α) (d : α) {k i : Nat} (a : α) (h : i ≠ k) :
    IMap.get (IMap.put m k a) d i = IMap.get m d i := by
  simp [IMap.get, IMap.find_put_other m a h]

theorem IMap.find_adjust (m : IMap α) (k i : Nat) (f : α → α) :
    IMap.find? (IMap.adjust m k f) i = (IMap.find? m i).map (fun a => if i = k then f a else a) := by
  induction m with
  | nil => rfl
  | cons e m ih =>
    obtain ⟨j, b⟩ := e
    have step : IMap.adjust ((j, b) :: m) k f = (if j = k then (j, f b) else (j, b)) :: IMap.adjust m k f := rfl
    rw [step]
    by_cases h : j = i
    · subst h
      by_cases g : j = k <;> simp [IMap.find?, g]
    · have e : (if j = k then (j, f b) else (j, b)) = (j, if j = k then f b else b) := by split <;> rfl
      rw [e]
      simp only [IMap.find?, if_neg h, ih]

@[simp] theorem IMap.find_adjust_same (m : IMap α) (k : Nat) (f : α → α) :
    IMap.find? (IMap.adjust m k f) k = (IMap.find? m k).map f := by
  rw [IMap.find_adjust]
  simp

theorem IMap.find_adjust_other (m : IMap α) {k i : Nat} (f : α → α) (h : i ≠ k) :
    IMap.find? (IMap.adjust m k f) i = IMap.find? m i := by
  rw [IMap.find_adjust]
  simp [h]

/-- Two changes of one entry are one. -/
theorem IMap.adjust_adjust (m : IMap α) (k : Nat) (f g : α → α) :
    IMap.adjust (IMap.adjust m k f) k g = IMap.adjust m k (fun a => g (f a)) := by
  simp only [IMap.adjust, List.map_map]
  apply List.map_congr_left
  intro e _
  by_cases h : e.1 = k <;> simp [h]

@[simp] theorem IMap.keys_adjust (m : IMap α) (k : Nat) (f : α → α) : IMap.keys (IMap.adjust m k f) = IMap.keys m := by
  unfold IMap.keys IMap.adjust
  rw [List.map_map]
  apply List.map_congr_left
  intro e _
  by_cases h : e.1 = k <;> simp [h]

/-- What the table of tenants keeps: numbers in rising order, below 1,024. -/
theorem IMap.wf_iff (m : IMap α) (n : Nat) :
    (decide ((IMap.keys m).Pairwise (· < ·)) && (IMap.keys m).all (fun t => decide (t < n))) = true ↔
      (IMap.keys m).Pairwise (· < ·) ∧ ∀ t ∈ IMap.keys m, t < n := by
  simp

theorem IMap.mem_keys_put (m : IMap α) (k : Nat) (a : α) {i : Nat} (h : i ∈ IMap.keys (IMap.put m k a)) :
    i = k ∨ i ∈ IMap.keys m := by
  induction m with
  | nil => exact .inl (by simpa [IMap.put, IMap.keys] using h)
  | cons e m ih =>
    obtain ⟨j, b⟩ := e
    simp only [IMap.put] at h
    split at h
    · rename_i g
      subst g
      exact .inr h
    · split at h
      · simpa [IMap.keys] using h
      · simp only [IMap.keys, List.map_cons, List.mem_cons] at h ⊢
        rcases h with h | h
        · exact .inr (.inl h)
        · rcases ih h with h | h
          · exact .inl h
          · exact .inr (.inr h)

theorem IMap.sorted_put {m : IMap α} (h : (IMap.keys m).Pairwise (· < ·)) (k : Nat) (a : α) :
    (IMap.keys (IMap.put m k a)).Pairwise (· < ·) := by
  induction m with
  | nil => simp [IMap.put, IMap.keys]
  | cons e m ih =>
    obtain ⟨j, b⟩ := e
    obtain ⟨hj, hm⟩ := List.pairwise_cons.mp h
    simp only [IMap.put]
    split
    · rename_i g
      subst g
      exact h
    · split
      · rename_i l
        refine List.pairwise_cons.mpr ⟨fun i hi => ?_, h⟩
        rcases List.mem_cons.mp hi with rfl | hi
        · exact l
        · exact Nat.lt_trans l (hj i hi)
      · rename_i n l
        refine List.pairwise_cons.mpr ⟨fun i hi => ?_, ih hm⟩
        rcases IMap.mem_keys_put m k a hi with rfl | hi
        · omega
        · exact hj i hi

theorem IMap.keys_del (m : IMap α) (k : Nat) : IMap.keys (IMap.del m k) = (IMap.keys m).filter (fun i => i != k) := by
  unfold IMap.keys IMap.del
  rw [List.filter_map]
  rfl

/-! ### Byte memory -/

@[simp] theorem Mem.wf_nil : Mem.wf [] = true := rfl

theorem Mem.wf_iff (m : Mem) :
    Mem.wf m = true ↔ m.Pairwise (fun a b => a.1 < b.1) ∧ ∀ c ∈ m, c.2 ≠ Mem.unlisted := by
  simp [Mem.wf]

/-- Leaving cells out keeps the canonical form. -/
theorem Mem.wf_filter {m : Mem} (h : Mem.wf m = true) (p : Host.Cell → Bool) : Mem.wf (m.filter p) = true := by
  rw [Mem.wf_iff] at h ⊢
  exact ⟨h.1.filter p, fun c hc => h.2 c (List.mem_filter.mp hc).1⟩

theorem Mem.wf_zero {m : Mem} (h : Mem.wf m = true) (a n : Nat) : Mem.wf (Mem.zero m a n) = true := Mem.wf_filter h _

/-- The cells of a run lie in it, and none holds the unlisted value. -/
theorem Mem.mem_cells {a : Nat} {bs : List Byte} {c : Host.Cell} (h : c ∈ Mem.cells a bs) :
    a ≤ c.1 ∧ c.1 < a + bs.length ∧ c.2 ≠ Mem.unlisted := by
  induction bs generalizing a with
  | nil => simp [Mem.cells] at h
  | cons b bs ih =>
    by_cases e : b = Mem.unlisted
    · rw [Mem.cells, if_pos e] at h
      obtain ⟨h1, h2, h3⟩ := ih h
      exact ⟨by omega, by simp only [List.length_cons]; omega, h3⟩
    · rw [Mem.cells, if_neg e] at h
      rcases List.mem_cons.mp h with r | r
      · subst r
        exact ⟨Nat.le_refl _, by simp, e⟩
      · obtain ⟨h1, h2, h3⟩ := ih r
        exact ⟨by omega, by simp only [List.length_cons]; omega, h3⟩

theorem Mem.cells_sorted (a : Nat) (bs : List Byte) : (Mem.cells a bs).Pairwise (fun x y => x.1 < y.1) := by
  induction bs generalizing a with
  | nil => exact List.Pairwise.nil
  | cons b bs ih =>
    by_cases e : b = Mem.unlisted
    · rw [Mem.cells, if_pos e]
      exact ih (a + 1)
    · rw [Mem.cells, if_neg e]
      refine List.Pairwise.cons ?_ (ih (a + 1))
      intro c hc
      have := (Mem.mem_cells hc).1
      show a < c.1
      omega

/-- A write keeps the canonical form. -/
theorem Mem.wf_write {m : Mem} (h : Mem.wf m = true) (a : Nat) (bs : List Byte) : Mem.wf (Mem.write m a bs) = true := by
  rw [Mem.wf_iff] at h ⊢
  unfold Mem.write
  constructor
  · rw [List.pairwise_append]
    refine ⟨h.1.filter _, ?_, ?_⟩
    · rw [List.pairwise_append]
      refine ⟨Mem.cells_sorted a bs, h.1.filter _, ?_⟩
      intro x hx y hy
      have h1 := (Mem.mem_cells hx).2.1
      have h2 := (List.mem_filter.mp hy).2
      simp only [decide_eq_true_eq] at h2
      omega
    · intro x hx y hy
      have h1 := (List.mem_filter.mp hx).2
      simp only [decide_eq_true_eq] at h1
      rcases List.mem_append.mp hy with r | r
      · have := (Mem.mem_cells r).1
        omega
      · have h2 := (List.mem_filter.mp r).2
        simp only [decide_eq_true_eq] at h2
        omega
  · intro c hc
    rcases List.mem_append.mp hc with r | r
    · exact h.2 c (List.mem_filter.mp r).1
    · rcases List.mem_append.mp r with r | r
      · exact (Mem.mem_cells r).2.2
      · exact h.2 c (List.mem_filter.mp r).1

theorem Mem.read_append_left {m₁ m₂ : Mem} {a : Nat} (h : ∀ c ∈ m₁, c.1 ≠ a) : Mem.read (m₁ ++ m₂) a = Mem.read m₂ a := by
  induction m₁ with
  | nil => rfl
  | cons c m ih =>
    have h1 := h c (List.mem_cons_self ..)
    simp only [List.cons_append, Mem.read, if_neg h1]
    exact ih (fun x hx => h x (List.mem_cons_of_mem _ hx))

theorem Mem.read_append_right {m₁ m₂ : Mem} {a : Nat} (h : ∀ c ∈ m₂, c.1 ≠ a) : Mem.read (m₁ ++ m₂) a = Mem.read m₁ a := by
  induction m₁ with
  | nil =>
    induction m₂ with
    | nil => rfl
    | cons c m ih =>
      have h1 := h c (List.mem_cons_self ..)
      simp only [List.nil_append, Mem.read, if_neg h1]
      exact ih (fun x hx => h x (List.mem_cons_of_mem _ hx))
  | cons c m ih =>
    simp only [List.cons_append, Mem.read, ih]

/-- Reading at an address that a filter keeps. -/
theorem Mem.read_filter {m : Mem} {a : Nat} (p : Nat → Bool) (h : p a = true) :
    Mem.read (m.filter (fun c => p c.1)) a = Mem.read m a := by
  induction m with
  | nil => rfl
  | cons c m ih =>
    by_cases e : c.1 = a
    · have k : p c.1 = true := by rw [e]; exact h
      rw [List.filter_cons_of_pos (by exact k)]
      simp only [Mem.read, if_pos e]
    · by_cases g : p c.1 = true
      · rw [List.filter_cons_of_pos (by exact g)]
        simp only [Mem.read, if_neg e, ih]
      · rw [List.filter_cons_of_neg (by exact g)]
        simp only [Mem.read, if_neg e, ih]

/-- Reading at an address that a filter drops. -/
theorem Mem.read_filter_out {m : Mem} {a : Nat} (p : Nat → Bool) (h : p a = false) :
    Mem.read (m.filter (fun c => p c.1)) a = Mem.unlisted := by
  have : ∀ c ∈ m.filter (fun c => p c.1), c.1 ≠ a := by
    intro c hc e
    have := (List.mem_filter.mp hc).2
    rw [e, h] at this
    exact absurd this (by decide)
  have r := Mem.read_append_left (m₂ := []) this
  simpa [Mem.read] using r

theorem Mem.read_cells (a : Nat) (bs : List Byte) (i : Nat) (h : i < bs.length) :
    Mem.read (Mem.cells a bs) (a + i) = bs.getD i Mem.unlisted := by
  induction bs generalizing a i with
  | nil => simp at h
  | cons b bs ih =>
    cases i with
    | zero =>
      by_cases e : b = Mem.unlisted
      · rw [Mem.cells, if_pos e]
        have : ∀ c ∈ Mem.cells (a + 1) bs, c.1 ≠ a + 0 := by
          intro c hc
          have := (Mem.mem_cells hc).1
          omega
        have r := Mem.read_append_left (m₂ := []) this
        simpa [Mem.read, e] using r
      · rw [Mem.cells, if_neg e]
        simp [Mem.read]
    | succ i =>
      have h' : i < bs.length := by simpa using h
      have r := ih (a + 1) i h'
      have e2 : a + 1 + i = a + (i + 1) := by omega
      rw [e2] at r
      by_cases e : b = Mem.unlisted
      · rw [Mem.cells, if_pos e, r]
        rfl
      · rw [Mem.cells, if_neg e]
        have ne : ¬ (a = a + (i + 1)) := by omega
        simp only [Mem.read, if_neg ne, r]
        rfl

/-- A read after a write to the same place gives what was written. -/
theorem Mem.read_write_same (m : Mem) (a : Nat) (bs : List Byte) (i : Nat) (h : i < bs.length) :
    Mem.read (Mem.write m a bs) (a + i) = bs.getD i Mem.unlisted := by
  unfold Mem.write
  rw [Mem.read_append_left]
  · rw [Mem.read_append_right]
    · exact Mem.read_cells a bs i h
    · intro c hc
      have := (List.mem_filter.mp hc).2
      simp only [decide_eq_true_eq] at this
      omega
  · intro c hc
    have := (List.mem_filter.mp hc).2
    simp only [decide_eq_true_eq] at this
    omega

/-- A write leaves every byte outside its run alone. -/
theorem Mem.read_write_other (m : Mem) (a : Nat) (bs : List Byte) (x : Nat) (h : x < a ∨ a + bs.length ≤ x) :
    Mem.read (Mem.write m a bs) x = Mem.read m x := by
  have out : ∀ c ∈ Mem.cells a bs, c.1 ≠ x := by
    intro c hc
    have := Mem.mem_cells hc
    omega
  unfold Mem.write
  rcases h with h | h
  · rw [Mem.read_append_right]
    · exact Mem.read_filter (fun k => decide (k < a)) (by simpa using h)
    · intro c hc
      rcases List.mem_append.mp hc with r | r
      · exact out c r
      · have := (List.mem_filter.mp r).2
        simp only [decide_eq_true_eq] at this
        omega
  · rw [Mem.read_append_left]
    · rw [Mem.read_append_left out]
      exact Mem.read_filter (fun k => decide (a + bs.length ≤ k)) (by simpa using h)
    · intro c hc
      have := (List.mem_filter.mp hc).2
      simp only [decide_eq_true_eq] at this
      omega

/-- Zeroing leaves every byte outside its run alone. -/
theorem Mem.read_zero_other (m : Mem) (a n x : Nat) (h : x < a ∨ a + n ≤ x) : Mem.read (Mem.zero m a n) x = Mem.read m x := by
  refine Mem.read_filter (fun k => decide (k < a) || decide (a + n ≤ k)) ?_
  simpa using h

/-- A zeroed byte reads as the unlisted value. -/
theorem Mem.read_zero_same (m : Mem) (a n i : Nat) (h : i < n) : Mem.read (Mem.zero m a n) (a + i) = Mem.unlisted := by
  refine Mem.read_filter_out (fun k => decide (k < a) || decide (a + n ≤ k)) ?_
  have h1 : ¬ (a + i < a) := by omega
  have h2 : ¬ (a + n ≤ a + i) := by omega
  simp [h1, h2]

/-- A run read is its bytes one by one. -/
theorem Mem.readRun_getD (m : Mem) (a n i : Nat) (h : i < n) :
    (Mem.readRun m a n).getD i Mem.unlisted = Mem.read m (a + i) := by
  unfold Mem.readRun
  rw [List.getD_eq_getElem?_getD, List.getElem?_map, List.getElem?_range h]
  simp only [Option.map_some, Option.getD_some]
  exact Mem.read_filter (fun k => decide (a ≤ k) && decide (k < a + n)) (by simp [h])

@[simp] theorem Mem.readRun_length (m : Mem) (a n : Nat) : (Mem.readRun m a n).length = n := by
  simp [Mem.readRun]

@[simp] theorem leBytes_length (n v : Nat) : (leBytes n v).length = n := by
  induction n generalizing v with
  | zero => rfl
  | succ n ih => simp [leBytes, ih]

/-- Little-endian bytes spell the number again, modulo their width (R6). -/
theorem leNat_leBytes (n v : Nat) : leNat (leBytes n v) = v % 256 ^ n := by
  induction n generalizing v with
  | zero => simp [leBytes, leNat, Nat.mod_one]
  | succ n ih =>
    simp only [leBytes, leNat, ih, BitVec.toNat_ofNat]
    have e : (2 : Nat) ^ 8 = 256 := rfl
    rw [e, Nat.pow_succ, Nat.mul_comm (256 ^ n) 256, Nat.mod_mul]

end Sys2Proof.Machine
end

