-- ==== Sys2Proof/Laws/Keeps.lean ====
section
/-! SUPPORT. What every operation keeps: the queue, the invariant of the part, the lifecycle and owner hash, and the locked
PASIDs. One lemma for each way of building a state; the lemmas of the operations are in the files beside this one. -/

namespace Sys2Proof.Machine

open Sys2Proof

/-- From `s₀` to `s`: the queue is the same, the invariant is kept, the lifecycle does not go back, the owner hash stays once the
part has left Blank, and locked PASIDs stay. -/
structure State.Keeps (s₀ s : State) : Prop where
  pending : s.pending = s₀.pending
  inv : s₀.Inv → s.Inv
  rank : s₀.boot.lifecycle.rank ≤ s.boot.lifecycle.rank
  hash : s₀.boot.lifecycle ≠ .blank → s.boot.ownerHash = s₀.boot.ownerHash
  lock : s₀.dev.pasidLock = true →
    s.dev.pasidLock = true ∧ s.dev.pasid0 = s₀.dev.pasid0 ∧ s.dev.pasid1 = s₀.dev.pasid1

theorem State.Keeps.refl (s : State) : s.Keeps s := ⟨rfl, id, Nat.le_refl _, fun _ => rfl, fun h => ⟨h, rfl, rfl⟩⟩

theorem Lifecycle.left_blank {a b : Lifecycle} (h : a.rank ≤ b.rank) (n : a ≠ .blank) : b ≠ .blank := by
  cases a <;> cases b <;> simp_all [Lifecycle.rank]

theorem Lifecycle.rank_le_returned (l : Lifecycle) : l.rank ≤ Lifecycle.returned.rank := by
  cases l <;> decide

theorem State.Keeps.trans {a b c : State} (h : a.Keeps b) (g : b.Keeps c) : a.Keeps c where
  pending := g.pending.trans h.pending
  inv := fun i => g.inv (h.inv i)
  rank := Nat.le_trans h.rank g.rank
  hash := fun n => (g.hash (Lifecycle.left_blank h.rank n)).trans (h.hash n)
  lock := fun l =>
    let ⟨l1, p1, q1⟩ := h.lock l
    let ⟨l2, p2, q2⟩ := g.lock l1
    ⟨l2, p2.trans p1, q2.trans q1⟩

section
variable {s₀ s t : State} {α β ε : Type}

/-- A state that differs from another in none of the fields that the relation reads. -/
theorem State.Keeps.same (h : s₀.Keeps s) (hp : t.pending = s.pending) (hm : t.mem.phys = s.mem.phys)
    (hh : t.mem.host = s.mem.host) (hc : t.peg.code = s.peg.code) (hd : t.peg.data = s.peg.data)
    (hr : t.peg.ring = s.peg.ring) (hv : t.dev = s.dev) (ht : t.tenants = s.tenants) (hb : t.boot = s.boot) :
    s₀.Keeps t := by
  refine h.trans ⟨hp, ?_, Nat.le_of_eq (by rw [hb]), fun _ => by rw [hb], fun l => by rw [hv]; exact ⟨l, rfl, rfl⟩⟩
  intro i
  simpa only [State.Inv, State.memWf, State.tenantsWf, hm, hh, hc, hd, hr, hv, ht] using i

/-- A record update of fields that the relation does not read. -/
theorem State.Keeps.upd_iff {n cy f ti po cl le fl ba tm pi ic dm di ta uc cp au et pr} :
    s₀.Keeps (State.mk s.pending n cy f ti po cl s.boot le s.dev s.tenants fl ba s.mem tm pi ic dm di ta uc cp au et s.peg
      pr) ↔ s₀.Keeps s :=
  ⟨fun h => h.same rfl rfl rfl rfl rfl rfl rfl rfl rfl, fun h => h.same rfl rfl rfl rfl rfl rfl rfl rfl rfl⟩

/-- A record update that leaves alone what the relation reads of memory, the Pegbox and start-up. -/
theorem State.Keeps.upd_in_iff {n cy f ti po cl le fl ba tm pi ic dm di ta uc cp au et pr b m g}
    (hb : b.lifecycle = s.boot.lifecycle) (ho : b.ownerHash = s.boot.ownerHash) (hm : m.phys = s.mem.phys)
    (hh : m.host = s.mem.host) (hc : g.code = s.peg.code) (hd : g.data = s.peg.data) (hr : g.ring = s.peg.ring) :
    s₀.Keeps (State.mk s.pending n cy f ti po cl b le s.dev s.tenants fl ba m tm pi ic dm di ta uc cp au et g pr) ↔
      s₀.Keeps s := by
  have key : ∀ a t : State, t.pending = a.pending → t.mem.phys = a.mem.phys → t.mem.host = a.mem.host →
      t.peg.code = a.peg.code → t.peg.data = a.peg.data → t.peg.ring = a.peg.ring → t.dev = a.dev →
      t.tenants = a.tenants → t.boot.lifecycle = a.boot.lifecycle → t.boot.ownerHash = a.boot.ownerHash →
      s₀.Keeps a → s₀.Keeps t := by
    intro a t h1 h2 h3 h4 h5 h6 h7 h8 h9 h10 h
    refine h.trans ⟨h1, ?_, Nat.le_of_eq (by rw [h9]), fun _ => h10, fun l => by rw [h7]; exact ⟨l, rfl, rfl⟩⟩
    intro i
    simpa only [State.Inv, State.memWf, State.tenantsWf, h2, h3, h4, h5, h6, h7, h8] using i
  exact ⟨key _ _ rfl hm.symm hh.symm hc.symm hd.symm hr.symm rfl rfl hb.symm ho.symm,
    key _ _ rfl hm hh hc hd hr rfl rfl hb ho⟩

/-- A record update of the device status page and the MSI-X structures that leaves the host's settings alone. -/
theorem State.Keeps.upd_dev_iff {n cy f ti po cl le fl ba tm pi ic dm di ta uc cp au et pr v}
    (he : v.eventEn = s.dev.eventEn) (h0 : v.pasid0 = s.dev.pasid0) (h1 : v.pasid1 = s.dev.pasid1)
    (hl : v.pasidLock = s.dev.pasidLock) :
    s₀.Keeps (State.mk s.pending n cy f ti po cl s.boot le v s.tenants fl ba s.mem tm pi ic dm di ta uc cp au et s.peg pr) ↔
      s₀.Keeps s := by
  have key : ∀ a t : State, t.pending = a.pending → t.mem = a.mem → t.peg = a.peg → t.tenants = a.tenants →
      t.boot = a.boot → t.dev.eventEn = a.dev.eventEn → t.dev.pasid0 = a.dev.pasid0 → t.dev.pasid1 = a.dev.pasid1 →
      t.dev.pasidLock = a.dev.pasidLock → s₀.Keeps a → s₀.Keeps t := by
    intro a t k1 k2 k3 k4 k5 k6 k7 k8 k9 h
    refine h.trans ⟨k1, ?_, Nat.le_of_eq (by rw [k5]), fun _ => by rw [k5], fun l => ⟨k9.trans l, k7, k8⟩⟩
    intro i
    simpa only [State.Inv, State.memWf, State.tenantsWf, DevPage.reservedZero, k2, k3, k4, k6, k7, k8] using i
  exact ⟨key _ _ rfl rfl rfl rfl rfl he.symm h0.symm h1.symm hl.symm, key _ _ rfl rfl rfl rfl rfl he h0 h1 hl⟩

/-- Memories and the Pegbox change, and stay in their canonical form. -/
theorem State.Keeps.memory (h : s₀.Keeps s) (hp : t.pending = s.pending) (hv : t.dev = s.dev)
    (ht : t.tenants = s.tenants) (hb : t.boot = s.boot) (hw : s.memWf = true → t.memWf = true) : s₀.Keeps t := by
  refine h.trans ⟨hp, ?_, Nat.le_of_eq (by rw [hb]), fun _ => by rw [hb], fun l => by rw [hv]; exact ⟨l, rfl, rfl⟩⟩
  intro i
  exact ⟨hw i.1, by rw [hv]; exact i.2.1, by simpa only [State.tenantsWf, ht] using i.2.2⟩

/-- The device status page changes. -/
theorem State.Keeps.page (h : s₀.Keeps s) (hp : t.pending = s.pending) (hm : t.memWf = s.memWf)
    (ht : t.tenants = s.tenants) (hb : t.boot = s.boot) (hz : s.dev.reservedZero = true → t.dev.reservedZero = true)
    (hl : s.dev.pasidLock = true → t.dev.pasidLock = true ∧ t.dev.pasid0 = s.dev.pasid0 ∧ t.dev.pasid1 = s.dev.pasid1) :
    s₀.Keeps t := by
  refine h.trans ⟨hp, ?_, Nat.le_of_eq (by rw [hb]), fun _ => by rw [hb], hl⟩
  intro i
  exact ⟨hm ▸ i.1, hz i.2.1, by simpa only [State.tenantsWf, ht] using i.2.2⟩

/-- The table of tenants changes. -/
theorem State.Keeps.table (h : s₀.Keeps s) (hp : t.pending = s.pending) (hm : t.memWf = s.memWf) (hv : t.dev = s.dev)
    (hl : t.boot.lifecycle = s.boot.lifecycle) (ho : t.boot.ownerHash = s.boot.ownerHash)
    (ht : s.tenantsWf = true → t.tenantsWf = true) : s₀.Keeps t := by
  refine h.trans ⟨hp, ?_, Nat.le_of_eq (by rw [hl]), fun _ => ho, fun l => by rw [hv]; exact ⟨l, rfl, rfl⟩⟩
  intro i
  exact ⟨hm ▸ i.1, by rw [hv]; exact i.2.1, ht i.2.2⟩

/-- The fuses change. -/
theorem State.Keeps.boots (h : s₀.Keeps s) (hp : t.pending = s.pending) (hm : t.memWf = s.memWf) (hv : t.dev = s.dev)
    (ht : t.tenants = s.tenants) (_ : t.mem = s.mem) (hl : s.boot.lifecycle.rank ≤ t.boot.lifecycle.rank)
    (ho : s.boot.lifecycle ≠ .blank → t.boot.ownerHash = s.boot.ownerHash) : s₀.Keeps t := by
  refine h.trans ⟨hp, ?_, hl, ho, fun l => by rw [hv]; exact ⟨l, rfl, rfl⟩⟩
  intro i
  exact ⟨hm ▸ i.1, by rw [hv]; exact i.2.1, by simpa only [State.tenantsWf, ht] using i.2.2⟩

theorem IMap.tenantsWf_put {m : IMap Tenant}
    (h : (decide ((IMap.keys m).Pairwise (· < ·)) && (IMap.keys m).all (fun t => decide (t < 1024))) = true) {k : Nat}
    (hk : k < 1024) (a : Tenant) :
    (decide ((IMap.keys (IMap.put m k a)).Pairwise (· < ·)) &&
      (IMap.keys (IMap.put m k a)).all (fun t => decide (t < 1024))) = true := by
  rw [IMap.wf_iff] at h ⊢
  refine ⟨IMap.sorted_put h.1 _ _, fun t ht => ?_⟩
  rcases IMap.mem_keys_put _ _ _ ht with rfl | ht
  · exact hk
  · exact h.2 t ht

theorem IMap.tenantsWf_del {m : IMap Tenant}
    (h : (decide ((IMap.keys m).Pairwise (· < ·)) && (IMap.keys m).all (fun t => decide (t < 1024))) = true) (k : Nat) :
    (decide ((IMap.keys (IMap.del m k)).Pairwise (· < ·)) &&
      (IMap.keys (IMap.del m k)).all (fun t => decide (t < 1024))) = true := by
  rw [IMap.wf_iff, IMap.keys_del] at *
  exact ⟨h.1.filter _, fun t ht => h.2 t (List.mem_filter.mp ht).1⟩

theorem need_bind (b : Bool) (st d : Nat) (f : Unit → Except CErr α) :
    (need b st d >>= f) = if b = true then f () else .error { status := st, detail := d } := by
  cases b <;> rfl

theorem State.tokenOk_kind {k : List Byte} (h : s.tokenOk k = true) (n : fieldU k 6 1 = 1 → False) :
    fieldU k 6 1 = 2 ∨ s.boot.lifecycle = .blank := by
  simp only [State.tokenOk, Bool.and_eq_true, Bool.or_eq_true, decide_eq_true_eq] at h
  obtain ⟨⟨⟨⟨⟨⟨⟨⟨-, h⟩, -⟩, -⟩, -⟩, -⟩, -⟩, -⟩, -⟩ := h
  rcases h with (h | h) | h
  · exact absurd h n
  · exact .inl h.1
  · exact .inr h.2

theorem State.memWf_iff (s : State) : s.memWf = true ↔ Mem.wf s.mem.phys = true ∧ Mem.wf s.mem.host = true ∧
    Mem.wf s.peg.code = true ∧ Mem.wf s.peg.data = true ∧ Mem.wf s.peg.ring = true := by
  simp only [State.memWf, Bool.and_eq_true, and_assoc]

theorem State.Keeps.ite {c : Prop} [Decidable c] (h : s₀.Keeps s) (g : s₀.Keeps t) : s₀.Keeps (if c then s else t) := by
  split <;> assumption

theorem State.Keeps.foldl {f : State → α → State} {xs : List α} (h : s₀.Keeps s)
    (hf : ∀ s a, s₀.Keeps s → s₀.Keeps (f s a)) : s₀.Keeps (xs.foldl f s) := by
  induction xs generalizing s with
  | nil => exact h
  | cons x xs ih => exact ih (hf s x h)

theorem State.Keeps.cut {P : Prop} (h : s₀.Keeps s) (g : s₀.Keeps s → P) : P := g h

/-- A fold over a state and something beside it. -/
theorem State.Keeps.foldl_fst {f : State × β → α → State × β} {xs : List α} {p : State × β} (h : s₀.Keeps p.1)
    (hf : ∀ q a, s₀.Keeps q.1 → s₀.Keeps (f q a).1) : s₀.Keeps (xs.foldl f p).1 := by
  induction xs generalizing p with
  | nil => exact h
  | cons x xs ih => exact ih (hf p x h)

theorem State.Keeps.of_fst {p : State × β} {b : β} (e : p = (s, b)) (h : s₀.Keeps p.1) : s₀.Keeps s := by
  rw [e] at h
  exact h

theorem State.Keeps.of_snd {p : β × State} {b : β} (e : p = (b, s)) (h : s₀.Keeps p.2) : s₀.Keeps s := by
  rw [e] at h
  exact h

theorem State.Keeps.of_fst3 {γ : Type} {p : State × β × γ} {b : β} {c : γ} (e : p = (s, b, c)) (h : s₀.Keeps p.1) :
    s₀.Keeps s := by
  rw [e] at h
  exact h

/-- From `s₀` to `s` over a reset: the queue, the invariant and the fuses are kept; the PASID lock may open (R510, R513). -/
structure State.Resets (s₀ s : State) : Prop where
  pending : s.pending = s₀.pending
  inv : s₀.Inv → s.Inv
  rank : s₀.boot.lifecycle.rank ≤ s.boot.lifecycle.rank
  hash : s₀.boot.lifecycle ≠ .blank → s.boot.ownerHash = s₀.boot.ownerHash

theorem State.Keeps.resets (h : s₀.Keeps s) : s₀.Resets s := ⟨h.pending, h.inv, h.rank, h.hash⟩

/-- What a reset leaves is kept after it. -/
theorem State.Resets.keeps (h : s₀.Resets s) (g : s.Keeps t) : s₀.Resets t where
  pending := g.pending.trans h.pending
  inv := fun i => g.inv (h.inv i)
  rank := Nat.le_trans h.rank g.rank
  hash := fun n => (g.hash (Lifecycle.left_blank h.rank n)).trans (h.hash n)

/-- A reset after what is kept. -/
theorem State.Keeps.then_resets (h : s₀.Keeps s) (g : s.Resets t) : s₀.Resets t where
  pending := g.pending.trans h.pending
  inv := fun i => g.inv (h.inv i)
  rank := Nat.le_trans h.rank g.rank
  hash := fun n => (g.hash (Lifecycle.left_blank h.rank n)).trans (h.hash n)

/-- The state of an optional one is kept. -/
def KeepsOpt (s₀ : State) : Option State → Prop
  | none => True
  | some t => s₀.Keeps t

theorem State.Keeps.of_some {o : Option State} (e : o = some t) (h : KeepsOpt s₀ o) : s₀.Keeps t := by
  rw [e] at h
  exact h

theorem KeepsOpt.getD {o : Option State} (h : KeepsOpt s₀ o) (g : s₀.Keeps s) : s₀.Keeps (o.getD s) := by
  cases o with
  | none => exact g
  | some t => exact h

/-- The state of an error or a state is kept. -/
def KeepsExc (s₀ : State) : Except ε State → Prop
  | .error _ => True
  | .ok t => s₀.Keeps t

theorem State.Keeps.of_ok {o : Except ε State} (e : o = .ok t) (h : KeepsExc s₀ o) : s₀.Keeps t := by
  rw [e] at h
  exact h

theorem KeepsOpt.none : KeepsOpt s₀ Option.none := trivial

theorem KeepsOpt.some (h : s₀.Keeps s) : KeepsOpt s₀ (Option.some s) := h

theorem KeepsExc.error {e : ε} : KeepsExc s₀ (.error e) := trivial

theorem KeepsExc.ok (h : s₀.Keeps s) : KeepsExc (ε := ε) s₀ (.ok s) := h

/-- The state of a command's answer is kept. -/
def KeepsCmd (s₀ : State) : Except ε (State × β) → Prop
  | .error _ => True
  | .ok p => s₀.Keeps p.1

theorem State.Keeps.of_okPair {x : Except ε (State × β)} {b : β} (e : x = .ok (s, b)) (h : KeepsCmd s₀ x) : s₀.Keeps s := by
  rw [e] at h
  exact h

theorem KeepsCmd.ite {c : Prop} [Decidable c] {x y : Except ε (State × β)} (h : c → KeepsCmd s₀ x) (g : ¬c → KeepsCmd s₀ y) :
    KeepsCmd s₀ (if c then x else y) := by
  by_cases k : c
  · simp only [if_pos k]
    exact h k
  · simp only [if_neg k]
    exact g k

theorem KeepsCmd.cut {P : Prop} {f : α → Except ε (State × β)} (h : ∀ a, KeepsCmd s₀ (f a))
    (g : (∀ a, KeepsCmd s₀ (f a)) → P) : P := g h

theorem KeepsCmd.bind {x : Except ε α} {f : α → Except ε (State × β)} (h : ∀ a, KeepsCmd s₀ (f a)) :
    KeepsCmd s₀ (x >>= f) := by
  cases x with
  | error e => trivial
  | ok a => exact h a

theorem KeepsCmd.noting {rs : List NotedRead} {k : Except CErr (State × β)} (h : KeepsCmd s₀ k) :
    KeepsCmd s₀ (Machine.noting rs k) := by
  cases k with
  | error e => trivial
  | ok p => exact h

theorem KeepsCmd.error {e : ε} : KeepsCmd (β := β) s₀ (.error e) := trivial

theorem KeepsCmd.throw {e : ε} : KeepsCmd (β := β) s₀ (throw e : Except ε (State × β)) := trivial

theorem KeepsCmd.ok {p : State × β} (h : s₀.Keeps p.1) : KeepsCmd (ε := ε) s₀ (.ok p) := h

theorem KeepsCmd.pure {p : State × β} (h : s₀.Keeps p.1) : KeepsCmd (ε := ε) s₀ (Pure.pure p) := h

/-- The state that a meaning answers is kept. -/
def KeepsOut (s₀ : State) : Host.Outcome State Fault Refusal → Prop
  | .next t => s₀.Keeps t
  | _ => True

/-- The state that a meaning answers is that of a reset at most. -/
def ResetsOut (s₀ : State) : Host.Outcome State Fault Refusal → Prop
  | .next t => s₀.Resets t
  | _ => True

theorem KeepsOut.resets {o : Host.Outcome State Fault Refusal} (h : KeepsOut s₀ o) : ResetsOut s₀ o := by
  cases o with
  | next t => exact State.Keeps.resets h
  | _ => trivial

theorem KeepsOut.next (h : s₀.Keeps s) : KeepsOut s₀ (.next s) := h

end

end Sys2Proof.Machine
end

