-- ==== Sys2Proof/Laws/Commands.lean ====
section
/-! SUPPORT. What a command row does, once for all of them: where the command is accepted, its meaning's answer is carried
out; where a check rejects it, the rejection is. And what the checks of a meaning come to. -/

namespace Sys2Proof.Machine

open Sys2Proof

section
variable {α β : Type} {ε : Type}

theorem bind_ok {x : Except ε α} {f : α → Except ε β} {b : β} :
    (x >>= f) = .ok b ↔ ∃ a, x = .ok a ∧ f a = .ok b := by
  cases x with
  | error e => exact ⟨nofun, fun ⟨_, h, _⟩ => nomatch h⟩
  | ok a =>
    refine ⟨fun h => ⟨a, rfl, h⟩, ?_⟩
    rintro ⟨a', h, g⟩
    cases h
    exact g

theorem need_ok {b : Bool} {st d : Nat} {u : Unit} : need b st d = .ok u ↔ b = true := by
  cases b
  · exact ⟨nofun, nofun⟩
  · exact ⟨fun _ => rfl, fun _ => rfl⟩

theorem okDone_ok {s t : State} {ws : List Word} {q : Reply} : okDone s ws = .ok (t, q) ↔ s = t ∧ Reply.done eOk ws = q := by
  simp [okDone]

theorem noting_ok {rs : List NotedRead} {x : Except CErr α} {a : α} : noting rs x = .ok a ↔ x = .ok a := by
  cases x with
  | error e => exact ⟨nofun, nofun⟩
  | ok b => exact .rfl

theorem isOk_iff {x : Except ε α} : x.isOk = true ↔ ∃ a, x = .ok a := by
  cases x with
  | error e => exact ⟨nofun, fun ⟨_, h⟩ => nomatch h⟩
  | ok a => exact ⟨fun _ => ⟨a, rfl⟩, fun _ => rfl⟩

end

/-- An accepted command: its meaning answers, and the answer is carried out. -/
theorem State.command_accepts {s : State} {c : Cmd} {op : Nat} {p : Privilege} {lo hi : Nat}
    {body : Cmd → CmdRef → State → CmdRes} (h : s.accepts c op p lo hi body = true) :
    ∃ t q, body c (c.ref op) (s.turn c op) = .ok (t, q) ∧
      s.command op p lo hi body c = (s.turn c op).answer (c.ref op) (.ok (t, q)) := by
  simp only [State.accepts, Bool.and_eq_true, isOk_iff] at h
  obtain ⟨⟨hm, u, hh⟩, ⟨t, q⟩, hb⟩ := h
  refine ⟨t, q, hb, ?_⟩
  unfold State.command State.process
  unfold State.fetched at hm
  unfold State.turn State.fetched at hb hh ⊢
  dsimp only at hm hb hh ⊢
  rw [if_pos hm, hh]
  dsimp only
  rw [hb]

/-- A rejected command. -/
theorem State.command_rejects {s : State} {c : Cmd} {op : Nat} {p : Privilege} {lo hi : Nat}
    {body : Cmd → CmdRef → State → CmdRes} {e : CErr} (h : s.rejects c op p lo hi body e) :
    s.command op p lo hi body c = (s.turn c op).answer (c.ref op) (.error e) := by
  obtain ⟨hm, h⟩ := h
  unfold State.command State.process
  unfold State.fetched at hm
  unfold State.turn State.fetched at h ⊢
  dsimp only at hm h ⊢
  rw [if_pos hm]
  rcases h with h | ⟨h, hb⟩
  · rw [h]
  · rw [h]
    dsimp only
    rw [hb]

/-- An accepted command that completes. -/
theorem State.command_done {s : State} {c : Cmd} {op : Nat} {p : Privilege} {lo hi : Nat}
    {body : Cmd → CmdRef → State → CmdRes} (h : s.accepts c op p lo hi body = true) {f : State → State} {ws : List Word}
    (hb : ∀ t q, body c (c.ref op) (s.turn c op) = .ok (t, q) → f (s.turn c op) = t ∧ Reply.done eOk ws = q) :
    s.command op p lo hi body c = (f (s.turn c op)).completeOk (c.ref op) ws := by
  obtain ⟨t, q, e, k⟩ := State.command_accepts h
  obtain ⟨rfl, rfl⟩ := hb t q e
  exact k

/-- An accepted command whose record comes later. -/
theorem State.command_later {s : State} {c : Cmd} {op : Nat} {p : Privilege} {lo hi : Nat}
    {body : Cmd → CmdRef → State → CmdRes} (h : s.accepts c op p lo hi body = true) {f : State → State}
    (hb : ∀ t q, body c (c.ref op) (s.turn c op) = .ok (t, q) → f (s.turn c op) = t ∧ Reply.later = q) :
    s.command op p lo hi body c = f (s.turn c op) := by
  obtain ⟨t, q, e, k⟩ := State.command_accepts h
  obtain ⟨rfl, rfl⟩ := hb t q e
  exact k

/-- An accepted command that waits. -/
theorem State.command_wait {s : State} {c : Cmd} {op : Nat} {p : Privilege} {lo hi : Nat}
    {body : Cmd → CmdRef → State → CmdRes} (h : s.accepts c op p lo hi body = true) {f : State → State} {j : Job}
    (hb : ∀ t q, body c (c.ref op) (s.turn c op) = .ok (t, q) → f (s.turn c op) = t ∧ Reply.wait j = q) :
    s.command op p lo hi body c = (f (s.turn c op)).setStage (c.ref op) (.waiting j) := by
  obtain ⟨t, q, e, k⟩ := State.command_accepts h
  obtain ⟨rfl, rfl⟩ := hb t q e
  exact k

/-! ### Rejections (R3, R51, R67) -/
theorem next_advanced {a b : State} (h : a = b) :
    (Host.Outcome.next a.advanced : Host.Outcome State Fault Refusal) = .next b.advanced := by rw [h]
/-- Every command of the index is carried out by its row. -/
theorem exec_command {i : Instr} {c : Cmd} {row : CommandRow} (h : commandOf i = some (c, row)) (s : State) :
    exec i s = .next (s.command row.op row.who row.lo row.hi row.body c).advanced := by
  cases i <;> first | (cases h; rfl) | (cases h)
/-- Its privilege is that of the index (Table 3.12). -/
theorem commandOf_who {i : Instr} {c : Cmd} {row : CommandRow} (h : commandOf i = some (c, row)) :
    (row.op ∈ [0x0102, 0x0103, 0x0104, 0x0105, 0x0106, 0x0107, 0x0203, 0x0502, 0x0503, 0x0603, 0x0704, 0x0801, 0x0802, 0x0806,
        0x0807, 0x0A01, 0x0A02, 0x0A03, 0x0B07, 0x0B08, 0x0C01, 0x0C02, 0x0C03, 0x0C04, 0x0D01, 0x0D02, 0x0D03, 0x0E04,
        0x0E05, 0x0F04, 0x1001, 0x1101, 0x1102, 0x1103] → row.who = .platform) ∧
    (row.op ∈ [0x0901, 0x0902, 0x0903, 0x0904, 0x0905, 0x0B0A] → row.who = .safety) ∧
    (row.op ∉ [0x0303, 0x0404, 0x0B02, 0x1102] → row.lo = 0 ∧ row.hi = 0) := by
  cases i <;> first | (cases h; exact ⟨by decide, by decide, by decide⟩) | (cases h)

theorem tenant_modTenant (s : State) (t u : Nat) (f : Tenant → Tenant) :
    (s.modTenant t f).tenant? u = (s.tenant? u).map (fun x => if u = t then f x else x) := IMap.find_adjust ..

/-- From `s` to `t`, only records: of one tenant, what its mailbox holds and counts; and its place in flight. -/
structure RecordOnly (u : Nat) (r : CmdRef) (s t : State) : Prop where
  rest : t = { s with flights := t.flights, tenants := t.tenants }
  others : ∀ v, v ≠ u → t.tenant? v = s.tenant? v
  own : ∀ x, s.tenant? u = some x → ∃ y, t.tenant? u = some y ∧
    y = { x with mbox := y.mbox, dying := y.dying, faults := y.faults, rates := y.rates } ∧
    y.mbox = { x.mbox with
      held := y.mbox.held, events := y.mbox.events, eventLost := y.mbox.eventLost, dropped := y.mbox.dropped }
  flights : ∀ f ∈ t.flights, ∃ g ∈ s.flights, f.cmd = g.cmd ∧ f.opcode = g.opcode ∧ (f.is r = false → f = g)

theorem RecordOnly.refl (u : Nat) (r : CmdRef) (s : State) : RecordOnly u r s s :=
  ⟨rfl, fun _ _ => rfl, fun x h => ⟨x, h, rfl, rfl⟩, fun f h => ⟨f, h, rfl, rfl, fun _ => rfl⟩⟩

theorem RecordOnly.trans {u : Nat} {r : CmdRef} {a b c : State} (h : RecordOnly u r a b) (k : RecordOnly u r b c) :
    RecordOnly u r a c := by
  refine ⟨?_, ?_, ?_, ?_⟩
  · rw [k.rest, h.rest]
  · intro v hv; rw [k.others v hv, h.others v hv]
  · intro x hx
    obtain ⟨y, hy, e1, e2⟩ := h.own x hx
    obtain ⟨z, hz, e3, e4⟩ := k.own y hy
    refine ⟨z, hz, ?_, ?_⟩
    · rw [e3, e1]
    · rw [e4, e2]
  · intro f hf
    obtain ⟨g, hg, e1, e2, e3⟩ := k.flights f hf
    obtain ⟨g', hg', e4, e5, e6⟩ := h.flights g hg
    refine ⟨g', hg', e1.trans e4, e2.trans e5, fun hn => ?_⟩
    have := e3 hn
    subst this
    exact e6 hn

theorem RecordOnly.tenant {s : State} {u : Nat} {r : CmdRef} {f : Tenant → Tenant}
    (hf : ∀ x, f x = { x with mbox := (f x).mbox, dying := (f x).dying, faults := (f x).faults, rates := (f x).rates } ∧
      (f x).mbox = { x.mbox with
        held := (f x).mbox.held, events := (f x).mbox.events, eventLost := (f x).mbox.eventLost, dropped := (f x).mbox.dropped }) :
    RecordOnly u r s (s.modTenant u f) := by
  refine ⟨rfl, ?_, ?_, fun f h => ⟨f, h, rfl, rfl, fun _ => rfl⟩⟩
  · intro v hv
    rw [tenant_modTenant]
    cases s.tenant? v with
    | none => rfl
    | some x => simp [hv]
  · intro x hx
    refine ⟨f x, ?_, (hf x).1, (hf x).2⟩
    rw [tenant_modTenant, hx]; simp

theorem queueEvent_eq (e : Event) (m : Mailbox) : m.queueEvent e = { m with
    held := (m.queueEvent e).held, events := (m.queueEvent e).events, eventLost := (m.queueEvent e).eventLost
    dropped := (m.queueEvent e).dropped } := by
  unfold Mailbox.queueEvent
  split <;> rfl

theorem RecordOnly.event (s : State) (u code : Nat) (ws : List Word) (r : CmdRef) : RecordOnly u r s (s.event u code ws) :=
  RecordOnly.tenant (fun _ => ⟨rfl, queueEvent_eq _ _⟩)

theorem RecordOnly.eventLimited (s : State) (u code res n : Nat) (ws : List Word) (r : CmdRef) :
    RecordOnly u r s (s.eventLimited u code res n ws).1 := by
  unfold State.eventLimited
  split
  · exact .refl _ _ _
  · simp only
    split
    · refine .trans ?_ (RecordOnly.event _ u code ws r)
      exact .tenant (fun _ => ⟨rfl, rfl⟩)
    · exact .refl _ _ _

theorem RecordOnly.atlasFault (s : State) (u : Nat) (f : AssetFault) (a b : Nat) (r : CmdRef) :
    RecordOnly u r s (s.atlasFault u f a b) := by
  refine .trans ?_ (RecordOnly.eventLimited _ u 0x0201 0 64 _ r)
  exact .tenant (fun _ => ⟨rfl, rfl⟩)

theorem RecordOnly.dropFlight (s : State) (r : CmdRef) (u : Nat) : RecordOnly u r s (s.dropFlight r) :=
  ⟨rfl, fun _ _ => rfl, fun x h => ⟨x, h, rfl, rfl⟩, fun f h => ⟨f, (List.mem_filter.1 h).1, rfl, rfl, fun _ => rfl⟩⟩

theorem RecordOnly.setStage (s : State) (r : CmdRef) (g : FlightStage) (u : Nat) : RecordOnly u r s (s.setStage r g) := by
  refine ⟨rfl, fun _ _ => rfl, fun x h => ⟨x, h, rfl, rfl⟩, fun f h => ?_⟩
  obtain ⟨e, he, rfl⟩ := List.mem_map.1 h
  refine ⟨e, he, ?_⟩
  by_cases k : e.is r
  · rw [if_pos k]; exact ⟨rfl, rfl, fun hn => absurd k (by simpa [Flight.is] using hn)⟩
  · rw [if_neg k]; exact ⟨rfl, rfl, fun _ => rfl⟩

/-- Forming a record changes nothing else (R68, R70). -/
theorem RecordOnly.complete (s : State) (r : CmdRef) (st d : Nat) (ws : List Word) :
    RecordOnly r.tenant r s (s.complete r st d ws) := by
  unfold State.complete
  split
  · exact .refl _ _ _
  · split
    · exact .dropFlight ..
    · split
      · exact (RecordOnly.dropFlight ..).trans (.tenant (fun _ => ⟨rfl, rfl⟩))
      · split
        · exact .dropFlight ..
        · exact (RecordOnly.setStage ..).trans (.tenant (fun _ => ⟨rfl, rfl⟩))

/-- A rejection changes nothing else (R3), but for what its reads counted. -/
theorem RecordOnly.rejected (s : State) (r : CmdRef) (e : CErr) :
    RecordOnly r.tenant r (e.reads.foldl State.note s) (s.answer r (.error e)) := by
  unfold State.answer
  simp only
  split
  · exact .complete ..
  · exact (RecordOnly.atlasFault ..).trans (.complete ..)

theorem tick_tenants (dt : Nat) (s : State) : (s.tick dt).tenants = s.tenants := by
  unfold State.tick; dsimp only; split <;> rfl

end Sys2Proof.Machine
end

