-- ==== Sys2Proof/Laws/Choices.lean ====
section
/-! SUPPORT. Lemmas about the choices that commands make (the channel of R547, the pages of R101, the objects that a line
takes, R141), and about heads and maps after an update. -/

namespace Sys2Proof.Machine

theorem head_modHead (s : State) (h k : Nat) (f : Head → Head) :
    (s.modHead h f).head k = if k = h then f (s.head k) else s.head k := by
  unfold State.modHead State.head
  by_cases e : k = h
  · subst e; simp
  · simp only [IMap.get_put_other _ _ _ e, if_neg e]

theorem find_range_some {p : Nat → Bool} {n h : Nat} (h1 : h < n) (h2 : p h = true) (h3 : ∀ k < h, p k = false) :
    (List.range n).find? p = some h := by
  rw [List.find?_range_eq_some]
  exact ⟨h2, List.mem_range.mpr h1, fun k hk => by simp [h3 k hk]⟩

theorem find_range_none {p : Nat → Bool} {n : Nat} (h3 : ∀ k < n, p k = false) : (List.range n).find? p = none := by
  simp only [List.find?_eq_none, List.mem_range]
  intro x hx
  simp [h3 x hx]

theorem fold_lost (sy : Bool) (l : List Nat) (hl : l.Nodup) (s : State) :
    let t := l.foldl (fun s h =>
      if (s.head h).lock.role = 3 then
        s.modHead h (fun x => { x with lock := { x.lock with lost := !sy } }) else s) s
    t.disp.gptp = s.disp.gptp ∧ t.eth = s.eth ∧
    (∀ h, t.head h = if h ∈ l ∧ (s.head h).lock.role = 3 then { s.head h with lock := { (s.head h).lock with lost := !sy } } else s.head h) := by
  induction l generalizing s with
  | nil => simp
  | cons x l ih =>
    simp only [List.nodup_cons] at hl
    rw [List.foldl_cons]
    obtain ⟨h1, h2, h3⟩ := ih hl.2 (if (s.head x).lock.role = 3 then
        s.modHead x (fun x => { x with lock := { x.lock with lost := !sy } }) else s)
    refine ⟨h1.trans ?_, h2.trans ?_, fun h => (h3 h).trans ?_⟩
    · split <;> rfl
    · split <;> rfl
    · by_cases e : h = x
      · subst e
        have : ¬ (h ∈ l ∧ ((if (s.head h).lock.role = 3 then
          s.modHead h (fun x => { x with lock := { x.lock with lost := !sy } }) else s).head h).lock.role = 3) := fun z => hl.1 z.1
        rw [if_neg this]
        by_cases r : (s.head h).lock.role = 3
        · simp [r, head_modHead]
        · simp [r]
      · have : (if (s.head x).lock.role = 3 then
          s.modHead x (fun x => { x with lock := { x.lock with lost := !sy } }) else s).head h = s.head h := by
          split
          · rw [head_modHead, if_neg e]
          · rfl
        rw [this]
        simp [e]

/-- The number that a command names, or the lowest free one where it names 0xFF. -/
theorem pick_ok {n m v : Nat} {free : Nat → Bool}
    (h : (if n = 0xFF then lowest m free else if free n then some n else none) = some v) :
    (n = 0xFF → lowest m free = some v) ∧ (n ≠ 0xFF → v = n) ∧ free v = true := by
  split at h
  · rename_i z
    exact ⟨fun _ => h, fun g => absurd z g, List.find?_some h⟩
  · rename_i z
    split at h
    · rename_i f
      cases h
      exact ⟨fun g => absurd g z, fun _ => rfl, f⟩
    · cases h
/-- The pages that `allocPages` finds: within the range, apart from those in use, and apart from each other. -/
theorem allocPages_free (u : List (Nat × Nat)) (z st fuel a n : Nat) :
    (allocPages u z st fuel a n).Pairwise (fun p q => p + z ≤ q) ∧
      ∀ p ∈ allocPages u z st fuel a n, a ≤ p ∧ p + z ≤ st ∧ ∀ e ∈ u, p + z ≤ e.1 ∨ e.1 + e.2 ≤ p := by
  induction fuel generalizing a n with
  | zero => exact ⟨.nil, nofun⟩
  | succ k ih =>
    unfold allocPages
    split
    · exact ⟨.nil, nofun⟩
    · rename_i hn
      split
      · obtain ⟨h1, h2⟩ := ih (a + z) n
        exact ⟨h1, fun p hp => ⟨by have := (h2 p hp).1; omega, (h2 p hp).2⟩⟩
      · rename_i hu
        obtain ⟨h1, h2⟩ := ih (a + z) (n - 1)
        refine ⟨List.pairwise_cons.2 ⟨fun p hp => (h2 p hp).1, h1⟩, ?_⟩
        intro p hp
        rcases List.mem_cons.1 hp with rfl | hp
        · refine ⟨Nat.le_refl _, by omega, fun e he => ?_⟩
          simp only [List.any_eq_true, Bool.and_eq_true, decide_eq_true_eq, not_exists, not_and] at hu
          have := hu e he
          omega
        · exact ⟨by have := (h2 p hp).1; omega, (h2 p hp).2⟩

theorem allocPages_length (u : List (Nat × Nat)) (z st fuel a n : Nat) : (allocPages u z st fuel a n).length ≤ n := by
  induction fuel generalizing a n with
  | zero => exact Nat.zero_le _
  | succ k ih =>
    unfold allocPages
    split
    · exact Nat.zero_le _
    · split
      · exact ih _ _
      · have := ih (a + z) (n - 1)
        simp only [List.length_cons]
        omega

theorem choose_ok {t named count limit : Nat} {own : Nat → Option Nat} {x : Except CErr Unit} {n : Nat} {f : Bool}
    (h : chooseChannel t named count limit own x = .ok (n, f)) :
    (named ≠ 0xFF ∧ own named = some t → n = named ∧ f = false) ∧
    (¬(named ≠ 0xFF ∧ own named = some t) → f = true ∧ own n = none ∧ (named = 0xFF ∨ n = named)) := by
  unfold chooseChannel at h
  simp only [bind_ok, need_ok] at h
  obtain ⟨_, h0, _, _, h⟩ := h
  refine ⟨fun z => ?_, fun z => ?_⟩
  · rw [if_pos z] at h
    cases h
    exact ⟨rfl, rfl⟩
  · rw [if_neg z] at h
    simp only [bind_ok] at h
    obtain ⟨_, _, h⟩ := h
    simp at h0
    split at h
    · rename_i y
      cases h
      rcases h0 with (h0 | h0) | h0
      · exact absurd h0 y
      · exact ⟨rfl, h0, .inr rfl⟩
      · exact absurd ⟨y, h0⟩ z
    · rename_i y
      split at h
      · rename_i m hm
        cases h
        have := List.find?_some hm
        simp at this
        exact ⟨rfl, this, .inl (by simpa using y)⟩
      · cases h

theorem choose_named {t named count limit : Nat} {own : Nat → Option Nat} {x : Except CErr Unit} {n : Nat} {f : Bool}
    (h : chooseChannel t named count limit own x = .ok (n, f)) :
    (own n = none ∨ own n = some t) ∧ (named ≠ 0xFF → n = named) ∧
      (named = 0xFF → lowest count (fun n => (own n).isNone) = some n) := by
  by_cases z : named ≠ 0xFF ∧ own named = some t
  · obtain ⟨rfl, _⟩ := (choose_ok h).1 z
    exact ⟨.inr z.2, fun _ => rfl, fun g => absurd g z.1⟩
  · obtain ⟨_, h1, h2⟩ := (choose_ok h).2 z
    refine ⟨.inl h1, fun g => h2.resolve_left g, fun g => ?_⟩
    unfold chooseChannel at h
    simp only [bind_ok] at h
    obtain ⟨_, _, _, _, h⟩ := h
    rw [if_neg z] at h
    simp only [bind_ok] at h
    obtain ⟨_, _, h⟩ := h
    rw [if_neg (fun k => k g)] at h
    split at h
    · rename_i m hm
      cases h
      exact hm
    · cases h

theorem take_spec (cs : List Candidate) : ∀ (n px : Nat) (a b : List Candidate), n ≤ 512 → px ≤ 16384 → takeObjects cs n px = (a, b) →
    cs = a ++ b ∧ n + a.length ≤ 512 ∧ px + (a.map (·.count)).sum ≤ 16384 ∧
    (∀ k ks, b = k :: ks → n + a.length = 512 ∨ 16384 < px + (a.map (·.count)).sum + k.count) ∧
    (∀ f r, cs = f ++ r → n + f.length ≤ 512 → px + (f.map (·.count)).sum ≤ 16384 → f.length ≤ a.length) := by
  induction cs with
  | nil => 
    intro n px a b h1 h2 h
    simp only [takeObjects, Prod.mk.injEq] at h; obtain ⟨rfl, rfl⟩ := h
    simp [h1, h2]
  | cons c cs ih =>
    intro n px a b h1 h2 h
    simp only [takeObjects] at h
    split at h
    · rename_i hc
      simp only [Prod.mk.injEq] at h; obtain ⟨rfl, rfl⟩ := h
      obtain ⟨e1, e2, e3, e4, e5⟩ := ih (n + 1) (px + c.count) _ _ hc.1 hc.2 rfl
      refine ⟨by rw [List.cons_append, ← e1], by simp only [List.length_cons]; omega, by simp only [List.map_cons, List.sum_cons]; omega, ?_, ?_⟩
      · intro k ks hk
        have := e4 k ks hk
        simp only [List.length_cons, List.map_cons, List.sum_cons]; omega
      · intro f r hf l1 l2
        cases f with
        | nil => simp
        | cons x f =>
          simp only [List.cons_append, List.cons.injEq] at hf
          obtain ⟨rfl, hf⟩ := hf
          simp only [List.length_cons, List.map_cons, List.sum_cons] at l1 l2 ⊢
          have := e5 f r hf (by omega) (by omega); omega
    · rename_i hc
      simp only [Prod.mk.injEq] at h; obtain ⟨rfl, rfl⟩ := h
      refine ⟨rfl, by simpa using h1, by simpa using h2, ?_, ?_⟩
      · intro k ks hk
        simp only [List.cons.injEq] at hk; obtain ⟨rfl, rfl⟩ := hk
        simp only [List.length_nil, List.map_nil, List.sum_nil]; omega
      · intro f r hf l1 l2
        cases f with
        | nil => simp
        | cons x f =>
          simp only [List.cons_append, List.cons.injEq] at hf
          obtain ⟨rfl, hf⟩ := hf
          simp only [List.length_cons, List.map_cons, List.sum_cons] at l1 l2
          omega

end Sys2Proof.Machine
end

