-- ==== Sys2Proof/Laws/Memory.lean ====
section
/-! SUPPORT. What leaves the memories of the part alone: one lemma for each shared operation; and what goes on while no tenant is
being destroyed (R53), where no operation releases a tenant's resources. -/

namespace Sys2Proof.Machine

/-! ### While no tenant is being destroyed -/

theorem noneDying_iff {s : State} : s.dyingTenants = [] ↔ ∀ e ∈ s.tenants, e.2.dying = .no := by
  simp only [State.dyingTenants, List.map_eq_nil_iff, List.filter_eq_nil_iff, decide_eq_true_eq, ne_eq, Decidable.not_not]

/-- Nothing is released where no tenant is being destroyed. -/
theorem advanced_calm {s : State} (h : s.dyingTenants = []) : s.advanced = s := by
  rw [State.advanced, h, List.foldl_nil]

theorem calm_of {s t : State} (e : t.tenants = s.tenants) (h : s.dyingTenants = []) : t.dyingTenants = [] := by
  rw [State.dyingTenants, e]; exact h

theorem calm_modTenant {s : State} {u : Nat} {f : Tenant → Tenant} (hf : ∀ x, x.dying = .no → (f x).dying = .no)
    (h : s.dyingTenants = []) : (s.modTenant u f).dyingTenants = [] := by
  rw [noneDying_iff] at h ⊢
  intro e he
  simp only [State.modTenant, IMap.adjust, List.mem_map] at he
  obtain ⟨a, ha, rfl⟩ := he
  split
  · exact hf _ (h a ha)
  · exact h a ha

theorem calm_event {s : State} {u c : Nat} {ws : List Word} (h : s.dyingTenants = []) : (s.event u c ws).dyingTenants = [] :=
  calm_modTenant (fun _ k => k) h

theorem calm_foldl {α : Type} {f : State → α → State} (hf : ∀ s a, s.dyingTenants = [] → (f s a).dyingTenants = [])
    (xs : List α) {s : State} (h : s.dyingTenants = []) : (xs.foldl f s).dyingTenants = [] := by
  induction xs generalizing s with
  | nil => exact h
  | cons x xs ih => exact ih (hf s x h)

theorem calm_notify {s : State} {c r : Nat} {ws : List Word} {p : Nat → Bool} (h : s.dyingTenants = []) :
    (s.notify c r ws p).dyingTenants = [] := by
  unfold State.notify
  exact calm_foldl (fun _ _ => calm_event) _ h

theorem calm_complete {s : State} {r : CmdRef} {x d : Nat} {ws : List Word} (h : s.dyingTenants = []) :
    (s.complete r x d ws).dyingTenants = [] := by
  unfold State.complete
  split
  · exact h
  · split
    · exact h
    · rename_i y hy
      split
      · rename_i hd
        obtain ⟨a, ha, e⟩ := IMap.find_mem hy
        exact absurd (noneDying_iff.1 h _ ha) (e ▸ hd)
      · split
        · exact h
        · exact calm_modTenant (fun _ k => k) h

theorem calm_eventLimited {s : State} {u c r n : Nat} {ws : List Word} (h : s.dyingTenants = []) :
    (s.eventLimited u c r n ws).1.dyingTenants = [] := by
  unfold State.eventLimited
  split
  · exact h
  · dsimp only
    split
    · exact calm_event (calm_modTenant (fun _ k => k) h)
    · exact h

theorem calm_endDebug {s : State} {k : Thread} (h : s.dyingTenants = []) : (s.endDebug k).dyingTenants = [] :=
  calm_foldl (fun _ _ => calm_complete) _ h

/-- The TAB_DEBUG commands that wait for a thread end, and no more. -/
theorem sessionEnds_calm {s : State} {k : Thread} (h : s.dyingTenants = []) : s.sessionEnds k = s.endDebug k := by
  unfold State.sessionEnds
  split
  · rename_i e
    rw [State.endDebug, List.isEmpty_iff.1 e, List.foldl_nil]
  · exact advanced_calm (calm_endDebug h)

/-! ### Memories -/

section mem
variable (s : State)
@[simp] theorem modTenant_mem (t : Nat) (f : Tenant → Tenant) : (s.modTenant t f).mem = s.mem := rfl
@[simp] theorem modMbox_mem (t : Nat) (f : Mailbox → Mailbox) : (s.modMbox t f).mem = s.mem := rfl
@[simp] theorem modBank_mem (t : Nat) (f : Bank → Bank) : (s.modBank t f).mem = s.mem := rfl
@[simp] theorem modTabs_mem (h : Nat) (f : HeadTabs → HeadTabs) : (s.modTabs h f).mem = s.mem := rfl
@[simp] theorem modThread_mem (h k : Nat) (f : Thread → Thread) : (s.modThread h k f).mem = s.mem := rfl
@[simp] theorem charge_mem (h k n : Nat) : (s.charge h k n).mem = s.mem := rfl
@[simp] theorem modHead_mem (h : Nat) (f : Head → Head) : (s.modHead h f).mem = s.mem := rfl
@[simp] theorem setRegs_mem (h k : Nat) (r : TRegs) : (s.setRegs h k r).mem = s.mem := rfl
@[simp] theorem event_mem (t c : Nat) (ws : List Word) : (s.event t c ws).mem = s.mem := rfl
@[simp] theorem dropFlight_mem (r : CmdRef) : (s.dropFlight r).mem = s.mem := rfl
@[simp] theorem setStage_mem (r : CmdRef) (g : FlightStage) : (s.setStage r g).mem = s.mem := rfl
theorem foldl_mem {α : Type} (f : State → α → State) (hf : ∀ s a, (f s a).mem = s.mem) (xs : List α) (s : State) :
    (xs.foldl f s).mem = s.mem := by
  induction xs generalizing s with
  | nil => rfl
  | cons x xs ih => rw [List.foldl_cons, ih, hf]
@[simp] theorem notify_mem (c r : Nat) (ws : List Word) (p : Nat → Bool) : (s.notify c r ws p).mem = s.mem := by
  unfold State.notify
  exact foldl_mem _ (fun s (a : Nat × Tenant) => event_mem s a.1 c ws) _ _
@[simp] theorem complete_mem (r : CmdRef) (x d : Nat) (ws : List Word) : (s.complete r x d ws).mem = s.mem := by
  unfold State.complete
  repeat' split
  all_goals rfl
@[simp] theorem completeOk_mem (r : CmdRef) (ws : List Word) : (s.completeOk r ws).mem = s.mem := complete_mem ..
theorem endDebug_mem (k : Thread) : (s.endDebug k).mem = s.mem := foldl_mem _ (fun s a => completeOk_mem s a []) _ _
theorem haltThread_mem {s : State} (hd : s.dyingTenants = []) (h k c : Nat) : (s.haltThread h k c).mem = s.mem := by
  unfold State.haltThread
  split
  · rfl
  · dsimp only
    rw [notify_mem, sessionEnds_calm (calm_of (by rfl) hd), endDebug_mem, modThread_mem]
theorem tabAfter_mem {s : State} (hd : s.dyingTenants = []) (h k : Nat) : (s.tabAfter h k).mem = s.mem := by
  unfold State.tabAfter
  repeat' split
  all_goals first | rfl | exact haltThread_mem hd ..
@[simp] theorem eventLimited_mem (t c r n : Nat) (ws : List Word) : (s.eventLimited t c r n ws).1.mem = s.mem := by
  unfold State.eventLimited
  split
  · rfl
  · simp only; split <;> rfl
@[simp] theorem eccEvent_mem (a k : Nat) : (s.eccEvent a k).mem = s.mem := by
  unfold State.eccEvent
  split
  · rfl
  · exact eventLimited_mem ..
@[simp] theorem noteUe_mem (w : Nat) : (s.noteUe w).mem = s.mem := by
  unfold State.noteUe
  simp only [eccEvent_mem]
  split <;> rfl
@[simp] theorem noteCe_mem (w : Nat) : (s.noteCe w).mem = s.mem := by
  unfold State.noteCe
  simp only [eccEvent_mem]
  split <;> rfl
theorem portWrite_mem (p : Bool) (a n : Nat) : (s.portWrite p a n).mem = s.mem := by
  unfold State.portWrite
  split
  · rfl
  · dsimp only
    refine foldl_mem _ (fun s w => ?_) _ _
    split <;> rfl
theorem physStore_phys (p : Bool) (a : Nat) (bs : List Byte) :
    (s.physStore p a bs).mem.phys = Mem.write s.mem.phys a (s.storedBytes p a bs) := by
  unfold State.physStore
  dsimp only
  rw [foldl_mem _ (fun s a => noteUe_mem s a)]
  change Mem.write (s.portWrite p a bs.length).mem.phys a _ = _
  rw [portWrite_mem]
theorem physStore_phys_portA (a : Nat) (bs : List Byte) : (s.physStore true a bs).mem.phys = Mem.write s.mem.phys a bs :=
  physStore_phys s true a bs
theorem physStore_host (p : Bool) (a : Nat) (bs : List Byte) : (s.physStore p a bs).mem.host = s.mem.host := by
  unfold State.physStore
  dsimp only
  rw [foldl_mem _ (fun s a => noteUe_mem s a)]
  change (s.portWrite p a bs.length).mem.host = _
  rw [portWrite_mem]

end mem

end Sys2Proof.Machine
end

