-- ==== Sys2Proof/Laws/Tisa.lean ====
section
/-! SUPPORT. What the Tablature instructions' shared operations do: one lemma for each, which the proofs about instructions
cite. -/

namespace Sys2Proof.Machine

/-- A thread of a tab core that can issue is charged, and carries the instruction out. -/
theorem issue_tab {h slot units cost : Nat} {s : State} {k : Thread} {w : Work} {ok : CoreRef → Bool} (hok : ok (.tab h slot) = true)
    (hk : s.thread? h slot = some k) (hi : s.canIssue units (cost + s.extraCost h slot k w) (.tab h slot) = true) :
    s.issue ok units cost w (.tab h slot) =
      (s.spent h slot (issueWait units (cost + s.extraCost h slot k w) k w) (cost + s.extraCost h slot k w) k).tabRun
        h slot units k w := by
  simp only [State.canIssue, hk, Bool.and_eq_true, Bool.not_eq_true', decide_eq_true_eq] at hi
  simp only [State.issue, hok, if_true, State.tabIssue, hk, hi.1.1.1, Bool.not_true, hi.1.1.2]
  rw [if_neg (by simp), if_neg (by simp), if_neg (by omega), if_neg (by omega)]
  rfl

/-- The Peg core carries out what it can issue. -/
theorem issue_peg {units cost : Nat} {s : State} {w : Work} {ok : CoreRef → Bool} (hok : ok .peg = true)
    (hi : s.canIssue units cost .peg = true) : s.issue ok units cost w .peg = s.pegRun units w := by
  simp only [State.canIssue, Bool.and_eq_true, Bool.not_eq_true', decide_eq_true_eq] at hi
  simp only [State.issue, hok, if_true, State.pegIssue, hi.1.1.1.1, hi.1.1.1.2, hi.1.1.2, hi.1.2]
  rw [if_neg (by simp), if_neg (by simp; omega)]

/-- The CP carries out what it can issue. -/
theorem issue_cp {units cost : Nat} {s : State} {w : Work} {ok : CoreRef → Bool} (hok : ok .cp = true)
    (hi : s.canIssue units cost .cp = true) : s.issue ok units cost w .cp = s.cpSpendStep.cpRun units w := by
  simp only [State.canIssue, Bool.and_eq_true, Bool.not_eq_true'] at hi
  have h2 : s.cpSpendStep.cp.regs.pc.getLsbD 0 = false := hi.2
  simp only [State.issue, hok, if_true, State.cpIssue, hi.1, h2]
  rw [if_neg (by simp), if_neg (by simp)]

/-- What a core does with an instruction that only changes registers. -/
theorem issue_regs {who : CoreRef} {s : State} {r q : TRegs} {units cost : Nat} {f : Ctx → TRegs → Except Nat TRegs}
    {ok : CoreRef → Bool} (hok : ok who = true)
    (h : s.coreRegs? who = some r) (hi : s.canIssue units cost who = true)
    (hf : ∀ c : Ctx, c.who = who → c.next = r.pc + word (2 * units) →
      c.lim = (match who with | .tab h slot => (s.thread? h slot).map Thread.codeSize | .peg => some 0x10000 | .cp => none) →
      f c r = .ok q) :
    s.issue ok units cost (.regs f) who = s.issued units cost who q := by
  cases who with
  | tab a b =>
    obtain ⟨k, hk, rfl⟩ := Option.map_eq_some_iff.1 h
    rw [issue_tab (w := .regs f) hok hk hi]
    simp only [State.tabRun, State.tabSimple]
    rw [hf _ rfl rfl (by simp [hk])]
    simp only [State.issued, State.paid, hk, State.setCoreRegs, State.settled, State.extraCost, issueWait, Nat.add_zero]
  | peg =>
    cases h
    rw [issue_peg hok hi, State.pegRun, hf _ rfl rfl rfl]
    rfl
  | cp =>
    cases h
    rw [issue_cp hok hi]
    change (match f ⟨.cp, s.cp.regs.pc + word (2 * units), none⟩ s.cp.regs with | .error e => _ | .ok r => _) = _
    rw [hf _ rfl rfl rfl]
    rfl

@[simp] theorem word2 : word 2 = 2 := rfl
@[simp] theorem word4 : word 4 = 4 := rfl
@[simp] theorem word6 : word 6 = 6 := rfl
@[simp] theorem setDs_ds (r : TRegs) (xs : List Word) : (r.setDs xs).ds = xs := by unfold TRegs.setDs TRegs.ds; split <;> simp_all
@[simp] theorem setDs_cap (r : TRegs) (xs : List Word) : (r.setDs xs).cap = r.cap := by unfold TRegs.setDs TRegs.cap; split <;> simp_all
@[simp] theorem setDs_self (r : TRegs) : r.setDs r.ds = r := by unfold TRegs.setDs TRegs.ds; split <;> rfl
@[simp] theorem setDs_r (r : TRegs) (xs : List Word) : (r.setDs xs).r = r.r := by unfold TRegs.setDs; split <;> rfl
@[simp] theorem setDs_pc (r : TRegs) (xs : List Word) : (r.setDs xs).pc = r.pc := by unfold TRegs.setDs; split <;> rfl
@[simp] theorem with_r_ds (r : TRegs) (xs : List Word) : ({ r with r := xs } : TRegs).ds = r.ds := rfl
@[simp] theorem with_r_cap (r : TRegs) (xs : List Word) : ({ r with r := xs } : TRegs).cap = r.cap := rfl
theorem with_r_setDs (r : TRegs) (xs ys : List Word) : ({ r with r := xs } : TRegs).setDs ys = { r.setDs ys with r := xs } := by
  unfold TRegs.setDs; split <;> simp_all

theorem issue_seq {who : CoreRef} {s : State} {r q : TRegs} {units cost : Nat} {f : Ctx → TRegs → Except Nat TRegs}
    {ok : CoreRef → Bool} (hok : ok who = true)
    (h : s.coreRegs? who = some r) (hi : s.canIssue units cost who = true)
    (hf : ∀ c : Ctx, c.who = who → f c r = .ok q) :
    s.issue ok units cost (.seq f) who = s.issued units cost who { q with pc := r.pc + word (2 * units) } := by
  refine issue_regs hok h hi (fun c h1 h2 _ => ?_)
  rw [hf c h1, h2]
theorem issue_stack {who : CoreRef} {s : State} {r : TRegs} {units cost n : Nat} {f : List Word → List Word} {ys : List Word}
    {ok : CoreRef → Bool} (hok : ok who = true)
    (h : s.coreRegs? who = some r) (hi : s.canIssue units cost who = true)
    (hn : n ≤ r.ds.length) (hy : f (r.ds.take n) ++ r.ds.drop n = ys) (hl : ys.length ≤ r.ds.length ∨ ys.length ≤ r.cap) :
    s.issue ok units cost (.stack n f) who = s.issued units cost who { r.setDs ys with pc := r.pc + word (2 * units) } := by
  refine issue_seq hok h hi (fun c _ => ?_)
  simp only [TRegs.replace, hy]
  rw [if_neg (by omega), if_neg (by omega)]
theorem push_ok {r : TRegs} {v : Word} (h : r.ds.length < r.cap) : r.push v = .ok (r.setDs (v :: r.ds)) := by
  simp only [TRegs.push, TRegs.replace, List.drop_zero, List.cons_append, List.nil_append, List.length_cons]
  rw [if_neg (by omega), if_neg (by omega)]

@[simp] theorem setDs_z (r : TRegs) (xs : List Word) : (r.setDs xs).z = r.z := by unfold TRegs.setDs; split <;> rfl
@[simp] theorem setDs_n (r : TRegs) (xs : List Word) : (r.setDs xs).n = r.n := by unfold TRegs.setDs; split <;> rfl
@[simp] theorem setDs_c (r : TRegs) (xs : List Word) : (r.setDs xs).c = r.c := by unfold TRegs.setDs; split <;> rfl
@[simp] theorem setDs_v (r : TRegs) (xs : List Word) : (r.setDs xs).v = r.v := by unfold TRegs.setDs; split <;> rfl

/-- The registers after an ALU instruction (R235). -/
theorem flagZN_eq (r : TRegs) (who : CoreRef) (v : Word) : r.flagZN (who = .peg) v = { r with
    z := if who = .peg then decide (v = 0) else r.z, n := if who = .peg then v.msb else r.n } := by
  by_cases w : who = .peg <;> simp [TRegs.flagZN, w, BitVec.msb_eq_getLsbD_last]

theorem flagAll_eq (r : TRegs) (who : CoreRef) (x : Word × Bool × Bool) : r.flagAll (who = .peg) x = { r with
    z := if who = .peg then decide (x.1 = 0) else r.z, n := if who = .peg then x.1.msb else r.n
    c := if who = .peg then x.2.1 else r.c, v := if who = .peg then x.2.2 else r.v } := by
  by_cases w : who = .peg <;> simp [TRegs.flagAll, TRegs.flagZN, w, BitVec.msb_eq_getLsbD_last]

theorem issue_alu2 {who : CoreRef} {s : State} {r : TRegs} {cost : Nat} {op : Word → Word → Word} {a b : Word} {xs : List Word}
    {ok : CoreRef → Bool} (hok : ok who = true)
    (h : s.coreRegs? who = some r) (hi : s.canIssue 1 cost who = true) (e : r.ds = b :: a :: xs) :
    s.issue ok 1 cost (.alu2 op) who = s.issued 1 cost who { r.setDs (op a b :: xs) with
        pc := r.pc + 2
        z := if who = .peg then decide (op a b = 0) else r.z
        n := if who = .peg then (op a b).msb else r.n } := by
  rw [Work.alu2, issue_seq hok h hi (q := (r.setDs (op a b :: xs)).flagZN (who = .peg) (op a b)) (by intro c hc; simp only [e, hc])]
  rw [flagZN_eq]; simp

theorem issue_alu1 {who : CoreRef} {s : State} {r : TRegs} {cost : Nat} {op : Word → Word} {a : Word} {xs : List Word}
    {ok : CoreRef → Bool} (hok : ok who = true)
    (h : s.coreRegs? who = some r) (hi : s.canIssue 1 cost who = true) (e : r.ds = a :: xs) :
    s.issue ok 1 cost (.alu1 op) who = s.issued 1 cost who { r.setDs (op a :: xs) with
        pc := r.pc + 2
        z := if who = .peg then decide (op a = 0) else r.z
        n := if who = .peg then (op a).msb else r.n } := by
  rw [Work.alu1, issue_seq hok h hi (q := (r.setDs (op a :: xs)).flagZN (who = .peg) (op a)) (by intro c hc; simp only [e, hc])]
  rw [flagZN_eq]; simp

theorem issue_arith {who : CoreRef} {s : State} {r : TRegs} {cost : Nat} {keep : Bool}
    {op : TRegs → Word → Word → Word × Bool × Bool} {a b : Word} {xs : List Word}
    {ok : CoreRef → Bool} (hok : ok who = true)
    (h : s.coreRegs? who = some r) (hi : s.canIssue 1 cost who = true) (e : r.ds = b :: a :: xs) :
    s.issue ok 1 cost (.arith keep op) who = s.issued 1 cost who
      { r.setDs (if keep then (op r a b).1 :: xs else xs) with
        pc := r.pc + 2
        z := if who = .peg then decide ((op r a b).1 = 0) else r.z
        n := if who = .peg then (op r a b).1.msb else r.n
        c := if who = .peg then (op r a b).2.1 else r.c
        v := if who = .peg then (op r a b).2.2 else r.v } := by
  rw [Work.arith, issue_seq hok h hi
    (q := (r.setDs (if keep then (op r a b).1 :: xs else xs)).flagAll (who = .peg) (op r a b))
    (by intro c hc; simp only [e, hc])]
  rw [flagAll_eq]; simp

/-! ### Results (R234, R235) -/

theorem word_toNat (n : Nat) : word n = BitVec.ofNat 32 n := rfl

theorem addWith_eq (a b : Word) (cin : Bool) : addWith a b cin =
    (a + b + BitVec.ofNat 32 (bitN cin), decide (2 ^ 32 ≤ a.toNat + b.toNat + bitN cin),
      decide (a.toInt + b.toInt + bitN cin < -2147483648) || decide (2147483647 < a.toInt + b.toInt + bitN cin)) := by
  simp only [addWith, Prod.mk.injEq, and_true]
  apply BitVec.eq_of_toNat_eq
  simp [word]

theorem add_eq (a b : Word) : addWith a b false =
    (a + b, decide (2 ^ 32 ≤ a.toNat + b.toNat), BitVec.saddOverflow a b) := by
  rw [addWith_eq]
  simp only [bitN, Prod.mk.injEq]
  refine ⟨by simp, by simp, ?_⟩
  simp only [BitVec.saddOverflow]
  simp only [Bool.false_eq_true, if_false]
  rw [Bool.eq_iff_iff]; simp only [Bool.or_eq_true, decide_eq_true_eq]; simp; omega

theorem toInt_not (b : Word) : (~~~b).toInt = -b.toInt - 1 := by
  rw [BitVec.toInt_not]
  have := b.isLt
  rw [BitVec.toInt_eq_toNat_bmod]
  simp only [Int.bmod]; split <;> split <;> omega

theorem subWith_eq (a b : Word) (cin : Bool) : subWith a b cin =
    (a - b - BitVec.ofNat 32 (1 - bitN cin), decide (b.toNat + (1 - bitN cin) ≤ a.toNat),
      decide (a.toInt - b.toInt - (1 - bitN cin : Nat) < -2147483648) ||
        decide (2147483647 < a.toInt - b.toInt - (1 - bitN cin : Nat))) := by
  rw [subWith, addWith_eq]
  have hb := b.isLt
  have ht := toInt_not b
  have hn : (~~~b).toNat = 2 ^ 32 - 1 - b.toNat := BitVec.toNat_not
  cases cin <;> simp only [bitN, Prod.mk.injEq, hn, ht, if_true, if_false, Bool.false_eq_true]
  · refine ⟨by bv_omega, by rw [Bool.eq_iff_iff]; simp only [decide_eq_true_eq]; omega, ?_⟩
    congr 2 <;> apply propext <;> omega
  · refine ⟨by bv_omega, by rw [Bool.eq_iff_iff]; simp only [decide_eq_true_eq]; omega, ?_⟩
    congr 2 <;> apply propext <;> omega

theorem sub_eq (a b : Word) : subWith a b true =
    (a - b, decide (b.toNat ≤ a.toNat), BitVec.ssubOverflow a b) := by
  rw [subWith_eq]
  simp only [bitN, Prod.mk.injEq]
  refine ⟨by simp, by simp, ?_⟩
  simp only [BitVec.ssubOverflow]
  rw [Bool.eq_iff_iff]; simp only [Bool.or_eq_true, decide_eq_true_eq]; simp; omega

theorem mulhu_eq (a b : Word) :
    word (a.toNat * b.toNat / 2 ^ 32) = (a.zeroExtend 64 * b.zeroExtend 64).extractLsb' 32 32 := by
  have ha := a.isLt
  have hb := b.isLt
  apply BitVec.eq_of_toNat_eq
  simp only [word, BitVec.toNat_ofNat, BitVec.extractLsb'_toNat, BitVec.toNat_mul, BitVec.truncate_eq_setWidth,
    BitVec.toNat_setWidth, Nat.shiftRight_eq_div_pow]
  rw [Nat.mod_eq_of_lt (a := a.toNat) (by omega), Nat.mod_eq_of_lt (a := b.toNat) (by omega),
    Nat.mod_eq_of_lt (a := a.toNat * b.toNat)]
  have : a.toNat * b.toNat < 2 ^ 32 * 2 ^ 32 := Nat.mul_lt_mul'' ha hb
  simpa using this

theorem mulhs_eq (a b : Word) :
    wordI (a.toInt * b.toInt / 2 ^ 32) = (a.signExtend 64 * b.signExtend 64).extractLsb' 32 32 := by
  have h : (a.signExtend 64 * b.signExtend 64) = BitVec.ofInt 64 (a.toInt * b.toInt) := by
    rw [BitVec.signExtend, BitVec.signExtend, BitVec.ofInt_mul]
  rw [h]
  apply BitVec.eq_of_toNat_eq
  simp only [wordI, BitVec.toNat_ofInt, BitVec.extractLsb'_toNat, Nat.shiftRight_eq_div_pow]
  omega

theorem divuW_eq (a b : Word) : divuW a b = if b = 0 then 0xFFFFFFFF else a / b := by
  unfold divuW; split
  · rfl
  · apply BitVec.eq_of_toNat_eq
    have := a.isLt
    have h := Nat.div_le_self a.toNat b.toNat
    simp only [word, BitVec.toNat_ofNat, BitVec.toNat_udiv]
    exact Nat.mod_eq_of_lt (by omega)

theorem remuW_eq (a b : Word) : remuW a b = if b = 0 then a else a % b := by
  unfold remuW; split
  · rfl
  · apply BitVec.eq_of_toNat_eq
    have := a.isLt
    have h := Nat.mod_le a.toNat b.toNat
    simp only [word, BitVec.toNat_ofNat, BitVec.toNat_umod]
    exact Nat.mod_eq_of_lt (by omega)

theorem divsW_eq (a b : Word) : divsW a b = if b = 0 then 0xFFFFFFFF else a.sdiv b := by
  unfold divsW; split
  · rfl
  · apply BitVec.eq_of_toInt_eq
    rw [BitVec.toInt_sdiv, wordI, BitVec.toInt_ofInt]

theorem remsW_eq (a b : Word) : remsW a b = if b = 0 then a else a.srem b := by
  unfold remsW; split
  · rfl
  · rename_i hb
    apply BitVec.eq_of_toInt_eq
    rw [BitVec.toInt_srem, wordI, BitVec.toInt_ofInt]
    rw [← BitVec.toInt_srem]
    exact BitVec.toInt_bmod_cancel _

theorem length_filter_lt (m n : Nat) : ((List.range n).filter (fun i => decide (i < m))).length = min m n := by
  induction n with
  | zero => simp
  | succ n ih =>
    rw [List.range_succ, List.filter_append, List.length_append, ih]
    by_cases h : n < m <;> simp [h] <;> omega

theorem absW_eq (a : Word) : absW a = if a.slt 0 then -a else a := by
  simp [absW, BitVec.slt]

theorem clzW_eq (a : Word) : clzW a = BitVec.clz a := by
  have hc := BitVec.clz_le (x := a)
  have hc' : a.clz.toNat ≤ 32 := by simpa [BitVec.le_def] using hc
  have key : (List.range 32).filter (fun i => decide (a.toNat / 2 ^ i ≠ 0)) =
      (List.range 32).filter (fun i => decide (i < 32 - a.clz.toNat)) := by
    apply List.filter_congr
    intro i hi
    rw [List.mem_range] at hi
    rw [decide_eq_decide, Ne, Nat.div_eq_zero_iff]
    have hp : 0 < 2 ^ i := Nat.pow_pos (by omega)
    have up := BitVec.toNat_lt_two_pow_sub_clz (x := a)
    by_cases ha : a = 0#32
    · subst ha
      simp at up ⊢
    · have lo := BitVec.two_pow_sub_clz_le_toNat_of_ne_zero (x := a) (by decide) ha
      constructor
      · intro h
        apply Nat.lt_of_not_le
        intro h'
        have := Nat.pow_le_pow_right (n := 2) (by omega) h'
        omega
      · intro h
        have h : i < 32 - a.clz.toNat := by simpa using h
        have := Nat.pow_le_pow_right (n := 2) (by omega) (show i ≤ 32 - 1 - a.clz.toNat by omega)
        omega
  rw [clzW, key, length_filter_lt]
  apply BitVec.eq_of_toNat_eq
  simp only [word, BitVec.toNat_ofNat]
  omega

theorem signed_eq (w : Nat) (a : Word) :
    wordI (signed w a.toNat) = (a.setWidth w).signExtend 32 := by
  rw [signed, wordI, BitVec.signExtend, BitVec.ofNat_toNat]

theorem setDs_ptr (r : TRegs) (xs : List Word) (n : Nat) : (r.setDs xs).ptr n = r.ptr n := by
  unfold TRegs.setDs TRegs.ptr TRegs.ps; split <;> simp_all
theorem go_ok {c : Ctx} {t : Word} {r : TRegs} (h : t.getLsbD 0 = false) (hl : ∀ n, c.lim = some n → t.toNat < n) :
    c.go t r = .ok { r with pc := t } := by
  unfold Ctx.go
  rw [h]; simp only [Bool.false_eq_true, if_false]
  split
  · rfl
  · rename_i n hn; rw [if_pos (hl n hn)]

theorem halves_pos (a n : Nat) : 1 ≤ (halves a n).length := by simp only [halves]; split <;> simp
theorem setPtr_ds (r : TRegs) (n : Nat) (v : Word) : (r.setPtr n v).ds = r.ds := by
  unfold TRegs.setPtr TRegs.ds; split <;> simp_all
theorem setPtr_cap (r : TRegs) (n : Nat) (v : Word) : (r.setPtr n v).cap = r.cap := by
  unfold TRegs.setPtr TRegs.cap; split <;> simp_all
theorem setPtr_pc (r : TRegs) (n : Nat) (v : Word) : (r.setPtr n v).pc = r.pc := by
  unfold TRegs.setPtr; split <;> simp_all

/-- Every element present: the list of them. -/
theorem mapM_id_some {α : Type} (n : Nat) (f : Nat → Option α) (bs : List α) (hn : bs.length = n) (h : ∀ j, j < n → f j = bs[j]?) :
    ((List.range n).map f).mapM id = some bs := by
  have : (List.range n).map f = bs.map some := by
    apply List.ext_getElem?
    intro j
    simp only [List.getElem?_map]
    by_cases hj : j < n
    · simp [List.getElem?_range hj, h j hj, hn ▸ hj]
    · have : bs.length ≤ j := by omega
      simp [List.getElem?_eq_none this, List.getElem?_eq_none (l := List.range n) (by simpa using hj)]
  rw [this]
  clear this h hn
  induction bs with
  | nil => rfl
  | cons b bs ih => rw [List.map_cons, List.mapM_cons, ih]; rfl

theorem issue_load {who : CoreRef} {s : State} {r : TRegs} {p k size : Nat} {sext post : Bool}
    (h : s.coreRegs? who = some r) (hl : r.ds.length < r.cap) :
    let a := (r.ptr p + word (k * size)).toNat
    let r' := if post then r.setPtr p (r.ptr p + 4) else r
    let pushed (n : Nat) : TRegs :=
      { r'.setDs ((if sext then wordI (signed (8 * size) n) else word n) :: r.ds) with pc := r.pc + 2 }
    (∀ h slot x xs, who = .tab h slot → s.thread? h slot = some x → x.spots false a size = some xs →
        s.canIssue 1 (halves a size).length who = true →
        let n := (halves a size).length
        let paid := s.spent h slot (4 * n) n x
        s.issue onAll 1 1 (.load p k size sext post) who = paid.modThread h slot (fun y => { y with
          park := some (.load (paid.issueReqs y.owner xs) size sext (if post then some p else none) 1 none) })) ∧
      (∀ bs : List Byte, who = .peg → s.canIssue 1 1 who = true → bs.length = size →
        (∀ j, j < size → s.pegByte ((a + j) % 2 ^ 32) = bs[j]?) →
        s.issue onAll 1 1 (.load p k size sext post) who = s.issued 1 1 .peg (pushed (leNat bs))) ∧
      (who = .cp → s.canIssue 1 1 who = true →
        s.issue onAll 1 1 (.load p k size sext post) who = ({ s.cpSpendStep with freeCount := s.freeCount + 1 } : State).setCpRegs
          (pushed (leNat (leBytes size (Config.freeValue s.freeCount))))) := by
  intro a r' pushed
  have hr' : r'.ds = r.ds ∧ r'.cap = r.cap ∧ r'.pc = r.pc := by
    simp only [r']; split <;> simp [setPtr_ds, setPtr_cap, setPtr_pc]
  have hp (v : Word) : r'.push v = .ok (r'.setDs (v :: r.ds)) := by
    rw [push_ok (by rw [hr'.1, hr'.2.1]; exact hl), hr'.1]
  refine ⟨?_, ?_, ?_⟩
  · rintro hd slot x xs rfl hx hxs hi n paid
    simp only [State.coreRegs?, hx, Option.map_some, Option.some.injEq] at h
    subst h
    have e : 1 + s.extraCost hd slot x (.load p k size sext post) = (halves a size).length := by
      have := halves_pos a size
      show 1 + ((halves a size).length - 1) = _
      omega
    rw [issue_tab (ok := onAll) rfl hx (by rw [e]; exact hi), e]
    simp only [State.tabRun]
    rw [if_neg (by omega)]
    simp only [TRegs.addrOf]
    have ew : issueWait 1 (halves a size).length x (.load p k size sext post) = 4 * (halves a size).length := by
      have := halves_pos a size
      show 4 * (1 + (halves a size).length - 1) = _
      omega
    rw [ew]
    change x.spots false (x.regs.ptr p + word (k * size)).toNat size = some xs at hxs
    rw [hxs]
  · rintro bs rfl hi hb hbs
    cases h
    have hm : ((List.range size).map (fun i => s.pegByte ((s.peg.regs.addrOf p k size + i) % 2 ^ 32))).mapM id = some bs :=
      mapM_id_some _ _ _ hb hbs
    rw [issue_peg (ok := onAll) rfl hi]
    simp only [State.pegRun]
    rw [if_neg (by omega), hm]
    have := hp (loadedWord size sext bs)
    simp only [r'] at this
    simp only [this, Except.map]
    rfl
  · rintro rfl hi
    cases h
    rw [issue_cp (ok := onAll) rfl hi]
    have hl' : ¬ s.cpSpendStep.cp.regs.cap ≤ s.cpSpendStep.cp.regs.ds.length := by
      have : s.cpSpendStep.cp.regs = s.cp.regs := rfl
      rw [this]; omega
    simp only [State.cpRun]
    rw [if_neg hl']
    have h1 : s.cpSpendStep.cp.regs = s.cp.regs := rfl
    have := hp (loadedWord size sext (leBytes size (Config.freeValue s.freeCount)))
    simp only [r'] at this
    simp only [State.fresh, h1]
    have h2 : s.cpSpendStep.freeCount = s.freeCount := rfl
    simp only [h2, this, Except.map]
    rfl

/-! ### Stores -/

section stores
variable (s : State)

theorem mem_readRun_eq (m : Mem) (a n : Nat) (bs : List Byte) (hn : bs.length = n)
    (h : ∀ i, i < n → Mem.read m (a + i) = bs.getD i 0) : Mem.readRun m a n = bs := by
  apply List.ext_getElem?
  intro i
  by_cases hi : i < n
  · have h1 := Mem.readRun_getD m a n i hi
    rw [h i hi] at h1
    have hl : i < (Mem.readRun m a n).length := by simpa using hi
    have hb : i < bs.length := by omega
    rw [List.getElem?_eq_getElem hl, List.getElem?_eq_getElem hb]
    simpa [List.getD, List.getElem?_eq_getElem hl, List.getElem?_eq_getElem hb] using h1
  · rw [List.getElem?_eq_none (by simp; omega), List.getElem?_eq_none (by omega)]

theorem spot_store {k : Thread} {a n : Nat} {x : Spot} (h : k.spot true (a, n) = some x) :
    (a < 0x40000000 ∧ x = .phys (k.dataAt + a) n) ∨
      (0x80000000 ≤ a ∧ a < 0xC0000000 ∧ x = .phys (k.codeAt + (a - 0x80000000)) n) := by
  unfold Thread.spot at h
  simp only [if_true] at h
  split at h
  · split at h
    · exact .inl ⟨by assumption, (Option.some.inj h).symm⟩
    · cases h
  · split at h
    · cases h
    · split at h
      · split at h
        · exact .inr ⟨by omega, by assumption, (Option.some.inj h).symm⟩
        · cases h
      · cases h

/-- The places of a thread's store: in one run of memory, none of them in the asset window. -/
theorem spots_store {k : Thread} {a n : Nat} {xs : List Spot} (h0 : 0 < n) (hn : n ≤ 4) (h : k.spots true a n = some xs) :
    ∃ b, (xs = [.phys b n]) ∨ ∃ m, 0 < m ∧ m < n ∧ xs = [.phys b (n - m), .phys (b + (n - m)) m] := by
  unfold Thread.spots halves at h
  simp only at h
  split at h
  · rw [List.mapM_cons, List.mapM_nil] at h
    cases e : k.spot true (a, n) with
    | none => rw [e] at h; cases h
    | some x =>
      rw [e] at h
      have h : some [x] = some xs := h
      simp only [Option.some.injEq] at h
      obtain ⟨_, rfl⟩ | ⟨_, _, rfl⟩ := spot_store e
      · exact ⟨_, .inl h.symm⟩
      · exact ⟨_, .inl h.symm⟩
  · rename_i hm
    have hlt := Nat.mod_lt a h0
    rw [List.mapM_cons, List.mapM_cons, List.mapM_nil] at h
    cases e : k.spot true (a, n - a % n) with
    | none => rw [e] at h; cases h
    | some x =>
      cases e2 : k.spot true ((a + n - a % n) % 2 ^ 32, a % n) with
      | none => rw [e, e2] at h; cases h
      | some y =>
        rw [e, e2] at h
        have h : some [x, y] = some xs := h
        simp only [Option.some.injEq] at h
        subst h
        obtain ⟨h1, rfl⟩ | ⟨h1, h1', rfl⟩ := spot_store e <;> obtain ⟨h2, rfl⟩ | ⟨h2, h2', rfl⟩ := spot_store e2
        · refine ⟨k.dataAt + a, .inr ⟨a % n, by omega, hlt, ?_⟩⟩
          have : (a + n - a % n) % 2 ^ 32 = a + (n - a % n) := by omega
          rw [this, Nat.add_assoc]
        · omega
        · omega
        · refine ⟨k.codeAt + (a - 0x80000000), .inr ⟨a % n, by omega, hlt, ?_⟩⟩
          have : (a + n - a % n) % 2 ^ 32 - 0x80000000 = (a - 0x80000000) + (n - a % n) := by omega
          rw [this, Nat.add_assoc]

/-- What a thread's store leaves in memory. -/
theorem spotWrite_phys {k : Thread} {a n : Nat} {xs : List Spot} {bs : List Byte} (h0 : 0 < n) (hn : n ≤ 4)
    (h : k.spots true a n = some xs) (hb : bs.length = n) (s : State) :
    xs.flatMap (fun e => match e with | .phys b n => Mem.readRun (s.spotWrite xs bs).mem.phys b n | .asset _ _ => []) = bs ∧
    (∀ y, (∀ e ∈ xs, match e with | .phys b n => y < b ∨ b + n ≤ y | .asset _ _ => True) →
      Mem.read (s.spotWrite xs bs).mem.phys y = Mem.read s.mem.phys y) := by
  obtain ⟨b, rfl | ⟨m, hm0, hm, rfl⟩⟩ := spots_store h0 hn h
  · simp only [State.spotWrite, physStore_phys_portA, List.flatMap_cons, List.flatMap_nil, List.append_nil, List.mem_singleton,
      forall_eq]
    have ht : bs.take n = bs := List.take_of_length_le (by omega)
    rw [ht]
    refine ⟨mem_readRun_eq _ _ _ _ hb (fun i hi => Mem.read_write_same _ _ _ _ (by omega)), fun y hy => ?_⟩
    exact Mem.read_write_other _ _ _ _ (by omega)
  · simp only [State.spotWrite, physStore_phys_portA, List.flatMap_cons, List.flatMap_nil, List.append_nil, List.mem_cons,
      List.not_mem_nil, or_false, forall_eq_or_imp, forall_eq]
    have l1 : (bs.take (n - m)).length = n - m := by simp; omega
    have l2 : ((bs.drop (n - m)).take m) = bs.drop (n - m) := List.take_of_length_le (by simp; omega)
    have l3 : (bs.drop (n - m)).length = m := by simp; omega
    rw [l2]
    refine ⟨?_, fun y hy => ?_⟩
    · rw [mem_readRun_eq _ b (n - m) (bs.take (n - m)) l1, mem_readRun_eq _ (b + (n - m)) m (bs.drop (n - m)) l3,
        List.take_append_drop]
      · exact fun i hi => Mem.read_write_same _ _ _ _ (by omega)
      · intro i hi
        rw [Mem.read_write_other _ _ _ _ (by omega)]
        exact Mem.read_write_same _ _ _ _ (by omega)
    · rw [Mem.read_write_other _ _ _ _ (by omega), Mem.read_write_other _ _ _ _ (by omega)]

theorem issue_store {who : CoreRef} {s : State} {r : TRegs} {p k size : Nat} {post : Bool} {v : Word} {vs : List Word}
    (h : s.coreRegs? who = some r) (hv : r.ds = v :: vs) :
    let a := (r.ptr p + word (k * size)).toNat
    let r' := if post then (r.setDs vs).setPtr p (r.ptr p + 4) else r.setDs vs
    let q : TRegs := { r' with pc := r.pc + 2 }
    (∀ h slot x xs, who = .tab h slot → s.thread? h slot = some x → x.spots true a size = some xs →
        s.canIssue 1 (halves a size).length who = true →
        let n := (halves a size).length
        s.issue onAll 1 1 (.store p k size post) who =
          ((((s.spent h slot (4 * n) n x).spotWrite xs (leBytes size v.toNat)).setRegs h slot q).tabAfter h slot)) ∧
      (who = .peg → s.canIssue 1 1 who = true → (∀ j, j < size → pegWritable ((a + j) % 2 ^ 32) = true) →
        s.issue onAll 1 1 (.store p k size post) who =
          (leBytes size v.toNat).zipIdx.foldl (fun z e => z.pegStore ((a + e.2) % 2 ^ 32) e.1) (s.setPegRegs q)) ∧
      (who = .cp → s.canIssue 1 1 who = true → s.issue onAll 1 1 (.store p k size post) who = s.issued 1 1 .cp q) := by
  intro a r' q
  have hp : r.pop = .ok (v, r.setDs vs) := by simp only [TRegs.pop, hv]
  refine ⟨?_, ?_, ?_⟩
  · rintro hd slot x xs rfl hx hs hi n
    simp only [State.coreRegs?, hx, Option.map_some, Option.some.injEq] at h
    subst h
    have e : 1 + s.extraCost hd slot x (.store p k size post) = (halves a size).length := by
      have := halves_pos a size
      show 1 + ((halves a size).length - 1) = _
      omega
    rw [issue_tab (ok := onAll) rfl hx (by rw [e]; exact hi), e]
    have ew : issueWait 1 (halves a size).length x (.store p k size post) = 4 * (halves a size).length := by
      have := halves_pos a size
      show 4 * (1 + (halves a size).length - 1) = _
      omega
    rw [ew]
    simp only [State.tabRun, State.tabSimple, hp, TRegs.addrOf]
    change x.spots true (x.regs.ptr p + word (k * size)).toNat size = some xs at hs
    rw [hs]
    rfl
  · rintro rfl hi hw
    cases h
    have hw' : (List.range size).all (fun i => pegWritable ((s.peg.regs.addrOf p k size + i) % 2 ^ 32)) = true := by
      rw [List.all_eq_true]
      exact fun j hj => hw j (List.mem_range.1 hj)
    rw [issue_peg (ok := onAll) rfl hi]
    simp only [State.pegRun, hp, hw', Bool.not_true, Bool.false_eq_true, if_false]
    rfl
  · rintro rfl hi
    cases h
    rw [issue_cp (ok := onAll) rfl hi]
    have h1 : s.cpSpendStep.cp.regs = s.cp.regs := rfl
    simp only [State.cpRun, h1, hp]
    rfl

/-- Bytes that the Peg core stores in its data memory. -/
theorem pegStore_run (bs : List Byte) : ∀ (n a : Nat) (s : State), a + n + bs.length ≤ 0x10000 →
    let t := (bs.zipIdx n).foldl (fun z e => z.pegStore ((a + e.2) % 2 ^ 32) e.1) s
    t.mem = s.mem ∧ t.peg.regs = s.peg.regs ∧
      (∀ j, j < bs.length → some (Mem.read t.peg.data (a + n + j)) = bs[j]?) ∧
      (∀ y, y < a + n ∨ a + n + bs.length ≤ y → Mem.read t.peg.data y = Mem.read s.peg.data y) := by
  induction bs with
  | nil => intro n a s _; exact ⟨rfl, rfl, fun j hj => by simp at hj, fun _ _ => rfl⟩
  | cons b bs ih =>
    intro n a s hl t
    simp only [List.length_cons] at hl
    have ha : (a + n) % 2 ^ 32 = a + n := by omega
    let s1 : State := { s with peg := { s.peg with data := Mem.write s.peg.data (a + n) [b] } }
    have ht : t = (bs.zipIdx (n + 1)).foldl (fun z e => z.pegStore ((a + e.2) % 2 ^ 32) e.1) s1 := by
      simp only [t, List.zipIdx_cons, List.foldl_cons, ha]
      congr 1
      simp only [State.pegStore, if_pos (show a + n < 0x10000 by omega)]
      rfl
    obtain ⟨h1, h2, h3, h4⟩ := ih (n + 1) a s1 (by omega)
    rw [ht]
    refine ⟨h1, h2, ?_, ?_⟩
    · intro j hj
      cases j with
      | zero =>
        rw [h4 _ (by omega)]
        have := Mem.read_write_same s.peg.data (a + n) [b] 0 (by simp)
        simpa [s1] using this
      | succ j =>
        have := h3 j (by simpa using hj)
        rw [show a + n + (j + 1) = a + (n + 1) + j by omega]
        simpa using this
    · intro y hy
      simp only [List.length_cons] at hy
      rw [h4 y (by omega)]
      exact Mem.read_write_other _ _ _ _ (by simp; omega)


end stores

theorem tab_issue {h slot : Nat} {s : State} {k : Thread} {w : Work} {cost : Nat} {ok : CoreRef → Bool} (hok : ok (.tab h slot) = true)
    (hk : s.thread? h slot = some k) (hi : s.canIssue 1 cost (.tab h slot) = true)
    (he : s.extraCost h slot k w = 0) :
    s.issue ok 1 cost w (.tab h slot) = (s.spent h slot (issueWait 1 cost k w) cost k).tabRun h slot 1 k w := by
  rw [issue_tab hok hk (by rw [he]; exact hi), he, Nat.add_zero]
theorem lineWrite_snd (h t : Nat) (w : LWrite) (s s' : State) (hd : s'.disp = s.disp) :
    (s'.lineWrite h t w).2 = (s.lineWrite h t w).2 := by
  have hh (n : Nat) : s'.head n = s.head n := by unfold State.head; rw [hd]
  cases w with
  | param a b c =>
    have hf : s'.findPlane t a = s.findPlane t a := by
      unfold State.findPlane; simp only [hh]
    simp only [State.lineWrite, hf]
    split
    · rfl
    · split <;> rfl
  | pal a b =>
    simp only [State.lineWrite, hh]
    split <;> rfl
theorem sw_eq (r : TRegs) (who : CoreRef) (w : Word) : r.setSw who w = { r with
      wrIgn := w.getLsbD 5
      ie := match who with | .tab _ _ => r.ie | _ => w.getLsbD 4
      v := if who = .peg then w.getLsbD 3 else r.v
      c := if who = .peg then w.getLsbD 2 else r.c
      n := if who = .peg then w.getLsbD 1 else r.n
      z := if who = .peg then w.getLsbD 0 else r.z } := by
  rcases who with ⟨a, b⟩ | _ | _ <;> rfl
theorem sw_fields (r : TRegs) : r.fault < 16 → r.r.length < 32 → r.ds.length < 64 →
    r.sw.toNat / 2 ^ 28 = r.fault ∧ r.sw.toNat / 2 ^ 16 % 2 ^ 12 = r.r.length ∧ r.sw.toNat / 2 ^ 8 % 2 ^ 8 = r.ds.length ∧
    r.sw.getLsbD 7 = r.fast ∧ r.sw.getLsbD 6 = false ∧ r.sw.getLsbD 5 = r.wrIgn ∧ r.sw.getLsbD 4 = r.ie ∧ r.sw.getLsbD 3 = r.v ∧
    r.sw.getLsbD 2 = r.c ∧ r.sw.getLsbD 1 = r.n ∧ r.sw.getLsbD 0 = r.z := by
  intro h1 h2 h3
  let low : Nat := bitN r.fast * 128 + bitN r.wrIgn * 32 + bitN r.ie * 16 + bitN r.v * 8 + bitN r.c * 4 + bitN r.n * 2 + bitN r.z
  have hlow : low < 256 := by
    have b (x : Bool) : bitN x ≤ 1 := by cases x <;> decide
    have := b r.fast; have := b r.wrIgn; have := b r.ie; have := b r.v; have := b r.c; have := b r.n; have := b r.z
    simp only [low]; omega
  have e : r.sw.toNat = r.fault * 2 ^ 28 + r.r.length * 2 ^ 16 + r.ds.length * 2 ^ 8 + low := by
    simp only [TRegs.sw, word, BitVec.toNat_ofNat, low]
    simp only [low] at hlow
    omega
  have lb (i : Nat) (hi : i < 8) : r.sw.getLsbD i = low.testBit i := by
    rw [BitVec.getLsbD, e]
    have : (r.fault * 2 ^ 28 + r.r.length * 2 ^ 16 + r.ds.length * 2 ^ 8 + low) =
        2 ^ 8 * (r.fault * 2 ^ 20 + r.r.length * 2 ^ 8 + r.ds.length) + low := by omega
    rw [this, Nat.testBit_two_pow_mul_add _ (by omega), if_pos hi]
  refine ⟨by omega, by omega, by omega, ?_⟩
  rw [lb 7 (by omega), lb 6 (by omega), lb 5 (by omega), lb 4 (by omega), lb 3 (by omega), lb 2 (by omega), lb 1 (by omega), lb 0 (by omega)]
  simp only [low]
  cases r.fast <;> cases r.wrIgn <;> cases r.ie <;> cases r.v <;> cases r.c <;> cases r.n <;> cases r.z <;> decide

theorem put_put {α : Type} (m : IMap α) (k : Nat) (a b : α) : IMap.put (IMap.put m k a) k b = IMap.put m k b := by
  induction m with
  | nil => simp [IMap.put]
  | cons e m ih =>
    obtain ⟨j, c⟩ := e
    simp only [IMap.put]
    by_cases h1 : j = k
    · simp [h1, IMap.put]
    · by_cases h2 : k < j
      · simp [h1, h2, IMap.put]
      · simp [h1, h2, IMap.put, ih]
theorem modThread_modThread (s : State) (h slot : Nat) (f g : Thread → Thread) :
    (s.modThread h slot f).modThread h slot g = s.modThread h slot (fun k => g (f k)) := by
  simp only [State.modThread, State.modTabs, State.headTabs, IMap.get_put_same, IMap.adjust_adjust, put_put]
theorem thread_modThread {s : State} {h slot : Nat} {k : Thread} (hk : s.thread? h slot = some k) (f : Thread → Thread) :
    (s.modThread h slot f).thread? h slot = some (f k) := by
  simp only [State.thread?, State.modThread, State.modTabs, State.headTabs, IMap.get_put_same, IMap.find_adjust_same]
  simp only [State.thread?, State.headTabs] at hk
  rw [hk]; rfl

theorem addCharge_regs (k : Thread) (n : Nat) : (k.addCharge n).regs = k.regs := by unfold Thread.addCharge; split <;> rfl
theorem addCharge_codeSize (k : Thread) (n : Nat) : (k.addCharge n).codeSize = k.codeSize := by unfold Thread.addCharge; split <;> rfl
theorem thread_charge {s : State} {h slot : Nat} {k : Thread} (hk : s.thread? h slot = some k) (n : Nat) :
    (s.charge h slot n).thread? h slot = some { k.addCharge n with passBreak := false } := thread_modThread hk _
theorem thread_markIssue {s : State} {h slot : Nat} {k : Thread} (hk : s.thread? h slot = some k) (n : Nat) :
    (s.markIssue h slot n k).thread? h slot = some { k with readyAt := s.issueCycle h slot k + n, yielded := [] } := by
  unfold State.thread? State.markIssue State.modTabs State.headTabs at *
  simp only [IMap.get_put_same]
  refine (IMap.find_map _ (fun e : Nat × Thread => if e.1 = slot then { e.2 with readyAt := s.issueCycle h slot k + n, yielded := [] }
    else { e.2 with yielded := e.2.yielded.filter (· != slot) }) slot).trans ?_
  rw [hk]; simp
theorem thread_setRegs {s : State} {h slot : Nat} {k : Thread} (hk : s.thread? h slot = some k) (r : TRegs) :
    (s.setRegs h slot r).thread? h slot = some { k with regs := r } := thread_modThread hk _
theorem setRegs_setRegs (s : State) (h slot : Nat) (r q : TRegs) : (s.setRegs h slot r).setRegs h slot q = s.setRegs h slot q :=
  modThread_modThread ..
@[simp] theorem setDs_setDs (r : TRegs) (xs ys : List Word) : (r.setDs xs).setDs ys = r.setDs ys := by
  unfold TRegs.setDs; split <;> simp_all
theorem with_pc_setDs (r : TRegs) (xs : List Word) : ({ r.setDs xs with pc := r.pc } : TRegs) = r.setDs xs := by
  unfold TRegs.setDs; split <;> rfl
theorem flagZN_false (r : TRegs) (v : Word) : r.flagZN false v = r := rfl
theorem flagAll_false (r : TRegs) (x : Word × Bool × Bool) : r.flagAll false x = r := rfl

/-- One micro-op of an ALU instruction with two operands. -/
theorem micro_alu2 {s : State} {h slot : Nat} {k : Thread} {imm ext u : Word} {us : List Word} {n : Nat} {trial : Bool}
    {op : Word → Word → Word} {a b : Word} {xs : List Word}
    (hk : s.thread? h slot = some k) (h0 : bits u.toNat 30 28 = 0) (hu : ∃ x y, unitWork (u.toNat % 0x10000) = some (x, y, .alu2 op))
    (e : k.regs.ds = b :: a :: xs) :
    s.microRun h slot imm ext trial (u :: us) 0 n =
      (s.setRegs h slot (k.regs.setDs (op a b :: xs))).microRun h slot imm ext trial us 0
        (n + (1 + iterativeExtra (u.toNat % 0x10000))) := by
  obtain ⟨x, y, hu⟩ := hu
  rw [State.microRun, hk]
  simp only [Work.alu2] at hu
  simp only [h0, microCycles, hu, State.tabSimple, Work.seq, e]
  congr 2
  simp only [TRegs.flagZN, reduceCtorEq, decide_false, Bool.false_eq_true, if_false]
  exact with_pc_setDs ..
theorem micro_add {s : State} {h slot : Nat} {k : Thread} {imm ext u : Word} {us : List Word} {n : Nat} {trial : Bool}
    {a b : Word} {xs : List Word}
    (hk : s.thread? h slot = some k) (h0 : bits u.toNat 30 28 = 0)
    (hu : ∃ x y, unitWork (u.toNat % 0x10000) = some (x, y, .arith true (fun _ a b => addWith a b false)))
    (e : k.regs.ds = b :: a :: xs) :
    s.microRun h slot imm ext trial (u :: us) 0 n =
      (s.setRegs h slot (k.regs.setDs ((a + b) :: xs))).microRun h slot imm ext trial us 0
        (n + (1 + iterativeExtra (u.toNat % 0x10000))) := by
  obtain ⟨x, y, hu⟩ := hu
  rw [State.microRun, hk]
  simp only [Work.arith] at hu
  simp only [h0, microCycles, hu, State.tabSimple, Work.seq, e, if_true, add_eq]
  congr 2
  simp only [TRegs.flagAll, reduceCtorEq, decide_false, Bool.false_eq_true, if_false]
  exact with_pc_setDs ..
/-- One micro-op that pushes the immediate. -/
theorem micro_imm {s : State} {h slot : Nat} {k : Thread} {imm ext u : Word} {us : List Word} {n : Nat} {trial : Bool}
    (hk : s.thread? h slot = some k) (h0 : bits u.toNat 30 28 = 1) (hl : k.regs.ds.length < k.regs.cap) :
    s.microRun h slot imm ext trial (u :: us) 0 n =
      (s.setRegs h slot (k.regs.setDs (imm :: k.regs.ds))).microRun h slot imm ext trial us 0 (n + 1) := by
  rw [State.microRun, hk]
  simp only [h0, State.microPush, push_ok hl]
theorem idxa {s : State} {h slot : Nat} {k : Thread} {imm ext : Word} {trial : Bool} {base y : Word} {xs : List Word}
    (hk : s.thread? h slot = some k) (e : k.regs.ds = y :: base :: xs) (hl : k.regs.ds.length < k.regs.cap) :
    s.microRun h slot imm ext trial [0x10000000, 0x00001280, 0x80001000] 0 0 =
      (s.setRegs h slot (k.regs.setDs ((base + y <<< (imm.toNat % 32)) :: xs)), 3, .done) := by
  rw [micro_imm hk (by decide) hl, e]
  have k1 := thread_setRegs hk (k.regs.setDs (imm :: y :: base :: xs))
  rw [micro_alu2 (op := fun a b => a <<< shiftBy b) (a := y) (b := imm) (xs := base :: xs) k1 (by decide) ⟨2, 1, rfl⟩ (by simp), setRegs_setRegs]
  have k2 := thread_setRegs hk (k.regs.setDs ((y <<< shiftBy imm) :: base :: xs))
  simp only [setDs_setDs]
  rw [micro_add (a := base) (b := y <<< shiftBy imm) (xs := xs) k2 (by decide) ⟨2, 1, rfl⟩ (by simp), setRegs_setRegs, State.microRun]
  simp only [setDs_setDs]
  rfl

@[simp] theorem complete_tabs (s : State) (r : CmdRef) (x d : Nat) (ws : List Word) : (s.complete r x d ws).tabs = s.tabs := by
  unfold State.complete
  repeat' split
  all_goals rfl
@[simp] theorem completeOk_tabs (s : State) (r : CmdRef) (ws : List Word) : (s.completeOk r ws).tabs = s.tabs := complete_tabs ..
theorem foldl_tabs {α : Type} (f : State → α → State) (hf : ∀ s a, (f s a).tabs = s.tabs) (xs : List α) (s : State) :
    (xs.foldl f s).tabs = s.tabs := by
  induction xs generalizing s with
  | nil => rfl
  | cons x xs ih => rw [List.foldl_cons, ih, hf]
@[simp] theorem notify_tabs (s : State) (c r : Nat) (ws : List Word) (p : Nat → Bool) : (s.notify c r ws p).tabs = s.tabs := by
  unfold State.notify
  exact foldl_tabs _ (fun s (a : Nat × Tenant) => (rfl : (s.event a.1 c ws).tabs = s.tabs)) _ _
theorem thread_of_tabs {s s' : State} (h : s'.tabs = s.tabs) (a b : Nat) : s'.thread? a b = s.thread? a b := by
  unfold State.thread? State.headTabs; rw [h]
theorem calm_tabFault {s : State} {h slot cause : Nat} (hd : s.dyingTenants = []) : (s.tabFault h slot cause).dyingTenants = [] := by
  unfold State.tabFault
  split
  · exact hd
  · exact calm_notify (calm_of (by rfl) hd)
/-- A fault leaves the thread's registers but for SW.fault. -/
theorem thread_faultThread {s : State} {h slot : Nat} {k : Thread} (hd : s.dyingTenants = []) (hk : s.thread? h slot = some k)
    (cause : Nat) : ((s.faultThread h slot cause).thread? h slot).map Thread.regs = some { k.regs with fault := cause } := by
  unfold State.faultThread
  rw [hk]
  simp only
  rw [sessionEnds_calm (calm_of (by rfl) (calm_tabFault hd)), State.endDebug,
    thread_of_tabs (foldl_tabs _ (fun s a => completeOk_tabs s a []) _ _)]
  have : (s.tabFault h slot cause).thread? h slot = some { k with
      state := .faulted, wakes := [], fast := none, park := none, pending := []
      lastCharge := if k.wakes.isEmpty then k.lastCharge else min 0xFFFF k.charge
      regs := { k.regs with fault := cause } } := by
    unfold State.tabFault
    rw [hk]
    simp only
    rw [thread_of_tabs (notify_tabs ..), thread_modThread hk]
  rw [thread_modThread this]
  rfl
theorem faultThread_mem {s : State} (hd : s.dyingTenants = []) (h slot cause : Nat) : (s.faultThread h slot cause).mem = s.mem := by
  unfold State.faultThread
  split
  · rfl
  · rw [sessionEnds_calm (calm_of (by rfl) (calm_tabFault hd)), endDebug_mem, modThread_mem]
    unfold State.tabFault
    split
    · rfl
    · simp only [notify_mem, modThread_mem]
theorem hostWrite_frame {s t : State} {x a : Nat} {bs : List Byte} (h : s.hostWrite x a bs = some t) :
    t.cp = s.cp ∧ t.mem.phys = s.mem.phys := by
  simp only [State.hostWrite] at h
  split at h
  · cases h
  · cases h; exact ⟨rfl, rfl⟩
theorem devEvent_frame (s : State) (b : Nat) : (s.devEvent b).cp = s.cp ∧ (s.devEvent b).mem.phys = s.mem.phys := by
  have rv (s : State) (v : Nat) : (s.raiseVector v).cp = s.cp ∧ (s.raiseVector v).mem.phys = s.mem.phys := by
    unfold State.raiseVector
    extract_lets
    split
    · exact ⟨rfl, rfl⟩
    · cases e : s.hostWrite noPasid _ _ with
      | none => exact ⟨rfl, rfl⟩
      | some t => exact hostWrite_frame e
  unfold State.devEvent
  extract_lets t
  have ht : t.cp = s.cp ∧ t.mem.phys = s.mem.phys := ⟨rfl, rfl⟩
  split
  · exact ht
  · split
    · exact ⟨(rv _ _).1, (rv _ _).2⟩
    · exact ⟨rfl, rfl⟩
/-- What a core does with an instruction that faults. -/
theorem issue_fault {who : CoreRef} {s : State} {r : TRegs} {units cost e : Nat} {f : Ctx → TRegs → Except Nat TRegs}
    {ok : CoreRef → Bool} (hok : ok who = true)
    (h : s.coreRegs? who = some r) (hi : s.canIssue units cost who = true)
    (hf : ∀ c : Ctx, f c r = .error e) :
    s.issue ok units cost (.regs f) who = s.faulted units cost e who := by
  cases who with
  | tab a b =>
    obtain ⟨k, hk, rfl⟩ := Option.map_eq_some_iff.1 h
    rw [issue_tab (w := .regs f) hok hk hi]
    simp only [State.tabRun, State.tabSimple, hf]
    simp only [State.faulted, State.paid, hk, State.extraCost, issueWait, Nat.add_zero]
  | peg =>
    cases h
    rw [issue_peg hok hi, State.pegRun]
    simp only [hf]
    rfl
  | cp =>
    cases h
    rw [issue_cp hok hi]
    change (match f ⟨.cp, s.cp.regs.pc + word (2 * units), none⟩ s.cp.regs with | .error e => _ | .ok r => _) = _
    rw [hf]
    rfl
theorem issue_seq_fault {who : CoreRef} {s : State} {r : TRegs} {units cost e : Nat} {f : Ctx → TRegs → Except Nat TRegs}
    {ok : CoreRef → Bool} (hok : ok who = true)
    (h : s.coreRegs? who = some r) (hi : s.canIssue units cost who = true)
    (hf : ∀ c : Ctx, f c r = .error e) :
    s.issue ok units cost (.seq f) who = s.faulted units cost e who :=
  issue_fault hok h hi (fun c => by rw [hf c])
/-- An instruction outside its core's profile. -/
theorem issue_illegal {who : CoreRef} {s : State} {units cost : Nat} {w : Work} {ok : CoreRef → Bool} (hok : ok who = false)
    (hi : s.canIssue 1 1 who = true) : s.issue ok units cost w who = s.faulted 1 1 5 who := by
  have h : ∃ r, s.coreRegs? who = some r := by
    cases who with
    | tab a b =>
      simp only [State.canIssue] at hi
      cases e : s.thread? a b with
      | none => rw [e] at hi; cases hi
      | some k => exact ⟨k.regs, by simp [State.coreRegs?, e]⟩
    | peg => exact ⟨_, rfl⟩
    | cp => exact ⟨_, rfl⟩
  obtain ⟨r, h⟩ := h
  have : s.issue ok units cost w who = s.issue onAll 1 1 Work.illegal who := by
    unfold State.issue
    simp only [hok, onAll, if_true, Bool.false_eq_true, if_false]
  rw [this]
  exact issue_fault rfl h hi (fun _ => rfl)

end Sys2Proof.Machine
end

