-- ==== Sys2Proof/Laws/Cores.lean ====
section
/-! SUPPORT. What the operations of a core leave alone: the threads and registers of every other core (R225, R226). -/

namespace Sys2Proof.Machine

/-- A thread but for the note that it has yielded, which the issues of its neighbours change (R241). -/
def Thread.unyielded (k : Thread) : Thread := { k with yielded := [] }

/-- Nothing but the thread of `who` differs, where no tenant is being destroyed (the end of a command could then release one). -/
structure Stays (who : CoreRef) (s t : State) : Prop where
  calmly : s.dyingTenants = [] → t.dyingTenants = [] ∧
    (∀ h slot, who ≠ .tab h slot → (t.thread? h slot).map Thread.unyielded = (s.thread? h slot).map Thread.unyielded) ∧
      (who ≠ .peg → t.peg = s.peg) ∧ (who ≠ .cp → t.cp = s.cp)
theorem Stays.refl {w : CoreRef} {s : State} : Stays w s s := ⟨fun h => ⟨h, fun _ _ _ => rfl, fun _ => rfl, fun _ => rfl⟩⟩
theorem Stays.trans {w : CoreRef} {s t u : State} (a : Stays w s t) (b : Stays w t u) : Stays w s u := ⟨fun hs =>
  have a := a.calmly hs
  have b := b.calmly a.1
  ⟨b.1, fun h k n => (b.2.1 h k n).trans (a.2.1 h k n), fun n => (b.2.2.1 n).trans (a.2.2.1 n),
    fun n => (b.2.2.2 n).trans (a.2.2.2 n)⟩⟩
/-- An operation of no core's registers, as far as it keeps every tenant's life. -/
theorem Stays.calm {w : CoreRef} {s t : State} (h0 : s.dyingTenants = [] → t.dyingTenants = []) (h1 : t.tabs = s.tabs)
    (h2 : t.peg = s.peg) (h3 : t.cp = s.cp) : Stays w s t :=
  ⟨fun hs => ⟨h0 hs, fun _ _ _ => by rw [thread_of_tabs h1], fun _ => h2, fun _ => h3⟩⟩
theorem Stays.of {w : CoreRef} {s t : State} (h0 : t.tenants = s.tenants) (h1 : t.tabs = s.tabs) (h2 : t.peg = s.peg)
    (h3 : t.cp = s.cp) : Stays w s t := .calm (calm_of h0) h1 h2 h3
theorem Stays.fold {α : Type} {w : CoreRef} (f : State → α → State) (hf : ∀ s a, Stays w s (f s a)) (xs : List α) (s : State) :
    Stays w s (xs.foldl f s) := by
  induction xs generalizing s with
  | nil => exact .refl
  | cons x xs ih => exact (hf s x).trans (ih _)
theorem stays_modThread (h slot : Nat) (f : Thread → Thread) (s : State) : Stays (.tab h slot) s (s.modThread h slot f) := by
  refine ⟨fun hs => ⟨hs, fun a b n => ?_, fun _ => rfl, fun _ => rfl⟩⟩
  unfold State.modThread State.modTabs State.thread? State.headTabs
  by_cases e : a = h
  · subst e
    simp only [IMap.get_put_same]
    rw [IMap.find_adjust_other _ _ (fun z => n (by rw [z]))]
  · simp only [IMap.get_put_other _ _ _ e]

section st
variable {w : CoreRef}
theorem stays_event (t c : Nat) (ws : List Word) (s : State) : Stays w s (s.event t c ws) := .calm calm_event rfl rfl rfl
theorem stays_notify (c r : Nat) (ws : List Word) (p : Nat → Bool) (s : State) : Stays w s (s.notify c r ws p) := by
  unfold State.notify
  exact .fold _ (fun s (a : Nat × Tenant) => stays_event a.1 c ws s) _ _
theorem stays_complete (r : CmdRef) (x d : Nat) (ws : List Word) (s : State) : Stays w s (s.complete r x d ws) := by
  have h : (s.complete r x d ws).tabs = s.tabs ∧ (s.complete r x d ws).peg = s.peg ∧ (s.complete r x d ws).cp = s.cp := by
    unfold State.complete
    repeat' split
    all_goals exact ⟨rfl, rfl, rfl⟩
  exact .calm calm_complete h.1 h.2.1 h.2.2
theorem stays_completes (rs : List CmdRef) (s : State) : Stays w s (rs.foldl (fun s r => s.completeOk r []) s) :=
  .fold _ (fun s r => stays_complete r _ _ _ s) _ _
theorem stays_sessionEnds (k : Thread) (s : State) : Stays w s (s.sessionEnds k) := ⟨fun hs => by
  rw [sessionEnds_calm hs]
  exact (stays_completes _ _).calmly hs⟩
theorem stays_halt (h k c : Nat) (s : State) : Stays (.tab h k) s (s.haltThread h k c) := by
  unfold State.haltThread
  split
  · exact .refl
  · exact ((stays_modThread ..).trans (stays_sessionEnds ..)).trans (stays_notify ..)
theorem stays_fault (h k c : Nat) (s : State) : Stays (.tab h k) s (s.faultThread h k c) := by
  unfold State.faultThread
  split
  · exact .refl
  · refine Stays.trans (Stays.trans ?_ (stays_modThread ..)) (stays_sessionEnds ..)
    unfold State.tabFault
    split
    · exact .refl
    · exact (stays_modThread ..).trans (stays_notify ..)
theorem stays_after (h k : Nat) (s : State) : Stays (.tab h k) s (s.tabAfter h k) := by
  unfold State.tabAfter
  repeat' split
  all_goals first | exact .refl | exact stays_halt .. | exact stays_modThread ..
theorem stays_overrun (h k : Nat) (s : State) : Stays (.tab h k) s (s.overrun h k) := by
  unfold State.overrun
  split
  · exact .refl
  · split
    · exact stays_fault ..
    · simp only
      have e (f : Head → Head) : Stays (.tab h k) s (s.modHead h f) := .of rfl rfl rfl rfl
      split
      · exact (e _).trans (stays_modThread ..)
      · exact (e _).trans (stays_fault ..)
theorem stays_noteUe (x : Nat) (s : State) : Stays w s (s.noteUe x) := by
  have ee (s : State) : Stays w s (s.eccEvent x 2) := by
    unfold State.eccEvent
    split
    · exact .refl
    · unfold State.eventLimited
      split
      · exact .refl
      · simp only; split
        · dsimp only
          refine Stays.trans ?_ (stays_event ..)
          exact .calm (calm_modTenant fun _ k => k) rfl rfl rfl
        · exact .of rfl rfl rfl rfl
  unfold State.noteUe
  extract_lets t
  have ht : Stays w s t := by
    dsimp only [t]
    split
    · exact .refl
    · exact .of rfl rfl rfl rfl
  exact ht.trans (ee _)
theorem stays_portWrite (p : Bool) (a n : Nat) (s : State) : Stays w s (s.portWrite p a n) := by
  unfold State.portWrite
  split
  · exact .refl
  · dsimp only
    refine Stays.trans (.fold _ (fun s x => ?_) _ s) (.of rfl rfl rfl rfl)
    split
    · exact .refl
    · exact .of rfl rfl rfl rfl
theorem stays_wakeMemory (a : Nat) (s : State) : Stays w s (s.wakeMemory a) := by
  unfold State.wakeMemory
  repeat' split
  all_goals exact .of rfl rfl rfl rfl
theorem stays_spotWrite (xs : List Spot) : ∀ (bs : List Byte) (s : State), Stays w s (s.spotWrite xs bs) := by
  induction xs with
  | nil => intro bs s; unfold State.spotWrite; exact .refl
  | cons x xs ih =>
    intro bs s
    cases x with
    | phys a n =>
      unfold State.spotWrite
      refine Stays.trans ?_ (ih _ _)
      unfold State.physStore
      dsimp only
      refine Stays.trans ?_ (.fold _ (fun s a => stays_noteUe a s) _ _)
      refine Stays.trans ((stays_portWrite true a (bs.take n).length s).trans (stays_wakeMemory a _)) ?_
      exact .of rfl rfl rfl rfl
    | asset a n => unfold State.spotWrite; exact .refl
theorem stays_tabWrite (h slot : Nat) (k : Thread) (x : LWrite) (s : State) : Stays (.tab h slot) s (s.tabWrite h slot k x) := by
  unfold State.tabWrite
  simp only
  split
  · refine ⟨fun hs => ⟨hs, fun a b _ => ?_, fun _ => rfl, fun _ => rfl⟩⟩
    unfold State.modTabs State.thread? State.headTabs
    by_cases e : a = h
    · subst e; simp only [IMap.get_put_same]
    · simp only [IMap.get_put_other _ _ _ e]
  · exact Stays.trans (stays_modThread ..) (.of rfl rfl rfl rfl)
theorem stays_simple {h slot : Nat} {k : Thread} {c : Ctx} {x : Work} {s t : State} (e : s.tabSimple h slot k c x = .ok t) :
    Stays (.tab h slot) s t := by
  unfold State.tabSimple at e
  simp only at e
  repeat' split at e
  all_goals first
    | cases e; done
    | (cases e; first
      | exact stays_modThread ..
      | exact (stays_spotWrite ..).trans (stays_modThread ..)
      | exact Stays.trans (stays_modThread ..) (stays_tabWrite ..))
theorem stays_setRegs (h slot : Nat) (r : TRegs) (s : State) : Stays (.tab h slot) s (s.setRegs h slot r) := stays_modThread ..
theorem stays_push (h slot : Nat) (k : Thread) (v : Word) (s : State) : Stays (.tab h slot) s (s.microPush h slot k v) := by
  unfold State.microPush
  split
  · exact stays_modThread ..
  · exact .refl
theorem stays_micro {h slot : Nat} {imm ext : Word} {trial : Bool} (us : List Word) : ∀ (k n : Nat) (s : State),
    Stays (.tab h slot) s (s.microRun h slot imm ext trial us k n).1 := by
  induction us with
  | nil => intro k n s; unfold State.microRun; exact .refl
  | cons u us ih =>
    intro k n s
    cases k with
    | succ k => unfold State.microRun; exact ih ..
    | zero =>
      unfold State.microRun
      simp only
      repeat' split
      all_goals first
        | with_reducible exact .refl
        | with_reducible exact stays_modThread ..
        | with_reducible exact (stays_push ..).trans (ih ..)
        | with_reducible exact Stays.trans (stays_setRegs ..) (ih ..)
        | with_reducible exact Stays.trans (stays_simple (by assumption)) (ih ..)
theorem stays_microEnd (h slot units : Nat) (x : State × Nat × MicroEnd) : Stays (.tab h slot) x.1 (State.microEnd h slot units x) := by
  unfold State.microEnd
  split
  · exact (stays_modThread ..).trans (stays_after ..)
  · exact stays_modThread ..
  · exact stays_fault ..
theorem stays_tabRun (h slot units : Nat) (k : Thread) (x : Work) (s : State) : Stays (.tab h slot) s (s.tabRun h slot units k x) := by
  have si (c : Ctx) (x : Work) : Stays (.tab h slot) s (match s.tabSimple h slot k c x with
      | .error e => s.faultThread h slot e
      | .ok s => s.tabAfter h slot) := by
    split
    · exact stays_fault ..
    · exact (stays_simple (by assumption)).trans (stays_after ..)
  cases x
  case load =>
    simp only [State.tabRun]
    split
    · exact stays_fault ..
    · split
      · exact stays_fault ..
      · exact stays_modThread ..
  case fence => exact stays_modThread ..
  case waitl => exact (stays_modThread ..).trans (stays_after ..)
  case yield => exact (stays_modThread ..).trans (stays_after ..)
  case trap =>
    simp only [State.tabRun]
    split
    · exact stays_halt ..
    · exact (stays_modThread ..).trans (stays_fault ..)
  case reti =>
    simp only [State.tabRun]
    split
    · exact stays_fault ..
    · exact (Stays.trans (t := s.setRegs h slot _) (stays_modThread ..) (stays_modThread ..)).trans (stays_after ..)
  case custom =>
    simp only [State.tabRun]
    split
    · exact stays_fault ..
    · exact (stays_micro ..).trans (stays_microEnd ..)
  case idle => exact si ⟨.tab h slot, k.regs.pc + word (2 * units), some k.codeSize⟩ .idle
  all_goals exact si ⟨.tab h slot, k.regs.pc + word (2 * units), some k.codeSize⟩ _
theorem stays_mark (h slot wait : Nat) (k : Thread) (s : State) : Stays (.tab h slot) s (s.markIssue h slot wait k) := by
  refine ⟨fun hs => ⟨hs, fun a b n => ?_, fun _ => rfl, fun _ => rfl⟩⟩
  unfold State.markIssue State.modTabs State.thread? State.headTabs
  by_cases e : a = h
  · subst e
    have hb : b ≠ slot := fun z => n (by rw [z])
    dsimp only
    rw [IMap.get_put_same]
    dsimp only
    rw [IMap.find_map _ (fun e : Nat × Thread => if e.1 = slot then _ else _)]
    cases IMap.find? (IMap.get s.tabs {} a).threads b with
    | none => rfl
    | some x => simp only [Option.map_some, if_neg hb]; rfl
  · simp only [IMap.get_put_other _ _ _ e]
theorem stays_tab (h slot units cost : Nat) (x : Work) (s : State) : Stays (.tab h slot) s (s.tabIssue h slot units cost x) := by
  unfold State.tabIssue
  simp only
  repeat' split
  all_goals first
    | exact .refl
    | exact stays_fault ..
    | exact stays_halt ..
    | exact stays_overrun ..
    | exact ((stays_mark ..).trans (stays_modThread ..)).trans (stays_tabRun ..)
theorem stays_pegMod (s t : State) (h0 : t.tenants = s.tenants) (h1 : t.tabs = s.tabs) (h2 : t.cp = s.cp) : Stays .peg s t :=
  ⟨fun hs => ⟨calm_of h0 hs, fun _ _ _ => by rw [thread_of_tabs h1], fun n => (n rfl).elim, fun _ => h2⟩⟩
theorem stays_cpMod (s t : State) (h0 : t.tenants = s.tenants) (h1 : t.tabs = s.tabs) (h2 : t.peg = s.peg) : Stays .cp s t :=
  ⟨fun hs => ⟨calm_of h0 hs, fun _ _ _ => by rw [thread_of_tabs h1], fun _ => h2, fun n => (n rfl).elim⟩⟩
theorem stays_pegFault (c : Nat) (s : State) : Stays .peg s (s.pegFault c) := by
  refine Stays.trans ?_ (stays_event ..)
  exact stays_pegMod _ _ rfl rfl rfl
theorem stays_cancel (s : State) : Stays .peg s s.cancelSleep := by
  unfold State.cancelSleep
  repeat' split
  all_goals first
    | with_reducible exact .refl
    | exact stays_pegMod _ _ rfl rfl rfl
    | (refine Stays.trans ?_ (stays_complete ..); exact stays_pegMod _ _ rfl rfl rfl)
theorem stays_beginWake (s : State) : Stays .peg s s.beginWake := by
  unfold State.beginWake; split <;> exact stays_pegMod _ _ rfl rfl rfl
theorem stays_modPeg (s : State) (f : Peg → Peg) : Stays .peg s (s.modPeg f) := stays_pegMod _ _ rfl rfl rfl
theorem stays_armMode (s : State) (m : Mode) (c : Nat) (r : Option CmdRef) : Stays .peg s (s.armMode m c r) := .of rfl rfl rfl rfl
theorem stays_joinWake (m bit : Nat) (s : State) : Stays .peg s (s.joinWake m bit) := by
  unfold State.joinWake
  extract_lets later present s2 s3
  split
  · split
    · exact stays_modPeg ..
    · exact (stays_modPeg ..).trans (stays_beginWake _)
  · split
    · exact (stays_modPeg ..).trans (stays_armMode ..)
    · exact stays_modPeg ..
theorem stays_wake (a b : Nat) (s : State) : Stays .peg s (s.wakeRequest a b) := by
  refine Stays.trans (Stays.trans ?_ (stays_cancel _)) (stays_joinWake ..)
  exact stays_pegMod _ _ rfl rfl rfl
theorem stays_pegStore (a : Nat) (b : Byte) (s : State) : Stays .peg s (s.pegStore a b) := by
  unfold State.pegStore
  simp only
  repeat' split
  all_goals first | exact .refl | exact stays_pegMod _ _ rfl rfl rfl | exact stays_wake ..
theorem stays_stores (bs : List Byte) (a : Nat) (s : State) :
    Stays .peg s (bs.zipIdx.foldl (fun s e => s.pegStore ((a + e.2) % 2 ^ 32) e.1) s) :=
  .fold (fun (s : State) (e : Byte × Nat) => s.pegStore ((a + e.2) % 2 ^ 32) e.1) (fun s _ => stays_pegStore _ _ s) _ _
theorem stays_setPeg (r : TRegs) (s : State) : Stays .peg s (s.setPegRegs r) := stays_pegMod _ _ rfl rfl rfl
theorem stays_pegRun (units : Nat) (x : Work) (s : State) : Stays .peg s (s.pegRun units x) := by
  unfold State.pegRun
  simp only
  repeat' split
  all_goals first
    | exact stays_pegFault ..
    | exact stays_pegMod s _ rfl rfl rfl
    | exact (stays_setPeg _ s).trans (stays_stores _ _ _)
    | (refine Stays.trans ?_ (stays_pegFault ..); exact stays_pegMod _ _ rfl rfl rfl)
theorem stays_peg (units : Nat) (x : Work) (s : State) : Stays .peg s (s.pegIssue units x) := by
  unfold State.pegIssue
  simp only
  repeat' split
  all_goals first | exact .refl | exact stays_pegFault .. | exact stays_pegRun ..
theorem stays_dev (b : Nat) (s : State) : Stays .cp s (s.devEvent b) := by
  have hw {s t : State} {x a : Nat} {bs : List Byte} (h : s.hostWrite x a bs = some t) : Stays .cp s t := by
    simp only [State.hostWrite] at h
    split at h
    · cases h
    · cases h; exact .of rfl rfl rfl rfl
  have rv (s : State) (v : Nat) : Stays .cp s (s.raiseVector v) := by
    unfold State.raiseVector
    extract_lets
    split
    · exact .of rfl rfl rfl rfl
    · cases e : s.hostWrite noPasid _ _ with
      | none => exact .of rfl rfl rfl rfl
      | some t => exact hw e
  unfold State.devEvent
  extract_lets t
  have ht : Stays .cp s t := .of rfl rfl rfl rfl
  refine ht.trans ?_
  split
  · exact .refl
  · split
    · refine Stays.trans ?_ (rv _ _)
      exact .of rfl rfl rfl rfl
    · exact .of rfl rfl rfl rfl
theorem stays_cpFault (c : Nat) (s : State) : Stays .cp s (s.cpFault c) :=
  (stays_cpMod s (s.setCpRegs { s.cp.regs with fault := c }) rfl rfl rfl).trans (stays_dev 6 _)
theorem stays_setCp (r : TRegs) (s : State) : Stays .cp s (s.setCpRegs r) := stays_cpMod _ _ rfl rfl rfl
theorem stays_cpPut (x : Except Nat TRegs) (s : State) : Stays .cp s (match x with
    | .error e => s.cpFault e
    | .ok r => s.setCpRegs r) := by
  split
  · exact stays_cpFault ..
  · exact stays_setCp ..
theorem stays_end (s : State) : Stays .cp s s.endEntry := by
  unfold State.endEntry
  simp only
  repeat' split
  all_goals exact .of rfl rfl rfl rfl
theorem freshWords_frame (n : Nat) : ∀ s : State,
    (s.freshWords n).2.tenants = s.tenants ∧ (s.freshWords n).2.tabs = s.tabs ∧ (s.freshWords n).2.peg = s.peg := by
  induction n with
  | zero => exact fun s => ⟨rfl, rfl, rfl⟩
  | succ n ih => exact fun s => ih { s with freeCount := s.freeCount + 1 }
theorem stays_cpCustom (next : Word) (s : State) : Stays .cp s (s.cpCustom next) := by
  have a := freshWords_frame (s.fresh.1 % (s.fresh.2.cp.regs.cap + 1)) s.fresh.2
  have b := freshWords_frame 8 (s.fresh.2.freshWords (s.fresh.1 % (s.fresh.2.cp.regs.cap + 1))).2
  exact stays_cpMod _ _ (b.1.trans a.1) (b.2.1.trans a.2.1) (b.2.2.trans a.2.2)
theorem stays_cpRun (units : Nat) (x : Work) (s : State) : Stays .cp s (s.cpRun units x) := by
  cases x
  case regs f => exact stays_cpPut _ _
  case load =>
    simp only [State.cpRun]
    split
    · exact stays_cpFault ..
    · exact Stays.trans (t := s.fresh.2) (stays_cpMod _ _ rfl rfl rfl) (stays_cpPut _ _)
  case store =>
    simp only [State.cpRun]
    split
    · exact stays_cpFault ..
    · exact stays_setCp ..
  case trap t => exact (stays_cpMod s { s with cp := { s.cp with regs := { s.cp.regs with trap := t } } } rfl rfl rfl).trans (stays_cpFault 8 _)
  case reti =>
    simp only [State.cpRun]
    split
    · exact stays_cpFault ..
    · exact (stays_setCp ..).trans (stays_end _)
  case idle => exact stays_cpMod _ _ rfl rfl rfl
  case fence => exact stays_cpMod _ _ rfl rfl rfl
  case yield => exact stays_cpMod _ _ rfl rfl rfl
  case custom => exact stays_cpCustom ..
  all_goals exact stays_cpFault ..
theorem stays_cp (units : Nat) (x : Work) (s : State) : Stays .cp s (s.cpIssue units x) := by
  unfold State.cpIssue
  simp only
  split
  · exact .refl
  · refine Stays.trans (t := s.cpSpendStep) (stays_cpMod _ _ rfl rfl rfl) ?_
    split
    · exact stays_cpFault ..
    · exact stays_cpRun ..
theorem stays_issue (ok : CoreRef → Bool) (units cost : Nat) (x : Work) (who : CoreRef) (s : State) :
    Stays who s (s.issue ok units cost x who) := by
  unfold State.issue
  rcases who with ⟨h, slot⟩ | _ | _
  · exact stays_tab ..
  · exact stays_peg ..
  · exact stays_cp ..
end st

end Sys2Proof.Machine
end

