-- ==== Sys2Proof/Laws/KeepsBase.lean ====
section
/-! SUPPORT. What the operations and meanings keep: the shared operations, memory, mailboxes and records. Each lemma goes over the branches
of one definition and cites the lemmas of what it calls. -/

namespace Sys2Proof.Machine

open Sys2Proof

/-! ### Ops -/

theorem State.modBank_keeps {s₀ : State} {s : State} (b : Nat) (f : Bank → Bank) (h : s₀.Keeps s) :
    s₀.Keeps (State.modBank s b f) := by
  unfold State.modBank
  try dsimp only
  repeat' first
    | with_reducible assumption
    | simp only [State.Keeps.upd_iff]

theorem State.modTenant_keeps {s₀ s : State} (t : Nat) (f : Tenant → Tenant) (h : s₀.Keeps s) :
    s₀.Keeps (s.modTenant t f) := by
  refine h.trans ⟨rfl, ?_, Nat.le_refl _, fun _ => rfl, fun l => ⟨l, rfl, rfl⟩⟩
  intro i
  refine ⟨i.1, i.2.1, ?_⟩
  have k : IMap.keys (s.modTenant t f).tenants = IMap.keys s.tenants := IMap.keys_adjust ..
  simpa only [State.tenantsWf, k] using i.2.2

theorem State.modMbox_keeps {s₀ : State} {s : State} (t : Nat) (f : Mailbox → Mailbox) (h : s₀.Keeps s) :
    s₀.Keeps (State.modMbox s t f) := by
  unfold State.modMbox
  try dsimp only
  repeat' first
    | with_reducible assumption
    | with_reducible apply State.modTenant_keeps

theorem State.event_keeps {s₀ : State} (t : Nat) (code : Nat) (ws : List Word) {s : State} (h : s₀.Keeps s) :
    s₀.Keeps (State.event t code ws s) := by
  unfold State.event
  try dsimp only
  repeat' first
    | with_reducible assumption
    | with_reducible apply State.modMbox_keeps

theorem State.eventLimited_keeps {s₀ : State} (t : Nat) (code : Nat) (res : Nat) (n : Nat) (ws : List Word) {s : State} (h : s₀.Keeps s) :
    s₀.Keeps (State.eventLimited t code res n ws s).1 := by
  unfold State.eventLimited
  try dsimp only
  repeat' first
    | with_reducible assumption
    | with_reducible apply State.modTenant_keeps
    | with_reducible apply State.event_keeps
    | split

theorem State.eccEvent_keeps {s₀ : State} (a : Nat) (kind : Nat) {s : State} (h : s₀.Keeps s) :
    s₀.Keeps (State.eccEvent a kind s) := by
  unfold State.eccEvent
  try dsimp only
  repeat' first
    | with_reducible assumption
    | with_reducible apply State.eventLimited_keeps
    | split

theorem State.noteUe_keeps {s₀ : State} {s : State} (w : Nat) (h : s₀.Keeps s) :
    s₀.Keeps (State.noteUe s w) := by
  unfold State.noteUe
  try dsimp only
  repeat' first
    | with_reducible assumption
    | with_reducible apply State.modBank_keeps
    | with_reducible apply State.eccEvent_keeps
    | split

theorem State.wakeMemory_keeps {s₀ : State} (a : Nat) {s : State} (h : s₀.Keeps s) :
    s₀.Keeps (State.wakeMemory a s) := by
  unfold State.wakeMemory
  try dsimp only
  repeat' first
    | with_reducible assumption
    | simp only [State.Keeps.upd_in_iff]

theorem State.noteCe_keeps {s₀ : State} {s : State} (w : Nat) (h : s₀.Keeps s) :
    s₀.Keeps (State.noteCe s w) := by
  unfold State.noteCe
  try dsimp only
  repeat' first
    | with_reducible assumption
    | with_reducible apply State.modBank_keeps
    | with_reducible apply State.eccEvent_keeps
    | split

theorem State.noteRead_keeps {s₀ : State} {s : State} (a : Nat) (n : Nat) (h : s₀.Keeps s) :
    s₀.Keeps (State.noteRead s a n) := by
  unfold State.noteRead
  try dsimp only
  repeat' first
    | with_reducible assumption
    | with_reducible apply State.noteUe_keeps
    | with_reducible apply State.wakeMemory_keeps
    | with_reducible apply State.noteCe_keeps
    | with_reducible apply State.Keeps.foldl

theorem State.noteAssetRead_keeps {s₀ : State} {s : State} (t : Nat) (a : Nat) (n : Nat) (h : s₀.Keeps s) :
    s₀.Keeps (State.noteAssetRead s t a n) := by
  unfold State.noteAssetRead
  try dsimp only
  repeat' first
    | with_reducible assumption
    | with_reducible apply State.noteRead_keeps
    | with_reducible apply State.Keeps.foldl
    | intro _
    | split

theorem State.note_keeps {s₀ : State} {s : State} (a : NotedRead) (h : s₀.Keeps s) :
    s₀.Keeps (State.note s a) := by
  unfold State.note
  try dsimp only
  repeat' first
    | with_reducible assumption
    | with_reducible apply State.noteAssetRead_keeps
    | with_reducible apply State.noteRead_keeps
    | split

theorem State.setStage_keeps {s₀ : State} (r : CmdRef) (g : FlightStage) {s : State} (h : s₀.Keeps s) :
    s₀.Keeps (State.setStage r g s) := by
  unfold State.setStage
  try dsimp only
  repeat' first
    | with_reducible assumption
    | simp only [State.Keeps.upd_iff]

theorem State.dropFlight_keeps {s₀ : State} (r : CmdRef) {s : State} (h : s₀.Keeps s) :
    s₀.Keeps (State.dropFlight r s) := by
  unfold State.dropFlight
  try dsimp only
  repeat' first
    | with_reducible assumption
    | simp only [State.Keeps.upd_iff]

theorem State.complete_keeps {s₀ : State} (r : CmdRef) (status : Nat) (detail : Nat) (ws : List Word) {s : State} (h : s₀.Keeps s) :
    s₀.Keeps (State.complete r status detail ws s) := by
  unfold State.complete
  try dsimp only
  repeat' first
    | with_reducible assumption
    | with_reducible apply State.modMbox_keeps
    | with_reducible apply State.setStage_keeps
    | with_reducible apply State.modTenant_keeps
    | with_reducible apply State.dropFlight_keeps
    | split

theorem State.atlasFault_keeps {s₀ : State} (t : Nat) (f : AssetFault) (unit : Nat) (inst : Nat) {s : State} (h : s₀.Keeps s) :
    s₀.Keeps (State.atlasFault t f unit inst s) := by
  unfold State.atlasFault
  try dsimp only
  repeat' first
    | with_reducible assumption
    | with_reducible apply State.modTenant_keeps
    | with_reducible apply State.eventLimited_keeps

theorem State.answer_keeps {s₀ s : State} (r : CmdRef) {x : CmdRes} (hx : KeepsCmd s₀ x) (h : s₀.Keeps s) :
    s₀.Keeps (s.answer r x) := by
  match x, hx with
  | .error e, _ =>
    unfold State.answer
    dsimp only
    have hn := State.Keeps.foldl (xs := e.reads) h (fun _ r g => State.note_keeps r g)
    split
    · exact State.complete_keeps _ _ _ _ hn
    · exact State.complete_keeps _ _ _ _ (State.atlasFault_keeps _ _ _ _ hn)
  | .ok (t, .done st ws), g => exact State.complete_keeps _ _ _ _ g
  | .ok (t, .failed e), g => exact State.complete_keeps _ _ _ _ g
  | .ok (t, .later), g => exact g
  | .ok (t, .wait j), g => exact State.setStage_keeps _ _ g

theorem State.process_keeps {s₀ s : State} (op : Nat) (p : Privilege) (lo hi : Nat) {body : Cmd → CmdRef → State → CmdRes}
    (c : Cmd) (hb : ∀ r s, s₀.Keeps s → KeepsCmd s₀ (body c r s)) (h : s₀.Keeps s) :
    s₀.Keeps (s.process op p lo hi body c) := by
  unfold State.process
  dsimp only
  refine State.answer_keeps _ ?_ (State.setStage_keeps _ _ h)
  split
  · trivial
  · exact hb _ _ (State.setStage_keeps _ _ h)

theorem State.rejectUnknown_keeps {s₀ : State} (a : Nat) {a1 : State} (h : s₀.Keeps a1) :
    s₀.Keeps (State.rejectUnknown a a1) := by
  induction a generalizing a1  with
  | zero =>
    unfold State.rejectUnknown
    try dsimp only
    repeat' first
      | with_reducible assumption
      | with_reducible apply State.complete_keeps
      | with_reducible apply State.setStage_keeps
      | split
  | succ k ih =>
    unfold State.rejectUnknown
    try dsimp only
    repeat' first
      | with_reducible apply ih
      | with_reducible assumption
      | with_reducible apply State.complete_keeps
      | with_reducible apply State.setStage_keeps
      | split

theorem State.turned_keeps {s₀ : State} {s : State} (h : s₀.Keeps s) :
    s₀.Keeps (State.turned s) := by
  unfold State.turned
  try dsimp only
  repeat' first
    | with_reducible assumption
    | with_reducible apply State.rejectUnknown_keeps

theorem State.takeCmd_keeps {s₀ : State} (c : Cmd) (op : Nat) {s : State} (h : s₀.Keeps s) :
    s₀.Keeps (State.takeCmd c op s) := by
  unfold State.takeCmd
  try dsimp only
  repeat' first
    | with_reducible assumption
    | with_reducible apply State.modMbox_keeps
    | simp only [State.Keeps.upd_iff]

theorem State.tick_keeps {s₀ : State} (dt : Nat) {s : State} (h : s₀.Keeps s) :
    s₀.Keeps (State.tick dt s) := by
  unfold State.tick
  try dsimp only
  repeat' first
    | with_reducible assumption
    | simp only [State.Keeps.upd_iff]
    | split

theorem State.command_keeps {s₀ s : State} (op : Nat) (p : Privilege) (lo hi : Nat) {body : Cmd → CmdRef → State → CmdRes}
    (c : Cmd) (hb : ∀ r s, s₀.Keeps s → KeepsCmd s₀ (body c r s)) (h : s₀.Keeps s) :
    s₀.Keeps (s.command op p lo hi body c) := by
  unfold State.command
  dsimp only
  have ht := State.turned_keeps (State.tick_keeps c.dt h)
  generalize (s.tick c.dt).turned = a at ht ⊢
  have hu : s₀.Keeps (if a.isFetched c (c.ref op) = true then a else if a.fetchable c = true then a.takeCmd c op else a) :=
    State.Keeps.ite ht (State.Keeps.ite (State.takeCmd_keeps _ _ ht) ht)
  exact State.Keeps.ite (State.process_keeps _ _ _ _ _ hb hu) hu

theorem okDone_keeps {s₀ : State} {s : State} (ws : List Word) (h : s₀.Keeps s) :
    KeepsCmd s₀ (okDone s ws) := by
  unfold okDone
  try dsimp only
  repeat' first
    | with_reducible assumption
    | with_reducible apply KeepsCmd.ok

theorem State.completeOk_keeps {s₀ : State} (r : CmdRef) (ws : List Word) {s : State} (h : s₀.Keeps s) :
    s₀.Keeps (State.completeOk r ws s) := by
  unfold State.completeOk
  try dsimp only
  repeat' first
    | with_reducible assumption
    | with_reducible apply State.complete_keeps

theorem State.fresh_keeps {s₀ : State} {s : State} (h : s₀.Keeps s) :
    s₀.Keeps (State.fresh s).2 := by
  unfold State.fresh
  try dsimp only
  repeat' first
    | with_reducible assumption
    | simp only [State.Keeps.upd_iff]

theorem State.hwMark_keeps {s₀ : State} (f : HwField) {s : State} (h : s₀.Keeps s) :
    s₀.Keeps (State.hwMark f s) := by
  unfold State.hwMark
  try dsimp only
  repeat' first
    | with_reducible assumption
    | simp only [State.Keeps.upd_iff]

theorem State.hostWrite_keeps {s₀ s : State} (pasid addr : Nat) (bs : List Byte) (h : s₀.Keeps s) :
    KeepsOpt s₀ (s.hostWrite pasid addr bs) := by
  unfold State.hostWrite
  dsimp only
  split
  · trivial
  · refine h.memory rfl rfl rfl rfl ?_
    simp only [State.memWf_iff]
    exact fun w => ⟨w.1, Mem.wf_write w.2.1 _ _, w.2.2⟩

theorem State.raiseVector_keeps {s₀ : State} (v : Nat) {s : State} (h : s₀.Keeps s) :
    s₀.Keeps (State.raiseVector v s) := by
  unfold State.raiseVector
  try dsimp only
  repeat' first
    | with_reducible assumption
    | with_reducible apply State.hostWrite_keeps
    | simp only [State.Keeps.upd_dev_iff]
    | with_reducible apply KeepsOpt.getD
    | split

theorem State.devEvent_keeps {s₀ : State} (bit : Nat) {s : State} (h : s₀.Keeps s) :
    s₀.Keeps (State.devEvent bit s) := by
  unfold State.devEvent
  try dsimp only
  repeat' first
    | with_reducible assumption
    | with_reducible apply State.hwMark_keeps
    | with_reducible apply State.raiseVector_keeps
    | simp only [State.Keeps.upd_dev_iff]
    | split

theorem State.ringLost_keeps {s₀ : State} (t : Nat) (fault : Nat) {s : State} (h : s₀.Keeps s) :
    s₀.Keeps (State.ringLost t fault s) := by
  unfold State.ringLost
  try dsimp only
  repeat' first
    | with_reducible assumption
    | with_reducible apply State.modMbox_keeps
    | with_reducible apply State.dropFlight_keeps
    | with_reducible apply State.Keeps.foldl
    | intro _

theorem State.stopMbox_keeps {s₀ : State} (t : Nat) (fault : Nat) (ringDead : Bool) {s : State} (h : s₀.Keeps s) :
    s₀.Keeps (State.stopMbox t fault ringDead s) := by
  unfold State.stopMbox
  try dsimp only
  repeat' first
    | with_reducible assumption
    | with_reducible apply State.modMbox_keeps
    | with_reducible apply State.devEvent_keeps
    | with_reducible apply State.raiseVector_keeps
    | with_reducible apply State.ringLost_keeps
    | split

theorem State.notify_keeps {s₀ : State} (code : Nat) (res : Nat) (ws : List Word) (who : Nat → Bool) {s : State} (h : s₀.Keeps s) :
    s₀.Keeps (State.notify code res ws who s) := by
  unfold State.notify
  try dsimp only
  repeat' first
    | with_reducible assumption
    | with_reducible apply State.event_keeps
    | with_reducible apply State.Keeps.foldl
    | intro _

theorem State.modPeg_keeps {s₀ s : State} (f : Peg → Peg) (h : s₀.Keeps s) (hc : (f s.peg).code = s.peg.code)
    (hd : (f s.peg).data = s.peg.data) (hr : (f s.peg).ring = s.peg.ring) : s₀.Keeps (s.modPeg f) :=
  (State.Keeps.upd_in_iff rfl rfl rfl rfl hc hd hr).mpr h

theorem State.portWrite_keeps {s₀ : State} (portA : Bool) (a : Nat) (n : Nat) {s : State} (h : s₀.Keeps s) :
    s₀.Keeps (State.portWrite portA a n s) := by
  unfold State.portWrite
  try dsimp only
  repeat' first
    | with_reducible assumption
    | with_reducible apply State.modBank_keeps
    | simp only [State.Keeps.upd_iff]
    | with_reducible apply State.Keeps.foldl
    | intro _
    | split

theorem State.physStore_keeps {s₀ s : State} (p : Bool) (a : Nat) (bs : List Byte) (h : s₀.Keeps s) :
    s₀.Keeps (s.physStore p a bs) := by
  have hs : s₀.Keeps ((s.portWrite p a bs.length).wakeMemory a) := State.wakeMemory_keeps _ (State.portWrite_keeps _ _ _ h)
  unfold State.physStore
  dsimp only
  refine State.Keeps.foldl ?_ (fun s w g => State.noteUe_keeps w g)
  refine hs.memory rfl rfl rfl rfl ?_
  simp only [State.memWf_iff]
  exact fun w => ⟨Mem.wf_write w.1 _ _, w.2⟩

theorem State.physWrite_keeps {s₀ s : State} (a : Nat) (bs : List Byte) (h : s₀.Keeps s) : s₀.Keeps (s.physWrite a bs) :=
  State.physStore_keeps _ _ _ h

theorem State.placeWrite_keeps {s₀ s : State} (p : Place) (bs : List Byte) (h : s₀.Keeps s) :
    KeepsExc s₀ (s.placeWrite p bs) := by
  unfold State.placeWrite
  split
  · split
    · trivial
    · refine h.memory rfl rfl rfl rfl ?_
      simp only [State.memWf_iff]
      exact fun w => ⟨w.1, Mem.wf_write w.2.1 _ _, w.2.2⟩
  · split
    · exact State.physWrite_keeps _ _ h
    · trivial

theorem State.assetWriteAux_keeps {s₀ s : State} (t fuel a : Nat) (bs : List Byte) (done : Nat) (h : s₀.Keeps s) :
    s₀.Keeps (s.assetWriteAux t fuel a bs done).1 := by
  induction fuel generalizing s a bs done with
  | zero => exact h
  | succ fuel ih =>
    unfold State.assetWriteAux
    split
    · exact h
    · dsimp only
      split
      · exact h
      · split
        · exact h
        · exact ih _ _ _ (State.Keeps.of_ok (by assumption) (State.placeWrite_keeps _ _ h))

theorem State.assetWrite_keeps {s₀ : State} {s : State} (t : Nat) (a : Nat) (bs : List Byte) (h : s₀.Keeps s) :
    s₀.Keeps (State.assetWrite s t a bs).1 := by
  unfold State.assetWrite
  try dsimp only
  repeat' first
    | with_reducible assumption
    | with_reducible apply State.assetWriteAux_keeps

theorem State.eventStatus_keeps {s₀ : State} (t : Nat) (code : Nat) (status : Nat) (ws : List Word) {s : State} (h : s₀.Keeps s) :
    s₀.Keeps (State.eventStatus t code status ws s) := by
  unfold State.eventStatus
  try dsimp only
  repeat' first
    | with_reducible assumption
    | with_reducible apply State.modMbox_keeps

theorem State.physZero_keeps {s₀ s : State} (a n : Nat) (h : s₀.Keeps s) : s₀.Keeps (s.physZero a n) := by
  unfold State.physZero
  refine h.memory rfl rfl rfl rfl ?_
  simp only [State.memWf_iff]
  exact fun w => ⟨Mem.wf_zero w.1 _ _, w.2⟩

theorem State.learnError_keeps {s₀ : State} (o : FetchOutcome) {s : State} (h : s₀.Keeps s) :
    s₀.Keeps (State.learnError o s) := by
  unfold State.learnError
  try dsimp only
  repeat' first
    | with_reducible assumption
    | simp only [State.Keeps.upd_in_iff]
    | split

/-! ### Atlas -/

theorem atlasUnmapBody_keeps {s₀ : State} (c : Cmd) (a : CmdRef) {s : State} (h : s₀.Keeps s) :
    KeepsCmd s₀ (atlasUnmapBody c a s) := by
  unfold atlasUnmapBody
  try dsimp only
  repeat' first
    | with_reducible assumption
    | with_reducible apply okDone_keeps
    | with_reducible apply State.modTenant_keeps
    | with_reducible apply KeepsCmd.bind
    | with_reducible apply KeepsCmd.error
    | with_reducible apply KeepsCmd.ok
    | intro _
    | split

theorem bankAssignBody_keeps {s₀ : State} (c : Cmd) (a : CmdRef) {s : State} (h : s₀.Keeps s) :
    KeepsCmd s₀ (bankAssignBody c a s) := by
  unfold bankAssignBody
  try dsimp only
  repeat' first
    | with_reducible assumption
    | with_reducible apply State.modBank_keeps
    | with_reducible apply KeepsCmd.bind
    | with_reducible apply KeepsCmd.ok
    | intro _

theorem atlasMapBody_keeps {s₀ : State} (c : Cmd) (a : CmdRef) {s : State} (h : s₀.Keeps s) :
    KeepsCmd s₀ (atlasMapBody c a s) := by
  unfold atlasMapBody
  try dsimp only
  repeat' first
    | with_reducible assumption
    | with_reducible apply okDone_keeps
    | with_reducible apply State.modTenant_keeps
    | with_reducible apply KeepsCmd.bind
    | with_reducible apply KeepsCmd.error
    | with_reducible apply KeepsCmd.ok
    | intro _
    | split

/-! ### AudioOps -/

theorem State.modAudio_keeps {s₀ : State} {s : State} (f : Audio → Audio) (h : s₀.Keeps s) :
    s₀.Keeps (State.modAudio s f) := by
  unfold State.modAudio
  try dsimp only
  repeat' first
    | with_reducible assumption
    | simp only [State.Keeps.upd_iff]

theorem State.cutSends_keeps {s₀ : State} (target : Nat) (index : Nat) {s : State} (h : s₀.Keeps s) :
    s₀.Keeps (State.cutSends target index s) := by
  unfold State.cutSends
  try dsimp only
  repeat' first
    | with_reducible assumption
    | with_reducible apply State.modAudio_keeps

theorem State.freeLane_keeps {s₀ : State} (l : Nat) {s : State} (h : s₀.Keeps s) :
    s₀.Keeps (State.freeLane l s) := by
  unfold State.freeLane
  try dsimp only
  repeat' first
    | with_reducible assumption
    | with_reducible apply State.modAudio_keeps
    | with_reducible apply State.cutSends_keeps

theorem State.freeBus_keeps {s₀ : State} (b : Nat) {s : State} (h : s₀.Keeps s) :
    s₀.Keeps (State.freeBus b s) := by
  unfold State.freeBus
  try dsimp only
  repeat' first
    | with_reducible assumption
    | with_reducible apply State.modAudio_keeps
    | with_reducible apply State.cutSends_keeps

theorem State.toOwner_keeps {s₀ : State} (o : Option Nat) (code : Nat) (ws : List Word) {s : State} (h : s₀.Keeps s) :
    s₀.Keeps (State.toOwner o code ws s) := by
  unfold State.toOwner
  try dsimp only
  repeat' first
    | with_reducible assumption
    | with_reducible apply State.event_keeps
    | split

theorem State.modVoice_keeps {s₀ : State} {s : State} (v : Nat) (f : Voice → Voice) (h : s₀.Keeps s) :
    s₀.Keeps (State.modVoice s v f) := by
  unfold State.modVoice
  try dsimp only
  repeat' first
    | with_reducible assumption
    | with_reducible apply State.modAudio_keeps

theorem State.endVoice_keeps {s₀ : State} (v : Nat) (cause : Nat) {s : State} (h : s₀.Keeps s) :
    s₀.Keeps (State.endVoice v cause s) := by
  unfold State.endVoice
  try dsimp only
  repeat' first
    | with_reducible assumption
    | with_reducible apply State.toOwner_keeps
    | with_reducible apply State.modVoice_keeps

theorem State.freeVoice_keeps {s₀ : State} (v : Nat) {s : State} (h : s₀.Keeps s) :
    s₀.Keeps (State.freeVoice v s) := by
  unfold State.freeVoice
  try dsimp only
  repeat' first
    | with_reducible assumption
    | with_reducible apply State.modAudio_keeps
    | with_reducible apply State.endVoice_keeps
    | split

theorem State.sendReport_keeps {s₀ : State} (r : AudioReport) {s : State} (h : s₀.Keeps s) :
    s₀.Keeps (State.sendReport r s).1 := by
  unfold State.sendReport
  try dsimp only
  repeat' first
    | with_reducible assumption
    | with_reducible apply State.event_keeps
    | split

theorem State.flushReports_keeps {s₀ : State} {s : State} (h : s₀.Keeps s) :
    s₀.Keeps (State.flushReports s) := by
  unfold State.flushReports
  try dsimp only
  repeat' first
    | with_reducible assumption
    | with_reducible apply State.modAudio_keeps
    | with_reducible apply State.sendReport_keeps
    | simp only [State.Keeps.upd_iff]
    | with_reducible apply State.Keeps.foldl_fst
    | intro _

theorem State.report_keeps {s₀ : State} (code : Nat) (owner : Nat) (key : Nat) (cause : Nat) (n : Nat) {s : State} (h : s₀.Keeps s) :
    s₀.Keeps (State.report code owner key cause n s) := by
  unfold State.report
  try dsimp only
  repeat' first
    | with_reducible assumption
    | with_reducible apply State.modAudio_keeps
    | with_reducible apply State.flushReports_keeps

theorem State.voiceFaultReport_keeps {s₀ : State} (v : Nat) (cause : Nat) (n : Nat) {s : State} (h : s₀.Keeps s) :
    s₀.Keeps (State.voiceFaultReport v cause n s) := by
  unfold State.voiceFaultReport
  try dsimp only
  repeat' first
    | with_reducible assumption
    | with_reducible apply State.report_keeps
    | split

theorem State.portReport_keeps {s₀ : State} (kind : Nat) (key : Nat) (n : Nat) {s : State} (h : s₀.Keeps s) :
    s₀.Keeps (State.portReport kind key n s) := by
  unfold State.portReport
  try dsimp only
  repeat' first
    | with_reducible assumption
    | with_reducible apply State.report_keeps

theorem State.modBus_keeps {s₀ : State} {s : State} (b : Nat) (f : Bus → Bus) (h : s₀.Keeps s) :
    s₀.Keeps (State.modBus s b f) := by
  unfold State.modBus
  try dsimp only
  repeat' first
    | with_reducible assumption
    | with_reducible apply State.modAudio_keeps

theorem State.modLane_keeps {s₀ : State} {s : State} (l : Nat) (f : Lane → Lane) (h : s₀.Keeps s) :
    s₀.Keeps (State.modLane s l f) := by
  unfold State.modLane
  try dsimp only
  repeat' first
    | with_reducible assumption
    | with_reducible apply State.modAudio_keeps

/-! ### DisplayOps -/

theorem State.modHead_keeps {s₀ : State} {s : State} (hq : Nat) (f : Head → Head) (h : s₀.Keeps s) :
    s₀.Keeps (State.modHead s hq f) := by
  unfold State.modHead
  try dsimp only
  repeat' first
    | with_reducible assumption
    | simp only [State.Keeps.upd_iff]

theorem State.modStage_keeps {s₀ : State} {s : State} (hq : Nat) (t : Nat) (f : Stage → Stage) (h : s₀.Keeps s) :
    s₀.Keeps (State.modStage s hq t f) := by
  unfold State.modStage
  try dsimp only
  repeat' first
    | with_reducible assumption
    | with_reducible apply State.modHead_keeps

theorem State.stagePlane_keeps {s₀ : State} {s : State} (hq : Nat) (t : Nat) (slot : Nat) (f : PlaneStage → PlaneStage) (h : s₀.Keeps s) :
    s₀.Keeps (State.stagePlane s hq t slot f) := by
  unfold State.stagePlane
  try dsimp only
  repeat' first
    | with_reducible assumption
    | with_reducible apply State.modStage_keeps

theorem State.endStill_keeps {s₀ : State} (hq : Nat) {s : State} (h : s₀.Keeps s) :
    s₀.Keeps (State.endStill hq s) := by
  unfold State.endStill
  try dsimp only
  repeat' first
    | with_reducible assumption
    | with_reducible apply State.modHead_keeps
    | split

theorem State.modTabs_keeps {s₀ : State} {s : State} (hq : Nat) (f : HeadTabs → HeadTabs) (h : s₀.Keeps s) :
    s₀.Keeps (State.modTabs s hq f) := by
  unfold State.modTabs
  try dsimp only
  repeat' first
    | with_reducible assumption
    | simp only [State.Keeps.upd_iff]

theorem State.modDisp_keeps {s₀ : State} {s : State} (f : Display → Display) (h : s₀.Keeps s) :
    s₀.Keeps (State.modDisp s f) := by
  unfold State.modDisp
  try dsimp only
  repeat' first
    | with_reducible assumption
    | simp only [State.Keeps.upd_iff]

theorem State.modPort_keeps {s₀ : State} {s : State} (p : Nat) (f : Port → Port) (h : s₀.Keeps s) :
    s₀.Keeps (State.modPort s p f) := by
  unfold State.modPort
  try dsimp only
  repeat' first
    | with_reducible assumption
    | simp only [State.Keeps.upd_iff]

theorem State.modCluster_keeps {s₀ : State} {s : State} (n : Nat) (f : Cluster → Cluster) (h : s₀.Keeps s) :
    s₀.Keeps (State.modCluster s n f) := by
  unfold State.modCluster
  try dsimp only
  repeat' first
    | with_reducible assumption
    | simp only [State.Keeps.upd_iff]

theorem State.sleepWhenStopped_keeps {s₀ : State} {s : State} (h : s₀.Keeps s) :
    s₀.Keeps (State.sleepWhenStopped s) := by
  unfold State.sleepWhenStopped
  try dsimp only
  repeat' first
    | with_reducible assumption
    | simp only [State.Keeps.upd_iff]
    | split

/-! ### Arbiter -/

theorem State.modActivity_keeps {s₀ : State} (a : Nat) (f : Activity → Activity) {s : State} (h : s₀.Keeps s) :
    s₀.Keeps (State.modActivity a f s) := by
  unfold State.modActivity
  try dsimp only
  repeat' first
    | with_reducible assumption
    | with_reducible apply State.modDisp_keeps

theorem State.orderEvent_keeps {s₀ : State} (a : Nat) (what : Nat) (blocker : Nat) (cluster : Option Nat) {s : State} (h : s₀.Keeps s) :
    s₀.Keeps (State.orderEvent a what blocker cluster s) := by
  unfold State.orderEvent
  try dsimp only
  repeat' first
    | with_reducible assumption
    | with_reducible apply State.event_keeps

theorem State.startActivity_keeps {s₀ : State} (a : Nat) (cluster : Option Nat) {s : State} (h : s₀.Keeps s) :
    s₀.Keeps (State.startActivity a cluster s) := by
  unfold State.startActivity
  try dsimp only
  repeat' first
    | with_reducible assumption
    | with_reducible apply State.modActivity_keeps
    | with_reducible apply State.orderEvent_keeps

theorem State.startIfFree_keeps {s₀ : State} (a : Nat) {s : State} (h : s₀.Keeps s) :
    s₀.Keeps (State.startIfFree a s) := by
  unfold State.startIfFree
  try dsimp only
  repeat' first
    | with_reducible assumption
    | with_reducible apply State.startActivity_keeps
    | split

theorem State.startSelfTest_keeps {s₀ : State} {s : State} (h : s₀.Keeps s) :
    s₀.Keeps (State.startSelfTest s) := by
  unfold State.startSelfTest
  try dsimp only
  repeat' first
    | with_reducible assumption
    | with_reducible apply State.modActivity_keeps
    | with_reducible apply State.orderEvent_keeps
    | with_reducible apply State.modDisp_keeps
    | split

theorem State.startQueued_keeps {s₀ : State} {s : State} (h : s₀.Keeps s) :
    s₀.Keeps (State.startQueued s) := by
  unfold State.startQueued
  try dsimp only
  repeat' first
    | with_reducible assumption
    | with_reducible apply State.startIfFree_keeps
    | with_reducible apply State.startSelfTest_keeps
    | with_reducible apply State.Keeps.foldl
    | intro _

theorem State.abandonTest_keeps {s₀ : State} (n : Nat) {s : State} (h : s₀.Keeps s) :
    s₀.Keeps (State.abandonTest n s) := by
  unfold State.abandonTest
  try dsimp only
  repeat' first
    | with_reducible assumption
    | with_reducible apply State.modActivity_keeps
    | split

theorem State.activityDue_keeps {s₀ : State} (a : Nat) (ref : Option CmdRef) {s : State} (h : s₀.Keeps s) :
    s₀.Keeps (State.activityDue a ref s) := by
  unfold State.activityDue
  try dsimp only
  repeat' first
    | with_reducible assumption
    | with_reducible apply State.modActivity_keeps
    | with_reducible apply State.startQueued_keeps
    | with_reducible apply State.orderEvent_keeps
    | split

theorem State.stopActivities_keeps {s₀ : State} (m : Mode) {s : State} (h : s₀.Keeps s) :
    s₀.Keeps (State.stopActivities m s) := by
  unfold State.stopActivities
  try dsimp only
  repeat' first
    | with_reducible assumption
    | with_reducible apply State.modActivity_keeps
    | with_reducible apply State.modDisp_keeps
    | with_reducible apply State.Keeps.foldl
    | intro _
    | split

/-! ### Clusters -/

theorem State.clusterEvent_keeps {s₀ : State} (n : Nat) (old : Service) (new : Service) (head : Option Nat) (cause : Nat) {s : State} (h : s₀.Keeps s) :
    s₀.Keeps (State.clusterEvent n old new head cause s) := by
  unfold State.clusterEvent
  try dsimp only
  repeat' first
    | with_reducible assumption
    | with_reducible apply State.event_keeps

theorem State.setService_keeps {s₀ : State} (n : Nat) (new : Service) (head : Option Nat) (cause : Nat) {s : State} (h : s₀.Keeps s) :
    s₀.Keeps (State.setService n new head cause s) := by
  unfold State.setService
  try dsimp only
  repeat' first
    | with_reducible assumption
    | with_reducible apply State.modCluster_keeps
    | with_reducible apply State.clusterEvent_keeps
    | with_reducible apply State.devEvent_keeps
    | split

theorem State.addTakeover_keeps {s₀ : State} (t : Takeover) {s : State} (h : s₀.Keeps s) :
    s₀.Keeps (State.addTakeover t s) := by
  unfold State.addTakeover
  try dsimp only
  repeat' first
    | with_reducible assumption
    | with_reducible apply State.endStill_keeps
    | with_reducible apply State.modDisp_keeps

theorem State.chooseSpare_keeps {s₀ : State} (hq : Nat) (n : Nat) (old : Option Nat) (after : Meridian) {s : State} (h : s₀.Keeps s) :
    s₀.Keeps (State.chooseSpare hq n old after s) := by
  unfold State.chooseSpare
  try dsimp only
  repeat' first
    | with_reducible assumption
    | with_reducible apply State.startQueued_keeps
    | with_reducible apply State.addTakeover_keeps
    | with_reducible apply State.abandonTest_keeps

theorem State.replaceCluster_keeps {s₀ : State} (hq : Nat) (old : Option Nat) {s : State} (h : s₀.Keeps s) :
    s₀.Keeps (State.replaceCluster hq old s) := by
  unfold State.replaceCluster
  try dsimp only
  repeat' first
    | with_reducible assumption
    | with_reducible apply State.chooseSpare_keeps
    | with_reducible apply State.addTakeover_keeps
    | with_reducible apply State.endStill_keeps
    | with_reducible apply State.modHead_keeps
    | split

theorem State.replaceSuspect_keeps {s₀ : State} (hq : Nat) (n : Nat) {s : State} (h : s₀.Keeps s) :
    s₀.Keeps (State.replaceSuspect hq n s) := by
  unfold State.replaceSuspect
  try dsimp only
  repeat' first
    | with_reducible assumption
    | with_reducible apply State.chooseSpare_keeps
    | split

theorem State.chooseAgain_keeps {s₀ : State} (t : Takeover) {s : State} (h : s₀.Keeps s) :
    s₀.Keeps (State.chooseAgain t s) := by
  unfold State.chooseAgain
  try dsimp only
  repeat' first
    | with_reducible assumption
    | with_reducible apply State.replaceCluster_keeps
    | with_reducible apply State.replaceSuspect_keeps
    | split

theorem State.assignCluster_keeps {s₀ : State} (hq : Nat) (n : Nat) (cause : Nat) {s : State} (h : s₀.Keeps s) :
    s₀.Keeps (State.assignCluster hq n cause s) := by
  unfold State.assignCluster
  try dsimp only
  repeat' first
    | with_reducible assumption
    | with_reducible apply State.modCluster_keeps
    | with_reducible apply State.setService_keeps
    | with_reducible apply State.startQueued_keeps
    | with_reducible apply State.abandonTest_keeps
    | with_reducible apply State.modHead_keeps

theorem State.giveSpare_keeps {s₀ : State} (n : Nat) {s : State} (h : s₀.Keeps s) :
    s₀.Keeps (State.giveSpare n s) := by
  unfold State.giveSpare
  try dsimp only
  repeat' first
    | with_reducible assumption
    | with_reducible apply State.addTakeover_keeps
    | with_reducible apply State.endStill_keeps
    | with_reducible apply State.modDisp_keeps
    | split

theorem State.moveBanks_keeps {s₀ : State} (hq : Nat) (m : Nat) (n : Nat) {s : State} (h : s₀.Keeps s) :
    s₀.Keeps (State.moveBanks hq m n s) := by
  unfold State.moveBanks
  try dsimp only
  repeat' first
    | with_reducible assumption
    | with_reducible apply State.modBank_keeps
    | with_reducible apply State.Keeps.foldl
    | intro _
    | split

theorem State.quarantine_keeps {s₀ : State} (n : Nat) (cause : Nat) {s : State} (h : s₀.Keeps s) :
    s₀.Keeps (State.quarantine n cause s) := by
  unfold State.quarantine
  try dsimp only
  repeat' first
    | with_reducible assumption
    | with_reducible apply State.setService_keeps
    | with_reducible apply State.orderEvent_keeps
    | with_reducible apply State.modDisp_keeps
    | with_reducible apply State.startSelfTest_keeps
    | with_reducible apply State.devEvent_keeps
    | split

theorem State.rechoose_keeps {s₀ : State} (n : Nat) (donor : Option Nat) {s : State} (h : s₀.Keeps s) :
    s₀.Keeps (State.rechoose n donor s) := by
  unfold State.rechoose
  try dsimp only
  repeat' first
    | with_reducible assumption
    | with_reducible apply State.modDisp_keeps
    | with_reducible apply State.chooseAgain_keeps
    | with_reducible apply State.Keeps.foldl
    | intro _

theorem State.declareDead_keeps {s₀ : State} (n : Nat) {s : State} (h : s₀.Keeps s) :
    s₀.Keeps (State.declareDead n s) := by
  unfold State.declareDead
  try dsimp only
  repeat' first
    | with_reducible assumption
    | with_reducible apply State.modCluster_keeps
    | with_reducible apply State.replaceCluster_keeps
    | with_reducible apply State.modDisp_keeps
    | with_reducible apply State.rechoose_keeps
    | with_reducible apply State.abandonTest_keeps
    | with_reducible apply State.quarantine_keeps
    | with_reducible apply State.modHead_keeps
    | split

theorem State.suspectCluster_keeps {s₀ : State} (n : Nat) {s : State} (h : s₀.Keeps s) :
    s₀.Keeps (State.suspectCluster n s) := by
  unfold State.suspectCluster
  try dsimp only
  repeat' first
    | with_reducible assumption
    | with_reducible apply State.replaceSuspect_keeps
    | with_reducible apply State.setService_keeps
    | with_reducible apply State.rechoose_keeps
    | with_reducible apply State.abandonTest_keeps
    | with_reducible apply State.quarantine_keeps
    | split

theorem State.markSuspect_keeps {s₀ : State} (u : ArmUnit) {s : State} (h : s₀.Keeps s) :
    s₀.Keeps (State.markSuspect u s) := by
  unfold State.markSuspect
  try dsimp only
  repeat' first
    | with_reducible assumption
    | with_reducible apply State.suspectCluster_keeps
    | with_reducible apply State.event_keeps
    | simp only [State.Keeps.upd_iff]
    | split

/-! ### Planes -/

theorem planeSetBody_keeps {s₀ : State} (c : Cmd) (a : CmdRef) {s : State} (h : s₀.Keeps s) :
    KeepsCmd s₀ (planeSetBody c a s) := by
  unfold planeSetBody
  try dsimp only
  repeat' first
    | with_reducible assumption
    | with_reducible apply okDone_keeps
    | with_reducible apply State.stagePlane_keeps
    | with_reducible apply State.modHead_keeps
    | with_reducible apply KeepsCmd.bind
    | intro _

theorem State.dropStaged_keeps {s₀ : State} (hq : Nat) (t : Nat) (f : Stage → Stage) {s : State} (h : s₀.Keeps s) :
    s₀.Keeps (State.dropStaged hq t f s) := by
  unfold State.dropStaged
  try dsimp only
  repeat' first
    | with_reducible assumption
    | with_reducible apply State.modDisp_keeps
    | with_reducible apply State.modHead_keeps

theorem State.freePalettes_keeps {s₀ : State} (hq : Nat) (t : Nat) (ps : List Nat) {s : State} (h : s₀.Keeps s) :
    s₀.Keeps (State.freePalettes hq t ps s) := by
  unfold State.freePalettes
  try dsimp only
  repeat' first
    | with_reducible assumption
    | with_reducible apply State.dropStaged_keeps
    | with_reducible apply State.modHead_keeps

theorem State.removePlane_keeps {s₀ : State} (hq : Nat) (slot : Nat) {s : State} (h : s₀.Keeps s) :
    s₀.Keeps (State.removePlane hq slot s) := by
  unfold State.removePlane
  try dsimp only
  repeat' first
    | with_reducible assumption
    | with_reducible apply State.modDisp_keeps
    | with_reducible apply State.modHead_keeps

theorem planeDestroyBody_keeps {s₀ : State} (c : Cmd) (r : CmdRef) {s : State} (h : s₀.Keeps s) :
    KeepsCmd s₀ (planeDestroyBody c r s) := by
  unfold planeDestroyBody
  try dsimp only
  repeat' first
    | with_reducible assumption
    | with_reducible apply okDone_keeps
    | with_reducible apply State.removePlane_keeps
    | with_reducible apply State.endStill_keeps
    | with_reducible apply State.modHead_keeps
    | with_reducible apply KeepsCmd.bind
    | with_reducible apply KeepsCmd.ok
    | intro _
    | split

theorem contourSetBody_keeps {s₀ : State} (c : Cmd) (a : CmdRef) {s : State} (h : s₀.Keeps s) :
    KeepsCmd s₀ (contourSetBody c a s) := by
  unfold contourSetBody
  try dsimp only
  repeat' first
    | with_reducible assumption
    | with_reducible apply okDone_keeps
    | with_reducible apply State.stagePlane_keeps
    | with_reducible apply State.noteAssetRead_keeps
    | with_reducible apply KeepsCmd.bind
    | with_reducible apply KeepsCmd.error
    | intro _
    | split

theorem paletteLoadBody_keeps {s₀ : State} (c : Cmd) (a : CmdRef) {s : State} (h : s₀.Keeps s) :
    KeepsCmd s₀ (paletteLoadBody c a s) := by
  unfold paletteLoadBody
  try dsimp only
  repeat' first
    | with_reducible assumption
    | with_reducible apply okDone_keeps
    | with_reducible apply State.modStage_keeps
    | with_reducible apply State.noteAssetRead_keeps
    | with_reducible apply State.freePalettes_keeps
    | with_reducible apply State.modHead_keeps
    | with_reducible apply KeepsCmd.bind
    | intro _
    | split

theorem planeCreateBody_keeps {s₀ : State} (c : Cmd) (a : CmdRef) {s : State} (h : s₀.Keeps s) :
    KeepsCmd s₀ (planeCreateBody c a s) := by
  unfold planeCreateBody
  try dsimp only
  repeat' first
    | with_reducible assumption
    | with_reducible apply okDone_keeps
    | with_reducible apply State.modHead_keeps
    | with_reducible apply KeepsCmd.bind
    | with_reducible apply KeepsCmd.error
    | intro _
    | split

theorem paintSetBody_keeps {s₀ : State} (c : Cmd) (a : CmdRef) {s : State} (h : s₀.Keeps s) :
    KeepsCmd s₀ (paintSetBody c a s) := by
  unfold paintSetBody
  try dsimp only
  repeat' first
    | with_reducible assumption
    | with_reducible apply okDone_keeps
    | with_reducible apply State.stagePlane_keeps
    | with_reducible apply KeepsCmd.bind
    | intro _

theorem scalerCoefLoadBody_keeps {s₀ : State} (c : Cmd) (a : CmdRef) {s : State} (h : s₀.Keeps s) :
    KeepsCmd s₀ (scalerCoefLoadBody c a s) := by
  unfold scalerCoefLoadBody
  try dsimp only
  repeat' first
    | with_reducible assumption
    | with_reducible apply okDone_keeps
    | with_reducible apply State.stagePlane_keeps
    | with_reducible apply State.noteAssetRead_keeps
    | with_reducible apply KeepsCmd.bind
    | with_reducible apply KeepsCmd.error
    | intro _
    | split

theorem canvasSetBody_keeps {s₀ : State} (c : Cmd) (a : CmdRef) {s : State} (h : s₀.Keeps s) :
    KeepsCmd s₀ (canvasSetBody c a s) := by
  unfold canvasSetBody
  try dsimp only
  repeat' first
    | with_reducible assumption
    | with_reducible apply okDone_keeps
    | with_reducible apply State.stagePlane_keeps
    | with_reducible apply KeepsCmd.bind
    | intro _

theorem objectTableSetBody_keeps {s₀ : State} (c : Cmd) (a : CmdRef) {s : State} (h : s₀.Keeps s) :
    KeepsCmd s₀ (objectTableSetBody c a s) := by
  unfold objectTableSetBody
  try dsimp only
  repeat' first
    | with_reducible assumption
    | with_reducible apply okDone_keeps
    | with_reducible apply State.stagePlane_keeps
    | with_reducible apply State.noteAssetRead_keeps
    | with_reducible apply KeepsCmd.bind
    | with_reducible apply KeepsCmd.error
    | intro _
    | split

/-! ### Colour -/

theorem transferLutLoadBody_keeps {s₀ : State} (c : Cmd) (a : CmdRef) {s : State} (h : s₀.Keeps s) :
    KeepsCmd s₀ (transferLutLoadBody c a s) := by
  unfold transferLutLoadBody
  try dsimp only
  repeat' first
    | with_reducible assumption
    | with_reducible apply okDone_keeps
    | with_reducible apply State.modStage_keeps
    | with_reducible apply State.dropStaged_keeps
    | with_reducible apply State.stagePlane_keeps
    | with_reducible apply State.noteAssetRead_keeps
    | with_reducible apply State.modHead_keeps
    | with_reducible apply KeepsCmd.bind
    | intro _
    | split

theorem postLutLoadBody_keeps {s₀ : State} (c : Cmd) (a : CmdRef) {s : State} (h : s₀.Keeps s) :
    KeepsCmd s₀ (postLutLoadBody c a s) := by
  unfold postLutLoadBody
  try dsimp only
  repeat' first
    | with_reducible assumption
    | with_reducible apply okDone_keeps
    | with_reducible apply State.modStage_keeps
    | with_reducible apply State.noteAssetRead_keeps
    | with_reducible apply KeepsCmd.bind
    | intro _
    | split

end Sys2Proof.Machine
end

