-- ==== Sys2Proof/Laws/KeepsDisplay.lean ====
section
/-! SUPPORT. What the operations and meanings keep: pixels, commits, pins, timers, mailboxes and DMA. Each lemma goes over the branches
of one definition and cites the lemmas of what it calls. -/

namespace Sys2Proof.Machine

open Sys2Proof

/-! ### Raster -/

theorem State.dropFret_keeps {s₀ : State} (hq : Nat) (f : Nat) {s : State} (h : s₀.Keeps s) :
    s₀.Keeps (State.dropFret hq f s) := by
  unfold State.dropFret
  try dsimp only
  repeat' first
    | with_reducible assumption
    | with_reducible apply State.modTabs_keeps

theorem State.lineMatch_keeps {s₀ : State} (hq : Nat) (f : Nat) (owner : Nat) (line : Nat) {s : State} (h : s₀.Keeps s) :
    s₀.Keeps (State.lineMatch hq f owner line s) := by
  unfold State.lineMatch
  try dsimp only
  repeat' first
    | with_reducible assumption
    | with_reducible apply State.event_keeps

theorem ditherSetBody_keeps {s₀ : State} (c : Cmd) (a : CmdRef) {s : State} (h : s₀.Keeps s) :
    KeepsCmd s₀ (ditherSetBody c a s) := by
  unfold ditherSetBody
  try dsimp only
  repeat' first
    | with_reducible assumption
    | with_reducible apply okDone_keeps
    | with_reducible apply State.modStage_keeps
    | with_reducible apply KeepsCmd.bind
    | intro _

theorem fretSetBody_keeps {s₀ : State} (c : Cmd) (a : CmdRef) {s : State} (h : s₀.Keeps s) :
    KeepsCmd s₀ (fretSetBody c a s) := by
  unfold fretSetBody
  try dsimp only
  repeat' first
    | with_reducible assumption
    | with_reducible apply okDone_keeps
    | with_reducible apply State.dropFret_keeps
    | with_reducible apply State.modHead_keeps
    | with_reducible apply KeepsCmd.bind
    | with_reducible apply KeepsCmd.error
    | intro _
    | split

theorem State.takeList_keeps {s₀ : State} (c : Cmd) (k : Nat) (ls : List LLine) {s : State} (h : s₀.Keeps s) :
    s₀.Keeps (State.takeList c k ls s) := by
  unfold State.takeList
  try dsimp only
  repeat' first
    | with_reducible assumption
    | with_reducible apply State.modStage_keeps
    | with_reducible apply State.noteAssetRead_keeps
    | with_reducible apply State.modHead_keeps

theorem linelistSetBody_keeps {s₀ : State} (c : Cmd) (a : CmdRef) {s : State} (h : s₀.Keeps s) :
    KeepsCmd s₀ (linelistSetBody c a s) := by
  unfold linelistSetBody
  try dsimp only
  repeat' first
    | with_reducible assumption
    | with_reducible apply okDone_keeps
    | with_reducible apply State.modStage_keeps
    | with_reducible apply State.takeList_keeps
    | with_reducible apply KeepsCmd.bind
    | intro _
    | split

theorem leadBoundsSetBody_keeps {s₀ : State} (c : Cmd) (r : CmdRef) {s : State} (h : s₀.Keeps s) :
    KeepsCmd s₀ (leadBoundsSetBody c r s) := by
  unfold leadBoundsSetBody
  try dsimp only
  repeat' first
    | with_reducible assumption
    | with_reducible apply State.modHead_keeps
    | with_reducible apply KeepsCmd.bind
    | with_reducible apply KeepsCmd.error
    | with_reducible apply KeepsCmd.ok
    | intro _
    | split

theorem costQueryBody_keeps {s₀ : State} (c : Cmd) (a : CmdRef) {s : State} (h : s₀.Keeps s) :
    KeepsCmd s₀ (costQueryBody c a s) := by
  unfold costQueryBody
  try dsimp only
  repeat' first
    | with_reducible assumption
    | with_reducible apply okDone_keeps
    | with_reducible apply KeepsCmd.bind
    | with_reducible apply KeepsCmd.error
    | intro _
    | split

/-! ### Pixels -/

theorem State.planeFault_keeps {s₀ : State} (hq : Nat) (slot : Nat) (owner : Nat) (f : AssetFault) {s : State} (h : s₀.Keeps s) :
    s₀.Keeps (State.planeFault hq slot owner f s) := by
  unfold State.planeFault
  try dsimp only
  repeat' first
    | with_reducible assumption
    | with_reducible apply State.modTenant_keeps
    | with_reducible apply State.atlasFault_keeps
    | with_reducible apply State.modHead_keeps
    | split

theorem State.cutPlane_keeps {s₀ : State} (hq : Nat) (slot : Nat) (first : Nat) {s : State} (h : s₀.Keeps s) :
    s₀.Keeps (State.cutPlane hq slot first s) := by
  unfold State.cutPlane
  try dsimp only
  repeat' first
    | with_reducible assumption
    | with_reducible apply State.modHead_keeps
    | split

theorem State.cutList_keeps {s₀ : State} (hq : Nat) (slot : Nat) {s : State} (h : s₀.Keeps s) :
    s₀.Keeps (State.cutList hq slot s) := by
  unfold State.cutList
  try dsimp only
  repeat' first
    | with_reducible assumption
    | with_reducible apply State.cutPlane_keeps
    | with_reducible apply State.Keeps.foldl
    | intro _

theorem State.lineWrite_keeps {s₀ : State} (hq : Nat) (t : Nat) (w : LWrite) {s : State} (h : s₀.Keeps s) :
    s₀.Keeps (State.lineWrite hq t w s).1 := by
  unfold State.lineWrite
  try dsimp only
  repeat' first
    | with_reducible assumption
    | with_reducible apply State.modHead_keeps
    | split

theorem State.applyTabWrites_keeps {s₀ : State} (hq : Nat) (y : Nat) {s : State} (h : s₀.Keeps s) :
    s₀.Keeps (State.applyTabWrites hq y s) := by
  unfold State.applyTabWrites
  try dsimp only
  repeat' first
    | with_reducible assumption
    | with_reducible apply State.modTabs_keeps
    | with_reducible apply State.lineWrite_keeps
    | with_reducible apply State.Keeps.foldl
    | intro _

theorem State.applyLists_keeps {s₀ : State} (hq : Nat) (y : Nat) {s : State} (h : s₀.Keeps s) :
    s₀.Keeps (State.applyLists hq y s) := by
  unfold State.applyLists
  try dsimp only
  repeat' first
    | with_reducible assumption
    | with_reducible apply State.modHead_keeps
    | with_reducible apply State.lineWrite_keeps
    | with_reducible apply State.Keeps.foldl
    | intro _
    | split

theorem State.composePixels_keeps {s₀ : State} (hq : Nat) (y : Nat) {s : State} (h : s₀.Keeps s) :
    s₀.Keeps (State.composePixels hq y s).1 := by
  unfold State.composePixels
  try dsimp only
  repeat' first
    | with_reducible assumption
    | with_reducible apply State.planeFault_keeps
    | with_reducible apply State.modHead_keeps
    | with_reducible apply State.Keeps.foldl
    | intro _

/-! ### TabOps -/

theorem State.modThread_keeps {s₀ : State} (hq : Nat) (slot : Nat) (f : Thread → Thread) {s : State} (h : s₀.Keeps s) :
    s₀.Keeps (State.modThread hq slot f s) := by
  unfold State.modThread
  try dsimp only
  repeat' first
    | with_reducible assumption
    | with_reducible apply State.modTabs_keeps

theorem State.endDebug_keeps {s₀ : State} (k : Thread) {s : State} (h : s₀.Keeps s) :
    s₀.Keeps (State.endDebug k s) := by
  unfold State.endDebug
  try dsimp only
  repeat' first
    | with_reducible assumption
    | with_reducible apply State.completeOk_keeps
    | with_reducible apply State.Keeps.foldl
    | intro _

theorem State.applyTab_keeps {s₀ : State} (hq : Nat) (slot : Nat) (g : TabStage) {s : State} (h : s₀.Keeps s) :
    s₀.Keeps (State.applyTab hq slot g s) := by
  unfold State.applyTab
  try dsimp only
  repeat' first
    | with_reducible assumption
    | with_reducible apply State.modThread_keeps
    | with_reducible apply State.modTabs_keeps
    | with_reducible apply State.endDebug_keeps
    | split

theorem State.keepThread_keeps {s₀ : State} (hq : Nat) (slot : Nat) {s : State} (h : s₀.Keeps s) :
    s₀.Keeps (State.keepThread hq slot s) := by
  unfold State.keepThread
  try dsimp only
  repeat' first
    | with_reducible assumption
    | with_reducible apply State.modTabs_keeps
    | split

theorem State.tabFault_keeps {s₀ : State} (hq : Nat) (slot : Nat) (cause : Nat) {s : State} (h : s₀.Keeps s) :
    s₀.Keeps (State.tabFault hq slot cause s) := by
  unfold State.tabFault
  try dsimp only
  repeat' first
    | with_reducible assumption
    | with_reducible apply State.notify_keeps
    | with_reducible apply State.modThread_keeps
    | split

theorem State.fireFast_keeps {s₀ : State} (hq : Nat) (f : Nat) (owner : Nat) {s : State} (h : s₀.Keeps s) :
    s₀.Keeps (State.fireFast hq f owner s) := by
  unfold State.fireFast
  try dsimp only
  repeat' first
    | with_reducible assumption
    | with_reducible apply State.modThread_keeps
    | with_reducible apply State.modHead_keeps
    | with_reducible apply State.Keeps.foldl
    | intro _
    | split

theorem State.wakeThread_keeps {s₀ : State} (hq : Nat) (slot : Nat) (y : Nat) {s : State} (h : s₀.Keeps s) :
    s₀.Keeps (State.wakeThread hq slot y s) := by
  unfold State.wakeThread
  try dsimp only
  repeat' first
    | with_reducible assumption
    | with_reducible apply State.modThread_keeps
    | with_reducible apply State.modHead_keeps
    | split

theorem State.issueWakes_keeps {s₀ : State} (hq : Nat) (y : Nat) (slots : List Nat) {s : State} (h : s₀.Keeps s) :
    s₀.Keeps (State.issueWakes hq y slots s) := by
  unfold State.issueWakes
  try dsimp only
  repeat' first
    | with_reducible assumption
    | with_reducible apply State.wakeThread_keeps
    | with_reducible apply State.Keeps.foldl
    | intro _

theorem State.restartTabs_keeps {s₀ : State} (hq : Nat) (n : Nat) {s : State} (h : s₀.Keeps s) :
    s₀.Keeps (State.restartTabs hq n s) := by
  unfold State.restartTabs
  try dsimp only
  repeat' first
    | with_reducible assumption
    | with_reducible apply State.notify_keeps
    | with_reducible apply State.modThread_keeps
    | with_reducible apply State.modTabs_keeps
    | with_reducible apply State.endDebug_keeps
    | with_reducible apply State.Keeps.foldl
    | intro _
    | split

/-! ### Commit -/

theorem State.nextRoute_keeps {s₀ : State} (port : Nat) (a : Nat) {a1 : State} (h : s₀.Keeps a1) :
    s₀.Keeps (State.nextRoute port a a1) := by
  induction a generalizing a1 port with
  | zero =>
    unfold State.nextRoute
    try dsimp only
    repeat' first
      | with_reducible assumption
      | with_reducible apply State.modPort_keeps
      | with_reducible apply State.completeOk_keeps
      | with_reducible apply State.modHead_keeps
      | with_reducible apply State.Keeps.foldl
      | intro _
      | split
  | succ k ih =>
    unfold State.nextRoute
    try dsimp only
    repeat' first
      | with_reducible apply ih
      | with_reducible assumption
      | with_reducible apply State.modPort_keeps
      | with_reducible apply State.completeOk_keeps
      | with_reducible apply State.modHead_keeps
      | with_reducible apply State.Keeps.foldl
      | intro _
      | split

theorem State.frameEnded_keeps {s₀ : State} (hq : Nat) {s : State} (h : s₀.Keeps s) :
    s₀.Keeps (State.frameEnded hq s) := by
  unfold State.frameEnded
  try dsimp only
  repeat' first
    | with_reducible assumption
    | with_reducible apply State.modPort_keeps
    | with_reducible apply State.nextRoute_keeps
    | with_reducible apply State.Keeps.foldl
    | intro _

theorem captureStartBody_keeps {s₀ : State} (c : Cmd) (a : CmdRef) {s : State} (h : s₀.Keeps s) :
    KeepsCmd s₀ (captureStartBody c a s) := by
  unfold captureStartBody
  try dsimp only
  repeat' first
    | with_reducible assumption
    | with_reducible apply okDone_keeps
    | with_reducible apply State.modTenant_keeps
    | with_reducible apply State.modHead_keeps
    | with_reducible apply KeepsCmd.bind
    | intro _

theorem State.firstTiming_keeps {s₀ : State} (hq : Nat) (t : Timing) (recs : List CmdRef) {s : State} (h : s₀.Keeps s) :
    s₀.Keeps (State.firstTiming hq t recs s) := by
  unfold State.firstTiming
  try dsimp only
  repeat' first
    | with_reducible assumption
    | with_reducible apply State.assignCluster_keeps
    | with_reducible apply State.addTakeover_keeps
    | with_reducible apply State.modHead_keeps
    | split

theorem State.haltHead_keeps {s₀ : State} (hq : Nat) {s : State} (h : s₀.Keeps s) :
    s₀.Keeps (State.haltHead hq s) := by
  unfold State.haltHead
  try dsimp only
  repeat' first
    | with_reducible assumption
    | with_reducible apply State.modHead_keeps
    | with_reducible apply State.frameEnded_keeps

theorem State.switchOff_keeps {s₀ : State} (hq : Nat) (r : Option CmdRef) {s : State} (h : s₀.Keeps s) :
    s₀.Keeps (State.switchOff hq r s) := by
  unfold State.switchOff
  try dsimp only
  repeat' first
    | with_reducible assumption
    | with_reducible apply State.modCluster_keeps
    | with_reducible apply State.giveSpare_keeps
    | with_reducible apply State.setService_keeps
    | with_reducible apply State.completeOk_keeps
    | with_reducible apply State.modDisp_keeps
    | with_reducible apply State.chooseAgain_keeps
    | with_reducible apply State.modHead_keeps
    | with_reducible apply State.haltHead_keeps
    | with_reducible apply State.Keeps.foldl
    | intro _
    | split

theorem State.applyTiming_keeps {s₀ : State} (hq : Nat) (e : Option CmdRef × TimingChange) {s : State} (h : s₀.Keeps s) :
    s₀.Keeps (State.applyTiming hq e s) := by
  unfold State.applyTiming
  try dsimp only
  repeat' first
    | with_reducible assumption
    | with_reducible apply State.firstTiming_keeps
    | with_reducible apply State.modHead_keeps
    | with_reducible apply State.switchOff_keeps
    | with_reducible apply State.haltHead_keeps
    | split

theorem State.applyTimings_keeps {s₀ : State} (hq : Nat) {s : State} (h : s₀.Keeps s) :
    s₀.Keeps (State.applyTimings hq s) := by
  unfold State.applyTimings
  try dsimp only
  repeat' first
    | with_reducible assumption
    | with_reducible apply State.applyTiming_keeps
    | with_reducible apply State.modHead_keeps
    | with_reducible apply State.Keeps.foldl
    | intro _

theorem State.stopHead_keeps {s₀ : State} (hq : Nat) {s : State} (h : s₀.Keeps s) :
    s₀.Keeps (State.stopHead hq s) := by
  unfold State.stopHead
  try dsimp only
  repeat' first
    | with_reducible assumption
    | with_reducible apply State.modHead_keeps
    | with_reducible apply State.haltHead_keeps
    | with_reducible apply State.sleepWhenStopped_keeps

theorem State.planRoute_keeps {s₀ : State} (port : Nat) (r : CmdRef) (new : Route) (lost : List Nat) {s : State} (h : s₀.Keeps s) :
    s₀.Keeps (State.planRoute port r new lost s) := by
  unfold State.planRoute
  repeat' first
    | with_reducible assumption
    | (extract_lets +onlyGivenNames a; refine State.Keeps.cut (s₀ := s₀) (s := a) ?_ (fun ha => ?_); rotate_left; clear_value a; rotate_right; subst a)
    | with_reducible apply State.modPort_keeps
    | with_reducible apply State.nextRoute_keeps
    | with_reducible apply State.modHead_keeps
    | with_reducible apply State.Keeps.foldl
    | intro _

theorem portRouteSetBody_keeps {s₀ : State} (c : Cmd) (r : CmdRef) {s : State} (h : s₀.Keeps s) :
    KeepsCmd s₀ (portRouteSetBody c r s) := by
  unfold portRouteSetBody
  repeat' first
    | with_reducible assumption
    | (extract_lets +onlyGivenNames a; clear_value a)
    | with_reducible apply State.planRoute_keeps
    | with_reducible apply KeepsCmd.bind
    | with_reducible apply KeepsCmd.ok
    | intro _

theorem State.pllLock_keeps {s₀ : State} (hq : Nat) {s : State} (h : s₀.Keeps s) :
    s₀.Keeps (State.pllLock hq s) := by
  unfold State.pllLock
  try dsimp only
  repeat' first
    | with_reducible assumption
    | with_reducible apply State.modHead_keeps
    | split

theorem execPixelPllLock_keeps {s₀ : State} (dt : Nat) (hq : Nat) {s : State} (h : s₀.Keeps s) :
    KeepsOut s₀ (execPixelPllLock dt hq s) := by
  unfold execPixelPllLock
  try dsimp only
  repeat' first
    | with_reducible assumption
    | with_reducible apply State.pllLock_keeps
    | with_reducible apply State.tick_keeps
    | with_reducible apply KeepsOut.next

theorem State.acceptTiming_keeps {s₀ : State} (hq : Nat) (e : Option CmdRef × TimingChange) {s : State} (h : s₀.Keeps s) :
    s₀.Keeps (State.acceptTiming hq e s) := by
  unfold State.acceptTiming
  try dsimp only
  repeat' first
    | with_reducible assumption
    | with_reducible apply State.applyTimings_keeps
    | with_reducible apply State.endStill_keeps
    | with_reducible apply State.modHead_keeps
    | split

theorem headTimingSetBody_keeps {s₀ : State} (c : Cmd) (r : CmdRef) {s : State} (h : s₀.Keeps s) :
    KeepsCmd s₀ (headTimingSetBody c r s) := by
  unfold headTimingSetBody
  repeat' first
    | with_reducible assumption
    | with_reducible apply KeepsCmd.ite
    | (extract_lets +onlyGivenNames a; clear_value a)
    | with_reducible apply okDone_keeps
    | with_reducible apply State.acceptTiming_keeps
    | simp only [State.Keeps.upd_iff]
    | with_reducible apply KeepsCmd.bind
    | with_reducible apply KeepsCmd.ok
    | intro _
    | split

theorem stillPolicySetBody_keeps {s₀ : State} (c : Cmd) (r : CmdRef) {s : State} (h : s₀.Keeps s) :
    KeepsCmd s₀ (stillPolicySetBody c r s) := by
  unfold stillPolicySetBody
  try dsimp only
  repeat' first
    | with_reducible assumption
    | with_reducible apply State.endStill_keeps
    | with_reducible apply State.modHead_keeps
    | with_reducible apply KeepsCmd.bind
    | with_reducible apply KeepsCmd.error
    | with_reducible apply KeepsCmd.ok
    | intro _
    | split

theorem captureStopBody_keeps {s₀ : State} (c : Cmd) (r : CmdRef) {s : State} (h : s₀.Keeps s) :
    KeepsCmd s₀ (captureStopBody c r s) := by
  unfold captureStopBody
  try dsimp only
  repeat' first
    | with_reducible assumption
    | with_reducible apply okDone_keeps
    | with_reducible apply State.modHead_keeps
    | with_reducible apply KeepsCmd.bind
    | with_reducible apply KeepsCmd.error
    | with_reducible apply KeepsCmd.ok
    | intro _
    | split

theorem State.acceptCommit_keeps {s₀ : State} (c : Cmd) (heads : List Nat) (k : Commit) {s : State} (h : s₀.Keeps s) :
    s₀.Keeps (State.acceptCommit c heads k s) := by
  unfold State.acceptCommit
  try dsimp only
  repeat' first
    | with_reducible assumption
    | with_reducible apply State.endStill_keeps
    | with_reducible apply State.modDisp_keeps
    | with_reducible apply State.modHead_keeps
    | with_reducible apply State.Keeps.foldl
    | intro _

theorem commitSubmitBody_keeps {s₀ : State} (c : Cmd) (r : CmdRef) {s : State} (h : s₀.Keeps s) :
    KeepsCmd s₀ (commitSubmitBody c r s) := by
  unfold commitSubmitBody
  try dsimp only
  repeat' first
    | with_reducible assumption
    | with_reducible apply State.acceptCommit_keeps
    | with_reducible apply KeepsCmd.bind
    | with_reducible apply KeepsCmd.ok
    | intro _

theorem framelockSetBody_keeps {s₀ : State} (c : Cmd) (r : CmdRef) {s : State} (h : s₀.Keeps s) :
    KeepsCmd s₀ (framelockSetBody c r s) := by
  unfold framelockSetBody
  try dsimp only
  repeat' first
    | with_reducible assumption
    | with_reducible apply State.endStill_keeps
    | with_reducible apply State.modHead_keeps
    | with_reducible apply KeepsCmd.bind
    | with_reducible apply KeepsCmd.error
    | with_reducible apply KeepsCmd.ok
    | intro _
    | split

/-! ### Intc -/

theorem State.modPin_keeps {s₀ : State} {s : State} (p : Nat) (f : Pin → Pin) (h : s₀.Keeps s) :
    s₀.Keeps (State.modPin s p f) := by
  unfold State.modPin
  try dsimp only
  repeat' first
    | with_reducible assumption
    | simp only [State.Keeps.upd_iff]

theorem State.modSrc_keeps {s₀ : State} {s : State} (i : Nat) (f : IntSrc → IntSrc) (h : s₀.Keeps s) :
    s₀.Keeps (State.modSrc s i f) := by
  unfold State.modSrc
  try dsimp only
  repeat' first
    | with_reducible assumption
    | simp only [State.Keeps.upd_iff]

theorem State.clearSource_keeps {s₀ : State} (i : Nat) {s : State} (h : s₀.Keeps s) :
    s₀.Keeps (State.clearSource i s) := by
  unfold State.clearSource
  try dsimp only
  repeat' first
    | with_reducible assumption
    | with_reducible apply State.modSrc_keeps

theorem State.deliverCaught_keeps {s₀ : State} {s : State} (h : s₀.Keeps s) :
    s₀.Keeps (State.deliverCaught s) := by
  unfold State.deliverCaught
  try dsimp only
  repeat' first
    | with_reducible assumption
    | with_reducible apply State.hwMark_keeps
    | simp only [State.Keeps.upd_iff]
    | with_reducible apply State.Keeps.foldl
    | intro _
    | split

theorem State.endEntry_keeps {s₀ : State} {s : State} (h : s₀.Keeps s) :
    s₀.Keeps (State.endEntry s) := by
  unfold State.endEntry
  try dsimp only
  repeat' first
    | with_reducible assumption
    | with_reducible apply State.modSrc_keeps
    | simp only [State.Keeps.upd_iff]
    | split

theorem State.sourceEvent_keeps {s₀ : State} (i : Nat) (asserted : Bool) {s : State} (h : s₀.Keeps s) :
    s₀.Keeps (State.sourceEvent i asserted s) := by
  unfold State.sourceEvent
  try dsimp only
  repeat' first
    | with_reducible assumption
    | with_reducible apply State.hwMark_keeps
    | with_reducible apply State.modSrc_keeps
    | split

theorem State.takeSource_keeps {s₀ : State} (i : Nat) {s : State} (h : s₀.Keeps s) :
    s₀.Keeps (State.takeSource i s) := by
  unfold State.takeSource
  try dsimp only
  repeat' first
    | with_reducible assumption
    | with_reducible apply State.modSrc_keeps
    | simp only [State.Keeps.upd_iff]
    | split

theorem State.clearCount_keeps {s₀ : State} (i : Nat) (edges : List Nat) {s : State} (h : s₀.Keeps s) :
    s₀.Keeps (State.clearCount i edges s) := by
  unfold State.clearCount
  try dsimp only
  repeat' first
    | with_reducible assumption
    | with_reducible apply State.modSrc_keeps

theorem execIntcEnableClr_keeps {s₀ : State} (dt : Nat) (k : Nat) (v : Word) {s : State} (h : s₀.Keeps s) :
    KeepsOut s₀ (execIntcEnableClr dt k v s) := by
  unfold execIntcEnableClr
  try dsimp only
  repeat' first
    | with_reducible assumption
    | with_reducible apply State.modSrc_keeps
    | with_reducible apply State.tick_keeps
    | with_reducible apply KeepsOut.next
    | with_reducible apply State.Keeps.foldl
    | intro _

theorem execHoldoffExpiry_keeps {s₀ : State} (dt : Nat) (g : Nat) {s : State} (h : s₀.Keeps s) :
    KeepsOut s₀ (execHoldoffExpiry dt g s) := by
  unfold execHoldoffExpiry
  try dsimp only
  repeat' first
    | with_reducible assumption
    | with_reducible apply State.tick_keeps
    | simp only [State.Keeps.upd_iff]
    | with_reducible apply KeepsOut.next
    | split

theorem execIntcEnableSet_keeps {s₀ : State} (dt : Nat) (k : Nat) (v : Word) {s : State} (h : s₀.Keeps s) :
    KeepsOut s₀ (execIntcEnableSet dt k v s) := by
  unfold execIntcEnableSet
  try dsimp only
  repeat' first
    | with_reducible assumption
    | with_reducible apply State.modSrc_keeps
    | with_reducible apply State.tick_keeps
    | with_reducible apply KeepsOut.next
    | with_reducible apply State.Keeps.foldl
    | intro _

theorem execInterruptSourceEvent_keeps {s₀ : State} (dt : Nat) (i : Nat) (asserted : Bool) {s : State} (h : s₀.Keeps s) :
    KeepsOut s₀ (execInterruptSourceEvent dt i asserted s) := by
  unfold execInterruptSourceEvent
  try dsimp only
  repeat' first
    | with_reducible assumption
    | with_reducible apply State.sourceEvent_keeps
    | with_reducible apply State.tick_keeps
    | with_reducible apply KeepsOut.next

theorem execIntcPendingClr_keeps {s₀ : State} (dt : Nat) (k : Nat) (v : Word) (edges : List Nat) {s : State} (h : s₀.Keeps s) :
    KeepsOut s₀ (execIntcPendingClr dt k v edges s) := by
  unfold execIntcPendingClr
  try dsimp only
  repeat' first
    | with_reducible assumption
    | with_reducible apply State.clearCount_keeps
    | with_reducible apply State.tick_keeps
    | with_reducible apply KeepsOut.next
    | with_reducible apply State.Keeps.foldl
    | intro _

theorem execIntcPendingSet_keeps {s₀ : State} (dt : Nat) (k : Nat) (v : Word) {s : State} (h : s₀.Keeps s) :
    KeepsOut s₀ (execIntcPendingSet dt k v s) := by
  unfold execIntcPendingSet
  try dsimp only
  repeat' first
    | with_reducible assumption
    | with_reducible apply State.modSrc_keeps
    | with_reducible apply State.tick_keeps
    | with_reducible apply KeepsOut.next
    | with_reducible apply State.Keeps.foldl
    | intro _

/-! ### PinOps -/

theorem State.settlePin_keeps {s₀ : State} {s : State} (p : Nat) (h : s₀.Keeps s) :
    s₀.Keeps (State.settlePin s p) := by
  unfold State.settlePin
  try dsimp only
  repeat' first
    | with_reducible assumption
    | with_reducible apply State.modPin_keeps
    | split

theorem State.pinEventOut_keeps {s₀ : State} (p : Nat) (kind : Nat) (count : Nat) (at_ : Meridian) {s : State} (h : s₀.Keeps s) :
    s₀.Keeps (State.pinEventOut p kind count at_ s) := by
  unfold State.pinEventOut
  try dsimp only
  repeat' first
    | with_reducible assumption
    | with_reducible apply State.event_keeps
    | split

theorem State.pinEvent_keeps {s₀ : State} (p : Nat) (kind : Nat) {s : State} (h : s₀.Keeps s) :
    s₀.Keeps (State.pinEvent p kind s) := by
  unfold State.pinEvent
  try dsimp only
  repeat' first
    | with_reducible assumption
    | with_reducible apply State.pinEventOut_keeps
    | with_reducible apply State.modPin_keeps
    | split

theorem State.maskedWrite_keeps {s₀ : State} (bank : Nat) (reg : GpioReg) (high : Bool) (v : Word) {s : State} (h : s₀.Keeps s) :
    s₀.Keeps (State.maskedWrite bank reg high v s) := by
  unfold State.maskedWrite
  try dsimp only
  repeat' first
    | with_reducible assumption
    | with_reducible apply State.modPin_keeps
    | with_reducible apply State.Keeps.foldl
    | intro _
    | split

theorem State.coalesceEnd_keeps {s₀ : State} (p : Nat) {s : State} (h : s₀.Keeps s) :
    s₀.Keeps (State.coalesceEnd p s) := by
  unfold State.coalesceEnd
  try dsimp only
  repeat' first
    | with_reducible assumption
    | with_reducible apply State.pinEventOut_keeps
    | with_reducible apply State.modPin_keeps
    | split

theorem State.modBlock_keeps {s₀ : State} {s : State} (k : Nat) (f : Block → Block) (h : s₀.Keeps s) :
    s₀.Keeps (State.modBlock s k f) := by
  unfold State.modBlock
  try dsimp only
  repeat' first
    | with_reducible assumption
    | simp only [State.Keeps.upd_iff]

theorem State.uartSend_keeps {s₀ : State} (k : Nat) {s : State} (h : s₀.Keeps s) :
    s₀.Keeps (State.uartSend k s) := by
  unfold State.uartSend
  try dsimp only
  repeat' first
    | with_reducible assumption
    | with_reducible apply State.modBlock_keeps
    | with_reducible apply State.event_keeps
    | split

theorem State.uartByte_keeps {s₀ : State} (u : Nat) (v : Byte) {s : State} (h : s₀.Keeps s) :
    s₀.Keeps (State.uartByte u v s) := by
  unfold State.uartByte
  try dsimp only
  repeat' first
    | with_reducible assumption
    | with_reducible apply State.modBlock_keeps
    | with_reducible apply State.uartSend_keeps
    | split

theorem State.followLevel_keeps {s₀ : State} (p : Nat) {s : State} (h : s₀.Keeps s) :
    s₀.Keeps (State.followLevel p s) := by
  unfold State.followLevel
  try dsimp only
  repeat' first
    | with_reducible assumption
    | with_reducible apply State.sourceEvent_keeps
    | split

theorem State.setIntEn_keeps {s₀ : State} (bank : Nat) (f : Nat → Nat) {s : State} (h : s₀.Keeps s) :
    s₀.Keeps (State.setIntEn bank f s) := by
  unfold State.setIntEn
  try dsimp only
  repeat' first
    | with_reducible assumption
    | with_reducible apply State.followLevel_keeps
    | simp only [State.Keeps.upd_iff]
    | with_reducible apply State.Keeps.foldl
    | intro _

theorem State.serialDone_keeps {s₀ : State} (k : Nat) (o : SerialOutcome) {s : State} (h : s₀.Keeps s) :
    s₀.Keeps (State.serialDone k o s) := by
  unfold State.serialDone
  try dsimp only
  repeat' first
    | with_reducible assumption
    | with_reducible apply State.modBlock_keeps
    | with_reducible apply State.complete_keeps
    | with_reducible apply State.completeOk_keeps
    | split

theorem execGpioIntEnClr_keeps {s₀ : State} (dt : Nat) (bank : Nat) (v : Word) {s : State} (h : s₀.Keeps s) :
    KeepsOut s₀ (execGpioIntEnClr dt bank v s) := by
  unfold execGpioIntEnClr
  try dsimp only
  repeat' first
    | with_reducible assumption
    | with_reducible apply State.tick_keeps
    | with_reducible apply State.setIntEn_keeps
    | with_reducible apply KeepsOut.next

theorem State.configPin_keeps {s₀ : State} (c : Cmd) (p : Nat) {s : State} (h : s₀.Keeps s) :
    s₀.Keeps (State.configPin c p s) := by
  unfold State.configPin
  try dsimp only
  repeat' first
    | with_reducible assumption
    | with_reducible apply State.modPin_keeps
    | with_reducible apply State.clearSource_keeps
    | with_reducible apply State.setIntEn_keeps
    | split

theorem execGpioIntEnSet_keeps {s₀ : State} (dt : Nat) (bank : Nat) (v : Word) {s : State} (h : s₀.Keeps s) :
    KeepsOut s₀ (execGpioIntEnSet dt bank v s) := by
  unfold execGpioIntEnSet
  try dsimp only
  repeat' first
    | with_reducible assumption
    | with_reducible apply State.tick_keeps
    | with_reducible apply State.setIntEn_keeps
    | with_reducible apply KeepsOut.next

theorem execUartByteReceive_keeps {s₀ : State} (dt : Nat) (u : Nat) (v : Byte) {s : State} (h : s₀.Keeps s) :
    KeepsOut s₀ (execUartByteReceive dt u v s) := by
  unfold execUartByteReceive
  try dsimp only
  repeat' first
    | with_reducible assumption
    | with_reducible apply State.uartByte_keeps
    | with_reducible apply State.tick_keeps
    | with_reducible apply KeepsOut.next

theorem execUartLineIdle_keeps {s₀ : State} (dt : Nat) (u : Nat) {s : State} (h : s₀.Keeps s) :
    KeepsOut s₀ (execUartLineIdle dt u s) := by
  unfold execUartLineIdle
  try dsimp only
  repeat' first
    | with_reducible assumption
    | with_reducible apply State.tick_keeps
    | with_reducible apply State.uartSend_keeps
    | with_reducible apply KeepsOut.next
    | split

theorem State.ackPin_keeps {s₀ : State} (p : Nat) {s : State} (h : s₀.Keeps s) :
    s₀.Keeps (State.ackPin p s) := by
  unfold State.ackPin
  try dsimp only
  repeat' first
    | with_reducible assumption
    | with_reducible apply State.pinEventOut_keeps
    | with_reducible apply State.modPin_keeps
    | split

theorem pinWriteBody_keeps {s₀ : State} (c : Cmd) (r : CmdRef) {s : State} (h : s₀.Keeps s) :
    KeepsCmd s₀ (pinWriteBody c r s) := by
  unfold pinWriteBody
  try dsimp only
  repeat' first
    | with_reducible assumption
    | with_reducible apply okDone_keeps
    | with_reducible apply State.modBlock_keeps
    | with_reducible apply State.maskedWrite_keeps
    | with_reducible apply State.ackPin_keeps
    | with_reducible apply KeepsCmd.bind
    | with_reducible apply KeepsCmd.ok
    | with_reducible apply State.Keeps.foldl
    | intro _
    | split

theorem State.dropArm_keeps {s₀ : State} (t : Nat) {s : State} (h : s₀.Keeps s) :
    s₀.Keeps (State.dropArm t s) := by
  unfold State.dropArm
  try dsimp only
  repeat' first
    | with_reducible assumption
    | simp only [State.Keeps.upd_iff]

theorem pinLockChecks_keeps {s₀ : State} (c : Cmd) {s : State} (h : s₀.Keeps s) :
    KeepsCmd s₀ (pinLockChecks c s) := by
  unfold pinLockChecks
  try dsimp only
  repeat' first
    | with_reducible assumption
    | with_reducible apply State.fresh_keeps
    | with_reducible apply State.dropArm_keeps
    | with_reducible apply State.modPin_keeps
    | simp only [State.Keeps.upd_iff]
    | with_reducible apply KeepsCmd.bind
    | with_reducible apply KeepsCmd.error
    | with_reducible apply KeepsCmd.ok
    | with_reducible apply State.Keeps.foldl
    | intro _
    | split

theorem pinLockBody_keeps {s₀ s : State} (c : Cmd) (r : CmdRef) (h : s₀.Keeps s) : KeepsCmd s₀ (pinLockBody c r s) := by
  unfold pinLockBody
  split
  · exact okDone_keeps _ (State.Keeps.of_okPair (by assumption) (pinLockChecks_keeps c h))
  · exact State.dropArm_keeps _ h

theorem State.pinLevel_keeps {s₀ : State} (p : Nat) (level : Bool) {s : State} (h : s₀.Keeps s) :
    s₀.Keeps (State.pinLevel p level s).1 := by
  unfold State.pinLevel
  try dsimp only
  repeat' first
    | with_reducible assumption
    | with_reducible apply State.followLevel_keeps
    | with_reducible apply State.sourceEvent_keeps
    | with_reducible apply State.modPin_keeps
    | with_reducible apply State.pinEvent_keeps
    | simp only [State.Keeps.upd_iff]
    | split

theorem pinConfigSetBody_keeps {s₀ : State} (c : Cmd) (a : CmdRef) {s : State} (h : s₀.Keeps s) :
    KeepsCmd s₀ (pinConfigSetBody c a s) := by
  unfold pinConfigSetBody
  try dsimp only
  repeat' first
    | with_reducible assumption
    | with_reducible apply okDone_keeps
    | with_reducible apply State.configPin_keeps
    | with_reducible apply State.modBlock_keeps
    | with_reducible apply State.settlePin_keeps
    | with_reducible apply KeepsCmd.bind
    | with_reducible apply State.Keeps.foldl
    | intro _
    | split

theorem State.handoverEnd_keeps {s₀ : State} (p : Nat) {s : State} (h : s₀.Keeps s) :
    s₀.Keeps (State.handoverEnd p s) := by
  unfold State.handoverEnd
  try dsimp only
  repeat' first
    | with_reducible assumption
    | with_reducible apply State.modPin_keeps

theorem execPinHandoverEnd_keeps {s₀ : State} (dt : Nat) (p : Nat) {s : State} (h : s₀.Keeps s) :
    KeepsOut s₀ (execPinHandoverEnd dt p s) := by
  unfold execPinHandoverEnd
  try dsimp only
  repeat' first
    | with_reducible assumption
    | with_reducible apply State.tick_keeps
    | with_reducible apply State.handoverEnd_keeps
    | with_reducible apply KeepsOut.next

theorem execGpioMaskedWrite_keeps {s₀ : State} (dt : Nat) (bank : Nat) (reg : GpioReg) (high : Bool) (v : Word) {s : State} (h : s₀.Keeps s) :
    KeepsOut s₀ (execGpioMaskedWrite dt bank reg high v s) := by
  unfold execGpioMaskedWrite
  try dsimp only
  repeat' first
    | with_reducible assumption
    | with_reducible apply State.maskedWrite_keeps
    | with_reducible apply State.tick_keeps
    | with_reducible apply KeepsOut.next

theorem execPinEventCoalesceEnd_keeps {s₀ : State} (dt : Nat) (p : Nat) {s : State} (h : s₀.Keeps s) :
    KeepsOut s₀ (execPinEventCoalesceEnd dt p s) := by
  unfold execPinEventCoalesceEnd
  try dsimp only
  repeat' first
    | with_reducible assumption
    | with_reducible apply State.tick_keeps
    | with_reducible apply State.coalesceEnd_keeps
    | with_reducible apply KeepsOut.next

theorem pinOwnerSetBody_keeps {s₀ : State} (c : Cmd) (a : CmdRef) {s : State} (h : s₀.Keeps s) :
    KeepsCmd s₀ (pinOwnerSetBody c a s) := by
  unfold pinOwnerSetBody
  try dsimp only
  repeat' first
    | with_reducible assumption
    | with_reducible apply okDone_keeps
    | with_reducible apply State.modPin_keeps
    | with_reducible apply State.clearSource_keeps
    | with_reducible apply KeepsCmd.bind
    | with_reducible apply KeepsCmd.error
    | with_reducible apply State.Keeps.foldl
    | intro _
    | split

/-! ### Mailbox -/

theorem State.mboxDisable_keeps {s₀ : State} (t : Nat) {s : State} (h : s₀.Keeps s) :
    s₀.Keeps (State.mboxDisable t s) := by
  unfold State.mboxDisable
  try dsimp only
  repeat' first
    | with_reducible assumption
    | with_reducible apply State.modMbox_keeps
    | split

theorem State.mboxEnable_keeps {s₀ : State} (t : Nat) {s : State} (h : s₀.Keeps s) :
    s₀.Keeps (State.mboxEnable t s) := by
  unfold State.mboxEnable
  try dsimp only
  repeat' first
    | with_reducible assumption
    | with_reducible apply State.modMbox_keeps
    | with_reducible apply State.stopMbox_keeps
    | split

theorem State.mboxReset_keeps {s₀ : State} (t : Nat) (enable : Bool) {s : State} (h : s₀.Keeps s) :
    s₀.Keeps (State.mboxReset t enable s) := by
  unfold State.mboxReset
  try dsimp only
  repeat' first
    | with_reducible assumption
    | with_reducible apply State.mboxDisable_keeps
    | with_reducible apply State.modMbox_keeps
    | with_reducible apply State.mboxEnable_keeps
    | split

theorem State.writeCmdTail_keeps {s₀ : State} (t : Nat) (v : Word) {s : State} (h : s₀.Keeps s) :
    s₀.Keeps (State.writeCmdTail t v s) := by
  unfold State.writeCmdTail
  try dsimp only
  repeat' first
    | with_reducible assumption
    | with_reducible apply State.modMbox_keeps
    | with_reducible apply State.stopMbox_keeps
    | split

theorem State.writeCplHead_keeps {s₀ : State} (t : Nat) (v : Word) {s : State} (h : s₀.Keeps s) :
    s₀.Keeps (State.writeCplHead t v s) := by
  unfold State.writeCplHead
  try dsimp only
  repeat' first
    | with_reducible assumption
    | with_reducible apply State.modMbox_keeps
    | with_reducible apply State.stopMbox_keeps
    | with_reducible apply State.ringLost_keeps
    | split

theorem State.moderate_keeps {s₀ : State} (t : Nat) {s : State} (h : s₀.Keeps s) :
    s₀.Keeps (State.moderate t s) := by
  unfold State.moderate
  try dsimp only
  repeat' first
    | with_reducible assumption
    | with_reducible apply State.modMbox_keeps
    | with_reducible apply State.raiseVector_keeps
    | split

theorem State.dbWrite_keeps {s₀ : State} (t : Nat) (off : Nat) (v : Word) {s : State} (h : s₀.Keeps s) :
    s₀.Keeps (State.dbWrite t off v s) := by
  unfold State.dbWrite
  try dsimp only
  repeat' first
    | with_reducible assumption
    | with_reducible apply State.mboxReset_keeps
    | with_reducible apply State.writeCmdTail_keeps
    | with_reducible apply State.mboxDisable_keeps
    | with_reducible apply State.modMbox_keeps
    | with_reducible apply State.mboxEnable_keeps
    | with_reducible apply State.writeCplHead_keeps
    | with_reducible apply State.moderate_keeps
    | split

theorem State.countFault_keeps {s₀ : State} (t : Nat) {s : State} (h : s₀.Keeps s) :
    s₀.Keeps (State.countFault t s) := by
  unfold State.countFault
  try dsimp only
  repeat' first
    | with_reducible assumption
    | with_reducible apply State.modTenant_keeps

theorem State.clearDevEvent_keeps {s₀ : State} (v : Word) {s : State} (h : s₀.Keeps s) :
    s₀.Keeps (State.clearDevEvent v s) := by
  unfold State.clearDevEvent
  try dsimp only
  repeat' first
    | with_reducible assumption
    | simp only [State.Keeps.upd_dev_iff]

theorem State.latchWrite_keeps {s₀ : State} (off : Nat) (v : Word) {s : State} (h : s₀.Keeps s) :
    s₀.Keeps (State.latchWrite off v s) := by
  unfold State.latchWrite
  try dsimp only
  repeat' first
    | with_reducible assumption
    | simp only [State.Keeps.upd_iff]

theorem State.writeEventEn_keeps {s₀ s : State} (v : Word) (h : s₀.Keeps s) : s₀.Keeps (s.writeEventEn v) := by
  unfold State.writeEventEn
  dsimp only
  refine State.Keeps.foldl ?_ (fun s b g => State.raiseVector_keeps _ g)
  refine h.page rfl rfl rfl rfl (fun i => ?_) (fun l => ⟨l, rfl, rfl⟩)
  simp only [DevPage.reservedZero, Bool.and_eq_true, beq_iff_eq] at i ⊢
  refine ⟨⟨?_, i.1.2⟩, i.2⟩
  rw [BitVec.and_assoc]
  exact BitVec.and_zero

theorem State.ringFault_keeps {s₀ : State} (t : Nat) {s : State} (h : s₀.Keeps s) :
    s₀.Keeps (State.ringFault t s) := by
  unfold State.ringFault
  try dsimp only
  repeat' first
    | with_reducible assumption
    | with_reducible apply State.countFault_keeps
    | with_reducible apply State.stopMbox_keeps

theorem State.fetchOne_keeps {s₀ : State} (t : Nat) {s : State} (h : s₀.Keeps s) :
    KeepsOpt s₀ (State.fetchOne t s) := by
  unfold State.fetchOne
  try dsimp only
  repeat' first
    | with_reducible assumption
    | with_reducible apply State.ringFault_keeps
    | with_reducible apply State.takeCmd_keeps
    | with_reducible exact KeepsOpt.none
    | with_reducible apply KeepsOpt.some
    | split

theorem State.fetchTenant_keeps {s₀ : State} (t : Nat) (a : Nat) {a1 : State} (h : s₀.Keeps a1) :
    s₀.Keeps (State.fetchTenant t a a1) := by
  induction a generalizing a1 t with
  | zero =>
    unfold State.fetchTenant
    try dsimp only
    repeat' first
      | with_reducible assumption
      | with_reducible apply State.fetchOne_keeps
      | split
      | with_reducible refine State.Keeps.of_some (by with_reducible assumption) ?_
  | succ k ih =>
    unfold State.fetchTenant
    try dsimp only
    repeat' first
      | with_reducible apply ih
      | with_reducible assumption
      | with_reducible apply State.fetchOne_keeps
      | split
      | with_reducible refine State.Keeps.of_some (by with_reducible assumption) ?_

theorem State.fetchRound_keeps {s₀ : State} {s : State} (h : s₀.Keeps s) :
    s₀.Keeps (State.fetchRound s) := by
  unfold State.fetchRound
  try dsimp only
  repeat' first
    | with_reducible assumption
    | with_reducible apply State.fetchTenant_keeps
    | with_reducible apply State.Keeps.foldl
    | intro _

theorem State.countRecord_keeps {s₀ : State} (t : Nat) {s : State} (h : s₀.Keeps s) :
    s₀.Keeps (State.countRecord t s) := by
  unfold State.countRecord
  try dsimp only
  repeat' first
    | with_reducible assumption
    | with_reducible apply State.modMbox_keeps
    | with_reducible apply State.moderate_keeps

theorem State.recordWriteError_keeps {s₀ : State} (t : Nat) {s : State} (h : s₀.Keeps s) :
    s₀.Keeps (State.recordWriteError t s) := by
  unfold State.recordWriteError
  try dsimp only
  repeat' first
    | with_reducible assumption
    | with_reducible apply State.stopMbox_keeps
    | with_reducible apply State.ringLost_keeps
    | split

theorem State.putRecord_keeps {s₀ : State} (t : Nat) (bytes : Bool → List Byte) {s : State} (h : s₀.Keeps s) :
    s₀.Keeps (State.putRecord t bytes s).1 := by
  unfold State.putRecord
  try dsimp only
  repeat' first
    | with_reducible assumption
    | with_reducible apply State.countFault_keeps
    | with_reducible apply State.modMbox_keeps
    | with_reducible apply State.countRecord_keeps
    | with_reducible apply State.hostWrite_keeps
    | with_reducible apply State.recordWriteError_keeps
    | split
    | with_reducible refine State.Keeps.of_some (by with_reducible assumption) ?_

theorem State.afterRecord_keeps {s₀ : State} (r : Record) {s : State} (h : s₀.Keeps s) :
    s₀.Keeps (State.afterRecord r s) := by
  unfold State.afterRecord
  try dsimp only
  repeat' first
    | with_reducible assumption
    | with_reducible apply State.event_keeps
    | split

theorem State.writeHeld_keeps {s₀ : State} (t : Nat) (a : Nat) {a1 : State} (h : s₀.Keeps a1) :
    s₀.Keeps (State.writeHeld t a a1) := by
  induction a generalizing a1 t with
  | zero =>
    unfold State.writeHeld
    try dsimp only
    repeat' first
      | with_reducible assumption
      | with_reducible apply State.modMbox_keeps
      | with_reducible apply State.afterRecord_keeps
      | with_reducible apply State.dropFlight_keeps
      | with_reducible apply State.putRecord_keeps
      | split
  | succ k ih =>
    unfold State.writeHeld
    try dsimp only
    repeat' first
      | with_reducible apply ih
      | with_reducible assumption
      | with_reducible apply State.modMbox_keeps
      | with_reducible apply State.afterRecord_keeps
      | with_reducible apply State.dropFlight_keeps
      | with_reducible apply State.putRecord_keeps
      | split

theorem tenantCreateBody_keeps {s₀ s : State} (c : Cmd) (r : CmdRef) (h : s₀.Keeps s) :
    KeepsCmd s₀ (tenantCreateBody c r s) := by
  unfold tenantCreateBody
  dsimp only
  apply KeepsCmd.bind; intro _
  rw [need_bind]
  split
  · rename_i ht
    repeat (apply KeepsCmd.bind; intro _)
    simp only [Bool.and_eq_true, decide_eq_true_eq] at ht
    exact okDone_keeps _ (h.table rfl rfl rfl rfl rfl (fun w => IMap.tenantsWf_put w (by omega) _))
  · trivial

theorem tenantQueryBody_keeps {s₀ : State} (c : Cmd) (a : CmdRef) {s : State} (h : s₀.Keeps s) :
    KeepsCmd s₀ (tenantQueryBody c a s) := by
  unfold tenantQueryBody
  try dsimp only
  repeat' first
    | with_reducible assumption
    | with_reducible apply okDone_keeps
    | with_reducible apply KeepsCmd.bind
    | intro _
    | split

theorem State.markQuiet_keeps {s₀ : State} (r : CmdRef) (q : Bool) {s : State} (h : s₀.Keeps s) :
    s₀.Keeps (State.markQuiet r q s) := by
  unfold State.markQuiet
  try dsimp only
  repeat' first
    | with_reducible assumption
    | simp only [State.Keeps.upd_iff]

theorem quotaSetBody_keeps {s₀ : State} (c : Cmd) (r : CmdRef) {s : State} (h : s₀.Keeps s) :
    KeepsCmd s₀ (quotaSetBody c r s) := by
  unfold quotaSetBody
  try dsimp only
  repeat' first
    | with_reducible assumption
    | with_reducible apply okDone_keeps
    | with_reducible apply State.markQuiet_keeps
    | with_reducible apply State.modTenant_keeps
    | with_reducible apply KeepsCmd.bind
    | with_reducible apply KeepsCmd.error
    | intro _
    | split

theorem nopBody_keeps {s₀ : State} (c : Cmd) (a : CmdRef) {s : State} (h : s₀.Keeps s) :
    KeepsCmd s₀ (nopBody c a s) := by
  unfold nopBody
  try dsimp only
  repeat' first
    | with_reducible assumption
    | with_reducible apply okDone_keeps
    | with_reducible apply KeepsCmd.bind
    | intro _

theorem State.drainEnd_keeps {s₀ : State} (t : Nat) {s : State} (h : s₀.Keeps s) :
    s₀.Keeps (State.drainEnd t s) := by
  unfold State.drainEnd
  try dsimp only
  repeat' first
    | with_reducible assumption
    | with_reducible apply State.modMbox_keeps
    | with_reducible apply State.hwMark_keeps
    | split

/-! ### Timers -/

theorem State.modCal_keeps {s₀ : State} {s : State} (f : Calendar → Calendar) (h : s₀.Keeps s) :
    s₀.Keeps (State.modCal s f) := by
  unfold State.modCal
  try dsimp only
  repeat' first
    | with_reducible assumption
    | simp only [State.Keeps.upd_iff]

theorem State.setPwm_keeps {s₀ : State} {s : State} (n : Nat) (x : Pwm) (h : s₀.Keeps s) :
    s₀.Keeps (State.setPwm s n x) := by
  unfold State.setPwm
  try dsimp only
  repeat' first
    | with_reducible assumption
    | simp only [State.Keeps.upd_iff]

theorem State.setCapture_keeps {s₀ : State} {s : State} (n : Nat) (x : CaptureCh) (h : s₀.Keeps s) :
    s₀.Keeps (State.setCapture s n x) := by
  unfold State.setCapture
  try dsimp only
  repeat' first
    | with_reducible assumption
    | simp only [State.Keeps.upd_iff]

theorem State.drainCapture_keeps {s₀ s : State} (n fuel : Nat) (h : s₀.Keeps s) : s₀.Keeps (s.drainCapture n fuel) := by
  induction fuel generalizing s with
  | zero => exact h
  | succ fuel ih =>
    unfold State.drainCapture
    dsimp only
    split
    · exact State.Keeps.ite (ih (State.event_keeps _ _ _ (State.setCapture_keeps _ _ h))) h
    · exact h

theorem State.setCompare_keeps {s₀ : State} {s : State} (n : Nat) (x : CompareCh) (h : s₀.Keeps s) :
    s₀.Keeps (State.setCompare s n x) := by
  unfold State.setCompare
  try dsimp only
  repeat' first
    | with_reducible assumption
    | simp only [State.Keeps.upd_iff]

theorem State.fireCompare_keeps {s₀ : State} (n : Nat) {s : State} (h : s₀.Keeps s) :
    s₀.Keeps (State.fireCompare n s) := by
  unfold State.fireCompare
  try dsimp only
  repeat' first
    | with_reducible assumption
    | with_reducible apply State.setCompare_keeps
    | with_reducible apply State.modPin_keeps
    | with_reducible apply State.event_keeps
    | split

theorem State.evaluateCompares_keeps {s₀ : State} {s : State} (h : s₀.Keeps s) :
    s₀.Keeps (State.evaluateCompares s) := by
  unfold State.evaluateCompares
  try dsimp only
  repeat' first
    | with_reducible assumption
    | with_reducible apply State.fireCompare_keeps
    | with_reducible apply State.Keeps.foldl
    | intro _
    | split

theorem execCompareEvaluation_keeps {s₀ : State} (dt : Nat) {s : State} (h : s₀.Keeps s) :
    KeepsOut s₀ (execCompareEvaluation dt s) := by
  unfold execCompareEvaluation
  try dsimp only
  repeat' first
    | with_reducible assumption
    | with_reducible apply State.evaluateCompares_keeps
    | with_reducible apply State.tick_keeps
    | with_reducible apply KeepsOut.next

theorem State.drivePwm_keeps {s₀ : State} (n : Nat) {s : State} (h : s₀.Keeps s) :
    s₀.Keeps (State.drivePwm n s) := by
  unfold State.drivePwm
  try dsimp only
  repeat' first
    | with_reducible assumption
    | with_reducible apply State.modPin_keeps
    | split

theorem State.applyPwm_keeps {s₀ : State} (n : Nat) (x : Pwm) {s : State} (h : s₀.Keeps s) :
    s₀.Keeps (State.applyPwm n x s) := by
  unfold State.applyPwm
  try dsimp only
  repeat' first
    | with_reducible assumption
    | with_reducible apply State.setPwm_keeps
    | with_reducible apply State.drivePwm_keeps
    | with_reducible apply State.settlePin_keeps
    | split

theorem State.pwmTick_keeps {s₀ : State} (n : Nat) {s : State} (h : s₀.Keeps s) :
    s₀.Keeps (State.pwmTick n s) := by
  unfold State.pwmTick
  try dsimp only
  repeat' first
    | with_reducible assumption
    | with_reducible apply State.applyPwm_keeps
    | with_reducible apply State.hwMark_keeps
    | with_reducible apply State.setPwm_keeps
    | with_reducible apply State.drivePwm_keeps
    | split

theorem execPwmTick_keeps {s₀ : State} (dt : Nat) (n : Nat) {s : State} (h : s₀.Keeps s) :
    KeepsOut s₀ (execPwmTick dt n s) := by
  unfold execPwmTick
  try dsimp only
  repeat' first
    | with_reducible assumption
    | with_reducible apply State.tick_keeps
    | with_reducible apply State.pwmTick_keeps
    | with_reducible apply KeepsOut.next

theorem State.heldWrite_keeps {s₀ : State} (t : Nat) {s : State} (h : s₀.Keeps s) :
    s₀.Keeps (State.heldWrite t s) := by
  unfold State.heldWrite
  try dsimp only
  repeat' first
    | with_reducible assumption
    | with_reducible apply State.writeHeld_keeps
    | with_reducible apply State.drainCapture_keeps
    | with_reducible apply State.Keeps.foldl
    | intro _
    | split

theorem captureChannelSetBody_keeps {s₀ : State} (c : Cmd) (a : CmdRef) {s : State} (h : s₀.Keeps s) :
    KeepsCmd s₀ (captureChannelSetBody c a s) := by
  unfold captureChannelSetBody
  try dsimp only
  repeat' first
    | with_reducible assumption
    | with_reducible apply okDone_keeps
    | with_reducible apply State.setCapture_keeps
    | with_reducible apply KeepsCmd.bind
    | intro _
    | split

theorem State.captureSample_keeps {s₀ : State} (n : Nat) (level : Bool) {s : State} (h : s₀.Keeps s) :
    s₀.Keeps (State.captureSample n level s) := by
  unfold State.captureSample
  try dsimp only
  repeat' first
    | with_reducible assumption
    | with_reducible apply State.setCapture_keeps
    | with_reducible apply State.drainCapture_keeps
    | with_reducible apply State.modPin_keeps
    | split

theorem execCaptureFilterSample_keeps {s₀ : State} (dt : Nat) (n : Nat) (level : Bool) {s : State} (h : s₀.Keeps s) :
    KeepsOut s₀ (execCaptureFilterSample dt n level s) := by
  unfold execCaptureFilterSample
  try dsimp only
  repeat' first
    | with_reducible assumption
    | with_reducible apply State.captureSample_keeps
    | with_reducible apply State.tick_keeps
    | with_reducible apply KeepsOut.next

theorem State.calendarCommands_keeps {s₀ : State} {s : State} (h : s₀.Keeps s) :
    s₀.Keeps (State.calendarCommands s) := by
  unfold State.calendarCommands
  try dsimp only
  repeat' first
    | with_reducible assumption
    | with_reducible apply State.completeOk_keeps
    | with_reducible apply State.modCal_keeps
    | with_reducible apply State.Keeps.foldl
    | intro _
    | split

theorem State.meridianEdge_keeps {s₀ : State} {s : State} (h : s₀.Keeps s) :
    s₀.Keeps (State.meridianEdge s) := by
  unfold State.meridianEdge
  try dsimp only
  repeat' first
    | with_reducible assumption
    | simp only [State.Keeps.upd_iff]
    | split

theorem calendarAlarmSetBody_keeps {s₀ : State} (c : Cmd) (a : CmdRef) {s : State} (h : s₀.Keeps s) :
    KeepsCmd s₀ (calendarAlarmSetBody c a s) := by
  unfold calendarAlarmSetBody
  try dsimp only
  repeat' first
    | with_reducible assumption
    | with_reducible apply okDone_keeps
    | with_reducible apply State.modCal_keeps
    | with_reducible apply KeepsCmd.bind
    | intro _
    | split

theorem pwmSetBody_keeps {s₀ : State} (c : Cmd) (a : CmdRef) {s : State} (h : s₀.Keeps s) :
    KeepsCmd s₀ (pwmSetBody c a s) := by
  unfold pwmSetBody
  try dsimp only
  repeat' first
    | with_reducible assumption
    | with_reducible apply okDone_keeps
    | with_reducible apply State.applyPwm_keeps
    | with_reducible apply State.setPwm_keeps
    | with_reducible apply KeepsCmd.bind
    | intro _
    | split

theorem calendarSetBody_keeps {s₀ : State} (c : Cmd) (r : CmdRef) {s : State} (h : s₀.Keeps s) :
    KeepsCmd s₀ (calendarSetBody c r s) := by
  unfold calendarSetBody
  try dsimp only
  repeat' first
    | with_reducible assumption
    | with_reducible apply State.modCal_keeps
    | with_reducible apply KeepsCmd.bind
    | with_reducible apply KeepsCmd.ok
    | intro _
    | split

theorem State.putCompare_keeps {s₀ : State} {s : State} (n : Nat) (x : CompareCh) (h : s₀.Keeps s) :
    s₀.Keeps (State.putCompare s n x) := by
  unfold State.putCompare
  try dsimp only
  repeat' first
    | with_reducible assumption
    | with_reducible apply State.setCompare_keeps
    | with_reducible apply State.settlePin_keeps
    | split

theorem compareSetBody_keeps {s₀ : State} (c : Cmd) (a : CmdRef) {s : State} (h : s₀.Keeps s) :
    KeepsCmd s₀ (compareSetBody c a s) := by
  unfold compareSetBody
  try dsimp only
  repeat' first
    | with_reducible assumption
    | with_reducible apply okDone_keeps
    | with_reducible apply State.putCompare_keeps
    | with_reducible apply KeepsCmd.bind
    | intro _
    | split

/-! ### Release -/

theorem State.stopThreads_keeps {s₀ : State} (hq : Nat) (t : Nat) {s : State} (h : s₀.Keeps s) :
    s₀.Keeps (State.stopThreads hq t s) := by
  unfold State.stopThreads
  try dsimp only
  repeat' first
    | with_reducible assumption
    | with_reducible apply State.modThread_keeps
    | with_reducible apply State.endDebug_keeps
    | with_reducible apply State.Keeps.foldl
    | intro _

theorem State.releaseHead_keeps {s₀ : State} (hq : Nat) (t : Nat) {s : State} (h : s₀.Keeps s) :
    s₀.Keeps (State.releaseHead hq t s) := by
  unfold State.releaseHead
  try dsimp only
  repeat' first
    | with_reducible assumption
    | with_reducible apply State.dropFret_keeps
    | with_reducible apply State.modTabs_keeps
    | with_reducible apply State.freePalettes_keeps
    | with_reducible apply State.modHead_keeps
    | with_reducible apply State.Keeps.foldl
    | intro _

theorem State.releaseAudio_keeps {s₀ : State} (t : Nat) {s : State} (h : s₀.Keeps s) :
    s₀.Keeps (State.releaseAudio t s) := by
  unfold State.releaseAudio
  try dsimp only
  repeat' first
    | with_reducible assumption
    | with_reducible apply State.freeLane_keeps
    | with_reducible apply State.modAudio_keeps
    | with_reducible apply State.freeBus_keeps
    | with_reducible apply State.freeVoice_keeps
    | with_reducible apply State.Keeps.foldl
    | intro _

theorem State.releaseTimers_keeps {s₀ : State} (t : Nat) {s : State} (h : s₀.Keeps s) :
    s₀.Keeps (State.releaseTimers t s) := by
  unfold State.releaseTimers
  try dsimp only
  repeat' first
    | with_reducible assumption
    | with_reducible apply State.settlePin_keeps
    | simp only [State.Keeps.upd_iff]
    | with_reducible apply State.Keeps.foldl

theorem State.releasePins_keeps {s₀ : State} (t : Nat) {s : State} (h : s₀.Keeps s) :
    s₀.Keeps (State.releasePins t s) := by
  unfold State.releasePins
  try dsimp only
  repeat' first
    | with_reducible assumption
    | with_reducible apply State.settlePin_keeps
    | with_reducible apply State.modPin_keeps
    | with_reducible apply State.clearSource_keeps
    | simp only [State.Keeps.upd_iff]
    | with_reducible apply State.Keeps.foldl
    | intro _
    | split

theorem State.releaseTenant_keeps {s₀ : State} (t : Nat) {s : State} (h : s₀.Keeps s) :
    s₀.Keeps (State.releaseTenant t s) := by
  unfold State.releaseTenant
  try dsimp only
  repeat' first
    | with_reducible assumption
    | with_reducible apply State.releaseHead_keeps
    | with_reducible apply State.releaseAudio_keeps
    | with_reducible apply State.modTenant_keeps
    | with_reducible apply State.releaseTimers_keeps
    | with_reducible apply State.releasePins_keeps
    | simp only [State.Keeps.upd_in_iff]
    | with_reducible apply State.Keeps.foldl
    | intro _

theorem State.clearHead_keeps {s₀ : State} (hq : Nat) (t : Nat) {s : State} (h : s₀.Keeps s) :
    s₀.Keeps (State.clearHead hq t s) := by
  unfold State.clearHead
  try dsimp only
  repeat' first
    | with_reducible assumption
    | with_reducible apply State.removePlane_keeps
    | with_reducible apply State.completeOk_keeps
    | with_reducible apply State.stopThreads_keeps
    | with_reducible apply State.modHead_keeps
    | with_reducible apply State.Keeps.foldl
    | intro _

theorem State.clearHeads_keeps {s₀ : State} (t : Nat) (r : CmdRef) (n : Nat) (hs : List Nat) {s : State} (h : s₀.Keeps s) :
    s₀.Keeps (State.clearHeads t r n hs s) := by
  unfold State.clearHeads
  try dsimp only
  repeat' first
    | with_reducible assumption
    | with_reducible apply State.releaseTenant_keeps
    | with_reducible apply State.modTenant_keeps
    | with_reducible apply State.clearHead_keeps
    | with_reducible apply State.Keeps.foldl
    | intro _
    | split

theorem State.advanceDestroy_keeps {s₀ : State} (t : Nat) {s : State} (h : s₀.Keeps s) :
    s₀.Keeps (State.advanceDestroy t s) := by
  unfold State.advanceDestroy
  try dsimp only
  repeat' first
    | with_reducible assumption
    | with_reducible apply State.endStill_keeps
    | with_reducible apply State.stopThreads_keeps
    | with_reducible apply State.clearHeads_keeps
    | with_reducible apply State.Keeps.foldl
    | intro _
    | split

theorem State.advanced_keeps {s₀ : State} {s : State} (h : s₀.Keeps s) :
    s₀.Keeps (State.advanced s) := by
  unfold State.advanced
  try dsimp only
  repeat' first
    | with_reducible assumption
    | with_reducible apply State.advanceDestroy_keeps
    | with_reducible apply State.Keeps.foldl
    | intro _

theorem State.destroyAtBoundary_keeps {s₀ : State} (hq : Nat) {s : State} (h : s₀.Keeps s) :
    s₀.Keeps (State.destroyAtBoundary hq s).1 := by
  unfold State.destroyAtBoundary
  try dsimp only
  repeat' first
    | with_reducible assumption
    | with_reducible apply State.advanceDestroy_keeps
    | with_reducible apply State.modTenant_keeps
    | with_reducible apply State.clearHead_keeps
    | with_reducible apply State.advanced_keeps
    | with_reducible apply State.Keeps.foldl
    | intro _

/-! ### Dma -/

theorem State.modDma_keeps {s₀ : State} {s : State} (n : Nat) (f : DmaChannel → DmaChannel) (h : s₀.Keeps s) :
    s₀.Keeps (State.modDma s n f) := by
  unfold State.modDma
  try dsimp only
  repeat' first
    | with_reducible assumption
    | simp only [State.Keeps.upd_iff]

theorem State.dmaNextJob_keeps {s₀ : State} (n : Nat) {s : State} (h : s₀.Keeps s) :
    s₀.Keeps (State.dmaNextJob n s) := by
  unfold State.dmaNextJob
  try dsimp only
  repeat' first
    | with_reducible assumption
    | with_reducible apply State.modDma_keeps

theorem State.setBucket_keeps {s₀ : State} (t : Nat) (b : Bucket) {s : State} (h : s₀.Keeps s) :
    s₀.Keeps (State.setBucket t b s) := by
  unfold State.setBucket
  simp only [State.Keeps.upd_iff]
  exact h

theorem State.openBucket_keeps {s₀ : State} (t : Nat) {s : State} (h : s₀.Keeps s) : s₀.Keeps (State.openBucket t s) :=
  State.Keeps.ite h (State.setBucket_keeps _ _ h)

theorem State.closeBucket_keeps {s₀ : State} (n t : Nat) {s : State} (h : s₀.Keeps s) : s₀.Keeps (State.closeBucket n t s) :=
  State.Keeps.ite h (State.setBucket_keeps _ _ h)

theorem State.dmaEnd_keeps {s₀ : State} (n : Nat) (j : DmaJob) (detail place : Nat) {s : State} (h : s₀.Keeps s) :
    s₀.Keeps (State.dmaEnd n j detail place s) :=
  State.dmaNextJob_keeps _ (State.complete_keeps _ _ _ _ h)

theorem State.dmaFail_keeps {s₀ : State} (n : Nat) (j : DmaJob) (f : AssetFault) (detail : Nat) (place : Nat) {s : State} (h : s₀.Keeps s) :
    s₀.Keeps (State.dmaFail n j f detail place s) := by
  exact State.dmaEnd_keeps _ _ _ _ (State.atlasFault_keeps _ _ _ _ h)

theorem State.noteCons_keeps {s₀ : State} (n : Nat) (t : Nat) {s : State} (h : s₀.Keeps s) :
    s₀.Keeps (State.noteCons n t s) := by
  unfold State.noteCons
  try dsimp only
  repeat' first
    | with_reducible assumption
    | with_reducible apply State.noteAssetRead_keeps

/-- The state after a DMA completion record is kept. -/
def KeepsPut (s₀ : State) : DmaPut → Prop
  | .written t => s₀.Keeps t
  | _ => True

theorem State.Keeps.of_written {s₀ t : State} {p : DmaPut} (e : p = .written t) (h : KeepsPut s₀ p) : s₀.Keeps t := by
  rw [e] at h
  exact h

theorem State.dmaPut_keeps {s₀ s : State} (n t : Nat) (rec : Bool → List Byte) (h : s₀.Keeps s) :
    KeepsPut s₀ (s.dmaPut n t rec) := by
  unfold State.dmaPut
  dsimp only
  split
  · trivial
  · split
    · trivial
    · split
      · trivial
      · exact State.modDma_keeps _ _ (State.Keeps.of_fst3 (by assumption) (State.assetWrite_keeps _ _ _ h))

theorem State.setJob_keeps {s₀ : State} (n : Nat) (j : DmaJob) {s : State} (h : s₀.Keeps s) :
    s₀.Keeps (State.setJob n j s) := by
  unfold State.setJob
  try dsimp only
  repeat' first
    | with_reducible assumption
    | with_reducible apply State.modDma_keeps

theorem State.dmaFaultRecord_keeps {s₀ s : State} (n : Nat) (j : DmaJob) (d : Descriptor) (place : Nat)
    (h : s₀.Keeps s) : s₀.Keeps (s.dmaFaultRecord n j d place) := by
  unfold State.dmaFaultRecord
  dsimp only
  have hn := State.noteCons_keeps n j.ref.tenant h
  split
  · exact State.dmaEnd_keeps _ _ _ _ (State.Keeps.of_written (by assumption) (State.dmaPut_keeps _ _ _ hn))
  · exact State.dmaFail_keeps _ _ _ _ _ hn
  · exact State.modDma_keeps _ _ (State.setJob_keeps _ _ hn)

theorem State.dmaStop_keeps {s₀ s : State} (n : Nat) (j : DmaJob) (d : Descriptor) (e : AssetFault) (place : Nat)
    (h : s₀.Keeps s) : s₀.Keeps (s.dmaStop n j d e place) :=
  have hn := State.atlasFault_keeps j.ref.tenant e 0x030C 0 h
  State.Keeps.ite (State.dmaFaultRecord_keeps _ _ _ _ hn) (State.dmaEnd_keeps _ _ _ _ hn)

theorem State.blitStart_keeps {s₀ : State} {s : State} (h : s₀.Keeps s) :
    s₀.Keeps (State.blitStart s) := by
  unfold State.blitStart
  try dsimp only
  repeat' first
    | with_reducible assumption
    | simp only [State.Keeps.upd_iff]
    | split

theorem execBlitStart_keeps {s₀ : State} (dt : Nat) {s : State} (h : s₀.Keeps s) :
    KeepsOut s₀ (execBlitStart dt s) := by
  unfold execBlitStart
  try dsimp only
  repeat' first
    | with_reducible assumption
    | with_reducible apply State.tick_keeps
    | with_reducible apply State.blitStart_keeps
    | with_reducible apply KeepsOut.next

theorem State.dmaFinish_keeps {s₀ s : State} (n : Nat) (j : DmaJob) (d : Descriptor) (h : s₀.Keeps s) :
    s₀.Keeps (s.dmaFinish n j d) := by
  unfold State.dmaFinish
  dsimp only
  have hn : s₀.Keeps (if (bitOf d.flags 2 || decide (j.descs.length ≤ 1)) = true then s.noteCons n j.ref.tenant else s) :=
    State.Keeps.ite (State.noteCons_keeps _ _ h) h
  generalize (if (bitOf d.flags 2 || decide (j.descs.length ≤ 1)) = true then s.noteCons n j.ref.tenant else s) = a at hn ⊢
  have hp : KeepsPut s₀ (if (bitOf d.flags 2 || decide (j.descs.length ≤ 1)) = true then
      a.dmaPut n j.ref.tenant
        (dmaRecord d.tag eOk j.index d.length (d.crcOut j.crc).toNat a.now j.ref.index.toNat)
      else .written a) := by
    split
    · exact State.dmaPut_keeps _ _ _ hn
    · exact hn
  split
  · exact State.modDma_keeps _ _ hn
  · exact State.dmaFail_keeps _ _ _ _ _ hn
  · have hs := State.Keeps.of_written (by assumption) hp
    refine State.Keeps.ite (State.dmaNextJob_keeps _ (State.completeOk_keeps _ _ ?_))
      (State.modDma_keeps _ _ (State.setJob_keeps _ _ ?_)) <;>
      exact State.Keeps.ite (State.event_keeps _ _ _ hs) hs

theorem State.noteTried_keeps {s₀ : State} (t : Nat) (a : Nat) (n : Nat) (f : AssetFault) {s : State} (h : s₀.Keeps s) :
    s₀.Keeps (State.noteTried t a n f s) := by
  unfold State.noteTried
  try dsimp only
  repeat' first
    | with_reducible assumption
    | with_reducible apply State.noteAssetRead_keeps

theorem State.dmaMove_keeps {s₀ : State} {s : State} (t : Nat) (d : Descriptor) (done : Nat) (n : Nat) (h : s₀.Keeps s) :
    s₀.Keeps (State.dmaMove s t d done n).1 := by
  unfold State.dmaMove
  try dsimp only
  repeat' first
    | with_reducible assumption
    | with_reducible apply State.noteTried_keeps
    | with_reducible apply State.assetWrite_keeps
    | with_reducible apply State.noteAssetRead_keeps
    | simp only [State.Keeps.upd_iff]
    | split
    | with_reducible refine State.Keeps.of_fst (by with_reducible assumption) ?_

theorem State.dmaStep_keeps {s₀ : State} (n : Nat) (j : DmaJob) (d : Descriptor) {s : State} (h : s₀.Keeps s) :
    s₀.Keeps (State.dmaStep n j d s).1 := by
  unfold State.dmaStep
  try dsimp only
  repeat' first
    | with_reducible assumption
    | with_reducible apply State.dmaStop_keeps
    | with_reducible apply State.setJob_keeps
    | with_reducible apply State.dmaMove_keeps
    | split

theorem State.takeTokens_keeps {s₀ : State} {s : State} (ch : Nat) (t : Nat) (n : Nat) (h : s₀.Keeps s) :
    KeepsOpt s₀ (State.takeTokens s ch t n) := by
  unfold State.takeTokens
  try dsimp only
  repeat' first
    | with_reducible assumption
    | with_reducible apply State.setBucket_keeps
    | with_reducible exact KeepsOpt.none
    | with_reducible apply KeepsOpt.some
    | split

theorem State.dmaGrant_keeps {s₀ : State} (n : Nat) {s : State} (h : s₀.Keeps s) :
    s₀.Keeps (State.dmaGrant n s) := by
  unfold State.dmaGrant
  try dsimp only
  repeat' first
    | with_reducible assumption
    | with_reducible apply State.dmaStep_keeps
    | with_reducible apply State.takeTokens_keeps
    | with_reducible apply State.modDma_keeps
    | split
    | with_reducible refine State.Keeps.of_some (by with_reducible assumption) ?_

theorem execDmaTokenGrant_keeps {s₀ : State} (dt : Nat) (n : Nat) {s : State} (h : s₀.Keeps s) :
    KeepsOut s₀ (execDmaTokenGrant dt n s) := by
  unfold execDmaTokenGrant
  try dsimp only
  repeat' first
    | with_reducible assumption
    | with_reducible apply State.dmaGrant_keeps
    | with_reducible apply State.tick_keeps
    | with_reducible apply State.advanced_keeps
    | with_reducible apply KeepsOut.next

theorem dmaSubmitBody_keeps {s₀ : State} (c : Cmd) (r : CmdRef) {s : State} (h : s₀.Keeps s) :
    KeepsCmd s₀ (dmaSubmitBody c r s) := by
  unfold dmaSubmitBody
  try dsimp only
  repeat' first
    | with_reducible assumption
    | with_reducible apply State.modDma_keeps
    | with_reducible apply State.openBucket_keeps
    | with_reducible apply State.noteAssetRead_keeps
    | with_reducible apply KeepsCmd.bind
    | with_reducible apply KeepsCmd.error
    | with_reducible apply KeepsCmd.ok
    | intro _
    | split

theorem dmaChannelSetBody_keeps {s₀ : State} (c : Cmd) (a : CmdRef) {s : State} (h : s₀.Keeps s) :
    KeepsCmd s₀ (dmaChannelSetBody c a s) := by
  unfold dmaChannelSetBody
  try dsimp only
  repeat' first
    | with_reducible assumption
    | with_reducible apply okDone_keeps
    | with_reducible apply State.modDma_keeps
    | with_reducible apply KeepsCmd.bind
    | with_reducible apply KeepsCmd.error
    | intro _
    | split

theorem State.dmaRest_keeps {s₀ : State} (n : Nat) (a : Nat) {a1 : State} (h : s₀.Keeps a1) :
    s₀.Keeps (State.dmaRest n a a1) := by
  induction a generalizing a1 n with
  | zero =>
    unfold State.dmaRest
    try dsimp only
    repeat' first
      | with_reducible assumption
      | with_reducible apply State.dmaStep_keeps
      | with_reducible apply State.dmaFinish_keeps
      | with_reducible apply State.setBucket_keeps
      | split
      | with_reducible refine State.Keeps.of_fst (by with_reducible assumption) ?_
  | succ k ih =>
    unfold State.dmaRest
    try dsimp only
    repeat' first
      | with_reducible apply ih
      | with_reducible assumption
      | with_reducible apply State.dmaStep_keeps
      | with_reducible apply State.dmaFinish_keeps
      | with_reducible apply State.setBucket_keeps
      | split
      | with_reducible refine State.Keeps.of_fst (by with_reducible assumption) ?_

theorem State.dmaComplete_keeps {s₀ : State} (n : Nat) {s : State} (h : s₀.Keeps s) :
    s₀.Keeps (State.dmaComplete n s) := by
  unfold State.dmaComplete
  try dsimp only
  repeat' first
    | with_reducible assumption
    | with_reducible apply State.closeBucket_keeps
    | with_reducible apply State.dmaRest_keeps
    | with_reducible apply State.setBucket_keeps
    | with_reducible apply State.modDma_keeps
    | split

theorem execDmaDescriptorComplete_keeps {s₀ : State} (dt : Nat) (n : Nat) {s : State} (h : s₀.Keeps s) :
    KeepsOut s₀ (execDmaDescriptorComplete dt n s) := by
  unfold execDmaDescriptorComplete
  try dsimp only
  repeat' first
    | with_reducible assumption
    | with_reducible apply State.tick_keeps
    | with_reducible apply State.dmaComplete_keeps
    | with_reducible apply State.advanced_keeps
    | with_reducible apply KeepsOut.next

theorem blitSubmitBody_keeps {s₀ : State} (c : Cmd) (r : CmdRef) {s : State} (h : s₀.Keeps s) :
    KeepsCmd s₀ (blitSubmitBody c r s) := by
  unfold blitSubmitBody
  try dsimp only
  repeat' first
    | with_reducible assumption
    | with_reducible apply okDone_keeps
    | simp only [State.Keeps.upd_iff]
    | with_reducible apply KeepsCmd.bind
    | with_reducible apply KeepsCmd.ok
    | intro _
    | split

theorem State.blitRow_keeps {s₀ s : State} (t : Nat) (j : BlitJob) (sa da fuel done : Nat) (h : s₀.Keeps s) :
    s₀.Keeps (s.blitRow t j sa da fuel done).1 := by
  induction fuel generalizing s done with
  | zero => exact h
  | succ fuel ih =>
    unfold State.blitRow
    dsimp only
    split
    · exact h
    split
    · exact State.noteTried_keeps _ _ _ _ h
    · exact State.noteTried_keeps _ _ _ _ (State.noteAssetRead_keeps _ _ _ h)
    · have hs : ∀ (c : Prop) [Decidable c] (u : State) (a n : Nat), s₀.Keeps u → s₀.Keeps (if c then u else u.noteAssetRead t a n) :=
        fun _ _ _ _ _ g => State.Keeps.ite g (State.noteAssetRead_keeps _ _ _ g)
      have hd : ∀ (c : Prop) [Decidable c] (u : State) (a n : Nat), s₀.Keeps u → s₀.Keeps (if c then u.noteAssetRead t a n else u) :=
        fun _ _ _ _ _ g => State.Keeps.ite (State.noteAssetRead_keeps _ _ _ g) g
      split
      · exact State.Keeps.of_fst3 (by assumption) (State.assetWrite_keeps _ _ _ (hd _ _ _ _ (hs _ _ _ _ h)))
      · exact ih _ (State.Keeps.of_fst3 (by assumption) (State.assetWrite_keeps _ _ _ (hd _ _ _ _ (hs _ _ _ _ h))))

theorem State.blitRows_keeps {s₀ s : State} (t : Nat) (j : BlitJob) (left done : Nat) (h : s₀.Keeps s) :
    s₀.Keeps (s.blitRows t j left done).1 := by
  induction left generalizing s done with
  | zero => exact h
  | succ left ih =>
    unfold State.blitRows
    dsimp only
    split
    · exact State.Keeps.of_fst3 (by assumption) (State.blitRow_keeps _ _ _ _ _ _ h)
    · exact ih _ (State.Keeps.of_fst3 (by assumption) (State.blitRow_keeps _ _ _ _ _ _ h))

theorem dmaShareSetBody_keeps {s₀ : State} (c : Cmd) (a : CmdRef) {s : State} (h : s₀.Keeps s) :
    KeepsCmd s₀ (dmaShareSetBody c a s) := by
  unfold dmaShareSetBody
  try dsimp only
  repeat' first
    | with_reducible assumption
    | with_reducible apply okDone_keeps
    | with_reducible apply State.setBucket_keeps
    | with_reducible apply KeepsCmd.bind
    | intro _

theorem State.blitDone_keeps {s₀ : State} {s : State} (h : s₀.Keeps s) :
    s₀.Keeps (State.blitDone s) := by
  unfold State.blitDone
  try dsimp only
  repeat' first
    | with_reducible assumption
    | with_reducible apply State.complete_keeps
    | with_reducible apply State.blitRows_keeps
    | with_reducible apply State.completeOk_keeps
    | with_reducible apply State.atlasFault_keeps
    | simp only [State.Keeps.upd_iff]
    | split

theorem execBlitDone_keeps {s₀ : State} (dt : Nat) {s : State} (h : s₀.Keeps s) :
    KeepsOut s₀ (execBlitDone dt s) := by
  unfold execBlitDone
  try dsimp only
  repeat' first
    | with_reducible assumption
    | with_reducible apply State.blitDone_keeps
    | with_reducible apply State.tick_keeps
    | with_reducible apply State.advanced_keeps
    | with_reducible apply KeepsOut.next

theorem State.dmaRecheck_keeps {s₀ : State} (n : Nat) {s : State} (h : s₀.Keeps s) :
    s₀.Keeps (State.dmaRecheck n s) := by
  unfold State.dmaRecheck
  try dsimp only
  repeat' first
    | with_reducible assumption
    | with_reducible apply State.dmaFinish_keeps
    | with_reducible apply State.dmaFaultRecord_keeps
    | split

theorem execDmaRingRecheck_keeps {s₀ : State} (dt : Nat) (n : Nat) {s : State} (h : s₀.Keeps s) :
    KeepsOut s₀ (execDmaRingRecheck dt n s) := by
  unfold execDmaRingRecheck
  try dsimp only
  repeat' first
    | with_reducible assumption
    | with_reducible apply State.tick_keeps
    | with_reducible apply State.dmaRecheck_keeps
    | with_reducible apply State.advanced_keeps
    | with_reducible apply KeepsOut.next

end Sys2Proof.Machine
end

