-- ==== Sys2Proof/Laws/KeepsBeam.lean ====
section
/-! SUPPORT. What the operations and meanings keep: compose boundaries, the beam, audio and the Cartouche. Each lemma goes over the branches
of one definition and cites the lemmas of what it calls. -/

namespace Sys2Proof.Machine

open Sys2Proof

/-! ### Boundary -/

theorem State.supersede_keeps {s₀ : State} (hq : Nat) (t : Nat) (g : Stage) {s : State} (h : s₀.Keeps s) :
    s₀.Keeps (State.supersede hq t g s) := by
  unfold State.supersede
  try dsimp only
  repeat' first
    | with_reducible assumption
    | with_reducible apply State.modTabs_keeps
    | with_reducible apply State.modDisp_keeps

theorem State.finishCommit_keeps {s₀ : State} (k : Commit) {s : State} (h : s₀.Keeps s) :
    s₀.Keeps (State.finishCommit k s) := by
  unfold State.finishCommit
  try dsimp only
  repeat' first
    | with_reducible assumption
    | with_reducible apply State.complete_keeps
    | with_reducible apply State.modDisp_keeps
    | split

theorem State.applyStage_keeps {s₀ : State} (hq : Nat) (t : Nat) (g : Stage) {s : State} (h : s₀.Keeps s) :
    s₀.Keeps (State.applyStage hq t g s) := by
  unfold State.applyStage
  try dsimp only
  repeat' first
    | with_reducible assumption
    | with_reducible apply State.applyTab_keeps
    | with_reducible apply State.modHead_keeps
    | with_reducible apply State.Keeps.foldl
    | intro _

theorem State.commitAt_keeps {s₀ : State} (hq : Nat) (f : Word) (k : Commit) {s : State} (h : s₀.Keeps s) :
    s₀.Keeps (State.commitAt hq f k s).1 := by
  unfold State.commitAt
  try dsimp only
  repeat' first
    | with_reducible assumption
    | with_reducible apply State.supersede_keeps
    | with_reducible apply State.finishCommit_keeps
    | with_reducible apply State.applyStage_keeps
    | with_reducible apply State.keepThread_keeps
    | with_reducible apply State.modDisp_keeps
    | simp only [State.Keeps.upd_iff]
    | with_reducible apply State.Keeps.foldl
    | intro _
    | split

theorem State.commitsAt_keeps {s₀ : State} (hq : Nat) (f : Word) {s : State} (h : s₀.Keeps s) :
    s₀.Keeps (State.commitsAt hq f s).1 := by
  unfold State.commitsAt
  try dsimp only
  repeat' first
    | with_reducible assumption
    | with_reducible apply State.commitAt_keeps
    | simp only [State.Keeps.upd_iff]
    | with_reducible apply State.Keeps.foldl_fst
    | intro _

theorem State.destroysAt_keeps {s₀ : State} (hq : Nat) {s : State} (h : s₀.Keeps s) :
    s₀.Keeps (State.destroysAt hq s).1 := by
  unfold State.destroysAt
  try dsimp only
  repeat' first
    | with_reducible assumption
    | with_reducible apply State.removePlane_keeps
    | with_reducible apply State.completeOk_keeps
    | with_reducible apply State.Keeps.foldl
    | intro _

theorem State.donate_keeps {s₀ : State} (hq : Nat) {s : State} (h : s₀.Keeps s) :
    s₀.Keeps (State.donate hq s) := by
  unfold State.donate
  try dsimp only
  repeat' first
    | with_reducible assumption
    | with_reducible apply State.modCluster_keeps
    | with_reducible apply State.setService_keeps
    | with_reducible apply State.modDisp_keeps
    | with_reducible apply State.chooseAgain_keeps
    | with_reducible apply State.modHead_keeps
    | split

theorem State.takeBounds_keeps {s₀ : State} (hq : Nat) {s : State} (h : s₀.Keeps s) :
    s₀.Keeps (State.takeBounds hq s) := by
  unfold State.takeBounds
  try dsimp only
  repeat' first
    | with_reducible assumption
    | with_reducible apply State.completeOk_keeps
    | with_reducible apply State.modHead_keeps
    | with_reducible apply State.Keeps.foldl
    | intro _

theorem State.makeDue_keeps {s₀ : State} (hq : Nat) (g : Word) (nominal : Meridian) {s : State} (h : s₀.Keeps s) :
    s₀.Keeps (State.makeDue hq g nominal s) := by
  unfold State.makeDue
  try dsimp only
  repeat' first
    | with_reducible assumption
    | with_reducible apply State.modHead_keeps
    | split

theorem State.fireComposer_keeps {s₀ : State} (hq : Nat) (y : Nat) {s : State} (h : s₀.Keeps s) :
    s₀.Keeps (State.fireComposer hq y s) := by
  unfold State.fireComposer
  try dsimp only
  repeat' first
    | with_reducible assumption
    | with_reducible apply State.lineMatch_keeps
    | with_reducible apply State.fireFast_keeps
    | with_reducible apply State.modHead_keeps
    | with_reducible apply State.Keeps.foldl
    | intro _
    | split

theorem State.startLine_keeps {s₀ : State} (hq : Nat) (y : Nat) {s : State} (h : s₀.Keeps s) :
    s₀.Keeps (State.startLine hq y s) := by
  unfold State.startLine
  try dsimp only
  repeat' first
    | with_reducible assumption
    | with_reducible apply State.issueWakes_keeps
    | with_reducible apply State.applyTabWrites_keeps
    | with_reducible apply State.fireComposer_keeps
    | with_reducible apply State.applyLists_keeps
    | with_reducible apply State.composePixels_keeps
    | with_reducible apply State.modHead_keeps
    | split

theorem State.startFrame_keeps {s₀ : State} (hq : Nat) (f : Word) (late : Bool) (calm : Bool) (wakeSlots : List Nat) {s : State} (h : s₀.Keeps s) :
    s₀.Keeps (State.startFrame hq f late calm wakeSlots s) := by
  unfold State.startFrame
  try dsimp only
  repeat' first
    | with_reducible assumption
    | with_reducible apply State.issueWakes_keeps
    | with_reducible apply State.startLine_keeps
    | with_reducible apply State.modHead_keeps
    | split

theorem State.composerStart_keeps {s₀ : State} (hq : Nat) {s : State} (h : s₀.Keeps s) :
    s₀.Keeps (State.composerStart hq s) := by
  unfold State.composerStart
  try dsimp only
  repeat' first
    | with_reducible assumption
    | with_reducible apply State.startLine_keeps
    | with_reducible apply State.modHead_keeps
    | split

theorem execComposerLineStart_keeps {s₀ : State} (dt : Nat) (hq : Nat) {s : State} (h : s₀.Keeps s) :
    KeepsOut s₀ (execComposerLineStart dt hq s) := by
  unfold execComposerLineStart
  try dsimp only
  repeat' first
    | with_reducible assumption
    | with_reducible apply State.composerStart_keeps
    | with_reducible apply State.tick_keeps
    | with_reducible apply KeepsOut.next

theorem State.leadAt_keeps {s₀ : State} (hq : Nat) {s : State} (h : s₀.Keeps s) :
    s₀.Keeps (State.leadAt hq s) := by
  unfold State.leadAt
  try dsimp only
  repeat' first
    | with_reducible assumption
    | with_reducible apply State.takeBounds_keeps
    | with_reducible apply State.modHead_keeps

theorem State.frameEvents_keeps {s₀ : State} (hq : Nat) {s : State} (h : s₀.Keeps s) :
    s₀.Keeps (State.frameEvents hq s) := by
  unfold State.frameEvents
  try dsimp only
  repeat' first
    | with_reducible assumption
    | with_reducible apply State.notify_keeps
    | with_reducible apply State.event_keeps
    | with_reducible apply State.Keeps.foldl
    | intro _
    | split

theorem State.frameDone_keeps {s₀ : State} (hq : Nat) {s : State} (h : s₀.Keeps s) :
    s₀.Keeps (State.frameDone hq s) := by
  unfold State.frameDone
  try dsimp only
  repeat' first
    | with_reducible assumption
    | with_reducible apply State.frameEvents_keeps
    | with_reducible apply State.notify_keeps
    | with_reducible apply State.modCluster_keeps
    | with_reducible apply State.modHead_keeps
    | split

theorem State.lineComplete_keeps {s₀ : State} (hq : Nat) {s : State} (h : s₀.Keeps s) :
    s₀.Keeps (State.lineComplete hq s) := by
  unfold State.lineComplete
  try dsimp only
  repeat' first
    | with_reducible assumption
    | with_reducible apply State.frameDone_keeps
    | with_reducible apply State.modHead_keeps
    | with_reducible apply State.physWrite_keeps
    | split

theorem State.leaveCluster_keeps {s₀ : State} (hq : Nat) (n : Nat) (old : Option Nat) {s : State} (h : s₀.Keeps s) :
    s₀.Keeps (State.leaveCluster hq n old s) := by
  unfold State.leaveCluster
  try dsimp only
  repeat' first
    | with_reducible assumption
    | with_reducible apply State.modCluster_keeps
    | with_reducible apply State.moveBanks_keeps
    | with_reducible apply State.quarantine_keeps
    | split

theorem State.joinCluster_keeps {s₀ : State} (hq : Nat) (n : Nat) {s : State} (h : s₀.Keeps s) :
    s₀.Keeps (State.joinCluster hq n s) := by
  unfold State.joinCluster
  try dsimp only
  repeat' first
    | with_reducible assumption
    | with_reducible apply State.assignCluster_keeps
    | with_reducible apply State.restartTabs_keeps
    | with_reducible apply State.devEvent_keeps
    | with_reducible apply State.modHead_keeps

theorem State.composerFrets_keeps {s₀ : State} (hq : Nat) {s : State} (h : s₀.Keeps s) :
    s₀.Keeps (State.composerFrets hq s) := by
  unfold State.composerFrets
  try dsimp only
  repeat' first
    | with_reducible assumption
    | with_reducible apply State.modHead_keeps

theorem State.dueBehind_keeps {s₀ : State} (hq : Nat) (f : Word) {s : State} (h : s₀.Keeps s) :
    s₀.Keeps (State.dueBehind hq f s) := by
  unfold State.dueBehind
  try dsimp only
  repeat' first
    | with_reducible assumption
    | with_reducible apply State.makeDue_keeps
    | split

theorem State.releasesAt_keeps {s₀ : State} (hq : Nat) {s : State} (h : s₀.Keeps s) :
    s₀.Keeps (State.releasesAt hq s).1 := by
  unfold State.releasesAt
  try dsimp only
  repeat' first
    | with_reducible assumption
    | with_reducible apply State.modHead_keeps

theorem State.beginFrame_keeps {s₀ : State} (hq : Nat) (f : Word) (late : Bool) (tell : Bool) (quiet : Bool) (calm : Bool) (issued : Bool) {s : State} (h : s₀.Keeps s) :
    s₀.Keeps (State.beginFrame hq f late tell quiet calm issued s) := by
  unfold State.beginFrame
  repeat' first
    | with_reducible assumption
    | (extract_lets +onlyGivenNames a; refine State.Keeps.cut (s₀ := s₀) (s := a) ?_ (fun ha => ?_); rotate_left; clear_value a; rotate_right; subst a)
    | with_reducible apply State.startFrame_keeps
    | with_reducible apply State.composerFrets_keeps
    | with_reducible apply State.modHead_keeps
    | simp only [State.Keeps.upd_iff]
    | split

theorem State.cellsAt_keeps {s₀ : State} (hq : Nat) {s : State} (h : s₀.Keeps s) :
    s₀.Keeps (State.cellsAt hq s).1 := by
  unfold State.cellsAt
  try dsimp only
  repeat' first
    | with_reducible assumption
    | with_reducible apply State.completeOk_keeps
    | with_reducible apply State.modHead_keeps
    | with_reducible apply State.Keeps.foldl
    | intro _

theorem State.takeOver_keeps {s₀ : State} (hq : Nat) {s : State} (h : s₀.Keeps s) :
    s₀.Keeps (State.takeOver hq s).1 := by
  unfold State.takeOver
  try dsimp only
  repeat' first
    | with_reducible assumption
    | with_reducible apply State.leaveCluster_keeps
    | with_reducible apply State.modDisp_keeps
    | with_reducible apply State.chooseAgain_keeps
    | with_reducible apply State.joinCluster_keeps
    | split

theorem State.lockRole_keeps {s₀ : State} (hq : Nat) (role : Nat) (t0 : Dword) {s : State} (h : s₀.Keeps s) :
    s₀.Keeps (State.lockRole hq role t0 s) := by
  unfold State.lockRole
  try dsimp only
  repeat' first
    | with_reducible assumption
    | with_reducible apply State.modHead_keeps
    | with_reducible apply State.Keeps.foldl
    | intro _

theorem State.policiesAt_keeps {s₀ : State} (hq : Nat) {s : State} (h : s₀.Keeps s) :
    s₀.Keeps (State.policiesAt hq s).1 := by
  unfold State.policiesAt
  try dsimp only
  repeat' first
    | with_reducible assumption
    | with_reducible apply State.completeOk_keeps
    | with_reducible apply State.lockRole_keeps
    | with_reducible apply State.modHead_keeps
    | with_reducible apply State.Keeps.foldl
    | intro _

theorem State.rollHead_keeps {s₀ : State} (hq : Nat) (u : Undo) {s : State} (h : s₀.Keeps s) :
    s₀.Keeps (State.rollHead hq u s) := by
  unfold State.rollHead
  try dsimp only
  repeat' first
    | with_reducible assumption
    | with_reducible apply State.modStage_keeps
    | with_reducible apply State.modTabs_keeps
    | with_reducible apply State.applyStage_keeps
    | with_reducible apply State.modHead_keeps

theorem State.rollAtBoundary_keeps {s₀ : State} (hq : Nat) {s : State} (h : s₀.Keeps s) :
    s₀.Keeps (State.rollAtBoundary hq s).1 := by
  unfold State.rollAtBoundary
  try dsimp only
  repeat' first
    | with_reducible assumption
    | with_reducible apply State.modTabs_keeps
    | with_reducible apply State.rollHead_keeps
    | with_reducible apply State.modDisp_keeps
    | with_reducible apply State.Keeps.foldl
    | intro _
    | split

theorem State.installCommitted_keeps {s₀ : State} (hq : Nat) {s : State} (h : s₀.Keeps s) :
    s₀.Keeps (State.installCommitted hq s) := by
  unfold State.installCommitted
  try dsimp only
  repeat' first
    | with_reducible assumption
    | with_reducible apply State.modHead_keeps

theorem State.newTimingAt_keeps {s₀ : State} (hq : Nat) {s : State} (h : s₀.Keeps s) :
    s₀.Keeps (State.newTimingAt hq s) := by
  unfold State.newTimingAt
  try dsimp only
  repeat' first
    | with_reducible assumption
    | with_reducible apply State.completeOk_keeps
    | with_reducible apply State.modHead_keeps
    | with_reducible apply State.Keeps.foldl
    | intro _
    | split

theorem State.viewsAt_keeps {s₀ : State} (hq : Nat) {s : State} (h : s₀.Keeps s) :
    s₀.Keeps (State.viewsAt hq s).1 := by
  unfold State.viewsAt
  try dsimp only
  repeat' first
    | with_reducible assumption
    | with_reducible apply State.completeOk_keeps
    | with_reducible apply State.modHead_keeps
    | with_reducible apply State.Keeps.foldl
    | intro _

theorem State.applyCommitted_keeps {s₀ : State} (hq : Nat) (f : Word) (tell : Bool) {s : State} (h : s₀.Keeps s) :
    s₀.Keeps (State.applyCommitted hq f tell s).1 := by
  unfold State.applyCommitted
  try dsimp only
  repeat' first
    | with_reducible assumption
    | with_reducible apply State.policiesAt_keeps
    | with_reducible apply State.rollAtBoundary_keeps
    | with_reducible apply State.installCommitted_keeps
    | with_reducible apply State.newTimingAt_keeps
    | with_reducible apply State.viewsAt_keeps
    | with_reducible apply State.destroyAtBoundary_keeps
    | with_reducible apply State.destroysAt_keeps
    | with_reducible apply State.releasesAt_keeps
    | with_reducible apply State.commitsAt_keeps
    | with_reducible apply State.cellsAt_keeps
    | split

theorem State.boundary_keeps {s₀ : State} (hq : Nat) {s : State} (h : s₀.Keeps s) :
    s₀.Keeps (State.boundary hq s) := by
  unfold State.boundary
  repeat' first
    | with_reducible assumption
    | (extract_lets +onlyGivenNames a; clear_value a)
    | with_reducible apply State.dueBehind_keeps
    | with_reducible apply State.takeOver_keeps
    | with_reducible apply State.modTabs_keeps
    | with_reducible apply State.applyCommitted_keeps
    | with_reducible apply State.beginFrame_keeps
    | with_reducible apply State.leadAt_keeps
    | with_reducible apply State.modHead_keeps
    | with_reducible apply State.donate_keeps
    | simp only [State.Keeps.upd_iff]
    | split

theorem execComposerLineComplete_keeps {s₀ : State} (dt : Nat) (hq : Nat) {s : State} (h : s₀.Keeps s) :
    KeepsOut s₀ (execComposerLineComplete dt hq s) := by
  unfold execComposerLineComplete
  try dsimp only
  repeat' first
    | with_reducible assumption
    | with_reducible apply State.lineComplete_keeps
    | with_reducible apply State.tick_keeps
    | with_reducible apply KeepsOut.next

theorem execComposeBoundary_keeps {s₀ : State} (dt : Nat) (hq : Nat) {s : State} (h : s₀.Keeps s) :
    KeepsOut s₀ (execComposeBoundary dt hq s) := by
  unfold execComposeBoundary
  try dsimp only
  repeat' first
    | with_reducible assumption
    | with_reducible apply State.boundary_keeps
    | with_reducible apply State.tick_keeps
    | with_reducible apply State.advanced_keeps
    | with_reducible apply KeepsOut.next

/-! ### Beam -/

theorem State.freeBytes_keeps {s₀ : State} (a : Nat) {a1 : State} (h : s₀.Keeps a1) :
    s₀.Keeps (State.freeBytes a a1).2 := by
  induction a generalizing a1  with
  | zero =>
    unfold State.freeBytes
    try dsimp only
    repeat' first
      | with_reducible assumption
      | with_reducible apply State.fresh_keeps
  | succ k ih =>
    unfold State.freeBytes
    try dsimp only
    repeat' first
      | with_reducible apply ih
      | with_reducible assumption
      | with_reducible apply State.fresh_keeps

theorem State.enterDue_keeps {s₀ : State} (hq : Nat) {s : State} (h : s₀.Keeps s) :
    s₀.Keeps (State.enterDue hq s) := by
  unfold State.enterDue
  try dsimp only
  repeat' first
    | with_reducible assumption
    | with_reducible apply State.takeBounds_keeps
    | with_reducible apply State.makeDue_keeps
    | with_reducible apply State.modHead_keeps
    | split

theorem State.modCapture_keeps {s₀ : State} (hq : Nat) (f : Capture → Capture) {s : State} (h : s₀.Keeps s) :
    s₀.Keeps (State.modCapture hq f s) := by
  unfold State.modCapture
  try dsimp only
  repeat' first
    | with_reducible assumption
    | with_reducible apply State.modHead_keeps

theorem State.captureFlush_keeps {s₀ : State} (hq : Nat) (a : Nat) {a1 : State} (h : s₀.Keeps a1) :
    s₀.Keeps (State.captureFlush hq a a1) := by
  induction a generalizing a1 hq with
  | zero =>
    unfold State.captureFlush
    try dsimp only
    repeat' first
      | with_reducible assumption
      | with_reducible apply State.modCapture_keeps
      | with_reducible apply State.assetWrite_keeps
      | with_reducible apply State.atlasFault_keeps
      | with_reducible apply State.modHead_keeps
      | split
  | succ k ih =>
    unfold State.captureFlush
    try dsimp only
    repeat' first
      | with_reducible apply ih
      | with_reducible assumption
      | with_reducible apply State.modCapture_keeps
      | with_reducible apply State.assetWrite_keeps
      | with_reducible apply State.atlasFault_keeps
      | with_reducible apply State.modHead_keeps
      | split

theorem State.captureLine_keeps {s₀ : State} (hq : Nat) (y : Nat) (px : List Nat) {s : State} (h : s₀.Keeps s) :
    s₀.Keeps (State.captureLine hq y px s) := by
  unfold State.captureLine
  try dsimp only
  repeat' first
    | with_reducible assumption
    | with_reducible apply State.freeBytes_keeps
    | with_reducible apply State.captureFlush_keeps
    | with_reducible apply State.modCapture_keeps
    | split

theorem State.scanLine_keeps {s₀ : State} (hq : Nat) (y : Nat) (late : List PixelRun) {s : State} (h : s₀.Keeps s) :
    s₀.Keeps (State.scanLine hq y late s) := by
  unfold State.scanLine
  try dsimp only
  repeat' first
    | with_reducible assumption
    | with_reducible apply State.captureLine_keeps
    | with_reducible apply State.noteRead_keeps
    | with_reducible apply State.modHead_keeps
    | split

theorem State.finishReplaces_keeps {s₀ : State} {s : State} (h : s₀.Keeps s) :
    s₀.Keeps (State.finishReplaces s) := by
  unfold State.finishReplaces
  try dsimp only
  repeat' first
    | with_reducible assumption
    | with_reducible apply State.completeOk_keeps
    | with_reducible apply State.modDisp_keeps
    | with_reducible apply State.Keeps.foldl
    | intro _

theorem State.switchImages_keeps {s₀ : State} (hq : Nat) {s : State} (h : s₀.Keeps s) :
    s₀.Keeps (State.switchImages hq s) := by
  unfold State.switchImages
  try dsimp only
  repeat' first
    | with_reducible assumption
    | with_reducible apply State.modDisp_keeps
    | with_reducible apply State.finishReplaces_keeps

theorem State.latchCells_keeps {s₀ : State} (hq : Nat) {s : State} (h : s₀.Keeps s) :
    s₀.Keeps (State.latchCells hq s) := by
  unfold State.latchCells
  try dsimp only
  repeat' first
    | with_reducible assumption
    | with_reducible apply State.modHead_keeps

theorem State.lineZeroChanges_keeps {s₀ : State} (hq : Nat) {s : State} (h : s₀.Keeps s) :
    s₀.Keeps (State.lineZeroChanges hq s) := by
  unfold State.lineZeroChanges
  try dsimp only
  repeat' first
    | with_reducible assumption
    | with_reducible apply State.completeOk_keeps
    | with_reducible apply State.modHead_keeps
    | with_reducible apply State.Keeps.foldl
    | intro _

theorem State.lockMeasure_keeps {s₀ : State} (hq : Nat) (err : Int) {s : State} (h : s₀.Keeps s) :
    s₀.Keeps (State.lockMeasure hq err s) := by
  unfold State.lockMeasure
  try dsimp only
  repeat' first
    | with_reducible assumption
    | with_reducible apply State.fresh_keeps
    | with_reducible apply State.modHead_keeps
    | split

theorem State.lockAtZero_keeps {s₀ : State} (hq : Nat) {s : State} (h : s₀.Keeps s) :
    s₀.Keeps (State.lockAtZero hq s) := by
  unfold State.lockAtZero
  try dsimp only
  repeat' first
    | with_reducible assumption
    | with_reducible apply State.lockMeasure_keeps
    | with_reducible apply State.Keeps.foldl
    | intro _
    | split

theorem State.captureSkip_keeps {s₀ : State} (hq : Nat) {s : State} (h : s₀.Keeps s) :
    s₀.Keeps (State.captureSkip hq s) := by
  unfold State.captureSkip
  try dsimp only
  repeat' first
    | with_reducible assumption
    | with_reducible apply State.modCapture_keeps
    | with_reducible apply State.modHead_keeps

theorem State.captureEvent_keeps {s₀ : State} (hq : Nat) {s : State} (h : s₀.Keeps s) :
    s₀.Keeps (State.captureEvent hq s) := by
  unfold State.captureEvent
  try dsimp only
  repeat' first
    | with_reducible assumption
    | with_reducible apply State.eventStatus_keeps
    | with_reducible apply State.modCapture_keeps
    | with_reducible apply State.completeOk_keeps
    | with_reducible apply State.modHead_keeps
    | with_reducible apply State.Keeps.foldl
    | intro _
    | split

theorem State.captureBegin_keeps {s₀ : State} (hq : Nat) {s : State} (h : s₀.Keeps s) :
    s₀.Keeps (State.captureBegin hq s) := by
  unfold State.captureBegin
  try dsimp only
  repeat' first
    | with_reducible assumption
    | with_reducible apply State.captureSkip_keeps
    | with_reducible apply State.captureEvent_keeps
    | with_reducible apply State.modCapture_keeps
    | with_reducible apply State.noteAssetRead_keeps
    | with_reducible apply State.atlasFault_keeps
    | split

theorem State.enterZero_keeps {s₀ : State} (hq : Nat) {s : State} (h : s₀.Keeps s) :
    s₀.Keeps (State.enterZero hq s) := by
  unfold State.enterZero
  try dsimp only
  repeat' first
    | with_reducible assumption
    | with_reducible apply State.switchImages_keeps
    | with_reducible apply State.latchCells_keeps
    | with_reducible apply State.lineZeroChanges_keeps
    | with_reducible apply State.modHead_keeps
    | with_reducible apply State.lockAtZero_keeps
    | with_reducible apply State.captureBegin_keeps

theorem State.fireBeam_keeps {s₀ : State} (hq : Nat) (y : Nat) {s : State} (h : s₀.Keeps s) :
    s₀.Keeps (State.fireBeam hq y s) := by
  unfold State.fireBeam
  try dsimp only
  repeat' first
    | with_reducible assumption
    | with_reducible apply State.lineMatch_keeps
    | with_reducible apply State.fireFast_keeps
    | with_reducible apply State.modHead_keeps
    | with_reducible apply State.Keeps.foldl
    | intro _
    | split

theorem State.portsFrameEnd_keeps {s₀ : State} (hq : Nat) {s : State} (h : s₀.Keeps s) :
    s₀.Keeps (State.portsFrameEnd hq s) := by
  unfold State.portsFrameEnd
  try dsimp only
  repeat' first
    | with_reducible assumption
    | with_reducible apply State.modPort_keeps
    | with_reducible apply State.event_keeps
    | with_reducible apply State.frameEnded_keeps
    | with_reducible apply State.Keeps.foldl
    | intro _
    | split

theorem State.enterBlank_keeps {s₀ : State} (hq : Nat) {s : State} (h : s₀.Keeps s) :
    s₀.Keeps (State.enterBlank hq s) := by
  unfold State.enterBlank
  try dsimp only
  repeat' first
    | with_reducible assumption
    | with_reducible apply State.notify_keeps
    | with_reducible apply State.applyTimings_keeps
    | with_reducible apply State.modHead_keeps
    | with_reducible apply State.stopHead_keeps
    | with_reducible apply State.portsFrameEnd_keeps
    | with_reducible apply State.event_keeps
    | split

theorem State.enterLine_keeps {s₀ : State} (hq : Nat) (y : Nat) (t : Timing) (dueLine : Nat) (late : List PixelRun) {s : State} (h : s₀.Keeps s) :
    s₀.Keeps (State.enterLine hq y t dueLine late s) := by
  unfold State.enterLine
  repeat' first
    | with_reducible assumption
    | (extract_lets +onlyGivenNames a; refine State.Keeps.cut (s₀ := s₀) (s := a) ?_ (fun ha => ?_); rotate_left; clear_value a; rotate_right; subst a)
    | with_reducible apply State.enterDue_keeps
    | with_reducible apply State.scanLine_keeps
    | with_reducible apply State.enterZero_keeps
    | with_reducible apply State.fireBeam_keeps
    | with_reducible apply State.enterBlank_keeps
    | split

theorem State.pinReact_keeps {s₀ : State} (hq : Nat) (p : Nat) {s : State} (h : s₀.Keeps s) :
    s₀.Keeps (State.pinReact hq p s) := by
  unfold State.pinReact
  try dsimp only
  repeat' first
    | with_reducible assumption
    | with_reducible apply State.settlePin_keeps
    | with_reducible apply State.modPin_keeps
    | with_reducible apply State.modHead_keeps

theorem State.evaluateRegion_keeps {s₀ : State} (hq : Nat) (r : Nat) {s : State} (h : s₀.Keeps s) :
    s₀.Keeps (State.evaluateRegion hq r s) := by
  unfold State.evaluateRegion
  try dsimp only
  repeat' first
    | with_reducible assumption
    | with_reducible apply State.pinReact_keeps
    | with_reducible apply State.devEvent_keeps
    | with_reducible apply State.modHead_keeps
    | with_reducible apply State.event_keeps
    | split

theorem State.evaluateRegions_keeps {s₀ : State} (hq : Nat) (y : Nat) {s : State} (h : s₀.Keeps s) :
    s₀.Keeps (State.evaluateRegions hq y s) := by
  unfold State.evaluateRegions
  try dsimp only
  repeat' first
    | with_reducible assumption
    | with_reducible apply State.evaluateRegion_keeps
    | with_reducible apply State.Keeps.foldl
    | intro _

theorem State.beamEnter_keeps {s₀ : State} (hq : Nat) (late : List PixelRun) {s : State} (h : s₀.Keeps s) :
    s₀.Keeps (State.beamEnter hq late s) := by
  unfold State.beamEnter
  repeat' first
    | with_reducible assumption
    | (extract_lets +onlyGivenNames a; clear_value a)
    | with_reducible apply State.enterLine_keeps
    | with_reducible apply State.evaluateRegions_keeps
    | with_reducible apply State.modHead_keeps
    | simp only [State.Keeps.upd_iff]
    | split

theorem execBeamLineEnter_keeps {s₀ : State} (dt : Nat) (hq : Nat) (late : List PixelRun) {s : State} (h : s₀.Keeps s) :
    KeepsOut s₀ (execBeamLineEnter dt hq late s) := by
  unfold execBeamLineEnter
  try dsimp only
  repeat' first
    | with_reducible assumption
    | with_reducible apply State.tick_keeps
    | with_reducible apply State.beamEnter_keeps
    | with_reducible apply State.advanced_keeps
    | with_reducible apply KeepsOut.next

theorem State.captureStall_keeps {s₀ : State} (hq : Nat) {s : State} (h : s₀.Keeps s) :
    s₀.Keeps (State.captureStall hq s) := by
  unfold State.captureStall
  try dsimp only
  repeat' first
    | with_reducible assumption
    | with_reducible apply State.modHead_keeps
    | split

theorem execCaptureWriteStall_keeps {s₀ : State} (dt : Nat) (hq : Nat) {s : State} (h : s₀.Keeps s) :
    KeepsOut s₀ (execCaptureWriteStall dt hq s) := by
  unfold execCaptureWriteStall
  try dsimp only
  repeat' first
    | with_reducible assumption
    | with_reducible apply State.captureStall_keeps
    | with_reducible apply State.tick_keeps
    | with_reducible apply KeepsOut.next

theorem execCaptureFrame_keeps {s₀ : State} (dt : Nat) (hq : Nat) {s : State} (h : s₀.Keeps s) :
    KeepsOut s₀ (execCaptureFrame dt hq s) := by
  unfold execCaptureFrame
  try dsimp only
  repeat' first
    | with_reducible assumption
    | with_reducible apply State.captureEvent_keeps
    | with_reducible apply State.tick_keeps
    | with_reducible apply State.advanced_keeps
    | with_reducible apply KeepsOut.next

/-! ### Audio -/

theorem State.voiceStart_keeps {s₀ : State} (v : Nat) {s : State} (h : s₀.Keeps s) :
    s₀.Keeps (State.voiceStart v s) := by
  unfold State.voiceStart
  try dsimp only
  repeat' first
    | with_reducible assumption
    | with_reducible apply State.modVoice_keeps

theorem State.modEth_keeps {s₀ : State} (m : Nat) (f : Eth → Eth) {s : State} (h : s₀.Keeps s) :
    s₀.Keeps (State.modEth m f s) := by
  unfold State.modEth
  try dsimp only
  repeat' first
    | with_reducible assumption
    | simp only [State.Keeps.upd_iff]

theorem State.runTalker_keeps {s₀ : State} (n : Nat) (x : Avtp) {s : State} (h : s₀.Keeps s) :
    s₀.Keeps (State.runTalker n x s) := by
  unfold State.runTalker
  try dsimp only
  repeat' first
    | with_reducible assumption
    | with_reducible apply State.modAudio_keeps
    | with_reducible apply State.modEth_keeps
    | split

theorem State.runListener_keeps {s₀ : State} (n : Nat) (x : Avtp) {s : State} (h : s₀.Keeps s) :
    s₀.Keeps (State.runListener n x s) := by
  unfold State.runListener
  try dsimp only
  repeat' first
    | with_reducible assumption
    | with_reducible apply State.modAudio_keeps
    | with_reducible apply State.portReport_keeps
    | split

theorem State.runAvtp_keeps {s₀ : State} (c : Nat) (listeners : Bool) {s : State} (h : s₀.Keeps s) :
    s₀.Keeps (State.runAvtp c listeners s) := by
  unfold State.runAvtp
  try dsimp only
  repeat' first
    | with_reducible assumption
    | with_reducible apply State.runTalker_keeps
    | with_reducible apply State.runListener_keeps
    | with_reducible apply State.Keeps.foldl
    | intro _
    | split

theorem State.avtpPacket_keeps {s₀ : State} (n : Nat) (ptime : Nat) (samples : List (List Int)) {s : State} (h : s₀.Keeps s) :
    s₀.Keeps (State.avtpPacket n ptime samples s) := by
  unfold State.avtpPacket
  try dsimp only
  repeat' first
    | with_reducible assumption
    | with_reducible apply State.modAudio_keeps
    | with_reducible apply State.portReport_keeps
    | with_reducible apply State.modEth_keeps
    | split

theorem State.faultedVoice_keeps {s₀ : State} (v : Nat) {s : State} (h : s₀.Keeps s) : s₀.Keeps (State.faultedVoice v s) :=
  State.Keeps.ite (State.endVoice_keeps _ _ (State.modVoice_keeps _ _ h)) (State.modVoice_keeps _ _ h)

theorem State.soundVoice_keeps {s₀ : State} (late : List Nat) (v : Nat) {s : State} (h : s₀.Keeps s) :
    s₀.Keeps (State.soundVoice late v s).1 := by
  unfold State.soundVoice
  dsimp only
  repeat' first
    | with_reducible assumption
    | with_reducible apply State.endVoice_keeps
    | with_reducible apply State.voiceFaultReport_keeps
    | with_reducible apply State.atlasFault_keeps
    | with_reducible apply State.modAudio_keeps
    | with_reducible apply State.modVoice_keeps
    | with_reducible apply State.Keeps.ite
    | split

theorem State.runVoice_keeps {s₀ : State} (late : List Nat) (acc : State × List AudioPart) (v : Nat) (h : s₀.Keeps acc.1) :
    s₀.Keeps (State.runVoice late acc v).1 := by
  unfold State.runVoice
  dsimp only
  have hm := State.modVoice_keeps v (fun x => { x with fault := if x.faultDue ≠ 0 then x.faultDue else x.fault, faultDue := 0 }) h
  generalize acc.1.modVoice v (fun x => { x with fault := if x.faultDue ≠ 0 then x.faultDue else x.fault, faultDue := 0 }) = a at hm ⊢
  simp only [apply_ite Prod.fst]
  exact State.Keeps.ite (State.modVoice_keeps _ _ hm)
    (State.Keeps.ite (State.faultedVoice_keeps _ hm) (State.soundVoice_keeps _ _ hm))

theorem State.runBuses_keeps {s₀ : State} (c : Nat) (cs : List AudioPart) {s : State} (h : s₀.Keeps s) :
    s₀.Keeps (State.runBuses c cs s) := by
  unfold State.runBuses
  try dsimp only
  repeat' first
    | with_reducible assumption
    | with_reducible apply State.modBus_keeps
    | with_reducible apply State.Keeps.foldl
    | intro _

theorem State.tdmInputs_keeps {s₀ : State} (c : Nat) (inp : CourseInput) {s : State} (h : s₀.Keeps s) :
    s₀.Keeps (State.tdmInputs c inp s) := by
  unfold State.tdmInputs
  try dsimp only
  repeat' first
    | with_reducible assumption
    | with_reducible apply State.modAudio_keeps

theorem State.audioRelock_keeps {s₀ : State} (k : Nat) {s : State} (h : s₀.Keeps s) :
    s₀.Keeps (State.audioRelock k s) := by
  unfold State.audioRelock
  try dsimp only
  repeat' first
    | with_reducible assumption
    | with_reducible apply State.modAudio_keeps
    | with_reducible apply State.portReport_keeps
    | with_reducible apply State.completeOk_keeps
    | with_reducible apply State.Keeps.foldl
    | simp only [State.Keeps.upd_iff]
    | intro _
    | split

theorem State.tdmSlip_keeps {s₀ : State} (p : Nat) (input : Bool) {s : State} (h : s₀.Keeps s) :
    s₀.Keeps (State.tdmSlip p input s) := by
  unfold State.tdmSlip
  try dsimp only
  repeat' first
    | with_reducible assumption
    | with_reducible apply State.portReport_keeps
    | split

theorem execTdmFrameSlip_keeps {s₀ : State} (dt : Nat) (port : Nat) (input : Bool) {s : State} (h : s₀.Keeps s) :
    KeepsOut s₀ (execTdmFrameSlip dt port input s) := by
  unfold execTdmFrameSlip
  try dsimp only
  repeat' first
    | with_reducible assumption
    | with_reducible apply State.tick_keeps
    | with_reducible apply State.tdmSlip_keeps
    | with_reducible apply KeepsOut.next

theorem State.modACap_keeps {s₀ : State} (b : Nat) (f : ACapture → ACapture) {s : State} (h : s₀.Keeps s) :
    s₀.Keeps (State.modACap b f s) := by
  unfold State.modACap
  try dsimp only
  repeat' first
    | with_reducible assumption
    | with_reducible apply State.modBus_keeps

theorem State.acapStop_keeps {s₀ : State} (b : Nat) {s : State} (h : s₀.Keeps s) :
    s₀.Keeps (State.acapStop b s) := by
  unfold State.acapStop
  try dsimp only
  repeat' first
    | with_reducible assumption
    | with_reducible apply State.completeOk_keeps
    | with_reducible apply State.modBus_keeps
    | with_reducible apply State.Keeps.foldl
    | intro _
    | split

theorem State.acapEvent_keeps {s₀ : State} (b : Nat) {s : State} (h : s₀.Keeps s) :
    s₀.Keeps (State.acapEvent b s) := by
  unfold State.acapEvent
  try dsimp only
  repeat' first
    | with_reducible assumption
    | with_reducible apply State.eventStatus_keeps
    | with_reducible apply State.modACap_keeps
    | with_reducible apply State.acapStop_keeps
    | split

theorem State.pruneSamples_keeps {s₀ : State} {s : State} (h : s₀.Keeps s) :
    s₀.Keeps (State.pruneSamples s) := by
  unfold State.pruneSamples
  try dsimp only
  repeat' first
    | with_reducible assumption
    | with_reducible apply State.modDisp_keeps

theorem State.runTdm_keeps {s₀ : State} (c : Nat) {s : State} (h : s₀.Keeps s) :
    s₀.Keeps (State.runTdm c s) := by
  unfold State.runTdm
  try dsimp only
  repeat' first
    | with_reducible assumption
    | with_reducible apply State.modAudio_keeps

theorem State.voiceWrite_keeps {s₀ : State} (v : Nat) (w : VoiceWrite) {s : State} (h : s₀.Keeps s) :
    s₀.Keeps (State.voiceWrite v w s) := by
  unfold State.voiceWrite
  try dsimp only
  repeat' first
    | with_reducible assumption
    | with_reducible apply State.modVoice_keeps

theorem State.audioApply_keeps {s₀ : State} (c : Nat) (w : AudioWait) {s : State} (h : s₀.Keeps s) :
    s₀.Keeps (State.audioApply c w s) := by
  unfold State.audioApply
  try dsimp only
  repeat' first
    | with_reducible assumption
    | with_reducible apply State.voiceWrite_keeps
    | with_reducible apply State.voiceStart_keeps
    | with_reducible apply State.completeOk_keeps
    | with_reducible apply State.endVoice_keeps
    | with_reducible apply State.freeBus_keeps
    | with_reducible apply State.freeVoice_keeps
    | with_reducible apply State.modVoice_keeps
    | with_reducible apply State.modBus_keeps
    | with_reducible apply State.modLane_keeps
    | with_reducible apply State.freeLane_keeps
    | with_reducible apply State.modAudio_keeps
    | split

theorem State.audioCommands_keeps {s₀ : State} (c : Nat) {s : State} (h : s₀.Keeps s) :
    s₀.Keeps (State.audioCommands c s) := by
  unfold State.audioCommands
  try dsimp only
  repeat' first
    | with_reducible assumption
    | with_reducible apply State.modAudio_keeps
    | with_reducible apply State.audioApply_keeps
    | with_reducible apply State.Keeps.foldl
    | intro _
    | split

theorem State.runLanes_keeps {s₀ : State} (c : Nat) (cs : List AudioPart) {s : State} (h : s₀.Keeps s) :
    s₀.Keeps (State.runLanes c cs s).1 := by
  unfold State.runLanes
  try dsimp only
  repeat' first
    | with_reducible assumption
    | with_reducible apply State.fresh_keeps
    | with_reducible apply State.modLane_keeps
    | with_reducible apply State.Keeps.foldl_fst
    | intro _
    | split

theorem State.pdmInputs_keeps {s₀ : State} (inp : CourseInput) {s : State} (h : s₀.Keeps s) :
    s₀.Keeps (State.pdmInputs inp s) := by
  unfold State.pdmInputs
  try dsimp only
  repeat' first
    | with_reducible assumption
    | with_reducible apply State.modAudio_keeps

theorem State.acapBegin_keeps {s₀ : State} (b : Nat) (course : Course) {s : State} (h : s₀.Keeps s) :
    s₀.Keeps (State.acapBegin b course s) := by
  unfold State.acapBegin
  try dsimp only
  repeat' first
    | with_reducible assumption
    | with_reducible apply State.modACap_keeps
    | with_reducible apply State.noteAssetRead_keeps
    | with_reducible apply State.atlasFault_keeps
    | split

theorem State.acapFlush_keeps {s₀ : State} (b : Nat) (all : Bool) (a : Nat) {a1 : State} (h : s₀.Keeps a1) :
    s₀.Keeps (State.acapFlush b all a a1) := by
  induction a generalizing a1 b all with
  | zero =>
    unfold State.acapFlush
    try dsimp only
    repeat' first
      | with_reducible assumption
      | with_reducible apply State.modACap_keeps
      | with_reducible apply State.assetWrite_keeps
      | with_reducible apply State.atlasFault_keeps
      | split
  | succ k ih =>
    unfold State.acapFlush
    try dsimp only
    repeat' first
      | with_reducible apply ih
      | with_reducible assumption
      | with_reducible apply State.modACap_keeps
      | with_reducible apply State.assetWrite_keeps
      | with_reducible apply State.atlasFault_keeps
      | split

theorem State.runCapture_keeps {s₀ : State} (b : Nat) (course : Course) {s : State} (h : s₀.Keeps s) :
    s₀.Keeps (State.runCapture b course s) := by
  unfold State.runCapture
  try dsimp only
  repeat' first
    | with_reducible assumption
    | with_reducible apply State.acapBegin_keeps
    | with_reducible apply State.acapFlush_keeps
    | with_reducible apply State.modACap_keeps
    | with_reducible apply State.acapEvent_keeps
    | with_reducible apply State.acapStop_keeps
    | split

theorem State.courseBoundary_keeps {s₀ : State} (c : Nat) (inp : CourseInput) {s : State} (h : s₀.Keeps s) :
    s₀.Keeps (State.courseBoundary c inp s) := by
  unfold State.courseBoundary
  try dsimp only
  repeat' first
    | with_reducible assumption
    | with_reducible apply State.pruneSamples_keeps
    | with_reducible apply State.runAvtp_keeps
    | with_reducible apply State.runBuses_keeps
    | with_reducible apply State.runTdm_keeps
    | with_reducible apply State.audioCommands_keeps
    | with_reducible apply State.runLanes_keeps
    | with_reducible apply State.tdmInputs_keeps
    | with_reducible apply State.modAudio_keeps
    | with_reducible apply State.flushReports_keeps
    | with_reducible apply State.pdmInputs_keeps
    | with_reducible apply State.runVoice_keeps
    | with_reducible apply State.runCapture_keeps
    | with_reducible apply State.Keeps.foldl_fst
    | with_reducible apply State.Keeps.foldl
    | intro _
    | split

theorem State.meterWindow_keeps {s₀ : State} (c : Nat) {s : State} (h : s₀.Keeps s) :
    s₀.Keeps (State.meterWindow c s) := by
  unfold State.meterWindow
  try dsimp only
  repeat' first
    | with_reducible assumption
    | with_reducible apply State.modAudio_keeps

theorem execMeterWindowEnd_keeps {s₀ : State} (dt : Nat) (c : Nat) {s : State} (h : s₀.Keeps s) :
    KeepsOut s₀ (execMeterWindowEnd dt c s) := by
  unfold execMeterWindowEnd
  try dsimp only
  repeat' first
    | with_reducible assumption
    | with_reducible apply State.meterWindow_keeps
    | with_reducible apply State.tick_keeps
    | with_reducible apply KeepsOut.next

theorem State.laneRange_keeps {s₀ : State} (l : Nat) (ok : Bool) {s : State} (h : s₀.Keeps s) :
    s₀.Keeps (State.laneRange l ok s) := by
  unfold State.laneRange
  try dsimp only
  repeat' first
    | with_reducible assumption
    | with_reducible apply State.modLane_keeps
    | with_reducible apply State.portReport_keeps
    | split

theorem execBridgeLaneRangeTimeout_keeps {s₀ : State} (dt : Nat) (lane : Nat) (inRange : Bool) {s : State} (h : s₀.Keeps s) :
    KeepsOut s₀ (execBridgeLaneRangeTimeout dt lane inRange s) := by
  unfold execBridgeLaneRangeTimeout
  try dsimp only
  repeat' first
    | with_reducible assumption
    | with_reducible apply State.laneRange_keeps
    | with_reducible apply State.tick_keeps
    | with_reducible apply KeepsOut.next

theorem execAudioClockRelock_keeps {s₀ : State} (dt : Nat) (clock : Nat) {s : State} (h : s₀.Keeps s) :
    KeepsOut s₀ (execAudioClockRelock dt clock s) := by
  unfold execAudioClockRelock
  try dsimp only
  repeat' first
    | with_reducible assumption
    | with_reducible apply State.audioRelock_keeps
    | with_reducible apply State.tick_keeps
    | with_reducible apply KeepsOut.next

theorem execCourseSampleBoundary_keeps {s₀ : State} (dt : Nat) (c : Nat) (inp : CourseInput) {s : State} (h : s₀.Keeps s) :
    KeepsOut s₀ (execCourseSampleBoundary dt c inp s) := by
  unfold execCourseSampleBoundary
  try dsimp only
  repeat' first
    | with_reducible assumption
    | with_reducible apply State.courseBoundary_keeps
    | with_reducible apply State.tick_keeps
    | with_reducible apply State.advanced_keeps
    | with_reducible apply KeepsOut.next

theorem execAudioCaptureBlock_keeps {s₀ : State} (dt : Nat) (b : Nat) {s : State} (h : s₀.Keeps s) :
    KeepsOut s₀ (execAudioCaptureBlock dt b s) := by
  unfold execAudioCaptureBlock
  try dsimp only
  repeat' first
    | with_reducible assumption
    | with_reducible apply State.tick_keeps
    | with_reducible apply State.acapEvent_keeps
    | with_reducible apply State.advanced_keeps
    | with_reducible apply KeepsOut.next

theorem State.acapStall_keeps {s₀ : State} (b : Nat) {s : State} (h : s₀.Keeps s) :
    s₀.Keeps (State.acapStall b s) := by
  unfold State.acapStall
  try dsimp only
  repeat' first
    | with_reducible assumption
    | with_reducible apply State.modACap_keeps
    | split

theorem State.audioMeters_keeps {s₀ : State} {s : State} (h : s₀.Keeps s) :
    s₀.Keeps (State.audioMeters s) := by
  unfold State.audioMeters
  try dsimp only
  repeat' first
    | with_reducible assumption
    | with_reducible apply State.notify_keeps
    | with_reducible apply State.Keeps.foldl
    | intro _
    | split

theorem execAudioMeter_keeps {s₀ : State} (dt : Nat) {s : State} (h : s₀.Keeps s) :
    KeepsOut s₀ (execAudioMeter dt s) := by
  unfold execAudioMeter
  try dsimp only
  repeat' first
    | with_reducible assumption
    | with_reducible apply State.audioMeters_keeps
    | with_reducible apply State.tick_keeps
    | with_reducible apply KeepsOut.next

theorem execAvtpPacketReceive_keeps {s₀ : State} (dt : Nat) (stream : Nat) (ptime : Nat) (samples : List (List Int)) {s : State} (h : s₀.Keeps s) :
    KeepsOut s₀ (execAvtpPacketReceive dt stream ptime samples s) := by
  unfold execAvtpPacketReceive
  try dsimp only
  repeat' first
    | with_reducible assumption
    | with_reducible apply State.avtpPacket_keeps
    | with_reducible apply State.tick_keeps
    | with_reducible apply KeepsOut.next

theorem execAudioCaptureStall_keeps {s₀ : State} (dt : Nat) (b : Nat) {s : State} (h : s₀.Keeps s) :
    KeepsOut s₀ (execAudioCaptureStall dt b s) := by
  unfold execAudioCaptureStall
  try dsimp only
  repeat' first
    | with_reducible assumption
    | with_reducible apply State.acapStall_keeps
    | with_reducible apply State.tick_keeps
    | with_reducible apply KeepsOut.next

/-! ### AudioCmds -/

theorem State.audioWait_keeps {s₀ : State} (r : CmdRef) (course : Nat) (at_ : Option Meridian × Bool) (ws : List Word) (k : AudioChange) {s : State} (h : s₀.Keeps s) :
    KeepsCmd s₀ (State.audioWait r course at_ ws k s) := by
  unfold State.audioWait
  try dsimp only
  repeat' first
    | with_reducible assumption
    | with_reducible apply State.modAudio_keeps
    | with_reducible apply KeepsCmd.ok

theorem voiceCreateBody_keeps {s₀ : State} (c : Cmd) (r : CmdRef) {s : State} (h : s₀.Keeps s) :
    KeepsCmd s₀ (voiceCreateBody c r s) := by
  unfold voiceCreateBody
  try dsimp only
  repeat' first
    | with_reducible assumption
    | with_reducible apply State.audioWait_keeps
    | with_reducible apply State.modAudio_keeps
    | with_reducible apply State.modVoice_keeps
    | with_reducible apply KeepsCmd.bind
    | with_reducible apply KeepsCmd.error
    | intro _
    | split

theorem audioPortSetBody_keeps {s₀ : State} (c : Cmd) (r : CmdRef) {s : State} (h : s₀.Keeps s) :
    KeepsCmd s₀ (audioPortSetBody c r s) := by
  unfold audioPortSetBody
  try dsimp only
  repeat' first
    | with_reducible assumption
    | with_reducible apply State.audioWait_keeps
    | with_reducible apply State.modAudio_keeps
    | with_reducible apply KeepsCmd.bind
    | with_reducible apply KeepsCmd.ok
    | intro _
    | split

theorem busSetBody_keeps {s₀ : State} (c : Cmd) (r : CmdRef) {s : State} (h : s₀.Keeps s) :
    KeepsCmd s₀ (busSetBody c r s) := by
  unfold busSetBody
  try dsimp only
  repeat' first
    | with_reducible assumption
    | with_reducible apply State.audioWait_keeps
    | with_reducible apply State.modBus_keeps
    | with_reducible apply KeepsCmd.bind
    | with_reducible apply KeepsCmd.error
    | intro _
    | split

theorem avtpStreamSetBody_keeps {s₀ : State} (c : Cmd) (r : CmdRef) {s : State} (h : s₀.Keeps s) :
    KeepsCmd s₀ (avtpStreamSetBody c r s) := by
  unfold avtpStreamSetBody
  try dsimp only
  repeat' first
    | with_reducible assumption
    | with_reducible apply State.audioWait_keeps
    | with_reducible apply State.modAudio_keeps
    | with_reducible apply KeepsCmd.bind
    | with_reducible apply KeepsCmd.error
    | intro _
    | split

theorem audioCaptureStartBody_keeps {s₀ : State} (c : Cmd) (r : CmdRef) {s : State} (h : s₀.Keeps s) :
    KeepsCmd s₀ (audioCaptureStartBody c r s) := by
  unfold audioCaptureStartBody
  try dsimp only
  repeat' first
    | with_reducible assumption
    | with_reducible apply State.audioWait_keeps
    | with_reducible apply State.modACap_keeps
    | with_reducible apply State.modBus_keeps
    | with_reducible apply KeepsCmd.bind
    | with_reducible apply KeepsCmd.error
    | with_reducible apply KeepsCmd.ok
    | intro _
    | split

theorem voiceStartBody_keeps {s₀ : State} (c : Cmd) (r : CmdRef) {s : State} (h : s₀.Keeps s) :
    KeepsCmd s₀ (voiceStartBody c r s) := by
  unfold voiceStartBody
  try dsimp only
  repeat' first
    | with_reducible assumption
    | with_reducible apply State.audioWait_keeps
    | with_reducible apply KeepsCmd.bind
    | intro _

theorem bridgeSetBody_keeps {s₀ : State} (c : Cmd) (r : CmdRef) {s : State} (h : s₀.Keeps s) :
    KeepsCmd s₀ (bridgeSetBody c r s) := by
  unfold bridgeSetBody
  try dsimp only
  repeat' first
    | with_reducible assumption
    | with_reducible apply State.freeLane_keeps
    | with_reducible apply State.audioWait_keeps
    | with_reducible apply State.modLane_keeps
    | with_reducible apply KeepsCmd.bind
    | with_reducible apply KeepsCmd.error
    | intro _
    | split

theorem voiceSetBody_keeps {s₀ : State} (c : Cmd) (r : CmdRef) {s : State} (h : s₀.Keeps s) :
    KeepsCmd s₀ (voiceSetBody c r s) := by
  unfold voiceSetBody
  repeat' first
    | with_reducible assumption
    | (extract_lets +onlyGivenNames a; clear_value a)
    | with_reducible apply State.audioWait_keeps
    | with_reducible apply State.noteAssetRead_keeps
    | simp only [State.Keeps.upd_iff]
    | with_reducible apply KeepsCmd.bind
    | intro _
    | split

theorem voiceStopBody_keeps {s₀ : State} (c : Cmd) (r : CmdRef) {s : State} (h : s₀.Keeps s) :
    KeepsCmd s₀ (voiceStopBody c r s) := by
  unfold voiceStopBody
  try dsimp only
  repeat' first
    | with_reducible assumption
    | with_reducible apply State.audioWait_keeps
    | with_reducible apply KeepsCmd.bind
    | intro _

/-! ### Cartouche -/

theorem State.releaseReaction_keeps {s₀ : State} (p : Nat) {s : State} (h : s₀.Keeps s) :
    s₀.Keeps (State.releaseReaction p s) := by
  unfold State.releaseReaction
  try dsimp only
  repeat' first
    | with_reducible assumption
    | with_reducible apply State.settlePin_keeps
    | with_reducible apply State.modPin_keeps
    | with_reducible apply State.modDisp_keeps

theorem referenceSetBody_keeps {s₀ : State} (c : Cmd) (r : CmdRef) {s : State} (h : s₀.Keeps s) :
    KeepsCmd s₀ (referenceSetBody c r s) := by
  unfold referenceSetBody
  try dsimp only
  repeat' first
    | with_reducible assumption
    | with_reducible apply State.noteAssetRead_keeps
    | with_reducible apply State.modHead_keeps
    | with_reducible apply KeepsCmd.bind
    | with_reducible apply KeepsCmd.ok
    | intro _

theorem State.fillPages_keeps {s₀ : State} (ps : List Nat) (data : List Byte) {s : State} (h : s₀.Keeps s) :
    s₀.Keeps (State.fillPages ps data s) := by
  unfold State.fillPages
  try dsimp only
  repeat' first
    | with_reducible assumption
    | with_reducible apply State.physWrite_keeps
    | with_reducible apply State.Keeps.foldl
    | intro _

theorem State.loadDone_keeps {s₀ : State} (l : CLoad) {s : State} (h : s₀.Keeps s) :
    s₀.Keeps (State.loadDone l s) := by
  unfold State.loadDone
  try dsimp only
  repeat' first
    | with_reducible assumption
    | with_reducible apply State.setStage_keeps
    | with_reducible apply State.completeOk_keeps
    | with_reducible apply State.modDisp_keeps
    | with_reducible apply State.finishReplaces_keeps
    | with_reducible apply State.fillPages_keeps
    | split

theorem State.releaseImage_keeps {s₀ : State} (i : Nat) {s : State} (h : s₀.Keeps s) :
    s₀.Keeps (State.releaseImage i s) := by
  unfold State.releaseImage
  try dsimp only
  repeat' first
    | with_reducible assumption
    | with_reducible apply State.completeOk_keeps
    | with_reducible apply State.modDisp_keeps
    | with_reducible apply State.Keeps.foldl
    | intro _

theorem cartoucheImageLoadBody_keeps {s₀ : State} (c : Cmd) (r : CmdRef) {s : State} (h : s₀.Keeps s) :
    KeepsCmd s₀ (cartoucheImageLoadBody c r s) := by
  unfold cartoucheImageLoadBody
  try dsimp only
  repeat' first
    | with_reducible assumption
    | with_reducible apply okDone_keeps
    | with_reducible apply State.releaseImage_keeps
    | with_reducible apply State.noteAssetRead_keeps
    | with_reducible apply State.modDisp_keeps
    | with_reducible apply KeepsCmd.bind
    | with_reducible apply KeepsCmd.error
    | with_reducible apply KeepsCmd.ok
    | intro _
    | split

theorem cartoucheCellSetBody_keeps {s₀ : State} (c : Cmd) (r : CmdRef) {s : State} (h : s₀.Keeps s) :
    KeepsCmd s₀ (cartoucheCellSetBody c r s) := by
  unfold cartoucheCellSetBody
  try dsimp only
  repeat' first
    | with_reducible assumption
    | with_reducible apply State.endStill_keeps
    | with_reducible apply State.modHead_keeps
    | with_reducible apply KeepsCmd.bind
    | with_reducible apply KeepsCmd.error
    | with_reducible apply KeepsCmd.ok
    | intro _
    | split

theorem watchRegionSetBody_keeps {s₀ : State} (c : Cmd) (r : CmdRef) {s : State} (h : s₀.Keeps s) :
    KeepsCmd s₀ (watchRegionSetBody c r s) := by
  unfold watchRegionSetBody
  try dsimp only
  repeat' first
    | with_reducible assumption
    | with_reducible apply State.modHead_keeps
    | with_reducible apply KeepsCmd.bind
    | with_reducible apply KeepsCmd.ok
    | intro _

theorem faultReactionSetBody_keeps {s₀ : State} (c : Cmd) (a : CmdRef) {s : State} (h : s₀.Keeps s) :
    KeepsCmd s₀ (faultReactionSetBody c a s) := by
  unfold faultReactionSetBody
  try dsimp only
  repeat' first
    | with_reducible assumption
    | with_reducible apply okDone_keeps
    | with_reducible apply State.releaseReaction_keeps
    | with_reducible apply State.modHead_keeps
    | with_reducible apply KeepsCmd.bind
    | intro _
    | split

theorem cartoucheVoiceSetBody_keeps {s₀ : State} (c : Cmd) (r : CmdRef) {s : State} (h : s₀.Keeps s) :
    KeepsCmd s₀ (cartoucheVoiceSetBody c r s) := by
  unfold cartoucheVoiceSetBody
  try dsimp only
  repeat' first
    | with_reducible assumption
    | with_reducible apply okDone_keeps
    | with_reducible apply State.noteAssetRead_keeps
    | with_reducible apply State.modDisp_keeps
    | with_reducible apply KeepsCmd.bind
    | with_reducible apply KeepsCmd.error
    | with_reducible apply KeepsCmd.ok
    | intro _
    | split

end Sys2Proof.Machine
end

