-- ==== Sys2Proof/Laws/KeepsSystem.lean ====
section
/-! SUPPORT. What the operations and meanings keep: clocks, modes, TISA cores, the Pegbox and start-up. Each lemma goes over the branches
of one definition and cites the lemmas of what it calls. -/

namespace Sys2Proof.Machine

open Sys2Proof

/-! ### Clocks -/

theorem State.measure_keeps {s₀ : State} (r : CmdRef) (ref : Nat) (cycles : Nat) {s : State} (h : s₀.Keeps s) :
    s₀.Keeps (State.measure r ref cycles s) := by
  unfold State.measure
  try dsimp only
  repeat' first
    | with_reducible assumption
    | with_reducible apply State.fresh_keeps
    | with_reducible apply State.completeOk_keeps

theorem State.runMeasures_keeps {s₀ : State} {s : State} (h : s₀.Keeps s) :
    s₀.Keeps (State.runMeasures s) := by
  unfold State.runMeasures
  try dsimp only
  repeat' first
    | with_reducible assumption
    | with_reducible apply State.measure_keeps
    | simp only [State.Keeps.upd_iff]
    | with_reducible apply State.Keeps.foldl
    | intro _

theorem State.clockFault_keeps {s₀ : State} (i : Nat) (back : Nat) {s : State} (h : s₀.Keeps s) :
    s₀.Keeps (State.clockFault i back s) := by
  unfold State.clockFault
  try dsimp only
  repeat' first
    | with_reducible assumption
    | with_reducible apply State.event_keeps

theorem State.refReturn_keeps {s₀ : State} (r : ClockRef) {s : State} (h : s₀.Keeps s) :
    s₀.Keeps (State.refReturn r s) := by
  unfold State.refReturn
  try dsimp only
  repeat' first
    | with_reducible assumption
    | with_reducible apply State.clockFault_keeps
    | simp only [State.Keeps.upd_iff]
    | with_reducible apply State.Keeps.foldl
    | intro _
    | split

theorem execClockReferenceReturn_keeps {s₀ : State} (dt : Nat) (r : ClockRef) {s : State} (h : s₀.Keeps s) :
    KeepsOut s₀ (execClockReferenceReturn dt r s) := by
  unfold execClockReferenceReturn
  try dsimp only
  repeat' first
    | with_reducible assumption
    | with_reducible apply State.tick_keeps
    | with_reducible apply State.refReturn_keeps
    | with_reducible apply KeepsOut.next

theorem clockMeasureBody_keeps {s₀ : State} (c : Cmd) (r : CmdRef) {s : State} (h : s₀.Keeps s) :
    KeepsCmd s₀ (clockMeasureBody c r s) := by
  unfold clockMeasureBody
  try dsimp only
  repeat' first
    | with_reducible assumption
    | with_reducible apply State.measure_keeps
    | simp only [State.Keeps.upd_iff]
    | with_reducible apply KeepsCmd.bind
    | with_reducible apply KeepsCmd.ok
    | intro _
    | split

theorem State.refLost_keeps {s₀ : State} (r : ClockRef) {s : State} (h : s₀.Keeps s) :
    s₀.Keeps (State.refLost r s) := by
  unfold State.refLost
  try dsimp only
  repeat' first
    | with_reducible assumption
    | with_reducible apply State.hwMark_keeps
    | with_reducible apply State.clockFault_keeps
    | simp only [State.Keeps.upd_in_iff]
    | with_reducible apply State.Keeps.foldl
    | intro _
    | split

theorem execClockReferenceLost_keeps {s₀ : State} (dt : Nat) (r : ClockRef) {s : State} (h : s₀.Keeps s) :
    KeepsOut s₀ (execClockReferenceLost dt r s) := by
  unfold execClockReferenceLost
  try dsimp only
  repeat' first
    | with_reducible assumption
    | with_reducible apply State.tick_keeps
    | with_reducible apply State.refLost_keeps
    | with_reducible apply KeepsOut.next

/-! ### Maintenance -/

theorem maintenanceSetBody_keeps {s₀ : State} (c : Cmd) (r : CmdRef) {s : State} (h : s₀.Keeps s) :
    KeepsCmd s₀ (maintenanceSetBody c r s) := by
  unfold maintenanceSetBody
  try dsimp only
  repeat' first
    | with_reducible assumption
    | with_reducible apply okDone_keeps
    | with_reducible apply State.modActivity_keeps
    | with_reducible apply State.activityDue_keeps
    | with_reducible apply KeepsCmd.bind
    | with_reducible apply KeepsCmd.ok
    | intro _
    | split

theorem State.latentFault_keeps {s₀ : State} (hq : Nat) {s : State} (h : s₀.Keeps s) :
    s₀.Keeps (State.latentFault hq s) := by
  unfold State.latentFault
  try dsimp only
  repeat' first
    | with_reducible assumption
    | with_reducible apply State.fresh_keeps
    | with_reducible apply State.event_keeps

theorem State.activityEffect_keeps {s₀ : State} (a : Nat) (pass : Bool) (heads : List Nat) (cluster : Option Nat) {s : State} (h : s₀.Keeps s) :
    s₀.Keeps (State.activityEffect a pass heads cluster s) := by
  unfold State.activityEffect
  try dsimp only
  repeat' first
    | with_reducible assumption
    | with_reducible apply State.runMeasures_keeps
    | with_reducible apply State.setService_keeps
    | with_reducible apply State.devEvent_keeps
    | with_reducible apply State.latentFault_keeps
    | simp only [State.Keeps.upd_in_iff]
    | with_reducible apply State.Keeps.foldl
    | intro _
    | split

theorem State.selfTestEnd_keeps {s₀ : State} (n : Nat) (pass : Bool) {s : State} (h : s₀.Keeps s) :
    s₀.Keeps (State.selfTestEnd n pass s) := by
  unfold State.selfTestEnd
  try dsimp only
  repeat' first
    | with_reducible assumption
    | with_reducible apply State.modCluster_keeps
    | with_reducible apply State.giveSpare_keeps
    | with_reducible apply State.modActivity_keeps
    | with_reducible apply State.setService_keeps
    | with_reducible apply State.startQueued_keeps
    | with_reducible apply State.orderEvent_keeps
    | split

theorem execClusterSelfTestEnd_keeps {s₀ : State} (dt : Nat) (n : Nat) (pass : Bool) {s : State} (h : s₀.Keeps s) :
    KeepsOut s₀ (execClusterSelfTestEnd dt n pass s) := by
  unfold execClusterSelfTestEnd
  try dsimp only
  repeat' first
    | with_reducible assumption
    | with_reducible apply State.selfTestEnd_keeps
    | with_reducible apply State.tick_keeps
    | with_reducible apply KeepsOut.next

theorem State.heartbeat_keeps {s₀ : State} (n : Nat) (good : Bool) {s : State} (h : s₀.Keeps s) :
    s₀.Keeps (State.heartbeat n good s) := by
  unfold State.heartbeat
  try dsimp only
  repeat' first
    | with_reducible assumption
    | with_reducible apply State.modCluster_keeps
    | with_reducible apply State.declareDead_keeps
    | split

theorem execHeartbeatPeriodEnd_keeps {s₀ : State} (dt : Nat) (n : Nat) (onTime : Bool) (healthy : Bool) {s : State} (h : s₀.Keeps s) :
    KeepsOut s₀ (execHeartbeatPeriodEnd dt n onTime healthy s) := by
  unfold execHeartbeatPeriodEnd
  try dsimp only
  repeat' first
    | with_reducible assumption
    | with_reducible apply State.heartbeat_keeps
    | with_reducible apply State.tick_keeps
    | with_reducible apply KeepsOut.next

theorem State.maintenanceDue_keeps {s₀ : State} (a : Nat) {s : State} (h : s₀.Keeps s) :
    s₀.Keeps (State.maintenanceDue a s) := by
  unfold State.maintenanceDue
  try dsimp only
  repeat' first
    | with_reducible assumption
    | with_reducible apply State.activityDue_keeps
    | split

theorem execMaintenanceActivityDue_keeps {s₀ : State} (dt : Nat) (a : Nat) {s : State} (h : s₀.Keeps s) :
    KeepsOut s₀ (execMaintenanceActivityDue dt a s) := by
  unfold execMaintenanceActivityDue
  try dsimp only
  repeat' first
    | with_reducible assumption
    | with_reducible apply State.maintenanceDue_keeps
    | with_reducible apply State.tick_keeps
    | with_reducible apply KeepsOut.next

theorem State.maintenanceEnd_keeps {s₀ : State} (a : Nat) (pass : Bool) (heads : List Nat) {s : State} (h : s₀.Keeps s) :
    s₀.Keeps (State.maintenanceEnd a pass heads s) := by
  unfold State.maintenanceEnd
  try dsimp only
  repeat' first
    | with_reducible assumption
    | with_reducible apply State.modActivity_keeps
    | with_reducible apply State.startQueued_keeps
    | with_reducible apply State.completeOk_keeps
    | with_reducible apply State.orderEvent_keeps
    | with_reducible apply State.activityEffect_keeps
    | with_reducible apply State.Keeps.foldl
    | intro _
    | split

theorem execMaintenanceActivityEnd_keeps {s₀ : State} (dt : Nat) (a : Nat) (e : ActivityEnd) {s : State} (h : s₀.Keeps s) :
    KeepsOut s₀ (execMaintenanceActivityEnd dt a e s) := by
  unfold execMaintenanceActivityEnd
  try dsimp only
  repeat' first
    | with_reducible assumption
    | with_reducible apply State.maintenanceEnd_keeps
    | with_reducible apply State.tick_keeps
    | with_reducible apply KeepsOut.next

theorem powerPolicySetBody_keeps {s₀ : State} (c : Cmd) (a : CmdRef) {s : State} (h : s₀.Keeps s) :
    KeepsCmd s₀ (powerPolicySetBody c a s) := by
  unfold powerPolicySetBody
  try dsimp only
  repeat' first
    | with_reducible assumption
    | with_reducible apply okDone_keeps
    | with_reducible apply State.modDisp_keeps
    | with_reducible apply KeepsCmd.bind
    | intro _

theorem State.legendUpdate_keeps {s₀ : State} {s : State} (h : s₀.Keeps s) :
    s₀.Keeps (State.legendUpdate s) := by
  unfold State.legendUpdate
  try dsimp only
  repeat' first
    | with_reducible assumption
    | with_reducible apply State.notify_keeps
    | with_reducible apply State.devEvent_keeps
    | simp only [State.Keeps.upd_iff]
    | split

theorem execLegendUpdate_keeps {s₀ : State} (dt : Nat) {s : State} (h : s₀.Keeps s) :
    KeepsOut s₀ (execLegendUpdate dt s) := by
  unfold execLegendUpdate
  try dsimp only
  repeat' first
    | with_reducible assumption
    | with_reducible apply State.legendUpdate_keeps
    | with_reducible apply State.tick_keeps
    | with_reducible apply KeepsOut.next

theorem governorQueryBody_keeps {s₀ : State} (c : Cmd) (a : CmdRef) {s : State} (h : s₀.Keeps s) :
    KeepsCmd s₀ (governorQueryBody c a s) := by
  unfold governorQueryBody
  try dsimp only
  repeat' first
    | with_reducible assumption
    | with_reducible apply okDone_keeps
    | with_reducible apply KeepsCmd.bind
    | intro _

theorem headPrioritySetBody_keeps {s₀ : State} (c : Cmd) (a : CmdRef) {s : State} (h : s₀.Keeps s) :
    KeepsCmd s₀ (headPrioritySetBody c a s) := by
  unfold headPrioritySetBody
  try dsimp only
  repeat' first
    | with_reducible assumption
    | with_reducible apply okDone_keeps
    | with_reducible apply State.modHead_keeps
    | with_reducible apply KeepsCmd.bind
    | intro _

/-! ### Modes -/

theorem State.floatPins_keeps {s₀ : State} (on : Bool) {s : State} (h : s₀.Keeps s) :
    s₀.Keeps (State.floatPins on s) := by
  unfold State.floatPins
  try dsimp only
  repeat' first
    | with_reducible assumption
    | simp only [State.Keeps.upd_iff]
    | split

theorem State.wakeInto_keeps {s₀ : State} (new : Mode) {s : State} (h : s₀.Keeps s) :
    s₀.Keeps (State.wakeInto new s) := by
  unfold State.wakeInto
  try dsimp only
  repeat' first
    | with_reducible assumption
    | with_reducible apply State.floatPins_keeps
    | simp only [State.Keeps.upd_iff]

theorem State.resumeMeridian_keeps {s₀ : State} {s : State} (h : s₀.Keeps s) :
    s₀.Keeps (State.resumeMeridian s) := by
  unfold State.resumeMeridian
  try dsimp only
  repeat' first
    | with_reducible assumption
    | simp only [State.Keeps.upd_iff]
    | split

theorem State.restartHead_keeps {s₀ : State} (hq : Nat) {s : State} (h : s₀.Keeps s) :
    s₀.Keeps (State.restartHead hq s) := by
  unfold State.restartHead
  try dsimp only
  repeat' first
    | with_reducible assumption
    | with_reducible apply State.modPort_keeps
    | with_reducible apply State.nextRoute_keeps
    | with_reducible apply State.modHead_keeps
    | with_reducible apply State.Keeps.foldl
    | intro _
    | split

theorem State.replayDoorbells_keeps {s₀ : State} {s : State} (h : s₀.Keeps s) :
    s₀.Keeps (State.replayDoorbells s) := by
  unfold State.replayDoorbells
  try dsimp only
  repeat' first
    | with_reducible assumption
    | with_reducible apply State.dbWrite_keeps
    | simp only [State.Keeps.upd_iff]
    | with_reducible apply State.Keeps.foldl
    | intro _

theorem State.sendPending_keeps {s₀ : State} {s : State} (h : s₀.Keeps s) :
    s₀.Keeps (State.sendPending s) := by
  unfold State.sendPending
  try dsimp only
  repeat' first
    | with_reducible assumption
    | with_reducible apply State.raiseVector_keeps
    | simp only [State.Keeps.upd_dev_iff]
    | with_reducible apply State.Keeps.foldl
    | intro _

theorem State.lateAlarm_keeps {s₀ : State} {s : State} (h : s₀.Keeps s) :
    s₀.Keeps (State.lateAlarm s) := by
  unfold State.lateAlarm
  try dsimp only
  repeat' first
    | with_reducible assumption
    | with_reducible apply State.modCal_keeps
    | with_reducible apply State.event_keeps
    | split

theorem State.afterSleep_keeps {s₀ : State} (new : Mode) {s : State} (h : s₀.Keeps s) :
    s₀.Keeps (State.afterSleep new s) := by
  unfold State.afterSleep
  try dsimp only
  repeat' first
    | with_reducible assumption
    | with_reducible apply State.startQueued_keeps
    | with_reducible apply State.restartHead_keeps
    | with_reducible apply State.replayDoorbells_keeps
    | with_reducible apply State.sendPending_keeps
    | with_reducible apply State.lateAlarm_keeps
    | with_reducible apply State.deliverCaught_keeps
    | with_reducible apply State.Keeps.foldl
    | intro _

theorem State.wakeCauseEvent_keeps {s₀ : State} {s : State} (h : s₀.Keeps s) :
    s₀.Keeps (State.wakeCauseEvent s) := by
  unfold State.wakeCauseEvent
  try dsimp only
  repeat' first
    | with_reducible assumption
    | with_reducible apply State.event_keeps

theorem State.catchUp_keeps {s₀ : State} {s : State} (h : s₀.Keeps s) :
    s₀.Keeps (State.catchUp s) := by
  unfold State.catchUp
  try dsimp only
  repeat' first
    | with_reducible assumption
    | simp only [State.Keeps.upd_in_iff]
    | split

theorem State.modeReport_keeps {s₀ : State} (old : Mode) (new : Mode) (cause : Nat) {s : State} (h : s₀.Keeps s) :
    s₀.Keeps (State.modeReport old new cause s) := by
  unfold State.modeReport
  try dsimp only
  repeat' first
    | with_reducible assumption
    | with_reducible apply State.notify_keeps
    | with_reducible apply State.devEvent_keeps
    | with_reducible apply State.event_keeps
    | simp only [State.Keeps.upd_iff]

theorem State.wakeTo_keeps {s₀ : State} (old : Mode) (new : Mode) {s : State} (h : s₀.Keeps s) :
    s₀.Keeps (State.wakeTo old new s) := by
  unfold State.wakeTo
  repeat' first
    | with_reducible assumption
    | (extract_lets +onlyGivenNames a; refine State.Keeps.cut (s₀ := s₀) (s := a) ?_ (fun ha => ?_); rotate_left; clear_value a; rotate_right; subst a)
    | (extract_lets +onlyGivenNames a; clear_value a)
    | with_reducible apply State.wakeInto_keeps
    | with_reducible apply State.resumeMeridian_keeps
    | with_reducible apply State.afterSleep_keeps
    | with_reducible apply State.wakeCauseEvent_keeps
    | with_reducible apply State.catchUp_keeps
    | with_reducible apply State.modeReport_keeps
    | simp only [State.Keeps.upd_iff]
    | split

theorem State.unlatch_keeps {s₀ : State} {s : State} (h : s₀.Keeps s) : s₀.Keeps (State.unlatch s) :=
  State.modPeg_keeps _ h rfl rfl rfl

theorem State.wakeComplete_keeps {s₀ : State} {s : State} (h : s₀.Keeps s) :
    s₀.Keeps (State.wakeComplete s) := by
  unfold State.wakeComplete
  repeat' first
    | with_reducible assumption
    | with_reducible rfl
    | (extract_lets +onlyGivenNames a; clear_value a)
    | with_reducible apply State.wakeTo_keeps
    | with_reducible apply State.unlatch_keeps
    | with_reducible apply State.modPeg_keeps
    | split

theorem State.armChange_keeps {s₀ : State} (kind : ArmKind) (old : List Nat) {s : State} (h : s₀.Keeps s) :
    s₀.Keeps (State.armChange kind old s) := by
  unfold State.armChange
  try dsimp only
  repeat' first
    | with_reducible assumption
    | with_reducible apply State.modDisp_keeps

theorem State.armMode_keeps {s₀ : State} (target : Mode) (cause : Nat) (ref : Option CmdRef) {s : State} (h : s₀.Keeps s) :
    s₀.Keeps (State.armMode target cause ref s) := by
  unfold State.armMode
  try dsimp only
  repeat' first
    | with_reducible assumption
    | with_reducible apply State.armChange_keeps
    | simp only [State.Keeps.upd_iff]

theorem serviceEnterBody_keeps {s₀ : State} (c : Cmd) (r : CmdRef) {s : State} (h : s₀.Keeps s) :
    KeepsCmd s₀ (serviceEnterBody c r s) := by
  unfold serviceEnterBody
  try dsimp only
  repeat' first
    | with_reducible assumption
    | with_reducible apply State.armMode_keeps
    | with_reducible apply KeepsCmd.bind
    | with_reducible apply KeepsCmd.ok
    | intro _

theorem State.serviceReleased_keeps {s₀ : State} {s : State} (h : s₀.Keeps s) :
    s₀.Keeps (State.serviceReleased s) := by
  unfold State.serviceReleased
  try dsimp only
  repeat' first
    | with_reducible assumption
    | with_reducible apply State.armMode_keeps
    | split

theorem execServiceNReleaseTimeout_keeps {s₀ : State} (dt : Nat) {s : State} (h : s₀.Keeps s) :
    KeepsOut s₀ (execServiceNReleaseTimeout dt s) := by
  unfold execServiceNReleaseTimeout
  try dsimp only
  repeat' first
    | with_reducible assumption
    | with_reducible apply State.tick_keeps
    | with_reducible apply State.serviceReleased_keeps
    | with_reducible apply KeepsOut.next

theorem State.beginWake_keeps {s₀ : State} {s : State} (h : s₀.Keeps s) :
    s₀.Keeps (State.beginWake s) := by
  unfold State.beginWake
  try dsimp only
  repeat' first
    | with_reducible assumption
    | simp only [State.Keeps.upd_iff]
    | split

theorem State.joinWake_keeps {s₀ : State} (m : Nat) (bit : Nat) {s : State} (h : s₀.Keeps s) :
    s₀.Keeps (State.joinWake m bit s) := by
  unfold State.joinWake
  try dsimp only
  repeat' first
    | with_reducible assumption
    | with_reducible rfl
    | with_reducible apply State.beginWake_keeps
    | with_reducible apply State.modPeg_keeps
    | with_reducible apply State.armMode_keeps
    | split

theorem State.dropModeArm_keeps {s₀ : State} {s : State} (h : s₀.Keeps s) :
    s₀.Keeps (State.dropModeArm s) := by
  unfold State.dropModeArm
  try dsimp only
  repeat' first
    | with_reducible assumption
    | with_reducible apply State.modDisp_keeps

theorem State.cancelSleep_keeps {s₀ : State} {s : State} (h : s₀.Keeps s) :
    s₀.Keeps (State.cancelSleep s) := by
  unfold State.cancelSleep
  try dsimp only
  repeat' first
    | with_reducible assumption
    | with_reducible apply State.complete_keeps
    | with_reducible apply State.dropModeArm_keeps
    | simp only [State.Keeps.upd_iff]
    | split

theorem State.wakeRequest_keeps {s₀ : State} (src : Nat) (mode : Nat) {s : State} (h : s₀.Keeps s) :
    s₀.Keeps (State.wakeRequest src mode s) := by
  unfold State.wakeRequest
  repeat' first
    | with_reducible assumption
    | with_reducible rfl
    | with_reducible apply State.joinWake_keeps
    | with_reducible apply State.hwMark_keeps
    | with_reducible apply State.cancelSleep_keeps
    | with_reducible apply State.modPeg_keeps

theorem State.sourceWake_keeps {s₀ : State} (src : Nat) {s : State} (h : s₀.Keeps s) :
    s₀.Keeps (State.sourceWake src s) := by
  unfold State.sourceWake
  try dsimp only
  repeat' first
    | with_reducible assumption
    | with_reducible apply State.wakeRequest_keeps
    | split

theorem State.closeSessions_keeps {s₀ : State} (which : Nat → Thread → Bool) {s : State} (h : s₀.Keeps s) :
    s₀.Keeps (State.closeSessions which s) := by
  unfold State.closeSessions
  try dsimp only
  repeat' first
    | with_reducible assumption
    | with_reducible apply State.completeOk_keeps
    | simp only [State.Keeps.upd_iff]
    | with_reducible apply State.Keeps.foldl
    | intro _

theorem State.leaveService_keeps {s₀ : State} (old : Mode) (new : Mode) {s : State} (h : s₀.Keeps s) :
    s₀.Keeps (State.leaveService old new s) := by
  unfold State.leaveService
  try dsimp only
  repeat' first
    | with_reducible assumption
    | simp only [State.Keeps.upd_in_iff]
    | split

theorem State.forceDue_keeps {s₀ : State} {s : State} (h : s₀.Keeps s) :
    s₀.Keeps (State.forceDue s) := by
  unfold State.forceDue
  try dsimp only
  repeat' first
    | with_reducible assumption
    | with_reducible apply State.armMode_keeps
    | simp only [State.Keeps.upd_iff]
    | split

theorem State.leaveStill_keeps {s₀ : State} (hq : Nat) {s : State} (h : s₀.Keeps s) :
    s₀.Keeps (State.leaveStill hq s) := by
  unfold State.leaveStill
  try dsimp only
  repeat' first
    | with_reducible assumption
    | with_reducible apply State.modHead_keeps

theorem State.takeMode_keeps {s₀ : State} (m : ModeChange) {s : State} (h : s₀.Keeps s) :
    s₀.Keeps (State.takeMode m s) := by
  unfold State.takeMode
  try dsimp only
  repeat' first
    | with_reducible assumption
    | with_reducible apply State.dropModeArm_keeps
    | simp only [State.Keeps.upd_in_iff]

theorem State.enterMode_keeps {s₀ : State} (m : ModeChange) {s : State} (h : s₀.Keeps s) :
    s₀.Keeps (State.enterMode m s) := by
  unfold State.enterMode
  try dsimp only
  repeat' first
    | with_reducible assumption
    | with_reducible apply State.beginWake_keeps
    | with_reducible apply State.floatPins_keeps
    | with_reducible apply State.leaveService_keeps
    | with_reducible apply State.stopActivities_keeps
    | with_reducible apply State.forceDue_keeps
    | with_reducible apply State.startQueued_keeps
    | with_reducible apply State.restartHead_keeps
    | with_reducible apply State.leaveStill_keeps
    | with_reducible apply State.completeOk_keeps
    | with_reducible apply State.takeMode_keeps
    | with_reducible apply State.modeReport_keeps
    | with_reducible apply State.wakeCauseEvent_keeps
    | with_reducible apply State.unlatch_keeps
    | simp only [State.Keeps.upd_iff]
    | with_reducible apply State.Keeps.foldl
    | intro _
    | split

theorem State.modeReached_keeps {s₀ : State} {s : State} (h : s₀.Keeps s) :
    s₀.Keeps (State.modeReached s) := by
  unfold State.modeReached
  try dsimp only
  repeat' first
    | with_reducible assumption
    | with_reducible apply State.enterMode_keeps
    | with_reducible apply State.beginWake_keeps
    | with_reducible apply State.floatPins_keeps
    | with_reducible apply State.leaveService_keeps
    | with_reducible apply State.stopActivities_keeps
    | with_reducible apply State.forceDue_keeps
    | with_reducible apply State.startQueued_keeps
    | with_reducible apply State.restartHead_keeps
    | with_reducible apply State.leaveStill_keeps
    | with_reducible apply State.completeOk_keeps
    | with_reducible apply State.takeMode_keeps
    | with_reducible apply State.modeReport_keeps
    | with_reducible apply State.wakeCauseEvent_keeps
    | with_reducible apply State.unlatch_keeps
    | simp only [State.Keeps.upd_iff]
    | with_reducible apply State.Keeps.foldl
    | intro _
    | split

theorem modeSetBody_keeps {s₀ : State} (c : Cmd) (r : CmdRef) {s : State} (h : s₀.Keeps s) :
    KeepsCmd s₀ (modeSetBody c r s) := by
  unfold modeSetBody
  try dsimp only
  repeat' first
    | with_reducible assumption
    | with_reducible apply okDone_keeps
    | with_reducible apply State.armMode_keeps
    | simp only [State.Keeps.upd_iff]
    | with_reducible apply KeepsCmd.bind
    | with_reducible apply KeepsCmd.ok
    | intro _
    | split

theorem State.stopSoon_keeps {s₀ : State} (hq : Nat) {s : State} (h : s₀.Keeps s) :
    s₀.Keeps (State.stopSoon hq s) := by
  unfold State.stopSoon
  try dsimp only
  repeat' first
    | with_reducible assumption
    | with_reducible apply State.modHead_keeps
    | with_reducible apply State.stopHead_keeps
    | split

theorem State.endGrants_keeps {s₀ : State} {s : State} (h : s₀.Keeps s) :
    s₀.Keeps (State.endGrants s) := by
  unfold State.endGrants
  try dsimp only
  repeat' first
    | with_reducible assumption
    | with_reducible apply State.closeSessions_keeps
    | simp only [State.Keeps.upd_in_iff]

theorem State.applyMode_keeps {s₀ : State} (m : ModeChange) {s : State} (h : s₀.Keeps s) :
    s₀.Keeps (State.applyMode m s) := by
  unfold State.applyMode
  try dsimp only
  repeat' first
    | with_reducible assumption
    | with_reducible apply State.writeHeld_keeps
    | with_reducible apply State.stopSoon_keeps
    | with_reducible apply State.stopActivities_keeps
    | with_reducible apply State.complete_keeps
    | with_reducible apply State.dropModeArm_keeps
    | with_reducible apply State.completeOk_keeps
    | with_reducible apply State.endGrants_keeps
    | with_reducible apply State.sleepWhenStopped_keeps
    | simp only [State.Keeps.upd_iff]
    | with_reducible apply State.Keeps.foldl
    | intro _
    | split

/-! ### Tisa -/

theorem State.setCpRegs_keeps {s₀ : State} (r : TRegs) {s : State} (h : s₀.Keeps s) :
    s₀.Keeps (State.setCpRegs r s) := by
  unfold State.setCpRegs
  try dsimp only
  repeat' first
    | with_reducible assumption
    | simp only [State.Keeps.upd_iff]

theorem State.cpFault_keeps {s₀ : State} (cause : Nat) {s : State} (h : s₀.Keeps s) :
    s₀.Keeps (State.cpFault cause s) := by
  unfold State.cpFault
  try dsimp only
  repeat' first
    | with_reducible assumption
    | with_reducible apply State.setCpRegs_keeps
    | with_reducible apply State.devEvent_keeps

theorem State.pegFault_keeps {s₀ : State} (cause : Nat) {s : State} (h : s₀.Keeps s) :
    s₀.Keeps (State.pegFault cause s) := by
  unfold State.pegFault
  try dsimp only
  repeat' first
    | with_reducible assumption
    | with_reducible apply State.event_keeps
    | simp only [State.Keeps.upd_in_iff]

theorem State.pegStore_keeps {s₀ s : State} (a : Nat) (b : Byte) (h : s₀.Keeps s) : s₀.Keeps (s.pegStore a b) := by
  unfold State.pegStore
  dsimp only
  split
  · refine h.memory rfl rfl rfl rfl ?_
    simp only [State.memWf_iff]
    exact fun w => ⟨w.1, w.2.1, w.2.2.1, Mem.wf_write w.2.2.2.1 _ _, w.2.2.2.2⟩
  · split
    · exact State.Keeps.ite h (State.wakeRequest_keeps _ _ h)
    · split
      · exact h.memory rfl rfl rfl rfl (fun w => w)
      · split
        · exact h.memory rfl rfl rfl rfl (fun w => w)
        · exact h

theorem State.setPegRegs_keeps {s₀ : State} (r : TRegs) {s : State} (h : s₀.Keeps s) :
    s₀.Keeps (State.setPegRegs r s) := by
  unfold State.setPegRegs
  try dsimp only
  repeat' first
    | with_reducible assumption
    | simp only [State.Keeps.upd_in_iff]

theorem State.pegRun_keeps {s₀ : State} (units : Nat) (w : Work) {s : State} (h : s₀.Keeps s) :
    s₀.Keeps (State.pegRun units w s) := by
  unfold State.pegRun
  try dsimp only
  repeat' first
    | with_reducible assumption
    | with_reducible apply State.pegFault_keeps
    | with_reducible apply State.pegStore_keeps
    | with_reducible apply State.setPegRegs_keeps
    | simp only [State.Keeps.upd_in_iff]
    | with_reducible apply State.Keeps.foldl
    | intro _
    | split

theorem State.pegIssue_keeps {s₀ : State} (units : Nat) (w : Work) {s : State} (h : s₀.Keeps s) :
    s₀.Keeps (State.pegIssue units w s) := by
  unfold State.pegIssue
  try dsimp only
  repeat' first
    | with_reducible assumption
    | with_reducible apply State.pegFault_keeps
    | with_reducible apply State.pegRun_keeps
    | split

theorem State.markIssue_keeps {s₀ : State} (hq : Nat) (slot : Nat) (wait : Nat) (k : Thread) {s : State} (h : s₀.Keeps s) :
    s₀.Keeps (State.markIssue hq slot wait k s) := by
  unfold State.markIssue
  try dsimp only
  repeat' first
    | with_reducible assumption
    | with_reducible apply State.modTabs_keeps

theorem State.sessionEnds_keeps {s₀ : State} (k : Thread) {s : State} (h : s₀.Keeps s) :
    s₀.Keeps (State.sessionEnds k s) := by
  unfold State.sessionEnds
  try dsimp only
  repeat' first
    | with_reducible assumption
    | with_reducible apply State.endDebug_keeps
    | with_reducible apply State.advanced_keeps
    | split

theorem State.faultThread_keeps {s₀ : State} (hq : Nat) (slot : Nat) (cause : Nat) {s : State} (h : s₀.Keeps s) :
    s₀.Keeps (State.faultThread hq slot cause s) := by
  unfold State.faultThread
  try dsimp only
  repeat' first
    | with_reducible assumption
    | with_reducible apply State.modThread_keeps
    | with_reducible apply State.tabFault_keeps
    | with_reducible apply State.sessionEnds_keeps
    | split

theorem State.overrun_keeps {s₀ : State} (hq : Nat) (slot : Nat) {s : State} (h : s₀.Keeps s) :
    s₀.Keeps (State.overrun hq slot s) := by
  unfold State.overrun
  try dsimp only
  repeat' first
    | with_reducible assumption
    | with_reducible apply State.modThread_keeps
    | with_reducible apply State.faultThread_keeps
    | with_reducible apply State.modHead_keeps
    | split

theorem State.haltThread_keeps {s₀ : State} (hq : Nat) (slot : Nat) (cause : Nat) {s : State} (h : s₀.Keeps s) :
    s₀.Keeps (State.haltThread hq slot cause s) := by
  unfold State.haltThread
  try dsimp only
  repeat' first
    | with_reducible assumption
    | with_reducible apply State.notify_keeps
    | with_reducible apply State.modThread_keeps
    | with_reducible apply State.sessionEnds_keeps
    | split

theorem State.tabWrite_keeps {s₀ : State} (hq : Nat) (slot : Nat) (k : Thread) (w : LWrite) {s : State} (h : s₀.Keeps s) :
    s₀.Keeps (State.tabWrite hq slot k w s) := by
  unfold State.tabWrite
  try dsimp only
  repeat' first
    | with_reducible assumption
    | with_reducible apply State.modThread_keeps
    | with_reducible apply State.modTabs_keeps
    | with_reducible apply State.modHead_keeps
    | split

theorem State.spotWrite_keeps {s₀ s : State} (xs : List Spot) (bs : List Byte) (h : s₀.Keeps s) :
    s₀.Keeps (s.spotWrite xs bs) := by
  induction xs generalizing s bs with
  | nil => exact h
  | cons x xs ih =>
    cases x
    all_goals first
      | exact h
      | exact ih _ (State.physStore_keeps _ _ _ h)

theorem State.setRegs_keeps {s₀ : State} (hq : Nat) (slot : Nat) (r : TRegs) {s : State} (h : s₀.Keeps s) :
    s₀.Keeps (State.setRegs hq slot r s) := by
  unfold State.setRegs
  try dsimp only
  repeat' first
    | with_reducible assumption
    | with_reducible apply State.modThread_keeps

theorem State.tabSimple_keeps {s₀ : State} (hq : Nat) (slot : Nat) (k : Thread) (c : Ctx) (w : Work) {s : State} (h : s₀.Keeps s) :
    KeepsExc s₀ (State.tabSimple hq slot k c w s) := by
  unfold State.tabSimple
  try dsimp only
  repeat' first
    | with_reducible assumption
    | with_reducible apply State.tabWrite_keeps
    | with_reducible apply State.spotWrite_keeps
    | with_reducible apply State.setRegs_keeps
    | with_reducible exact KeepsExc.error
    | with_reducible apply KeepsExc.ok
    | split

theorem State.microPush_keeps {s₀ : State} (hq : Nat) (slot : Nat) (k : Thread) (v : Word) {s : State} (h : s₀.Keeps s) :
    s₀.Keeps (State.microPush hq slot k v s) := by
  unfold State.microPush
  try dsimp only
  repeat' first
    | with_reducible assumption
    | with_reducible apply State.setRegs_keeps
    | split

theorem State.microRun_keeps {s₀ s : State} (hd slot : Nat) (imm ext : Word) (trial : Bool) (us : List Word) (skip n : Nat)
    (h : s₀.Keeps s) : s₀.Keeps (s.microRun hd slot imm ext trial us skip n).1 := by
  induction us generalizing s skip n with
  | nil => exact h
  | cons u us ih =>
    cases skip with
    | succ k => exact ih _ _ h
    | zero =>
      unfold State.microRun
      dsimp only
      repeat' first
        | with_reducible assumption
        | with_reducible apply ih
        | with_reducible apply State.microPush_keeps
        | with_reducible apply State.modThread_keeps
        | with_reducible apply State.setRegs_keeps
        | with_reducible refine State.Keeps.of_ok (by with_reducible assumption) ?_
        | with_reducible apply State.tabSimple_keeps
        | split

theorem State.tabAfter_keeps {s₀ : State} (hq : Nat) (slot : Nat) {s : State} (h : s₀.Keeps s) :
    s₀.Keeps (State.tabAfter hq slot s) := by
  unfold State.tabAfter
  try dsimp only
  repeat' first
    | with_reducible assumption
    | with_reducible apply State.modThread_keeps
    | with_reducible apply State.haltThread_keeps
    | split

theorem State.microEnd_keeps {s₀ : State} (hd slot units : Nat) (x : State × Nat × MicroEnd) (h : s₀.Keeps x.1) :
    s₀.Keeps (State.microEnd hd slot units x) := by
  unfold State.microEnd
  split
  · exact State.tabAfter_keeps _ _ (State.modThread_keeps _ _ _ h)
  · exact State.modThread_keeps _ _ _ h
  · exact State.faultThread_keeps _ _ _ h

theorem State.tabRun_keeps {s₀ : State} (hq : Nat) (slot : Nat) (units : Nat) (k : Thread) (w : Work) {s : State} (h : s₀.Keeps s) :
    s₀.Keeps (State.tabRun hq slot units k w s) := by
  unfold State.tabRun
  try dsimp only
  repeat' first
    | with_reducible assumption
    | with_reducible apply State.modThread_keeps
    | with_reducible apply State.microRun_keeps
    | with_reducible apply State.microEnd_keeps
    | with_reducible apply State.faultThread_keeps
    | with_reducible apply State.tabSimple_keeps
    | with_reducible apply State.haltThread_keeps
    | with_reducible apply State.tabAfter_keeps
    | with_reducible apply State.setRegs_keeps
    | split
    | with_reducible refine State.Keeps.of_ok (by with_reducible assumption) ?_

theorem State.charge_keeps {s₀ : State} (hq : Nat) (slot : Nat) (n : Nat) {s : State} (h : s₀.Keeps s) :
    s₀.Keeps (State.charge hq slot n s) := by
  unfold State.charge
  try dsimp only
  repeat' first
    | with_reducible assumption
    | with_reducible apply State.modThread_keeps

theorem State.tabIssue_keeps {s₀ : State} (hq : Nat) (slot : Nat) (units : Nat) (cost : Nat) (w : Work) {s : State} (h : s₀.Keeps s) :
    s₀.Keeps (State.tabIssue hq slot units cost w s) := by
  unfold State.tabIssue
  try dsimp only
  repeat' first
    | with_reducible assumption
    | with_reducible apply State.markIssue_keeps
    | with_reducible apply State.overrun_keeps
    | with_reducible apply State.faultThread_keeps
    | with_reducible apply State.haltThread_keeps
    | with_reducible apply State.tabRun_keeps
    | with_reducible apply State.charge_keeps
    | split

theorem State.cpSpendStep_keeps {s₀ : State} {s : State} (h : s₀.Keeps s) :
    s₀.Keeps (State.cpSpendStep s) := by
  unfold State.cpSpendStep
  try dsimp only
  repeat' first
    | with_reducible assumption
    | simp only [State.Keeps.upd_in_iff]

theorem State.freshWords_keeps {s₀ : State} (a : Nat) {a1 : State} (h : s₀.Keeps a1) :
    s₀.Keeps (State.freshWords a a1).2 := by
  induction a generalizing a1  with
  | zero =>
    unfold State.freshWords
    try dsimp only
    repeat' first
      | with_reducible assumption
      | with_reducible apply State.fresh_keeps
  | succ k ih =>
    unfold State.freshWords
    try dsimp only
    repeat' first
      | with_reducible apply ih
      | with_reducible assumption
      | with_reducible apply State.fresh_keeps

theorem State.cpCustom_keeps {s₀ : State} (next : Word) {s : State} (h : s₀.Keeps s) :
    s₀.Keeps (State.cpCustom next s) := by
  unfold State.cpCustom
  try dsimp only
  repeat' first
    | with_reducible assumption
    | with_reducible apply State.fresh_keeps
    | with_reducible apply State.setCpRegs_keeps
    | with_reducible apply State.freshWords_keeps

theorem State.cpRun_keeps {s₀ : State} (units : Nat) (w : Work) {s : State} (h : s₀.Keeps s) :
    s₀.Keeps (State.cpRun units w s) := by
  unfold State.cpRun
  try dsimp only
  repeat' first
    | with_reducible assumption
    | with_reducible apply State.fresh_keeps
    | with_reducible apply State.setCpRegs_keeps
    | with_reducible apply State.endEntry_keeps
    | with_reducible apply State.cpFault_keeps
    | with_reducible apply State.cpCustom_keeps
    | simp only [State.Keeps.upd_iff]
    | split

theorem State.cpIssue_keeps {s₀ : State} (units : Nat) (w : Work) {s : State} (h : s₀.Keeps s) :
    s₀.Keeps (State.cpIssue units w s) := by
  unfold State.cpIssue
  try dsimp only
  repeat' first
    | with_reducible assumption
    | with_reducible apply State.cpSpendStep_keeps
    | with_reducible apply State.cpRun_keeps
    | with_reducible apply State.cpFault_keeps
    | split

theorem State.issue_keeps {s₀ : State} (ok : CoreRef → Bool) (units : Nat) (cost : Nat) (w : Work) (who : CoreRef) {s : State} (h : s₀.Keeps s) :
    s₀.Keeps (State.issue ok units cost w who s) := by
  unfold State.issue
  try dsimp only
  repeat' first
    | with_reducible assumption
    | with_reducible apply State.pegIssue_keeps
    | with_reducible apply State.tabIssue_keeps
    | with_reducible apply State.cpIssue_keeps
    | split

theorem State.noteReqs_keeps {s₀ : State} {s : State} (xs : List LoadReq) (h : s₀.Keeps s) :
    s₀.Keeps (State.noteReqs s xs) := by
  unfold State.noteReqs
  try dsimp only
  repeat' first
    | with_reducible assumption
    | with_reducible apply State.noteRead_keeps
    | with_reducible apply State.Keeps.foldl
    | intro _
    | split

/-! ### TabCmds -/

theorem State.stackWords_keeps {s₀ s : State} (i : Nat) (xs : List Word) (n : Nat) (h : s₀.Keeps s) :
    s₀.Keeps (s.stackWords i xs n).2 := by
  induction n generalizing s i with
  | zero => exact h
  | succ n ih =>
    unfold State.stackWords
    split
    · exact ih _ h
    · exact ih _ (State.fresh_keeps h)

theorem State.debugWords_keeps {s₀ : State} {s : State} (k : Thread) (i : Nat) (h : s₀.Keeps s) :
    s₀.Keeps (State.debugWords s k i).2 := by
  unfold State.debugWords
  try dsimp only
  repeat' first
    | with_reducible assumption
    | with_reducible apply State.stackWords_keeps
    | split

theorem tabStartBody_keeps {s₀ : State} (c : Cmd) (a : CmdRef) {s : State} (h : s₀.Keeps s) :
    KeepsCmd s₀ (tabStartBody c a s) := by
  unfold tabStartBody
  try dsimp only
  repeat' first
    | with_reducible assumption
    | with_reducible apply okDone_keeps
    | with_reducible apply State.modStage_keeps
    | with_reducible apply KeepsCmd.bind
    | intro _

theorem State.installCode_keeps {s₀ : State} (es : List (Nat × Nat × List Nat)) {s : State} (h : s₀.Keeps s) :
    s₀.Keeps (State.installCode es s) := by
  unfold State.installCode
  try dsimp only
  repeat' first
    | with_reducible assumption
    | simp only [State.Keeps.upd_iff]

theorem State.removeCode_keeps {s₀ : State} (cs : List Nat) {s : State} (h : s₀.Keeps s) :
    s₀.Keeps (State.removeCode cs s) := by
  unfold State.removeCode
  try dsimp only
  repeat' first
    | with_reducible assumption
    | simp only [State.Keeps.upd_iff]

theorem decodeTableLoadBody_keeps {s₀ : State} (c : Cmd) (r : CmdRef) {s : State} (h : s₀.Keeps s) :
    KeepsCmd s₀ (decodeTableLoadBody c r s) := by
  unfold decodeTableLoadBody
  dsimp only
  repeat' first
    | with_reducible assumption
    | with_reducible exact trivial
    | with_reducible apply KeepsCmd.noting
    | with_reducible apply okDone_keeps
    | with_reducible apply State.removeCode_keeps
    | with_reducible apply State.installCode_keeps
    | with_reducible apply State.note_keeps
    | with_reducible apply KeepsCmd.bind
    | with_reducible apply KeepsCmd.error
    | with_reducible apply State.Keeps.foldl
    | intro _
    | split

theorem tabStopBody_keeps {s₀ : State} (c : Cmd) (a : CmdRef) {s : State} (h : s₀.Keeps s) :
    KeepsCmd s₀ (tabStopBody c a s) := by
  unfold tabStopBody
  try dsimp only
  repeat' first
    | with_reducible assumption
    | with_reducible apply okDone_keeps
    | with_reducible apply State.modStage_keeps
    | with_reducible apply KeepsCmd.bind
    | intro _

theorem tabLoadBody_keeps {s₀ : State} (c : Cmd) (a : CmdRef) {s : State} (h : s₀.Keeps s) :
    KeepsCmd s₀ (tabLoadBody c a s) := by
  unfold tabLoadBody
  try dsimp only
  repeat' first
    | with_reducible assumption
    | with_reducible apply okDone_keeps
    | with_reducible apply State.physZero_keeps
    | with_reducible apply State.modTabs_keeps
    | with_reducible apply State.noteAssetRead_keeps
    | with_reducible apply State.physWrite_keeps
    | with_reducible apply KeepsCmd.bind
    | with_reducible apply KeepsCmd.error
    | intro _
    | split

theorem tabDebugBody_keeps {s₀ : State} (c : Cmd) (r : CmdRef) {s : State} (h : s₀.Keeps s) :
    KeepsCmd s₀ (tabDebugBody c r s) := by
  unfold tabDebugBody
  try dsimp only
  repeat' first
    | with_reducible assumption
    | with_reducible apply okDone_keeps
    | with_reducible apply State.modThread_keeps
    | with_reducible apply State.noteRead_keeps
    | with_reducible apply State.haltThread_keeps
    | with_reducible apply State.physWrite_keeps
    | with_reducible apply State.debugWords_keeps
    | with_reducible apply KeepsCmd.bind
    | with_reducible apply KeepsCmd.ok
    | intro _
    | split

/-! ### Pegbox -/

theorem listenProgramLoadBody_keeps {s₀ s : State} (c : Cmd) (r : CmdRef) (h : s₀.Keeps s) :
    KeepsCmd s₀ (listenProgramLoadBody c r s) := by
  unfold listenProgramLoadBody
  dsimp only
  apply KeepsCmd.bind; intro _
  apply KeepsCmd.bind; intro _
  split
  · apply KeepsCmd.bind; intro _
    exact okDone_keeps _ (State.modPeg_keeps _ h rfl rfl rfl)
  · repeat (apply KeepsCmd.bind; intro _)
    refine okDone_keeps _ ?_
    have hs := State.noteAssetRead_keeps c.tenant (c.u64 0x20) (c.u32 0x18)
      (State.noteAssetRead_keeps c.tenant (c.u64 0x10) (c.u32 0x0C) h)
    refine hs.memory rfl rfl rfl rfl ?_
    simp only [State.memWf_iff]
    exact fun w => ⟨w.1, w.2.1, Mem.wf_write w.2.2.1 _ _, Mem.wf_write rfl _ _, w.2.2.2.2⟩

theorem State.pegCause_keeps {s₀ : State} (src : Nat) {s : State} (h : s₀.Keeps s) :
    s₀.Keeps (State.pegCause src s) := by
  unfold State.pegCause
  try dsimp only
  repeat' first
    | with_reducible assumption
    | with_reducible rfl
    | with_reducible apply State.modPeg_keeps
    | split

theorem State.alarmFires_keeps {s₀ : State} {s : State} (h : s₀.Keeps s) :
    s₀.Keeps (State.alarmFires s) := by
  unfold State.alarmFires
  try dsimp only
  repeat' first
    | with_reducible assumption
    | with_reducible apply State.hwMark_keeps
    | with_reducible apply State.sourceWake_keeps
    | with_reducible apply State.modCal_keeps
    | with_reducible apply State.pegCause_keeps
    | with_reducible apply State.event_keeps
    | split

theorem wakeSourceSetBody_keeps {s₀ : State} (c : Cmd) (a : CmdRef) {s : State} (h : s₀.Keeps s) :
    KeepsCmd s₀ (wakeSourceSetBody c a s) := by
  unfold wakeSourceSetBody
  try dsimp only
  repeat' first
    | with_reducible assumption
    | with_reducible rfl
    | with_reducible apply okDone_keeps
    | with_reducible apply State.modPeg_keeps
    | with_reducible apply KeepsCmd.bind
    | intro _
    | split

theorem State.slotsFire_keeps {s₀ : State} (p : Nat) {s : State} (h : s₀.Keeps s) :
    s₀.Keeps (State.slotsFire p s) := by
  unfold State.slotsFire
  try dsimp only
  repeat' first
    | with_reducible assumption
    | with_reducible apply State.wakeRequest_keeps
    | with_reducible apply State.pegCause_keeps
    | with_reducible apply State.Keeps.foldl
    | intro _

theorem State.freshList_keeps {s₀ : State} {s : State} (n : Nat) (h : s₀.Keeps s) :
    s₀.Keeps (State.freshList s n).2 := by
  unfold State.freshList
  try dsimp only
  repeat' first
    | with_reducible assumption
    | simp only [State.Keeps.upd_iff]

theorem State.modI2c_keeps {s₀ s : State} (f : I2c → I2c) (h : s₀.Keeps s) : s₀.Keeps (s.modI2c f) :=
  State.modPeg_keeps _ h rfl rfl rfl

theorem State.i2cMatch_keeps {s₀ : State} (addr : BitVec 7) (read : Bool) {s : State} (h : s₀.Keeps s) :
    s₀.Keeps (State.i2cMatch addr read s) := by
  unfold State.i2cMatch
  try dsimp only
  repeat' first
    | with_reducible assumption
    | with_reducible apply State.modI2c_keeps
    | with_reducible apply State.sourceWake_keeps
    | split

theorem State.wakeReqStore_keeps {s₀ : State} (v : Word) {s : State} (h : s₀.Keeps s) :
    s₀.Keeps (State.wakeReqStore v s) := by
  unfold State.wakeReqStore
  try dsimp only
  repeat' first
    | with_reducible assumption
    | with_reducible apply State.pegStore_keeps
    | split

theorem modelLoadBody_keeps {s₀ : State} (c : Cmd) (r : CmdRef) {s : State} (h : s₀.Keeps s) :
    KeepsCmd s₀ (modelLoadBody c r s) := by
  unfold modelLoadBody
  try dsimp only
  repeat' first
    | with_reducible assumption
    | with_reducible rfl
    | with_reducible apply State.noteAssetRead_keeps
    | with_reducible apply State.modPeg_keeps
    | with_reducible apply KeepsCmd.bind
    | with_reducible apply KeepsCmd.error
    | with_reducible apply KeepsCmd.ok
    | intro _
    | split

theorem State.slowEdge_keeps {s₀ : State} {s : State} (h : s₀.Keeps s) :
    s₀.Keeps (State.slowEdge s) := by
  unfold State.slowEdge
  try dsimp only
  repeat' first
    | with_reducible assumption
    | with_reducible apply State.calendarCommands_keeps
    | with_reducible apply State.meridianEdge_keeps
    | with_reducible apply State.modCal_keeps
    | with_reducible apply State.alarmFires_keeps
    | split

theorem State.wakeFrame_keeps {s₀ : State} (mac : Nat) (f : List Byte) {s : State} (h : s₀.Keeps s) :
    s₀.Keeps (State.wakeFrame mac f s) := by
  unfold State.wakeFrame
  try dsimp only
  repeat' first
    | with_reducible assumption
    | with_reducible apply State.sourceWake_keeps
    | with_reducible apply State.modEth_keeps
    | split

theorem State.i2cStore_keeps {s₀ : State} (v : Byte) {s : State} (h : s₀.Keeps s) :
    s₀.Keeps (State.i2cStore v s) := by
  unfold State.i2cStore
  try dsimp only
  repeat' first
    | with_reducible assumption
    | with_reducible rfl
    | with_reducible apply State.fresh_keeps
    | with_reducible apply State.modI2c_keeps
    | with_reducible apply State.wakeRequest_keeps
    | with_reducible apply State.modPeg_keeps
    | split

theorem State.i2cWrite_keeps {s₀ : State} (v : Byte) {s : State} (h : s₀.Keeps s) :
    s₀.Keeps (State.i2cWrite v s) := by
  unfold State.i2cWrite
  try dsimp only
  repeat' first
    | with_reducible assumption
    | with_reducible apply State.modI2c_keeps
    | with_reducible apply State.i2cStore_keeps
    | with_reducible apply State.pegCause_keeps
    | split

theorem execI2cDataByteWrite_keeps {s₀ : State} (dt : Nat) (v : Byte) {s : State} (h : s₀.Keeps s) :
    KeepsOut s₀ (execI2cDataByteWrite dt v s) := by
  unfold execI2cDataByteWrite
  try dsimp only
  repeat' first
    | with_reducible assumption
    | with_reducible apply State.i2cWrite_keeps
    | with_reducible apply State.tick_keeps
    | with_reducible apply KeepsOut.next

theorem State.modelSwap_keeps {s₀ : State} {s : State} (h : s₀.Keeps s) :
    s₀.Keeps (State.modelSwap s) := by
  unfold State.modelSwap
  try dsimp only
  repeat' first
    | with_reducible assumption
    | with_reducible rfl
    | with_reducible apply State.completeOk_keeps
    | with_reducible apply State.modPeg_keeps
    | with_reducible apply State.Keeps.foldl
    | intro _
    | split

theorem Peg.sampleFrame_keeps (g : Peg) (x : Int × Int) :
    (g.sampleFrame x).code = g.code ∧ (g.sampleFrame x).data = g.data ∧
      (Mem.wf g.ring = true → Mem.wf (g.sampleFrame x).ring = true) :=
  ⟨rfl, rfl, fun w => Mem.wf_write w _ _⟩

theorem Peg.sampleFrames_keep (xs : List (Int × Int)) (g : Peg) :
    (xs.foldl Peg.sampleFrame g).code = g.code ∧ (xs.foldl Peg.sampleFrame g).data = g.data ∧
      (Mem.wf g.ring = true → Mem.wf (xs.foldl Peg.sampleFrame g).ring = true) := by
  induction xs generalizing g with
  | nil => exact ⟨rfl, rfl, id⟩
  | cons x xs ih =>
    obtain ⟨a, b, c⟩ := ih (g.sampleFrame x)
    exact ⟨a, b, fun w => c (Mem.wf_write w _ _)⟩

theorem State.melFrame_keeps {s₀ s : State} (xs : List (Int × Int)) (h : s₀.Keeps s) : s₀.Keeps (s.melFrame xs) := by
  unfold State.melFrame
  refine State.Keeps.ite h ?_
  dsimp only
  refine State.pegCause_keeps _ (State.modPeg_keeps _ ?_ rfl rfl rfl)
  have hm := State.modelSwap_keeps h
  have hc : s₀.Keeps (if s.modelSwap.cpRuns = true then
      { s.modelSwap with prerolls := s.modelSwap.prerolls.map s.modelSwap.peg.copyPreroll } else s.modelSwap) := by
    split
    · simp only [State.Keeps.upd_iff]
      exact hm
    · exact hm
  generalize (if s.modelSwap.cpRuns = true then
      { s.modelSwap with prerolls := s.modelSwap.prerolls.map s.modelSwap.peg.copyPreroll } else s.modelSwap) = u at hc ⊢
  have hs := State.freshList_keeps 40 hc
  refine hs.memory rfl rfl rfl rfl ?_
  obtain ⟨a, b, c⟩ := Peg.sampleFrames_keep xs (u.freshList 40).2.peg
  simp only [State.memWf_iff, State.modPeg]
  intro w
  exact ⟨w.1, w.2.1, a ▸ w.2.2.1, b ▸ w.2.2.2.1, c w.2.2.2.2⟩

theorem execMelFrameReady_keeps {s₀ : State} (dt : Nat) (samples : List (Int × Int)) {s : State} (h : s₀.Keeps s) :
    KeepsOut s₀ (execMelFrameReady dt samples s) := by
  unfold execMelFrameReady
  try dsimp only
  repeat' first
    | with_reducible assumption
    | with_reducible apply State.melFrame_keeps
    | with_reducible apply State.tick_keeps
    | with_reducible apply KeepsOut.next

theorem State.prerollEnd_keeps {s₀ : State} (p : Preroll) {s : State} (h : s₀.Keeps s) :
    s₀.Keeps (State.prerollEnd p s) := by
  unfold State.prerollEnd
  try dsimp only
  repeat' first
    | with_reducible assumption
    | with_reducible apply State.complete_keeps
    | with_reducible apply State.assetWrite_keeps
    | with_reducible apply State.freshList_keeps
    | with_reducible apply State.completeOk_keeps
    | with_reducible apply State.atlasFault_keeps
    | simp only [State.Keeps.upd_iff]
    | split
    | with_reducible refine State.Keeps.of_fst (by with_reducible assumption) ?_

theorem State.i2cTimeout_keeps {s₀ : State} {s : State} (h : s₀.Keeps s) :
    s₀.Keeps (State.i2cTimeout s) := by
  unfold State.i2cTimeout
  try dsimp only
  repeat' first
    | with_reducible assumption
    | with_reducible apply State.modI2c_keeps
    | split

theorem execI2cStretchTimeout_keeps {s₀ : State} (dt : Nat) {s : State} (h : s₀.Keeps s) :
    KeepsOut s₀ (execI2cStretchTimeout dt s) := by
  unfold execI2cStretchTimeout
  try dsimp only
  repeat' first
    | with_reducible assumption
    | with_reducible apply State.tick_keeps
    | with_reducible apply State.i2cTimeout_keeps
    | with_reducible apply KeepsOut.next

theorem execPegWakeReqWrite_keeps {s₀ : State} (dt : Nat) (v : Word) {s : State} (h : s₀.Keeps s) :
    KeepsOut s₀ (execPegWakeReqWrite dt v s) := by
  unfold execPegWakeReqWrite
  try dsimp only
  repeat' first
    | with_reducible assumption
    | with_reducible apply State.tick_keeps
    | with_reducible apply State.wakeReqStore_keeps
    | with_reducible apply KeepsOut.next

theorem execSlowCounterEdge_keeps {s₀ : State} (dt : Nat) {s : State} (h : s₀.Keeps s) :
    KeepsOut s₀ (execSlowCounterEdge dt s) := by
  unfold execSlowCounterEdge
  try dsimp only
  repeat' first
    | with_reducible assumption
    | with_reducible apply State.tick_keeps
    | with_reducible apply State.slowEdge_keeps
    | with_reducible apply KeepsOut.next

theorem State.phraseMatch_keeps {s₀ : State} (cls : Nat) (score : Nat) {s : State} (h : s₀.Keeps s) :
    s₀.Keeps (State.phraseMatch cls score s) := by
  unfold State.phraseMatch
  try dsimp only
  repeat' first
    | with_reducible assumption
    | with_reducible rfl
    | with_reducible apply State.sourceWake_keeps
    | with_reducible apply State.modPeg_keeps
    | with_reducible apply State.pegCause_keeps
    | with_reducible apply State.event_keeps
    | split

theorem State.evaluationDone_keeps {s₀ : State} {s : State} (h : s₀.Keeps s) :
    s₀.Keeps (State.evaluationDone s) := by
  unfold State.evaluationDone
  try dsimp only
  repeat' first
    | with_reducible assumption
    | with_reducible rfl
    | with_reducible apply State.phraseMatch_keeps
    | with_reducible apply State.modPeg_keeps
    | split

theorem execModelEvaluationDone_keeps {s₀ : State} (dt : Nat) {s : State} (h : s₀.Keeps s) :
    KeepsOut s₀ (execModelEvaluationDone dt s) := by
  unfold execModelEvaluationDone
  try dsimp only
  repeat' first
    | with_reducible assumption
    | with_reducible apply State.evaluationDone_keeps
    | with_reducible apply State.tick_keeps
    | with_reducible apply KeepsOut.next

theorem execClkreqAssert_keeps {s₀ : State} (dt : Nat) {s : State} (h : s₀.Keeps s) :
    KeepsOut s₀ (execClkreqAssert dt s) := by
  unfold execClkreqAssert
  try dsimp only
  repeat' first
    | with_reducible assumption
    | with_reducible apply State.sourceWake_keeps
    | with_reducible apply State.tick_keeps
    | with_reducible apply KeepsOut.next

theorem prerollReadBody_keeps {s₀ : State} (c : Cmd) (r : CmdRef) {s : State} (h : s₀.Keeps s) :
    KeepsCmd s₀ (prerollReadBody c r s) := by
  unfold prerollReadBody
  try dsimp only
  repeat' first
    | with_reducible assumption
    | simp only [State.Keeps.upd_iff]
    | with_reducible apply KeepsCmd.bind
    | with_reducible apply KeepsCmd.error
    | with_reducible apply KeepsCmd.ok
    | intro _
    | split

theorem execWakeFrameReceive_keeps {s₀ : State} (dt : Nat) (mac : Nat) (frame : List Byte) {s : State} (h : s₀.Keeps s) :
    KeepsOut s₀ (execWakeFrameReceive dt mac frame s) := by
  unfold execWakeFrameReceive
  try dsimp only
  repeat' first
    | with_reducible assumption
    | with_reducible apply State.tick_keeps
    | with_reducible apply State.wakeFrame_keeps
    | with_reducible apply KeepsOut.next

theorem State.i2cRead_keeps {s₀ : State} {s : State} (h : s₀.Keeps s) :
    s₀.Keeps (State.i2cRead s) := by
  unfold State.i2cRead
  try dsimp only
  repeat' first
    | with_reducible assumption
    | with_reducible apply State.modI2c_keeps
    | split

theorem execI2cDataByteRead_keeps {s₀ : State} (dt : Nat) {s : State} (h : s₀.Keeps s) :
    KeepsOut s₀ (execI2cDataByteRead dt s) := by
  unfold execI2cDataByteRead
  try dsimp only
  repeat' first
    | with_reducible assumption
    | with_reducible apply State.i2cRead_keeps
    | with_reducible apply State.tick_keeps
    | with_reducible apply KeepsOut.next

theorem execI2cAddressMatch_keeps {s₀ : State} (dt : Nat) (addr : BitVec 7) (read : Bool) {s : State} (h : s₀.Keeps s) :
    KeepsOut s₀ (execI2cAddressMatch dt addr read s) := by
  unfold execI2cAddressMatch
  try dsimp only
  repeat' first
    | with_reducible assumption
    | with_reducible apply State.i2cMatch_keeps
    | with_reducible apply State.tick_keeps
    | with_reducible apply KeepsOut.next

/-! ### Boot -/

theorem lifecycleQueryBody_keeps {s₀ : State} (c : Cmd) (a : CmdRef) {s : State} (h : s₀.Keeps s) :
    KeepsCmd s₀ (lifecycleQueryBody c a s) := by
  unfold lifecycleQueryBody
  try dsimp only
  repeat' first
    | with_reducible assumption
    | with_reducible apply okDone_keeps
    | with_reducible apply KeepsCmd.bind
    | intro _

theorem State.partReset_resets (s : State) : s.Resets s.partReset := by
  refine ⟨rfl, fun i => ?_, Nat.le_refl _, fun _ => rfl⟩
  have w := (State.memWf_iff s).mp i.1
  refine ⟨(State.memWf_iff _).mpr ⟨rfl, w.2.1, rfl, rfl, rfl⟩, ?_, rfl⟩
  show State.reset.dev.reservedZero = true
  decide

theorem State.startUp_keeps {s₀ : State} {s : State} (h : s₀.Keeps s) :
    s₀.Keeps (State.startUp s) := by
  unfold State.startUp
  try dsimp only
  repeat' first
    | with_reducible assumption
    | simp only [State.Keeps.upd_in_iff]

theorem State.tokenReset_resets (s : State) : s.Resets s.tokenReset := by
  unfold State.tokenReset
  split
  · exact (State.Keeps.refl s).resets
  · split
    · exact (State.Keeps.refl s).resets
    · exact (State.partReset_resets s).keeps (State.startUp_keeps (State.Keeps.refl _))

theorem execTokenReset_resets (dt : Nat) (s : State) : ResetsOut s (execTokenReset dt s) :=
  (State.tick_keeps dt (State.Keeps.refl s)).then_resets (State.tokenReset_resets _)

theorem State.closeDebugOf_keeps {s₀ : State} (t : Nat) (m : Nat) {s : State} (h : s₀.Keeps s) :
    s₀.Keeps (State.closeDebugOf t m s) := by
  unfold State.closeDebugOf
  try dsimp only
  repeat' first
    | with_reducible assumption
    | with_reducible apply State.closeSessions_keeps

theorem State.modBoot_keeps {s₀ s : State} (f : Boot → Boot) (h : s₀.Keeps s)
    (hl : (f s.boot).lifecycle = s.boot.lifecycle) (ho : (f s.boot).ownerHash = s.boot.ownerHash) : s₀.Keeps (s.modBoot f) :=
  (State.Keeps.upd_in_iff hl ho rfl rfl rfl rfl rfl).mpr h

theorem debugGrantBody_keeps {s₀ : State} (c : Cmd) (a : CmdRef) {s : State} (h : s₀.Keeps s) :
    KeepsCmd s₀ (debugGrantBody c a s) := by
  unfold debugGrantBody
  try dsimp only
  repeat' first
    | with_reducible assumption
    | with_reducible rfl
    | with_reducible apply okDone_keeps
    | with_reducible apply State.closeDebugOf_keeps
    | with_reducible apply State.modBoot_keeps
    | with_reducible apply KeepsCmd.bind
    | intro _
    | split

theorem bootBody_keeps {s₀ s : State} {op bh i : Nat} {c : Cmd} {b : Cmd → CmdRef → State → CmdRes}
    (e : bootBody op bh i c = some b) (r : CmdRef) (h : s₀.Keeps s) : KeepsCmd s₀ (b c r s) := by
  unfold bootBody at e
  dsimp only at e
  split at e
  all_goals
    repeat' split at e
    all_goals first
      | (cases e; done)
      | (cases e; first
          | with_reducible exact headTimingSetBody_keeps _ _ h
          | with_reducible exact portRouteSetBody_keeps _ _ h
          | with_reducible exact ditherSetBody_keeps _ _ h
          | with_reducible exact stillPolicySetBody_keeps _ _ h
          | with_reducible exact cartoucheImageLoadBody_keeps _ _ h
          | with_reducible exact cartoucheCellSetBody_keeps _ _ h
          | with_reducible exact watchRegionSetBody_keeps _ _ h
          | with_reducible exact referenceSetBody_keeps _ _ h
          | with_reducible exact faultReactionSetBody_keeps _ _ h)

theorem State.bootApply_keeps {s₀ s : State} (bh i : Nat) (h : s₀.Keeps s) : KeepsOpt s₀ (s.bootApply bh i) := by
  unfold State.bootApply
  dsimp only
  split
  · trivial
  · split
    · trivial
    · rename_i e
      have hb := bootBody_keeps e ((bootRecord s.boot.cbi i).2.ref (bootRecord s.boot.cbi i).1) h
      split
      · trivial
      · trivial
      · rename_i q
        have hs := State.Keeps.of_okPair q hb
        split
        · exact hs
        · exact State.loadDone_keeps _ hs
      · rename_i q
        exact State.modHead_keeps _ _ (State.Keeps.of_okPair q hb)

theorem State.bootRecords_keeps {s₀ s : State} (bh n i : Nat) (h : s₀.Keeps s) : KeepsOpt s₀ (s.bootRecords bh n i) := by
  induction n generalizing s i with
  | zero => exact h
  | succ n ih =>
    unfold State.bootRecords
    split
    · exact h
    · split
      · trivial
      · exact ih _ (State.Keeps.of_some (by assumption) (State.bootApply_keeps _ _ h))

theorem State.bootImage_keeps {s₀ : State} {s : State} (h : s₀.Keeps s) :
    s₀.Keeps (State.bootImage s) := by
  unfold State.bootImage
  try dsimp only
  repeat' first
    | with_reducible assumption
    | with_reducible rfl
    | with_reducible apply State.bootRecords_keeps
    | with_reducible apply State.modBoot_keeps
    | simp only [State.Keeps.upd_in_iff]
    | split
    | with_reducible refine State.Keeps.of_some (by with_reducible assumption) ?_

theorem execCartoucheBootImageApply_keeps {s₀ : State} (dt : Nat) {s : State} (h : s₀.Keeps s) :
    KeepsOut s₀ (execCartoucheBootImageApply dt s) := by
  unfold execCartoucheBootImageApply
  try dsimp only
  repeat' first
    | with_reducible assumption
    | with_reducible apply State.tick_keeps
    | with_reducible apply State.bootImage_keeps
    | with_reducible apply KeepsOut.next

theorem execResetPin_resets (dt : Nat) (s : State) : ResetsOut s (execResetPin dt s) :=
  (State.tick_keeps dt (State.Keeps.refl s)).then_resets (State.partReset_resets _)

theorem State.acceptCopy_keeps {s₀ : State} (k : BootCopy) (which : Nat) {s : State} (h : s₀.Keeps s) :
    s₀.Keeps (State.acceptCopy k which s) := by
  unfold State.acceptCopy
  try dsimp only
  repeat' first
    | with_reducible assumption
    | simp only [State.Keeps.upd_in_iff]

theorem State.bootVerify_keeps {s₀ : State} (k : BootCopy) {s : State} (h : s₀.Keeps s) :
    s₀.Keeps (State.bootVerify k s) := by
  unfold State.bootVerify
  try dsimp only
  repeat' first
    | with_reducible assumption
    | with_reducible rfl
    | with_reducible apply State.acceptCopy_keeps
    | with_reducible apply State.modBoot_keeps
    | simp only [State.Keeps.upd_iff]
    | split

theorem execBootCopyVerify_keeps {s₀ : State} (dt : Nat) (image : BootCopy) {s : State} (h : s₀.Keeps s) :
    KeepsOut s₀ (execBootCopyVerify dt image s) := by
  unfold execBootCopyVerify
  try dsimp only
  repeat' first
    | with_reducible assumption
    | with_reducible apply State.tick_keeps
    | with_reducible apply State.bootVerify_keeps
    | with_reducible apply KeepsOut.next

theorem State.beginDestroy_keeps {s₀ : State} (t : Nat) (r : CmdRef) {s : State} (h : s₀.Keeps s) :
    s₀.Keeps (State.beginDestroy t r s) := by
  unfold State.beginDestroy
  try dsimp only
  repeat' first
    | with_reducible assumption
    | with_reducible apply State.advanceDestroy_keeps
    | with_reducible apply State.modTenant_keeps
    | with_reducible apply State.dropFlight_keeps
    | with_reducible apply State.Keeps.foldl
    | intro _
    | split

theorem State.firmwareReady_keeps {s₀ s : State} (h : s₀.Keeps s) : s₀.Keeps (s.firmwareReady) := by
  unfold State.firmwareReady
  refine State.Keeps.ite h ?_
  dsimp only
  refine h.table rfl rfl rfl rfl rfl ?_
  exact fun w => IMap.tenantsWf_put (IMap.tenantsWf_put w (by decide) _) (by decide) _

theorem execFirmwareReady_keeps {s₀ : State} (dt : Nat) {s : State} (h : s₀.Keeps s) :
    KeepsOut s₀ (execFirmwareReady dt s) := by
  unfold execFirmwareReady
  try dsimp only
  repeat' first
    | with_reducible assumption
    | with_reducible apply State.tick_keeps
    | with_reducible apply State.firmwareReady_keeps
    | with_reducible apply KeepsOut.next

theorem State.detachTenants_keeps {s₀ : State} {s : State} (h : s₀.Keeps s) :
    s₀.Keeps (State.detachTenants s) := by
  unfold State.detachTenants
  try dsimp only
  repeat' first
    | with_reducible assumption
    | with_reducible apply State.beginDestroy_keeps
    | with_reducible apply State.mboxDisable_keeps
    | with_reducible apply State.modTenant_keeps
    | with_reducible apply State.Keeps.foldl
    | intro _

theorem State.resetRelease_keeps {s₀ : State} (straps : BitVec 2) (vddioHigh : BitVec 5) {s : State} (h : s₀.Keeps s) :
    s₀.Keeps (State.resetRelease straps vddioHigh s) := by
  unfold State.resetRelease
  try dsimp only
  repeat' first
    | with_reducible assumption
    | with_reducible apply State.startUp_keeps
    | simp only [State.Keeps.upd_in_iff]
    | split

theorem State.hostReset_resets (s : State) : s.Resets s.hostReset := by
  unfold State.hostReset
  split
  · exact (State.Keeps.refl s).resets
  · have hr : s.Resets { s with
        boot := { s.boot with perst := true, pcieUp := false }
        dev := { s.dev with msix := [], pba := [], pasid0 := 0, pasid1 := 0, pasidLock := false } } := by
      refine ⟨rfl, fun i => ⟨i.1, ?_, i.2.2⟩, Nat.le_refl _, fun _ => rfl⟩
      have z := i.2.1
      simp only [DevPage.reservedZero, Bool.and_eq_true, beq_iff_eq] at z ⊢
      exact ⟨⟨z.1.1, rfl⟩, rfl⟩
    exact hr.keeps (State.endGrants_keeps (State.detachTenants_keeps (State.Keeps.refl _)))

theorem State.powerFail_keeps {s₀ : State} {s : State} (h : s₀.Keeps s) :
    s₀.Keeps (State.powerFail s) := by
  unfold State.powerFail
  try dsimp only
  repeat' first
    | with_reducible assumption
    | simp only [State.Keeps.upd_iff]

theorem execPwrfailNAssert_keeps {s₀ : State} (dt : Nat) {s : State} (h : s₀.Keeps s) :
    KeepsOut s₀ (execPwrfailNAssert dt s) := by
  unfold execPwrfailNAssert
  try dsimp only
  repeat' first
    | with_reducible assumption
    | with_reducible apply State.powerFail_keeps
    | with_reducible apply State.tick_keeps
    | with_reducible apply KeepsOut.next

theorem execResetRelease_keeps {s₀ : State} (dt : Nat) (straps : BitVec 2) (vddioHigh : BitVec 5) {s : State} (h : s₀.Keeps s) :
    KeepsOut s₀ (execResetRelease dt straps vddioHigh s) := by
  unfold execResetRelease
  try dsimp only
  repeat' first
    | with_reducible assumption
    | with_reducible apply State.tick_keeps
    | with_reducible apply State.resetRelease_keeps
    | with_reducible apply KeepsOut.next

theorem execPerstAssert_resets (dt : Nat) (s : State) : ResetsOut s (execPerstAssert dt s) :=
  (State.tick_keeps dt (State.Keeps.refl s)).then_resets (State.hostReset_resets _)

theorem State.aonRise_keeps {s₀ : State} {s : State} (h : s₀.Keeps s) :
    s₀.Keeps (State.aonRise s) := by
  unfold State.aonRise
  try dsimp only
  repeat' first
    | with_reducible assumption
    | simp only [State.Keeps.upd_iff]

theorem debugUnlockBody_keeps {s₀ s : State} (c : Cmd) (r : CmdRef) (h : s₀.Keeps s) :
    KeepsCmd s₀ (debugUnlockBody c r s) := by
  unfold debugUnlockBody
  dsimp only
  repeat (apply KeepsCmd.bind; intro _)
  split
  · apply KeepsCmd.bind; intro _
    exact okDone_keeps _ (State.modBoot_keeps _ h rfl rfl)
  · rw [need_bind]
    split
    · rename_i _ ok
      repeat (apply KeepsCmd.bind; intro _)
      have ok' := State.tokenOk_kind ok
      split
      · exact okDone_keeps _ (State.modBoot_keeps _ h rfl rfl)
      · rename_i k2
        refine okDone_keeps _ (h.boots rfl rfl rfl rfl rfl ?_ (fun _ => rfl))
        exact Lifecycle.rank_le_returned _
      · rename_i n1 n2
        have hb : s.boot.lifecycle = .blank := (ok' n1).resolve_left n2
        refine okDone_keeps _ (h.boots rfl rfl rfl rfl rfl ?_ (fun n => absurd hb n))
        rw [hb]; exact Nat.zero_le _
    · trivial

theorem State.supplyRemoval_resets (what : Supply) (s : State) : s.Resets (s.supplyRemoval what) := by
  unfold State.supplyRemoval
  split
  · refine State.Keeps.resets (State.Keeps.ite (State.Keeps.refl s) ?_)
    exact (State.Keeps.refl s).same rfl rfl rfl rfl rfl rfl rfl rfl rfl
  · exact (State.partReset_resets s).keeps ((State.Keeps.refl _).same rfl rfl rfl rfl rfl rfl rfl rfl rfl)
  · exact (State.partReset_resets s).keeps ((State.Keeps.refl _).same rfl rfl rfl rfl rfl rfl rfl rfl rfl)

theorem execSupplyRemoval_resets (dt : Nat) (what : Supply) (s : State) : ResetsOut s (execSupplyRemoval dt what s) :=
  (State.tick_keeps dt (State.Keeps.refl s)).then_resets (State.supplyRemoval_resets _ _)

theorem execVddAonRise_keeps {s₀ : State} (dt : Nat) {s : State} (h : s₀.Keeps s) :
    KeepsOut s₀ (execVddAonRise dt s) := by
  unfold execVddAonRise
  try dsimp only
  repeat' first
    | with_reducible assumption
    | with_reducible apply State.aonRise_keeps
    | with_reducible apply State.tick_keeps
    | with_reducible apply KeepsOut.next

theorem execPwrfailNRelease_resets (dt : Nat) (s : State) : ResetsOut s (execPwrfailNRelease dt s) := by
  have ht := State.tick_keeps dt (State.Keeps.refl s)
  show s.Resets (if (s.tick dt).power.pwrfail = true then (s.tick dt).partReset.startUp else s.tick dt)
  split
  · exact (ht.then_resets (State.partReset_resets _)).keeps (State.startUp_keeps (State.Keeps.refl _))
  · exact ht.resets

theorem execPcieLinkUp_keeps {s₀ : State} (dt : Nat) {s : State} (h : s₀.Keeps s) :
    KeepsOut s₀ (execPcieLinkUp dt s) := by
  unfold execPcieLinkUp
  try dsimp only
  repeat' first
    | with_reducible assumption
    | with_reducible rfl
    | with_reducible apply State.tick_keeps
    | with_reducible apply State.modBoot_keeps
    | with_reducible apply KeepsOut.next
    | split

end Sys2Proof.Machine
end

