-- ==== Sys2Proof/Laws/KeepsHost.lean ====
section
/-! SUPPORT. What the operations and meanings keep: the Legend, ports, windows, registers, debug, fetches and the governor, tenants and TISA instructions. Each lemma goes over the branches
of one definition and cites the lemmas of what it calls. -/

namespace Sys2Proof.Machine

open Sys2Proof

/-! ### Legend -/

theorem State.openPath_keeps {s₀ : State} (d : Nat) {s : State} (h : s₀.Keeps s) :
    s₀.Keeps (State.openPath d s) := by
  unfold State.openPath
  try dsimp only
  repeat' first
    | with_reducible assumption
    | simp only [State.Keeps.upd_iff]

theorem State.wakeDomain_keeps {s₀ : State} (d : Nat) {s : State} (h : s₀.Keeps s) :
    s₀.Keeps (State.wakeDomain d s) := by
  unfold State.wakeDomain
  try dsimp only
  repeat' first
    | with_reducible assumption
    | with_reducible apply State.openPath_keeps
    | simp only [State.Keeps.upd_iff]
    | split

theorem State.gateRequest_keeps {s₀ : State} (p : Nat) {s : State} (h : s₀.Keeps s) :
    s₀.Keeps (State.gateRequest p s) := by
  unfold State.gateRequest
  try dsimp only
  repeat' first
    | with_reducible assumption
    | with_reducible apply State.hwMark_keeps
    | simp only [State.Keeps.upd_iff]
    | split

theorem State.msixWrite_keeps {s₀ : State} (v : Nat) (k : Nat) (w : Word) {s : State} (h : s₀.Keeps s) :
    s₀.Keeps (State.msixWrite v k w s) := by
  unfold State.msixWrite
  try dsimp only
  repeat' first
    | with_reducible assumption
    | with_reducible apply State.raiseVector_keeps
    | simp only [State.Keeps.upd_iff]
    | simp only [State.Keeps.upd_dev_iff]
    | split

theorem State.bar0ReadEffect_keeps {s₀ : State} (off : Nat) (w : AccessWidth) {s : State} (h : s₀.Keeps s) :
    s₀.Keeps (State.bar0ReadEffect off w s) := by
  unfold State.bar0ReadEffect
  try dsimp only
  repeat' first
    | with_reducible assumption
    | with_reducible apply State.fresh_keeps
    | simp only [State.Keeps.upd_dev_iff]
    | split

theorem execAccessVoteExpiry_keeps {s₀ : State} (dt : Nat) (d : Nat) {s : State} (h : s₀.Keeps s) :
    KeepsOut s₀ (execAccessVoteExpiry dt d s) := by
  unfold execAccessVoteExpiry
  try dsimp only
  repeat' first
    | with_reducible assumption
    | with_reducible apply State.tick_keeps
    | simp only [State.Keeps.upd_iff]
    | with_reducible apply KeepsOut.next

/-! ### Ports -/

theorem State.auxTransactionEnd_keeps {s₀ : State} (p : Nat) (reply : AuxReply) {s : State} (h : s₀.Keeps s) :
    s₀.Keeps (State.auxTransactionEnd p reply s) := by
  unfold State.auxTransactionEnd
  try dsimp only
  repeat' first
    | with_reducible assumption
    | with_reducible apply State.modPort_keeps
    | with_reducible apply State.hwMark_keeps
    | split

theorem execAuxTransactionEnd_keeps {s₀ : State} (dt : Nat) (p : Nat) (reply : AuxReply) {s : State} (h : s₀.Keeps s) :
    KeepsOut s₀ (execAuxTransactionEnd dt p reply s) := by
  unfold execAuxTransactionEnd
  try dsimp only
  repeat' first
    | with_reducible assumption
    | with_reducible apply State.auxTransactionEnd_keeps
    | with_reducible apply State.tick_keeps
    | with_reducible apply KeepsOut.next

theorem State.portState_keeps {s₀ : State} (p : Nat) (what : Nat) (w2 : Nat) (w3 : Nat) {s : State} (h : s₀.Keeps s) :
    s₀.Keeps (State.portState p what w2 w3 s) := by
  unfold State.portState
  try dsimp only
  repeat' first
    | with_reducible assumption
    | with_reducible apply State.event_keeps

theorem State.hpdRise_keeps {s₀ : State} (p : Nat) (attempts : List Bool) {s : State} (h : s₀.Keeps s) :
    s₀.Keeps (State.hpdRise p attempts s) := by
  unfold State.hpdRise
  try dsimp only
  repeat' first
    | with_reducible assumption
    | with_reducible apply State.modPort_keeps
    | with_reducible apply State.portState_keeps
    | split

theorem execHpdRise_keeps {s₀ : State} (dt : Nat) (p : Nat) (attempts : List Bool) {s : State} (h : s₀.Keeps s) :
    KeepsOut s₀ (execHpdRise dt p attempts s) := by
  unfold execHpdRise
  try dsimp only
  repeat' first
    | with_reducible assumption
    | with_reducible apply State.hpdRise_keeps
    | with_reducible apply State.tick_keeps
    | with_reducible apply KeepsOut.next

theorem State.auxStart_keeps {s₀ : State} (p : Nat) (v : Word) (cpUses : Bool) {s : State} (h : s₀.Keeps s) :
    s₀.Keeps (State.auxStart p v cpUses s) := by
  unfold State.auxStart
  try dsimp only
  repeat' first
    | with_reducible assumption
    | with_reducible apply State.modPort_keeps
    | with_reducible apply State.hwMark_keeps
    | split

theorem State.hpdFall_keeps {s₀ : State} (p : Nat) {s : State} (h : s₀.Keeps s) :
    s₀.Keeps (State.hpdFall p s) := by
  unfold State.hpdFall
  try dsimp only
  repeat' first
    | with_reducible assumption
    | with_reducible apply State.modPort_keeps
    | with_reducible apply State.portState_keeps
    | split

theorem execHpdFall_keeps {s₀ : State} (dt : Nat) (p : Nat) {s : State} (h : s₀.Keeps s) :
    KeepsOut s₀ (execHpdFall dt p s) := by
  unfold execHpdFall
  try dsimp only
  repeat' first
    | with_reducible assumption
    | with_reducible apply State.hpdFall_keeps
    | with_reducible apply State.tick_keeps
    | with_reducible apply KeepsOut.next

theorem State.gptpChange_keeps {s₀ : State} (mac : Nat) (synced : Bool) (offset : Int) (ratio : Nat) {s : State} (h : s₀.Keeps s) :
    s₀.Keeps (State.gptpChange mac synced offset ratio s) := by
  unfold State.gptpChange
  try dsimp only
  repeat' first
    | with_reducible assumption
    | with_reducible apply State.modDisp_keeps
    | with_reducible apply State.modHead_keeps
    | simp only [State.Keeps.upd_iff]
    | with_reducible apply State.Keeps.foldl
    | intro _
    | split

theorem State.setRouteHeads_keeps {s₀ : State} (p : Nat) (r : Route) (on : Bool) {s : State} (h : s₀.Keeps s) :
    s₀.Keeps (State.setRouteHeads p r on s) := by
  unfold State.setRouteHeads
  try dsimp only
  repeat' first
    | with_reducible assumption
    | with_reducible apply State.modHead_keeps
    | with_reducible apply State.Keeps.foldl
    | intro _
    | split

theorem State.trainingDone_keeps {s₀ : State} (p : Nat) (ok : Bool) (lanes : Nat) (rate : Nat) {s : State} (h : s₀.Keeps s) :
    s₀.Keeps (State.trainingDone p ok lanes rate s) := by
  unfold State.trainingDone
  try dsimp only
  repeat' first
    | with_reducible assumption
    | with_reducible apply State.modPort_keeps
    | with_reducible apply State.complete_keeps
    | with_reducible apply State.setRouteHeads_keeps
    | with_reducible apply State.completeOk_keeps
    | with_reducible apply State.nextRoute_keeps
    | split

theorem execLinkTrainingDone_keeps {s₀ : State} (dt : Nat) (p : Nat) (ok : Bool) (lanes : Nat) (rate : Nat) {s : State} (h : s₀.Keeps s) :
    KeepsOut s₀ (execLinkTrainingDone dt p ok lanes rate s) := by
  unfold execLinkTrainingDone
  try dsimp only
  repeat' first
    | with_reducible assumption
    | with_reducible apply State.trainingDone_keeps
    | with_reducible apply State.tick_keeps
    | with_reducible apply KeepsOut.next

theorem State.pixelNeed_keeps {s₀ : State} (p : Nat) (stream : Nat) (empty : Bool) {s : State} (h : s₀.Keeps s) :
    s₀.Keeps (State.pixelNeed p stream empty s) := by
  unfold State.pixelNeed
  try dsimp only
  repeat' first
    | with_reducible assumption
    | with_reducible apply State.modPort_keeps
    | split

theorem execGptpStateChange_keeps {s₀ : State} (dt : Nat) (mac : Nat) (synced : Bool) (offset : Int) (ratio : Nat) {s : State} (h : s₀.Keeps s) :
    KeepsOut s₀ (execGptpStateChange dt mac synced offset ratio s) := by
  unfold execGptpStateChange
  try dsimp only
  repeat' first
    | with_reducible assumption
    | with_reducible apply State.gptpChange_keeps
    | with_reducible apply State.tick_keeps
    | with_reducible apply KeepsOut.next

theorem execAuxCtlStart_keeps {s₀ : State} (dt : Nat) (p : Nat) (v : Word) (cpUses : Bool) {s : State} (h : s₀.Keeps s) :
    KeepsOut s₀ (execAuxCtlStart dt p v cpUses s) := by
  unfold execAuxCtlStart
  try dsimp only
  repeat' first
    | with_reducible assumption
    | with_reducible apply State.tick_keeps
    | with_reducible apply State.auxStart_keeps
    | with_reducible apply KeepsOut.next

theorem State.fsyncEdge_keeps {s₀ : State} {s : State} (h : s₀.Keeps s) :
    s₀.Keeps (State.fsyncEdge s) := by
  unfold State.fsyncEdge
  try dsimp only
  repeat' first
    | with_reducible assumption
    | with_reducible apply State.lockMeasure_keeps
    | with_reducible apply State.modDisp_keeps
    | with_reducible apply State.modHead_keeps
    | split

theorem execFsyncEdge_keeps {s₀ : State} (dt : Nat) {s : State} (h : s₀.Keeps s) :
    KeepsOut s₀ (execFsyncEdge dt s) := by
  unfold execFsyncEdge
  try dsimp only
  repeat' first
    | with_reducible assumption
    | with_reducible apply State.tick_keeps
    | with_reducible apply State.fsyncEdge_keeps
    | with_reducible apply KeepsOut.next

theorem State.fsyncLost_keeps {s₀ : State} {s : State} (h : s₀.Keeps s) :
    s₀.Keeps (State.fsyncLost s) := by
  unfold State.fsyncLost
  try dsimp only
  repeat' first
    | with_reducible assumption
    | with_reducible apply State.modDisp_keeps
    | with_reducible apply State.modHead_keeps
    | split

theorem execFsyncLost_keeps {s₀ : State} (dt : Nat) {s : State} (h : s₀.Keeps s) :
    KeepsOut s₀ (execFsyncLost dt s) := by
  unfold execFsyncLost
  try dsimp only
  repeat' first
    | with_reducible assumption
    | with_reducible apply State.tick_keeps
    | with_reducible apply State.fsyncLost_keeps
    | with_reducible apply KeepsOut.next

theorem execPortPixelNeed_keeps {s₀ : State} (dt : Nat) (p : Nat) (stream : Nat) (empty : Bool) {s : State} (h : s₀.Keeps s) :
    KeepsOut s₀ (execPortPixelNeed dt p stream empty s) := by
  unfold execPortPixelNeed
  try dsimp only
  repeat' first
    | with_reducible assumption
    | with_reducible apply State.tick_keeps
    | with_reducible apply State.pixelNeed_keeps
    | with_reducible apply KeepsOut.next

/-! ### Windows -/

theorem State.latchCourse_keeps {s₀ : State} (c : Nat) {s : State} (h : s₀.Keeps s) :
    s₀.Keeps (State.latchCourse c s) := by
  unfold State.latchCourse
  try dsimp only
  repeat' first
    | with_reducible assumption
    | with_reducible apply State.modAudio_keeps

theorem State.windowReadEffect_keeps {s₀ : State} (ty : Nat) (off : Nat) {s : State} (h : s₀.Keeps s) :
    s₀.Keeps (State.windowReadEffect ty off s) := by
  unfold State.windowReadEffect
  try dsimp only
  repeat' first
    | with_reducible assumption
    | with_reducible apply State.latchCourse_keeps
    | split

theorem State.mdioWrite_keeps {s₀ : State} (m : Nat) (v : Word) {s : State} (h : s₀.Keeps s) :
    s₀.Keeps (State.mdioWrite m v s) := by
  unfold State.mdioWrite
  try dsimp only
  repeat' first
    | with_reducible assumption
    | with_reducible apply State.modEth_keeps
    | split

theorem State.gpioWrite_keeps {s₀ : State} (b : Nat) (off : Nat) (v : Word) {s : State} (h : s₀.Keeps s) :
    s₀.Keeps (State.gpioWrite b off v s) := by
  unfold State.gpioWrite
  try dsimp only
  repeat' first
    | with_reducible assumption
    | with_reducible apply State.maskedWrite_keeps
    | with_reducible apply State.setIntEn_keeps
    | split

theorem State.intcWrite_keeps {s₀ : State} (off : Nat) (v : Word) {s : State} (h : s₀.Keeps s) :
    s₀.Keeps (State.intcWrite off v s) := by
  unfold State.intcWrite
  try dsimp only
  repeat' first
    | with_reducible assumption
    | with_reducible apply State.clearCount_keeps
    | with_reducible apply State.modSrc_keeps
    | simp only [State.Keeps.upd_iff]
    | with_reducible apply State.Keeps.foldl
    | intro _
    | split

theorem State.auxWrite_keeps {s₀ : State} (p : Nat) (off : Nat) (v : Word) {s : State} (h : s₀.Keeps s) :
    s₀.Keeps (State.auxWrite p off v s) := by
  unfold State.auxWrite
  try dsimp only
  repeat' first
    | with_reducible assumption
    | with_reducible apply State.modPort_keeps
    | with_reducible apply State.auxStart_keeps
    | split

theorem State.windowWrite_keeps {s₀ : State} (ty : Nat) (i : Nat) (off : Nat) (v : Word) {s : State} (h : s₀.Keeps s) :
    s₀.Keeps (State.windowWrite ty i off v s) := by
  unfold State.windowWrite
  try dsimp only
  repeat' first
    | with_reducible assumption
    | with_reducible rfl
    | with_reducible apply State.mdioWrite_keeps
    | with_reducible apply State.gpioWrite_keeps
    | with_reducible apply State.intcWrite_keeps
    | with_reducible apply State.setPwm_keeps
    | with_reducible apply State.modPeg_keeps
    | with_reducible apply State.auxWrite_keeps
    | simp only [State.Keeps.upd_iff]
    | split

theorem State.mdioEnd_keeps {s₀ : State} (m : Nat) (rdata : Half) {s : State} (h : s₀.Keeps s) :
    s₀.Keeps (State.mdioEnd m rdata s) := by
  unfold State.mdioEnd
  try dsimp only
  repeat' first
    | with_reducible assumption
    | with_reducible apply State.modEth_keeps
    | split

/-! ### Registers -/

theorem State.wakeUnit_keeps {s₀ : State} (ty : Nat) (i : Nat) {s : State} (h : s₀.Keeps s) :
    s₀.Keeps (State.wakeUnit ty i s) := by
  unfold State.wakeUnit
  try dsimp only
  repeat' first
    | with_reducible assumption
    | with_reducible apply State.wakeDomain_keeps
    | split

theorem State.readReg_keeps {s₀ : State} (u : (Nat × Nat) × Nat) {s : State} (h : s₀.Keeps s) :
    s₀.Keeps (State.readReg u s).2 := by
  unfold State.readReg
  try dsimp only
  repeat' first
    | with_reducible assumption
    | with_reducible apply State.wakeUnit_keeps
    | with_reducible apply State.windowReadEffect_keeps

theorem State.msixAccess_keeps {s₀ : State} (at_ : Nat) (w : AccessWidth) (v : Dword) {s : State} (h : s₀.Keeps s) :
    s₀.Keeps (State.msixAccess at_ w v s) := by
  unfold State.msixAccess
  try dsimp only
  repeat' first
    | with_reducible assumption
    | with_reducible apply State.fresh_keeps
    | with_reducible apply State.msixWrite_keeps
    | split

theorem State.devWrite_keeps {s₀ s : State} (off : Nat) (v : Word) (h : s₀.Keeps s) : s₀.Keeps (s.devWrite off v) := by
  have hz : ∀ v : Word, v &&& 0x800FFFFF &&& 0x7FF00000 = 0 := by
    intro v
    rw [BitVec.and_assoc]
    exact BitVec.and_zero
  unfold State.devWrite
  refine State.Keeps.ite h ?_
  dsimp only
  split
  · exact h.page rfl rfl rfl rfl (fun i => i) (fun l => ⟨l, rfl, rfl⟩)
  · exact State.writeEventEn_keeps _ h
  · split
    · exact h
    · refine h.page rfl rfl rfl rfl (fun i => ?_) (fun l => absurd l (by assumption))
      simp only [DevPage.reservedZero, Bool.and_eq_true, beq_iff_eq] at i ⊢
      exact ⟨⟨i.1.1, hz v⟩, i.2⟩
  · split
    · exact h
    · refine h.page rfl rfl rfl rfl (fun i => ?_) (fun l => absurd l (by assumption))
      simp only [DevPage.reservedZero, Bool.and_eq_true, beq_iff_eq] at i ⊢
      exact ⟨i.1, hz v⟩
  · exact State.Keeps.ite (h.page rfl rfl rfl rfl (fun i => i) (fun _ => ⟨rfl, rfl, rfl⟩)) h
  · exact h

theorem State.bar0Write_keeps {s₀ : State} (off : Nat) (w : AccessWidth) (v : Dword) {s : State} (h : s₀.Keeps s) :
    s₀.Keeps (State.bar0Write off w v s) := by
  unfold State.bar0Write
  try dsimp only
  repeat' first
    | with_reducible assumption
    | with_reducible apply State.msixAccess_keeps
    | with_reducible apply State.latchWrite_keeps
    | with_reducible apply State.dbWrite_keeps
    | with_reducible apply State.devWrite_keeps
    | split

theorem State.bar0Wake_keeps {s₀ : State} {s : State} (h : s₀.Keeps s) :
    s₀.Keeps (State.bar0Wake s) := by
  unfold State.bar0Wake
  try dsimp only
  repeat' first
    | with_reducible assumption
    | with_reducible apply State.wakeDomain_keeps
    | with_reducible apply State.sourceWake_keeps
    | split

theorem State.bar0Access_keeps {s₀ : State} (write : Bool) (off : Nat) (w : AccessWidth) (v : Dword) {s : State} (h : s₀.Keeps s) :
    s₀.Keeps (State.bar0Access write off w v s) := by
  unfold State.bar0Access
  try dsimp only
  repeat' first
    | with_reducible assumption
    | with_reducible apply State.bar0Write_keeps
    | with_reducible apply State.bar0ReadEffect_keeps
    | with_reducible apply State.bar0Wake_keeps
    | simp only [State.Keeps.upd_dev_iff]
    | split

theorem State.writeReg_keeps {s₀ : State} (u : (Nat × Nat) × Nat) (v : Word) {s : State} (h : s₀.Keeps s) :
    s₀.Keeps (State.writeReg u v s) := by
  unfold State.writeReg
  try dsimp only
  repeat' first
    | with_reducible assumption
    | with_reducible apply State.wakeUnit_keeps
    | with_reducible apply State.windowWrite_keeps

theorem State.tenantWrite_keeps {s₀ : State} (u : (Nat × Nat) × Nat) (v : Word) {s : State} (h : s₀.Keeps s) :
    s₀.Keeps (State.tenantWrite u v s).1 := by
  unfold State.tenantWrite
  try dsimp only
  repeat' first
    | with_reducible assumption
    | with_reducible apply State.writeReg_keeps
    | split

theorem State.tenantWrites_keeps {s₀ : State} (us : List (((Nat × Nat) × Nat) × Word)) {s : State} (h : s₀.Keeps s) :
    s₀.Keeps (State.tenantWrites us s).1 := by
  unfold State.tenantWrites
  try dsimp only
  repeat' first
    | with_reducible assumption
    | with_reducible apply State.tenantWrite_keeps
    | simp only [State.Keeps.upd_iff]
    | with_reducible apply State.Keeps.foldl_fst
    | intro _

theorem regWriteBody_keeps {s₀ : State} (c : Cmd) (a : CmdRef) {s : State} (h : s₀.Keeps s) :
    KeepsCmd s₀ (regWriteBody c a s) := by
  unfold regWriteBody
  try dsimp only
  repeat' first
    | with_reducible assumption
    | with_reducible apply okDone_keeps
    | with_reducible apply State.tenantWrites_keeps
    | with_reducible apply KeepsCmd.bind
    | intro _

theorem State.readRegs_keeps {s₀ : State} (us : List ((Nat × Nat) × Nat)) {s : State} (h : s₀.Keeps s) :
    s₀.Keeps (State.readRegs us s).1 := by
  unfold State.readRegs
  try dsimp only
  repeat' first
    | with_reducible assumption
    | with_reducible apply State.readReg_keeps
    | simp only [State.Keeps.upd_iff]
    | with_reducible apply State.Keeps.foldl_fst
    | intro _

theorem regReadBody_keeps {s₀ : State} (c : Cmd) (a : CmdRef) {s : State} (h : s₀.Keeps s) :
    KeepsCmd s₀ (regReadBody c a s) := by
  unfold regReadBody
  try dsimp only
  repeat' first
    | with_reducible assumption
    | with_reducible apply okDone_keeps
    | with_reducible apply State.readRegs_keeps
    | with_reducible apply KeepsCmd.bind
    | intro _

theorem execEthernetFrameReceive_keeps {s₀ : State} (dt : Nat) (mac : Nat) (kind : EthFrame) {s : State} (h : s₀.Keeps s) :
    KeepsOut s₀ (execEthernetFrameReceive dt mac kind s) := by
  unfold execEthernetFrameReceive
  try dsimp only
  repeat' first
    | with_reducible assumption
    | with_reducible apply State.tick_keeps
    | with_reducible apply State.modEth_keeps
    | with_reducible apply KeepsOut.next
    | split

theorem execCourseCntRead_keeps {s₀ : State} (dt : Nat) (c : Nat) {s : State} (h : s₀.Keeps s) :
    KeepsOut s₀ (execCourseCntRead dt c s) := by
  unfold execCourseCntRead
  try dsimp only
  repeat' first
    | with_reducible assumption
    | with_reducible apply State.latchCourse_keeps
    | with_reducible apply State.tick_keeps
    | with_reducible apply KeepsOut.next
    | split

theorem execUsxgmiiLinkChange_keeps {s₀ : State} (dt : Nat) (mac : Nat) (up : Bool) {s : State} (h : s₀.Keeps s) :
    KeepsOut s₀ (execUsxgmiiLinkChange dt mac up s) := by
  unfold execUsxgmiiLinkChange
  try dsimp only
  repeat' first
    | with_reducible assumption
    | with_reducible apply State.tick_keeps
    | with_reducible apply State.modEth_keeps
    | with_reducible apply KeepsOut.next
    | split

theorem execMdioFrameEnd_keeps {s₀ : State} (dt : Nat) (mac : Nat) (rdata : Half) {s : State} (h : s₀.Keeps s) :
    KeepsOut s₀ (execMdioFrameEnd dt mac rdata s) := by
  unfold execMdioFrameEnd
  try dsimp only
  repeat' first
    | with_reducible assumption
    | with_reducible apply State.tick_keeps
    | with_reducible apply State.mdioEnd_keeps
    | with_reducible apply KeepsOut.next
    | split

theorem execMdioCtlStart_keeps {s₀ : State} (dt : Nat) (mac : Nat) (v : Word) {s : State} (h : s₀.Keeps s) :
    KeepsOut s₀ (execMdioCtlStart dt mac v s) := by
  unfold execMdioCtlStart
  try dsimp only
  repeat' first
    | with_reducible assumption
    | with_reducible apply State.mdioWrite_keeps
    | with_reducible apply State.tick_keeps
    | with_reducible apply KeepsOut.next
    | split

theorem execHostBar0AccessAsleep_keeps {s₀ : State} (dt : Nat) (write : Bool) (off : Nat) (v : Access) {s : State} (h : s₀.Keeps s) :
    KeepsOut s₀ (execHostBar0AccessAsleep dt write off v s) := by
  unfold execHostBar0AccessAsleep
  try dsimp only
  repeat' first
    | with_reducible assumption
    | with_reducible apply State.bar0Access_keeps
    | with_reducible apply State.tick_keeps
    | with_reducible apply State.advanced_keeps
    | with_reducible apply KeepsOut.next

theorem State.registerWrite_keeps {s₀ : State} (space : RegSpace) (addr : Nat) (w : AccessWidth) (v : Dword) {s : State} (h : s₀.Keeps s) :
    s₀.Keeps (State.registerWrite space addr w v s) := by
  unfold State.registerWrite
  try dsimp only
  repeat' first
    | with_reducible assumption
    | with_reducible apply State.bar0Access_keeps
    | with_reducible apply State.writeReg_keeps
    | split

theorem execRegisterWrite_keeps {s₀ : State} (dt : Nat) (space : RegSpace) (addr : Nat) (v : Access) {s : State} (h : s₀.Keeps s) :
    KeepsOut s₀ (execRegisterWrite dt space addr v s) := by
  unfold execRegisterWrite
  try dsimp only
  repeat' first
    | with_reducible assumption
    | with_reducible apply State.tick_keeps
    | with_reducible apply State.registerWrite_keeps
    | with_reducible apply State.advanced_keeps
    | with_reducible apply KeepsOut.next

/-! ### Debug -/

theorem State.observe_keeps {s₀ : State} (d : Option Nat) {s : State} (h : s₀.Keeps s) :
    s₀.Keeps (State.observe d s) := by
  unfold State.observe
  try dsimp only
  repeat' first
    | with_reducible assumption
    | simp only [State.Keeps.upd_in_iff]
    | split

theorem State.jtagOut_keeps {s₀ : State} (v : Word) {s : State} (h : s₀.Keeps s) :
    s₀.Keeps (State.jtagOut v s) := by
  unfold State.jtagOut
  try dsimp only
  repeat' first
    | with_reducible assumption
    | simp only [State.Keeps.upd_in_iff]

theorem State.jtagReadReg_keeps {s₀ : State} (a : Nat) {s : State} (h : s₀.Keeps s) :
    s₀.Keeps (State.jtagReadReg a s) := by
  unfold State.jtagReadReg
  try dsimp only
  repeat' first
    | with_reducible assumption
    | with_reducible apply State.observe_keeps
    | with_reducible apply State.fresh_keeps
    | with_reducible apply State.readReg_keeps
    | with_reducible apply State.jtagOut_keeps
    | split

theorem State.jtagRead_keeps {s₀ : State} (a : Nat) {s : State} (h : s₀.Keeps s) :
    s₀.Keeps (State.jtagRead a s) := by
  unfold State.jtagRead
  try dsimp only
  repeat' first
    | with_reducible assumption
    | with_reducible apply State.observe_keeps
    | with_reducible apply State.fresh_keeps
    | with_reducible apply State.noteRead_keeps
    | with_reducible apply State.jtagOut_keeps
    | split

theorem State.jtagAccess_keeps {s₀ : State} (op : JtagOp) {s : State} (h : s₀.Keeps s) :
    s₀.Keeps (State.jtagAccess op s) := by
  unfold State.jtagAccess
  try dsimp only
  repeat' first
    | with_reducible assumption
    | with_reducible apply State.observe_keeps
    | with_reducible apply State.jtagReadReg_keeps
    | with_reducible apply State.jtagRead_keeps
    | with_reducible apply State.writeReg_keeps
    | with_reducible apply State.physWrite_keeps
    | with_reducible apply State.jtagOut_keeps
    | simp only [State.Keeps.upd_in_iff]
    | split

theorem execJtagAccess_keeps {s₀ : State} (dt : Nat) (op : JtagOp) {s : State} (h : s₀.Keeps s) :
    KeepsOut s₀ (execJtagAccess dt op s) := by
  unfold execJtagAccess
  try dsimp only
  repeat' first
    | with_reducible assumption
    | with_reducible apply State.tick_keeps
    | with_reducible apply State.jtagAccess_keeps
    | with_reducible apply KeepsOut.next

theorem State.servicePinLevel_keeps {s₀ : State} (level : Bool) {s : State} (h : s₀.Keeps s) :
    s₀.Keeps (State.servicePinLevel level s) := by
  unfold State.servicePinLevel
  try dsimp only
  repeat' first
    | with_reducible assumption
    | simp only [State.Keeps.upd_iff]
    | split

theorem State.pinChange_keeps {s₀ : State} (p : Nat) (level : Bool) {s : State} (h : s₀.Keeps s) :
    s₀.Keeps (State.pinChange p level s) := by
  unfold State.pinChange
  try dsimp only
  repeat' first
    | with_reducible assumption
    | with_reducible apply State.pinLevel_keeps
    | with_reducible apply State.servicePinLevel_keeps
    | with_reducible apply State.slotsFire_keeps
    | split

theorem execPinLevelChange_keeps {s₀ : State} (dt : Nat) (p : Nat) (level : Bool) {s : State} (h : s₀.Keeps s) :
    KeepsOut s₀ (execPinLevelChange dt p level s) := by
  unfold execPinLevelChange
  try dsimp only
  repeat' first
    | with_reducible assumption
    | with_reducible apply State.pinChange_keeps
    | with_reducible apply State.tick_keeps
    | with_reducible apply KeepsOut.next

/-! ### TisaSys -/

theorem execIllegalInstruction_keeps {s₀ : State} (who : CoreRef) (unit : Half) {s : State} (h : s₀.Keeps s) :
    KeepsOut s₀ (execIllegalInstruction who unit s) := by
  unfold execIllegalInstruction
  try dsimp only
  repeat' first
    | with_reducible assumption
    | with_reducible apply State.issue_keeps
    | with_reducible apply KeepsOut.next
    | split

theorem State.cpEntry_keeps {s₀ : State} (arrivals : List Nat) {s : State} (h : s₀.Keeps s) :
    s₀.Keeps (State.cpEntry arrivals s) := by
  unfold State.cpEntry
  try dsimp only
  repeat' first
    | with_reducible assumption
    | with_reducible apply State.fresh_keeps
    | with_reducible apply State.sourceEvent_keeps
    | with_reducible apply State.takeSource_keeps
    | with_reducible apply State.cpFault_keeps
    | simp only [State.Keeps.upd_iff]
    | with_reducible apply State.Keeps.foldl
    | intro _
    | split

theorem execFlush_keeps {s₀ : State} (who : CoreRef) {s : State} (h : s₀.Keeps s) :
    KeepsOut s₀ (execFlush who s) := by
  unfold execFlush
  try dsimp only
  repeat' first
    | with_reducible assumption
    | with_reducible apply State.issue_keeps
    | with_reducible apply KeepsOut.next

theorem execLine_keeps {s₀ : State} (who : CoreRef) {s : State} (h : s₀.Keeps s) :
    KeepsOut s₀ (execLine who s) := by
  unfold execLine
  try dsimp only
  repeat' first
    | with_reducible assumption
    | with_reducible apply State.issue_keeps
    | with_reducible apply KeepsOut.next

theorem execSwset_keeps {s₀ : State} (who : CoreRef) {s : State} (h : s₀.Keeps s) :
    KeepsOut s₀ (execSwset who s) := by
  unfold execSwset
  try dsimp only
  repeat' first
    | with_reducible assumption
    | with_reducible apply State.issue_keeps
    | with_reducible apply KeepsOut.next

theorem State.tabEntry_keeps {s₀ : State} (hq : Nat) (slot : Nat) (arrivals : List Nat) {s : State} (h : s₀.Keeps s) :
    s₀.Keeps (State.tabEntry hq slot arrivals s) := by
  unfold State.tabEntry
  try dsimp only
  repeat' first
    | with_reducible assumption
    | with_reducible apply State.modThread_keeps
    | with_reducible apply State.faultThread_keeps
    | split

theorem State.pegEntry_keeps {s₀ : State} (arrivals : List Nat) {s : State} (h : s₀.Keeps s) :
    s₀.Keeps (State.pegEntry arrivals s) := by
  unfold State.pegEntry
  try dsimp only
  repeat' first
    | with_reducible assumption
    | with_reducible apply State.pegFault_keeps
    | simp only [State.Keeps.upd_in_iff]
    | split

theorem execCoreEntry_keeps {s₀ : State} (dt : Nat) (who : CoreRef) (arrivals : List Nat) {s : State} (h : s₀.Keeps s) :
    KeepsOut s₀ (execCoreEntry dt who arrivals s) := by
  unfold execCoreEntry
  try dsimp only
  repeat' first
    | with_reducible assumption
    | with_reducible apply State.cpEntry_keeps
    | with_reducible apply State.tabEntry_keeps
    | with_reducible apply State.tick_keeps
    | with_reducible apply State.pegEntry_keeps
    | with_reducible apply KeepsOut.next
    | split

theorem execPwrite_keeps {s₀ : State} (who : CoreRef) (id : Byte) {s : State} (h : s₀.Keeps s) :
    KeepsOut s₀ (execPwrite who id s) := by
  unfold execPwrite
  try dsimp only
  repeat' first
    | with_reducible assumption
    | with_reducible apply State.issue_keeps
    | with_reducible apply KeepsOut.next

theorem State.loadFails_keeps {s₀ : State} (hq : Nat) (slot : Nat) (k : Thread) (f : Option AssetFault) {s : State} (h : s₀.Keeps s) :
    s₀.Keeps (State.loadFails hq slot k f s) := by
  unfold State.loadFails
  try dsimp only
  repeat' first
    | with_reducible assumption
    | with_reducible apply State.countFault_keeps
    | with_reducible apply State.modThread_keeps
    | with_reducible apply State.faultThread_keeps
    | with_reducible apply State.atlasFault_keeps
    | with_reducible apply State.modHead_keeps
    | split

theorem State.fenceComplete_keeps {s₀ : State} (hq : Nat) (slot : Nat) (poisoned : Bool) {s : State} (h : s₀.Keeps s) :
    s₀.Keeps (State.fenceComplete hq slot poisoned s) := by
  unfold State.fenceComplete
  try dsimp only
  repeat' first
    | with_reducible assumption
    | with_reducible apply State.modThread_keeps
    | with_reducible apply State.faultThread_keeps
    | with_reducible apply State.tabAfter_keeps
    | split

theorem execReti_keeps {s₀ : State} (who : CoreRef) {s : State} (h : s₀.Keeps s) :
    KeepsOut s₀ (execReti who s) := by
  unfold execReti
  try dsimp only
  repeat' first
    | with_reducible assumption
    | with_reducible apply State.issue_keeps
    | with_reducible apply KeepsOut.next

theorem execFence_keeps {s₀ : State} (who : CoreRef) {s : State} (h : s₀.Keeps s) :
    KeepsOut s₀ (execFence who s) := by
  unfold execFence
  try dsimp only
  repeat' first
    | with_reducible assumption
    | with_reducible apply State.issue_keeps
    | with_reducible apply KeepsOut.next

theorem execIdle_keeps {s₀ : State} (who : CoreRef) {s : State} (h : s₀.Keeps s) :
    KeepsOut s₀ (execIdle who s) := by
  unfold execIdle
  try dsimp only
  repeat' first
    | with_reducible assumption
    | with_reducible apply State.issue_keeps
    | with_reducible apply KeepsOut.next

theorem execSwget_keeps {s₀ : State} (who : CoreRef) {s : State} (h : s₀.Keeps s) :
    KeepsOut s₀ (execSwget who s) := by
  unfold execSwget
  try dsimp only
  repeat' first
    | with_reducible assumption
    | with_reducible apply State.issue_keeps
    | with_reducible apply KeepsOut.next

theorem execCustomInstruction_keeps {s₀ : State} (who : CoreRef) (c : BitVec 5) (imm : BitVec 7) (ext : Word) {s : State} (h : s₀.Keeps s) :
    KeepsOut s₀ (execCustomInstruction who c imm ext s) := by
  unfold execCustomInstruction
  try dsimp only
  repeat' first
    | with_reducible assumption
    | with_reducible apply State.issue_keeps
    | with_reducible apply KeepsOut.next

theorem State.loadReturn_keeps {s₀ : State} (hq : Nat) (slot : Nat) (o : FetchOutcome) {s : State} (h : s₀.Keeps s) :
    s₀.Keeps (State.loadReturn hq slot o s) := by
  unfold State.loadReturn
  try dsimp only
  repeat' first
    | with_reducible assumption
    | with_reducible apply State.modThread_keeps
    | with_reducible apply State.microRun_keeps
    | with_reducible apply State.microEnd_keeps
    | with_reducible apply State.loadFails_keeps
    | with_reducible apply State.noteUe_keeps
    | with_reducible apply State.learnError_keeps
    | with_reducible apply State.faultThread_keeps
    | with_reducible apply State.noteReqs_keeps
    | with_reducible apply State.tabAfter_keeps
    | with_reducible apply State.noteCe_keeps
    | split

theorem execWaitl_keeps {s₀ : State} (who : CoreRef) {s : State} (h : s₀.Keeps s) :
    KeepsOut s₀ (execWaitl who s) := by
  unfold execWaitl
  try dsimp only
  repeat' first
    | with_reducible assumption
    | with_reducible apply State.issue_keeps
    | with_reducible apply KeepsOut.next

theorem execYield_keeps {s₀ : State} (who : CoreRef) {s : State} (h : s₀.Keeps s) :
    KeepsOut s₀ (execYield who s) := by
  unfold execYield
  try dsimp only
  repeat' first
    | with_reducible assumption
    | with_reducible apply State.issue_keeps
    | with_reducible apply KeepsOut.next

theorem execLoadReturn_keeps {s₀ : State} (dt : Nat) (core : Nat) (thread : Nat) (o : FetchOutcome) {s : State} (h : s₀.Keeps s) :
    KeepsOut s₀ (execLoadReturn dt core thread o s) := by
  unfold execLoadReturn
  try dsimp only
  repeat' first
    | with_reducible assumption
    | with_reducible apply State.tick_keeps
    | with_reducible apply State.loadReturn_keeps
    | with_reducible apply State.advanced_keeps
    | with_reducible apply KeepsOut.next

theorem execFenceComplete_keeps {s₀ : State} (dt : Nat) (core : Nat) (thread : Nat) (poisoned : Bool) {s : State} (h : s₀.Keeps s) :
    KeepsOut s₀ (execFenceComplete dt core thread poisoned s) := by
  unfold execFenceComplete
  try dsimp only
  repeat' first
    | with_reducible assumption
    | with_reducible apply State.tick_keeps
    | with_reducible apply State.fenceComplete_keeps
    | with_reducible apply KeepsOut.next

theorem State.budgetOverrun_keeps {s₀ : State} (hq : Nat) (slot : Nat) (charge : Nat) {s : State} (h : s₀.Keeps s) :
    s₀.Keeps (State.budgetOverrun hq slot charge s) := by
  unfold State.budgetOverrun
  try dsimp only
  repeat' first
    | with_reducible assumption
    | with_reducible apply State.overrun_keeps
    | split

theorem execTabBudgetOverrun_keeps {s₀ : State} (dt : Nat) (core : Nat) (thread : Nat) (charge : Nat) {s : State} (h : s₀.Keeps s) :
    KeepsOut s₀ (execTabBudgetOverrun dt core thread charge s) := by
  unfold execTabBudgetOverrun
  try dsimp only
  repeat' first
    | with_reducible assumption
    | with_reducible apply State.budgetOverrun_keeps
    | with_reducible apply State.tick_keeps
    | with_reducible apply KeepsOut.next

theorem execPalw_keeps {s₀ : State} (who : CoreRef) {s : State} (h : s₀.Keeps s) :
    KeepsOut s₀ (execPalw who s) := by
  unfold execPalw
  try dsimp only
  repeat' first
    | with_reducible assumption
    | with_reducible apply State.issue_keeps
    | with_reducible apply KeepsOut.next

theorem execTrap_keeps {s₀ : State} (who : CoreRef) (t : Byte) {s : State} (h : s₀.Keeps s) :
    KeepsOut s₀ (execTrap who t s) := by
  unfold execTrap
  try dsimp only
  repeat' first
    | with_reducible assumption
    | with_reducible apply State.issue_keeps
    | with_reducible apply KeepsOut.next

/-! ### Fetches -/

theorem State.voiceFetchFault_keeps {s₀ : State} (v : Nat) (cause : Nat) (f : Option AssetFault) {s : State} (h : s₀.Keeps s) :
    s₀.Keeps (State.voiceFetchFault v cause f s) := by
  unfold State.voiceFetchFault
  try dsimp only
  repeat' first
    | with_reducible assumption
    | with_reducible apply State.countFault_keeps
    | with_reducible apply State.voiceFaultReport_keeps
    | with_reducible apply State.atlasFault_keeps
    | with_reducible apply State.modVoice_keeps
    | split

theorem State.commandFetchFault_keeps {s₀ : State} (t : Nat) (index : Word) (f : AssetFault) {s : State} (h : s₀.Keeps s) :
    s₀.Keeps (State.commandFetchFault t index f s) := by
  unfold State.commandFetchFault
  try dsimp only
  repeat' first
    | with_reducible assumption
    | with_reducible apply State.complete_keeps
    | with_reducible apply State.atlasFault_keeps
    | with_reducible apply State.modDisp_keeps
    | split

theorem State.blitFetchFault_keeps {s₀ : State} (f : AssetFault) {s : State} (h : s₀.Keeps s) :
    s₀.Keeps (State.blitFetchFault f s) := by
  unfold State.blitFetchFault
  try dsimp only
  repeat' first
    | with_reducible assumption
    | with_reducible apply State.complete_keeps
    | with_reducible apply State.atlasFault_keeps
    | simp only [State.Keeps.upd_iff]
    | split

theorem State.requesterFault_keeps {s₀ : State} (req : Requester) (f : AssetFault) (poison : Bool) {s : State} (h : s₀.Keeps s) :
    s₀.Keeps (State.requesterFault req f poison s) := by
  unfold State.requesterFault
  try dsimp only
  repeat' first
    | with_reducible assumption
    | with_reducible apply State.dmaStop_keeps
    | with_reducible apply State.voiceFetchFault_keeps
    | with_reducible apply State.planeFault_keeps
    | with_reducible apply State.cutPlane_keeps
    | with_reducible apply State.commandFetchFault_keeps
    | with_reducible apply State.atlasFault_keeps
    | with_reducible apply State.cpFault_keeps
    | with_reducible apply State.cutList_keeps
    | with_reducible apply State.stopMbox_keeps
    | with_reducible apply State.dmaFail_keeps
    | with_reducible apply State.blitFetchFault_keeps
    | split

theorem State.unmapEnd_keeps {s₀ : State} (r : CmdRef) (ls : List Leaf) {s : State} (h : s₀.Keeps s) :
    s₀.Keeps (State.unmapEnd r ls s) := by
  unfold State.unmapEnd
  try dsimp only
  repeat' first
    | with_reducible assumption
    | with_reducible apply State.completeOk_keeps
    | split

theorem State.bankEnd_keeps {s₀ : State} (r : CmdRef) (b : Nat) (cls : Nat) (inst : Nat) {s : State} (h : s₀.Keeps s) :
    s₀.Keeps (State.bankEnd r b cls inst s) := by
  unfold State.bankEnd
  try dsimp only
  repeat' first
    | with_reducible assumption
    | with_reducible apply State.modBank_keeps
    | with_reducible apply State.physZero_keeps
    | with_reducible apply State.completeOk_keeps

theorem State.mapEnd_keeps {s₀ : State} (r : CmdRef) (ls : List Leaf) (n : Nat) {s : State} (h : s₀.Keeps s) :
    s₀.Keeps (State.mapEnd r ls n s) := by
  unfold State.mapEnd
  try dsimp only
  repeat' first
    | with_reducible assumption
    | with_reducible apply State.physZero_keeps
    | with_reducible apply State.modTenant_keeps
    | with_reducible apply State.completeOk_keeps
    | with_reducible apply State.Keeps.foldl
    | intro _

theorem State.storeError_keeps {s₀ : State} (p : Nat) (kind : Nat) {s : State} (h : s₀.Keeps s) :
    s₀.Keeps (State.storeError p kind s) := by
  unfold State.storeError
  try dsimp only
  repeat' first
    | with_reducible assumption
    | with_reducible apply State.modDisp_keeps
    | with_reducible apply State.eventLimited_keeps

theorem State.countError_keeps {s₀ : State} (o : FetchOutcome) {s : State} (h : s₀.Keeps s) :
    s₀.Keeps (State.countError o s) := by
  unfold State.countError
  try dsimp only
  repeat' first
    | with_reducible assumption
    | with_reducible apply State.noteUe_keeps
    | with_reducible apply State.storeError_keeps
    | with_reducible apply State.noteCe_keeps
    | split

theorem State.fetchReturn_keeps {s₀ : State} (req : Requester) (o : FetchOutcome) {s : State} (h : s₀.Keeps s) :
    s₀.Keeps (State.fetchReturn req o s) := by
  unfold State.fetchReturn
  try dsimp only
  repeat' first
    | with_reducible assumption
    | with_reducible apply State.learnError_keeps
    | with_reducible apply State.countError_keeps
    | with_reducible apply State.requesterFault_keeps
    | split

theorem execFetchReturn_keeps {s₀ : State} (dt : Nat) (req : Requester) (o : FetchOutcome) {s : State} (h : s₀.Keeps s) :
    KeepsOut s₀ (execFetchReturn dt req o s) := by
  unfold execFetchReturn
  try dsimp only
  repeat' first
    | with_reducible assumption
    | with_reducible apply State.fetchReturn_keeps
    | with_reducible apply State.tick_keeps
    | with_reducible apply State.advanced_keeps
    | with_reducible apply KeepsOut.next

theorem State.jobEnd_keeps {s₀ : State} (r : CmdRef) {s : State} (a : Job) (h : s₀.Keeps s) :
    s₀.Keeps (State.jobEnd r s a) := by
  unfold State.jobEnd
  try dsimp only
  repeat' first
    | with_reducible assumption
    | with_reducible apply State.unmapEnd_keeps
    | with_reducible apply State.mapEnd_keeps
    | with_reducible apply State.loadDone_keeps
    | with_reducible apply State.prerollEnd_keeps
    | with_reducible apply State.bankEnd_keeps
    | split

theorem State.waitEnd_keeps {s₀ : State} (t : Nat) (index : Word) {s : State} (h : s₀.Keeps s) :
    s₀.Keeps (State.waitEnd t index s) := by
  unfold State.waitEnd
  try dsimp only
  repeat' first
    | with_reducible assumption
    | with_reducible apply State.jobEnd_keeps
    | split

theorem execCommandWaitEnd_keeps {s₀ : State} (dt : Nat) (t : Nat) (index : Word) {s : State} (h : s₀.Keeps s) :
    KeepsOut s₀ (execCommandWaitEnd dt t index s) := by
  unfold execCommandWaitEnd
  try dsimp only
  repeat' first
    | with_reducible assumption
    | with_reducible apply State.waitEnd_keeps
    | with_reducible apply State.tick_keeps
    | with_reducible apply State.advanced_keeps
    | with_reducible apply KeepsOut.next

/-! ### Governor -/

theorem State.gateForMode_keeps {s₀ : State} {s : State} (h : s₀.Keeps s) :
    s₀.Keeps (State.gateForMode s) := by
  unfold State.gateForMode
  try dsimp only
  repeat' first
    | with_reducible assumption
    | with_reducible apply State.gateRequest_keeps
    | simp only [State.Keeps.upd_iff]
    | with_reducible apply State.Keeps.foldl
    | intro _

theorem State.withClocks_keeps {s₀ : State} {old : State} {s : State} (h : s₀.Keeps s) :
    s₀.Keeps (State.withClocks old s) := by
  unfold State.withClocks
  try dsimp only
  repeat' first
    | with_reducible assumption
    | with_reducible apply State.gateForMode_keeps
    | split

theorem execWakeComplete_keeps {s₀ : State} (dt : Nat) {s : State} (h : s₀.Keeps s) :
    KeepsOut s₀ (execWakeComplete dt s) := by
  unfold execWakeComplete
  try dsimp only
  repeat' first
    | with_reducible assumption
    | with_reducible apply State.withClocks_keeps
    | with_reducible apply State.wakeComplete_keeps
    | with_reducible apply State.tick_keeps
    | with_reducible apply KeepsOut.next

theorem State.modGov_keeps {s₀ : State} {s : State} (f : Governor → Governor) (h : s₀.Keeps s) :
    s₀.Keeps (State.modGov s f) := by
  unfold State.modGov
  try dsimp only
  repeat' first
    | with_reducible assumption
    | with_reducible apply State.modDisp_keeps

theorem State.decision_keeps {s₀ : State} (action : Nat) (value : Nat) {s : State} (h : s₀.Keeps s) :
    s₀.Keeps (State.decision action value s) := by
  unfold State.decision
  try dsimp only
  repeat' first
    | with_reducible assumption
    | with_reducible apply State.notify_keeps
    | with_reducible apply State.devEvent_keeps
    | with_reducible apply State.event_keeps

theorem State.anchor_keeps {s₀ : State} (current : Nat) {s : State} (h : s₀.Keeps s) :
    s₀.Keeps (State.anchor current s) := by
  unfold State.anchor
  try dsimp only
  repeat' first
    | with_reducible assumption
    | with_reducible apply State.modGov_keeps
    | with_reducible apply State.decision_keeps
    | split

theorem State.thermtrip_keeps {s₀ : State} {s : State} (h : s₀.Keeps s) :
    s₀.Keeps (State.thermtrip s) := by
  unfold State.thermtrip
  try dsimp only
  repeat' first
    | with_reducible assumption
    | with_reducible apply State.modGov_keeps
    | with_reducible apply State.decision_keeps
    | with_reducible apply State.devEvent_keeps
    | split

theorem execThermtripAssert_keeps {s₀ : State} (dt : Nat) {s : State} (h : s₀.Keeps s) :
    KeepsOut s₀ (execThermtripAssert dt s) := by
  unfold execThermtripAssert
  try dsimp only
  repeat' first
    | with_reducible assumption
    | with_reducible apply State.thermtrip_keeps
    | with_reducible apply State.tick_keeps
    | with_reducible apply KeepsOut.next

theorem State.setLevel_keeps {s₀ : State} (hq : Nat) (l : Nat) {s : State} (h : s₀.Keeps s) :
    s₀.Keeps (State.setLevel hq l s) := by
  unfold State.setLevel
  try dsimp only
  repeat' first
    | with_reducible assumption
    | with_reducible apply State.modHead_keeps

theorem State.degrade_keeps {s₀ : State} {s : State} (h : s₀.Keeps s) :
    s₀.Keeps (State.degrade s) := by
  unfold State.degrade
  try dsimp only
  repeat' first
    | with_reducible assumption
    | with_reducible apply State.modGov_keeps
    | with_reducible apply State.decision_keeps
    | with_reducible apply State.setLevel_keeps
    | split

theorem clockPlanSetBody_keeps {s₀ : State} (c : Cmd) (r : CmdRef) {s : State} (h : s₀.Keeps s) :
    KeepsCmd s₀ (clockPlanSetBody c r s) := by
  unfold clockPlanSetBody
  try dsimp only
  repeat' first
    | with_reducible assumption
    | with_reducible apply State.armChange_keeps
    | with_reducible apply KeepsCmd.bind
    | with_reducible apply KeepsCmd.ok
    | intro _

theorem State.undoMode_keeps {s₀ : State} {s : State} (h : s₀.Keeps s) :
    s₀.Keeps (State.undoMode s) := by
  unfold State.undoMode
  try dsimp only
  repeat' first
    | with_reducible assumption
    | with_reducible apply State.forceDue_keeps
    | with_reducible apply State.resumeMeridian_keeps
    | with_reducible apply State.startQueued_keeps
    | with_reducible apply State.restartHead_keeps
    | with_reducible apply State.modeReport_keeps
    | with_reducible apply State.unlatch_keeps
    | simp only [State.Keeps.upd_iff]
    | with_reducible apply State.Keeps.foldl
    | intro _
    | split

theorem State.rollback_keeps {s₀ : State} (id : Nat) {s : State} (h : s₀.Keeps s) :
    s₀.Keeps (State.rollback id s) := by
  unfold State.rollback
  try dsimp only
  repeat' first
    | with_reducible assumption
    | with_reducible apply State.modGov_keeps
    | with_reducible apply State.undoMode_keeps
    | with_reducible apply State.modDisp_keeps
    | simp only [State.Keeps.upd_iff]
    | split

theorem State.keepUnits_keeps {s₀ : State} (us : List ArmUnit) (old : Clocks) {s : State} (h : s₀.Keeps s) :
    s₀.Keeps (State.keepUnits us old s) := by
  unfold State.keepUnits
  try dsimp only
  repeat' first
    | with_reducible assumption
    | simp only [State.Keeps.upd_iff]

theorem State.modArm_keeps {s₀ : State} (id : Nat) (f : ArmChange → ArmChange) {s : State} (h : s₀.Keeps s) :
    s₀.Keeps (State.modArm id f s) := by
  unfold State.modArm
  try dsimp only
  repeat' first
    | with_reducible assumption
    | with_reducible apply State.modDisp_keeps

theorem State.applyTime_keeps {s₀ : State} (id : Nat) {s : State} (h : s₀.Keeps s) :
    s₀.Keeps (State.applyTime id s) := by
  unfold State.applyTime
  try dsimp only
  repeat' first
    | with_reducible assumption
    | with_reducible apply State.keepUnits_keeps
    | with_reducible apply State.applyMode_keeps
    | with_reducible apply State.completeOk_keeps
    | with_reducible apply State.modArm_keeps
    | simp only [State.Keeps.upd_iff]
    | split

theorem execApplyTime_keeps {s₀ : State} (dt : Nat) (id : Nat) {s : State} (h : s₀.Keeps s) :
    KeepsOut s₀ (execApplyTime dt id s) := by
  unfold execApplyTime
  try dsimp only
  repeat' first
    | with_reducible assumption
    | with_reducible apply State.applyTime_keeps
    | with_reducible apply State.tick_keeps
    | with_reducible apply State.advanced_keeps
    | with_reducible apply KeepsOut.next

theorem State.armDeadline_keeps {s₀ : State} (id : Nat) (unarmed : List ArmUnit) {s : State} (h : s₀.Keeps s) :
    s₀.Keeps (State.armDeadline id unarmed s) := by
  unfold State.armDeadline
  try dsimp only
  repeat' first
    | with_reducible assumption
    | with_reducible apply State.markSuspect_keeps
    | with_reducible apply State.modDisp_keeps
    | with_reducible apply State.modArm_keeps
    | simp only [State.Keeps.upd_iff]
    | with_reducible apply State.Keeps.foldl
    | intro _
    | split

theorem State.takeReadings_keeps {s₀ : State} (temps : List Int) (activity : List Nat) {s : State} (h : s₀.Keeps s) :
    s₀.Keeps (State.takeReadings temps activity s) := by
  unfold State.takeReadings
  try dsimp only
  repeat' first
    | with_reducible assumption
    | with_reducible apply State.modGov_keeps

theorem execModeReached_keeps {s₀ : State} (dt : Nat) {s : State} (h : s₀.Keeps s) :
    KeepsOut s₀ (execModeReached dt s) := by
  unfold execModeReached
  try dsimp only
  repeat' first
    | with_reducible assumption
    | with_reducible apply State.withClocks_keeps
    | with_reducible apply State.tick_keeps
    | with_reducible apply State.modeReached_keeps
    | with_reducible apply KeepsOut.next

theorem State.stepDown_keeps {s₀ : State} {s : State} (h : s₀.Keeps s) :
    s₀.Keeps (State.stepDown s) := by
  unfold State.stepDown
  try dsimp only
  repeat' first
    | with_reducible assumption
    | with_reducible apply State.modGov_keeps
    | with_reducible apply State.armChange_keeps
    | with_reducible apply State.decision_keeps
    | split

theorem execArmDeadline_keeps {s₀ : State} (dt : Nat) (id : Nat) (unarmed : List ArmUnit) {s : State} (h : s₀.Keeps s) :
    KeepsOut s₀ (execArmDeadline dt id unarmed s) := by
  unfold execArmDeadline
  try dsimp only
  repeat' first
    | with_reducible assumption
    | with_reducible apply State.armDeadline_keeps
    | with_reducible apply State.tick_keeps
    | with_reducible apply KeepsOut.next

theorem State.restore_keeps {s₀ : State} {s : State} (h : s₀.Keeps s) :
    s₀.Keeps (State.restore s) := by
  unfold State.restore
  try dsimp only
  repeat' first
    | with_reducible assumption
    | with_reducible apply State.modGov_keeps
    | with_reducible apply State.decision_keeps
    | with_reducible apply State.setLevel_keeps
    | split

theorem State.forceTell_keeps {s₀ : State} {s : State} (h : s₀.Keeps s) :
    s₀.Keeps (State.forceTell s) := by
  unfold State.forceTell
  try dsimp only
  repeat' first
    | with_reducible assumption
    | with_reducible apply State.forceDue_keeps
    | with_reducible apply State.decision_keeps
    | simp only [State.Keeps.upd_iff]
    | split

theorem State.stepUp_keeps {s₀ : State} {s : State} (h : s₀.Keeps s) :
    s₀.Keeps (State.stepUp s) := by
  unfold State.stepUp
  try dsimp only
  repeat' first
    | with_reducible assumption
    | with_reducible apply State.modGov_keeps
    | with_reducible apply State.armChange_keeps
    | with_reducible apply State.decision_keeps
    | split

theorem State.govern_keeps {s₀ : State} (temps : List Int) (activity : List Nat) {s : State} (h : s₀.Keeps s) :
    s₀.Keeps (State.govern temps activity s) := by
  unfold State.govern
  try dsimp only
  repeat' first
    | with_reducible assumption
    | with_reducible apply State.restore_keeps
    | with_reducible apply State.forceTell_keeps
    | with_reducible apply State.takeReadings_keeps
    | with_reducible apply State.stepDown_keeps
    | with_reducible apply State.degrade_keeps
    | with_reducible apply State.stepUp_keeps
    | split

theorem State.failRecord_keeps {s₀ : State} (r : CmdRef) (ws : List Word) {s : State} (h : s₀.Keeps s) :
    s₀.Keeps (State.failRecord r ws s) := by
  unfold State.failRecord
  try dsimp only
  repeat' first
    | with_reducible assumption
    | with_reducible apply State.modMbox_keeps
    | with_reducible apply State.complete_keeps
    | split

theorem State.failGroup_keeps {s₀ : State} (r : CmdRef) (at_ : List Nat) (ws : List Word) {s : State} (h : s₀.Keeps s) :
    s₀.Keeps (State.failGroup r at_ ws s) := by
  unfold State.failGroup
  try dsimp only
  repeat' first
    | with_reducible assumption
    | with_reducible apply State.rollAtBoundary_keeps
    | with_reducible apply State.modStage_keeps
    | with_reducible apply State.modDisp_keeps
    | with_reducible apply State.failRecord_keeps
    | with_reducible apply State.Keeps.foldl
    | intro _
    | split

theorem State.unanchor_keeps {s₀ : State} {s : State} (h : s₀.Keeps s) :
    s₀.Keeps (State.unanchor s) := by
  unfold State.unanchor
  try dsimp only
  repeat' first
    | with_reducible assumption
    | with_reducible apply State.modGov_keeps
    | with_reducible apply State.decision_keeps
    | split

theorem execEstimatorUnanchored_keeps {s₀ : State} (dt : Nat) {s : State} (h : s₀.Keeps s) :
    KeepsOut s₀ (execEstimatorUnanchored dt s) := by
  unfold execEstimatorUnanchored
  try dsimp only
  repeat' first
    | with_reducible assumption
    | with_reducible apply State.tick_keeps
    | with_reducible apply State.unanchor_keeps
    | with_reducible apply KeepsOut.next

theorem execRollback_keeps {s₀ : State} (dt : Nat) (id : Nat) {s : State} (h : s₀.Keeps s) :
    KeepsOut s₀ (execRollback dt id s) := by
  unfold execRollback
  try dsimp only
  repeat' first
    | with_reducible assumption
    | with_reducible apply State.rollback_keeps
    | with_reducible apply State.tick_keeps
    | with_reducible apply KeepsOut.next

theorem State.ackTimeout_keeps {s₀ : State} (id : Nat) (u : ArmUnit) {s : State} (h : s₀.Keeps s) :
    s₀.Keeps (State.ackTimeout id u s) := by
  unfold State.ackTimeout
  try dsimp only
  repeat' first
    | with_reducible assumption
    | with_reducible apply State.markSuspect_keeps
    | with_reducible apply State.failGroup_keeps
    | with_reducible apply State.modArm_keeps
    | with_reducible apply State.failRecord_keeps
    | simp only [State.Keeps.upd_iff]
    | split

theorem execApplyAckTimeout_keeps {s₀ : State} (dt : Nat) (id : Nat) (u : ArmUnit) {s : State} (h : s₀.Keeps s) :
    KeepsOut s₀ (execApplyAckTimeout dt id u s) := by
  unfold execApplyAckTimeout
  try dsimp only
  repeat' first
    | with_reducible assumption
    | with_reducible apply State.tick_keeps
    | with_reducible apply State.ackTimeout_keeps
    | with_reducible apply State.advanced_keeps
    | with_reducible apply KeepsOut.next

theorem execGovernorEvaluation_keeps {s₀ : State} (dt : Nat) (temps : List Int) (activity : List Nat) {s : State} (h : s₀.Keeps s) :
    KeepsOut s₀ (execGovernorEvaluation dt temps activity s) := by
  unfold execGovernorEvaluation
  try dsimp only
  repeat' first
    | with_reducible assumption
    | with_reducible apply State.govern_keeps
    | with_reducible apply State.tick_keeps
    | with_reducible apply KeepsOut.next

theorem execLeakageAnchor_keeps {s₀ : State} (dt : Nat) (current : Nat) {s : State} (h : s₀.Keeps s) :
    KeepsOut s₀ (execLeakageAnchor dt current s) := by
  unfold execLeakageAnchor
  try dsimp only
  repeat' first
    | with_reducible assumption
    | with_reducible apply State.anchor_keeps
    | with_reducible apply State.tick_keeps
    | with_reducible apply KeepsOut.next

/-! ### TenantCmds -/

theorem eventSubscribeBody_keeps {s₀ : State} (c : Cmd) (a : CmdRef) {s : State} (h : s₀.Keeps s) :
    KeepsCmd s₀ (eventSubscribeBody c a s) := by
  unfold eventSubscribeBody
  try dsimp only
  repeat' first
    | with_reducible assumption
    | with_reducible apply okDone_keeps
    | with_reducible apply State.modTenant_keeps
    | with_reducible apply KeepsCmd.bind
    | with_reducible apply KeepsCmd.error
    | intro _
    | split

theorem viewportSetBody_keeps {s₀ : State} (c : Cmd) (r : CmdRef) {s : State} (h : s₀.Keeps s) :
    KeepsCmd s₀ (viewportSetBody c r s) := by
  unfold viewportSetBody
  try dsimp only
  repeat' first
    | with_reducible assumption
    | with_reducible apply State.endStill_keeps
    | with_reducible apply State.modHead_keeps
    | with_reducible apply KeepsCmd.bind
    | with_reducible apply KeepsCmd.error
    | with_reducible apply KeepsCmd.ok
    | intro _
    | split

theorem State.destroyComplete_keeps {s₀ s : State} (t : Nat) (h : s₀.Keeps s) : s₀.Keeps (s.destroyComplete t) := by
  unfold State.destroyComplete
  dsimp only
  have ha := State.advanceDestroy_keeps t h
  split
  · exact State.completeOk_keeps _ _ (ha.table rfl rfl rfl rfl rfl (fun w => IMap.tenantsWf_del w _))
  · exact ha

theorem tenantDestroyBody_keeps {s₀ : State} (c : Cmd) (r : CmdRef) {s : State} (h : s₀.Keeps s) :
    KeepsCmd s₀ (tenantDestroyBody c r s) := by
  unfold tenantDestroyBody
  try dsimp only
  repeat' first
    | with_reducible assumption
    | with_reducible apply State.beginDestroy_keeps
    | with_reducible apply KeepsCmd.bind
    | with_reducible apply KeepsCmd.error
    | with_reducible apply KeepsCmd.ok
    | intro _
    | split

theorem execTenantDestroyComplete_keeps {s₀ : State} (dt : Nat) (t : Nat) {s : State} (h : s₀.Keeps s) :
    KeepsOut s₀ (execTenantDestroyComplete dt t s) := by
  unfold execTenantDestroyComplete
  try dsimp only
  repeat' first
    | with_reducible assumption
    | with_reducible apply State.destroyComplete_keeps
    | with_reducible apply State.tick_keeps
    | with_reducible apply KeepsOut.next

/-! ### TisaFlow -/

theorem execCall_keeps {s₀ : State} (who : CoreRef) (off : BitVec 10) {s : State} (h : s₀.Keeps s) :
    KeepsOut s₀ (execCall who off s) := by
  unfold execCall
  try dsimp only
  repeat' first
    | with_reducible assumption
    | with_reducible apply State.issue_keeps
    | with_reducible apply KeepsOut.next

theorem execBnz_keeps {s₀ : State} (who : CoreRef) (off : BitVec 9) {s : State} (h : s₀.Keeps s) :
    KeepsOut s₀ (execBnz who off s) := by
  unfold execBnz
  try dsimp only
  repeat' first
    | with_reducible assumption
    | with_reducible apply State.issue_keeps
    | with_reducible apply KeepsOut.next

theorem execPget_keeps {s₀ : State} (who : CoreRef) (p : BitVec 3) {s : State} (h : s₀.Keeps s) :
    KeepsOut s₀ (execPget who p s) := by
  unfold execPget
  try dsimp only
  repeat' first
    | with_reducible assumption
    | with_reducible apply State.issue_keeps
    | with_reducible apply KeepsOut.next

theorem execSt16_keeps {s₀ : State} (who : CoreRef) (p : BitVec 3) (k : BitVec 5) {s : State} (h : s₀.Keeps s) :
    KeepsOut s₀ (execSt16 who p k s) := by
  unfold execSt16
  try dsimp only
  repeat' first
    | with_reducible assumption
    | with_reducible apply State.issue_keeps
    | with_reducible apply KeepsOut.next

theorem execBne_keeps {s₀ : State} (who : CoreRef) (off : BitVec 9) {s : State} (h : s₀.Keeps s) :
    KeepsOut s₀ (execBne who off s) := by
  unfold execBne
  try dsimp only
  repeat' first
    | with_reducible assumption
    | with_reducible apply State.issue_keeps
    | with_reducible apply KeepsOut.next

theorem execBge_keeps {s₀ : State} (who : CoreRef) (off : BitVec 9) {s : State} (h : s₀.Keeps s) :
    KeepsOut s₀ (execBge who off s) := by
  unfold execBge
  try dsimp only
  repeat' first
    | with_reducible assumption
    | with_reducible apply State.issue_keeps
    | with_reducible apply KeepsOut.next

theorem execBcc_keeps {s₀ : State} (who : CoreRef) (cc : BitVec 4) (off : BitVec 8) {s : State} (h : s₀.Keeps s) :
    KeepsOut s₀ (execBcc who cc off s) := by
  unfold execBcc
  try dsimp only
  repeat' first
    | with_reducible assumption
    | with_reducible apply State.issue_keeps
    | with_reducible apply KeepsOut.next

theorem execLd8s_keeps {s₀ : State} (who : CoreRef) (p : BitVec 3) (k : BitVec 5) {s : State} (h : s₀.Keeps s) :
    KeepsOut s₀ (execLd8s who p k s) := by
  unfold execLd8s
  try dsimp only
  repeat' first
    | with_reducible assumption
    | with_reducible apply State.issue_keeps
    | with_reducible apply KeepsOut.next

theorem execLd16u_keeps {s₀ : State} (who : CoreRef) (p : BitVec 3) (k : BitVec 5) {s : State} (h : s₀.Keeps s) :
    KeepsOut s₀ (execLd16u who p k s) := by
  unfold execLd16u
  try dsimp only
  repeat' first
    | with_reducible assumption
    | with_reducible apply State.issue_keeps
    | with_reducible apply KeepsOut.next

theorem execLd16s_keeps {s₀ : State} (who : CoreRef) (p : BitVec 3) (k : BitVec 5) {s : State} (h : s₀.Keeps s) :
    KeepsOut s₀ (execLd16s who p k s) := by
  unfold execLd16s
  try dsimp only
  repeat' first
    | with_reducible assumption
    | with_reducible apply State.issue_keeps
    | with_reducible apply KeepsOut.next

theorem execSt32p_keeps {s₀ : State} (who : CoreRef) (p : BitVec 3) {s : State} (h : s₀.Keeps s) :
    KeepsOut s₀ (execSt32p who p s) := by
  unfold execSt32p
  try dsimp only
  repeat' first
    | with_reducible assumption
    | with_reducible apply State.issue_keeps
    | with_reducible apply KeepsOut.next

theorem execPaddi_keeps {s₀ : State} (who : CoreRef) (p : BitVec 3) (k : BitVec 5) {s : State} (h : s₀.Keeps s) :
    KeepsOut s₀ (execPaddi who p k s) := by
  unfold execPaddi
  try dsimp only
  repeat' first
    | with_reducible assumption
    | with_reducible apply State.issue_keeps
    | with_reducible apply KeepsOut.next

theorem execJmp_keeps {s₀ : State} (who : CoreRef) (off : BitVec 10) {s : State} (h : s₀.Keeps s) :
    KeepsOut s₀ (execJmp who off s) := by
  unfold execJmp
  try dsimp only
  repeat' first
    | with_reducible assumption
    | with_reducible apply State.issue_keeps
    | with_reducible apply KeepsOut.next

theorem execCalll_keeps {s₀ : State} (who : CoreRef) (target : Word) {s : State} (h : s₀.Keeps s) :
    KeepsOut s₀ (execCalll who target s) := by
  unfold execCalll
  try dsimp only
  repeat' first
    | with_reducible assumption
    | with_reducible apply State.issue_keeps
    | with_reducible apply KeepsOut.next

theorem execLd32_keeps {s₀ : State} (who : CoreRef) (p : BitVec 3) (k : BitVec 5) {s : State} (h : s₀.Keeps s) :
    KeepsOut s₀ (execLd32 who p k s) := by
  unfold execLd32
  try dsimp only
  repeat' first
    | with_reducible assumption
    | with_reducible apply State.issue_keeps
    | with_reducible apply KeepsOut.next

theorem execBlt_keeps {s₀ : State} (who : CoreRef) (off : BitVec 9) {s : State} (h : s₀.Keeps s) :
    KeepsOut s₀ (execBlt who off s) := by
  unfold execBlt
  try dsimp only
  repeat' first
    | with_reducible assumption
    | with_reducible apply State.issue_keeps
    | with_reducible apply KeepsOut.next

theorem execLd8u_keeps {s₀ : State} (who : CoreRef) (p : BitVec 3) (k : BitVec 5) {s : State} (h : s₀.Keeps s) :
    KeepsOut s₀ (execLd8u who p k s) := by
  unfold execLd8u
  try dsimp only
  repeat' first
    | with_reducible assumption
    | with_reducible apply State.issue_keeps
    | with_reducible apply KeepsOut.next

theorem execSt8_keeps {s₀ : State} (who : CoreRef) (p : BitVec 3) (k : BitVec 5) {s : State} (h : s₀.Keeps s) :
    KeepsOut s₀ (execSt8 who p k s) := by
  unfold execSt8
  try dsimp only
  repeat' first
    | with_reducible assumption
    | with_reducible apply State.issue_keeps
    | with_reducible apply KeepsOut.next

theorem execPset_keeps {s₀ : State} (who : CoreRef) (p : BitVec 3) {s : State} (h : s₀.Keeps s) :
    KeepsOut s₀ (execPset who p s) := by
  unfold execPset
  try dsimp only
  repeat' first
    | with_reducible assumption
    | with_reducible apply State.issue_keeps
    | with_reducible apply KeepsOut.next

theorem execBgeu_keeps {s₀ : State} (who : CoreRef) (off : BitVec 9) {s : State} (h : s₀.Keeps s) :
    KeepsOut s₀ (execBgeu who off s) := by
  unfold execBgeu
  try dsimp only
  repeat' first
    | with_reducible assumption
    | with_reducible apply State.issue_keeps
    | with_reducible apply KeepsOut.next

theorem execLd32p_keeps {s₀ : State} (who : CoreRef) (p : BitVec 3) {s : State} (h : s₀.Keeps s) :
    KeepsOut s₀ (execLd32p who p s) := by
  unfold execLd32p
  try dsimp only
  repeat' first
    | with_reducible assumption
    | with_reducible apply State.issue_keeps
    | with_reducible apply KeepsOut.next

theorem execSt32_keeps {s₀ : State} (who : CoreRef) (p : BitVec 3) (k : BitVec 5) {s : State} (h : s₀.Keeps s) :
    KeepsOut s₀ (execSt32 who p k s) := by
  unfold execSt32
  try dsimp only
  repeat' first
    | with_reducible assumption
    | with_reducible apply State.issue_keeps
    | with_reducible apply KeepsOut.next

theorem execBltu_keeps {s₀ : State} (who : CoreRef) (off : BitVec 9) {s : State} (h : s₀.Keeps s) :
    KeepsOut s₀ (execBltu who off s) := by
  unfold execBltu
  try dsimp only
  repeat' first
    | with_reducible assumption
    | with_reducible apply State.issue_keeps
    | with_reducible apply KeepsOut.next

theorem execBz_keeps {s₀ : State} (who : CoreRef) (off : BitVec 9) {s : State} (h : s₀.Keeps s) :
    KeepsOut s₀ (execBz who off s) := by
  unfold execBz
  try dsimp only
  repeat' first
    | with_reducible assumption
    | with_reducible apply State.issue_keeps
    | with_reducible apply KeepsOut.next

theorem execPadd_keeps {s₀ : State} (who : CoreRef) (p : BitVec 3) {s : State} (h : s₀.Keeps s) :
    KeepsOut s₀ (execPadd who p s) := by
  unfold execPadd
  try dsimp only
  repeat' first
    | with_reducible assumption
    | with_reducible apply State.issue_keeps
    | with_reducible apply KeepsOut.next

theorem execCalli_keeps {s₀ : State} (who : CoreRef) {s : State} (h : s₀.Keeps s) :
    KeepsOut s₀ (execCalli who s) := by
  unfold execCalli
  try dsimp only
  repeat' first
    | with_reducible assumption
    | with_reducible apply State.issue_keeps
    | with_reducible apply KeepsOut.next

theorem execBeq_keeps {s₀ : State} (who : CoreRef) (off : BitVec 9) {s : State} (h : s₀.Keeps s) :
    KeepsOut s₀ (execBeq who off s) := by
  unfold execBeq
  try dsimp only
  repeat' first
    | with_reducible assumption
    | with_reducible apply State.issue_keeps
    | with_reducible apply KeepsOut.next

theorem execJmpl_keeps {s₀ : State} (who : CoreRef) (target : Word) {s : State} (h : s₀.Keeps s) :
    KeepsOut s₀ (execJmpl who target s) := by
  unfold execJmpl
  try dsimp only
  repeat' first
    | with_reducible assumption
    | with_reducible apply State.issue_keeps
    | with_reducible apply KeepsOut.next

theorem execJmpi_keeps {s₀ : State} (who : CoreRef) {s : State} (h : s₀.Keeps s) :
    KeepsOut s₀ (execJmpi who s) := by
  unfold execJmpi
  try dsimp only
  repeat' first
    | with_reducible assumption
    | with_reducible apply State.issue_keeps
    | with_reducible apply KeepsOut.next

theorem execRet_keeps {s₀ : State} (who : CoreRef) {s : State} (h : s₀.Keeps s) :
    KeepsOut s₀ (execRet who s) := by
  unfold execRet
  try dsimp only
  repeat' first
    | with_reducible assumption
    | with_reducible apply State.issue_keeps
    | with_reducible apply KeepsOut.next

/-! ### TisaStack -/

theorem execDrop_keeps {s₀ : State} (who : CoreRef) {s : State} (h : s₀.Keeps s) :
    KeepsOut s₀ (execDrop who s) := by
  unfold execDrop
  try dsimp only
  repeat' first
    | with_reducible assumption
    | with_reducible apply State.issue_keeps
    | with_reducible apply KeepsOut.next

theorem execSub_keeps {s₀ : State} (who : CoreRef) {s : State} (h : s₀.Keeps s) :
    KeepsOut s₀ (execSub who s) := by
  unfold execSub
  try dsimp only
  repeat' first
    | with_reducible assumption
    | with_reducible apply State.issue_keeps
    | with_reducible apply KeepsOut.next

theorem execXorOp_keeps {s₀ : State} (who : CoreRef) {s : State} (h : s₀.Keeps s) :
    KeepsOut s₀ (execXorOp who s) := by
  unfold execXorOp
  try dsimp only
  repeat' first
    | with_reducible assumption
    | with_reducible apply State.issue_keeps
    | with_reducible apply KeepsOut.next

theorem execTor_keeps {s₀ : State} (who : CoreRef) {s : State} (h : s₀.Keeps s) :
    KeepsOut s₀ (execTor who s) := by
  unfold execTor
  try dsimp only
  repeat' first
    | with_reducible assumption
    | with_reducible apply State.issue_keeps
    | with_reducible apply KeepsOut.next

theorem execSltu_keeps {s₀ : State} (who : CoreRef) {s : State} (h : s₀.Keeps s) :
    KeepsOut s₀ (execSltu who s) := by
  unfold execSltu
  try dsimp only
  repeat' first
    | with_reducible assumption
    | with_reducible apply State.issue_keeps
    | with_reducible apply KeepsOut.next

theorem execPick_keeps {s₀ : State} (who : CoreRef) (n : BitVec 5) {s : State} (h : s₀.Keeps s) :
    KeepsOut s₀ (execPick who n s) := by
  unfold execPick
  try dsimp only
  repeat' first
    | with_reducible assumption
    | with_reducible apply State.issue_keeps
    | with_reducible apply KeepsOut.next

theorem execClz_keeps {s₀ : State} (who : CoreRef) {s : State} (h : s₀.Keeps s) :
    KeepsOut s₀ (execClz who s) := by
  unfold execClz
  try dsimp only
  repeat' first
    | with_reducible assumption
    | with_reducible apply State.issue_keeps
    | with_reducible apply KeepsOut.next

theorem execNotOp_keeps {s₀ : State} (who : CoreRef) {s : State} (h : s₀.Keeps s) :
    KeepsOut s₀ (execNotOp who s) := by
  unfold execNotOp
  try dsimp only
  repeat' first
    | with_reducible assumption
    | with_reducible apply State.issue_keeps
    | with_reducible apply KeepsOut.next

theorem execRdrop_keeps {s₀ : State} (who : CoreRef) {s : State} (h : s₀.Keeps s) :
    KeepsOut s₀ (execRdrop who s) := by
  unfold execRdrop
  try dsimp only
  repeat' first
    | with_reducible assumption
    | with_reducible apply State.issue_keeps
    | with_reducible apply KeepsOut.next

theorem execMinu_keeps {s₀ : State} (who : CoreRef) {s : State} (h : s₀.Keeps s) :
    KeepsOut s₀ (execMinu who s) := by
  unfold execMinu
  try dsimp only
  repeat' first
    | with_reducible assumption
    | with_reducible apply State.issue_keeps
    | with_reducible apply KeepsOut.next

theorem execNopInstruction_keeps {s₀ : State} (who : CoreRef) {s : State} (h : s₀.Keeps s) :
    KeepsOut s₀ (execNopInstruction who s) := by
  unfold execNopInstruction
  try dsimp only
  repeat' first
    | with_reducible assumption
    | with_reducible apply State.issue_keeps
    | with_reducible apply KeepsOut.next

theorem execLits_keeps {s₀ : State} (who : CoreRef) (v : BitVec 11) {s : State} (h : s₀.Keeps s) :
    KeepsOut s₀ (execLits who v s) := by
  unfold execLits
  try dsimp only
  repeat' first
    | with_reducible assumption
    | with_reducible apply State.issue_keeps
    | with_reducible apply KeepsOut.next

theorem execMul_keeps {s₀ : State} (who : CoreRef) {s : State} (h : s₀.Keeps s) :
    KeepsOut s₀ (execMul who s) := by
  unfold execMul
  try dsimp only
  repeat' first
    | with_reducible assumption
    | with_reducible apply State.issue_keeps
    | with_reducible apply KeepsOut.next

theorem execTuck_keeps {s₀ : State} (who : CoreRef) {s : State} (h : s₀.Keeps s) :
    KeepsOut s₀ (execTuck who s) := by
  unfold execTuck
  try dsimp only
  repeat' first
    | with_reducible assumption
    | with_reducible apply State.issue_keeps
    | with_reducible apply KeepsOut.next

theorem execLit16_keeps {s₀ : State} (who : CoreRef) (x : Half) {s : State} (h : s₀.Keeps s) :
    KeepsOut s₀ (execLit16 who x s) := by
  unfold execLit16
  try dsimp only
  repeat' first
    | with_reducible assumption
    | with_reducible apply State.issue_keeps
    | with_reducible apply KeepsOut.next

theorem execSext16_keeps {s₀ : State} (who : CoreRef) {s : State} (h : s₀.Keeps s) :
    KeepsOut s₀ (execSext16 who s) := by
  unfold execSext16
  try dsimp only
  repeat' first
    | with_reducible assumption
    | with_reducible apply State.issue_keeps
    | with_reducible apply KeepsOut.next

theorem execShr_keeps {s₀ : State} (who : CoreRef) {s : State} (h : s₀.Keeps s) :
    KeepsOut s₀ (execShr who s) := by
  unfold execShr
  try dsimp only
  repeat' first
    | with_reducible assumption
    | with_reducible apply State.issue_keeps
    | with_reducible apply KeepsOut.next

theorem execSar_keeps {s₀ : State} (who : CoreRef) {s : State} (h : s₀.Keeps s) :
    KeepsOut s₀ (execSar who s) := by
  unfold execSar
  try dsimp only
  repeat' first
    | with_reducible assumption
    | with_reducible apply State.issue_keeps
    | with_reducible apply KeepsOut.next

theorem execCmp_keeps {s₀ : State} (who : CoreRef) {s : State} (h : s₀.Keeps s) :
    KeepsOut s₀ (execCmp who s) := by
  unfold execCmp
  try dsimp only
  repeat' first
    | with_reducible assumption
    | with_reducible apply State.issue_keeps
    | with_reducible apply KeepsOut.next

theorem execLit32_keeps {s₀ : State} (who : CoreRef) (x : Word) {s : State} (h : s₀.Keeps s) :
    KeepsOut s₀ (execLit32 who x s) := by
  unfold execLit32
  try dsimp only
  repeat' first
    | with_reducible assumption
    | with_reducible apply State.issue_keeps
    | with_reducible apply KeepsOut.next

theorem execDup_keeps {s₀ : State} (who : CoreRef) {s : State} (h : s₀.Keeps s) :
    KeepsOut s₀ (execDup who s) := by
  unfold execDup
  try dsimp only
  repeat' first
    | with_reducible assumption
    | with_reducible apply State.issue_keeps
    | with_reducible apply KeepsOut.next

theorem execSext8_keeps {s₀ : State} (who : CoreRef) {s : State} (h : s₀.Keeps s) :
    KeepsOut s₀ (execSext8 who s) := by
  unfold execSext8
  try dsimp only
  repeat' first
    | with_reducible assumption
    | with_reducible apply State.issue_keeps
    | with_reducible apply KeepsOut.next

theorem execLit16s_keeps {s₀ : State} (who : CoreRef) (x : Half) {s : State} (h : s₀.Keeps s) :
    KeepsOut s₀ (execLit16s who x s) := by
  unfold execLit16s
  try dsimp only
  repeat' first
    | with_reducible assumption
    | with_reducible apply State.issue_keeps
    | with_reducible apply KeepsOut.next

theorem execOrOp_keeps {s₀ : State} (who : CoreRef) {s : State} (h : s₀.Keeps s) :
    KeepsOut s₀ (execOrOp who s) := by
  unfold execOrOp
  try dsimp only
  repeat' first
    | with_reducible assumption
    | with_reducible apply State.issue_keeps
    | with_reducible apply KeepsOut.next

theorem execRfetch_keeps {s₀ : State} (who : CoreRef) {s : State} (h : s₀.Keeps s) :
    KeepsOut s₀ (execRfetch who s) := by
  unfold execRfetch
  try dsimp only
  repeat' first
    | with_reducible assumption
    | with_reducible apply State.issue_keeps
    | with_reducible apply KeepsOut.next

theorem execTst_keeps {s₀ : State} (who : CoreRef) {s : State} (h : s₀.Keeps s) :
    KeepsOut s₀ (execTst who s) := by
  unfold execTst
  try dsimp only
  repeat' first
    | with_reducible assumption
    | with_reducible apply State.issue_keeps
    | with_reducible apply KeepsOut.next

theorem execNip_keeps {s₀ : State} (who : CoreRef) {s : State} (h : s₀.Keeps s) :
    KeepsOut s₀ (execNip who s) := by
  unfold execNip
  try dsimp only
  repeat' first
    | with_reducible assumption
    | with_reducible apply State.issue_keeps
    | with_reducible apply KeepsOut.next

theorem execMulhs_keeps {s₀ : State} (who : CoreRef) {s : State} (h : s₀.Keeps s) :
    KeepsOut s₀ (execMulhs who s) := by
  unfold execMulhs
  try dsimp only
  repeat' first
    | with_reducible assumption
    | with_reducible apply State.issue_keeps
    | with_reducible apply KeepsOut.next

theorem execFromr_keeps {s₀ : State} (who : CoreRef) {s : State} (h : s₀.Keeps s) :
    KeepsOut s₀ (execFromr who s) := by
  unfold execFromr
  try dsimp only
  repeat' first
    | with_reducible assumption
    | with_reducible apply State.issue_keeps
    | with_reducible apply KeepsOut.next

theorem execSbc_keeps {s₀ : State} (who : CoreRef) {s : State} (h : s₀.Keeps s) :
    KeepsOut s₀ (execSbc who s) := by
  unfold execSbc
  try dsimp only
  repeat' first
    | with_reducible assumption
    | with_reducible apply State.issue_keeps
    | with_reducible apply KeepsOut.next

theorem execDivs_keeps {s₀ : State} (who : CoreRef) {s : State} (h : s₀.Keeps s) :
    KeepsOut s₀ (execDivs who s) := by
  unfold execDivs
  try dsimp only
  repeat' first
    | with_reducible assumption
    | with_reducible apply State.issue_keeps
    | with_reducible apply KeepsOut.next

theorem execOver_keeps {s₀ : State} (who : CoreRef) {s : State} (h : s₀.Keeps s) :
    KeepsOut s₀ (execOver who s) := by
  unfold execOver
  try dsimp only
  repeat' first
    | with_reducible assumption
    | with_reducible apply State.issue_keeps
    | with_reducible apply KeepsOut.next

theorem execAbs_keeps {s₀ : State} (who : CoreRef) {s : State} (h : s₀.Keeps s) :
    KeepsOut s₀ (execAbs who s) := by
  unfold execAbs
  try dsimp only
  repeat' first
    | with_reducible assumption
    | with_reducible apply State.issue_keeps
    | with_reducible apply KeepsOut.next

theorem execNeg_keeps {s₀ : State} (who : CoreRef) {s : State} (h : s₀.Keeps s) :
    KeepsOut s₀ (execNeg who s) := by
  unfold execNeg
  try dsimp only
  repeat' first
    | with_reducible assumption
    | with_reducible apply State.issue_keeps
    | with_reducible apply KeepsOut.next

theorem execAdd_keeps {s₀ : State} (who : CoreRef) {s : State} (h : s₀.Keeps s) :
    KeepsOut s₀ (execAdd who s) := by
  unfold execAdd
  try dsimp only
  repeat' first
    | with_reducible assumption
    | with_reducible apply State.issue_keeps
    | with_reducible apply KeepsOut.next

theorem execDivu_keeps {s₀ : State} (who : CoreRef) {s : State} (h : s₀.Keeps s) :
    KeepsOut s₀ (execDivu who s) := by
  unfold execDivu
  try dsimp only
  repeat' first
    | with_reducible assumption
    | with_reducible apply State.issue_keeps
    | with_reducible apply KeepsOut.next

theorem execSlt_keeps {s₀ : State} (who : CoreRef) {s : State} (h : s₀.Keeps s) :
    KeepsOut s₀ (execSlt who s) := by
  unfold execSlt
  try dsimp only
  repeat' first
    | with_reducible assumption
    | with_reducible apply State.issue_keeps
    | with_reducible apply KeepsOut.next

theorem execMin_keeps {s₀ : State} (who : CoreRef) {s : State} (h : s₀.Keeps s) :
    KeepsOut s₀ (execMin who s) := by
  unfold execMin
  try dsimp only
  repeat' first
    | with_reducible assumption
    | with_reducible apply State.issue_keeps
    | with_reducible apply KeepsOut.next

theorem execMax_keeps {s₀ : State} (who : CoreRef) {s : State} (h : s₀.Keeps s) :
    KeepsOut s₀ (execMax who s) := by
  unfold execMax
  try dsimp only
  repeat' first
    | with_reducible assumption
    | with_reducible apply State.issue_keeps
    | with_reducible apply KeepsOut.next

theorem execRemu_keeps {s₀ : State} (who : CoreRef) {s : State} (h : s₀.Keeps s) :
    KeepsOut s₀ (execRemu who s) := by
  unfold execRemu
  try dsimp only
  repeat' first
    | with_reducible assumption
    | with_reducible apply State.issue_keeps
    | with_reducible apply KeepsOut.next

theorem execMulhu_keeps {s₀ : State} (who : CoreRef) {s : State} (h : s₀.Keeps s) :
    KeepsOut s₀ (execMulhu who s) := by
  unfold execMulhu
  try dsimp only
  repeat' first
    | with_reducible assumption
    | with_reducible apply State.issue_keeps
    | with_reducible apply KeepsOut.next

theorem execMaxu_keeps {s₀ : State} (who : CoreRef) {s : State} (h : s₀.Keeps s) :
    KeepsOut s₀ (execMaxu who s) := by
  unfold execMaxu
  try dsimp only
  repeat' first
    | with_reducible assumption
    | with_reducible apply State.issue_keeps
    | with_reducible apply KeepsOut.next

theorem execDepth_keeps {s₀ : State} (who : CoreRef) {s : State} (h : s₀.Keeps s) :
    KeepsOut s₀ (execDepth who s) := by
  unfold execDepth
  try dsimp only
  repeat' first
    | with_reducible assumption
    | with_reducible apply State.issue_keeps
    | with_reducible apply KeepsOut.next

theorem execSwap_keeps {s₀ : State} (who : CoreRef) {s : State} (h : s₀.Keeps s) :
    KeepsOut s₀ (execSwap who s) := by
  unfold execSwap
  try dsimp only
  repeat' first
    | with_reducible assumption
    | with_reducible apply State.issue_keeps
    | with_reducible apply KeepsOut.next

theorem execShl_keeps {s₀ : State} (who : CoreRef) {s : State} (h : s₀.Keeps s) :
    KeepsOut s₀ (execShl who s) := by
  unfold execShl
  try dsimp only
  repeat' first
    | with_reducible assumption
    | with_reducible apply State.issue_keeps
    | with_reducible apply KeepsOut.next

theorem execAndOp_keeps {s₀ : State} (who : CoreRef) {s : State} (h : s₀.Keeps s) :
    KeepsOut s₀ (execAndOp who s) := by
  unfold execAndOp
  try dsimp only
  repeat' first
    | with_reducible assumption
    | with_reducible apply State.issue_keeps
    | with_reducible apply KeepsOut.next

theorem execRot_keeps {s₀ : State} (who : CoreRef) {s : State} (h : s₀.Keeps s) :
    KeepsOut s₀ (execRot who s) := by
  unfold execRot
  try dsimp only
  repeat' first
    | with_reducible assumption
    | with_reducible apply State.issue_keeps
    | with_reducible apply KeepsOut.next

theorem execAdc_keeps {s₀ : State} (who : CoreRef) {s : State} (h : s₀.Keeps s) :
    KeepsOut s₀ (execAdc who s) := by
  unfold execAdc
  try dsimp only
  repeat' first
    | with_reducible assumption
    | with_reducible apply State.issue_keeps
    | with_reducible apply KeepsOut.next

theorem execRems_keeps {s₀ : State} (who : CoreRef) {s : State} (h : s₀.Keeps s) :
    KeepsOut s₀ (execRems who s) := by
  unfold execRems
  try dsimp only
  repeat' first
    | with_reducible assumption
    | with_reducible apply State.issue_keeps
    | with_reducible apply KeepsOut.next

/-! ### MailRows -/

theorem execDevEventClear_keeps {s₀ : State} (dt : Nat) (v : Word) {s : State} (h : s₀.Keeps s) :
    KeepsOut s₀ (execDevEventClear dt v s) := by
  unfold execDevEventClear
  try dsimp only
  repeat' first
    | with_reducible assumption
    | with_reducible apply State.clearDevEvent_keeps
    | with_reducible apply State.tick_keeps
    | with_reducible apply KeepsOut.next
    | split

theorem execIrqAgeLimit_keeps {s₀ : State} (dt : Nat) (t : Nat) {s : State} (h : s₀.Keeps s) :
    KeepsOut s₀ (execIrqAgeLimit dt t s) := by
  unfold execIrqAgeLimit
  try dsimp only
  repeat' first
    | with_reducible assumption
    | with_reducible apply State.tick_keeps
    | with_reducible apply State.moderate_keeps
    | with_reducible apply KeepsOut.next

theorem execSerialTransferDone_keeps {s₀ : State} (dt : Nat) (k : Nat) (o : SerialOutcome) {s : State} (h : s₀.Keeps s) :
    KeepsOut s₀ (execSerialTransferDone dt k o s) := by
  unfold execSerialTransferDone
  try dsimp only
  repeat' first
    | with_reducible assumption
    | with_reducible apply State.serialDone_keeps
    | with_reducible apply State.tick_keeps
    | with_reducible apply State.advanced_keeps
    | with_reducible apply KeepsOut.next

theorem execCommandFetch_keeps {s₀ : State} (dt : Nat) {s : State} (h : s₀.Keeps s) :
    KeepsOut s₀ (execCommandFetch dt s) := by
  unfold execCommandFetch
  try dsimp only
  repeat' first
    | with_reducible assumption
    | with_reducible apply State.fetchRound_keeps
    | with_reducible apply State.turned_keeps
    | with_reducible apply State.tick_keeps
    | with_reducible apply KeepsOut.next

theorem execHeldRecordWrite_keeps {s₀ : State} (dt : Nat) (t : Nat) {s : State} (h : s₀.Keeps s) :
    KeepsOut s₀ (execHeldRecordWrite dt t s) := by
  unfold execHeldRecordWrite
  try dsimp only
  repeat' first
    | with_reducible assumption
    | with_reducible apply State.turned_keeps
    | with_reducible apply State.heldWrite_keeps
    | with_reducible apply State.tick_keeps
    | with_reducible apply KeepsOut.next

theorem execMboxReset_keeps {s₀ : State} (dt : Nat) (t : Nat) (enable : Bool) {s : State} (h : s₀.Keeps s) :
    KeepsOut s₀ (execMboxReset dt t enable s) := by
  unfold execMboxReset
  try dsimp only
  repeat' first
    | with_reducible assumption
    | with_reducible apply State.mboxReset_keeps
    | with_reducible apply State.latchWrite_keeps
    | with_reducible apply State.tick_keeps
    | with_reducible apply KeepsOut.next
    | split

theorem execCplHeadWrite_keeps {s₀ : State} (dt : Nat) (t : Nat) (v : Word) {s : State} (h : s₀.Keeps s) :
    KeepsOut s₀ (execCplHeadWrite dt t v s) := by
  unfold execCplHeadWrite
  try dsimp only
  repeat' first
    | with_reducible assumption
    | with_reducible apply State.latchWrite_keeps
    | with_reducible apply State.tick_keeps
    | with_reducible apply State.writeCplHead_keeps
    | with_reducible apply KeepsOut.next
    | split

theorem execMboxDisable_keeps {s₀ : State} (dt : Nat) (t : Nat) {s : State} (h : s₀.Keeps s) :
    KeepsOut s₀ (execMboxDisable dt t s) := by
  unfold execMboxDisable
  try dsimp only
  repeat' first
    | with_reducible assumption
    | with_reducible apply State.mboxDisable_keeps
    | with_reducible apply State.latchWrite_keeps
    | with_reducible apply State.tick_keeps
    | with_reducible apply KeepsOut.next
    | split

theorem execRecordWriteErrorCompletion_keeps {s₀ : State} (dt : Nat) (t : Nat) {s : State} (h : s₀.Keeps s) :
    KeepsOut s₀ (execRecordWriteErrorCompletion dt t s) := by
  unfold execRecordWriteErrorCompletion
  try dsimp only
  repeat' first
    | with_reducible assumption
    | with_reducible apply State.countFault_keeps
    | with_reducible apply State.recordWriteError_keeps
    | with_reducible apply State.tick_keeps
    | with_reducible apply KeepsOut.next

theorem execMboxEnable_keeps {s₀ : State} (dt : Nat) (t : Nat) {s : State} (h : s₀.Keeps s) :
    KeepsOut s₀ (execMboxEnable dt t s) := by
  unfold execMboxEnable
  try dsimp only
  repeat' first
    | with_reducible assumption
    | with_reducible apply State.mboxEnable_keeps
    | with_reducible apply State.latchWrite_keeps
    | with_reducible apply State.tick_keeps
    | with_reducible apply KeepsOut.next
    | split

theorem execCmdTailWrite_keeps {s₀ : State} (dt : Nat) (t : Nat) (v : Word) {s : State} (h : s₀.Keeps s) :
    KeepsOut s₀ (execCmdTailWrite dt t v s) := by
  unfold execCmdTailWrite
  try dsimp only
  repeat' first
    | with_reducible assumption
    | with_reducible apply State.writeCmdTail_keeps
    | with_reducible apply State.latchWrite_keeps
    | with_reducible apply State.tick_keeps
    | with_reducible apply KeepsOut.next
    | split

theorem execPasidLock_keeps {s₀ s : State} (dt : Nat) (v : Word) (h : s₀.Keeps s) : KeepsOut s₀ (execPasidLock dt v s) := by
  have ht := State.tick_keeps dt h
  exact State.Keeps.ite (ht.page rfl rfl rfl rfl (fun i => i) (fun _ => ⟨rfl, rfl, rfl⟩)) ht

theorem execDevEventEnWrite_keeps {s₀ : State} (dt : Nat) (v : Word) {s : State} (h : s₀.Keeps s) :
    KeepsOut s₀ (execDevEventEnWrite dt v s) := by
  unfold execDevEventEnWrite
  try dsimp only
  repeat' first
    | with_reducible assumption
    | with_reducible apply State.writeEventEn_keeps
    | with_reducible apply State.tick_keeps
    | with_reducible apply KeepsOut.next
    | split

theorem execMeridianLoRead_keeps {s₀ : State} (dt : Nat) {s : State} (h : s₀.Keeps s) :
    KeepsOut s₀ (execMeridianLoRead dt s) := by
  unfold execMeridianLoRead
  try dsimp only
  repeat' first
    | with_reducible assumption
    | with_reducible apply State.tick_keeps
    | simp only [State.Keeps.upd_dev_iff]
    | with_reducible apply KeepsOut.next
    | split

theorem execMailboxDrainEnd_keeps {s₀ : State} (dt : Nat) (t : Nat) {s : State} (h : s₀.Keeps s) :
    KeepsOut s₀ (execMailboxDrainEnd dt t s) := by
  unfold execMailboxDrainEnd
  try dsimp only
  repeat' first
    | with_reducible assumption
    | with_reducible apply State.tick_keeps
    | with_reducible apply State.drainEnd_keeps
    | with_reducible apply KeepsOut.next

/-! ### CommandRows -/

theorem execPlaneSet_keeps {s₀ : State} (c : Cmd) {s : State} (h : s₀.Keeps s) :
    KeepsOut s₀ (execPlaneSet c s) := by
  unfold execPlaneSet
  try dsimp only
  repeat' first
    | with_reducible assumption
    | with_reducible apply State.command_keeps
    | with_reducible apply planeSetBody_keeps
    | with_reducible apply State.advanced_keeps
    | with_reducible apply KeepsOut.next

theorem execServiceEnter_keeps {s₀ : State} (c : Cmd) {s : State} (h : s₀.Keeps s) :
    KeepsOut s₀ (execServiceEnter c s) := by
  unfold execServiceEnter
  try dsimp only
  repeat' first
    | with_reducible assumption
    | with_reducible apply State.command_keeps
    | with_reducible apply serviceEnterBody_keeps
    | with_reducible apply State.advanced_keeps
    | with_reducible apply KeepsOut.next

theorem execVoiceCreate_keeps {s₀ : State} (c : Cmd) {s : State} (h : s₀.Keeps s) :
    KeepsOut s₀ (execVoiceCreate c s) := by
  unfold execVoiceCreate
  try dsimp only
  repeat' first
    | with_reducible assumption
    | with_reducible apply State.command_keeps
    | with_reducible apply voiceCreateBody_keeps
    | with_reducible apply State.advanced_keeps
    | with_reducible apply KeepsOut.next

theorem execAudioPortSet_keeps {s₀ : State} (c : Cmd) {s : State} (h : s₀.Keeps s) :
    KeepsOut s₀ (execAudioPortSet c s) := by
  unfold execAudioPortSet
  try dsimp only
  repeat' first
    | with_reducible assumption
    | with_reducible apply State.command_keeps
    | with_reducible apply audioPortSetBody_keeps
    | with_reducible apply State.advanced_keeps
    | with_reducible apply KeepsOut.next

theorem execContourSet_keeps {s₀ : State} (c : Cmd) {s : State} (h : s₀.Keeps s) :
    KeepsOut s₀ (execContourSet c s) := by
  unfold execContourSet
  try dsimp only
  repeat' first
    | with_reducible assumption
    | with_reducible apply contourSetBody_keeps
    | with_reducible apply State.command_keeps
    | with_reducible apply State.advanced_keeps
    | with_reducible apply KeepsOut.next

theorem execWakeSourceSet_keeps {s₀ : State} (c : Cmd) {s : State} (h : s₀.Keeps s) :
    KeepsOut s₀ (execWakeSourceSet c s) := by
  unfold execWakeSourceSet
  try dsimp only
  repeat' first
    | with_reducible assumption
    | with_reducible apply State.command_keeps
    | with_reducible apply wakeSourceSetBody_keeps
    | with_reducible apply State.advanced_keeps
    | with_reducible apply KeepsOut.next

theorem execLifecycleQuery_keeps {s₀ : State} (c : Cmd) {s : State} (h : s₀.Keeps s) :
    KeepsOut s₀ (execLifecycleQuery c s) := by
  unfold execLifecycleQuery
  try dsimp only
  repeat' first
    | with_reducible assumption
    | with_reducible apply State.command_keeps
    | with_reducible apply lifecycleQueryBody_keeps
    | with_reducible apply State.advanced_keeps
    | with_reducible apply KeepsOut.next

theorem execEventSubscribe_keeps {s₀ : State} (c : Cmd) {s : State} (h : s₀.Keeps s) :
    KeepsOut s₀ (execEventSubscribe c s) := by
  unfold execEventSubscribe
  try dsimp only
  repeat' first
    | with_reducible assumption
    | with_reducible apply State.command_keeps
    | with_reducible apply eventSubscribeBody_keeps
    | with_reducible apply State.advanced_keeps
    | with_reducible apply KeepsOut.next

theorem execTabStart_keeps {s₀ : State} (c : Cmd) {s : State} (h : s₀.Keeps s) :
    KeepsOut s₀ (execTabStart c s) := by
  unfold execTabStart
  try dsimp only
  repeat' first
    | with_reducible assumption
    | with_reducible apply State.command_keeps
    | with_reducible apply tabStartBody_keeps
    | with_reducible apply State.advanced_keeps
    | with_reducible apply KeepsOut.next

theorem execAtlasUnmap_keeps {s₀ : State} (c : Cmd) {s : State} (h : s₀.Keeps s) :
    KeepsOut s₀ (execAtlasUnmap c s) := by
  unfold execAtlasUnmap
  try dsimp only
  repeat' first
    | with_reducible assumption
    | with_reducible apply State.command_keeps
    | with_reducible apply atlasUnmapBody_keeps
    | with_reducible apply State.advanced_keeps
    | with_reducible apply KeepsOut.next

theorem execBusSet_keeps {s₀ : State} (c : Cmd) {s : State} (h : s₀.Keeps s) :
    KeepsOut s₀ (execBusSet c s) := by
  unfold execBusSet
  try dsimp only
  repeat' first
    | with_reducible assumption
    | with_reducible apply State.command_keeps
    | with_reducible apply busSetBody_keeps
    | with_reducible apply State.advanced_keeps
    | with_reducible apply KeepsOut.next

theorem execDebugGrant_keeps {s₀ : State} (c : Cmd) {s : State} (h : s₀.Keeps s) :
    KeepsOut s₀ (execDebugGrant c s) := by
  unfold execDebugGrant
  try dsimp only
  repeat' first
    | with_reducible assumption
    | with_reducible apply State.command_keeps
    | with_reducible apply debugGrantBody_keeps
    | with_reducible apply State.advanced_keeps
    | with_reducible apply KeepsOut.next

theorem execFretSet_keeps {s₀ : State} (c : Cmd) {s : State} (h : s₀.Keeps s) :
    KeepsOut s₀ (execFretSet c s) := by
  unfold execFretSet
  try dsimp only
  repeat' first
    | with_reducible assumption
    | with_reducible apply State.command_keeps
    | with_reducible apply fretSetBody_keeps
    | with_reducible apply State.advanced_keeps
    | with_reducible apply KeepsOut.next

theorem execBankAssign_keeps {s₀ : State} (c : Cmd) {s : State} (h : s₀.Keeps s) :
    KeepsOut s₀ (execBankAssign c s) := by
  unfold execBankAssign
  try dsimp only
  repeat' first
    | with_reducible assumption
    | with_reducible apply State.command_keeps
    | with_reducible apply bankAssignBody_keeps
    | with_reducible apply State.advanced_keeps
    | with_reducible apply KeepsOut.next

theorem execFaultReactionSet_keeps {s₀ : State} (c : Cmd) {s : State} (h : s₀.Keeps s) :
    KeepsOut s₀ (execFaultReactionSet c s) := by
  unfold execFaultReactionSet
  try dsimp only
  repeat' first
    | with_reducible assumption
    | with_reducible apply State.command_keeps
    | with_reducible apply faultReactionSetBody_keeps
    | with_reducible apply State.advanced_keeps
    | with_reducible apply KeepsOut.next

theorem execTenantCreate_keeps {s₀ : State} (c : Cmd) {s : State} (h : s₀.Keeps s) :
    KeepsOut s₀ (execTenantCreate c s) := by
  unfold execTenantCreate
  try dsimp only
  repeat' first
    | with_reducible assumption
    | with_reducible apply State.command_keeps
    | with_reducible apply tenantCreateBody_keeps
    | with_reducible apply State.advanced_keeps
    | with_reducible apply KeepsOut.next
    | intro _

theorem execTransferLutLoad_keeps {s₀ : State} (c : Cmd) {s : State} (h : s₀.Keeps s) :
    KeepsOut s₀ (execTransferLutLoad c s) := by
  unfold execTransferLutLoad
  try dsimp only
  repeat' first
    | with_reducible assumption
    | with_reducible apply State.command_keeps
    | with_reducible apply transferLutLoadBody_keeps
    | with_reducible apply State.advanced_keeps
    | with_reducible apply KeepsOut.next

theorem execPostLutLoad_keeps {s₀ : State} (c : Cmd) {s : State} (h : s₀.Keeps s) :
    KeepsOut s₀ (execPostLutLoad c s) := by
  unfold execPostLutLoad
  try dsimp only
  repeat' first
    | with_reducible assumption
    | with_reducible apply State.command_keeps
    | with_reducible apply postLutLoadBody_keeps
    | with_reducible apply State.advanced_keeps
    | with_reducible apply KeepsOut.next

theorem execViewportSet_keeps {s₀ : State} (c : Cmd) {s : State} (h : s₀.Keeps s) :
    KeepsOut s₀ (execViewportSet c s) := by
  unfold execViewportSet
  try dsimp only
  repeat' first
    | with_reducible assumption
    | with_reducible apply State.command_keeps
    | with_reducible apply viewportSetBody_keeps
    | with_reducible apply State.advanced_keeps
    | with_reducible apply KeepsOut.next

theorem execRegWrite_keeps {s₀ : State} (c : Cmd) {s : State} (h : s₀.Keeps s) :
    KeepsOut s₀ (execRegWrite c s) := by
  unfold execRegWrite
  try dsimp only
  repeat' first
    | with_reducible assumption
    | with_reducible apply State.command_keeps
    | with_reducible apply regWriteBody_keeps
    | with_reducible apply State.advanced_keeps
    | with_reducible apply KeepsOut.next

theorem execModelLoad_keeps {s₀ : State} (c : Cmd) {s : State} (h : s₀.Keeps s) :
    KeepsOut s₀ (execModelLoad c s) := by
  unfold execModelLoad
  try dsimp only
  repeat' first
    | with_reducible assumption
    | with_reducible apply modelLoadBody_keeps
    | with_reducible apply State.command_keeps
    | with_reducible apply State.advanced_keeps
    | with_reducible apply KeepsOut.next

theorem execClockPlanSet_keeps {s₀ : State} (c : Cmd) {s : State} (h : s₀.Keeps s) :
    KeepsOut s₀ (execClockPlanSet c s) := by
  unfold execClockPlanSet
  try dsimp only
  repeat' first
    | with_reducible assumption
    | with_reducible apply clockPlanSetBody_keeps
    | with_reducible apply State.command_keeps
    | with_reducible apply State.advanced_keeps
    | with_reducible apply KeepsOut.next

theorem execPaletteLoad_keeps {s₀ : State} (c : Cmd) {s : State} (h : s₀.Keeps s) :
    KeepsOut s₀ (execPaletteLoad c s) := by
  unfold execPaletteLoad
  try dsimp only
  repeat' first
    | with_reducible assumption
    | with_reducible apply State.command_keeps
    | with_reducible apply paletteLoadBody_keeps
    | with_reducible apply State.advanced_keeps
    | with_reducible apply KeepsOut.next

theorem execPlaneDestroy_keeps {s₀ : State} (c : Cmd) {s : State} (h : s₀.Keeps s) :
    KeepsOut s₀ (execPlaneDestroy c s) := by
  unfold execPlaneDestroy
  try dsimp only
  repeat' first
    | with_reducible assumption
    | with_reducible apply State.command_keeps
    | with_reducible apply planeDestroyBody_keeps
    | with_reducible apply State.advanced_keeps
    | with_reducible apply KeepsOut.next

theorem execRegRead_keeps {s₀ : State} (c : Cmd) {s : State} (h : s₀.Keeps s) :
    KeepsOut s₀ (execRegRead c s) := by
  unfold execRegRead
  try dsimp only
  repeat' first
    | with_reducible assumption
    | with_reducible apply State.command_keeps
    | with_reducible apply regReadBody_keeps
    | with_reducible apply State.advanced_keeps
    | with_reducible apply KeepsOut.next

theorem execDmaChannelSet_keeps {s₀ : State} (c : Cmd) {s : State} (h : s₀.Keeps s) :
    KeepsOut s₀ (execDmaChannelSet c s) := by
  unfold execDmaChannelSet
  try dsimp only
  repeat' first
    | with_reducible assumption
    | with_reducible apply State.command_keeps
    | with_reducible apply dmaChannelSetBody_keeps
    | with_reducible apply State.advanced_keeps
    | with_reducible apply KeepsOut.next

theorem execAudioCaptureStart_keeps {s₀ : State} (c : Cmd) {s : State} (h : s₀.Keeps s) :
    KeepsOut s₀ (execAudioCaptureStart c s) := by
  unfold execAudioCaptureStart
  try dsimp only
  repeat' first
    | with_reducible assumption
    | with_reducible apply State.command_keeps
    | with_reducible apply audioCaptureStartBody_keeps
    | with_reducible apply State.advanced_keeps
    | with_reducible apply KeepsOut.next

theorem execModeSet_keeps {s₀ : State} (c : Cmd) {s : State} (h : s₀.Keeps s) :
    KeepsOut s₀ (execModeSet c s) := by
  unfold execModeSet
  try dsimp only
  repeat' first
    | with_reducible assumption
    | with_reducible apply modeSetBody_keeps
    | with_reducible apply State.command_keeps
    | with_reducible apply State.advanced_keeps
    | with_reducible apply KeepsOut.next

theorem execAvtpStreamSet_keeps {s₀ : State} (c : Cmd) {s : State} (h : s₀.Keeps s) :
    KeepsOut s₀ (execAvtpStreamSet c s) := by
  unfold execAvtpStreamSet
  try dsimp only
  repeat' first
    | with_reducible assumption
    | with_reducible apply State.command_keeps
    | with_reducible apply avtpStreamSetBody_keeps
    | with_reducible apply State.advanced_keeps
    | with_reducible apply KeepsOut.next

theorem execPlaneCreate_keeps {s₀ : State} (c : Cmd) {s : State} (h : s₀.Keeps s) :
    KeepsOut s₀ (execPlaneCreate c s) := by
  unfold execPlaneCreate
  try dsimp only
  repeat' first
    | with_reducible assumption
    | with_reducible apply State.command_keeps
    | with_reducible apply planeCreateBody_keeps
    | with_reducible apply State.advanced_keeps
    | with_reducible apply KeepsOut.next

theorem execCommitSubmit_keeps {s₀ : State} (c : Cmd) {s : State} (h : s₀.Keeps s) :
    KeepsOut s₀ (execCommitSubmit c s) := by
  unfold execCommitSubmit
  try dsimp only
  repeat' first
    | with_reducible assumption
    | with_reducible apply State.command_keeps
    | with_reducible apply commitSubmitBody_keeps
    | with_reducible apply State.advanced_keeps
    | with_reducible apply KeepsOut.next

theorem execStillPolicySet_keeps {s₀ : State} (c : Cmd) {s : State} (h : s₀.Keeps s) :
    KeepsOut s₀ (execStillPolicySet c s) := by
  unfold execStillPolicySet
  try dsimp only
  repeat' first
    | with_reducible assumption
    | with_reducible apply State.command_keeps
    | with_reducible apply stillPolicySetBody_keeps
    | with_reducible apply State.advanced_keeps
    | with_reducible apply KeepsOut.next

theorem execWatchRegionSet_keeps {s₀ : State} (c : Cmd) {s : State} (h : s₀.Keeps s) :
    KeepsOut s₀ (execWatchRegionSet c s) := by
  unfold execWatchRegionSet
  try dsimp only
  repeat' first
    | with_reducible assumption
    | with_reducible apply watchRegionSetBody_keeps
    | with_reducible apply State.command_keeps
    | with_reducible apply State.advanced_keeps
    | with_reducible apply KeepsOut.next

theorem execPinWrite_keeps {s₀ : State} (c : Cmd) {s : State} (h : s₀.Keeps s) :
    KeepsOut s₀ (execPinWrite c s) := by
  unfold execPinWrite
  try dsimp only
  repeat' first
    | with_reducible assumption
    | with_reducible apply State.command_keeps
    | with_reducible apply pinWriteBody_keeps
    | with_reducible apply State.advanced_keeps
    | with_reducible apply KeepsOut.next

theorem execLeadBoundsSet_keeps {s₀ : State} (c : Cmd) {s : State} (h : s₀.Keeps s) :
    KeepsOut s₀ (execLeadBoundsSet c s) := by
  unfold execLeadBoundsSet
  try dsimp only
  repeat' first
    | with_reducible assumption
    | with_reducible apply State.command_keeps
    | with_reducible apply leadBoundsSetBody_keeps
    | with_reducible apply State.advanced_keeps
    | with_reducible apply KeepsOut.next

theorem execPaintSet_keeps {s₀ : State} (c : Cmd) {s : State} (h : s₀.Keeps s) :
    KeepsOut s₀ (execPaintSet c s) := by
  unfold execPaintSet
  try dsimp only
  repeat' first
    | with_reducible assumption
    | with_reducible apply paintSetBody_keeps
    | with_reducible apply State.command_keeps
    | with_reducible apply State.advanced_keeps
    | with_reducible apply KeepsOut.next

theorem execCalendarAlarmSet_keeps {s₀ : State} (c : Cmd) {s : State} (h : s₀.Keeps s) :
    KeepsOut s₀ (execCalendarAlarmSet c s) := by
  unfold execCalendarAlarmSet
  try dsimp only
  repeat' first
    | with_reducible assumption
    | with_reducible apply State.command_keeps
    | with_reducible apply calendarAlarmSetBody_keeps
    | with_reducible apply State.advanced_keeps
    | with_reducible apply KeepsOut.next

theorem execPowerPolicySet_keeps {s₀ : State} (c : Cmd) {s : State} (h : s₀.Keeps s) :
    KeepsOut s₀ (execPowerPolicySet c s) := by
  unfold execPowerPolicySet
  try dsimp only
  repeat' first
    | with_reducible assumption
    | with_reducible apply State.command_keeps
    | with_reducible apply powerPolicySetBody_keeps
    | with_reducible apply State.advanced_keeps
    | with_reducible apply KeepsOut.next

theorem execScalerCoefLoad_keeps {s₀ : State} (c : Cmd) {s : State} (h : s₀.Keeps s) :
    KeepsOut s₀ (execScalerCoefLoad c s) := by
  unfold execScalerCoefLoad
  try dsimp only
  repeat' first
    | with_reducible assumption
    | with_reducible apply State.command_keeps
    | with_reducible apply scalerCoefLoadBody_keeps
    | with_reducible apply State.advanced_keeps
    | with_reducible apply KeepsOut.next

theorem execQuotaSet_keeps {s₀ : State} (c : Cmd) {s : State} (h : s₀.Keeps s) :
    KeepsOut s₀ (execQuotaSet c s) := by
  unfold execQuotaSet
  try dsimp only
  repeat' first
    | with_reducible assumption
    | with_reducible apply State.command_keeps
    | with_reducible apply quotaSetBody_keeps
    | with_reducible apply State.advanced_keeps
    | with_reducible apply KeepsOut.next

theorem execCartoucheCellSet_keeps {s₀ : State} (c : Cmd) {s : State} (h : s₀.Keeps s) :
    KeepsOut s₀ (execCartoucheCellSet c s) := by
  unfold execCartoucheCellSet
  try dsimp only
  repeat' first
    | with_reducible assumption
    | with_reducible apply State.command_keeps
    | with_reducible apply cartoucheCellSetBody_keeps
    | with_reducible apply State.advanced_keeps
    | with_reducible apply KeepsOut.next

theorem execFramelockSet_keeps {s₀ : State} (c : Cmd) {s : State} (h : s₀.Keeps s) :
    KeepsOut s₀ (execFramelockSet c s) := by
  unfold execFramelockSet
  try dsimp only
  repeat' first
    | with_reducible assumption
    | with_reducible apply framelockSetBody_keeps
    | with_reducible apply State.command_keeps
    | with_reducible apply State.advanced_keeps
    | with_reducible apply KeepsOut.next

theorem execBlitSubmit_keeps {s₀ : State} (c : Cmd) {s : State} (h : s₀.Keeps s) :
    KeepsOut s₀ (execBlitSubmit c s) := by
  unfold execBlitSubmit
  try dsimp only
  repeat' first
    | with_reducible assumption
    | with_reducible apply State.command_keeps
    | with_reducible apply blitSubmitBody_keeps
    | with_reducible apply State.advanced_keeps
    | with_reducible apply KeepsOut.next

theorem execPwmSet_keeps {s₀ : State} (c : Cmd) {s : State} (h : s₀.Keeps s) :
    KeepsOut s₀ (execPwmSet c s) := by
  unfold execPwmSet
  try dsimp only
  repeat' first
    | with_reducible assumption
    | with_reducible apply State.command_keeps
    | with_reducible apply pwmSetBody_keeps
    | with_reducible apply State.advanced_keeps
    | with_reducible apply KeepsOut.next

theorem execCostQuery_keeps {s₀ : State} (c : Cmd) {s : State} (h : s₀.Keeps s) :
    KeepsOut s₀ (execCostQuery c s) := by
  unfold execCostQuery
  try dsimp only
  repeat' first
    | with_reducible assumption
    | with_reducible apply State.command_keeps
    | with_reducible apply costQueryBody_keeps
    | with_reducible apply State.advanced_keeps
    | with_reducible apply KeepsOut.next

theorem execAtlasMap_keeps {s₀ : State} (c : Cmd) {s : State} (h : s₀.Keeps s) :
    KeepsOut s₀ (execAtlasMap c s) := by
  unfold execAtlasMap
  try dsimp only
  repeat' first
    | with_reducible assumption
    | with_reducible apply State.command_keeps
    | with_reducible apply atlasMapBody_keeps
    | with_reducible apply State.advanced_keeps
    | with_reducible apply KeepsOut.next

theorem execTenantQuery_keeps {s₀ : State} (c : Cmd) {s : State} (h : s₀.Keeps s) :
    KeepsOut s₀ (execTenantQuery c s) := by
  unfold execTenantQuery
  try dsimp only
  repeat' first
    | with_reducible assumption
    | with_reducible apply tenantQueryBody_keeps
    | with_reducible apply State.command_keeps
    | with_reducible apply State.advanced_keeps
    | with_reducible apply KeepsOut.next

theorem execBridgeSet_keeps {s₀ : State} (c : Cmd) {s : State} (h : s₀.Keeps s) :
    KeepsOut s₀ (execBridgeSet c s) := by
  unfold execBridgeSet
  try dsimp only
  repeat' first
    | with_reducible assumption
    | with_reducible apply State.command_keeps
    | with_reducible apply bridgeSetBody_keeps
    | with_reducible apply State.advanced_keeps
    | with_reducible apply KeepsOut.next

theorem execMaintenanceSet_keeps {s₀ : State} (c : Cmd) {s : State} (h : s₀.Keeps s) :
    KeepsOut s₀ (execMaintenanceSet c s) := by
  unfold execMaintenanceSet
  try dsimp only
  repeat' first
    | with_reducible assumption
    | with_reducible apply maintenanceSetBody_keeps
    | with_reducible apply State.command_keeps
    | with_reducible apply State.advanced_keeps
    | with_reducible apply KeepsOut.next

theorem execTabStop_keeps {s₀ : State} (c : Cmd) {s : State} (h : s₀.Keeps s) :
    KeepsOut s₀ (execTabStop c s) := by
  unfold execTabStop
  try dsimp only
  repeat' first
    | with_reducible assumption
    | with_reducible apply State.command_keeps
    | with_reducible apply tabStopBody_keeps
    | with_reducible apply State.advanced_keeps
    | with_reducible apply KeepsOut.next

theorem execClockMeasure_keeps {s₀ : State} (c : Cmd) {s : State} (h : s₀.Keeps s) :
    KeepsOut s₀ (execClockMeasure c s) := by
  unfold execClockMeasure
  try dsimp only
  repeat' first
    | with_reducible assumption
    | with_reducible apply clockMeasureBody_keeps
    | with_reducible apply State.command_keeps
    | with_reducible apply State.advanced_keeps
    | with_reducible apply KeepsOut.next

theorem execPinConfigSet_keeps {s₀ : State} (c : Cmd) {s : State} (h : s₀.Keeps s) :
    KeepsOut s₀ (execPinConfigSet c s) := by
  unfold execPinConfigSet
  try dsimp only
  repeat' first
    | with_reducible assumption
    | with_reducible apply State.command_keeps
    | with_reducible apply pinConfigSetBody_keeps
    | with_reducible apply State.advanced_keeps
    | with_reducible apply KeepsOut.next

theorem execVoiceSet_keeps {s₀ : State} (c : Cmd) {s : State} (h : s₀.Keeps s) :
    KeepsOut s₀ (execVoiceSet c s) := by
  unfold execVoiceSet
  try dsimp only
  repeat' first
    | with_reducible assumption
    | with_reducible apply State.command_keeps
    | with_reducible apply voiceSetBody_keeps
    | with_reducible apply State.advanced_keeps
    | with_reducible apply KeepsOut.next

theorem execDmaShareSet_keeps {s₀ : State} (c : Cmd) {s : State} (h : s₀.Keeps s) :
    KeepsOut s₀ (execDmaShareSet c s) := by
  unfold execDmaShareSet
  try dsimp only
  repeat' first
    | with_reducible assumption
    | with_reducible apply State.command_keeps
    | with_reducible apply dmaShareSetBody_keeps
    | with_reducible apply State.advanced_keeps
    | with_reducible apply KeepsOut.next

theorem execCartoucheVoiceSet_keeps {s₀ : State} (c : Cmd) {s : State} (h : s₀.Keeps s) :
    KeepsOut s₀ (execCartoucheVoiceSet c s) := by
  unfold execCartoucheVoiceSet
  try dsimp only
  repeat' first
    | with_reducible assumption
    | with_reducible apply State.command_keeps
    | with_reducible apply cartoucheVoiceSetBody_keeps
    | with_reducible apply State.advanced_keeps
    | with_reducible apply KeepsOut.next

theorem execTenantDestroy_keeps {s₀ : State} (c : Cmd) {s : State} (h : s₀.Keeps s) :
    KeepsOut s₀ (execTenantDestroy c s) := by
  unfold execTenantDestroy
  try dsimp only
  repeat' first
    | with_reducible assumption
    | with_reducible apply State.command_keeps
    | with_reducible apply tenantDestroyBody_keeps
    | with_reducible apply State.advanced_keeps
    | with_reducible apply KeepsOut.next

theorem execDecodeTableLoad_keeps {s₀ : State} (c : Cmd) {s : State} (h : s₀.Keeps s) :
    KeepsOut s₀ (execDecodeTableLoad c s) := by
  unfold execDecodeTableLoad
  try dsimp only
  repeat' first
    | with_reducible assumption
    | with_reducible apply State.command_keeps
    | with_reducible apply decodeTableLoadBody_keeps
    | with_reducible apply State.advanced_keeps
    | with_reducible apply KeepsOut.next

theorem execCompareSet_keeps {s₀ : State} (c : Cmd) {s : State} (h : s₀.Keeps s) :
    KeepsOut s₀ (execCompareSet c s) := by
  unfold execCompareSet
  try dsimp only
  repeat' first
    | with_reducible assumption
    | with_reducible apply State.command_keeps
    | with_reducible apply compareSetBody_keeps
    | with_reducible apply State.advanced_keeps
    | with_reducible apply KeepsOut.next

theorem execVoiceStop_keeps {s₀ : State} (c : Cmd) {s : State} (h : s₀.Keeps s) :
    KeepsOut s₀ (execVoiceStop c s) := by
  unfold execVoiceStop
  try dsimp only
  repeat' first
    | with_reducible assumption
    | with_reducible apply State.command_keeps
    | with_reducible apply voiceStopBody_keeps
    | with_reducible apply State.advanced_keeps
    | with_reducible apply KeepsOut.next

theorem execCalendarSet_keeps {s₀ : State} (c : Cmd) {s : State} (h : s₀.Keeps s) :
    KeepsOut s₀ (execCalendarSet c s) := by
  unfold execCalendarSet
  try dsimp only
  repeat' first
    | with_reducible assumption
    | with_reducible apply State.command_keeps
    | with_reducible apply calendarSetBody_keeps
    | with_reducible apply State.advanced_keeps
    | with_reducible apply KeepsOut.next

theorem execPortRouteSet_keeps {s₀ : State} (c : Cmd) {s : State} (h : s₀.Keeps s) :
    KeepsOut s₀ (execPortRouteSet c s) := by
  unfold execPortRouteSet
  try dsimp only
  repeat' first
    | with_reducible assumption
    | with_reducible apply State.command_keeps
    | with_reducible apply portRouteSetBody_keeps
    | with_reducible apply State.advanced_keeps
    | with_reducible apply KeepsOut.next

theorem execPrerollRead_keeps {s₀ : State} (c : Cmd) {s : State} (h : s₀.Keeps s) :
    KeepsOut s₀ (execPrerollRead c s) := by
  unfold execPrerollRead
  try dsimp only
  repeat' first
    | with_reducible assumption
    | with_reducible apply prerollReadBody_keeps
    | with_reducible apply State.command_keeps
    | with_reducible apply State.advanced_keeps
    | with_reducible apply KeepsOut.next

theorem execPinLock_keeps {s₀ : State} (c : Cmd) {s : State} (h : s₀.Keeps s) :
    KeepsOut s₀ (execPinLock c s) := by
  unfold execPinLock
  try dsimp only
  repeat' first
    | with_reducible assumption
    | with_reducible apply State.command_keeps
    | with_reducible apply pinLockBody_keeps
    | with_reducible apply State.advanced_keeps
    | with_reducible apply KeepsOut.next
    | intro _

theorem execDitherSet_keeps {s₀ : State} (c : Cmd) {s : State} (h : s₀.Keeps s) :
    KeepsOut s₀ (execDitherSet c s) := by
  unfold execDitherSet
  try dsimp only
  repeat' first
    | with_reducible assumption
    | with_reducible apply ditherSetBody_keeps
    | with_reducible apply State.command_keeps
    | with_reducible apply State.advanced_keeps
    | with_reducible apply KeepsOut.next

theorem execDebugUnlock_keeps {s₀ : State} (c : Cmd) {s : State} (h : s₀.Keeps s) :
    KeepsOut s₀ (execDebugUnlock c s) := by
  unfold execDebugUnlock
  try dsimp only
  repeat' first
    | with_reducible assumption
    | with_reducible apply State.command_keeps
    | with_reducible apply debugUnlockBody_keeps
    | with_reducible apply State.advanced_keeps
    | with_reducible apply KeepsOut.next
    | intro _

theorem execCaptureStop_keeps {s₀ : State} (c : Cmd) {s : State} (h : s₀.Keeps s) :
    KeepsOut s₀ (execCaptureStop c s) := by
  unfold execCaptureStop
  try dsimp only
  repeat' first
    | with_reducible assumption
    | with_reducible apply State.command_keeps
    | with_reducible apply captureStopBody_keeps
    | with_reducible apply State.advanced_keeps
    | with_reducible apply KeepsOut.next

theorem execCanvasSet_keeps {s₀ : State} (c : Cmd) {s : State} (h : s₀.Keeps s) :
    KeepsOut s₀ (execCanvasSet c s) := by
  unfold execCanvasSet
  try dsimp only
  repeat' first
    | with_reducible assumption
    | with_reducible apply State.command_keeps
    | with_reducible apply canvasSetBody_keeps
    | with_reducible apply State.advanced_keeps
    | with_reducible apply KeepsOut.next

theorem execCaptureStart_keeps {s₀ : State} (c : Cmd) {s : State} (h : s₀.Keeps s) :
    KeepsOut s₀ (execCaptureStart c s) := by
  unfold execCaptureStart
  try dsimp only
  repeat' first
    | with_reducible assumption
    | with_reducible apply State.command_keeps
    | with_reducible apply captureStartBody_keeps
    | with_reducible apply State.advanced_keeps
    | with_reducible apply KeepsOut.next

theorem execGovernorQuery_keeps {s₀ : State} (c : Cmd) {s : State} (h : s₀.Keeps s) :
    KeepsOut s₀ (execGovernorQuery c s) := by
  unfold execGovernorQuery
  try dsimp only
  repeat' first
    | with_reducible assumption
    | with_reducible apply State.command_keeps
    | with_reducible apply governorQueryBody_keeps
    | with_reducible apply State.advanced_keeps
    | with_reducible apply KeepsOut.next

theorem execNop_keeps {s₀ : State} (c : Cmd) {s : State} (h : s₀.Keeps s) :
    KeepsOut s₀ (execNop c s) := by
  unfold execNop
  try dsimp only
  repeat' first
    | with_reducible assumption
    | with_reducible apply nopBody_keeps
    | with_reducible apply State.command_keeps
    | with_reducible apply State.advanced_keeps
    | with_reducible apply KeepsOut.next

theorem execVoiceStart_keeps {s₀ : State} (c : Cmd) {s : State} (h : s₀.Keeps s) :
    KeepsOut s₀ (execVoiceStart c s) := by
  unfold execVoiceStart
  try dsimp only
  repeat' first
    | with_reducible assumption
    | with_reducible apply voiceStartBody_keeps
    | with_reducible apply State.command_keeps
    | with_reducible apply State.advanced_keeps
    | with_reducible apply KeepsOut.next

theorem execCartoucheImageLoad_keeps {s₀ : State} (c : Cmd) {s : State} (h : s₀.Keeps s) :
    KeepsOut s₀ (execCartoucheImageLoad c s) := by
  unfold execCartoucheImageLoad
  try dsimp only
  repeat' first
    | with_reducible assumption
    | with_reducible apply cartoucheImageLoadBody_keeps
    | with_reducible apply State.command_keeps
    | with_reducible apply State.advanced_keeps
    | with_reducible apply KeepsOut.next

theorem execLinelistSet_keeps {s₀ : State} (c : Cmd) {s : State} (h : s₀.Keeps s) :
    KeepsOut s₀ (execLinelistSet c s) := by
  unfold execLinelistSet
  try dsimp only
  repeat' first
    | with_reducible assumption
    | with_reducible apply State.command_keeps
    | with_reducible apply linelistSetBody_keeps
    | with_reducible apply State.advanced_keeps
    | with_reducible apply KeepsOut.next

theorem execCaptureChannelSet_keeps {s₀ : State} (c : Cmd) {s : State} (h : s₀.Keeps s) :
    KeepsOut s₀ (execCaptureChannelSet c s) := by
  unfold execCaptureChannelSet
  try dsimp only
  repeat' first
    | with_reducible assumption
    | with_reducible apply State.command_keeps
    | with_reducible apply captureChannelSetBody_keeps
    | with_reducible apply State.advanced_keeps
    | with_reducible apply KeepsOut.next

theorem execReferenceSet_keeps {s₀ : State} (c : Cmd) {s : State} (h : s₀.Keeps s) :
    KeepsOut s₀ (execReferenceSet c s) := by
  unfold execReferenceSet
  try dsimp only
  repeat' first
    | with_reducible assumption
    | with_reducible apply State.command_keeps
    | with_reducible apply referenceSetBody_keeps
    | with_reducible apply State.advanced_keeps
    | with_reducible apply KeepsOut.next

theorem execDmaSubmit_keeps {s₀ : State} (c : Cmd) {s : State} (h : s₀.Keeps s) :
    KeepsOut s₀ (execDmaSubmit c s) := by
  unfold execDmaSubmit
  try dsimp only
  repeat' first
    | with_reducible assumption
    | with_reducible apply State.command_keeps
    | with_reducible apply dmaSubmitBody_keeps
    | with_reducible apply State.advanced_keeps
    | with_reducible apply KeepsOut.next

theorem execObjectTableSet_keeps {s₀ : State} (c : Cmd) {s : State} (h : s₀.Keeps s) :
    KeepsOut s₀ (execObjectTableSet c s) := by
  unfold execObjectTableSet
  try dsimp only
  repeat' first
    | with_reducible assumption
    | with_reducible apply State.command_keeps
    | with_reducible apply objectTableSetBody_keeps
    | with_reducible apply State.advanced_keeps
    | with_reducible apply KeepsOut.next

theorem execTabLoad_keeps {s₀ : State} (c : Cmd) {s : State} (h : s₀.Keeps s) :
    KeepsOut s₀ (execTabLoad c s) := by
  unfold execTabLoad
  try dsimp only
  repeat' first
    | with_reducible assumption
    | with_reducible apply State.command_keeps
    | with_reducible apply tabLoadBody_keeps
    | with_reducible apply State.advanced_keeps
    | with_reducible apply KeepsOut.next

theorem execHeadTimingSet_keeps {s₀ : State} (c : Cmd) {s : State} (h : s₀.Keeps s) :
    KeepsOut s₀ (execHeadTimingSet c s) := by
  unfold execHeadTimingSet
  try dsimp only
  repeat' first
    | with_reducible assumption
    | with_reducible apply State.command_keeps
    | with_reducible apply headTimingSetBody_keeps
    | with_reducible apply State.advanced_keeps
    | with_reducible apply KeepsOut.next

theorem execHeadPrioritySet_keeps {s₀ : State} (c : Cmd) {s : State} (h : s₀.Keeps s) :
    KeepsOut s₀ (execHeadPrioritySet c s) := by
  unfold execHeadPrioritySet
  try dsimp only
  repeat' first
    | with_reducible assumption
    | with_reducible apply State.command_keeps
    | with_reducible apply headPrioritySetBody_keeps
    | with_reducible apply State.advanced_keeps
    | with_reducible apply KeepsOut.next

theorem execTabDebug_keeps {s₀ : State} (c : Cmd) {s : State} (h : s₀.Keeps s) :
    KeepsOut s₀ (execTabDebug c s) := by
  unfold execTabDebug
  try dsimp only
  repeat' first
    | with_reducible assumption
    | with_reducible apply State.command_keeps
    | with_reducible apply tabDebugBody_keeps
    | with_reducible apply State.advanced_keeps
    | with_reducible apply KeepsOut.next

theorem execPinOwnerSet_keeps {s₀ : State} (c : Cmd) {s : State} (h : s₀.Keeps s) :
    KeepsOut s₀ (execPinOwnerSet c s) := by
  unfold execPinOwnerSet
  try dsimp only
  repeat' first
    | with_reducible assumption
    | with_reducible apply State.command_keeps
    | with_reducible apply pinOwnerSetBody_keeps
    | with_reducible apply State.advanced_keeps
    | with_reducible apply KeepsOut.next

theorem execListenProgramLoad_keeps {s₀ : State} (c : Cmd) {s : State} (h : s₀.Keeps s) :
    KeepsOut s₀ (execListenProgramLoad c s) := by
  unfold execListenProgramLoad
  try dsimp only
  repeat' first
    | with_reducible assumption
    | with_reducible apply State.command_keeps
    | with_reducible apply listenProgramLoadBody_keeps
    | with_reducible apply State.advanced_keeps
    | with_reducible apply KeepsOut.next
    | intro _

end Sys2Proof.Machine
end

