-- ==== Sys2Proof/Laws/Exec.lean ====
section
/-! SUPPORT. What any command of the table can do to the state as a whole: which of the relations of `Laws/Keeps` its meaning
stands in, command by command. -/

namespace Sys2Proof.Machine

/-- Every command, the resets and supply losses included, leaves a state that `State.Resets` relates to the one before. -/
theorem exec_resets (i : Instr) (s : State) : ResetsOut s (exec i s) := by
  cases i with
  | nop c => exact KeepsOut.resets (execNop_keeps _ (State.Keeps.refl s))
  | tenantCreate c => exact KeepsOut.resets (execTenantCreate_keeps _ (State.Keeps.refl s))
  | tenantDestroy c => exact KeepsOut.resets (execTenantDestroy_keeps _ (State.Keeps.refl s))
  | tenantDestroyComplete dt tenant => exact KeepsOut.resets (execTenantDestroyComplete_keeps _ _ (State.Keeps.refl s))
  | quotaSet c => exact KeepsOut.resets (execQuotaSet_keeps _ (State.Keeps.refl s))
  | viewportSet c => exact KeepsOut.resets (execViewportSet_keeps _ (State.Keeps.refl s))
  | regRead c => exact KeepsOut.resets (execRegRead_keeps _ (State.Keeps.refl s))
  | regWrite c => exact KeepsOut.resets (execRegWrite_keeps _ (State.Keeps.refl s))
  | eventSubscribe c => exact KeepsOut.resets (execEventSubscribe_keeps _ (State.Keeps.refl s))
  | tenantQuery c => exact KeepsOut.resets (execTenantQuery_keeps _ (State.Keeps.refl s))
  | atlasMap c => exact KeepsOut.resets (execAtlasMap_keeps _ (State.Keeps.refl s))
  | atlasUnmap c => exact KeepsOut.resets (execAtlasUnmap_keeps _ (State.Keeps.refl s))
  | bankAssign c => exact KeepsOut.resets (execBankAssign_keeps _ (State.Keeps.refl s))
  | planeCreate c => exact KeepsOut.resets (execPlaneCreate_keeps _ (State.Keeps.refl s))
  | planeDestroy c => exact KeepsOut.resets (execPlaneDestroy_keeps _ (State.Keeps.refl s))
  | planeSet c => exact KeepsOut.resets (execPlaneSet_keeps _ (State.Keeps.refl s))
  | paletteLoad c => exact KeepsOut.resets (execPaletteLoad_keeps _ (State.Keeps.refl s))
  | objectTableSet c => exact KeepsOut.resets (execObjectTableSet_keeps _ (State.Keeps.refl s))
  | canvasSet c => exact KeepsOut.resets (execCanvasSet_keeps _ (State.Keeps.refl s))
  | scalerCoefLoad c => exact KeepsOut.resets (execScalerCoefLoad_keeps _ (State.Keeps.refl s))
  | contourSet c => exact KeepsOut.resets (execContourSet_keeps _ (State.Keeps.refl s))
  | paintSet c => exact KeepsOut.resets (execPaintSet_keeps _ (State.Keeps.refl s))
  | transferLutLoad c => exact KeepsOut.resets (execTransferLutLoad_keeps _ (State.Keeps.refl s))
  | postLutLoad c => exact KeepsOut.resets (execPostLutLoad_keeps _ (State.Keeps.refl s))
  | ditherSet c => exact KeepsOut.resets (execDitherSet_keeps _ (State.Keeps.refl s))
  | linelistSet c => exact KeepsOut.resets (execLinelistSet_keeps _ (State.Keeps.refl s))
  | fretSet c => exact KeepsOut.resets (execFretSet_keeps _ (State.Keeps.refl s))
  | leadBoundsSet c => exact KeepsOut.resets (execLeadBoundsSet_keeps _ (State.Keeps.refl s))
  | costQuery c => exact KeepsOut.resets (execCostQuery_keeps _ (State.Keeps.refl s))
  | tabLoad c => exact KeepsOut.resets (execTabLoad_keeps _ (State.Keeps.refl s))
  | tabStart c => exact KeepsOut.resets (execTabStart_keeps _ (State.Keeps.refl s))
  | tabStop c => exact KeepsOut.resets (execTabStop_keeps _ (State.Keeps.refl s))
  | decodeTableLoad c => exact KeepsOut.resets (execDecodeTableLoad_keeps _ (State.Keeps.refl s))
  | tabDebug c => exact KeepsOut.resets (execTabDebug_keeps _ (State.Keeps.refl s))
  | headTimingSet c => exact KeepsOut.resets (execHeadTimingSet_keeps _ (State.Keeps.refl s))
  | portRouteSet c => exact KeepsOut.resets (execPortRouteSet_keeps _ (State.Keeps.refl s))
  | commitSubmit c => exact KeepsOut.resets (execCommitSubmit_keeps _ (State.Keeps.refl s))
  | captureStart c => exact KeepsOut.resets (execCaptureStart_keeps _ (State.Keeps.refl s))
  | captureStop c => exact KeepsOut.resets (execCaptureStop_keeps _ (State.Keeps.refl s))
  | framelockSet c => exact KeepsOut.resets (execFramelockSet_keeps _ (State.Keeps.refl s))
  | stillPolicySet c => exact KeepsOut.resets (execStillPolicySet_keeps _ (State.Keeps.refl s))
  | cartoucheImageLoad c => exact KeepsOut.resets (execCartoucheImageLoad_keeps _ (State.Keeps.refl s))
  | cartoucheCellSet c => exact KeepsOut.resets (execCartoucheCellSet_keeps _ (State.Keeps.refl s))
  | watchRegionSet c => exact KeepsOut.resets (execWatchRegionSet_keeps _ (State.Keeps.refl s))
  | referenceSet c => exact KeepsOut.resets (execReferenceSet_keeps _ (State.Keeps.refl s))
  | faultReactionSet c => exact KeepsOut.resets (execFaultReactionSet_keeps _ (State.Keeps.refl s))
  | headPrioritySet c => exact KeepsOut.resets (execHeadPrioritySet_keeps _ (State.Keeps.refl s))
  | powerPolicySet c => exact KeepsOut.resets (execPowerPolicySet_keeps _ (State.Keeps.refl s))
  | maintenanceSet c => exact KeepsOut.resets (execMaintenanceSet_keeps _ (State.Keeps.refl s))
  | governorQuery c => exact KeepsOut.resets (execGovernorQuery_keeps _ (State.Keeps.refl s))
  | voiceCreate c => exact KeepsOut.resets (execVoiceCreate_keeps _ (State.Keeps.refl s))
  | voiceSet c => exact KeepsOut.resets (execVoiceSet_keeps _ (State.Keeps.refl s))
  | voiceStart c => exact KeepsOut.resets (execVoiceStart_keeps _ (State.Keeps.refl s))
  | voiceStop c => exact KeepsOut.resets (execVoiceStop_keeps _ (State.Keeps.refl s))
  | busSet c => exact KeepsOut.resets (execBusSet_keeps _ (State.Keeps.refl s))
  | bridgeSet c => exact KeepsOut.resets (execBridgeSet_keeps _ (State.Keeps.refl s))
  | audioPortSet c => exact KeepsOut.resets (execAudioPortSet_keeps _ (State.Keeps.refl s))
  | avtpStreamSet c => exact KeepsOut.resets (execAvtpStreamSet_keeps _ (State.Keeps.refl s))
  | audioCaptureStart c => exact KeepsOut.resets (execAudioCaptureStart_keeps _ (State.Keeps.refl s))
  | cartoucheVoiceSet c => exact KeepsOut.resets (execCartoucheVoiceSet_keeps _ (State.Keeps.refl s))
  | modelLoad c => exact KeepsOut.resets (execModelLoad_keeps _ (State.Keeps.refl s))
  | listenProgramLoad c => exact KeepsOut.resets (execListenProgramLoad_keeps _ (State.Keeps.refl s))
  | wakeSourceSet c => exact KeepsOut.resets (execWakeSourceSet_keeps _ (State.Keeps.refl s))
  | prerollRead c => exact KeepsOut.resets (execPrerollRead_keeps _ (State.Keeps.refl s))
  | modeSet c => exact KeepsOut.resets (execModeSet_keeps _ (State.Keeps.refl s))
  | clockPlanSet c => exact KeepsOut.resets (execClockPlanSet_keeps _ (State.Keeps.refl s))
  | clockMeasure c => exact KeepsOut.resets (execClockMeasure_keeps _ (State.Keeps.refl s))
  | compareSet c => exact KeepsOut.resets (execCompareSet_keeps _ (State.Keeps.refl s))
  | captureChannelSet c => exact KeepsOut.resets (execCaptureChannelSet_keeps _ (State.Keeps.refl s))
  | pwmSet c => exact KeepsOut.resets (execPwmSet_keeps _ (State.Keeps.refl s))
  | calendarSet c => exact KeepsOut.resets (execCalendarSet_keeps _ (State.Keeps.refl s))
  | calendarAlarmSet c => exact KeepsOut.resets (execCalendarAlarmSet_keeps _ (State.Keeps.refl s))
  | dmaChannelSet c => exact KeepsOut.resets (execDmaChannelSet_keeps _ (State.Keeps.refl s))
  | dmaSubmit c => exact KeepsOut.resets (execDmaSubmit_keeps _ (State.Keeps.refl s))
  | blitSubmit c => exact KeepsOut.resets (execBlitSubmit_keeps _ (State.Keeps.refl s))
  | dmaShareSet c => exact KeepsOut.resets (execDmaShareSet_keeps _ (State.Keeps.refl s))
  | pinOwnerSet c => exact KeepsOut.resets (execPinOwnerSet_keeps _ (State.Keeps.refl s))
  | pinConfigSet c => exact KeepsOut.resets (execPinConfigSet_keeps _ (State.Keeps.refl s))
  | pinWrite c => exact KeepsOut.resets (execPinWrite_keeps _ (State.Keeps.refl s))
  | pinLock c => exact KeepsOut.resets (execPinLock_keeps _ (State.Keeps.refl s))
  | debugGrant c => exact KeepsOut.resets (execDebugGrant_keeps _ (State.Keeps.refl s))
  | debugUnlock c => exact KeepsOut.resets (execDebugUnlock_keeps _ (State.Keeps.refl s))
  | serviceEnter c => exact KeepsOut.resets (execServiceEnter_keeps _ (State.Keeps.refl s))
  | lifecycleQuery c => exact KeepsOut.resets (execLifecycleQuery_keeps _ (State.Keeps.refl s))
  | commandFetch dt => exact KeepsOut.resets (execCommandFetch_keeps _ (State.Keeps.refl s))
  | heldRecordWrite dt tenant => exact KeepsOut.resets (execHeldRecordWrite_keeps _ _ (State.Keeps.refl s))
  | mailboxDrainEnd dt tenant => exact KeepsOut.resets (execMailboxDrainEnd_keeps _ _ (State.Keeps.refl s))
  | cmdTailWrite dt tenant v => exact KeepsOut.resets (execCmdTailWrite_keeps _ _ _ (State.Keeps.refl s))
  | cplHeadWrite dt tenant v => exact KeepsOut.resets (execCplHeadWrite_keeps _ _ _ (State.Keeps.refl s))
  | mboxEnable dt tenant => exact KeepsOut.resets (execMboxEnable_keeps _ _ (State.Keeps.refl s))
  | mboxDisable dt tenant => exact KeepsOut.resets (execMboxDisable_keeps _ _ (State.Keeps.refl s))
  | mboxReset dt tenant enable => exact KeepsOut.resets (execMboxReset_keeps _ _ _ (State.Keeps.refl s))
  | devEventClear dt v => exact KeepsOut.resets (execDevEventClear_keeps _ _ (State.Keeps.refl s))
  | devEventEnWrite dt v => exact KeepsOut.resets (execDevEventEnWrite_keeps _ _ (State.Keeps.refl s))
  | pasidLock dt v => exact KeepsOut.resets (execPasidLock_keeps _ _ (State.Keeps.refl s))
  | meridianLoRead dt => exact KeepsOut.resets (execMeridianLoRead_keeps _ (State.Keeps.refl s))
  | courseCntRead dt course => exact KeepsOut.resets (execCourseCntRead_keeps _ _ (State.Keeps.refl s))
  | intcPendingSet dt k v => exact KeepsOut.resets (execIntcPendingSet_keeps _ _ _ (State.Keeps.refl s))
  | intcPendingClr dt k v edges => exact KeepsOut.resets (execIntcPendingClr_keeps _ _ _ _ (State.Keeps.refl s))
  | intcEnableSet dt k v => exact KeepsOut.resets (execIntcEnableSet_keeps _ _ _ (State.Keeps.refl s))
  | intcEnableClr dt k v => exact KeepsOut.resets (execIntcEnableClr_keeps _ _ _ (State.Keeps.refl s))
  | gpioMaskedWrite dt bank reg high v => exact KeepsOut.resets (execGpioMaskedWrite_keeps _ _ _ _ _ (State.Keeps.refl s))
  | gpioIntEnSet dt bank v => exact KeepsOut.resets (execGpioIntEnSet_keeps _ _ _ (State.Keeps.refl s))
  | gpioIntEnClr dt bank v => exact KeepsOut.resets (execGpioIntEnClr_keeps _ _ _ (State.Keeps.refl s))
  | auxCtlStart dt port v cpUses => exact KeepsOut.resets (execAuxCtlStart_keeps _ _ _ _ (State.Keeps.refl s))
  | auxTransactionEnd dt port reply => exact KeepsOut.resets (execAuxTransactionEnd_keeps _ _ _ (State.Keeps.refl s))
  | mdioCtlStart dt mac v => exact KeepsOut.resets (execMdioCtlStart_keeps _ _ _ (State.Keeps.refl s))
  | mdioFrameEnd dt mac rdata => exact KeepsOut.resets (execMdioFrameEnd_keeps _ _ _ (State.Keeps.refl s))
  | pegWakeReqWrite dt v => exact KeepsOut.resets (execPegWakeReqWrite_keeps _ _ (State.Keeps.refl s))
  | hostBar0AccessAsleep dt write off v => exact KeepsOut.resets (execHostBar0AccessAsleep_keeps _ _ _ _ (State.Keeps.refl s))
  | registerWrite dt space addr v => exact KeepsOut.resets (execRegisterWrite_keeps _ _ _ _ (State.Keeps.refl s))
  | beamLineEnter dt head late => exact KeepsOut.resets (execBeamLineEnter_keeps _ _ _ (State.Keeps.refl s))
  | composeBoundary dt head => exact KeepsOut.resets (execComposeBoundary_keeps _ _ (State.Keeps.refl s))
  | composerLineStart dt head => exact KeepsOut.resets (execComposerLineStart_keeps _ _ (State.Keeps.refl s))
  | composerLineComplete dt head => exact KeepsOut.resets (execComposerLineComplete_keeps _ _ (State.Keeps.refl s))
  | fetchReturn dt req outcome => exact KeepsOut.resets (execFetchReturn_keeps _ _ _ (State.Keeps.refl s))
  | portPixelNeed dt port stream empty => exact KeepsOut.resets (execPortPixelNeed_keeps _ _ _ _ (State.Keeps.refl s))
  | heartbeatPeriodEnd dt cluster onTime healthy => exact KeepsOut.resets (execHeartbeatPeriodEnd_keeps _ _ _ _ (State.Keeps.refl s))
  | clusterSelfTestEnd dt cluster pass => exact KeepsOut.resets (execClusterSelfTestEnd_keeps _ _ _ (State.Keeps.refl s))
  | legendUpdate dt => exact KeepsOut.resets (execLegendUpdate_keeps _ (State.Keeps.refl s))
  | armDeadline dt id unarmed => exact KeepsOut.resets (execArmDeadline_keeps _ _ _ (State.Keeps.refl s))
  | applyTime dt id => exact KeepsOut.resets (execApplyTime_keeps _ _ (State.Keeps.refl s))
  | applyAckTimeout dt id failed => exact KeepsOut.resets (execApplyAckTimeout_keeps _ _ _ (State.Keeps.refl s))
  | rollback dt id => exact KeepsOut.resets (execRollback_keeps _ _ (State.Keeps.refl s))
  | governorEvaluation dt temps activity => exact KeepsOut.resets (execGovernorEvaluation_keeps _ _ _ (State.Keeps.refl s))
  | leakageAnchor dt current => exact KeepsOut.resets (execLeakageAnchor_keeps _ _ (State.Keeps.refl s))
  | estimatorUnanchored dt => exact KeepsOut.resets (execEstimatorUnanchored_keeps _ (State.Keeps.refl s))
  | thermtripAssert dt => exact KeepsOut.resets (execThermtripAssert_keeps _ (State.Keeps.refl s))
  | maintenanceActivityDue dt activity => exact KeepsOut.resets (execMaintenanceActivityDue_keeps _ _ (State.Keeps.refl s))
  | maintenanceActivityEnd dt activity result => exact KeepsOut.resets (execMaintenanceActivityEnd_keeps _ _ _ (State.Keeps.refl s))
  | irqAgeLimit dt tenant => exact KeepsOut.resets (execIrqAgeLimit_keeps _ _ (State.Keeps.refl s))
  | courseSampleBoundary dt course inp => exact KeepsOut.resets (execCourseSampleBoundary_keeps _ _ _ (State.Keeps.refl s))
  | meterWindowEnd dt course => exact KeepsOut.resets (execMeterWindowEnd_keeps _ _ (State.Keeps.refl s))
  | audioMeter dt => exact KeepsOut.resets (execAudioMeter_keeps _ (State.Keeps.refl s))
  | bridgeLaneRangeTimeout dt lane inRange => exact KeepsOut.resets (execBridgeLaneRangeTimeout_keeps _ _ _ (State.Keeps.refl s))
  | audioClockRelock dt clock => exact KeepsOut.resets (execAudioClockRelock_keeps _ _ (State.Keeps.refl s))
  | tdmFrameSlip dt port input => exact KeepsOut.resets (execTdmFrameSlip_keeps _ _ _ (State.Keeps.refl s))
  | avtpPacketReceive dt stream ptime samples => exact KeepsOut.resets (execAvtpPacketReceive_keeps _ _ _ _ (State.Keeps.refl s))
  | audioCaptureBlock dt bus => exact KeepsOut.resets (execAudioCaptureBlock_keeps _ _ (State.Keeps.refl s))
  | audioCaptureStall dt bus => exact KeepsOut.resets (execAudioCaptureStall_keeps _ _ (State.Keeps.refl s))
  | captureFrame dt head => exact KeepsOut.resets (execCaptureFrame_keeps _ _ (State.Keeps.refl s))
  | captureWriteStall dt head => exact KeepsOut.resets (execCaptureWriteStall_keeps _ _ (State.Keeps.refl s))
  | compareEvaluation dt => exact KeepsOut.resets (execCompareEvaluation_keeps _ (State.Keeps.refl s))
  | pwmTick dt pwm => exact KeepsOut.resets (execPwmTick_keeps _ _ (State.Keeps.refl s))
  | captureFilterSample dt channel level => exact KeepsOut.resets (execCaptureFilterSample_keeps _ _ _ (State.Keeps.refl s))
  | interruptSourceEvent dt source asserted => exact KeepsOut.resets (execInterruptSourceEvent_keeps _ _ _ (State.Keeps.refl s))
  | holdoffExpiry dt group => exact KeepsOut.resets (execHoldoffExpiry_keeps _ _ (State.Keeps.refl s))
  | coreEntry dt who arrivals => exact KeepsOut.resets (execCoreEntry_keeps _ _ _ (State.Keeps.refl s))
  | slowCounterEdge dt => exact KeepsOut.resets (execSlowCounterEdge_keeps _ (State.Keeps.refl s))
  | melFrameReady dt samples => exact KeepsOut.resets (execMelFrameReady_keeps _ _ (State.Keeps.refl s))
  | modelEvaluationDone dt => exact KeepsOut.resets (execModelEvaluationDone_keeps _ (State.Keeps.refl s))
  | i2cAddressMatch dt addr read => exact KeepsOut.resets (execI2cAddressMatch_keeps _ _ _ (State.Keeps.refl s))
  | i2cDataByteWrite dt v => exact KeepsOut.resets (execI2cDataByteWrite_keeps _ _ (State.Keeps.refl s))
  | i2cDataByteRead dt => exact KeepsOut.resets (execI2cDataByteRead_keeps _ (State.Keeps.refl s))
  | i2cStretchTimeout dt => exact KeepsOut.resets (execI2cStretchTimeout_keeps _ (State.Keeps.refl s))
  | wakeComplete dt => exact KeepsOut.resets (execWakeComplete_keeps _ (State.Keeps.refl s))
  | modeReached dt => exact KeepsOut.resets (execModeReached_keeps _ (State.Keeps.refl s))
  | pinLevelChange dt pin level => exact KeepsOut.resets (execPinLevelChange_keeps _ _ _ (State.Keeps.refl s))
  | pinEventCoalesceEnd dt pin => exact KeepsOut.resets (execPinEventCoalesceEnd_keeps _ _ (State.Keeps.refl s))
  | pinHandoverEnd dt pin => exact KeepsOut.resets (execPinHandoverEnd_keeps _ _ (State.Keeps.refl s))
  | serialTransferDone dt block outcome => exact KeepsOut.resets (execSerialTransferDone_keeps _ _ _ (State.Keeps.refl s))
  | uartByteReceive dt uart v => exact KeepsOut.resets (execUartByteReceive_keeps _ _ _ (State.Keeps.refl s))
  | uartLineIdle dt uart => exact KeepsOut.resets (execUartLineIdle_keeps _ _ (State.Keeps.refl s))
  | hpdFall dt port => exact KeepsOut.resets (execHpdFall_keeps _ _ (State.Keeps.refl s))
  | hpdRise dt port attempts => exact KeepsOut.resets (execHpdRise_keeps _ _ _ (State.Keeps.refl s))
  | linkTrainingDone dt port ok lanes rate => exact KeepsOut.resets (execLinkTrainingDone_keeps _ _ _ _ _ (State.Keeps.refl s))
  | pixelPllLock dt head => exact KeepsOut.resets (execPixelPllLock_keeps _ _ (State.Keeps.refl s))
  | fsyncEdge dt => exact KeepsOut.resets (execFsyncEdge_keeps _ (State.Keeps.refl s))
  | fsyncLost dt => exact KeepsOut.resets (execFsyncLost_keeps _ (State.Keeps.refl s))
  | gptpStateChange dt mac synced offset ratio => exact KeepsOut.resets (execGptpStateChange_keeps _ _ _ _ _ (State.Keeps.refl s))
  | clockReferenceLost dt ref => exact KeepsOut.resets (execClockReferenceLost_keeps _ _ (State.Keeps.refl s))
  | clockReferenceReturn dt ref => exact KeepsOut.resets (execClockReferenceReturn_keeps _ _ (State.Keeps.refl s))
  | pwrfailNAssert dt => exact KeepsOut.resets (execPwrfailNAssert_keeps _ (State.Keeps.refl s))
  | pwrfailNRelease dt => exact execPwrfailNRelease_resets _ s
  | resetPin dt => exact execResetPin_resets _ s
  | resetRelease dt straps vddioHigh => exact KeepsOut.resets (execResetRelease_keeps _ _ _ (State.Keeps.refl s))
  | bootCopyVerify dt image => exact KeepsOut.resets (execBootCopyVerify_keeps _ _ (State.Keeps.refl s))
  | cartoucheBootImageApply dt => exact KeepsOut.resets (execCartoucheBootImageApply_keeps _ (State.Keeps.refl s))
  | firmwareReady dt => exact KeepsOut.resets (execFirmwareReady_keeps _ (State.Keeps.refl s))
  | pcieLinkUp dt => exact KeepsOut.resets (execPcieLinkUp_keeps _ (State.Keeps.refl s))
  | perstAssert dt => exact execPerstAssert_resets _ s
  | clkreqAssert dt => exact KeepsOut.resets (execClkreqAssert_keeps _ (State.Keeps.refl s))
  | wakeFrameReceive dt mac frame => exact KeepsOut.resets (execWakeFrameReceive_keeps _ _ _ (State.Keeps.refl s))
  | serviceNReleaseTimeout dt => exact KeepsOut.resets (execServiceNReleaseTimeout_keeps _ (State.Keeps.refl s))
  | tokenReset dt => exact execTokenReset_resets _ s
  | jtagAccess dt op => exact KeepsOut.resets (execJtagAccess_keeps _ _ (State.Keeps.refl s))
  | dmaDescriptorComplete dt channel => exact KeepsOut.resets (execDmaDescriptorComplete_keeps _ _ (State.Keeps.refl s))
  | dmaRingRecheck dt channel => exact KeepsOut.resets (execDmaRingRecheck_keeps _ _ (State.Keeps.refl s))
  | dmaTokenGrant dt channel => exact KeepsOut.resets (execDmaTokenGrant_keeps _ _ (State.Keeps.refl s))
  | blitStart dt => exact KeepsOut.resets (execBlitStart_keeps _ (State.Keeps.refl s))
  | blitDone dt => exact KeepsOut.resets (execBlitDone_keeps _ (State.Keeps.refl s))
  | loadReturn dt core thread outcome => exact KeepsOut.resets (execLoadReturn_keeps _ _ _ _ (State.Keeps.refl s))
  | fenceComplete dt core thread poisonedStore => exact KeepsOut.resets (execFenceComplete_keeps _ _ _ _ (State.Keeps.refl s))
  | tabBudgetOverrun dt core thread charge => exact KeepsOut.resets (execTabBudgetOverrun_keeps _ _ _ _ (State.Keeps.refl s))
  | nopInstruction who => exact KeepsOut.resets (execNopInstruction_keeps _ (State.Keeps.refl s))
  | drop who => exact KeepsOut.resets (execDrop_keeps _ (State.Keeps.refl s))
  | dup who => exact KeepsOut.resets (execDup_keeps _ (State.Keeps.refl s))
  | swap who => exact KeepsOut.resets (execSwap_keeps _ (State.Keeps.refl s))
  | overOp who => exact KeepsOut.resets (execOver_keeps _ (State.Keeps.refl s))
  | rot who => exact KeepsOut.resets (execRot_keeps _ (State.Keeps.refl s))
  | nip who => exact KeepsOut.resets (execNip_keeps _ (State.Keeps.refl s))
  | tuck who => exact KeepsOut.resets (execTuck_keeps _ (State.Keeps.refl s))
  | pick who n => exact KeepsOut.resets (execPick_keeps _ _ (State.Keeps.refl s))
  | depth who => exact KeepsOut.resets (execDepth_keeps _ (State.Keeps.refl s))
  | tor who => exact KeepsOut.resets (execTor_keeps _ (State.Keeps.refl s))
  | fromr who => exact KeepsOut.resets (execFromr_keeps _ (State.Keeps.refl s))
  | rfetch who => exact KeepsOut.resets (execRfetch_keeps _ (State.Keeps.refl s))
  | rdrop who => exact KeepsOut.resets (execRdrop_keeps _ (State.Keeps.refl s))
  | add who => exact KeepsOut.resets (execAdd_keeps _ (State.Keeps.refl s))
  | sub who => exact KeepsOut.resets (execSub_keeps _ (State.Keeps.refl s))
  | andOp who => exact KeepsOut.resets (execAndOp_keeps _ (State.Keeps.refl s))
  | orOp who => exact KeepsOut.resets (execOrOp_keeps _ (State.Keeps.refl s))
  | xorOp who => exact KeepsOut.resets (execXorOp_keeps _ (State.Keeps.refl s))
  | shl who => exact KeepsOut.resets (execShl_keeps _ (State.Keeps.refl s))
  | shr who => exact KeepsOut.resets (execShr_keeps _ (State.Keeps.refl s))
  | sar who => exact KeepsOut.resets (execSar_keeps _ (State.Keeps.refl s))
  | mul who => exact KeepsOut.resets (execMul_keeps _ (State.Keeps.refl s))
  | mulhu who => exact KeepsOut.resets (execMulhu_keeps _ (State.Keeps.refl s))
  | mulhs who => exact KeepsOut.resets (execMulhs_keeps _ (State.Keeps.refl s))
  | divu who => exact KeepsOut.resets (execDivu_keeps _ (State.Keeps.refl s))
  | divs who => exact KeepsOut.resets (execDivs_keeps _ (State.Keeps.refl s))
  | remu who => exact KeepsOut.resets (execRemu_keeps _ (State.Keeps.refl s))
  | rems who => exact KeepsOut.resets (execRems_keeps _ (State.Keeps.refl s))
  | min who => exact KeepsOut.resets (execMin_keeps _ (State.Keeps.refl s))
  | max who => exact KeepsOut.resets (execMax_keeps _ (State.Keeps.refl s))
  | minu who => exact KeepsOut.resets (execMinu_keeps _ (State.Keeps.refl s))
  | maxu who => exact KeepsOut.resets (execMaxu_keeps _ (State.Keeps.refl s))
  | slt who => exact KeepsOut.resets (execSlt_keeps _ (State.Keeps.refl s))
  | sltu who => exact KeepsOut.resets (execSltu_keeps _ (State.Keeps.refl s))
  | notOp who => exact KeepsOut.resets (execNotOp_keeps _ (State.Keeps.refl s))
  | neg who => exact KeepsOut.resets (execNeg_keeps _ (State.Keeps.refl s))
  | abs who => exact KeepsOut.resets (execAbs_keeps _ (State.Keeps.refl s))
  | clz who => exact KeepsOut.resets (execClz_keeps _ (State.Keeps.refl s))
  | sext8 who => exact KeepsOut.resets (execSext8_keeps _ (State.Keeps.refl s))
  | sext16 who => exact KeepsOut.resets (execSext16_keeps _ (State.Keeps.refl s))
  | cmp who => exact KeepsOut.resets (execCmp_keeps _ (State.Keeps.refl s))
  | tst who => exact KeepsOut.resets (execTst_keeps _ (State.Keeps.refl s))
  | adc who => exact KeepsOut.resets (execAdc_keeps _ (State.Keeps.refl s))
  | sbc who => exact KeepsOut.resets (execSbc_keeps _ (State.Keeps.refl s))
  | lits who v => exact KeepsOut.resets (execLits_keeps _ _ (State.Keeps.refl s))
  | lit16 who x => exact KeepsOut.resets (execLit16_keeps _ _ (State.Keeps.refl s))
  | lit16s who x => exact KeepsOut.resets (execLit16s_keeps _ _ (State.Keeps.refl s))
  | lit32 who x => exact KeepsOut.resets (execLit32_keeps _ _ (State.Keeps.refl s))
  | ld32 who p k => exact KeepsOut.resets (execLd32_keeps _ _ _ (State.Keeps.refl s))
  | ld16u who p k => exact KeepsOut.resets (execLd16u_keeps _ _ _ (State.Keeps.refl s))
  | ld16s who p k => exact KeepsOut.resets (execLd16s_keeps _ _ _ (State.Keeps.refl s))
  | ld8u who p k => exact KeepsOut.resets (execLd8u_keeps _ _ _ (State.Keeps.refl s))
  | ld8s who p k => exact KeepsOut.resets (execLd8s_keeps _ _ _ (State.Keeps.refl s))
  | st32 who p k => exact KeepsOut.resets (execSt32_keeps _ _ _ (State.Keeps.refl s))
  | st16 who p k => exact KeepsOut.resets (execSt16_keeps _ _ _ (State.Keeps.refl s))
  | st8 who p k => exact KeepsOut.resets (execSt8_keeps _ _ _ (State.Keeps.refl s))
  | ld32p who p => exact KeepsOut.resets (execLd32p_keeps _ _ (State.Keeps.refl s))
  | st32p who p => exact KeepsOut.resets (execSt32p_keeps _ _ (State.Keeps.refl s))
  | pget who p => exact KeepsOut.resets (execPget_keeps _ _ (State.Keeps.refl s))
  | pset who p => exact KeepsOut.resets (execPset_keeps _ _ (State.Keeps.refl s))
  | padd who p => exact KeepsOut.resets (execPadd_keeps _ _ (State.Keeps.refl s))
  | paddi who p k => exact KeepsOut.resets (execPaddi_keeps _ _ _ (State.Keeps.refl s))
  | beq who off => exact KeepsOut.resets (execBeq_keeps _ _ (State.Keeps.refl s))
  | bne who off => exact KeepsOut.resets (execBne_keeps _ _ (State.Keeps.refl s))
  | blt who off => exact KeepsOut.resets (execBlt_keeps _ _ (State.Keeps.refl s))
  | bge who off => exact KeepsOut.resets (execBge_keeps _ _ (State.Keeps.refl s))
  | bltu who off => exact KeepsOut.resets (execBltu_keeps _ _ (State.Keeps.refl s))
  | bgeu who off => exact KeepsOut.resets (execBgeu_keeps _ _ (State.Keeps.refl s))
  | bz who off => exact KeepsOut.resets (execBz_keeps _ _ (State.Keeps.refl s))
  | bnz who off => exact KeepsOut.resets (execBnz_keeps _ _ (State.Keeps.refl s))
  | bcc who cc off => exact KeepsOut.resets (execBcc_keeps _ _ _ (State.Keeps.refl s))
  | jmp who off => exact KeepsOut.resets (execJmp_keeps _ _ (State.Keeps.refl s))
  | call who off => exact KeepsOut.resets (execCall_keeps _ _ (State.Keeps.refl s))
  | jmpi who => exact KeepsOut.resets (execJmpi_keeps _ (State.Keeps.refl s))
  | calli who => exact KeepsOut.resets (execCalli_keeps _ (State.Keeps.refl s))
  | ret who => exact KeepsOut.resets (execRet_keeps _ (State.Keeps.refl s))
  | jmpl who target => exact KeepsOut.resets (execJmpl_keeps _ _ (State.Keeps.refl s))
  | calll who target => exact KeepsOut.resets (execCalll_keeps _ _ (State.Keeps.refl s))
  | pwrite who id => exact KeepsOut.resets (execPwrite_keeps _ _ (State.Keeps.refl s))
  | palw who => exact KeepsOut.resets (execPalw_keeps _ (State.Keeps.refl s))
  | waitl who => exact KeepsOut.resets (execWaitl_keeps _ (State.Keeps.refl s))
  | line who => exact KeepsOut.resets (execLine_keeps _ (State.Keeps.refl s))
  | flush who => exact KeepsOut.resets (execFlush_keeps _ (State.Keeps.refl s))
  | fence who => exact KeepsOut.resets (execFence_keeps _ (State.Keeps.refl s))
  | yield who => exact KeepsOut.resets (execYield_keeps _ (State.Keeps.refl s))
  | trap who t => exact KeepsOut.resets (execTrap_keeps _ _ (State.Keeps.refl s))
  | reti who => exact KeepsOut.resets (execReti_keeps _ (State.Keeps.refl s))
  | swget who => exact KeepsOut.resets (execSwget_keeps _ (State.Keeps.refl s))
  | swset who => exact KeepsOut.resets (execSwset_keeps _ (State.Keeps.refl s))
  | idle who => exact KeepsOut.resets (execIdle_keeps _ (State.Keeps.refl s))
  | customInstruction who c imm ext => exact KeepsOut.resets (execCustomInstruction_keeps _ _ _ _ (State.Keeps.refl s))
  | vddAonRise dt => exact KeepsOut.resets (execVddAonRise_keeps _ (State.Keeps.refl s))
  | supplyRemoval dt what => exact execSupplyRemoval_resets _ _ s
  | accessVoteExpiry dt domain => exact KeepsOut.resets (execAccessVoteExpiry_keeps _ _ (State.Keeps.refl s))
  | commandWaitEnd dt tenant index => exact KeepsOut.resets (execCommandWaitEnd_keeps _ _ _ (State.Keeps.refl s))
  | recordWriteErrorCompletion dt tenant => exact KeepsOut.resets (execRecordWriteErrorCompletion_keeps _ _ (State.Keeps.refl s))
  | illegalInstruction who unit => exact KeepsOut.resets (execIllegalInstruction_keeps _ _ (State.Keeps.refl s))
  | usxgmiiLinkChange dt mac up => exact KeepsOut.resets (execUsxgmiiLinkChange_keeps _ _ _ (State.Keeps.refl s))
  | ethernetFrameReceive dt mac kind => exact KeepsOut.resets (execEthernetFrameReceive_keeps _ _ _ (State.Keeps.refl s))

/-- Every command but a reset keeps what `State.Keeps` says. -/
theorem exec_keeps (i : Instr) (s : State)
    (h : ∀ dt, i ≠ .resetPin dt ∧ i ≠ .tokenReset dt ∧ i ≠ .pwrfailNRelease dt ∧ i ≠ .perstAssert dt)
    (h' : ∀ dt what, i ≠ .supplyRemoval dt what) : KeepsOut s (exec i s) := by
  cases i with
  | nop c => exact execNop_keeps _ (State.Keeps.refl s)
  | tenantCreate c => exact execTenantCreate_keeps _ (State.Keeps.refl s)
  | tenantDestroy c => exact execTenantDestroy_keeps _ (State.Keeps.refl s)
  | tenantDestroyComplete dt tenant => exact execTenantDestroyComplete_keeps _ _ (State.Keeps.refl s)
  | quotaSet c => exact execQuotaSet_keeps _ (State.Keeps.refl s)
  | viewportSet c => exact execViewportSet_keeps _ (State.Keeps.refl s)
  | regRead c => exact execRegRead_keeps _ (State.Keeps.refl s)
  | regWrite c => exact execRegWrite_keeps _ (State.Keeps.refl s)
  | eventSubscribe c => exact execEventSubscribe_keeps _ (State.Keeps.refl s)
  | tenantQuery c => exact execTenantQuery_keeps _ (State.Keeps.refl s)
  | atlasMap c => exact execAtlasMap_keeps _ (State.Keeps.refl s)
  | atlasUnmap c => exact execAtlasUnmap_keeps _ (State.Keeps.refl s)
  | bankAssign c => exact execBankAssign_keeps _ (State.Keeps.refl s)
  | planeCreate c => exact execPlaneCreate_keeps _ (State.Keeps.refl s)
  | planeDestroy c => exact execPlaneDestroy_keeps _ (State.Keeps.refl s)
  | planeSet c => exact execPlaneSet_keeps _ (State.Keeps.refl s)
  | paletteLoad c => exact execPaletteLoad_keeps _ (State.Keeps.refl s)
  | objectTableSet c => exact execObjectTableSet_keeps _ (State.Keeps.refl s)
  | canvasSet c => exact execCanvasSet_keeps _ (State.Keeps.refl s)
  | scalerCoefLoad c => exact execScalerCoefLoad_keeps _ (State.Keeps.refl s)
  | contourSet c => exact execContourSet_keeps _ (State.Keeps.refl s)
  | paintSet c => exact execPaintSet_keeps _ (State.Keeps.refl s)
  | transferLutLoad c => exact execTransferLutLoad_keeps _ (State.Keeps.refl s)
  | postLutLoad c => exact execPostLutLoad_keeps _ (State.Keeps.refl s)
  | ditherSet c => exact execDitherSet_keeps _ (State.Keeps.refl s)
  | linelistSet c => exact execLinelistSet_keeps _ (State.Keeps.refl s)
  | fretSet c => exact execFretSet_keeps _ (State.Keeps.refl s)
  | leadBoundsSet c => exact execLeadBoundsSet_keeps _ (State.Keeps.refl s)
  | costQuery c => exact execCostQuery_keeps _ (State.Keeps.refl s)
  | tabLoad c => exact execTabLoad_keeps _ (State.Keeps.refl s)
  | tabStart c => exact execTabStart_keeps _ (State.Keeps.refl s)
  | tabStop c => exact execTabStop_keeps _ (State.Keeps.refl s)
  | decodeTableLoad c => exact execDecodeTableLoad_keeps _ (State.Keeps.refl s)
  | tabDebug c => exact execTabDebug_keeps _ (State.Keeps.refl s)
  | headTimingSet c => exact execHeadTimingSet_keeps _ (State.Keeps.refl s)
  | portRouteSet c => exact execPortRouteSet_keeps _ (State.Keeps.refl s)
  | commitSubmit c => exact execCommitSubmit_keeps _ (State.Keeps.refl s)
  | captureStart c => exact execCaptureStart_keeps _ (State.Keeps.refl s)
  | captureStop c => exact execCaptureStop_keeps _ (State.Keeps.refl s)
  | framelockSet c => exact execFramelockSet_keeps _ (State.Keeps.refl s)
  | stillPolicySet c => exact execStillPolicySet_keeps _ (State.Keeps.refl s)
  | cartoucheImageLoad c => exact execCartoucheImageLoad_keeps _ (State.Keeps.refl s)
  | cartoucheCellSet c => exact execCartoucheCellSet_keeps _ (State.Keeps.refl s)
  | watchRegionSet c => exact execWatchRegionSet_keeps _ (State.Keeps.refl s)
  | referenceSet c => exact execReferenceSet_keeps _ (State.Keeps.refl s)
  | faultReactionSet c => exact execFaultReactionSet_keeps _ (State.Keeps.refl s)
  | headPrioritySet c => exact execHeadPrioritySet_keeps _ (State.Keeps.refl s)
  | powerPolicySet c => exact execPowerPolicySet_keeps _ (State.Keeps.refl s)
  | maintenanceSet c => exact execMaintenanceSet_keeps _ (State.Keeps.refl s)
  | governorQuery c => exact execGovernorQuery_keeps _ (State.Keeps.refl s)
  | voiceCreate c => exact execVoiceCreate_keeps _ (State.Keeps.refl s)
  | voiceSet c => exact execVoiceSet_keeps _ (State.Keeps.refl s)
  | voiceStart c => exact execVoiceStart_keeps _ (State.Keeps.refl s)
  | voiceStop c => exact execVoiceStop_keeps _ (State.Keeps.refl s)
  | busSet c => exact execBusSet_keeps _ (State.Keeps.refl s)
  | bridgeSet c => exact execBridgeSet_keeps _ (State.Keeps.refl s)
  | audioPortSet c => exact execAudioPortSet_keeps _ (State.Keeps.refl s)
  | avtpStreamSet c => exact execAvtpStreamSet_keeps _ (State.Keeps.refl s)
  | audioCaptureStart c => exact execAudioCaptureStart_keeps _ (State.Keeps.refl s)
  | cartoucheVoiceSet c => exact execCartoucheVoiceSet_keeps _ (State.Keeps.refl s)
  | modelLoad c => exact execModelLoad_keeps _ (State.Keeps.refl s)
  | listenProgramLoad c => exact execListenProgramLoad_keeps _ (State.Keeps.refl s)
  | wakeSourceSet c => exact execWakeSourceSet_keeps _ (State.Keeps.refl s)
  | prerollRead c => exact execPrerollRead_keeps _ (State.Keeps.refl s)
  | modeSet c => exact execModeSet_keeps _ (State.Keeps.refl s)
  | clockPlanSet c => exact execClockPlanSet_keeps _ (State.Keeps.refl s)
  | clockMeasure c => exact execClockMeasure_keeps _ (State.Keeps.refl s)
  | compareSet c => exact execCompareSet_keeps _ (State.Keeps.refl s)
  | captureChannelSet c => exact execCaptureChannelSet_keeps _ (State.Keeps.refl s)
  | pwmSet c => exact execPwmSet_keeps _ (State.Keeps.refl s)
  | calendarSet c => exact execCalendarSet_keeps _ (State.Keeps.refl s)
  | calendarAlarmSet c => exact execCalendarAlarmSet_keeps _ (State.Keeps.refl s)
  | dmaChannelSet c => exact execDmaChannelSet_keeps _ (State.Keeps.refl s)
  | dmaSubmit c => exact execDmaSubmit_keeps _ (State.Keeps.refl s)
  | blitSubmit c => exact execBlitSubmit_keeps _ (State.Keeps.refl s)
  | dmaShareSet c => exact execDmaShareSet_keeps _ (State.Keeps.refl s)
  | pinOwnerSet c => exact execPinOwnerSet_keeps _ (State.Keeps.refl s)
  | pinConfigSet c => exact execPinConfigSet_keeps _ (State.Keeps.refl s)
  | pinWrite c => exact execPinWrite_keeps _ (State.Keeps.refl s)
  | pinLock c => exact execPinLock_keeps _ (State.Keeps.refl s)
  | debugGrant c => exact execDebugGrant_keeps _ (State.Keeps.refl s)
  | debugUnlock c => exact execDebugUnlock_keeps _ (State.Keeps.refl s)
  | serviceEnter c => exact execServiceEnter_keeps _ (State.Keeps.refl s)
  | lifecycleQuery c => exact execLifecycleQuery_keeps _ (State.Keeps.refl s)
  | commandFetch dt => exact execCommandFetch_keeps _ (State.Keeps.refl s)
  | heldRecordWrite dt tenant => exact execHeldRecordWrite_keeps _ _ (State.Keeps.refl s)
  | mailboxDrainEnd dt tenant => exact execMailboxDrainEnd_keeps _ _ (State.Keeps.refl s)
  | cmdTailWrite dt tenant v => exact execCmdTailWrite_keeps _ _ _ (State.Keeps.refl s)
  | cplHeadWrite dt tenant v => exact execCplHeadWrite_keeps _ _ _ (State.Keeps.refl s)
  | mboxEnable dt tenant => exact execMboxEnable_keeps _ _ (State.Keeps.refl s)
  | mboxDisable dt tenant => exact execMboxDisable_keeps _ _ (State.Keeps.refl s)
  | mboxReset dt tenant enable => exact execMboxReset_keeps _ _ _ (State.Keeps.refl s)
  | devEventClear dt v => exact execDevEventClear_keeps _ _ (State.Keeps.refl s)
  | devEventEnWrite dt v => exact execDevEventEnWrite_keeps _ _ (State.Keeps.refl s)
  | pasidLock dt v => exact execPasidLock_keeps _ _ (State.Keeps.refl s)
  | meridianLoRead dt => exact execMeridianLoRead_keeps _ (State.Keeps.refl s)
  | courseCntRead dt course => exact execCourseCntRead_keeps _ _ (State.Keeps.refl s)
  | intcPendingSet dt k v => exact execIntcPendingSet_keeps _ _ _ (State.Keeps.refl s)
  | intcPendingClr dt k v edges => exact execIntcPendingClr_keeps _ _ _ _ (State.Keeps.refl s)
  | intcEnableSet dt k v => exact execIntcEnableSet_keeps _ _ _ (State.Keeps.refl s)
  | intcEnableClr dt k v => exact execIntcEnableClr_keeps _ _ _ (State.Keeps.refl s)
  | gpioMaskedWrite dt bank reg high v => exact execGpioMaskedWrite_keeps _ _ _ _ _ (State.Keeps.refl s)
  | gpioIntEnSet dt bank v => exact execGpioIntEnSet_keeps _ _ _ (State.Keeps.refl s)
  | gpioIntEnClr dt bank v => exact execGpioIntEnClr_keeps _ _ _ (State.Keeps.refl s)
  | auxCtlStart dt port v cpUses => exact execAuxCtlStart_keeps _ _ _ _ (State.Keeps.refl s)
  | auxTransactionEnd dt port reply => exact execAuxTransactionEnd_keeps _ _ _ (State.Keeps.refl s)
  | mdioCtlStart dt mac v => exact execMdioCtlStart_keeps _ _ _ (State.Keeps.refl s)
  | mdioFrameEnd dt mac rdata => exact execMdioFrameEnd_keeps _ _ _ (State.Keeps.refl s)
  | pegWakeReqWrite dt v => exact execPegWakeReqWrite_keeps _ _ (State.Keeps.refl s)
  | hostBar0AccessAsleep dt write off v => exact execHostBar0AccessAsleep_keeps _ _ _ _ (State.Keeps.refl s)
  | registerWrite dt space addr v => exact execRegisterWrite_keeps _ _ _ _ (State.Keeps.refl s)
  | beamLineEnter dt head late => exact execBeamLineEnter_keeps _ _ _ (State.Keeps.refl s)
  | composeBoundary dt head => exact execComposeBoundary_keeps _ _ (State.Keeps.refl s)
  | composerLineStart dt head => exact execComposerLineStart_keeps _ _ (State.Keeps.refl s)
  | composerLineComplete dt head => exact execComposerLineComplete_keeps _ _ (State.Keeps.refl s)
  | fetchReturn dt req outcome => exact execFetchReturn_keeps _ _ _ (State.Keeps.refl s)
  | portPixelNeed dt port stream empty => exact execPortPixelNeed_keeps _ _ _ _ (State.Keeps.refl s)
  | heartbeatPeriodEnd dt cluster onTime healthy => exact execHeartbeatPeriodEnd_keeps _ _ _ _ (State.Keeps.refl s)
  | clusterSelfTestEnd dt cluster pass => exact execClusterSelfTestEnd_keeps _ _ _ (State.Keeps.refl s)
  | legendUpdate dt => exact execLegendUpdate_keeps _ (State.Keeps.refl s)
  | armDeadline dt id unarmed => exact execArmDeadline_keeps _ _ _ (State.Keeps.refl s)
  | applyTime dt id => exact execApplyTime_keeps _ _ (State.Keeps.refl s)
  | applyAckTimeout dt id failed => exact execApplyAckTimeout_keeps _ _ _ (State.Keeps.refl s)
  | rollback dt id => exact execRollback_keeps _ _ (State.Keeps.refl s)
  | governorEvaluation dt temps activity => exact execGovernorEvaluation_keeps _ _ _ (State.Keeps.refl s)
  | leakageAnchor dt current => exact execLeakageAnchor_keeps _ _ (State.Keeps.refl s)
  | estimatorUnanchored dt => exact execEstimatorUnanchored_keeps _ (State.Keeps.refl s)
  | thermtripAssert dt => exact execThermtripAssert_keeps _ (State.Keeps.refl s)
  | maintenanceActivityDue dt activity => exact execMaintenanceActivityDue_keeps _ _ (State.Keeps.refl s)
  | maintenanceActivityEnd dt activity result => exact execMaintenanceActivityEnd_keeps _ _ _ (State.Keeps.refl s)
  | irqAgeLimit dt tenant => exact execIrqAgeLimit_keeps _ _ (State.Keeps.refl s)
  | courseSampleBoundary dt course inp => exact execCourseSampleBoundary_keeps _ _ _ (State.Keeps.refl s)
  | meterWindowEnd dt course => exact execMeterWindowEnd_keeps _ _ (State.Keeps.refl s)
  | audioMeter dt => exact execAudioMeter_keeps _ (State.Keeps.refl s)
  | bridgeLaneRangeTimeout dt lane inRange => exact execBridgeLaneRangeTimeout_keeps _ _ _ (State.Keeps.refl s)
  | audioClockRelock dt clock => exact execAudioClockRelock_keeps _ _ (State.Keeps.refl s)
  | tdmFrameSlip dt port input => exact execTdmFrameSlip_keeps _ _ _ (State.Keeps.refl s)
  | avtpPacketReceive dt stream ptime samples => exact execAvtpPacketReceive_keeps _ _ _ _ (State.Keeps.refl s)
  | audioCaptureBlock dt bus => exact execAudioCaptureBlock_keeps _ _ (State.Keeps.refl s)
  | audioCaptureStall dt bus => exact execAudioCaptureStall_keeps _ _ (State.Keeps.refl s)
  | captureFrame dt head => exact execCaptureFrame_keeps _ _ (State.Keeps.refl s)
  | captureWriteStall dt head => exact execCaptureWriteStall_keeps _ _ (State.Keeps.refl s)
  | compareEvaluation dt => exact execCompareEvaluation_keeps _ (State.Keeps.refl s)
  | pwmTick dt pwm => exact execPwmTick_keeps _ _ (State.Keeps.refl s)
  | captureFilterSample dt channel level => exact execCaptureFilterSample_keeps _ _ _ (State.Keeps.refl s)
  | interruptSourceEvent dt source asserted => exact execInterruptSourceEvent_keeps _ _ _ (State.Keeps.refl s)
  | holdoffExpiry dt group => exact execHoldoffExpiry_keeps _ _ (State.Keeps.refl s)
  | coreEntry dt who arrivals => exact execCoreEntry_keeps _ _ _ (State.Keeps.refl s)
  | slowCounterEdge dt => exact execSlowCounterEdge_keeps _ (State.Keeps.refl s)
  | melFrameReady dt samples => exact execMelFrameReady_keeps _ _ (State.Keeps.refl s)
  | modelEvaluationDone dt => exact execModelEvaluationDone_keeps _ (State.Keeps.refl s)
  | i2cAddressMatch dt addr read => exact execI2cAddressMatch_keeps _ _ _ (State.Keeps.refl s)
  | i2cDataByteWrite dt v => exact execI2cDataByteWrite_keeps _ _ (State.Keeps.refl s)
  | i2cDataByteRead dt => exact execI2cDataByteRead_keeps _ (State.Keeps.refl s)
  | i2cStretchTimeout dt => exact execI2cStretchTimeout_keeps _ (State.Keeps.refl s)
  | wakeComplete dt => exact execWakeComplete_keeps _ (State.Keeps.refl s)
  | modeReached dt => exact execModeReached_keeps _ (State.Keeps.refl s)
  | pinLevelChange dt pin level => exact execPinLevelChange_keeps _ _ _ (State.Keeps.refl s)
  | pinEventCoalesceEnd dt pin => exact execPinEventCoalesceEnd_keeps _ _ (State.Keeps.refl s)
  | pinHandoverEnd dt pin => exact execPinHandoverEnd_keeps _ _ (State.Keeps.refl s)
  | serialTransferDone dt block outcome => exact execSerialTransferDone_keeps _ _ _ (State.Keeps.refl s)
  | uartByteReceive dt uart v => exact execUartByteReceive_keeps _ _ _ (State.Keeps.refl s)
  | uartLineIdle dt uart => exact execUartLineIdle_keeps _ _ (State.Keeps.refl s)
  | hpdFall dt port => exact execHpdFall_keeps _ _ (State.Keeps.refl s)
  | hpdRise dt port attempts => exact execHpdRise_keeps _ _ _ (State.Keeps.refl s)
  | linkTrainingDone dt port ok lanes rate => exact execLinkTrainingDone_keeps _ _ _ _ _ (State.Keeps.refl s)
  | pixelPllLock dt head => exact execPixelPllLock_keeps _ _ (State.Keeps.refl s)
  | fsyncEdge dt => exact execFsyncEdge_keeps _ (State.Keeps.refl s)
  | fsyncLost dt => exact execFsyncLost_keeps _ (State.Keeps.refl s)
  | gptpStateChange dt mac synced offset ratio => exact execGptpStateChange_keeps _ _ _ _ _ (State.Keeps.refl s)
  | clockReferenceLost dt ref => exact execClockReferenceLost_keeps _ _ (State.Keeps.refl s)
  | clockReferenceReturn dt ref => exact execClockReferenceReturn_keeps _ _ (State.Keeps.refl s)
  | pwrfailNAssert dt => exact execPwrfailNAssert_keeps _ (State.Keeps.refl s)
  | pwrfailNRelease dt => exact absurd rfl (h _).2.2.1
  | resetPin dt => exact absurd rfl (h _).1
  | resetRelease dt straps vddioHigh => exact execResetRelease_keeps _ _ _ (State.Keeps.refl s)
  | bootCopyVerify dt image => exact execBootCopyVerify_keeps _ _ (State.Keeps.refl s)
  | cartoucheBootImageApply dt => exact execCartoucheBootImageApply_keeps _ (State.Keeps.refl s)
  | firmwareReady dt => exact execFirmwareReady_keeps _ (State.Keeps.refl s)
  | pcieLinkUp dt => exact execPcieLinkUp_keeps _ (State.Keeps.refl s)
  | perstAssert dt => exact absurd rfl (h _).2.2.2
  | clkreqAssert dt => exact execClkreqAssert_keeps _ (State.Keeps.refl s)
  | wakeFrameReceive dt mac frame => exact execWakeFrameReceive_keeps _ _ _ (State.Keeps.refl s)
  | serviceNReleaseTimeout dt => exact execServiceNReleaseTimeout_keeps _ (State.Keeps.refl s)
  | tokenReset dt => exact absurd rfl (h _).2.1
  | jtagAccess dt op => exact execJtagAccess_keeps _ _ (State.Keeps.refl s)
  | dmaDescriptorComplete dt channel => exact execDmaDescriptorComplete_keeps _ _ (State.Keeps.refl s)
  | dmaRingRecheck dt channel => exact execDmaRingRecheck_keeps _ _ (State.Keeps.refl s)
  | dmaTokenGrant dt channel => exact execDmaTokenGrant_keeps _ _ (State.Keeps.refl s)
  | blitStart dt => exact execBlitStart_keeps _ (State.Keeps.refl s)
  | blitDone dt => exact execBlitDone_keeps _ (State.Keeps.refl s)
  | loadReturn dt core thread outcome => exact execLoadReturn_keeps _ _ _ _ (State.Keeps.refl s)
  | fenceComplete dt core thread poisonedStore => exact execFenceComplete_keeps _ _ _ _ (State.Keeps.refl s)
  | tabBudgetOverrun dt core thread charge => exact execTabBudgetOverrun_keeps _ _ _ _ (State.Keeps.refl s)
  | nopInstruction who => exact execNopInstruction_keeps _ (State.Keeps.refl s)
  | drop who => exact execDrop_keeps _ (State.Keeps.refl s)
  | dup who => exact execDup_keeps _ (State.Keeps.refl s)
  | swap who => exact execSwap_keeps _ (State.Keeps.refl s)
  | overOp who => exact execOver_keeps _ (State.Keeps.refl s)
  | rot who => exact execRot_keeps _ (State.Keeps.refl s)
  | nip who => exact execNip_keeps _ (State.Keeps.refl s)
  | tuck who => exact execTuck_keeps _ (State.Keeps.refl s)
  | pick who n => exact execPick_keeps _ _ (State.Keeps.refl s)
  | depth who => exact execDepth_keeps _ (State.Keeps.refl s)
  | tor who => exact execTor_keeps _ (State.Keeps.refl s)
  | fromr who => exact execFromr_keeps _ (State.Keeps.refl s)
  | rfetch who => exact execRfetch_keeps _ (State.Keeps.refl s)
  | rdrop who => exact execRdrop_keeps _ (State.Keeps.refl s)
  | add who => exact execAdd_keeps _ (State.Keeps.refl s)
  | sub who => exact execSub_keeps _ (State.Keeps.refl s)
  | andOp who => exact execAndOp_keeps _ (State.Keeps.refl s)
  | orOp who => exact execOrOp_keeps _ (State.Keeps.refl s)
  | xorOp who => exact execXorOp_keeps _ (State.Keeps.refl s)
  | shl who => exact execShl_keeps _ (State.Keeps.refl s)
  | shr who => exact execShr_keeps _ (State.Keeps.refl s)
  | sar who => exact execSar_keeps _ (State.Keeps.refl s)
  | mul who => exact execMul_keeps _ (State.Keeps.refl s)
  | mulhu who => exact execMulhu_keeps _ (State.Keeps.refl s)
  | mulhs who => exact execMulhs_keeps _ (State.Keeps.refl s)
  | divu who => exact execDivu_keeps _ (State.Keeps.refl s)
  | divs who => exact execDivs_keeps _ (State.Keeps.refl s)
  | remu who => exact execRemu_keeps _ (State.Keeps.refl s)
  | rems who => exact execRems_keeps _ (State.Keeps.refl s)
  | min who => exact execMin_keeps _ (State.Keeps.refl s)
  | max who => exact execMax_keeps _ (State.Keeps.refl s)
  | minu who => exact execMinu_keeps _ (State.Keeps.refl s)
  | maxu who => exact execMaxu_keeps _ (State.Keeps.refl s)
  | slt who => exact execSlt_keeps _ (State.Keeps.refl s)
  | sltu who => exact execSltu_keeps _ (State.Keeps.refl s)
  | notOp who => exact execNotOp_keeps _ (State.Keeps.refl s)
  | neg who => exact execNeg_keeps _ (State.Keeps.refl s)
  | abs who => exact execAbs_keeps _ (State.Keeps.refl s)
  | clz who => exact execClz_keeps _ (State.Keeps.refl s)
  | sext8 who => exact execSext8_keeps _ (State.Keeps.refl s)
  | sext16 who => exact execSext16_keeps _ (State.Keeps.refl s)
  | cmp who => exact execCmp_keeps _ (State.Keeps.refl s)
  | tst who => exact execTst_keeps _ (State.Keeps.refl s)
  | adc who => exact execAdc_keeps _ (State.Keeps.refl s)
  | sbc who => exact execSbc_keeps _ (State.Keeps.refl s)
  | lits who v => exact execLits_keeps _ _ (State.Keeps.refl s)
  | lit16 who x => exact execLit16_keeps _ _ (State.Keeps.refl s)
  | lit16s who x => exact execLit16s_keeps _ _ (State.Keeps.refl s)
  | lit32 who x => exact execLit32_keeps _ _ (State.Keeps.refl s)
  | ld32 who p k => exact execLd32_keeps _ _ _ (State.Keeps.refl s)
  | ld16u who p k => exact execLd16u_keeps _ _ _ (State.Keeps.refl s)
  | ld16s who p k => exact execLd16s_keeps _ _ _ (State.Keeps.refl s)
  | ld8u who p k => exact execLd8u_keeps _ _ _ (State.Keeps.refl s)
  | ld8s who p k => exact execLd8s_keeps _ _ _ (State.Keeps.refl s)
  | st32 who p k => exact execSt32_keeps _ _ _ (State.Keeps.refl s)
  | st16 who p k => exact execSt16_keeps _ _ _ (State.Keeps.refl s)
  | st8 who p k => exact execSt8_keeps _ _ _ (State.Keeps.refl s)
  | ld32p who p => exact execLd32p_keeps _ _ (State.Keeps.refl s)
  | st32p who p => exact execSt32p_keeps _ _ (State.Keeps.refl s)
  | pget who p => exact execPget_keeps _ _ (State.Keeps.refl s)
  | pset who p => exact execPset_keeps _ _ (State.Keeps.refl s)
  | padd who p => exact execPadd_keeps _ _ (State.Keeps.refl s)
  | paddi who p k => exact execPaddi_keeps _ _ _ (State.Keeps.refl s)
  | beq who off => exact execBeq_keeps _ _ (State.Keeps.refl s)
  | bne who off => exact execBne_keeps _ _ (State.Keeps.refl s)
  | blt who off => exact execBlt_keeps _ _ (State.Keeps.refl s)
  | bge who off => exact execBge_keeps _ _ (State.Keeps.refl s)
  | bltu who off => exact execBltu_keeps _ _ (State.Keeps.refl s)
  | bgeu who off => exact execBgeu_keeps _ _ (State.Keeps.refl s)
  | bz who off => exact execBz_keeps _ _ (State.Keeps.refl s)
  | bnz who off => exact execBnz_keeps _ _ (State.Keeps.refl s)
  | bcc who cc off => exact execBcc_keeps _ _ _ (State.Keeps.refl s)
  | jmp who off => exact execJmp_keeps _ _ (State.Keeps.refl s)
  | call who off => exact execCall_keeps _ _ (State.Keeps.refl s)
  | jmpi who => exact execJmpi_keeps _ (State.Keeps.refl s)
  | calli who => exact execCalli_keeps _ (State.Keeps.refl s)
  | ret who => exact execRet_keeps _ (State.Keeps.refl s)
  | jmpl who target => exact execJmpl_keeps _ _ (State.Keeps.refl s)
  | calll who target => exact execCalll_keeps _ _ (State.Keeps.refl s)
  | pwrite who id => exact execPwrite_keeps _ _ (State.Keeps.refl s)
  | palw who => exact execPalw_keeps _ (State.Keeps.refl s)
  | waitl who => exact execWaitl_keeps _ (State.Keeps.refl s)
  | line who => exact execLine_keeps _ (State.Keeps.refl s)
  | flush who => exact execFlush_keeps _ (State.Keeps.refl s)
  | fence who => exact execFence_keeps _ (State.Keeps.refl s)
  | yield who => exact execYield_keeps _ (State.Keeps.refl s)
  | trap who t => exact execTrap_keeps _ _ (State.Keeps.refl s)
  | reti who => exact execReti_keeps _ (State.Keeps.refl s)
  | swget who => exact execSwget_keeps _ (State.Keeps.refl s)
  | swset who => exact execSwset_keeps _ (State.Keeps.refl s)
  | idle who => exact execIdle_keeps _ (State.Keeps.refl s)
  | customInstruction who c imm ext => exact execCustomInstruction_keeps _ _ _ _ (State.Keeps.refl s)
  | vddAonRise dt => exact execVddAonRise_keeps _ (State.Keeps.refl s)
  | supplyRemoval dt what => exact absurd rfl (h' _ _)
  | accessVoteExpiry dt domain => exact execAccessVoteExpiry_keeps _ _ (State.Keeps.refl s)
  | commandWaitEnd dt tenant index => exact execCommandWaitEnd_keeps _ _ _ (State.Keeps.refl s)
  | recordWriteErrorCompletion dt tenant => exact execRecordWriteErrorCompletion_keeps _ _ (State.Keeps.refl s)
  | illegalInstruction who unit => exact execIllegalInstruction_keeps _ _ (State.Keeps.refl s)
  | usxgmiiLinkChange dt mac up => exact execUsxgmiiLinkChange_keeps _ _ _ (State.Keeps.refl s)
  | ethernetFrameReceive dt mac kind => exact execEthernetFrameReceive_keeps _ _ _ (State.Keeps.refl s)

/-- Every command goes on. -/
theorem exec_next (i : Instr) (s : State) : ∃ t, exec i s = .next t := by
  cases i <;> exact ⟨_, rfl⟩

/-- A step stands in `State.Resets` to the state whose queue has lost its front. -/
theorem step_resets (s t : State) (h : step s = .next t) : State.Resets { s with pending := s.pending.tail } t := by
  unfold step at h
  split at h
  · rename_i e
    cases h
    rw [e]
    have : ({ s with pending := ([] : List Instr).tail } : State) = s := by cases s; simp_all
    rw [this]; exact (State.Keeps.refl s).resets
  · rename_i c rest e
    have := exec_resets c { s with pending := rest }
    rw [h] at this
    rw [e]; exact this

end Sys2Proof.Machine
end

