-- ==== Sys2Proof/Laws/Interrupts.lean ====
section
/-! SUPPORT. Interrupt sources and pins: what a write of a register word does to each of the sources or pins it names. -/

namespace Sys2Proof.Machine

theorem src_modSrc (s : State) (i n : Nat) (f : IntSrc → IntSrc) :
    (s.modSrc i f).src n = if n = i then f (s.src n) else s.src n := by
  unfold State.modSrc State.src
  by_cases h : n = i
  · subst h; simp
  · simp only [IMap.get_put_other _ _ _ h, if_neg h]

theorem fold_modSrc (f : Nat → IntSrc → IntSrc) (l : List Nat) (hl : l.Nodup) (s : State) :
    (∀ n, (l.foldl (fun s i => s.modSrc i (f i)) s).src n = if n ∈ l then f n (s.src n) else s.src n) ∧
    { (l.foldl (fun s i => s.modSrc i (f i)) s) with intc := s.intc } = s ∧
    { (l.foldl (fun s i => s.modSrc i (f i)) s).intc with src := s.intc.src } = s.intc := by
  induction l generalizing s with
  | nil => simp
  | cons x l ih =>
    simp only [List.nodup_cons] at hl
    obtain ⟨h1, h2, h3⟩ := ih hl.2 (s.modSrc x (f x))
    refine ⟨fun n => ?_, ?_, ?_⟩
    · rw [List.foldl_cons, h1, src_modSrc]
      by_cases h : n = x
      · subst h; simp [hl.1]
      · simp [h]
    · rw [List.foldl_cons]
      have := congrArg (fun t : State => { t with intc := s.intc }) h2
      exact this
    · rw [List.foldl_cons]
      have := congrArg (fun t : Intc => { t with src := s.intc.src }) h3
      exact this

theorem mem_wordSources (k : Nat) (v : Word) (n : Nat) : n ∈ wordSources k v ↔ n / 32 = k ∧ v.getLsbD (n % 32) = true := by
  unfold wordSources
  simp only [List.mem_map, List.mem_filter, List.mem_range]
  constructor
  · rintro ⟨i, ⟨h1, h2⟩, rfl⟩
    have : (32 * k + i) / 32 = k := by omega
    have h3 : (32 * k + i) % 32 = i := by omega
    rw [h3]; exact ⟨this, h2⟩
  · rintro ⟨h1, h2⟩
    exact ⟨n % 32, ⟨by omega, h2⟩, by omega⟩

theorem nodup_wordSources (k : Nat) (v : Word) : (wordSources k v).Nodup := by
  unfold wordSources
  refine List.Pairwise.map _ (fun a b h => ?_) ((List.nodup_range).filter _)
  omega

theorem fold_src (f : Nat → IntSrc → IntSrc) (i : Nat) (l : List Nat) (hl : i ∉ l) (s : State) :
    (l.foldl (fun s i => s.modSrc i (f i)) s).src i = s.src i := by
  induction l generalizing s with
  | nil => rfl
  | cons x l ih => 
    simp only [List.mem_cons, not_or] at hl
    rw [List.foldl_cons, ih hl.2, src_modSrc, if_neg hl.1]

theorem isLevel_modSrc (s : State) (i j : Nat) (f : IntSrc → IntSrc) : (s.modSrc j f).isLevel i = s.isLevel i := rfl

theorem pin_modPin (s : State) (i n : Nat) (f : Pin → Pin) :
    (s.modPin i f).pin n = if n = i then f (s.pin n) else s.pin n := by
  unfold State.modPin State.pin
  by_cases h : n = i
  · subst h; simp
  · simp only [IMap.get_put_other _ _ _ h, if_neg h]

theorem fold_modPin (base : Nat) (c : Nat → Pin → Bool) (f : Nat → Pin → Pin) (l : List Nat) (hl : l.Nodup) (s : State) :
    let t := l.foldl (fun s i => if c i (s.pin (base + i)) then s.modPin (base + i) (f i) else s) s
    (∀ i ∈ l, t.pin (base + i) = if c i (s.pin (base + i)) then f i (s.pin (base + i)) else s.pin (base + i)) ∧
    (∀ q, (∀ i ∈ l, q ≠ base + i) → t.pin q = s.pin q) ∧
    { t with pins := s.pins } = s ∧ { t.pins with pin := s.pins.pin } = s.pins := by
  induction l generalizing s with
  | nil => simp
  | cons x l ih =>
    simp only [List.nodup_cons] at hl
    let s1 := if c x (s.pin (base + x)) then s.modPin (base + x) (f x) else s
    have hs1 : ∀ q, s1.pin q = if q = base + x then (if c x (s.pin (base + x)) then f x (s.pin (base + x)) else s.pin (base + x)) else s.pin q := by
      intro q
      dsimp only [s1]
      by_cases h : c x (s.pin (base + x)) = true
      · simp only [h, if_true, pin_modPin]; by_cases hq : q = base + x
        · subst hq; rfl
        · simp [hq]
      · simp only [h]; by_cases hq : q = base + x
        · subst hq; simp
        · simp [hq]
    obtain ⟨h1, h2, h3, h4⟩ := ih hl.2 s1
    have hp : { s1 with pins := s.pins } = s ∧ { s1.pins with pin := s.pins.pin } = s.pins := by
      dsimp only [s1]; split <;> exact ⟨rfl, rfl⟩
    refine ⟨?_, ?_, ?_, ?_⟩
    · intro i hi
      simp only [List.mem_cons] at hi
      rcases hi with rfl | hi
      · refine (h2 _ (fun j hj => ?_)).trans ?_
        · intro z
          have : j = i := by omega
          exact hl.1 (this ▸ hj)
        · rw [hs1]; simp
      · refine (h1 i hi).trans ?_
        have : base + i ≠ base + x := fun z => hl.1 ((by omega : i = x) ▸ hi)
        rw [hs1, if_neg this]
    · intro q hq
      refine (h2 q (fun i hi => hq i (List.mem_cons_of_mem _ hi))).trans ?_
      rw [hs1, if_neg (hq x (by simp))]
    · exact (congrArg (fun t : State => { t with pins := s.pins }) h3).trans hp.1
    · exact (congrArg (fun t : Pins => { t with pin := s.pins.pin }) h4).trans hp.2

end Sys2Proof.Machine
end

