-- ==== Sys2Proof/Laws/Segments.lean ====
section
/-! SUPPORT. What the operations of a tab thread write: nothing of the memories behind the part outside the segments of the
thread (R230). -/

namespace Sys2Proof.Machine

def segments (k : Thread) := (k.dataAt, k.dataSize, k.codeAt, k.codeSize, k.writable)
def Outside (k : Thread) (a : Nat) : Prop := ¬(k.dataAt ≤ a ∧ a < k.dataAt + k.dataSize) ∧
      ¬(k.writable = true ∧ k.codeAt ≤ a ∧ a < k.codeAt + k.codeSize)
def SegmentsKept (h slot : Nat) (k : Thread) (s : State) : Prop := ∀ x, s.thread? h slot = some x → segments x = segments k
/-- No memory outside the segments of the thread `k` differs, where no tenant is being destroyed. -/
structure Within (h slot : Nat) (k : Thread) (s t : State) : Prop where
  calmly : s.dyingTenants = [] → t.dyingTenants = [] ∧ t.mem.host = s.mem.host ∧
    (∀ a, Outside k a → Mem.read t.mem.phys a = Mem.read s.mem.phys a)
  kept : SegmentsKept h slot k s → s.dyingTenants = [] → SegmentsKept h slot k t
section r
variable {h slot : Nat} {k : Thread}
theorem Within.refl {s : State} : Within h slot k s s := ⟨fun hs => ⟨hs, rfl, fun _ _ => rfl⟩, fun z _ => z⟩
theorem Within.trans {s t u : State} (a : Within h slot k s t) (b : Within h slot k t u) : Within h slot k s u :=
  ⟨fun hs =>
    have a := a.calmly hs
    have b := b.calmly a.1
    ⟨b.1, b.2.1.trans a.2.1, fun x o => (b.2.2 x o).trans (a.2.2 x o)⟩,
  fun z hs => b.kept (a.kept z hs) (a.calmly hs).1⟩
theorem Within.calm {s t : State} (h0 : s.dyingTenants = [] → t.dyingTenants = []) (h1 : t.tabs = s.tabs)
    (h2 : t.mem.host = s.mem.host) (h3 : t.mem.phys = s.mem.phys) : Within h slot k s t :=
  ⟨fun hs => ⟨h0 hs, h2, fun _ _ => by rw [h3]⟩, fun z _ x e => z x (by rw [← thread_of_tabs h1]; exact e)⟩
theorem Within.of {s t : State} (h0 : t.tenants = s.tenants) (h1 : t.tabs = s.tabs) (h2 : t.mem = s.mem) : Within h slot k s t :=
  .calm (calm_of h0) h1 (by rw [h2]) (by rw [h2])
theorem Within.fold {α : Type} (f : State → α → State) (hf : ∀ s a, Within h slot k s (f s a)) (xs : List α) (s : State) :
    Within h slot k s (xs.foldl f s) := by
  induction xs generalizing s with
  | nil => exact .refl
  | cons x xs ih => exact (hf s x).trans (ih _)
theorem within_mod (f : Thread → Thread) (s : State) (hf : ∀ x, segments (f x) = segments x := by intro x; rfl) : Within h slot k s (s.modThread h slot f) := by
  refine ⟨fun hs => ⟨hs, rfl, fun _ _ => rfl⟩, fun z _ x e => ?_⟩
  cases e1 : s.thread? h slot with
  | none =>
    exfalso
    have : (s.modThread h slot f).thread? h slot = none := by
      unfold State.modThread State.modTabs State.thread? State.headTabs at *
      simp only [IMap.get_put_same]
      rw [IMap.find_adjust_same, e1]; rfl
    rw [this] at e; cases e
  | some y =>
    rw [thread_modThread e1] at e
    cases e
    rw [hf]; exact z y e1
theorem within_notify (c r : Nat) (ws : List Word) (p : Nat → Bool) (s : State) : Within h slot k s (s.notify c r ws p) :=
  .calm calm_notify (notify_tabs ..) (by rw [notify_mem]) (by rw [notify_mem])
theorem within_complete (r : CmdRef) (x d : Nat) (ws : List Word) (s : State) : Within h slot k s (s.complete r x d ws) :=
  .calm calm_complete (complete_tabs ..) (by rw [complete_mem]) (by rw [complete_mem])
theorem within_sessionEnds (x : Thread) (s : State) : Within h slot k s (s.sessionEnds x) := by
  have e : Within h slot k s (s.endDebug x) := .fold _ (fun s r => within_complete r _ _ _ s) _ _
  exact ⟨fun hs => by rw [sessionEnds_calm hs]; exact e.calmly hs, fun z hs => by rw [sessionEnds_calm hs]; exact e.kept z hs⟩
theorem within_halt (c : Nat) (s : State) : Within h slot k s (s.haltThread h slot c) := by
  unfold State.haltThread
  split
  · exact .refl
  · exact ((within_mod _ _).trans (within_sessionEnds ..)).trans (within_notify ..)
theorem within_fault (c : Nat) (s : State) : Within h slot k s (s.faultThread h slot c) := by
  unfold State.faultThread
  split
  · exact .refl
  · refine Within.trans (Within.trans ?_ (within_mod _ _)) (within_sessionEnds ..)
    unfold State.tabFault
    split
    · exact .refl
    · exact (within_mod _ _).trans (within_notify ..)
theorem within_after (s : State) : Within h slot k s (s.tabAfter h slot) := by
  unfold State.tabAfter
  repeat' split
  all_goals first | exact .refl | exact within_halt .. | exact within_mod _ _
theorem within_overrun (s : State) : Within h slot k s (s.overrun h slot) := by
  unfold State.overrun
  split
  · exact .refl
  · split
    · exact within_fault ..
    · simp only
      have e (f : Head → Head) : Within h slot k s (s.modHead h f) := .of rfl rfl rfl
      split
      · exact (e _).trans (within_mod _ _)
      · exact (e _).trans (within_fault ..)
theorem noteUe_tabs (s : State) (x : Nat) : (s.noteUe x).tabs = s.tabs := by
  have ee (s : State) : (s.eccEvent x 2).tabs = s.tabs := by
    unfold State.eccEvent
    split
    · rfl
    · unfold State.eventLimited
      split
      · rfl
      · simp only; split <;> rfl
  unfold State.noteUe
  simp only
  split
  · exact ee _
  · exact ee _
theorem calm_noteUe {s : State} {x : Nat} (hd : s.dyingTenants = []) : (s.noteUe x).dyingTenants = [] := by
  have ee (s : State) (hd : s.dyingTenants = []) : (s.eccEvent x 2).dyingTenants = [] := by
    unfold State.eccEvent
    split
    · exact hd
    · exact calm_eventLimited hd
  unfold State.noteUe
  extract_lets t
  have ht : t.dyingTenants = [] := by
    dsimp only [t]
    split
    · exact hd
    · exact calm_of (by rfl) hd
  exact ee _ ht
theorem portWrite_frame (s : State) (p : Bool) (a n : Nat) :
    (s.portWrite p a n).tabs = s.tabs ∧ (s.portWrite p a n).tenants = s.tenants := by
  unfold State.portWrite
  split
  · exact ⟨rfl, rfl⟩
  · dsimp only
    have (xs : List Nat) : ∀ z : State, let t := xs.foldl (fun s w => match bankOf w with
        | none => s
        | some b => s.modBank b (fun k => { k with collide := satInc 0xFF k.collide 1 })) z
        t.tabs = z.tabs ∧ t.tenants = z.tenants := by
      induction xs with
      | nil => exact fun z => ⟨rfl, rfl⟩
      | cons x xs ih =>
        intro z
        simp only [List.foldl_cons]
        refine ⟨(ih _).1.trans ?_, (ih _).2.trans ?_⟩
        all_goals (split <;> rfl)
    exact this _ s
theorem physStore_tabs (s : State) (p : Bool) (a : Nat) (bs : List Byte) : (s.physStore p a bs).tabs = s.tabs := by
  unfold State.physStore
  dsimp only
  exact (foldl_tabs _ (fun s a => noteUe_tabs s a) _ _).trans (portWrite_frame s p a bs.length).1
theorem calm_physStore {s : State} {p : Bool} {a : Nat} {bs : List Byte} (hd : s.dyingTenants = []) :
    (s.physStore p a bs).dyingTenants = [] := by
  unfold State.physStore
  dsimp only
  refine calm_foldl (fun _ _ => calm_noteUe) _ (calm_of (t := { (s.portWrite p a bs.length).wakeMemory a with mem := _ }) ?_ hd)
  exact (portWrite_frame s p a bs.length).2
theorem within_spotWrite (xs : List Spot) (hx : ∀ b n, Spot.phys b n ∈ xs → ∀ a, b ≤ a → a < b + n → ¬ Outside k a) :
    ∀ (bs : List Byte) (s : State), Within h slot k s (s.spotWrite xs bs) := by
  induction xs with
  | nil => intro bs s; unfold State.spotWrite; exact .refl
  | cons x xs ih =>
    intro bs s
    cases x with
    | phys b n =>
      unfold State.spotWrite
      refine Within.trans ?_ (ih (fun b n m => hx b n (List.mem_cons_of_mem _ m)) _ _)
      refine ⟨fun hs => ⟨calm_physStore hs, physStore_host .., fun a o => ?_⟩,
        fun z _ x e => z x (by rw [← thread_of_tabs (physStore_tabs s true b (bs.take n))]; exact e)⟩
      rw [physStore_phys_portA]
      refine Mem.read_write_other _ _ _ _ ?_
      have := hx b n List.mem_cons_self a
      have hl : (bs.take n).length ≤ n := by rw [List.length_take]; exact Nat.min_le_left _ _
      by_cases z : b ≤ a ∧ a < b + n
      · exact absurd o (this z.1 z.2)
      · omega
    | asset a n => unfold State.spotWrite; exact .refl
theorem mapM_mem {α β : Type} (f : α → Option β) : ∀ (l : List α) (ys : List β), l.mapM f = some ys → ∀ y ∈ ys, ∃ x ∈ l, f x = some y := by
  intro l
  induction l with
  | nil => intro ys e; simp only [List.mapM_nil] at e; cases e; simp
  | cons x l ih =>
    intro ys e y hy
    simp only [List.mapM_cons] at e
    cases h1 : f x with
    | none => rw [h1] at e; cases e
    | some b =>
      rw [h1] at e
      cases h2 : l.mapM f with
      | none => rw [h2] at e; cases e
      | some zs =>
        rw [h2] at e; cases e
        rcases List.mem_cons.1 hy with rfl | hy
        · exact ⟨x, List.mem_cons_self, h1⟩
        · obtain ⟨x', m, e'⟩ := ih zs h2 y hy
          exact ⟨x', List.mem_cons_of_mem _ m, e'⟩
theorem spots_in {x : Thread} (hs : segments x = segments k) {a n : Nat} {xs : List Spot} (e : x.spots true a n = some xs) :
    ∀ b m, Spot.phys b m ∈ xs → ∀ a, b ≤ a → a < b + m → ¬ Outside k a := by
  intro b m hm y h1 h2 o
  obtain ⟨⟨a', n'⟩, _, hf⟩ := mapM_mem _ _ _ e _ hm
  simp only [segments, Prod.mk.injEq] at hs
  obtain ⟨s1, s2, s3, s4, s5⟩ := hs
  obtain ⟨o1, o2⟩ := o
  rw [← s1, ← s2] at o1
  rw [← s3, ← s4, ← s5] at o2
  rcases Nat.lt_or_ge a' 0x40000000 with c1 | c1
  · have e1 : x.spot true (a', n') = if a' + n' ≤ x.dataSize then some (.phys (x.dataAt + a') n') else none := by
      unfold Thread.spot; simp only; rw [if_pos c1]
    rw [e1] at hf
    split at hf
    · cases hf; omega
    · cases hf
  · rcases spot_store hf with ⟨c2, _⟩ | ⟨c2, c3, c4⟩
    · omega
    · have e1 : x.spot true (a', n') = if a' - 0x80000000 + n' ≤ x.codeSize && (!true || x.writable) then some (.phys (x.codeAt + (a' - 0x80000000)) n') else none := by
        unfold Thread.spot; simp only; rw [if_neg (by omega), if_neg (by omega), if_pos c3]
      rw [e1] at hf
      have hf' : (if a' - 0x80000000 + n' ≤ x.codeSize && (!true || x.writable) then some () else none) = some () := by
        split at hf
        · rename_i c; rw [if_pos c]
        · cases hf
      have q1 : b = x.codeAt + (a' - 0x80000000) := congrArg (fun z => match z with | .phys b _ => b | .asset b _ => b) c4
      have q2 : m = n' := congrArg (fun z => match z with | .phys _ b => b | .asset _ b => b) c4
      clear hf c4 e1
      split at hf'
      · rename_i c
        simp only [Bool.and_eq_true, decide_eq_true_eq, Bool.not_true, Bool.false_or] at c
        obtain ⟨d1, d2⟩ := c
        exact o2 ⟨d2, by omega, by omega⟩
      · cases hf'
theorem within_setRegs (r : TRegs) (s : State) : Within h slot k s (s.setRegs h slot r) := within_mod _ _
theorem within_tabWrite (x : Thread) (w : LWrite) (s : State) : Within h slot k s (s.tabWrite h slot x w) := by
  unfold State.tabWrite
  simp only
  split
  · refine ⟨fun hs => ⟨hs, rfl, fun _ _ => rfl⟩, fun z _ y e => z y ?_⟩
    rw [← e]
    unfold State.modTabs State.thread? State.headTabs
    simp only [IMap.get_put_same]
  · exact Within.trans (within_mod _ _) (.of rfl rfl rfl)
theorem within_simple {x : Thread} {c : Ctx} {w : Work} {s t : State} (hx : segments x = segments k) (e : s.tabSimple h slot x c w = .ok t) :
    Within h slot k s t := by
  cases w
  case store p off size post =>
    simp only [State.tabSimple] at e
    split at e
    · cases e
    · split at e
      · cases e
      · rename_i hs
        cases e
        exact Within.trans (within_spotWrite _ (spots_in hx hs) _ _) (within_setRegs _ _)
  case regs =>
    simp only [State.tabSimple] at e
    split at e <;> cases e
    exact within_setRegs _ _
  case pwrite =>
    simp only [State.tabSimple] at e
    split at e <;> cases e
    exact Within.trans (within_setRegs _ _) (within_tabWrite ..)
  case palw =>
    simp only [State.tabSimple] at e
    split at e <;> cases e
    exact Within.trans (within_setRegs _ _) (within_tabWrite ..)
  case line =>
    simp only [State.tabSimple] at e
    split at e <;> cases e
    exact within_setRegs _ _
  all_goals (simp only [State.tabSimple] at e; cases e)
theorem within_push (x : Thread) (v : Word) (s : State) : Within h slot k s (s.microPush h slot x v) := by
  unfold State.microPush
  split
  · exact within_setRegs _ _
  · exact .refl
/-- An operation that stays within the segments as far as the thread still has them. -/
theorem Within.andThen {s t u : State} (a : Within h slot k s t) (b : SegmentsKept h slot k t → Within h slot k t u)
    (z : SegmentsKept h slot k s) : Within h slot k s u :=
  ⟨fun hs => (a.trans (b (a.kept z hs))).calmly hs, fun z hs => (a.trans (b (a.kept z hs))).kept z hs⟩
theorem within_micro {imm ext : Word} {trial : Bool} (us : List Word) : ∀ (j n : Nat) (s : State), SegmentsKept h slot k s →
    Within h slot k s (s.microRun h slot imm ext trial us j n).1 := by
  induction us with
  | nil => intro j n s z; unfold State.microRun; exact .refl
  | cons u us ih =>
    intro j n s
    cases j with
    | succ j => intro z; unfold State.microRun; exact ih _ _ _ z
    | zero =>
      intro z
      unfold State.microRun
      simp only
      split
      · exact .refl
      · rename_i x ex
        have hx := z x ex
        repeat' split
        all_goals first
          | with_reducible exact .refl
          | with_reducible exact (Within.andThen (within_push ..) (ih _ _ _) z)
          | with_reducible exact (Within.andThen (within_setRegs ..) (ih _ _ _) z)
          | with_reducible exact (Within.andThen (within_simple hx (by assumption)) (ih _ _ _) z)
          | (refine within_mod _ _ ?_; intro x; rfl)
theorem within_microEnd (units : Nat) (x : State × Nat × MicroEnd) : Within h slot k x.1 (State.microEnd h slot units x) := by
  unfold State.microEnd
  split
  · exact (within_mod _ _).trans (within_after ..)
  · exact within_mod _ _
  · exact within_fault ..
theorem within_tabRun (units : Nat) (x : Thread) (hx : segments x = segments k) (w : Work) (s : State) : SegmentsKept h slot k s → Within h slot k s (s.tabRun h slot units x w) := by
  intro z
  have si (c : Ctx) (w : Work) : Within h slot k s (match s.tabSimple h slot x c w with
      | .error e => s.faultThread h slot e
      | .ok s => s.tabAfter h slot) := by
    split
    · exact within_fault ..
    · exact (within_simple hx (by assumption)).trans (within_after ..)
  cases w
  case load =>
    simp only [State.tabRun]
    split
    · exact within_fault ..
    · split
      · exact within_fault ..
      · exact within_mod _ _
  case fence => exact within_mod _ _
  case waitl => exact (within_mod _ _ (fun x => by unfold Thread.waitl; simp only; split <;> (try split) <;> rfl)).trans (within_after ..)
  case yield => exact (within_mod _ _).trans (within_after ..)
  case trap =>
    simp only [State.tabRun]
    split
    · exact within_halt ..
    · exact (within_mod _ _).trans (within_fault ..)
  case reti =>
    simp only [State.tabRun]
    split
    · exact within_fault ..
    · refine (Within.trans (t := s.setRegs h slot _) (within_setRegs ..) (within_mod _ _ (fun x => ?_))).trans (within_after ..)
      unfold Thread.afterReti
      split
      · split
        · split <;> rfl
        · rfl
      · rfl
  case custom =>
    simp only [State.tabRun]
    split
    · exact within_fault ..
    · exact (within_micro _ _ _ _ z).trans (within_microEnd ..)
  case idle => exact si ⟨.tab h slot, x.regs.pc + word (2 * units), some x.codeSize⟩ .idle
  all_goals exact si ⟨.tab h slot, x.regs.pc + word (2 * units), some x.codeSize⟩ _
theorem within_mark (wait : Nat) (x : Thread) (s : State) : Within h slot k s (s.markIssue h slot wait x) := by
  refine ⟨fun hs => ⟨hs, rfl, fun _ _ => rfl⟩, fun z _ y e => ?_⟩
  unfold State.markIssue State.modTabs State.thread? State.headTabs at e
  dsimp only at e
  rw [IMap.get_put_same] at e
  dsimp only at e
  rw [IMap.find_map _ (fun e : Nat × Thread => if e.1 = slot then _ else _)] at e
  obtain ⟨y', hy, rfl⟩ := Option.map_eq_some_iff.1 e
  rw [if_pos rfl]
  exact z y' hy
theorem within_tab (units cost : Nat) (w : Work) (s : State) : SegmentsKept h slot k s → Within h slot k s (s.tabIssue h slot units cost w) := by
  intro z
  unfold State.tabIssue
  simp only
  split
  · exact .refl
  · rename_i x ex
    repeat' split
    all_goals first
      | exact .refl
      | exact within_fault ..
      | exact within_halt ..
      | exact within_overrun ..
      | exact Within.andThen ((within_mark ..).trans (within_mod _ _ (fun x => by unfold Thread.addCharge; split <;> rfl)))
          (within_tabRun _ _ (z x ex) _ _) z
end r

end Sys2Proof.Machine
end

