-- ==== Sys2Proof/Laws/State.lean ====
section
/-! SUPPORT. What each update of one part of `State` leaves alone: one lemma for each update and each field, true by
`rfl`, and what the plain updates put into their own field. -/

namespace Sys2Proof.Machine

variable (s : State)

/-! ### State.modTenant -/

@[simp] theorem State.modTenant_pending (t : Nat) (f : Tenant → Tenant) : (s.modTenant t f).pending = s.pending := rfl
@[simp] theorem State.modTenant_now (t : Nat) (f : Tenant → Tenant) : (s.modTenant t f).now = s.now := rfl
@[simp] theorem State.modTenant_cycle (t : Nat) (f : Tenant → Tenant) : (s.modTenant t f).cycle = s.cycle := rfl
@[simp] theorem State.modTenant_freeCount (t : Nat) (f : Tenant → Tenant) : (s.modTenant t f).freeCount = s.freeCount := rfl
@[simp] theorem State.modTenant_time (t : Nat) (f : Tenant → Tenant) : (s.modTenant t f).time = s.time := rfl
@[simp] theorem State.modTenant_power (t : Nat) (f : Tenant → Tenant) : (s.modTenant t f).power = s.power := rfl
@[simp] theorem State.modTenant_clocks (t : Nat) (f : Tenant → Tenant) : (s.modTenant t f).clocks = s.clocks := rfl
@[simp] theorem State.modTenant_boot (t : Nat) (f : Tenant → Tenant) : (s.modTenant t f).boot = s.boot := rfl
@[simp] theorem State.modTenant_legend (t : Nat) (f : Tenant → Tenant) : (s.modTenant t f).legend = s.legend := rfl
@[simp] theorem State.modTenant_dev (t : Nat) (f : Tenant → Tenant) : (s.modTenant t f).dev = s.dev := rfl
@[simp] theorem State.modTenant_flights (t : Nat) (f : Tenant → Tenant) : (s.modTenant t f).flights = s.flights := rfl
@[simp] theorem State.modTenant_banks (t : Nat) (f : Tenant → Tenant) : (s.modTenant t f).banks = s.banks := rfl
@[simp] theorem State.modTenant_mem (t : Nat) (f : Tenant → Tenant) : (s.modTenant t f).mem = s.mem := rfl
@[simp] theorem State.modTenant_timers (t : Nat) (f : Tenant → Tenant) : (s.modTenant t f).timers = s.timers := rfl
@[simp] theorem State.modTenant_pins (t : Nat) (f : Tenant → Tenant) : (s.modTenant t f).pins = s.pins := rfl
@[simp] theorem State.modTenant_intc (t : Nat) (f : Tenant → Tenant) : (s.modTenant t f).intc = s.intc := rfl
@[simp] theorem State.modTenant_dma (t : Nat) (f : Tenant → Tenant) : (s.modTenant t f).dma = s.dma := rfl
@[simp] theorem State.modTenant_disp (t : Nat) (f : Tenant → Tenant) : (s.modTenant t f).disp = s.disp := rfl
@[simp] theorem State.modTenant_tabs (t : Nat) (f : Tenant → Tenant) : (s.modTenant t f).tabs = s.tabs := rfl
@[simp] theorem State.modTenant_ucode (t : Nat) (f : Tenant → Tenant) : (s.modTenant t f).ucode = s.ucode := rfl
@[simp] theorem State.modTenant_cp (t : Nat) (f : Tenant → Tenant) : (s.modTenant t f).cp = s.cp := rfl
@[simp] theorem State.modTenant_audio (t : Nat) (f : Tenant → Tenant) : (s.modTenant t f).audio = s.audio := rfl
@[simp] theorem State.modTenant_eth (t : Nat) (f : Tenant → Tenant) : (s.modTenant t f).eth = s.eth := rfl
@[simp] theorem State.modTenant_peg (t : Nat) (f : Tenant → Tenant) : (s.modTenant t f).peg = s.peg := rfl
@[simp] theorem State.modTenant_prerolls (t : Nat) (f : Tenant → Tenant) : (s.modTenant t f).prerolls = s.prerolls := rfl

/-! ### State.modMbox -/

@[simp] theorem State.modMbox_pending (t : Nat) (f : Mailbox → Mailbox) : (s.modMbox t f).pending = s.pending := rfl
@[simp] theorem State.modMbox_now (t : Nat) (f : Mailbox → Mailbox) : (s.modMbox t f).now = s.now := rfl
@[simp] theorem State.modMbox_cycle (t : Nat) (f : Mailbox → Mailbox) : (s.modMbox t f).cycle = s.cycle := rfl
@[simp] theorem State.modMbox_freeCount (t : Nat) (f : Mailbox → Mailbox) : (s.modMbox t f).freeCount = s.freeCount := rfl
@[simp] theorem State.modMbox_time (t : Nat) (f : Mailbox → Mailbox) : (s.modMbox t f).time = s.time := rfl
@[simp] theorem State.modMbox_power (t : Nat) (f : Mailbox → Mailbox) : (s.modMbox t f).power = s.power := rfl
@[simp] theorem State.modMbox_clocks (t : Nat) (f : Mailbox → Mailbox) : (s.modMbox t f).clocks = s.clocks := rfl
@[simp] theorem State.modMbox_boot (t : Nat) (f : Mailbox → Mailbox) : (s.modMbox t f).boot = s.boot := rfl
@[simp] theorem State.modMbox_legend (t : Nat) (f : Mailbox → Mailbox) : (s.modMbox t f).legend = s.legend := rfl
@[simp] theorem State.modMbox_dev (t : Nat) (f : Mailbox → Mailbox) : (s.modMbox t f).dev = s.dev := rfl
@[simp] theorem State.modMbox_flights (t : Nat) (f : Mailbox → Mailbox) : (s.modMbox t f).flights = s.flights := rfl
@[simp] theorem State.modMbox_banks (t : Nat) (f : Mailbox → Mailbox) : (s.modMbox t f).banks = s.banks := rfl
@[simp] theorem State.modMbox_mem (t : Nat) (f : Mailbox → Mailbox) : (s.modMbox t f).mem = s.mem := rfl
@[simp] theorem State.modMbox_timers (t : Nat) (f : Mailbox → Mailbox) : (s.modMbox t f).timers = s.timers := rfl
@[simp] theorem State.modMbox_pins (t : Nat) (f : Mailbox → Mailbox) : (s.modMbox t f).pins = s.pins := rfl
@[simp] theorem State.modMbox_intc (t : Nat) (f : Mailbox → Mailbox) : (s.modMbox t f).intc = s.intc := rfl
@[simp] theorem State.modMbox_dma (t : Nat) (f : Mailbox → Mailbox) : (s.modMbox t f).dma = s.dma := rfl
@[simp] theorem State.modMbox_disp (t : Nat) (f : Mailbox → Mailbox) : (s.modMbox t f).disp = s.disp := rfl
@[simp] theorem State.modMbox_tabs (t : Nat) (f : Mailbox → Mailbox) : (s.modMbox t f).tabs = s.tabs := rfl
@[simp] theorem State.modMbox_ucode (t : Nat) (f : Mailbox → Mailbox) : (s.modMbox t f).ucode = s.ucode := rfl
@[simp] theorem State.modMbox_cp (t : Nat) (f : Mailbox → Mailbox) : (s.modMbox t f).cp = s.cp := rfl
@[simp] theorem State.modMbox_audio (t : Nat) (f : Mailbox → Mailbox) : (s.modMbox t f).audio = s.audio := rfl
@[simp] theorem State.modMbox_eth (t : Nat) (f : Mailbox → Mailbox) : (s.modMbox t f).eth = s.eth := rfl
@[simp] theorem State.modMbox_peg (t : Nat) (f : Mailbox → Mailbox) : (s.modMbox t f).peg = s.peg := rfl
@[simp] theorem State.modMbox_prerolls (t : Nat) (f : Mailbox → Mailbox) : (s.modMbox t f).prerolls = s.prerolls := rfl

/-! ### State.setStage -/

@[simp] theorem State.setStage_pending (r : CmdRef) (g : FlightStage) : (s.setStage r g).pending = s.pending := rfl
@[simp] theorem State.setStage_now (r : CmdRef) (g : FlightStage) : (s.setStage r g).now = s.now := rfl
@[simp] theorem State.setStage_cycle (r : CmdRef) (g : FlightStage) : (s.setStage r g).cycle = s.cycle := rfl
@[simp] theorem State.setStage_freeCount (r : CmdRef) (g : FlightStage) : (s.setStage r g).freeCount = s.freeCount := rfl
@[simp] theorem State.setStage_time (r : CmdRef) (g : FlightStage) : (s.setStage r g).time = s.time := rfl
@[simp] theorem State.setStage_power (r : CmdRef) (g : FlightStage) : (s.setStage r g).power = s.power := rfl
@[simp] theorem State.setStage_clocks (r : CmdRef) (g : FlightStage) : (s.setStage r g).clocks = s.clocks := rfl
@[simp] theorem State.setStage_boot (r : CmdRef) (g : FlightStage) : (s.setStage r g).boot = s.boot := rfl
@[simp] theorem State.setStage_legend (r : CmdRef) (g : FlightStage) : (s.setStage r g).legend = s.legend := rfl
@[simp] theorem State.setStage_dev (r : CmdRef) (g : FlightStage) : (s.setStage r g).dev = s.dev := rfl
@[simp] theorem State.setStage_tenants (r : CmdRef) (g : FlightStage) : (s.setStage r g).tenants = s.tenants := rfl
@[simp] theorem State.setStage_banks (r : CmdRef) (g : FlightStage) : (s.setStage r g).banks = s.banks := rfl
@[simp] theorem State.setStage_mem (r : CmdRef) (g : FlightStage) : (s.setStage r g).mem = s.mem := rfl
@[simp] theorem State.setStage_timers (r : CmdRef) (g : FlightStage) : (s.setStage r g).timers = s.timers := rfl
@[simp] theorem State.setStage_pins (r : CmdRef) (g : FlightStage) : (s.setStage r g).pins = s.pins := rfl
@[simp] theorem State.setStage_intc (r : CmdRef) (g : FlightStage) : (s.setStage r g).intc = s.intc := rfl
@[simp] theorem State.setStage_dma (r : CmdRef) (g : FlightStage) : (s.setStage r g).dma = s.dma := rfl
@[simp] theorem State.setStage_disp (r : CmdRef) (g : FlightStage) : (s.setStage r g).disp = s.disp := rfl
@[simp] theorem State.setStage_tabs (r : CmdRef) (g : FlightStage) : (s.setStage r g).tabs = s.tabs := rfl
@[simp] theorem State.setStage_ucode (r : CmdRef) (g : FlightStage) : (s.setStage r g).ucode = s.ucode := rfl
@[simp] theorem State.setStage_cp (r : CmdRef) (g : FlightStage) : (s.setStage r g).cp = s.cp := rfl
@[simp] theorem State.setStage_audio (r : CmdRef) (g : FlightStage) : (s.setStage r g).audio = s.audio := rfl
@[simp] theorem State.setStage_eth (r : CmdRef) (g : FlightStage) : (s.setStage r g).eth = s.eth := rfl
@[simp] theorem State.setStage_peg (r : CmdRef) (g : FlightStage) : (s.setStage r g).peg = s.peg := rfl
@[simp] theorem State.setStage_prerolls (r : CmdRef) (g : FlightStage) : (s.setStage r g).prerolls = s.prerolls := rfl

/-! ### State.markQuiet -/

@[simp] theorem State.markQuiet_pending (r : CmdRef) (q : Bool) : (s.markQuiet r q).pending = s.pending := rfl
@[simp] theorem State.markQuiet_now (r : CmdRef) (q : Bool) : (s.markQuiet r q).now = s.now := rfl
@[simp] theorem State.markQuiet_cycle (r : CmdRef) (q : Bool) : (s.markQuiet r q).cycle = s.cycle := rfl
@[simp] theorem State.markQuiet_freeCount (r : CmdRef) (q : Bool) : (s.markQuiet r q).freeCount = s.freeCount := rfl
@[simp] theorem State.markQuiet_time (r : CmdRef) (q : Bool) : (s.markQuiet r q).time = s.time := rfl
@[simp] theorem State.markQuiet_power (r : CmdRef) (q : Bool) : (s.markQuiet r q).power = s.power := rfl
@[simp] theorem State.markQuiet_clocks (r : CmdRef) (q : Bool) : (s.markQuiet r q).clocks = s.clocks := rfl
@[simp] theorem State.markQuiet_boot (r : CmdRef) (q : Bool) : (s.markQuiet r q).boot = s.boot := rfl
@[simp] theorem State.markQuiet_legend (r : CmdRef) (q : Bool) : (s.markQuiet r q).legend = s.legend := rfl
@[simp] theorem State.markQuiet_dev (r : CmdRef) (q : Bool) : (s.markQuiet r q).dev = s.dev := rfl
@[simp] theorem State.markQuiet_tenants (r : CmdRef) (q : Bool) : (s.markQuiet r q).tenants = s.tenants := rfl
@[simp] theorem State.markQuiet_banks (r : CmdRef) (q : Bool) : (s.markQuiet r q).banks = s.banks := rfl
@[simp] theorem State.markQuiet_mem (r : CmdRef) (q : Bool) : (s.markQuiet r q).mem = s.mem := rfl
@[simp] theorem State.markQuiet_timers (r : CmdRef) (q : Bool) : (s.markQuiet r q).timers = s.timers := rfl
@[simp] theorem State.markQuiet_pins (r : CmdRef) (q : Bool) : (s.markQuiet r q).pins = s.pins := rfl
@[simp] theorem State.markQuiet_intc (r : CmdRef) (q : Bool) : (s.markQuiet r q).intc = s.intc := rfl
@[simp] theorem State.markQuiet_dma (r : CmdRef) (q : Bool) : (s.markQuiet r q).dma = s.dma := rfl
@[simp] theorem State.markQuiet_disp (r : CmdRef) (q : Bool) : (s.markQuiet r q).disp = s.disp := rfl
@[simp] theorem State.markQuiet_tabs (r : CmdRef) (q : Bool) : (s.markQuiet r q).tabs = s.tabs := rfl
@[simp] theorem State.markQuiet_ucode (r : CmdRef) (q : Bool) : (s.markQuiet r q).ucode = s.ucode := rfl
@[simp] theorem State.markQuiet_cp (r : CmdRef) (q : Bool) : (s.markQuiet r q).cp = s.cp := rfl
@[simp] theorem State.markQuiet_audio (r : CmdRef) (q : Bool) : (s.markQuiet r q).audio = s.audio := rfl
@[simp] theorem State.markQuiet_eth (r : CmdRef) (q : Bool) : (s.markQuiet r q).eth = s.eth := rfl
@[simp] theorem State.markQuiet_peg (r : CmdRef) (q : Bool) : (s.markQuiet r q).peg = s.peg := rfl
@[simp] theorem State.markQuiet_prerolls (r : CmdRef) (q : Bool) : (s.markQuiet r q).prerolls = s.prerolls := rfl

/-! ### State.dropFlight -/

@[simp] theorem State.dropFlight_pending (r : CmdRef) : (s.dropFlight r).pending = s.pending := rfl
@[simp] theorem State.dropFlight_now (r : CmdRef) : (s.dropFlight r).now = s.now := rfl
@[simp] theorem State.dropFlight_cycle (r : CmdRef) : (s.dropFlight r).cycle = s.cycle := rfl
@[simp] theorem State.dropFlight_freeCount (r : CmdRef) : (s.dropFlight r).freeCount = s.freeCount := rfl
@[simp] theorem State.dropFlight_time (r : CmdRef) : (s.dropFlight r).time = s.time := rfl
@[simp] theorem State.dropFlight_power (r : CmdRef) : (s.dropFlight r).power = s.power := rfl
@[simp] theorem State.dropFlight_clocks (r : CmdRef) : (s.dropFlight r).clocks = s.clocks := rfl
@[simp] theorem State.dropFlight_boot (r : CmdRef) : (s.dropFlight r).boot = s.boot := rfl
@[simp] theorem State.dropFlight_legend (r : CmdRef) : (s.dropFlight r).legend = s.legend := rfl
@[simp] theorem State.dropFlight_dev (r : CmdRef) : (s.dropFlight r).dev = s.dev := rfl
@[simp] theorem State.dropFlight_tenants (r : CmdRef) : (s.dropFlight r).tenants = s.tenants := rfl
@[simp] theorem State.dropFlight_banks (r : CmdRef) : (s.dropFlight r).banks = s.banks := rfl
@[simp] theorem State.dropFlight_mem (r : CmdRef) : (s.dropFlight r).mem = s.mem := rfl
@[simp] theorem State.dropFlight_timers (r : CmdRef) : (s.dropFlight r).timers = s.timers := rfl
@[simp] theorem State.dropFlight_pins (r : CmdRef) : (s.dropFlight r).pins = s.pins := rfl
@[simp] theorem State.dropFlight_intc (r : CmdRef) : (s.dropFlight r).intc = s.intc := rfl
@[simp] theorem State.dropFlight_dma (r : CmdRef) : (s.dropFlight r).dma = s.dma := rfl
@[simp] theorem State.dropFlight_disp (r : CmdRef) : (s.dropFlight r).disp = s.disp := rfl
@[simp] theorem State.dropFlight_tabs (r : CmdRef) : (s.dropFlight r).tabs = s.tabs := rfl
@[simp] theorem State.dropFlight_ucode (r : CmdRef) : (s.dropFlight r).ucode = s.ucode := rfl
@[simp] theorem State.dropFlight_cp (r : CmdRef) : (s.dropFlight r).cp = s.cp := rfl
@[simp] theorem State.dropFlight_audio (r : CmdRef) : (s.dropFlight r).audio = s.audio := rfl
@[simp] theorem State.dropFlight_eth (r : CmdRef) : (s.dropFlight r).eth = s.eth := rfl
@[simp] theorem State.dropFlight_peg (r : CmdRef) : (s.dropFlight r).peg = s.peg := rfl
@[simp] theorem State.dropFlight_prerolls (r : CmdRef) : (s.dropFlight r).prerolls = s.prerolls := rfl

/-! ### State.modBank -/

@[simp] theorem State.modBank_pending (b : Nat) (f : Bank → Bank) : (s.modBank b f).pending = s.pending := rfl
@[simp] theorem State.modBank_now (b : Nat) (f : Bank → Bank) : (s.modBank b f).now = s.now := rfl
@[simp] theorem State.modBank_cycle (b : Nat) (f : Bank → Bank) : (s.modBank b f).cycle = s.cycle := rfl
@[simp] theorem State.modBank_freeCount (b : Nat) (f : Bank → Bank) : (s.modBank b f).freeCount = s.freeCount := rfl
@[simp] theorem State.modBank_time (b : Nat) (f : Bank → Bank) : (s.modBank b f).time = s.time := rfl
@[simp] theorem State.modBank_power (b : Nat) (f : Bank → Bank) : (s.modBank b f).power = s.power := rfl
@[simp] theorem State.modBank_clocks (b : Nat) (f : Bank → Bank) : (s.modBank b f).clocks = s.clocks := rfl
@[simp] theorem State.modBank_boot (b : Nat) (f : Bank → Bank) : (s.modBank b f).boot = s.boot := rfl
@[simp] theorem State.modBank_legend (b : Nat) (f : Bank → Bank) : (s.modBank b f).legend = s.legend := rfl
@[simp] theorem State.modBank_dev (b : Nat) (f : Bank → Bank) : (s.modBank b f).dev = s.dev := rfl
@[simp] theorem State.modBank_tenants (b : Nat) (f : Bank → Bank) : (s.modBank b f).tenants = s.tenants := rfl
@[simp] theorem State.modBank_flights (b : Nat) (f : Bank → Bank) : (s.modBank b f).flights = s.flights := rfl
@[simp] theorem State.modBank_mem (b : Nat) (f : Bank → Bank) : (s.modBank b f).mem = s.mem := rfl
@[simp] theorem State.modBank_timers (b : Nat) (f : Bank → Bank) : (s.modBank b f).timers = s.timers := rfl
@[simp] theorem State.modBank_pins (b : Nat) (f : Bank → Bank) : (s.modBank b f).pins = s.pins := rfl
@[simp] theorem State.modBank_intc (b : Nat) (f : Bank → Bank) : (s.modBank b f).intc = s.intc := rfl
@[simp] theorem State.modBank_dma (b : Nat) (f : Bank → Bank) : (s.modBank b f).dma = s.dma := rfl
@[simp] theorem State.modBank_disp (b : Nat) (f : Bank → Bank) : (s.modBank b f).disp = s.disp := rfl
@[simp] theorem State.modBank_tabs (b : Nat) (f : Bank → Bank) : (s.modBank b f).tabs = s.tabs := rfl
@[simp] theorem State.modBank_ucode (b : Nat) (f : Bank → Bank) : (s.modBank b f).ucode = s.ucode := rfl
@[simp] theorem State.modBank_cp (b : Nat) (f : Bank → Bank) : (s.modBank b f).cp = s.cp := rfl
@[simp] theorem State.modBank_audio (b : Nat) (f : Bank → Bank) : (s.modBank b f).audio = s.audio := rfl
@[simp] theorem State.modBank_eth (b : Nat) (f : Bank → Bank) : (s.modBank b f).eth = s.eth := rfl
@[simp] theorem State.modBank_peg (b : Nat) (f : Bank → Bank) : (s.modBank b f).peg = s.peg := rfl
@[simp] theorem State.modBank_prerolls (b : Nat) (f : Bank → Bank) : (s.modBank b f).prerolls = s.prerolls := rfl

/-! ### State.setCompare -/

@[simp] theorem State.setCompare_pending (n : Nat) (x : CompareCh) : (s.setCompare n x).pending = s.pending := rfl
@[simp] theorem State.setCompare_now (n : Nat) (x : CompareCh) : (s.setCompare n x).now = s.now := rfl
@[simp] theorem State.setCompare_cycle (n : Nat) (x : CompareCh) : (s.setCompare n x).cycle = s.cycle := rfl
@[simp] theorem State.setCompare_freeCount (n : Nat) (x : CompareCh) : (s.setCompare n x).freeCount = s.freeCount := rfl
@[simp] theorem State.setCompare_time (n : Nat) (x : CompareCh) : (s.setCompare n x).time = s.time := rfl
@[simp] theorem State.setCompare_power (n : Nat) (x : CompareCh) : (s.setCompare n x).power = s.power := rfl
@[simp] theorem State.setCompare_clocks (n : Nat) (x : CompareCh) : (s.setCompare n x).clocks = s.clocks := rfl
@[simp] theorem State.setCompare_boot (n : Nat) (x : CompareCh) : (s.setCompare n x).boot = s.boot := rfl
@[simp] theorem State.setCompare_legend (n : Nat) (x : CompareCh) : (s.setCompare n x).legend = s.legend := rfl
@[simp] theorem State.setCompare_dev (n : Nat) (x : CompareCh) : (s.setCompare n x).dev = s.dev := rfl
@[simp] theorem State.setCompare_tenants (n : Nat) (x : CompareCh) : (s.setCompare n x).tenants = s.tenants := rfl
@[simp] theorem State.setCompare_flights (n : Nat) (x : CompareCh) : (s.setCompare n x).flights = s.flights := rfl
@[simp] theorem State.setCompare_banks (n : Nat) (x : CompareCh) : (s.setCompare n x).banks = s.banks := rfl
@[simp] theorem State.setCompare_mem (n : Nat) (x : CompareCh) : (s.setCompare n x).mem = s.mem := rfl
@[simp] theorem State.setCompare_pins (n : Nat) (x : CompareCh) : (s.setCompare n x).pins = s.pins := rfl
@[simp] theorem State.setCompare_intc (n : Nat) (x : CompareCh) : (s.setCompare n x).intc = s.intc := rfl
@[simp] theorem State.setCompare_dma (n : Nat) (x : CompareCh) : (s.setCompare n x).dma = s.dma := rfl
@[simp] theorem State.setCompare_disp (n : Nat) (x : CompareCh) : (s.setCompare n x).disp = s.disp := rfl
@[simp] theorem State.setCompare_tabs (n : Nat) (x : CompareCh) : (s.setCompare n x).tabs = s.tabs := rfl
@[simp] theorem State.setCompare_ucode (n : Nat) (x : CompareCh) : (s.setCompare n x).ucode = s.ucode := rfl
@[simp] theorem State.setCompare_cp (n : Nat) (x : CompareCh) : (s.setCompare n x).cp = s.cp := rfl
@[simp] theorem State.setCompare_audio (n : Nat) (x : CompareCh) : (s.setCompare n x).audio = s.audio := rfl
@[simp] theorem State.setCompare_eth (n : Nat) (x : CompareCh) : (s.setCompare n x).eth = s.eth := rfl
@[simp] theorem State.setCompare_peg (n : Nat) (x : CompareCh) : (s.setCompare n x).peg = s.peg := rfl
@[simp] theorem State.setCompare_prerolls (n : Nat) (x : CompareCh) : (s.setCompare n x).prerolls = s.prerolls := rfl

/-! ### State.setCapture -/

@[simp] theorem State.setCapture_pending (n : Nat) (x : CaptureCh) : (s.setCapture n x).pending = s.pending := rfl
@[simp] theorem State.setCapture_now (n : Nat) (x : CaptureCh) : (s.setCapture n x).now = s.now := rfl
@[simp] theorem State.setCapture_cycle (n : Nat) (x : CaptureCh) : (s.setCapture n x).cycle = s.cycle := rfl
@[simp] theorem State.setCapture_freeCount (n : Nat) (x : CaptureCh) : (s.setCapture n x).freeCount = s.freeCount := rfl
@[simp] theorem State.setCapture_time (n : Nat) (x : CaptureCh) : (s.setCapture n x).time = s.time := rfl
@[simp] theorem State.setCapture_power (n : Nat) (x : CaptureCh) : (s.setCapture n x).power = s.power := rfl
@[simp] theorem State.setCapture_clocks (n : Nat) (x : CaptureCh) : (s.setCapture n x).clocks = s.clocks := rfl
@[simp] theorem State.setCapture_boot (n : Nat) (x : CaptureCh) : (s.setCapture n x).boot = s.boot := rfl
@[simp] theorem State.setCapture_legend (n : Nat) (x : CaptureCh) : (s.setCapture n x).legend = s.legend := rfl
@[simp] theorem State.setCapture_dev (n : Nat) (x : CaptureCh) : (s.setCapture n x).dev = s.dev := rfl
@[simp] theorem State.setCapture_tenants (n : Nat) (x : CaptureCh) : (s.setCapture n x).tenants = s.tenants := rfl
@[simp] theorem State.setCapture_flights (n : Nat) (x : CaptureCh) : (s.setCapture n x).flights = s.flights := rfl
@[simp] theorem State.setCapture_banks (n : Nat) (x : CaptureCh) : (s.setCapture n x).banks = s.banks := rfl
@[simp] theorem State.setCapture_mem (n : Nat) (x : CaptureCh) : (s.setCapture n x).mem = s.mem := rfl
@[simp] theorem State.setCapture_pins (n : Nat) (x : CaptureCh) : (s.setCapture n x).pins = s.pins := rfl
@[simp] theorem State.setCapture_intc (n : Nat) (x : CaptureCh) : (s.setCapture n x).intc = s.intc := rfl
@[simp] theorem State.setCapture_dma (n : Nat) (x : CaptureCh) : (s.setCapture n x).dma = s.dma := rfl
@[simp] theorem State.setCapture_disp (n : Nat) (x : CaptureCh) : (s.setCapture n x).disp = s.disp := rfl
@[simp] theorem State.setCapture_tabs (n : Nat) (x : CaptureCh) : (s.setCapture n x).tabs = s.tabs := rfl
@[simp] theorem State.setCapture_ucode (n : Nat) (x : CaptureCh) : (s.setCapture n x).ucode = s.ucode := rfl
@[simp] theorem State.setCapture_cp (n : Nat) (x : CaptureCh) : (s.setCapture n x).cp = s.cp := rfl
@[simp] theorem State.setCapture_audio (n : Nat) (x : CaptureCh) : (s.setCapture n x).audio = s.audio := rfl
@[simp] theorem State.setCapture_eth (n : Nat) (x : CaptureCh) : (s.setCapture n x).eth = s.eth := rfl
@[simp] theorem State.setCapture_peg (n : Nat) (x : CaptureCh) : (s.setCapture n x).peg = s.peg := rfl
@[simp] theorem State.setCapture_prerolls (n : Nat) (x : CaptureCh) : (s.setCapture n x).prerolls = s.prerolls := rfl

/-! ### State.setPwm -/

@[simp] theorem State.setPwm_pending (n : Nat) (x : Pwm) : (s.setPwm n x).pending = s.pending := rfl
@[simp] theorem State.setPwm_now (n : Nat) (x : Pwm) : (s.setPwm n x).now = s.now := rfl
@[simp] theorem State.setPwm_cycle (n : Nat) (x : Pwm) : (s.setPwm n x).cycle = s.cycle := rfl
@[simp] theorem State.setPwm_freeCount (n : Nat) (x : Pwm) : (s.setPwm n x).freeCount = s.freeCount := rfl
@[simp] theorem State.setPwm_time (n : Nat) (x : Pwm) : (s.setPwm n x).time = s.time := rfl
@[simp] theorem State.setPwm_power (n : Nat) (x : Pwm) : (s.setPwm n x).power = s.power := rfl
@[simp] theorem State.setPwm_clocks (n : Nat) (x : Pwm) : (s.setPwm n x).clocks = s.clocks := rfl
@[simp] theorem State.setPwm_boot (n : Nat) (x : Pwm) : (s.setPwm n x).boot = s.boot := rfl
@[simp] theorem State.setPwm_legend (n : Nat) (x : Pwm) : (s.setPwm n x).legend = s.legend := rfl
@[simp] theorem State.setPwm_dev (n : Nat) (x : Pwm) : (s.setPwm n x).dev = s.dev := rfl
@[simp] theorem State.setPwm_tenants (n : Nat) (x : Pwm) : (s.setPwm n x).tenants = s.tenants := rfl
@[simp] theorem State.setPwm_flights (n : Nat) (x : Pwm) : (s.setPwm n x).flights = s.flights := rfl
@[simp] theorem State.setPwm_banks (n : Nat) (x : Pwm) : (s.setPwm n x).banks = s.banks := rfl
@[simp] theorem State.setPwm_mem (n : Nat) (x : Pwm) : (s.setPwm n x).mem = s.mem := rfl
@[simp] theorem State.setPwm_pins (n : Nat) (x : Pwm) : (s.setPwm n x).pins = s.pins := rfl
@[simp] theorem State.setPwm_intc (n : Nat) (x : Pwm) : (s.setPwm n x).intc = s.intc := rfl
@[simp] theorem State.setPwm_dma (n : Nat) (x : Pwm) : (s.setPwm n x).dma = s.dma := rfl
@[simp] theorem State.setPwm_disp (n : Nat) (x : Pwm) : (s.setPwm n x).disp = s.disp := rfl
@[simp] theorem State.setPwm_tabs (n : Nat) (x : Pwm) : (s.setPwm n x).tabs = s.tabs := rfl
@[simp] theorem State.setPwm_ucode (n : Nat) (x : Pwm) : (s.setPwm n x).ucode = s.ucode := rfl
@[simp] theorem State.setPwm_cp (n : Nat) (x : Pwm) : (s.setPwm n x).cp = s.cp := rfl
@[simp] theorem State.setPwm_audio (n : Nat) (x : Pwm) : (s.setPwm n x).audio = s.audio := rfl
@[simp] theorem State.setPwm_eth (n : Nat) (x : Pwm) : (s.setPwm n x).eth = s.eth := rfl
@[simp] theorem State.setPwm_peg (n : Nat) (x : Pwm) : (s.setPwm n x).peg = s.peg := rfl
@[simp] theorem State.setPwm_prerolls (n : Nat) (x : Pwm) : (s.setPwm n x).prerolls = s.prerolls := rfl

/-! ### State.modCal -/

@[simp] theorem State.modCal_pending (f : Calendar → Calendar) : (s.modCal f).pending = s.pending := rfl
@[simp] theorem State.modCal_now (f : Calendar → Calendar) : (s.modCal f).now = s.now := rfl
@[simp] theorem State.modCal_cycle (f : Calendar → Calendar) : (s.modCal f).cycle = s.cycle := rfl
@[simp] theorem State.modCal_freeCount (f : Calendar → Calendar) : (s.modCal f).freeCount = s.freeCount := rfl
@[simp] theorem State.modCal_power (f : Calendar → Calendar) : (s.modCal f).power = s.power := rfl
@[simp] theorem State.modCal_clocks (f : Calendar → Calendar) : (s.modCal f).clocks = s.clocks := rfl
@[simp] theorem State.modCal_boot (f : Calendar → Calendar) : (s.modCal f).boot = s.boot := rfl
@[simp] theorem State.modCal_legend (f : Calendar → Calendar) : (s.modCal f).legend = s.legend := rfl
@[simp] theorem State.modCal_dev (f : Calendar → Calendar) : (s.modCal f).dev = s.dev := rfl
@[simp] theorem State.modCal_tenants (f : Calendar → Calendar) : (s.modCal f).tenants = s.tenants := rfl
@[simp] theorem State.modCal_flights (f : Calendar → Calendar) : (s.modCal f).flights = s.flights := rfl
@[simp] theorem State.modCal_banks (f : Calendar → Calendar) : (s.modCal f).banks = s.banks := rfl
@[simp] theorem State.modCal_mem (f : Calendar → Calendar) : (s.modCal f).mem = s.mem := rfl
@[simp] theorem State.modCal_timers (f : Calendar → Calendar) : (s.modCal f).timers = s.timers := rfl
@[simp] theorem State.modCal_pins (f : Calendar → Calendar) : (s.modCal f).pins = s.pins := rfl
@[simp] theorem State.modCal_intc (f : Calendar → Calendar) : (s.modCal f).intc = s.intc := rfl
@[simp] theorem State.modCal_dma (f : Calendar → Calendar) : (s.modCal f).dma = s.dma := rfl
@[simp] theorem State.modCal_disp (f : Calendar → Calendar) : (s.modCal f).disp = s.disp := rfl
@[simp] theorem State.modCal_tabs (f : Calendar → Calendar) : (s.modCal f).tabs = s.tabs := rfl
@[simp] theorem State.modCal_ucode (f : Calendar → Calendar) : (s.modCal f).ucode = s.ucode := rfl
@[simp] theorem State.modCal_cp (f : Calendar → Calendar) : (s.modCal f).cp = s.cp := rfl
@[simp] theorem State.modCal_audio (f : Calendar → Calendar) : (s.modCal f).audio = s.audio := rfl
@[simp] theorem State.modCal_eth (f : Calendar → Calendar) : (s.modCal f).eth = s.eth := rfl
@[simp] theorem State.modCal_peg (f : Calendar → Calendar) : (s.modCal f).peg = s.peg := rfl
@[simp] theorem State.modCal_prerolls (f : Calendar → Calendar) : (s.modCal f).prerolls = s.prerolls := rfl

/-! ### State.modPin -/

@[simp] theorem State.modPin_pending (p : Nat) (f : Pin → Pin) : (s.modPin p f).pending = s.pending := rfl
@[simp] theorem State.modPin_now (p : Nat) (f : Pin → Pin) : (s.modPin p f).now = s.now := rfl
@[simp] theorem State.modPin_cycle (p : Nat) (f : Pin → Pin) : (s.modPin p f).cycle = s.cycle := rfl
@[simp] theorem State.modPin_freeCount (p : Nat) (f : Pin → Pin) : (s.modPin p f).freeCount = s.freeCount := rfl
@[simp] theorem State.modPin_time (p : Nat) (f : Pin → Pin) : (s.modPin p f).time = s.time := rfl
@[simp] theorem State.modPin_power (p : Nat) (f : Pin → Pin) : (s.modPin p f).power = s.power := rfl
@[simp] theorem State.modPin_clocks (p : Nat) (f : Pin → Pin) : (s.modPin p f).clocks = s.clocks := rfl
@[simp] theorem State.modPin_boot (p : Nat) (f : Pin → Pin) : (s.modPin p f).boot = s.boot := rfl
@[simp] theorem State.modPin_legend (p : Nat) (f : Pin → Pin) : (s.modPin p f).legend = s.legend := rfl
@[simp] theorem State.modPin_dev (p : Nat) (f : Pin → Pin) : (s.modPin p f).dev = s.dev := rfl
@[simp] theorem State.modPin_tenants (p : Nat) (f : Pin → Pin) : (s.modPin p f).tenants = s.tenants := rfl
@[simp] theorem State.modPin_flights (p : Nat) (f : Pin → Pin) : (s.modPin p f).flights = s.flights := rfl
@[simp] theorem State.modPin_banks (p : Nat) (f : Pin → Pin) : (s.modPin p f).banks = s.banks := rfl
@[simp] theorem State.modPin_mem (p : Nat) (f : Pin → Pin) : (s.modPin p f).mem = s.mem := rfl
@[simp] theorem State.modPin_timers (p : Nat) (f : Pin → Pin) : (s.modPin p f).timers = s.timers := rfl
@[simp] theorem State.modPin_intc (p : Nat) (f : Pin → Pin) : (s.modPin p f).intc = s.intc := rfl
@[simp] theorem State.modPin_dma (p : Nat) (f : Pin → Pin) : (s.modPin p f).dma = s.dma := rfl
@[simp] theorem State.modPin_disp (p : Nat) (f : Pin → Pin) : (s.modPin p f).disp = s.disp := rfl
@[simp] theorem State.modPin_tabs (p : Nat) (f : Pin → Pin) : (s.modPin p f).tabs = s.tabs := rfl
@[simp] theorem State.modPin_ucode (p : Nat) (f : Pin → Pin) : (s.modPin p f).ucode = s.ucode := rfl
@[simp] theorem State.modPin_cp (p : Nat) (f : Pin → Pin) : (s.modPin p f).cp = s.cp := rfl
@[simp] theorem State.modPin_audio (p : Nat) (f : Pin → Pin) : (s.modPin p f).audio = s.audio := rfl
@[simp] theorem State.modPin_eth (p : Nat) (f : Pin → Pin) : (s.modPin p f).eth = s.eth := rfl
@[simp] theorem State.modPin_peg (p : Nat) (f : Pin → Pin) : (s.modPin p f).peg = s.peg := rfl
@[simp] theorem State.modPin_prerolls (p : Nat) (f : Pin → Pin) : (s.modPin p f).prerolls = s.prerolls := rfl

/-! ### State.modBlock -/

@[simp] theorem State.modBlock_pending (k : Nat) (f : Block → Block) : (s.modBlock k f).pending = s.pending := rfl
@[simp] theorem State.modBlock_now (k : Nat) (f : Block → Block) : (s.modBlock k f).now = s.now := rfl
@[simp] theorem State.modBlock_cycle (k : Nat) (f : Block → Block) : (s.modBlock k f).cycle = s.cycle := rfl
@[simp] theorem State.modBlock_freeCount (k : Nat) (f : Block → Block) : (s.modBlock k f).freeCount = s.freeCount := rfl
@[simp] theorem State.modBlock_time (k : Nat) (f : Block → Block) : (s.modBlock k f).time = s.time := rfl
@[simp] theorem State.modBlock_power (k : Nat) (f : Block → Block) : (s.modBlock k f).power = s.power := rfl
@[simp] theorem State.modBlock_clocks (k : Nat) (f : Block → Block) : (s.modBlock k f).clocks = s.clocks := rfl
@[simp] theorem State.modBlock_boot (k : Nat) (f : Block → Block) : (s.modBlock k f).boot = s.boot := rfl
@[simp] theorem State.modBlock_legend (k : Nat) (f : Block → Block) : (s.modBlock k f).legend = s.legend := rfl
@[simp] theorem State.modBlock_dev (k : Nat) (f : Block → Block) : (s.modBlock k f).dev = s.dev := rfl
@[simp] theorem State.modBlock_tenants (k : Nat) (f : Block → Block) : (s.modBlock k f).tenants = s.tenants := rfl
@[simp] theorem State.modBlock_flights (k : Nat) (f : Block → Block) : (s.modBlock k f).flights = s.flights := rfl
@[simp] theorem State.modBlock_banks (k : Nat) (f : Block → Block) : (s.modBlock k f).banks = s.banks := rfl
@[simp] theorem State.modBlock_mem (k : Nat) (f : Block → Block) : (s.modBlock k f).mem = s.mem := rfl
@[simp] theorem State.modBlock_timers (k : Nat) (f : Block → Block) : (s.modBlock k f).timers = s.timers := rfl
@[simp] theorem State.modBlock_intc (k : Nat) (f : Block → Block) : (s.modBlock k f).intc = s.intc := rfl
@[simp] theorem State.modBlock_dma (k : Nat) (f : Block → Block) : (s.modBlock k f).dma = s.dma := rfl
@[simp] theorem State.modBlock_disp (k : Nat) (f : Block → Block) : (s.modBlock k f).disp = s.disp := rfl
@[simp] theorem State.modBlock_tabs (k : Nat) (f : Block → Block) : (s.modBlock k f).tabs = s.tabs := rfl
@[simp] theorem State.modBlock_ucode (k : Nat) (f : Block → Block) : (s.modBlock k f).ucode = s.ucode := rfl
@[simp] theorem State.modBlock_cp (k : Nat) (f : Block → Block) : (s.modBlock k f).cp = s.cp := rfl
@[simp] theorem State.modBlock_audio (k : Nat) (f : Block → Block) : (s.modBlock k f).audio = s.audio := rfl
@[simp] theorem State.modBlock_eth (k : Nat) (f : Block → Block) : (s.modBlock k f).eth = s.eth := rfl
@[simp] theorem State.modBlock_peg (k : Nat) (f : Block → Block) : (s.modBlock k f).peg = s.peg := rfl
@[simp] theorem State.modBlock_prerolls (k : Nat) (f : Block → Block) : (s.modBlock k f).prerolls = s.prerolls := rfl

/-! ### State.modSrc -/

@[simp] theorem State.modSrc_pending (i : Nat) (f : IntSrc → IntSrc) : (s.modSrc i f).pending = s.pending := rfl
@[simp] theorem State.modSrc_now (i : Nat) (f : IntSrc → IntSrc) : (s.modSrc i f).now = s.now := rfl
@[simp] theorem State.modSrc_cycle (i : Nat) (f : IntSrc → IntSrc) : (s.modSrc i f).cycle = s.cycle := rfl
@[simp] theorem State.modSrc_freeCount (i : Nat) (f : IntSrc → IntSrc) : (s.modSrc i f).freeCount = s.freeCount := rfl
@[simp] theorem State.modSrc_time (i : Nat) (f : IntSrc → IntSrc) : (s.modSrc i f).time = s.time := rfl
@[simp] theorem State.modSrc_power (i : Nat) (f : IntSrc → IntSrc) : (s.modSrc i f).power = s.power := rfl
@[simp] theorem State.modSrc_clocks (i : Nat) (f : IntSrc → IntSrc) : (s.modSrc i f).clocks = s.clocks := rfl
@[simp] theorem State.modSrc_boot (i : Nat) (f : IntSrc → IntSrc) : (s.modSrc i f).boot = s.boot := rfl
@[simp] theorem State.modSrc_legend (i : Nat) (f : IntSrc → IntSrc) : (s.modSrc i f).legend = s.legend := rfl
@[simp] theorem State.modSrc_dev (i : Nat) (f : IntSrc → IntSrc) : (s.modSrc i f).dev = s.dev := rfl
@[simp] theorem State.modSrc_tenants (i : Nat) (f : IntSrc → IntSrc) : (s.modSrc i f).tenants = s.tenants := rfl
@[simp] theorem State.modSrc_flights (i : Nat) (f : IntSrc → IntSrc) : (s.modSrc i f).flights = s.flights := rfl
@[simp] theorem State.modSrc_banks (i : Nat) (f : IntSrc → IntSrc) : (s.modSrc i f).banks = s.banks := rfl
@[simp] theorem State.modSrc_mem (i : Nat) (f : IntSrc → IntSrc) : (s.modSrc i f).mem = s.mem := rfl
@[simp] theorem State.modSrc_timers (i : Nat) (f : IntSrc → IntSrc) : (s.modSrc i f).timers = s.timers := rfl
@[simp] theorem State.modSrc_pins (i : Nat) (f : IntSrc → IntSrc) : (s.modSrc i f).pins = s.pins := rfl
@[simp] theorem State.modSrc_dma (i : Nat) (f : IntSrc → IntSrc) : (s.modSrc i f).dma = s.dma := rfl
@[simp] theorem State.modSrc_disp (i : Nat) (f : IntSrc → IntSrc) : (s.modSrc i f).disp = s.disp := rfl
@[simp] theorem State.modSrc_tabs (i : Nat) (f : IntSrc → IntSrc) : (s.modSrc i f).tabs = s.tabs := rfl
@[simp] theorem State.modSrc_ucode (i : Nat) (f : IntSrc → IntSrc) : (s.modSrc i f).ucode = s.ucode := rfl
@[simp] theorem State.modSrc_cp (i : Nat) (f : IntSrc → IntSrc) : (s.modSrc i f).cp = s.cp := rfl
@[simp] theorem State.modSrc_audio (i : Nat) (f : IntSrc → IntSrc) : (s.modSrc i f).audio = s.audio := rfl
@[simp] theorem State.modSrc_eth (i : Nat) (f : IntSrc → IntSrc) : (s.modSrc i f).eth = s.eth := rfl
@[simp] theorem State.modSrc_peg (i : Nat) (f : IntSrc → IntSrc) : (s.modSrc i f).peg = s.peg := rfl
@[simp] theorem State.modSrc_prerolls (i : Nat) (f : IntSrc → IntSrc) : (s.modSrc i f).prerolls = s.prerolls := rfl

/-! ### State.modDma -/

@[simp] theorem State.modDma_pending (n : Nat) (f : DmaChannel → DmaChannel) : (s.modDma n f).pending = s.pending := rfl
@[simp] theorem State.modDma_now (n : Nat) (f : DmaChannel → DmaChannel) : (s.modDma n f).now = s.now := rfl
@[simp] theorem State.modDma_cycle (n : Nat) (f : DmaChannel → DmaChannel) : (s.modDma n f).cycle = s.cycle := rfl
@[simp] theorem State.modDma_freeCount (n : Nat) (f : DmaChannel → DmaChannel) : (s.modDma n f).freeCount = s.freeCount := rfl
@[simp] theorem State.modDma_time (n : Nat) (f : DmaChannel → DmaChannel) : (s.modDma n f).time = s.time := rfl
@[simp] theorem State.modDma_power (n : Nat) (f : DmaChannel → DmaChannel) : (s.modDma n f).power = s.power := rfl
@[simp] theorem State.modDma_clocks (n : Nat) (f : DmaChannel → DmaChannel) : (s.modDma n f).clocks = s.clocks := rfl
@[simp] theorem State.modDma_boot (n : Nat) (f : DmaChannel → DmaChannel) : (s.modDma n f).boot = s.boot := rfl
@[simp] theorem State.modDma_legend (n : Nat) (f : DmaChannel → DmaChannel) : (s.modDma n f).legend = s.legend := rfl
@[simp] theorem State.modDma_dev (n : Nat) (f : DmaChannel → DmaChannel) : (s.modDma n f).dev = s.dev := rfl
@[simp] theorem State.modDma_tenants (n : Nat) (f : DmaChannel → DmaChannel) : (s.modDma n f).tenants = s.tenants := rfl
@[simp] theorem State.modDma_flights (n : Nat) (f : DmaChannel → DmaChannel) : (s.modDma n f).flights = s.flights := rfl
@[simp] theorem State.modDma_banks (n : Nat) (f : DmaChannel → DmaChannel) : (s.modDma n f).banks = s.banks := rfl
@[simp] theorem State.modDma_mem (n : Nat) (f : DmaChannel → DmaChannel) : (s.modDma n f).mem = s.mem := rfl
@[simp] theorem State.modDma_timers (n : Nat) (f : DmaChannel → DmaChannel) : (s.modDma n f).timers = s.timers := rfl
@[simp] theorem State.modDma_pins (n : Nat) (f : DmaChannel → DmaChannel) : (s.modDma n f).pins = s.pins := rfl
@[simp] theorem State.modDma_intc (n : Nat) (f : DmaChannel → DmaChannel) : (s.modDma n f).intc = s.intc := rfl
@[simp] theorem State.modDma_disp (n : Nat) (f : DmaChannel → DmaChannel) : (s.modDma n f).disp = s.disp := rfl
@[simp] theorem State.modDma_tabs (n : Nat) (f : DmaChannel → DmaChannel) : (s.modDma n f).tabs = s.tabs := rfl
@[simp] theorem State.modDma_ucode (n : Nat) (f : DmaChannel → DmaChannel) : (s.modDma n f).ucode = s.ucode := rfl
@[simp] theorem State.modDma_cp (n : Nat) (f : DmaChannel → DmaChannel) : (s.modDma n f).cp = s.cp := rfl
@[simp] theorem State.modDma_audio (n : Nat) (f : DmaChannel → DmaChannel) : (s.modDma n f).audio = s.audio := rfl
@[simp] theorem State.modDma_eth (n : Nat) (f : DmaChannel → DmaChannel) : (s.modDma n f).eth = s.eth := rfl
@[simp] theorem State.modDma_peg (n : Nat) (f : DmaChannel → DmaChannel) : (s.modDma n f).peg = s.peg := rfl
@[simp] theorem State.modDma_prerolls (n : Nat) (f : DmaChannel → DmaChannel) : (s.modDma n f).prerolls = s.prerolls := rfl

/-! ### State.modDisp -/

@[simp] theorem State.modDisp_pending (f : Display → Display) : (s.modDisp f).pending = s.pending := rfl
@[simp] theorem State.modDisp_now (f : Display → Display) : (s.modDisp f).now = s.now := rfl
@[simp] theorem State.modDisp_cycle (f : Display → Display) : (s.modDisp f).cycle = s.cycle := rfl
@[simp] theorem State.modDisp_freeCount (f : Display → Display) : (s.modDisp f).freeCount = s.freeCount := rfl
@[simp] theorem State.modDisp_time (f : Display → Display) : (s.modDisp f).time = s.time := rfl
@[simp] theorem State.modDisp_power (f : Display → Display) : (s.modDisp f).power = s.power := rfl
@[simp] theorem State.modDisp_clocks (f : Display → Display) : (s.modDisp f).clocks = s.clocks := rfl
@[simp] theorem State.modDisp_boot (f : Display → Display) : (s.modDisp f).boot = s.boot := rfl
@[simp] theorem State.modDisp_legend (f : Display → Display) : (s.modDisp f).legend = s.legend := rfl
@[simp] theorem State.modDisp_dev (f : Display → Display) : (s.modDisp f).dev = s.dev := rfl
@[simp] theorem State.modDisp_tenants (f : Display → Display) : (s.modDisp f).tenants = s.tenants := rfl
@[simp] theorem State.modDisp_flights (f : Display → Display) : (s.modDisp f).flights = s.flights := rfl
@[simp] theorem State.modDisp_banks (f : Display → Display) : (s.modDisp f).banks = s.banks := rfl
@[simp] theorem State.modDisp_mem (f : Display → Display) : (s.modDisp f).mem = s.mem := rfl
@[simp] theorem State.modDisp_timers (f : Display → Display) : (s.modDisp f).timers = s.timers := rfl
@[simp] theorem State.modDisp_pins (f : Display → Display) : (s.modDisp f).pins = s.pins := rfl
@[simp] theorem State.modDisp_intc (f : Display → Display) : (s.modDisp f).intc = s.intc := rfl
@[simp] theorem State.modDisp_dma (f : Display → Display) : (s.modDisp f).dma = s.dma := rfl
@[simp] theorem State.modDisp_tabs (f : Display → Display) : (s.modDisp f).tabs = s.tabs := rfl
@[simp] theorem State.modDisp_ucode (f : Display → Display) : (s.modDisp f).ucode = s.ucode := rfl
@[simp] theorem State.modDisp_cp (f : Display → Display) : (s.modDisp f).cp = s.cp := rfl
@[simp] theorem State.modDisp_audio (f : Display → Display) : (s.modDisp f).audio = s.audio := rfl
@[simp] theorem State.modDisp_eth (f : Display → Display) : (s.modDisp f).eth = s.eth := rfl
@[simp] theorem State.modDisp_peg (f : Display → Display) : (s.modDisp f).peg = s.peg := rfl
@[simp] theorem State.modDisp_prerolls (f : Display → Display) : (s.modDisp f).prerolls = s.prerolls := rfl

/-! ### State.modHead -/

@[simp] theorem State.modHead_pending (h : Nat) (f : Head → Head) : (s.modHead h f).pending = s.pending := rfl
@[simp] theorem State.modHead_now (h : Nat) (f : Head → Head) : (s.modHead h f).now = s.now := rfl
@[simp] theorem State.modHead_cycle (h : Nat) (f : Head → Head) : (s.modHead h f).cycle = s.cycle := rfl
@[simp] theorem State.modHead_freeCount (h : Nat) (f : Head → Head) : (s.modHead h f).freeCount = s.freeCount := rfl
@[simp] theorem State.modHead_time (h : Nat) (f : Head → Head) : (s.modHead h f).time = s.time := rfl
@[simp] theorem State.modHead_power (h : Nat) (f : Head → Head) : (s.modHead h f).power = s.power := rfl
@[simp] theorem State.modHead_clocks (h : Nat) (f : Head → Head) : (s.modHead h f).clocks = s.clocks := rfl
@[simp] theorem State.modHead_boot (h : Nat) (f : Head → Head) : (s.modHead h f).boot = s.boot := rfl
@[simp] theorem State.modHead_legend (h : Nat) (f : Head → Head) : (s.modHead h f).legend = s.legend := rfl
@[simp] theorem State.modHead_dev (h : Nat) (f : Head → Head) : (s.modHead h f).dev = s.dev := rfl
@[simp] theorem State.modHead_tenants (h : Nat) (f : Head → Head) : (s.modHead h f).tenants = s.tenants := rfl
@[simp] theorem State.modHead_flights (h : Nat) (f : Head → Head) : (s.modHead h f).flights = s.flights := rfl
@[simp] theorem State.modHead_banks (h : Nat) (f : Head → Head) : (s.modHead h f).banks = s.banks := rfl
@[simp] theorem State.modHead_mem (h : Nat) (f : Head → Head) : (s.modHead h f).mem = s.mem := rfl
@[simp] theorem State.modHead_timers (h : Nat) (f : Head → Head) : (s.modHead h f).timers = s.timers := rfl
@[simp] theorem State.modHead_pins (h : Nat) (f : Head → Head) : (s.modHead h f).pins = s.pins := rfl
@[simp] theorem State.modHead_intc (h : Nat) (f : Head → Head) : (s.modHead h f).intc = s.intc := rfl
@[simp] theorem State.modHead_dma (h : Nat) (f : Head → Head) : (s.modHead h f).dma = s.dma := rfl
@[simp] theorem State.modHead_tabs (h : Nat) (f : Head → Head) : (s.modHead h f).tabs = s.tabs := rfl
@[simp] theorem State.modHead_ucode (h : Nat) (f : Head → Head) : (s.modHead h f).ucode = s.ucode := rfl
@[simp] theorem State.modHead_cp (h : Nat) (f : Head → Head) : (s.modHead h f).cp = s.cp := rfl
@[simp] theorem State.modHead_audio (h : Nat) (f : Head → Head) : (s.modHead h f).audio = s.audio := rfl
@[simp] theorem State.modHead_eth (h : Nat) (f : Head → Head) : (s.modHead h f).eth = s.eth := rfl
@[simp] theorem State.modHead_peg (h : Nat) (f : Head → Head) : (s.modHead h f).peg = s.peg := rfl
@[simp] theorem State.modHead_prerolls (h : Nat) (f : Head → Head) : (s.modHead h f).prerolls = s.prerolls := rfl

/-! ### State.modStage -/

@[simp] theorem State.modStage_pending (h t : Nat) (f : Stage → Stage) : (s.modStage h t f).pending = s.pending := rfl
@[simp] theorem State.modStage_now (h t : Nat) (f : Stage → Stage) : (s.modStage h t f).now = s.now := rfl
@[simp] theorem State.modStage_cycle (h t : Nat) (f : Stage → Stage) : (s.modStage h t f).cycle = s.cycle := rfl
@[simp] theorem State.modStage_freeCount (h t : Nat) (f : Stage → Stage) : (s.modStage h t f).freeCount = s.freeCount := rfl
@[simp] theorem State.modStage_time (h t : Nat) (f : Stage → Stage) : (s.modStage h t f).time = s.time := rfl
@[simp] theorem State.modStage_power (h t : Nat) (f : Stage → Stage) : (s.modStage h t f).power = s.power := rfl
@[simp] theorem State.modStage_clocks (h t : Nat) (f : Stage → Stage) : (s.modStage h t f).clocks = s.clocks := rfl
@[simp] theorem State.modStage_boot (h t : Nat) (f : Stage → Stage) : (s.modStage h t f).boot = s.boot := rfl
@[simp] theorem State.modStage_legend (h t : Nat) (f : Stage → Stage) : (s.modStage h t f).legend = s.legend := rfl
@[simp] theorem State.modStage_dev (h t : Nat) (f : Stage → Stage) : (s.modStage h t f).dev = s.dev := rfl
@[simp] theorem State.modStage_tenants (h t : Nat) (f : Stage → Stage) : (s.modStage h t f).tenants = s.tenants := rfl
@[simp] theorem State.modStage_flights (h t : Nat) (f : Stage → Stage) : (s.modStage h t f).flights = s.flights := rfl
@[simp] theorem State.modStage_banks (h t : Nat) (f : Stage → Stage) : (s.modStage h t f).banks = s.banks := rfl
@[simp] theorem State.modStage_mem (h t : Nat) (f : Stage → Stage) : (s.modStage h t f).mem = s.mem := rfl
@[simp] theorem State.modStage_timers (h t : Nat) (f : Stage → Stage) : (s.modStage h t f).timers = s.timers := rfl
@[simp] theorem State.modStage_pins (h t : Nat) (f : Stage → Stage) : (s.modStage h t f).pins = s.pins := rfl
@[simp] theorem State.modStage_intc (h t : Nat) (f : Stage → Stage) : (s.modStage h t f).intc = s.intc := rfl
@[simp] theorem State.modStage_dma (h t : Nat) (f : Stage → Stage) : (s.modStage h t f).dma = s.dma := rfl
@[simp] theorem State.modStage_tabs (h t : Nat) (f : Stage → Stage) : (s.modStage h t f).tabs = s.tabs := rfl
@[simp] theorem State.modStage_ucode (h t : Nat) (f : Stage → Stage) : (s.modStage h t f).ucode = s.ucode := rfl
@[simp] theorem State.modStage_cp (h t : Nat) (f : Stage → Stage) : (s.modStage h t f).cp = s.cp := rfl
@[simp] theorem State.modStage_audio (h t : Nat) (f : Stage → Stage) : (s.modStage h t f).audio = s.audio := rfl
@[simp] theorem State.modStage_eth (h t : Nat) (f : Stage → Stage) : (s.modStage h t f).eth = s.eth := rfl
@[simp] theorem State.modStage_peg (h t : Nat) (f : Stage → Stage) : (s.modStage h t f).peg = s.peg := rfl
@[simp] theorem State.modStage_prerolls (h t : Nat) (f : Stage → Stage) : (s.modStage h t f).prerolls = s.prerolls := rfl

/-! ### State.modCluster -/

@[simp] theorem State.modCluster_pending (n : Nat) (f : Cluster → Cluster) : (s.modCluster n f).pending = s.pending := rfl
@[simp] theorem State.modCluster_now (n : Nat) (f : Cluster → Cluster) : (s.modCluster n f).now = s.now := rfl
@[simp] theorem State.modCluster_cycle (n : Nat) (f : Cluster → Cluster) : (s.modCluster n f).cycle = s.cycle := rfl
@[simp] theorem State.modCluster_freeCount (n : Nat) (f : Cluster → Cluster) : (s.modCluster n f).freeCount = s.freeCount := rfl
@[simp] theorem State.modCluster_time (n : Nat) (f : Cluster → Cluster) : (s.modCluster n f).time = s.time := rfl
@[simp] theorem State.modCluster_power (n : Nat) (f : Cluster → Cluster) : (s.modCluster n f).power = s.power := rfl
@[simp] theorem State.modCluster_clocks (n : Nat) (f : Cluster → Cluster) : (s.modCluster n f).clocks = s.clocks := rfl
@[simp] theorem State.modCluster_boot (n : Nat) (f : Cluster → Cluster) : (s.modCluster n f).boot = s.boot := rfl
@[simp] theorem State.modCluster_legend (n : Nat) (f : Cluster → Cluster) : (s.modCluster n f).legend = s.legend := rfl
@[simp] theorem State.modCluster_dev (n : Nat) (f : Cluster → Cluster) : (s.modCluster n f).dev = s.dev := rfl
@[simp] theorem State.modCluster_tenants (n : Nat) (f : Cluster → Cluster) : (s.modCluster n f).tenants = s.tenants := rfl
@[simp] theorem State.modCluster_flights (n : Nat) (f : Cluster → Cluster) : (s.modCluster n f).flights = s.flights := rfl
@[simp] theorem State.modCluster_banks (n : Nat) (f : Cluster → Cluster) : (s.modCluster n f).banks = s.banks := rfl
@[simp] theorem State.modCluster_mem (n : Nat) (f : Cluster → Cluster) : (s.modCluster n f).mem = s.mem := rfl
@[simp] theorem State.modCluster_timers (n : Nat) (f : Cluster → Cluster) : (s.modCluster n f).timers = s.timers := rfl
@[simp] theorem State.modCluster_pins (n : Nat) (f : Cluster → Cluster) : (s.modCluster n f).pins = s.pins := rfl
@[simp] theorem State.modCluster_intc (n : Nat) (f : Cluster → Cluster) : (s.modCluster n f).intc = s.intc := rfl
@[simp] theorem State.modCluster_dma (n : Nat) (f : Cluster → Cluster) : (s.modCluster n f).dma = s.dma := rfl
@[simp] theorem State.modCluster_tabs (n : Nat) (f : Cluster → Cluster) : (s.modCluster n f).tabs = s.tabs := rfl
@[simp] theorem State.modCluster_ucode (n : Nat) (f : Cluster → Cluster) : (s.modCluster n f).ucode = s.ucode := rfl
@[simp] theorem State.modCluster_cp (n : Nat) (f : Cluster → Cluster) : (s.modCluster n f).cp = s.cp := rfl
@[simp] theorem State.modCluster_audio (n : Nat) (f : Cluster → Cluster) : (s.modCluster n f).audio = s.audio := rfl
@[simp] theorem State.modCluster_eth (n : Nat) (f : Cluster → Cluster) : (s.modCluster n f).eth = s.eth := rfl
@[simp] theorem State.modCluster_peg (n : Nat) (f : Cluster → Cluster) : (s.modCluster n f).peg = s.peg := rfl
@[simp] theorem State.modCluster_prerolls (n : Nat) (f : Cluster → Cluster) : (s.modCluster n f).prerolls = s.prerolls := rfl

/-! ### State.modPort -/

@[simp] theorem State.modPort_pending (p : Nat) (f : Port → Port) : (s.modPort p f).pending = s.pending := rfl
@[simp] theorem State.modPort_now (p : Nat) (f : Port → Port) : (s.modPort p f).now = s.now := rfl
@[simp] theorem State.modPort_cycle (p : Nat) (f : Port → Port) : (s.modPort p f).cycle = s.cycle := rfl
@[simp] theorem State.modPort_freeCount (p : Nat) (f : Port → Port) : (s.modPort p f).freeCount = s.freeCount := rfl
@[simp] theorem State.modPort_time (p : Nat) (f : Port → Port) : (s.modPort p f).time = s.time := rfl
@[simp] theorem State.modPort_power (p : Nat) (f : Port → Port) : (s.modPort p f).power = s.power := rfl
@[simp] theorem State.modPort_clocks (p : Nat) (f : Port → Port) : (s.modPort p f).clocks = s.clocks := rfl
@[simp] theorem State.modPort_boot (p : Nat) (f : Port → Port) : (s.modPort p f).boot = s.boot := rfl
@[simp] theorem State.modPort_legend (p : Nat) (f : Port → Port) : (s.modPort p f).legend = s.legend := rfl
@[simp] theorem State.modPort_dev (p : Nat) (f : Port → Port) : (s.modPort p f).dev = s.dev := rfl
@[simp] theorem State.modPort_tenants (p : Nat) (f : Port → Port) : (s.modPort p f).tenants = s.tenants := rfl
@[simp] theorem State.modPort_flights (p : Nat) (f : Port → Port) : (s.modPort p f).flights = s.flights := rfl
@[simp] theorem State.modPort_banks (p : Nat) (f : Port → Port) : (s.modPort p f).banks = s.banks := rfl
@[simp] theorem State.modPort_mem (p : Nat) (f : Port → Port) : (s.modPort p f).mem = s.mem := rfl
@[simp] theorem State.modPort_timers (p : Nat) (f : Port → Port) : (s.modPort p f).timers = s.timers := rfl
@[simp] theorem State.modPort_pins (p : Nat) (f : Port → Port) : (s.modPort p f).pins = s.pins := rfl
@[simp] theorem State.modPort_intc (p : Nat) (f : Port → Port) : (s.modPort p f).intc = s.intc := rfl
@[simp] theorem State.modPort_dma (p : Nat) (f : Port → Port) : (s.modPort p f).dma = s.dma := rfl
@[simp] theorem State.modPort_tabs (p : Nat) (f : Port → Port) : (s.modPort p f).tabs = s.tabs := rfl
@[simp] theorem State.modPort_ucode (p : Nat) (f : Port → Port) : (s.modPort p f).ucode = s.ucode := rfl
@[simp] theorem State.modPort_cp (p : Nat) (f : Port → Port) : (s.modPort p f).cp = s.cp := rfl
@[simp] theorem State.modPort_audio (p : Nat) (f : Port → Port) : (s.modPort p f).audio = s.audio := rfl
@[simp] theorem State.modPort_eth (p : Nat) (f : Port → Port) : (s.modPort p f).eth = s.eth := rfl
@[simp] theorem State.modPort_peg (p : Nat) (f : Port → Port) : (s.modPort p f).peg = s.peg := rfl
@[simp] theorem State.modPort_prerolls (p : Nat) (f : Port → Port) : (s.modPort p f).prerolls = s.prerolls := rfl

/-! ### State.modGov -/

@[simp] theorem State.modGov_pending (f : Governor → Governor) : (s.modGov f).pending = s.pending := rfl
@[simp] theorem State.modGov_now (f : Governor → Governor) : (s.modGov f).now = s.now := rfl
@[simp] theorem State.modGov_cycle (f : Governor → Governor) : (s.modGov f).cycle = s.cycle := rfl
@[simp] theorem State.modGov_freeCount (f : Governor → Governor) : (s.modGov f).freeCount = s.freeCount := rfl
@[simp] theorem State.modGov_time (f : Governor → Governor) : (s.modGov f).time = s.time := rfl
@[simp] theorem State.modGov_power (f : Governor → Governor) : (s.modGov f).power = s.power := rfl
@[simp] theorem State.modGov_clocks (f : Governor → Governor) : (s.modGov f).clocks = s.clocks := rfl
@[simp] theorem State.modGov_boot (f : Governor → Governor) : (s.modGov f).boot = s.boot := rfl
@[simp] theorem State.modGov_legend (f : Governor → Governor) : (s.modGov f).legend = s.legend := rfl
@[simp] theorem State.modGov_dev (f : Governor → Governor) : (s.modGov f).dev = s.dev := rfl
@[simp] theorem State.modGov_tenants (f : Governor → Governor) : (s.modGov f).tenants = s.tenants := rfl
@[simp] theorem State.modGov_flights (f : Governor → Governor) : (s.modGov f).flights = s.flights := rfl
@[simp] theorem State.modGov_banks (f : Governor → Governor) : (s.modGov f).banks = s.banks := rfl
@[simp] theorem State.modGov_mem (f : Governor → Governor) : (s.modGov f).mem = s.mem := rfl
@[simp] theorem State.modGov_timers (f : Governor → Governor) : (s.modGov f).timers = s.timers := rfl
@[simp] theorem State.modGov_pins (f : Governor → Governor) : (s.modGov f).pins = s.pins := rfl
@[simp] theorem State.modGov_intc (f : Governor → Governor) : (s.modGov f).intc = s.intc := rfl
@[simp] theorem State.modGov_dma (f : Governor → Governor) : (s.modGov f).dma = s.dma := rfl
@[simp] theorem State.modGov_tabs (f : Governor → Governor) : (s.modGov f).tabs = s.tabs := rfl
@[simp] theorem State.modGov_ucode (f : Governor → Governor) : (s.modGov f).ucode = s.ucode := rfl
@[simp] theorem State.modGov_cp (f : Governor → Governor) : (s.modGov f).cp = s.cp := rfl
@[simp] theorem State.modGov_audio (f : Governor → Governor) : (s.modGov f).audio = s.audio := rfl
@[simp] theorem State.modGov_eth (f : Governor → Governor) : (s.modGov f).eth = s.eth := rfl
@[simp] theorem State.modGov_peg (f : Governor → Governor) : (s.modGov f).peg = s.peg := rfl
@[simp] theorem State.modGov_prerolls (f : Governor → Governor) : (s.modGov f).prerolls = s.prerolls := rfl

/-! ### State.modArm -/

@[simp] theorem State.modArm_pending (id : Nat) (f : ArmChange → ArmChange) : (s.modArm id f).pending = s.pending := rfl
@[simp] theorem State.modArm_now (id : Nat) (f : ArmChange → ArmChange) : (s.modArm id f).now = s.now := rfl
@[simp] theorem State.modArm_cycle (id : Nat) (f : ArmChange → ArmChange) : (s.modArm id f).cycle = s.cycle := rfl
@[simp] theorem State.modArm_freeCount (id : Nat) (f : ArmChange → ArmChange) : (s.modArm id f).freeCount = s.freeCount := rfl
@[simp] theorem State.modArm_time (id : Nat) (f : ArmChange → ArmChange) : (s.modArm id f).time = s.time := rfl
@[simp] theorem State.modArm_power (id : Nat) (f : ArmChange → ArmChange) : (s.modArm id f).power = s.power := rfl
@[simp] theorem State.modArm_clocks (id : Nat) (f : ArmChange → ArmChange) : (s.modArm id f).clocks = s.clocks := rfl
@[simp] theorem State.modArm_boot (id : Nat) (f : ArmChange → ArmChange) : (s.modArm id f).boot = s.boot := rfl
@[simp] theorem State.modArm_legend (id : Nat) (f : ArmChange → ArmChange) : (s.modArm id f).legend = s.legend := rfl
@[simp] theorem State.modArm_dev (id : Nat) (f : ArmChange → ArmChange) : (s.modArm id f).dev = s.dev := rfl
@[simp] theorem State.modArm_tenants (id : Nat) (f : ArmChange → ArmChange) : (s.modArm id f).tenants = s.tenants := rfl
@[simp] theorem State.modArm_flights (id : Nat) (f : ArmChange → ArmChange) : (s.modArm id f).flights = s.flights := rfl
@[simp] theorem State.modArm_banks (id : Nat) (f : ArmChange → ArmChange) : (s.modArm id f).banks = s.banks := rfl
@[simp] theorem State.modArm_mem (id : Nat) (f : ArmChange → ArmChange) : (s.modArm id f).mem = s.mem := rfl
@[simp] theorem State.modArm_timers (id : Nat) (f : ArmChange → ArmChange) : (s.modArm id f).timers = s.timers := rfl
@[simp] theorem State.modArm_pins (id : Nat) (f : ArmChange → ArmChange) : (s.modArm id f).pins = s.pins := rfl
@[simp] theorem State.modArm_intc (id : Nat) (f : ArmChange → ArmChange) : (s.modArm id f).intc = s.intc := rfl
@[simp] theorem State.modArm_dma (id : Nat) (f : ArmChange → ArmChange) : (s.modArm id f).dma = s.dma := rfl
@[simp] theorem State.modArm_tabs (id : Nat) (f : ArmChange → ArmChange) : (s.modArm id f).tabs = s.tabs := rfl
@[simp] theorem State.modArm_ucode (id : Nat) (f : ArmChange → ArmChange) : (s.modArm id f).ucode = s.ucode := rfl
@[simp] theorem State.modArm_cp (id : Nat) (f : ArmChange → ArmChange) : (s.modArm id f).cp = s.cp := rfl
@[simp] theorem State.modArm_audio (id : Nat) (f : ArmChange → ArmChange) : (s.modArm id f).audio = s.audio := rfl
@[simp] theorem State.modArm_eth (id : Nat) (f : ArmChange → ArmChange) : (s.modArm id f).eth = s.eth := rfl
@[simp] theorem State.modArm_peg (id : Nat) (f : ArmChange → ArmChange) : (s.modArm id f).peg = s.peg := rfl
@[simp] theorem State.modArm_prerolls (id : Nat) (f : ArmChange → ArmChange) : (s.modArm id f).prerolls = s.prerolls := rfl

/-! ### State.modActivity -/

@[simp] theorem State.modActivity_pending (a : Nat) (f : Activity → Activity) : (s.modActivity a f).pending = s.pending := rfl
@[simp] theorem State.modActivity_now (a : Nat) (f : Activity → Activity) : (s.modActivity a f).now = s.now := rfl
@[simp] theorem State.modActivity_cycle (a : Nat) (f : Activity → Activity) : (s.modActivity a f).cycle = s.cycle := rfl
@[simp] theorem State.modActivity_freeCount (a : Nat) (f : Activity → Activity) : (s.modActivity a f).freeCount = s.freeCount := rfl
@[simp] theorem State.modActivity_time (a : Nat) (f : Activity → Activity) : (s.modActivity a f).time = s.time := rfl
@[simp] theorem State.modActivity_power (a : Nat) (f : Activity → Activity) : (s.modActivity a f).power = s.power := rfl
@[simp] theorem State.modActivity_clocks (a : Nat) (f : Activity → Activity) : (s.modActivity a f).clocks = s.clocks := rfl
@[simp] theorem State.modActivity_boot (a : Nat) (f : Activity → Activity) : (s.modActivity a f).boot = s.boot := rfl
@[simp] theorem State.modActivity_legend (a : Nat) (f : Activity → Activity) : (s.modActivity a f).legend = s.legend := rfl
@[simp] theorem State.modActivity_dev (a : Nat) (f : Activity → Activity) : (s.modActivity a f).dev = s.dev := rfl
@[simp] theorem State.modActivity_tenants (a : Nat) (f : Activity → Activity) : (s.modActivity a f).tenants = s.tenants := rfl
@[simp] theorem State.modActivity_flights (a : Nat) (f : Activity → Activity) : (s.modActivity a f).flights = s.flights := rfl
@[simp] theorem State.modActivity_banks (a : Nat) (f : Activity → Activity) : (s.modActivity a f).banks = s.banks := rfl
@[simp] theorem State.modActivity_mem (a : Nat) (f : Activity → Activity) : (s.modActivity a f).mem = s.mem := rfl
@[simp] theorem State.modActivity_timers (a : Nat) (f : Activity → Activity) : (s.modActivity a f).timers = s.timers := rfl
@[simp] theorem State.modActivity_pins (a : Nat) (f : Activity → Activity) : (s.modActivity a f).pins = s.pins := rfl
@[simp] theorem State.modActivity_intc (a : Nat) (f : Activity → Activity) : (s.modActivity a f).intc = s.intc := rfl
@[simp] theorem State.modActivity_dma (a : Nat) (f : Activity → Activity) : (s.modActivity a f).dma = s.dma := rfl
@[simp] theorem State.modActivity_tabs (a : Nat) (f : Activity → Activity) : (s.modActivity a f).tabs = s.tabs := rfl
@[simp] theorem State.modActivity_ucode (a : Nat) (f : Activity → Activity) : (s.modActivity a f).ucode = s.ucode := rfl
@[simp] theorem State.modActivity_cp (a : Nat) (f : Activity → Activity) : (s.modActivity a f).cp = s.cp := rfl
@[simp] theorem State.modActivity_audio (a : Nat) (f : Activity → Activity) : (s.modActivity a f).audio = s.audio := rfl
@[simp] theorem State.modActivity_eth (a : Nat) (f : Activity → Activity) : (s.modActivity a f).eth = s.eth := rfl
@[simp] theorem State.modActivity_peg (a : Nat) (f : Activity → Activity) : (s.modActivity a f).peg = s.peg := rfl
@[simp] theorem State.modActivity_prerolls (a : Nat) (f : Activity → Activity) : (s.modActivity a f).prerolls = s.prerolls := rfl

/-! ### State.modTabs -/

@[simp] theorem State.modTabs_pending (h : Nat) (f : HeadTabs → HeadTabs) : (s.modTabs h f).pending = s.pending := rfl
@[simp] theorem State.modTabs_now (h : Nat) (f : HeadTabs → HeadTabs) : (s.modTabs h f).now = s.now := rfl
@[simp] theorem State.modTabs_cycle (h : Nat) (f : HeadTabs → HeadTabs) : (s.modTabs h f).cycle = s.cycle := rfl
@[simp] theorem State.modTabs_freeCount (h : Nat) (f : HeadTabs → HeadTabs) : (s.modTabs h f).freeCount = s.freeCount := rfl
@[simp] theorem State.modTabs_time (h : Nat) (f : HeadTabs → HeadTabs) : (s.modTabs h f).time = s.time := rfl
@[simp] theorem State.modTabs_power (h : Nat) (f : HeadTabs → HeadTabs) : (s.modTabs h f).power = s.power := rfl
@[simp] theorem State.modTabs_clocks (h : Nat) (f : HeadTabs → HeadTabs) : (s.modTabs h f).clocks = s.clocks := rfl
@[simp] theorem State.modTabs_boot (h : Nat) (f : HeadTabs → HeadTabs) : (s.modTabs h f).boot = s.boot := rfl
@[simp] theorem State.modTabs_legend (h : Nat) (f : HeadTabs → HeadTabs) : (s.modTabs h f).legend = s.legend := rfl
@[simp] theorem State.modTabs_dev (h : Nat) (f : HeadTabs → HeadTabs) : (s.modTabs h f).dev = s.dev := rfl
@[simp] theorem State.modTabs_tenants (h : Nat) (f : HeadTabs → HeadTabs) : (s.modTabs h f).tenants = s.tenants := rfl
@[simp] theorem State.modTabs_flights (h : Nat) (f : HeadTabs → HeadTabs) : (s.modTabs h f).flights = s.flights := rfl
@[simp] theorem State.modTabs_banks (h : Nat) (f : HeadTabs → HeadTabs) : (s.modTabs h f).banks = s.banks := rfl
@[simp] theorem State.modTabs_mem (h : Nat) (f : HeadTabs → HeadTabs) : (s.modTabs h f).mem = s.mem := rfl
@[simp] theorem State.modTabs_timers (h : Nat) (f : HeadTabs → HeadTabs) : (s.modTabs h f).timers = s.timers := rfl
@[simp] theorem State.modTabs_pins (h : Nat) (f : HeadTabs → HeadTabs) : (s.modTabs h f).pins = s.pins := rfl
@[simp] theorem State.modTabs_intc (h : Nat) (f : HeadTabs → HeadTabs) : (s.modTabs h f).intc = s.intc := rfl
@[simp] theorem State.modTabs_dma (h : Nat) (f : HeadTabs → HeadTabs) : (s.modTabs h f).dma = s.dma := rfl
@[simp] theorem State.modTabs_disp (h : Nat) (f : HeadTabs → HeadTabs) : (s.modTabs h f).disp = s.disp := rfl
@[simp] theorem State.modTabs_ucode (h : Nat) (f : HeadTabs → HeadTabs) : (s.modTabs h f).ucode = s.ucode := rfl
@[simp] theorem State.modTabs_cp (h : Nat) (f : HeadTabs → HeadTabs) : (s.modTabs h f).cp = s.cp := rfl
@[simp] theorem State.modTabs_audio (h : Nat) (f : HeadTabs → HeadTabs) : (s.modTabs h f).audio = s.audio := rfl
@[simp] theorem State.modTabs_eth (h : Nat) (f : HeadTabs → HeadTabs) : (s.modTabs h f).eth = s.eth := rfl
@[simp] theorem State.modTabs_peg (h : Nat) (f : HeadTabs → HeadTabs) : (s.modTabs h f).peg = s.peg := rfl
@[simp] theorem State.modTabs_prerolls (h : Nat) (f : HeadTabs → HeadTabs) : (s.modTabs h f).prerolls = s.prerolls := rfl

/-! ### State.modThread -/

@[simp] theorem State.modThread_pending (h slot : Nat) (f : Thread → Thread) : (s.modThread h slot f).pending = s.pending := rfl
@[simp] theorem State.modThread_now (h slot : Nat) (f : Thread → Thread) : (s.modThread h slot f).now = s.now := rfl
@[simp] theorem State.modThread_cycle (h slot : Nat) (f : Thread → Thread) : (s.modThread h slot f).cycle = s.cycle := rfl
@[simp] theorem State.modThread_freeCount (h slot : Nat) (f : Thread → Thread) : (s.modThread h slot f).freeCount = s.freeCount := rfl
@[simp] theorem State.modThread_time (h slot : Nat) (f : Thread → Thread) : (s.modThread h slot f).time = s.time := rfl
@[simp] theorem State.modThread_power (h slot : Nat) (f : Thread → Thread) : (s.modThread h slot f).power = s.power := rfl
@[simp] theorem State.modThread_clocks (h slot : Nat) (f : Thread → Thread) : (s.modThread h slot f).clocks = s.clocks := rfl
@[simp] theorem State.modThread_boot (h slot : Nat) (f : Thread → Thread) : (s.modThread h slot f).boot = s.boot := rfl
@[simp] theorem State.modThread_legend (h slot : Nat) (f : Thread → Thread) : (s.modThread h slot f).legend = s.legend := rfl
@[simp] theorem State.modThread_dev (h slot : Nat) (f : Thread → Thread) : (s.modThread h slot f).dev = s.dev := rfl
@[simp] theorem State.modThread_tenants (h slot : Nat) (f : Thread → Thread) : (s.modThread h slot f).tenants = s.tenants := rfl
@[simp] theorem State.modThread_flights (h slot : Nat) (f : Thread → Thread) : (s.modThread h slot f).flights = s.flights := rfl
@[simp] theorem State.modThread_banks (h slot : Nat) (f : Thread → Thread) : (s.modThread h slot f).banks = s.banks := rfl
@[simp] theorem State.modThread_mem (h slot : Nat) (f : Thread → Thread) : (s.modThread h slot f).mem = s.mem := rfl
@[simp] theorem State.modThread_timers (h slot : Nat) (f : Thread → Thread) : (s.modThread h slot f).timers = s.timers := rfl
@[simp] theorem State.modThread_pins (h slot : Nat) (f : Thread → Thread) : (s.modThread h slot f).pins = s.pins := rfl
@[simp] theorem State.modThread_intc (h slot : Nat) (f : Thread → Thread) : (s.modThread h slot f).intc = s.intc := rfl
@[simp] theorem State.modThread_dma (h slot : Nat) (f : Thread → Thread) : (s.modThread h slot f).dma = s.dma := rfl
@[simp] theorem State.modThread_disp (h slot : Nat) (f : Thread → Thread) : (s.modThread h slot f).disp = s.disp := rfl
@[simp] theorem State.modThread_ucode (h slot : Nat) (f : Thread → Thread) : (s.modThread h slot f).ucode = s.ucode := rfl
@[simp] theorem State.modThread_cp (h slot : Nat) (f : Thread → Thread) : (s.modThread h slot f).cp = s.cp := rfl
@[simp] theorem State.modThread_audio (h slot : Nat) (f : Thread → Thread) : (s.modThread h slot f).audio = s.audio := rfl
@[simp] theorem State.modThread_eth (h slot : Nat) (f : Thread → Thread) : (s.modThread h slot f).eth = s.eth := rfl
@[simp] theorem State.modThread_peg (h slot : Nat) (f : Thread → Thread) : (s.modThread h slot f).peg = s.peg := rfl
@[simp] theorem State.modThread_prerolls (h slot : Nat) (f : Thread → Thread) : (s.modThread h slot f).prerolls = s.prerolls := rfl

/-! ### State.setRegs -/

@[simp] theorem State.setRegs_pending (h slot : Nat) (r : TRegs) : (s.setRegs h slot r).pending = s.pending := rfl
@[simp] theorem State.setRegs_now (h slot : Nat) (r : TRegs) : (s.setRegs h slot r).now = s.now := rfl
@[simp] theorem State.setRegs_cycle (h slot : Nat) (r : TRegs) : (s.setRegs h slot r).cycle = s.cycle := rfl
@[simp] theorem State.setRegs_freeCount (h slot : Nat) (r : TRegs) : (s.setRegs h slot r).freeCount = s.freeCount := rfl
@[simp] theorem State.setRegs_time (h slot : Nat) (r : TRegs) : (s.setRegs h slot r).time = s.time := rfl
@[simp] theorem State.setRegs_power (h slot : Nat) (r : TRegs) : (s.setRegs h slot r).power = s.power := rfl
@[simp] theorem State.setRegs_clocks (h slot : Nat) (r : TRegs) : (s.setRegs h slot r).clocks = s.clocks := rfl
@[simp] theorem State.setRegs_boot (h slot : Nat) (r : TRegs) : (s.setRegs h slot r).boot = s.boot := rfl
@[simp] theorem State.setRegs_legend (h slot : Nat) (r : TRegs) : (s.setRegs h slot r).legend = s.legend := rfl
@[simp] theorem State.setRegs_dev (h slot : Nat) (r : TRegs) : (s.setRegs h slot r).dev = s.dev := rfl
@[simp] theorem State.setRegs_tenants (h slot : Nat) (r : TRegs) : (s.setRegs h slot r).tenants = s.tenants := rfl
@[simp] theorem State.setRegs_flights (h slot : Nat) (r : TRegs) : (s.setRegs h slot r).flights = s.flights := rfl
@[simp] theorem State.setRegs_banks (h slot : Nat) (r : TRegs) : (s.setRegs h slot r).banks = s.banks := rfl
@[simp] theorem State.setRegs_mem (h slot : Nat) (r : TRegs) : (s.setRegs h slot r).mem = s.mem := rfl
@[simp] theorem State.setRegs_timers (h slot : Nat) (r : TRegs) : (s.setRegs h slot r).timers = s.timers := rfl
@[simp] theorem State.setRegs_pins (h slot : Nat) (r : TRegs) : (s.setRegs h slot r).pins = s.pins := rfl
@[simp] theorem State.setRegs_intc (h slot : Nat) (r : TRegs) : (s.setRegs h slot r).intc = s.intc := rfl
@[simp] theorem State.setRegs_dma (h slot : Nat) (r : TRegs) : (s.setRegs h slot r).dma = s.dma := rfl
@[simp] theorem State.setRegs_disp (h slot : Nat) (r : TRegs) : (s.setRegs h slot r).disp = s.disp := rfl
@[simp] theorem State.setRegs_ucode (h slot : Nat) (r : TRegs) : (s.setRegs h slot r).ucode = s.ucode := rfl
@[simp] theorem State.setRegs_cp (h slot : Nat) (r : TRegs) : (s.setRegs h slot r).cp = s.cp := rfl
@[simp] theorem State.setRegs_audio (h slot : Nat) (r : TRegs) : (s.setRegs h slot r).audio = s.audio := rfl
@[simp] theorem State.setRegs_eth (h slot : Nat) (r : TRegs) : (s.setRegs h slot r).eth = s.eth := rfl
@[simp] theorem State.setRegs_peg (h slot : Nat) (r : TRegs) : (s.setRegs h slot r).peg = s.peg := rfl
@[simp] theorem State.setRegs_prerolls (h slot : Nat) (r : TRegs) : (s.setRegs h slot r).prerolls = s.prerolls := rfl

/-! ### State.setCpRegs -/

@[simp] theorem State.setCpRegs_pending (r : TRegs) : (s.setCpRegs r).pending = s.pending := rfl
@[simp] theorem State.setCpRegs_now (r : TRegs) : (s.setCpRegs r).now = s.now := rfl
@[simp] theorem State.setCpRegs_cycle (r : TRegs) : (s.setCpRegs r).cycle = s.cycle := rfl
@[simp] theorem State.setCpRegs_freeCount (r : TRegs) : (s.setCpRegs r).freeCount = s.freeCount := rfl
@[simp] theorem State.setCpRegs_time (r : TRegs) : (s.setCpRegs r).time = s.time := rfl
@[simp] theorem State.setCpRegs_power (r : TRegs) : (s.setCpRegs r).power = s.power := rfl
@[simp] theorem State.setCpRegs_clocks (r : TRegs) : (s.setCpRegs r).clocks = s.clocks := rfl
@[simp] theorem State.setCpRegs_boot (r : TRegs) : (s.setCpRegs r).boot = s.boot := rfl
@[simp] theorem State.setCpRegs_legend (r : TRegs) : (s.setCpRegs r).legend = s.legend := rfl
@[simp] theorem State.setCpRegs_dev (r : TRegs) : (s.setCpRegs r).dev = s.dev := rfl
@[simp] theorem State.setCpRegs_tenants (r : TRegs) : (s.setCpRegs r).tenants = s.tenants := rfl
@[simp] theorem State.setCpRegs_flights (r : TRegs) : (s.setCpRegs r).flights = s.flights := rfl
@[simp] theorem State.setCpRegs_banks (r : TRegs) : (s.setCpRegs r).banks = s.banks := rfl
@[simp] theorem State.setCpRegs_mem (r : TRegs) : (s.setCpRegs r).mem = s.mem := rfl
@[simp] theorem State.setCpRegs_timers (r : TRegs) : (s.setCpRegs r).timers = s.timers := rfl
@[simp] theorem State.setCpRegs_pins (r : TRegs) : (s.setCpRegs r).pins = s.pins := rfl
@[simp] theorem State.setCpRegs_intc (r : TRegs) : (s.setCpRegs r).intc = s.intc := rfl
@[simp] theorem State.setCpRegs_dma (r : TRegs) : (s.setCpRegs r).dma = s.dma := rfl
@[simp] theorem State.setCpRegs_disp (r : TRegs) : (s.setCpRegs r).disp = s.disp := rfl
@[simp] theorem State.setCpRegs_tabs (r : TRegs) : (s.setCpRegs r).tabs = s.tabs := rfl
@[simp] theorem State.setCpRegs_ucode (r : TRegs) : (s.setCpRegs r).ucode = s.ucode := rfl
@[simp] theorem State.setCpRegs_audio (r : TRegs) : (s.setCpRegs r).audio = s.audio := rfl
@[simp] theorem State.setCpRegs_eth (r : TRegs) : (s.setCpRegs r).eth = s.eth := rfl
@[simp] theorem State.setCpRegs_peg (r : TRegs) : (s.setCpRegs r).peg = s.peg := rfl
@[simp] theorem State.setCpRegs_prerolls (r : TRegs) : (s.setCpRegs r).prerolls = s.prerolls := rfl

/-! ### State.setPegRegs -/

@[simp] theorem State.setPegRegs_pending (r : TRegs) : (s.setPegRegs r).pending = s.pending := rfl
@[simp] theorem State.setPegRegs_now (r : TRegs) : (s.setPegRegs r).now = s.now := rfl
@[simp] theorem State.setPegRegs_cycle (r : TRegs) : (s.setPegRegs r).cycle = s.cycle := rfl
@[simp] theorem State.setPegRegs_freeCount (r : TRegs) : (s.setPegRegs r).freeCount = s.freeCount := rfl
@[simp] theorem State.setPegRegs_time (r : TRegs) : (s.setPegRegs r).time = s.time := rfl
@[simp] theorem State.setPegRegs_power (r : TRegs) : (s.setPegRegs r).power = s.power := rfl
@[simp] theorem State.setPegRegs_clocks (r : TRegs) : (s.setPegRegs r).clocks = s.clocks := rfl
@[simp] theorem State.setPegRegs_boot (r : TRegs) : (s.setPegRegs r).boot = s.boot := rfl
@[simp] theorem State.setPegRegs_legend (r : TRegs) : (s.setPegRegs r).legend = s.legend := rfl
@[simp] theorem State.setPegRegs_dev (r : TRegs) : (s.setPegRegs r).dev = s.dev := rfl
@[simp] theorem State.setPegRegs_tenants (r : TRegs) : (s.setPegRegs r).tenants = s.tenants := rfl
@[simp] theorem State.setPegRegs_flights (r : TRegs) : (s.setPegRegs r).flights = s.flights := rfl
@[simp] theorem State.setPegRegs_banks (r : TRegs) : (s.setPegRegs r).banks = s.banks := rfl
@[simp] theorem State.setPegRegs_mem (r : TRegs) : (s.setPegRegs r).mem = s.mem := rfl
@[simp] theorem State.setPegRegs_timers (r : TRegs) : (s.setPegRegs r).timers = s.timers := rfl
@[simp] theorem State.setPegRegs_pins (r : TRegs) : (s.setPegRegs r).pins = s.pins := rfl
@[simp] theorem State.setPegRegs_intc (r : TRegs) : (s.setPegRegs r).intc = s.intc := rfl
@[simp] theorem State.setPegRegs_dma (r : TRegs) : (s.setPegRegs r).dma = s.dma := rfl
@[simp] theorem State.setPegRegs_disp (r : TRegs) : (s.setPegRegs r).disp = s.disp := rfl
@[simp] theorem State.setPegRegs_tabs (r : TRegs) : (s.setPegRegs r).tabs = s.tabs := rfl
@[simp] theorem State.setPegRegs_ucode (r : TRegs) : (s.setPegRegs r).ucode = s.ucode := rfl
@[simp] theorem State.setPegRegs_cp (r : TRegs) : (s.setPegRegs r).cp = s.cp := rfl
@[simp] theorem State.setPegRegs_audio (r : TRegs) : (s.setPegRegs r).audio = s.audio := rfl
@[simp] theorem State.setPegRegs_eth (r : TRegs) : (s.setPegRegs r).eth = s.eth := rfl
@[simp] theorem State.setPegRegs_prerolls (r : TRegs) : (s.setPegRegs r).prerolls = s.prerolls := rfl

/-! ### State.modPeg -/

@[simp] theorem State.modPeg_pending (f : Peg → Peg) : (s.modPeg f).pending = s.pending := rfl
@[simp] theorem State.modPeg_now (f : Peg → Peg) : (s.modPeg f).now = s.now := rfl
@[simp] theorem State.modPeg_cycle (f : Peg → Peg) : (s.modPeg f).cycle = s.cycle := rfl
@[simp] theorem State.modPeg_freeCount (f : Peg → Peg) : (s.modPeg f).freeCount = s.freeCount := rfl
@[simp] theorem State.modPeg_time (f : Peg → Peg) : (s.modPeg f).time = s.time := rfl
@[simp] theorem State.modPeg_power (f : Peg → Peg) : (s.modPeg f).power = s.power := rfl
@[simp] theorem State.modPeg_clocks (f : Peg → Peg) : (s.modPeg f).clocks = s.clocks := rfl
@[simp] theorem State.modPeg_boot (f : Peg → Peg) : (s.modPeg f).boot = s.boot := rfl
@[simp] theorem State.modPeg_legend (f : Peg → Peg) : (s.modPeg f).legend = s.legend := rfl
@[simp] theorem State.modPeg_dev (f : Peg → Peg) : (s.modPeg f).dev = s.dev := rfl
@[simp] theorem State.modPeg_tenants (f : Peg → Peg) : (s.modPeg f).tenants = s.tenants := rfl
@[simp] theorem State.modPeg_flights (f : Peg → Peg) : (s.modPeg f).flights = s.flights := rfl
@[simp] theorem State.modPeg_banks (f : Peg → Peg) : (s.modPeg f).banks = s.banks := rfl
@[simp] theorem State.modPeg_mem (f : Peg → Peg) : (s.modPeg f).mem = s.mem := rfl
@[simp] theorem State.modPeg_timers (f : Peg → Peg) : (s.modPeg f).timers = s.timers := rfl
@[simp] theorem State.modPeg_pins (f : Peg → Peg) : (s.modPeg f).pins = s.pins := rfl
@[simp] theorem State.modPeg_intc (f : Peg → Peg) : (s.modPeg f).intc = s.intc := rfl
@[simp] theorem State.modPeg_dma (f : Peg → Peg) : (s.modPeg f).dma = s.dma := rfl
@[simp] theorem State.modPeg_disp (f : Peg → Peg) : (s.modPeg f).disp = s.disp := rfl
@[simp] theorem State.modPeg_tabs (f : Peg → Peg) : (s.modPeg f).tabs = s.tabs := rfl
@[simp] theorem State.modPeg_ucode (f : Peg → Peg) : (s.modPeg f).ucode = s.ucode := rfl
@[simp] theorem State.modPeg_cp (f : Peg → Peg) : (s.modPeg f).cp = s.cp := rfl
@[simp] theorem State.modPeg_audio (f : Peg → Peg) : (s.modPeg f).audio = s.audio := rfl
@[simp] theorem State.modPeg_eth (f : Peg → Peg) : (s.modPeg f).eth = s.eth := rfl
@[simp] theorem State.modPeg_prerolls (f : Peg → Peg) : (s.modPeg f).prerolls = s.prerolls := rfl

/-! ### State.modI2c -/

@[simp] theorem State.modI2c_pending (f : I2c → I2c) : (s.modI2c f).pending = s.pending := rfl
@[simp] theorem State.modI2c_now (f : I2c → I2c) : (s.modI2c f).now = s.now := rfl
@[simp] theorem State.modI2c_cycle (f : I2c → I2c) : (s.modI2c f).cycle = s.cycle := rfl
@[simp] theorem State.modI2c_freeCount (f : I2c → I2c) : (s.modI2c f).freeCount = s.freeCount := rfl
@[simp] theorem State.modI2c_time (f : I2c → I2c) : (s.modI2c f).time = s.time := rfl
@[simp] theorem State.modI2c_power (f : I2c → I2c) : (s.modI2c f).power = s.power := rfl
@[simp] theorem State.modI2c_clocks (f : I2c → I2c) : (s.modI2c f).clocks = s.clocks := rfl
@[simp] theorem State.modI2c_boot (f : I2c → I2c) : (s.modI2c f).boot = s.boot := rfl
@[simp] theorem State.modI2c_legend (f : I2c → I2c) : (s.modI2c f).legend = s.legend := rfl
@[simp] theorem State.modI2c_dev (f : I2c → I2c) : (s.modI2c f).dev = s.dev := rfl
@[simp] theorem State.modI2c_tenants (f : I2c → I2c) : (s.modI2c f).tenants = s.tenants := rfl
@[simp] theorem State.modI2c_flights (f : I2c → I2c) : (s.modI2c f).flights = s.flights := rfl
@[simp] theorem State.modI2c_banks (f : I2c → I2c) : (s.modI2c f).banks = s.banks := rfl
@[simp] theorem State.modI2c_mem (f : I2c → I2c) : (s.modI2c f).mem = s.mem := rfl
@[simp] theorem State.modI2c_timers (f : I2c → I2c) : (s.modI2c f).timers = s.timers := rfl
@[simp] theorem State.modI2c_pins (f : I2c → I2c) : (s.modI2c f).pins = s.pins := rfl
@[simp] theorem State.modI2c_intc (f : I2c → I2c) : (s.modI2c f).intc = s.intc := rfl
@[simp] theorem State.modI2c_dma (f : I2c → I2c) : (s.modI2c f).dma = s.dma := rfl
@[simp] theorem State.modI2c_disp (f : I2c → I2c) : (s.modI2c f).disp = s.disp := rfl
@[simp] theorem State.modI2c_tabs (f : I2c → I2c) : (s.modI2c f).tabs = s.tabs := rfl
@[simp] theorem State.modI2c_ucode (f : I2c → I2c) : (s.modI2c f).ucode = s.ucode := rfl
@[simp] theorem State.modI2c_cp (f : I2c → I2c) : (s.modI2c f).cp = s.cp := rfl
@[simp] theorem State.modI2c_audio (f : I2c → I2c) : (s.modI2c f).audio = s.audio := rfl
@[simp] theorem State.modI2c_eth (f : I2c → I2c) : (s.modI2c f).eth = s.eth := rfl
@[simp] theorem State.modI2c_prerolls (f : I2c → I2c) : (s.modI2c f).prerolls = s.prerolls := rfl

/-! ### State.modAudio -/

@[simp] theorem State.modAudio_pending (f : Audio → Audio) : (s.modAudio f).pending = s.pending := rfl
@[simp] theorem State.modAudio_now (f : Audio → Audio) : (s.modAudio f).now = s.now := rfl
@[simp] theorem State.modAudio_cycle (f : Audio → Audio) : (s.modAudio f).cycle = s.cycle := rfl
@[simp] theorem State.modAudio_freeCount (f : Audio → Audio) : (s.modAudio f).freeCount = s.freeCount := rfl
@[simp] theorem State.modAudio_time (f : Audio → Audio) : (s.modAudio f).time = s.time := rfl
@[simp] theorem State.modAudio_power (f : Audio → Audio) : (s.modAudio f).power = s.power := rfl
@[simp] theorem State.modAudio_clocks (f : Audio → Audio) : (s.modAudio f).clocks = s.clocks := rfl
@[simp] theorem State.modAudio_boot (f : Audio → Audio) : (s.modAudio f).boot = s.boot := rfl
@[simp] theorem State.modAudio_legend (f : Audio → Audio) : (s.modAudio f).legend = s.legend := rfl
@[simp] theorem State.modAudio_dev (f : Audio → Audio) : (s.modAudio f).dev = s.dev := rfl
@[simp] theorem State.modAudio_tenants (f : Audio → Audio) : (s.modAudio f).tenants = s.tenants := rfl
@[simp] theorem State.modAudio_flights (f : Audio → Audio) : (s.modAudio f).flights = s.flights := rfl
@[simp] theorem State.modAudio_banks (f : Audio → Audio) : (s.modAudio f).banks = s.banks := rfl
@[simp] theorem State.modAudio_mem (f : Audio → Audio) : (s.modAudio f).mem = s.mem := rfl
@[simp] theorem State.modAudio_timers (f : Audio → Audio) : (s.modAudio f).timers = s.timers := rfl
@[simp] theorem State.modAudio_pins (f : Audio → Audio) : (s.modAudio f).pins = s.pins := rfl
@[simp] theorem State.modAudio_intc (f : Audio → Audio) : (s.modAudio f).intc = s.intc := rfl
@[simp] theorem State.modAudio_dma (f : Audio → Audio) : (s.modAudio f).dma = s.dma := rfl
@[simp] theorem State.modAudio_disp (f : Audio → Audio) : (s.modAudio f).disp = s.disp := rfl
@[simp] theorem State.modAudio_tabs (f : Audio → Audio) : (s.modAudio f).tabs = s.tabs := rfl
@[simp] theorem State.modAudio_ucode (f : Audio → Audio) : (s.modAudio f).ucode = s.ucode := rfl
@[simp] theorem State.modAudio_cp (f : Audio → Audio) : (s.modAudio f).cp = s.cp := rfl
@[simp] theorem State.modAudio_eth (f : Audio → Audio) : (s.modAudio f).eth = s.eth := rfl
@[simp] theorem State.modAudio_peg (f : Audio → Audio) : (s.modAudio f).peg = s.peg := rfl
@[simp] theorem State.modAudio_prerolls (f : Audio → Audio) : (s.modAudio f).prerolls = s.prerolls := rfl

/-! ### State.modVoice -/

@[simp] theorem State.modVoice_pending (v : Nat) (f : Voice → Voice) : (s.modVoice v f).pending = s.pending := rfl
@[simp] theorem State.modVoice_now (v : Nat) (f : Voice → Voice) : (s.modVoice v f).now = s.now := rfl
@[simp] theorem State.modVoice_cycle (v : Nat) (f : Voice → Voice) : (s.modVoice v f).cycle = s.cycle := rfl
@[simp] theorem State.modVoice_freeCount (v : Nat) (f : Voice → Voice) : (s.modVoice v f).freeCount = s.freeCount := rfl
@[simp] theorem State.modVoice_time (v : Nat) (f : Voice → Voice) : (s.modVoice v f).time = s.time := rfl
@[simp] theorem State.modVoice_power (v : Nat) (f : Voice → Voice) : (s.modVoice v f).power = s.power := rfl
@[simp] theorem State.modVoice_clocks (v : Nat) (f : Voice → Voice) : (s.modVoice v f).clocks = s.clocks := rfl
@[simp] theorem State.modVoice_boot (v : Nat) (f : Voice → Voice) : (s.modVoice v f).boot = s.boot := rfl
@[simp] theorem State.modVoice_legend (v : Nat) (f : Voice → Voice) : (s.modVoice v f).legend = s.legend := rfl
@[simp] theorem State.modVoice_dev (v : Nat) (f : Voice → Voice) : (s.modVoice v f).dev = s.dev := rfl
@[simp] theorem State.modVoice_tenants (v : Nat) (f : Voice → Voice) : (s.modVoice v f).tenants = s.tenants := rfl
@[simp] theorem State.modVoice_flights (v : Nat) (f : Voice → Voice) : (s.modVoice v f).flights = s.flights := rfl
@[simp] theorem State.modVoice_banks (v : Nat) (f : Voice → Voice) : (s.modVoice v f).banks = s.banks := rfl
@[simp] theorem State.modVoice_mem (v : Nat) (f : Voice → Voice) : (s.modVoice v f).mem = s.mem := rfl
@[simp] theorem State.modVoice_timers (v : Nat) (f : Voice → Voice) : (s.modVoice v f).timers = s.timers := rfl
@[simp] theorem State.modVoice_pins (v : Nat) (f : Voice → Voice) : (s.modVoice v f).pins = s.pins := rfl
@[simp] theorem State.modVoice_intc (v : Nat) (f : Voice → Voice) : (s.modVoice v f).intc = s.intc := rfl
@[simp] theorem State.modVoice_dma (v : Nat) (f : Voice → Voice) : (s.modVoice v f).dma = s.dma := rfl
@[simp] theorem State.modVoice_disp (v : Nat) (f : Voice → Voice) : (s.modVoice v f).disp = s.disp := rfl
@[simp] theorem State.modVoice_tabs (v : Nat) (f : Voice → Voice) : (s.modVoice v f).tabs = s.tabs := rfl
@[simp] theorem State.modVoice_ucode (v : Nat) (f : Voice → Voice) : (s.modVoice v f).ucode = s.ucode := rfl
@[simp] theorem State.modVoice_cp (v : Nat) (f : Voice → Voice) : (s.modVoice v f).cp = s.cp := rfl
@[simp] theorem State.modVoice_eth (v : Nat) (f : Voice → Voice) : (s.modVoice v f).eth = s.eth := rfl
@[simp] theorem State.modVoice_peg (v : Nat) (f : Voice → Voice) : (s.modVoice v f).peg = s.peg := rfl
@[simp] theorem State.modVoice_prerolls (v : Nat) (f : Voice → Voice) : (s.modVoice v f).prerolls = s.prerolls := rfl

/-! ### State.modBus -/

@[simp] theorem State.modBus_pending (b : Nat) (f : Bus → Bus) : (s.modBus b f).pending = s.pending := rfl
@[simp] theorem State.modBus_now (b : Nat) (f : Bus → Bus) : (s.modBus b f).now = s.now := rfl
@[simp] theorem State.modBus_cycle (b : Nat) (f : Bus → Bus) : (s.modBus b f).cycle = s.cycle := rfl
@[simp] theorem State.modBus_freeCount (b : Nat) (f : Bus → Bus) : (s.modBus b f).freeCount = s.freeCount := rfl
@[simp] theorem State.modBus_time (b : Nat) (f : Bus → Bus) : (s.modBus b f).time = s.time := rfl
@[simp] theorem State.modBus_power (b : Nat) (f : Bus → Bus) : (s.modBus b f).power = s.power := rfl
@[simp] theorem State.modBus_clocks (b : Nat) (f : Bus → Bus) : (s.modBus b f).clocks = s.clocks := rfl
@[simp] theorem State.modBus_boot (b : Nat) (f : Bus → Bus) : (s.modBus b f).boot = s.boot := rfl
@[simp] theorem State.modBus_legend (b : Nat) (f : Bus → Bus) : (s.modBus b f).legend = s.legend := rfl
@[simp] theorem State.modBus_dev (b : Nat) (f : Bus → Bus) : (s.modBus b f).dev = s.dev := rfl
@[simp] theorem State.modBus_tenants (b : Nat) (f : Bus → Bus) : (s.modBus b f).tenants = s.tenants := rfl
@[simp] theorem State.modBus_flights (b : Nat) (f : Bus → Bus) : (s.modBus b f).flights = s.flights := rfl
@[simp] theorem State.modBus_banks (b : Nat) (f : Bus → Bus) : (s.modBus b f).banks = s.banks := rfl
@[simp] theorem State.modBus_mem (b : Nat) (f : Bus → Bus) : (s.modBus b f).mem = s.mem := rfl
@[simp] theorem State.modBus_timers (b : Nat) (f : Bus → Bus) : (s.modBus b f).timers = s.timers := rfl
@[simp] theorem State.modBus_pins (b : Nat) (f : Bus → Bus) : (s.modBus b f).pins = s.pins := rfl
@[simp] theorem State.modBus_intc (b : Nat) (f : Bus → Bus) : (s.modBus b f).intc = s.intc := rfl
@[simp] theorem State.modBus_dma (b : Nat) (f : Bus → Bus) : (s.modBus b f).dma = s.dma := rfl
@[simp] theorem State.modBus_disp (b : Nat) (f : Bus → Bus) : (s.modBus b f).disp = s.disp := rfl
@[simp] theorem State.modBus_tabs (b : Nat) (f : Bus → Bus) : (s.modBus b f).tabs = s.tabs := rfl
@[simp] theorem State.modBus_ucode (b : Nat) (f : Bus → Bus) : (s.modBus b f).ucode = s.ucode := rfl
@[simp] theorem State.modBus_cp (b : Nat) (f : Bus → Bus) : (s.modBus b f).cp = s.cp := rfl
@[simp] theorem State.modBus_eth (b : Nat) (f : Bus → Bus) : (s.modBus b f).eth = s.eth := rfl
@[simp] theorem State.modBus_peg (b : Nat) (f : Bus → Bus) : (s.modBus b f).peg = s.peg := rfl
@[simp] theorem State.modBus_prerolls (b : Nat) (f : Bus → Bus) : (s.modBus b f).prerolls = s.prerolls := rfl

/-! ### State.modACap -/

@[simp] theorem State.modACap_pending (b : Nat) (f : ACapture → ACapture) : (s.modACap b f).pending = s.pending := rfl
@[simp] theorem State.modACap_now (b : Nat) (f : ACapture → ACapture) : (s.modACap b f).now = s.now := rfl
@[simp] theorem State.modACap_cycle (b : Nat) (f : ACapture → ACapture) : (s.modACap b f).cycle = s.cycle := rfl
@[simp] theorem State.modACap_freeCount (b : Nat) (f : ACapture → ACapture) : (s.modACap b f).freeCount = s.freeCount := rfl
@[simp] theorem State.modACap_time (b : Nat) (f : ACapture → ACapture) : (s.modACap b f).time = s.time := rfl
@[simp] theorem State.modACap_power (b : Nat) (f : ACapture → ACapture) : (s.modACap b f).power = s.power := rfl
@[simp] theorem State.modACap_clocks (b : Nat) (f : ACapture → ACapture) : (s.modACap b f).clocks = s.clocks := rfl
@[simp] theorem State.modACap_boot (b : Nat) (f : ACapture → ACapture) : (s.modACap b f).boot = s.boot := rfl
@[simp] theorem State.modACap_legend (b : Nat) (f : ACapture → ACapture) : (s.modACap b f).legend = s.legend := rfl
@[simp] theorem State.modACap_dev (b : Nat) (f : ACapture → ACapture) : (s.modACap b f).dev = s.dev := rfl
@[simp] theorem State.modACap_tenants (b : Nat) (f : ACapture → ACapture) : (s.modACap b f).tenants = s.tenants := rfl
@[simp] theorem State.modACap_flights (b : Nat) (f : ACapture → ACapture) : (s.modACap b f).flights = s.flights := rfl
@[simp] theorem State.modACap_banks (b : Nat) (f : ACapture → ACapture) : (s.modACap b f).banks = s.banks := rfl
@[simp] theorem State.modACap_mem (b : Nat) (f : ACapture → ACapture) : (s.modACap b f).mem = s.mem := rfl
@[simp] theorem State.modACap_timers (b : Nat) (f : ACapture → ACapture) : (s.modACap b f).timers = s.timers := rfl
@[simp] theorem State.modACap_pins (b : Nat) (f : ACapture → ACapture) : (s.modACap b f).pins = s.pins := rfl
@[simp] theorem State.modACap_intc (b : Nat) (f : ACapture → ACapture) : (s.modACap b f).intc = s.intc := rfl
@[simp] theorem State.modACap_dma (b : Nat) (f : ACapture → ACapture) : (s.modACap b f).dma = s.dma := rfl
@[simp] theorem State.modACap_disp (b : Nat) (f : ACapture → ACapture) : (s.modACap b f).disp = s.disp := rfl
@[simp] theorem State.modACap_tabs (b : Nat) (f : ACapture → ACapture) : (s.modACap b f).tabs = s.tabs := rfl
@[simp] theorem State.modACap_ucode (b : Nat) (f : ACapture → ACapture) : (s.modACap b f).ucode = s.ucode := rfl
@[simp] theorem State.modACap_cp (b : Nat) (f : ACapture → ACapture) : (s.modACap b f).cp = s.cp := rfl
@[simp] theorem State.modACap_eth (b : Nat) (f : ACapture → ACapture) : (s.modACap b f).eth = s.eth := rfl
@[simp] theorem State.modACap_peg (b : Nat) (f : ACapture → ACapture) : (s.modACap b f).peg = s.peg := rfl
@[simp] theorem State.modACap_prerolls (b : Nat) (f : ACapture → ACapture) : (s.modACap b f).prerolls = s.prerolls := rfl

/-! ### State.modLane -/

@[simp] theorem State.modLane_pending (l : Nat) (f : Lane → Lane) : (s.modLane l f).pending = s.pending := rfl
@[simp] theorem State.modLane_now (l : Nat) (f : Lane → Lane) : (s.modLane l f).now = s.now := rfl
@[simp] theorem State.modLane_cycle (l : Nat) (f : Lane → Lane) : (s.modLane l f).cycle = s.cycle := rfl
@[simp] theorem State.modLane_freeCount (l : Nat) (f : Lane → Lane) : (s.modLane l f).freeCount = s.freeCount := rfl
@[simp] theorem State.modLane_time (l : Nat) (f : Lane → Lane) : (s.modLane l f).time = s.time := rfl
@[simp] theorem State.modLane_power (l : Nat) (f : Lane → Lane) : (s.modLane l f).power = s.power := rfl
@[simp] theorem State.modLane_clocks (l : Nat) (f : Lane → Lane) : (s.modLane l f).clocks = s.clocks := rfl
@[simp] theorem State.modLane_boot (l : Nat) (f : Lane → Lane) : (s.modLane l f).boot = s.boot := rfl
@[simp] theorem State.modLane_legend (l : Nat) (f : Lane → Lane) : (s.modLane l f).legend = s.legend := rfl
@[simp] theorem State.modLane_dev (l : Nat) (f : Lane → Lane) : (s.modLane l f).dev = s.dev := rfl
@[simp] theorem State.modLane_tenants (l : Nat) (f : Lane → Lane) : (s.modLane l f).tenants = s.tenants := rfl
@[simp] theorem State.modLane_flights (l : Nat) (f : Lane → Lane) : (s.modLane l f).flights = s.flights := rfl
@[simp] theorem State.modLane_banks (l : Nat) (f : Lane → Lane) : (s.modLane l f).banks = s.banks := rfl
@[simp] theorem State.modLane_mem (l : Nat) (f : Lane → Lane) : (s.modLane l f).mem = s.mem := rfl
@[simp] theorem State.modLane_timers (l : Nat) (f : Lane → Lane) : (s.modLane l f).timers = s.timers := rfl
@[simp] theorem State.modLane_pins (l : Nat) (f : Lane → Lane) : (s.modLane l f).pins = s.pins := rfl
@[simp] theorem State.modLane_intc (l : Nat) (f : Lane → Lane) : (s.modLane l f).intc = s.intc := rfl
@[simp] theorem State.modLane_dma (l : Nat) (f : Lane → Lane) : (s.modLane l f).dma = s.dma := rfl
@[simp] theorem State.modLane_disp (l : Nat) (f : Lane → Lane) : (s.modLane l f).disp = s.disp := rfl
@[simp] theorem State.modLane_tabs (l : Nat) (f : Lane → Lane) : (s.modLane l f).tabs = s.tabs := rfl
@[simp] theorem State.modLane_ucode (l : Nat) (f : Lane → Lane) : (s.modLane l f).ucode = s.ucode := rfl
@[simp] theorem State.modLane_cp (l : Nat) (f : Lane → Lane) : (s.modLane l f).cp = s.cp := rfl
@[simp] theorem State.modLane_eth (l : Nat) (f : Lane → Lane) : (s.modLane l f).eth = s.eth := rfl
@[simp] theorem State.modLane_peg (l : Nat) (f : Lane → Lane) : (s.modLane l f).peg = s.peg := rfl
@[simp] theorem State.modLane_prerolls (l : Nat) (f : Lane → Lane) : (s.modLane l f).prerolls = s.prerolls := rfl

/-! ### State.modEth -/

@[simp] theorem State.modEth_pending (m : Nat) (f : Eth → Eth) : (s.modEth m f).pending = s.pending := rfl
@[simp] theorem State.modEth_now (m : Nat) (f : Eth → Eth) : (s.modEth m f).now = s.now := rfl
@[simp] theorem State.modEth_cycle (m : Nat) (f : Eth → Eth) : (s.modEth m f).cycle = s.cycle := rfl
@[simp] theorem State.modEth_freeCount (m : Nat) (f : Eth → Eth) : (s.modEth m f).freeCount = s.freeCount := rfl
@[simp] theorem State.modEth_time (m : Nat) (f : Eth → Eth) : (s.modEth m f).time = s.time := rfl
@[simp] theorem State.modEth_power (m : Nat) (f : Eth → Eth) : (s.modEth m f).power = s.power := rfl
@[simp] theorem State.modEth_clocks (m : Nat) (f : Eth → Eth) : (s.modEth m f).clocks = s.clocks := rfl
@[simp] theorem State.modEth_boot (m : Nat) (f : Eth → Eth) : (s.modEth m f).boot = s.boot := rfl
@[simp] theorem State.modEth_legend (m : Nat) (f : Eth → Eth) : (s.modEth m f).legend = s.legend := rfl
@[simp] theorem State.modEth_dev (m : Nat) (f : Eth → Eth) : (s.modEth m f).dev = s.dev := rfl
@[simp] theorem State.modEth_tenants (m : Nat) (f : Eth → Eth) : (s.modEth m f).tenants = s.tenants := rfl
@[simp] theorem State.modEth_flights (m : Nat) (f : Eth → Eth) : (s.modEth m f).flights = s.flights := rfl
@[simp] theorem State.modEth_banks (m : Nat) (f : Eth → Eth) : (s.modEth m f).banks = s.banks := rfl
@[simp] theorem State.modEth_mem (m : Nat) (f : Eth → Eth) : (s.modEth m f).mem = s.mem := rfl
@[simp] theorem State.modEth_timers (m : Nat) (f : Eth → Eth) : (s.modEth m f).timers = s.timers := rfl
@[simp] theorem State.modEth_pins (m : Nat) (f : Eth → Eth) : (s.modEth m f).pins = s.pins := rfl
@[simp] theorem State.modEth_intc (m : Nat) (f : Eth → Eth) : (s.modEth m f).intc = s.intc := rfl
@[simp] theorem State.modEth_dma (m : Nat) (f : Eth → Eth) : (s.modEth m f).dma = s.dma := rfl
@[simp] theorem State.modEth_disp (m : Nat) (f : Eth → Eth) : (s.modEth m f).disp = s.disp := rfl
@[simp] theorem State.modEth_tabs (m : Nat) (f : Eth → Eth) : (s.modEth m f).tabs = s.tabs := rfl
@[simp] theorem State.modEth_ucode (m : Nat) (f : Eth → Eth) : (s.modEth m f).ucode = s.ucode := rfl
@[simp] theorem State.modEth_cp (m : Nat) (f : Eth → Eth) : (s.modEth m f).cp = s.cp := rfl
@[simp] theorem State.modEth_audio (m : Nat) (f : Eth → Eth) : (s.modEth m f).audio = s.audio := rfl
@[simp] theorem State.modEth_peg (m : Nat) (f : Eth → Eth) : (s.modEth m f).peg = s.peg := rfl
@[simp] theorem State.modEth_prerolls (m : Nat) (f : Eth → Eth) : (s.modEth m f).prerolls = s.prerolls := rfl

/-! ### State.modBoot -/

@[simp] theorem State.modBoot_pending (f : Boot → Boot) : (s.modBoot f).pending = s.pending := rfl
@[simp] theorem State.modBoot_now (f : Boot → Boot) : (s.modBoot f).now = s.now := rfl
@[simp] theorem State.modBoot_cycle (f : Boot → Boot) : (s.modBoot f).cycle = s.cycle := rfl
@[simp] theorem State.modBoot_freeCount (f : Boot → Boot) : (s.modBoot f).freeCount = s.freeCount := rfl
@[simp] theorem State.modBoot_time (f : Boot → Boot) : (s.modBoot f).time = s.time := rfl
@[simp] theorem State.modBoot_power (f : Boot → Boot) : (s.modBoot f).power = s.power := rfl
@[simp] theorem State.modBoot_clocks (f : Boot → Boot) : (s.modBoot f).clocks = s.clocks := rfl
@[simp] theorem State.modBoot_legend (f : Boot → Boot) : (s.modBoot f).legend = s.legend := rfl
@[simp] theorem State.modBoot_dev (f : Boot → Boot) : (s.modBoot f).dev = s.dev := rfl
@[simp] theorem State.modBoot_tenants (f : Boot → Boot) : (s.modBoot f).tenants = s.tenants := rfl
@[simp] theorem State.modBoot_flights (f : Boot → Boot) : (s.modBoot f).flights = s.flights := rfl
@[simp] theorem State.modBoot_banks (f : Boot → Boot) : (s.modBoot f).banks = s.banks := rfl
@[simp] theorem State.modBoot_mem (f : Boot → Boot) : (s.modBoot f).mem = s.mem := rfl
@[simp] theorem State.modBoot_timers (f : Boot → Boot) : (s.modBoot f).timers = s.timers := rfl
@[simp] theorem State.modBoot_pins (f : Boot → Boot) : (s.modBoot f).pins = s.pins := rfl
@[simp] theorem State.modBoot_intc (f : Boot → Boot) : (s.modBoot f).intc = s.intc := rfl
@[simp] theorem State.modBoot_dma (f : Boot → Boot) : (s.modBoot f).dma = s.dma := rfl
@[simp] theorem State.modBoot_disp (f : Boot → Boot) : (s.modBoot f).disp = s.disp := rfl
@[simp] theorem State.modBoot_tabs (f : Boot → Boot) : (s.modBoot f).tabs = s.tabs := rfl
@[simp] theorem State.modBoot_ucode (f : Boot → Boot) : (s.modBoot f).ucode = s.ucode := rfl
@[simp] theorem State.modBoot_cp (f : Boot → Boot) : (s.modBoot f).cp = s.cp := rfl
@[simp] theorem State.modBoot_audio (f : Boot → Boot) : (s.modBoot f).audio = s.audio := rfl
@[simp] theorem State.modBoot_eth (f : Boot → Boot) : (s.modBoot f).eth = s.eth := rfl
@[simp] theorem State.modBoot_peg (f : Boot → Boot) : (s.modBoot f).peg = s.peg := rfl
@[simp] theorem State.modBoot_prerolls (f : Boot → Boot) : (s.modBoot f).prerolls = s.prerolls := rfl

/-! ### State.tick -/

@[simp] theorem State.tick_pending (dt : Nat) : (s.tick dt).pending = s.pending := by unfold State.tick; dsimp only; split <;> rfl
@[simp] theorem State.tick_freeCount (dt : Nat) : (s.tick dt).freeCount = s.freeCount := by unfold State.tick; dsimp only; split <;> rfl
@[simp] theorem State.tick_time (dt : Nat) : (s.tick dt).time = s.time := by unfold State.tick; dsimp only; split <;> rfl
@[simp] theorem State.tick_power (dt : Nat) : (s.tick dt).power = s.power := by unfold State.tick; dsimp only; split <;> rfl
@[simp] theorem State.tick_clocks (dt : Nat) : (s.tick dt).clocks = s.clocks := by unfold State.tick; dsimp only; split <;> rfl
@[simp] theorem State.tick_boot (dt : Nat) : (s.tick dt).boot = s.boot := by unfold State.tick; dsimp only; split <;> rfl
@[simp] theorem State.tick_legend (dt : Nat) : (s.tick dt).legend = s.legend := by unfold State.tick; dsimp only; split <;> rfl
@[simp] theorem State.tick_dev (dt : Nat) : (s.tick dt).dev = s.dev := by unfold State.tick; dsimp only; split <;> rfl
@[simp] theorem State.tick_tenants (dt : Nat) : (s.tick dt).tenants = s.tenants := by unfold State.tick; dsimp only; split <;> rfl
@[simp] theorem State.tick_flights (dt : Nat) : (s.tick dt).flights = s.flights := by unfold State.tick; dsimp only; split <;> rfl
@[simp] theorem State.tick_banks (dt : Nat) : (s.tick dt).banks = s.banks := by unfold State.tick; dsimp only; split <;> rfl
@[simp] theorem State.tick_mem (dt : Nat) : (s.tick dt).mem = s.mem := by unfold State.tick; dsimp only; split <;> rfl
@[simp] theorem State.tick_timers (dt : Nat) : (s.tick dt).timers = s.timers := by unfold State.tick; dsimp only; split <;> rfl
@[simp] theorem State.tick_pins (dt : Nat) : (s.tick dt).pins = s.pins := by unfold State.tick; dsimp only; split <;> rfl
@[simp] theorem State.tick_intc (dt : Nat) : (s.tick dt).intc = s.intc := by unfold State.tick; dsimp only; split <;> rfl
@[simp] theorem State.tick_dma (dt : Nat) : (s.tick dt).dma = s.dma := by unfold State.tick; dsimp only; split <;> rfl
@[simp] theorem State.tick_disp (dt : Nat) : (s.tick dt).disp = s.disp := by unfold State.tick; dsimp only; split <;> rfl
@[simp] theorem State.tick_tabs (dt : Nat) : (s.tick dt).tabs = s.tabs := by unfold State.tick; dsimp only; split <;> rfl
@[simp] theorem State.tick_ucode (dt : Nat) : (s.tick dt).ucode = s.ucode := by unfold State.tick; dsimp only; split <;> rfl
@[simp] theorem State.tick_cp (dt : Nat) : (s.tick dt).cp = s.cp := by unfold State.tick; dsimp only; split <;> rfl
@[simp] theorem State.tick_audio (dt : Nat) : (s.tick dt).audio = s.audio := by unfold State.tick; dsimp only; split <;> rfl
@[simp] theorem State.tick_eth (dt : Nat) : (s.tick dt).eth = s.eth := by unfold State.tick; dsimp only; split <;> rfl
@[simp] theorem State.tick_peg (dt : Nat) : (s.tick dt).peg = s.peg := by unfold State.tick; dsimp only; split <;> rfl
@[simp] theorem State.tick_prerolls (dt : Nat) : (s.tick dt).prerolls = s.prerolls := by unfold State.tick; dsimp only; split <;> rfl

/-! ### What the plain updates write -/

@[simp] theorem State.modDisp_disp (f : Display → Display) : (s.modDisp f).disp = f s.disp := rfl
@[simp] theorem State.modPeg_peg (f : Peg → Peg) : (s.modPeg f).peg = f s.peg := rfl
@[simp] theorem State.modAudio_audio (f : Audio → Audio) : (s.modAudio f).audio = f s.audio := rfl
@[simp] theorem State.modBoot_boot (f : Boot → Boot) : (s.modBoot f).boot = f s.boot := rfl
@[simp] theorem State.modCal_cal (f : Calendar → Calendar) : (s.modCal f).time.cal = f s.time.cal := rfl
@[simp] theorem State.setCpRegs_regs (r : TRegs) : (s.setCpRegs r).cp.regs = r := rfl
@[simp] theorem State.setPegRegs_regs (r : TRegs) : (s.setPegRegs r).peg.regs = r := rfl
@[simp] theorem State.modHead_head (h : Nat) (f : Head → Head) : (s.modHead h f).head h = f (s.head h) :=
  IMap.get_put_same ..
@[simp] theorem State.modCluster_cluster (n : Nat) (f : Cluster → Cluster) : (s.modCluster n f).cluster n = f (s.cluster n) :=
  IMap.get_put_same ..
@[simp] theorem State.modPort_portAt (p : Nat) (f : Port → Port) : (s.modPort p f).portAt p = f (s.portAt p) :=
  IMap.get_put_same ..
@[simp] theorem State.modTabs_headTabs (h : Nat) (f : HeadTabs → HeadTabs) : (s.modTabs h f).headTabs h = f (s.headTabs h) :=
  IMap.get_put_same ..
@[simp] theorem State.modBank_bank (b : Nat) (f : Bank → Bank) : (s.modBank b f).bank b = f (s.bank b) := IMap.get_put_same ..
@[simp] theorem State.modSrc_src (i : Nat) (f : IntSrc → IntSrc) : (s.modSrc i f).src i = f (s.src i) := IMap.get_put_same ..
@[simp] theorem State.modPin_pin (p : Nat) (f : Pin → Pin) : (s.modPin p f).pin p = f (s.pin p) := IMap.get_put_same ..
@[simp] theorem State.modDma_dmaCh (n : Nat) (f : DmaChannel → DmaChannel) : (s.modDma n f).dmaCh n = f (s.dmaCh n) :=
  IMap.get_put_same ..
@[simp] theorem State.modVoice_voice (v : Nat) (f : Voice → Voice) : (s.modVoice v f).voice v = f (s.voice v) :=
  IMap.get_put_same ..
@[simp] theorem State.modBus_bus (b : Nat) (f : Bus → Bus) : (s.modBus b f).bus b = f (s.bus b) := IMap.get_put_same ..
@[simp] theorem State.modLane_lane (l : Nat) (f : Lane → Lane) : (s.modLane l f).lane l = f (s.lane l) := IMap.get_put_same ..
@[simp] theorem State.setBucket_bucket (t : Nat) (b : Bucket) : (s.setBucket t b).bucket t = b := IMap.get_put_same ..
@[simp] theorem State.setBucket_dmaCh (t : Nat) (b : Bucket) (n : Nat) : (s.setBucket t b).dmaCh n = s.dmaCh n := rfl

end Sys2Proof.Machine
end

