-- ==== Sys2Proof/Laws/Windows.lean ====
section
/-! SUPPORT. The register windows meet the bounds of R37: every unit has its place, no window overlaps another, each holds
the registers of its unit, and all lie in the register range. -/

namespace Sys2Proof.Machine

theorem cons_eraseIdx_perm (us : List (Nat × Nat)) (i : Nat) (h : i < us.length) : (us[i] :: us.eraseIdx i).Perm us := by
  induction us generalizing i with
  | nil => cases h
  | cons u us ih =>
    cases i with
    | zero => exact .refl _
    | succ i => exact (List.Perm.swap _ _ _).trans ((ih i (Nat.lt_of_succ_lt_succ h)).cons u)

theorem inSomeOrder_perm (pick : Nat → Nat) : ∀ us : List (Nat × Nat), (inSomeOrder pick us.length us).Perm us := by
  intro us
  generalize hn : us.length = n
  induction n generalizing us with
  | zero => rw [List.length_eq_zero_iff.mp hn]; exact .refl _
  | succ n ih =>
    have hi : pick n % max 1 us.length < us.length := by
      have := Nat.mod_lt (pick n) (show 0 < max 1 us.length by omega)
      omega
    unfold inSomeOrder
    simp only [List.getElem?_eq_getElem hi]
    have hl : (us.eraseIdx (pick n % max 1 us.length)).length = n := by
      rw [List.length_eraseIdx_of_lt hi]; omega
    exact ((ih _ hl).cons _).trans (cons_eraseIdx_perm us _ hi)

/-- What the pages of the windows of `placeWindows us at_ left` meet. -/
theorem placeWindows_spec (us : List (Nat × Nat)) : ∀ (at_ left : Nat),
    (placeWindows us at_ left).map Prod.fst = us ∧
    (placeWindows us at_ left).Pairwise (fun a b => a.2.1 + a.2.2 ≤ b.2.1) ∧
    ∀ w ∈ placeWindows us at_ left, at_ ≤ w.2.1 ∧ windowNeed w.1.1 ≤ w.2.2 ∧ w.2.2 ≤ 0xFFF ∧
      w.2.1 + w.2.2 ≤ at_ + left + (us.map (fun u => windowNeed u.1)).sum := by
  induction us with
  | nil => intro _ _; simp [placeWindows]
  | cons u us ih =>
    intro at_ left
    have hn : windowNeed u.1 ≤ 2 := by
      unfold windowNeed
      repeat' split
      all_goals omega
    have hg := Nat.mod_lt (Config.windowGap us.length) (show 0 < left + 1 by omega)
    simp only [placeWindows]
    generalize Config.windowGap us.length % (left + 1) = gap at *
    have hs := Nat.mod_lt (Config.windowSpare us.length)
      (show 0 < min (left - gap) (0xFFF - windowNeed u.1) + 1 by omega)
    generalize Config.windowSpare us.length % _ = spare at *
    obtain ⟨h1, h2, h3⟩ := ih (at_ + gap + windowNeed u.1 + spare) (left - gap - spare)
    refine ⟨by simp only [List.map_cons, h1], ?_, ?_⟩
    · refine List.pairwise_cons.mpr ⟨fun w hw => ?_, h2⟩
      have := (h3 w hw).1
      simp only
      omega
    · intro w hw
      simp only [List.mem_cons] at hw
      simp only [List.map_cons, List.sum_cons]
      rcases hw with rfl | hw
      · simp only
        omega
      · have := h3 w hw
        omega

/-- Every unit has one place among the windows. -/
theorem windows_perm : (windows.map Prod.fst).Perm
    ([(0x0001, 0), (0x0002, 0), (0x0003, 0), (0x0003, 1), (0x0004, 0), (0x0004, 1)] ++
      (List.range 10).map (fun n => (0x0005, n)) ++ laterUnits) := by
  unfold windows windowUnits
  simp only
  rw [(placeWindows_spec _ _ _).1]
  exact inSomeOrder_perm ..

/-- The windows lie in the register range, hold what their units need, and none overlaps another. -/
theorem windows_bounds : windows.Pairwise (fun a b => a.2.1 + a.2.2 ≤ b.2.1) ∧
    ∀ w ∈ windows, windowNeed w.1.1 ≤ w.2.2 ∧ w.2.2 ≤ 0xFFF ∧ w.2.1 + w.2.2 ≤ 65536 := by
  have hs : (windowUnits.map (fun u => windowNeed u.1)).sum ≤ 65536 := by
    unfold windowUnits
    simp only
    rw [((inSomeOrder_perm Config.windowPick _).map _).sum_nat]
    decide +kernel
  obtain ⟨_, h2, h3⟩ := placeWindows_spec windowUnits 0 (65536 - (windowUnits.map (fun u => windowNeed u.1)).sum)
  refine ⟨h2, fun w hw => ?_⟩
  have := h3 w hw
  omega

/-- An address in a unit's window is that unit's. -/
theorem unitAt_window {w : (Nat × Nat) × Nat × Nat} (hw : w ∈ windows) {off : Nat} (h : off < w.2.2 * 4096) :
    unitAt (w.2.1 * 4096 + off) = some (w.1, off) := by
  unfold unitAt
  have hp := windows_bounds.1
  have key : windows.find? (fun v => decide (v.2.1 * 4096 ≤ w.2.1 * 4096 + off) &&
      decide (w.2.1 * 4096 + off < (v.2.1 + v.2.2) * 4096)) = some w := by
    generalize windows = ws at hw hp
    induction ws with
    | nil => exact absurd hw List.not_mem_nil
    | cons v ws ih =>
      rw [List.pairwise_cons] at hp
      rcases List.mem_cons.mp hw with rfl | hw
      · rw [List.find?_cons_of_pos]
        simp only [Bool.and_eq_true, decide_eq_true_eq]
        omega
      · rw [List.find?_cons_of_neg]
        · exact ih hw hp.2
        · have := hp.1 w hw
          simp only [Bool.and_eq_true, decide_eq_true_eq]
          omega
  rw [key]
  simp only [Option.map_some, Nat.add_sub_cancel_left]

end Sys2Proof.Machine
end

