-- ==== Sys2Proof/Tests/Slice0.lean ====
section
/-! SUPPORT. Tests of the model: ill-formed terms that each check of `Instr.wf` refuses, states and operands that meet the
hypotheses of the obligations, and small tests of single steps whose expected results come from the spec's text and
worked examples. -/

namespace Sys2Proof.Tests
set_option Elab.async false
open Sys2Proof.Machine

/-! ### States and commands to test with -/

/-- A command entry of tenant `t` whose payload fields are given as offset, size in bytes and value. -/
def cmd (t : Nat) (fs : List (Nat × Nat × Nat)) : Cmd :=
  { tenant := t, index := 0, flags := 0, tag := 7, dt := 0
    payload := (List.range 56).map (fun i =>
      match fs.find? (fun f => f.1 ≤ i + 8 && i + 8 < f.1 + f.2.1) with
      | some f => BitVec.ofNat 8 (f.2.2 / 256 ^ (i + 8 - f.1))
      | none => 0) }

/-- A part whose firmware is ready, in Drive mode, with the tenants 0, 1 and 2 and their mailboxes running. -/
def ready : State :=
  let box : Mailbox := { state := .running, usable := true }
  { State.reset with
    now := 1000000
    time := { running := true }
    boot := { stage := .running, resetLow := false, copy := 1, fwReady := true, lifecycle := .secured, pcieUp := true }
    tenants := [(0, { pasid := 16, quotas := {}, mbox := box }), (1, { pasid := 17, quotas := {}, mbox := box }),
      (2, { pasid := 40, quotas := {}, mbox := box })] }

/-- A state in which a command has been fetched and waits for its turn. -/
def sent (s : State) (c : Cmd) (op : Nat) : State := { s with flights := [{ cmd := c, opcode := op, stage := .fetched }] }

/-- A command that has been fetched is accepted. -/
def accepted (s : State) (c : Cmd) (op : Nat) (p : Privilege) (body : Cmd → CmdRef → State → CmdRes) (hi : Nat := 0) : Bool :=
  (sent s c op).accepts c op p 0 hi body

/-! ### Commands that the CP accepts: the hypotheses of the completion statements -/

/-- 320 by 240 in totals of 400 by 400 at 20 MHz, the example of many chapters. -/
def small : Timing :=
  { deadline := 500, rate := 20000000, hA := 320, hF := 16, hS := 32, hB := 32, vA := 240, vF := 10, vS := 5, vB := 145,
    hPos := false, vPos := false }

/-- A head that composes under `small` on cluster 0. -/
def lit : Head := { timing := some small, state := .composing, cluster := some 0, frames := 5, line := 100, vrrMin := 125 }

/-- A part with head 0 lit and a viewport on it for each tenant. -/
def lighted : State :=
  let area : Rect := { x := 0, y := 0, w := 320, h := 240 }
  ({ ready with disp := { ready.disp with clusters := [(0, { service := .active, head := some 0 })] } } : State).modHead 0
    (fun _ => { lit with viewports := [(0, area), (1, area), (2, area)] })

theorem witness_tenant_commands :
    accepted ready (cmd 2 []) 0x0101 .anyone nopBody = true ∧
    accepted ready (cmd 0 [(0x08, 2, 1023), (0x0C, 4, 0xFFFFF), (0x10, 2, 0xFFFF), (0x12, 2, 0xFFFF), (0x14, 2, 0xFFFF),
      (0x16, 1, 255), (0x17, 1, 255), (0x18, 4, 0xFFFFFFFF)]) 0x0102 .platform tenantCreateBody = true ∧
    accepted ready (cmd 0 [(0x08, 2, 2)]) 0x0103 .platform tenantDestroyBody = true ∧
    accepted ready (cmd 0 [(0x08, 2, 2), (0x10, 2, 4096), (0x12, 2, 0), (0x14, 2, 160), (0x16, 1, 96), (0x17, 1, 48),
      (0x18, 4, 0x2000000)]) 0x0104 .platform quotaSetBody = true ∧
    accepted lighted (cmd 0 [(0x08, 2, 2), (0x0A, 1, 0), (0x0C, 2, 319), (0x0E, 2, 239), (0x10, 2, 1), (0x12, 2, 1)])
      0x0105 .platform viewportSetBody = true ∧
    accepted ready (cmd 2 [(0x08, 2, 0x0801), (0x0A, 1, 1), (0x0B, 1, 1), (0x0C, 4, 7)]) 0x0108 .anyone
      eventSubscribeBody = true ∧
    accepted ready (cmd 2 []) 0x0109 .anyone tenantQueryBody = true := by
  refine ⟨?_, ?_, ?_, ?_, ?_, ?_, ?_⟩ <;> decide +kernel

/-- A register command whose address is the first of a bank's window or of a port's, wherever the part has it. -/
def regCmd (a : Nat) : Cmd :=
  { tenant := 0, index := 0, flags := 0, tag := 7, dt := 0
    payload := leBytes 4 a ++ [1, 0, 0, 0] ++ List.replicate 48 0 }

/-- A platform command that waits alone and whose own checks pass is accepted. -/
theorem accepted_of {s : State} {c : Cmd} {op hi : Nat} {body : Cmd → CmdRef → State → CmdRes}
    (hr : s.cpRuns = true)
    (hl : s.boot.lifecycle ≠ .returned) (ht : c.tenant = 0) (hd : c.dt = 0)
    (hx : bits c.flags.toNat 15 8 = 0 ∧ bits c.flags.toNat 3 1 = 0 ∧ c.ext ≤ hi) (hk : knownOpcode op = true)
    (hb : ∀ s', s'.disp = s.disp → s'.boot = s.boot → s'.power = s.power → (body c (c.ref op) s').isOk = true) :
    accepted s c op .platform body hi = true := by
  have hf' : ((sent s c op).tick 0).isFetched c (c.ref op) = true := by
    simp [State.isFetched, sent, Flight.is, Flight.holdsCmd, Cmd.ref, State.tick]
  have hn : nextReady [] ((sent s c op).tick 0).flights = some { cmd := c, opcode := op, stage := .fetched } := by
    simp [nextReady, Flight.ready, sent]
  have hu : ((sent s c op).tick 0).turned = (sent s c op).tick 0 := by
    rw [State.turned, show ((sent s c op).tick 0).flights.length = 1 by simp [sent], State.rejectUnknown, hn]
    simp [hk]
  have ht' : (sent s c op).fetched c op = (sent s c op).tick 0 := by
    unfold State.fetched
    rw [hd, hu]
    exact if_pos hf'
  have hm : ((sent s c op).tick 0).mayProcess c (c.ref op) = true := by
    unfold State.mayProcess
    rw [hf', hn]
    simpa [State.cpRuns, sent, State.tick, Flight.is, Cmd.ref] using hr
  have hh : headerCheck op .platform 0 hi c ((sent s c op).turn c op) = .ok () := by
    unfold headerCheck State.turn
    rw [ht', if_neg, if_neg]
    · rintro (h | h | h | h)
      · exact h hx.1
      · exact h hx.2.1
      · exact absurd h (by omega)
      · exact absurd hx.2.2 (by omega)
    · rintro (h | h | h)
      · exact h.2 ht
      · exact absurd h.1 (by decide)
      · exact hl (by simpa [sent, State.setStage] using h.1)
  unfold accepted State.accepts
  rw [ht', hm, hh, hb _ (by unfold State.turn; rw [ht']; simp [sent, State.setStage]) (by unfold State.turn; rw [ht']; simp [sent, State.setStage])
    (by unfold State.turn; rw [ht']; simp [sent, State.setStage])]
  rfl

/-- The window of a bank unit, wherever the part has it. -/
theorem a_window (u : Nat × Nat) (hu : u ∈ [((0x0302, 3) : Nat × Nat), (0x030B, 1)]) :
    ∃ a, a % 4 = 0 ∧ a < 2 ^ 32 ∧ unitAt a = some (u, 0) := by
  have : u ∈ windows.map Prod.fst := windows_perm.mem_iff.mpr (by
    simp only [List.mem_cons, List.not_mem_nil, or_false] at hu
    rcases hu with rfl | rfl <;> decide +kernel)
  obtain ⟨w, hw, rfl⟩ := List.mem_map.mp this
  have hb := windows_bounds.2 w hw
  have hn : windowNeed w.1.1 = 1 := by
    simp only [List.mem_cons, List.not_mem_nil, or_false] at hu
    rcases hu with h | h <;> rw [h] <;> decide +kernel
  have h := unitAt_window hw (off := 0) (by omega)
  rw [Nat.add_zero] at h
  exact ⟨w.2.1 * 4096, by omega, by omega, h⟩

theorem witness_register_commands : ∃ a b, accepted ready (regCmd a) 0x0106 .platform regReadBody = true ∧
    accepted ready (regCmd b) 0x0107 .platform regWriteBody = true := by
  obtain ⟨a, ha, la, ua⟩ := a_window _ (.head _)
  obtain ⟨b, hb, lb, ub⟩ := a_window _ (.tail _ (.head _))
  have hu : ∀ x < 2 ^ 32, (regCmd x).u32 0x08 = x := fun x hx => by
    have : (regCmd x).u32 0x08 = leNat (leBytes 4 x) := by simp [Cmd.u32, fieldU, slice, regCmd, leBytes]
    rw [this, leNat_leBytes]
    omega
  have ok : ∀ x op body, knownOpcode op = true → (∀ s', s'.disp = ready.disp → s'.boot = ready.boot → s'.power = ready.power →
      (body (regCmd x) ((regCmd x).ref op) s').isOk = true) → accepted ready (regCmd x) op .platform body = true :=
    fun x op body hk h => accepted_of (by decide) (by decide) rfl rfl ⟨by simp [regCmd, bits], by simp [regCmd, bits], by simp [Cmd.ext, regCmd, bits]⟩ hk h
  refine ⟨a, b, ok _ _ _ (by decide) fun s hd hs _ => ?_, ok _ _ _ (by decide) fun s hd hs _ => ?_⟩
  · have h1 : (regCmd a).reserved [(0x08, 4), (0x0C, 1)] = .ok () := by
      simp [Cmd.reserved, regCmd, reservedAux, slice, leBytes, fieldHas, Cmd.ext, bits]
    have h2 : (regCmd a).u8 0x0C = 1 := by
      simp [Cmd.u8, fieldU, slice, regCmd, leBytes, leNat]
    simp only [regReadBody, regRange, h1, h2, hu a la, need, ha, listedRegs]
    simp [ua, readListed, okDone, Except.isOk]
    rfl
  · have h1 : (regCmd b).reserved [(0x08, 4), (0x0C, 1), (0x10, 32)] = .ok () := by
      simp [Cmd.reserved, regCmd, reservedAux, slice, leBytes, fieldHas, Cmd.ext, bits]
    have h2 : (regCmd b).u8 0x0C = 1 := by simp [Cmd.u8, fieldU, slice, regCmd, leBytes, leNat]
    simp only [regWriteBody, regRange, h1, h2, hu b lb, need, hb, listedRegs]
    simp [ub, writeListed, okDone, Except.isOk]
    rfl

/-- Each tenant has the 64 KiB page at 0x10_0000 mapped to the first page of the stacked DRAM; tenant 2 has bank 3 and
planes of the four kinds on head 0; at 0x10_1000 stand scaler coefficients whose sums are 256, and at 0x10_2000 the
decode-table entry of chapter 09's worked example, with its micro-ops. -/
def planed : State :=
  let page := newLeaves 0x100000 0x10000 3 false true true [dramBase]
  let s := { lighted with tenants := lighted.tenants.map (fun (e : Nat × Tenant) => (e.1, { e.2 with atlas := ({} : AtlasTables).addAll e.1 page })) }
  let s := s.modHead 0 (fun x => { x with
    gens := [(0, 1), (12, 1), (16, 1), (20, 1), (28, 1)]
    planes := [(0, { gen := 1, owner := 2, z := 0, cls := 0, affine := false }),
      (16, { gen := 1, owner := 2, z := 1, cls := 0, affine := false }),
      (20, { gen := 1, owner := 2, z := 2, cls := 0, affine := false }),
      (28, { gen := 1, owner := 2, z := 3, cls := 0, affine := false })] })
  { s with
    banks := [(3, { cls := 1, inst := 2 })]
    mem := { s.mem with phys := (List.range 64).map (fun i => (dramBase + 0x1000 + 16 * i + 1, 1)) ++
      (List.range 64).map (fun i => (dramBase + 0x1400 + 12 * i + 1, 1)) ++
      [(0x2000, 0x40), (0x2001, 0x04), (0x2002, 0x18), (0x2003, 0x03), (0x2203, 0x10), (0x2204, 0x80), (0x2205, 0x12),
        (0x2209, 0x10), (0x220B, 0x80)].map (fun c => (dramBase + c.1, BitVec.ofNat 8 c.2)) } }

theorem witness_atlas_commands :
    accepted planed (cmd 2 [(0x08, 8, 0x200000), (0x10, 8, 0x200000), (0x18, 8, 0x123400000), (0x20, 1, 1), (0x21, 1, 1),
      (0x22, 1, 3)]) 0x0201 .anyone atlasMapBody = true ∧
    accepted planed (cmd 2 [(0x08, 8, 0x200000), (0x10, 8, 0x10000), (0x18, 8, 0x3F0000), (0x20, 1, 4), (0x22, 1, 1),
      (0x23, 1, 3)]) 0x0201 .anyone atlasMapBody = true ∧
    accepted planed (cmd 2 [(0x08, 8, 0x200000), (0x10, 8, 0x20000), (0x20, 1, 3), (0x22, 1, 2)]) 0x0201 .anyone
      atlasMapBody = true ∧
    accepted planed (cmd 2 [(0x08, 8, 0x100000), (0x10, 8, 0x10000)]) 0x0202 .anyone atlasUnmapBody = true ∧
    accepted planed (cmd 0 [(0x08, 1, 15), (0x09, 1, 1), (0x0A, 2, 1023)]) 0x0203 .platform bankAssignBody = true := by
  refine ⟨?_, ?_, ?_, ?_, ?_⟩ <;> decide +kernel

theorem witness_plane_commands :
    accepted planed (cmd 2 [(0x08, 1, 0), (0x09, 1, 3), (0x0A, 1, 31), (0x0B, 1, 3)]) 0x0301 .anyone planeCreateBody = true ∧
    accepted planed (cmd 2 [(0x08, 4, 0x10000)]) 0x0302 .anyone planeDestroyBody = true ∧
    accepted planed (cmd 2 [(0x08, 4, 0x10000), (0x0C, 1, 0xF), (0x0E, 1, 5), (0x10, 2, 319), (0x12, 2, 239), (0x14, 2, 1),
      (0x16, 2, 1), (0x18, 8, 0x100000), (0x20, 8, 0x101000), (0x28, 2, 4096), (0x2A, 2, 1), (0x2C, 4, 1048576),
      (0x38, 1, 255)]) 0x0303 .anyone planeSetBody 1 = true ∧
    accepted planed (cmd 2 [(0x08, 4, 0x10014), (0x0C, 1, 0x21), (0x14, 2, 320), (0x16, 2, 240), (0x1C, 2, 2560),
      (0x1E, 2, 1920), (0x20, 1, 255)]) 0x0303 .anyone planeSetBody 1 = true ∧
    accepted planed (cmd 2 [(0x08, 1, 0), (0x09, 1, 63), (0x0A, 1, 1), (0x10, 8, 0x100000)]) 0x0304 .anyone
      paletteLoadBody = true ∧
    accepted (planed.modHead 0 (fun x => { x with palettes := [(63, { owner := some 2 })] }))
      (cmd 2 [(0x08, 1, 0), (0x09, 1, 63), (0x0A, 1, 1), (0x0B, 1, 1)]) 0x0304 .anyone paletteLoadBody = true ∧
    accepted planed (cmd 2 [(0x08, 4, 0x10010), (0x0C, 2, 2), (0x10, 8, 0x100000)]) 0x0305 .anyone objectTableSetBody = true ∧
    accepted planed (cmd 2 [(0x08, 4, 0x10014), (0x0C, 1, 3), (0x0D, 1, 0x12), (0x10, 2, 8192), (0x12, 2, 8192), (0x14, 4, 65536),
      (0x18, 8, 0x100000), (0x20, 8, 0x100000), (0x28, 4, 65536)]) 0x0401 .anyone canvasSetBody = true ∧
    accepted planed (cmd 2 [(0x08, 4, 0x10014), (0x10, 8, 0x101000)]) 0x0402 .anyone scalerCoefLoadBody = true ∧
    accepted planed (cmd 2 [(0x08, 4, 0x1001C), (0x0C, 4, 0), (0x10, 8, 0x100000)]) 0x0403 .anyone contourSetBody = true ∧
    accepted planed (cmd 2 [(0x08, 4, 0x1001C), (0x10, 4, 0xFFFFFFFF)]) 0x0404 .anyone paintSetBody 2 = true := by
  refine ⟨?_, ?_, ?_, ?_, ?_, ?_, ?_, ?_, ?_, ?_, ?_⟩ <;> decide +kernel

theorem witness_colour_and_raster_commands :
    let used := planed.modHead 0 (fun x => { x with
      luts := [(3, { owner := some 2 })], lists := [(15, { owner := some 2 })], frets := [(15, { owner := 2 })] })
    accepted planed (cmd 2 [(0x08, 1, 0), (0x09, 1, 0), (0x0A, 1, 3), (0x10, 8, 0x100000)]) 0x0501 .anyone
      transferLutLoadBody = true ∧
    accepted used (cmd 2 [(0x08, 1, 1), (0x09, 1, 0), (0x0A, 1, 3)]) 0x0501 .anyone transferLutLoadBody = true ∧
    accepted used (cmd 2 [(0x08, 1, 2), (0x0B, 1, 5), (0x0C, 4, 0x10014)]) 0x0501 .anyone transferLutLoadBody = true ∧
    accepted planed (cmd 0 [(0x08, 1, 0), (0x09, 1, 1)]) 0x0502 .platform postLutLoadBody = true ∧
    accepted planed (cmd 0 [(0x08, 1, 0), (0x10, 8, 0x100000)]) 0x0502 .platform postLutLoadBody = true ∧
    accepted planed (cmd 0 [(0x08, 1, 0), (0x09, 1, 1), (0x0A, 1, 2)]) 0x0503 .platform ditherSetBody = true ∧
    accepted used (cmd 2 [(0x08, 1, 1), (0x0A, 1, 15)]) 0x0601 .anyone linelistSetBody = true ∧
    accepted planed (cmd 2 [(0x0A, 1, 0xFF), (0x0C, 4, 1), (0x10, 8, 0x100000)]) 0x0601 .anyone linelistSetBody = true ∧
    accepted planed (cmd 2 [(0x0A, 1, 0xFF), (0x0B, 1, 7), (0x0C, 2, 399)]) 0x0602 .anyone fretSetBody = true ∧
    accepted planed (cmd 2 [(0x0A, 1, 15)]) 0x0602 .anyone fretSetBody = true ∧
    accepted used (cmd 2 [(0x08, 1, 1), (0x0A, 1, 15)]) 0x0602 .anyone fretSetBody = true ∧
    accepted used (cmd 2 [(0x08, 1, 2), (0x0A, 1, 15)]) 0x0602 .anyone fretSetBody = true ∧
    accepted planed (cmd 0 [(0x0A, 2, 2), (0x0C, 2, 384)]) 0x0603 .platform leadBoundsSetBody = true ∧
    accepted planed (cmd 2 []) 0x0604 .anyone costQueryBody = true := by
  refine ⟨?_, ?_, ?_, ?_, ?_, ?_, ?_, ?_, ?_, ?_, ?_, ?_, ?_, ?_⟩ <;> decide +kernel

/-- A tab thread of tenant 2 with 256 bytes of code and 256 of data in bank 4. -/
def worker : Thread :=
  { gen := 1, owner := 2, codeAt := bankBase + 4 * 0x400000, codeSize := 256, dataAt := bankBase + 4 * 0x400000 + 256,
    dataSize := 256, writable := false, assetBase := 0 }

/-- `planed` with that thread in slot 0 of head 0, a bank for each tab core of its cluster, and a debug grant on the head. -/
def threaded (k : Thread) : State :=
  { planed with
    boot := { planed.boot with grants := [(2, 1)] }
    banks := planed.banks ++ [(4, { cls := 2, inst := 0 }), (5, { cls := 2, inst := 1 })]
    tabs := [(0, { gens := [(0, 1)], threads := [(0, k)] })] }

theorem witness_tab_commands :
    let halted := threaded { worker with state := .halted, running := true }
    accepted planed (cmd 2 [(0x09, 1, 0xFF)]) 0x0701 .anyone tabLoadBody = false ∧
    accepted (threaded worker) (cmd 2 [(0x09, 1, 0xFF), (0x0A, 1, 1), (0x0C, 4, 64), (0x10, 8, 0x100000)]) 0x0701 .anyone
      tabLoadBody = true ∧
    accepted (threaded worker) (cmd 2 [(0x09, 1, 15), (0x0C, 4, 128), (0x10, 8, 0x100000), (0x18, 4, 262144), (0x1C, 4, 64),
      (0x20, 8, 0x101000)]) 0x0701 .anyone tabLoadBody = true ∧
    accepted (threaded worker) (cmd 2 [(0x08, 4, 0x10000), (0x0C, 4, 254), (0x12, 2, 239), (0x14, 2, 1), (0x16, 2, 4096),
      (0x18, 1, 1), (0x1C, 1, 0xFF), (0x1D, 1, 0xFF)]) 0x0702 .anyone tabStartBody = true ∧
    accepted (threaded { worker with running := true }) (cmd 2 [(0x08, 4, 0x10000)]) 0x0703 .anyone tabStopBody = true ∧
    accepted (threaded worker) (cmd 2 [(0x08, 4, 0x10000), (0x0C, 1, 1)]) 0x0703 .anyone tabStopBody = true ∧
    accepted planed (cmd 0 [(0x0C, 4, 1), (0x10, 8, 0x102000)]) 0x0704 .platform decodeTableLoadBody = true ∧
    accepted { planed with ucode := { planed.ucode with entries := [(31, 0x03180440)] } }
      (cmd 0 [(0x08, 1, 1), (0x0C, 4, 0x80000000)]) 0x0704 .platform decodeTableLoadBody = true ∧
    accepted (threaded worker) (cmd 2 [(0x08, 4, 0x10000)]) 0x0705 .anyone tabDebugBody = true ∧
    accepted halted (cmd 2 [(0x08, 4, 0x10000), (0x0C, 1, 1)]) 0x0705 .anyone tabDebugBody = true ∧
    accepted halted (cmd 2 [(0x08, 4, 0x10000), (0x0C, 1, 2), (0x0E, 2, 256)]) 0x0705 .anyone tabDebugBody = true ∧
    accepted halted (cmd 2 [(0x08, 4, 0x10000), (0x0C, 1, 3), (0x0D, 1, 10)]) 0x0705 .anyone tabDebugBody = true ∧
    accepted halted (cmd 2 [(0x08, 4, 0x10000), (0x0C, 1, 4), (0x0D, 1, 1), (0x10, 4, 254)]) 0x0705 .anyone
      tabDebugBody = true ∧
    accepted halted (cmd 2 [(0x08, 4, 0x10000), (0x0C, 1, 5), (0x0E, 2, 9), (0x10, 4, 220)]) 0x0705 .anyone
      tabDebugBody = true ∧
    accepted halted (cmd 2 [(0x08, 4, 0x10000), (0x0C, 1, 6), (0x0E, 2, 63), (0x10, 4, 0xFFFFFFFF)]) 0x0705 .anyone
      tabDebugBody = true := by
  refine ⟨?_, ?_, ?_, ?_, ?_, ?_, ?_, ?_, ?_, ?_, ?_, ?_, ?_, ?_, ?_⟩ <;> decide +kernel

/-- An unmapping waits exactly for the loads that are on their way through its range, and a halt for a load or a FENCE. -/
theorem witness_waits_of_tab_commands :
    let unmap := cmd 2 [(0x08, 8, 0x100000), (0x10, 8, 0x10000)]
    let halt := cmd 2 [(0x08, 4, 0x10000)]
    let loading := threaded { worker with
      running := true, state := .serving, park := some (.load [.asset 0x100000 4 (.phys dramBase)] 4 false none 1 none) }
    let state (k : Thread) : Option Thread := ((sent (threaded k) halt 0x0705).turn halt 0x0705).thread? 0 0
    (accepted loading unmap 0x0202 .anyone atlasUnmapBody = true ∧
      ((sent loading unmap 0x0202).turn unmap 0x0202).loadsOutstanding 2 0x100000 0x10000 = true ∧
      ((sent planed unmap 0x0202).turn unmap 0x0202).loadsOutstanding 2 0x100000 0x10000 = false) ∧
    (accepted (threaded { worker with state := .halted, running := true }) halt 0x0705 .anyone tabDebugBody = true ∧
      (state { worker with state := .halted }).any (fun k => k.state = .halted) = true) ∧
    ((state worker).any (fun k => decide (k.state ≠ .halted) && k.park.isNone) = true) ∧
    (accepted (threaded { worker with running := true, park := some .fence }) halt 0x0705 .anyone tabDebugBody = true ∧
      (state { worker with park := some .fence }).any (fun k => decide (k.state ≠ .halted) && k.park = some .fence) = true) := by
  refine ⟨?_, ?_, ?_, ?_⟩ <;> decide +kernel

/-- The fields of HEAD_TIMING_SET that say `t`. -/
def timingFields (h flags : Nat) (t : Timing) : List (Nat × Nat × Nat) :=
  [(0x08, 1, h), (0x09, 1, flags), (0x0A, 2, t.deadline), (0x0C, 4, t.rate), (0x10, 2, t.hA), (0x12, 2, t.hF), (0x14, 2, t.hS),
    (0x16, 2, t.hB), (0x18, 2, t.vA), (0x1A, 2, t.vF), (0x1C, 2, t.vS), (0x1E, 2, t.vB)]

/-- `lighted` with head 0 on DP port 0. -/
def routed : State :=
  (lighted.modHead 0 (fun x => { x with port := some (0, 0) })).modPort 0 (fun p => { p with
    route := some ⟨1, 4, 6, [some 0]⟩, trained := true, sending := true, gotLanes := 4, gotRate := 6 })

/-- `lighted` with a capture of tenant 2 on head 0. -/
def captured (f : Option CapFrame) : State :=
  lighted.modHead 0 (fun x => { x with capture := some { owner := 2, decimate := 1, rect := ⟨0, 0, 320, 240⟩, pages := 77
                                                         ring := 0, cons := 0, frame := f } })

theorem witness_display_commands :
    accepted lighted (cmd 0 (timingFields 1 0 small)) 0x0801 .platform headTimingSetBody = true ∧
    accepted lighted (cmd 0 (timingFields 0 0 { small with vF := 20, vB := 135 })) 0x0801 .platform headTimingSetBody = true ∧
    accepted lighted (cmd 0 (timingFields 0 0 { small with deadline := 600 })) 0x0801 .platform headTimingSetBody = true ∧
    accepted lighted (cmd 0 [(0x08, 1, 0), (0x09, 1, 1)]) 0x0801 .platform headTimingSetBody = true ∧
    accepted lighted (cmd 0 [(0x08, 1, 7), (0x09, 1, 1)]) 0x0801 .platform headTimingSetBody = true ∧
    accepted lighted (cmd 0 [(0x08, 1, 0), (0x09, 1, 1), (0x0A, 1, 4), (0x0B, 1, 6), (0x0D, 1, 0xFF)]) 0x0802 .platform
      portRouteSetBody = true ∧
    accepted routed (cmd 0 [(0x08, 1, 0), (0x09, 1, 0), (0x0C, 1, 0xFF), (0x0D, 1, 0xFF)]) 0x0802 .platform portRouteSetBody = true ∧
    accepted lighted (cmd 2 [(0x08, 1, 1)]) 0x0803 .anyone commitSubmitBody = true ∧
    accepted lighted (cmd 2 [(0x08, 1, 1), (0x09, 1, 1), (0x10, 8, 2000000)]) 0x0803 .anyone commitSubmitBody = true ∧
    accepted lighted (cmd 2 [(0x08, 1, 0), (0x09, 1, 255), (0x10, 2, 320), (0x12, 2, 240), (0x14, 4, 65536),
      (0x18, 8, 0x1000), (0x20, 8, 4)]) 0x0804 .anyone captureStartBody = true ∧
    accepted (captured none) (cmd 2 []) 0x0805 .anyone captureStopBody = true ∧
    accepted (captured (some { frame := 5, time := 1, page := 0 })) (cmd 2 []) 0x0805 .anyone captureStopBody = true ∧
    accepted lighted (cmd 0 [(0x08, 1, 0), (0x09, 1, 1)]) 0x0806 .platform framelockSetBody = true ∧
    accepted lighted (cmd 0 [(0x08, 1, 0), (0x09, 1, 0)]) 0x0806 .platform framelockSetBody = true ∧
    accepted lighted (cmd 0 [(0x08, 1, 0), (0x09, 1, 3), (0x10, 8, 5)]) 0x0806 .platform framelockSetBody = true ∧
    accepted lighted (cmd 0 [(0x08, 1, 0), (0x09, 1, 1), (0x0A, 1, 255), (0x0B, 1, 125)]) 0x0807 .platform
      stillPolicySetBody = true := by
  refine ⟨?_, ?_, ?_, ?_, ?_, ?_, ?_, ?_, ?_, ?_, ?_, ?_, ?_, ?_, ?_, ?_⟩ <;> decide +kernel

/-- `planed` with image 0 in the Cartouche store, cell 63 and regions 0 and 15 on head 0, its fallback on, and Cartouche sample 63
loaded; tenant 1 owns the safety pin 144, which the reaction has taken. -/
def instrumented : State :=
  let s := planed.modHead 0 (fun x => { x with
    cells := [(63, { rect := ⟨0, 0, 16, 8⟩, fill := 0, images := List.replicate 16 0xFF, state := 0, blink := false, blinkState := 0
                     onMs := 0, offMs := 0 })]
    regions := [(15, { set := ⟨true, true, some 63, 1, 1, {}⟩ })]
    fallback := true })
  { s with
    disp := { s.disp with cart := { s.disp.cart with
      images := [(0, { format := 1, w := 16, h := 8, pages := [0] })]
      samples := [(63, { format := 0, length := 8, pages := [1] })] } }
    pins := { s.pins with pin := [(144, { owner := .tenant 1, oe := true, safety := true })] } }

theorem witness_cartouche_commands :
    accepted instrumented (cmd 1 [(0x08, 1, 1), (0x09, 1, 0)]) 0x0901 .safety cartoucheImageLoadBody = true ∧
    accepted instrumented (cmd 1 [(0x09, 1, 254), (0x0A, 1, 1), (0x0C, 2, 1), (0x0E, 2, 256), (0x10, 8, 0x100000)]) 0x0901 .safety
      cartoucheImageLoadBody = true ∧
    accepted instrumented (cmd 1 [(0x0A, 1, 0), (0x10, 2, 64), (0x14, 2, 256), (0x16, 2, 1), (0x18, 4, 0x3FFFFFFF),
      (0x20, 8, 0xFFFFFFFFFFFFFFFF), (0x28, 8, 0xFFFFFFFFFFFFFFFF)]) 0x0902 .safety cartoucheCellSetBody = true ∧
    accepted instrumented (cmd 1 [(0x08, 1, 1), (0x0A, 1, 63), (0x0B, 1, 15), (0x0C, 1, 1), (0x0D, 1, 15), (0x1C, 2, 10000),
      (0x1E, 2, 1)]) 0x0902 .safety cartoucheCellSetBody = true ∧
    accepted { instrumented with disp := (instrumented.modHead 0 (fun x => { x with regions := [] })).disp }
      (cmd 1 [(0x08, 1, 2), (0x0A, 1, 63)]) 0x0902 .safety cartoucheCellSetBody = true ∧
    accepted instrumented (cmd 1 [(0x0A, 1, 15), (0x0B, 1, 2), (0x0D, 1, 1), (0x14, 2, 320), (0x16, 2, 240)]) 0x0903 .safety
      watchRegionSetBody = true ∧
    accepted instrumented (cmd 1 [(0x0A, 1, 0), (0x0B, 1, 7), (0x0C, 1, 63), (0x0D, 1, 255), (0x0E, 1, 255)]) 0x0903 .safety
      watchRegionSetBody = true ∧
    accepted instrumented (cmd 1 [(0x08, 1, 1), (0x0A, 1, 15)]) 0x0903 .safety watchRegionSetBody = true ∧
    accepted instrumented (cmd 1 [(0x09, 1, 15), (0x0A, 1, 16), (0x10, 8, 0x100000)]) 0x0904 .safety referenceSetBody = true ∧
    accepted instrumented (cmd 1 [(0x0A, 1, 15), (0x0B, 1, 3), (0x0C, 2, 144)]) 0x0905 .safety faultReactionSetBody = true ∧
    accepted instrumented (cmd 1 [(0x08, 1, 1), (0x10, 4, 0x3FFFFFFF)]) 0x0905 .safety faultReactionSetBody = true ∧
    accepted instrumented (cmd 1 [(0x08, 1, 2)]) 0x0905 .safety faultReactionSetBody = true ∧
    accepted instrumented (cmd 1 [(0x08, 1, 3), (0x0C, 2, 144)]) 0x0905 .safety faultReactionSetBody = true ∧
    accepted instrumented (cmd 1 [(0x08, 1, 1), (0x09, 1, 63)]) 0x0B0A .safety cartoucheVoiceSetBody = true ∧
    accepted instrumented (cmd 1 [(0x09, 1, 0), (0x0C, 4, 1), (0x10, 8, 0x100000)]) 0x0B0A .safety cartoucheVoiceSetBody = true := by
  refine ⟨?_, ?_, ?_, ?_, ?_, ?_, ?_, ?_, ?_, ?_, ?_, ?_, ?_, ?_, ?_⟩ <;> decide +kernel

/-- `lighted` in mode `m`, with SERVICE_N held low for 10 ms and more. -/
def inMode (m : Mode) : State :=
  { lighted with now := 20000000, power := { lighted.power with mode := m, servicePinLow := true, servicePinAt := 0 } }

theorem witness_power_commands :
    accepted lighted (cmd 0 [(0x09, 1, 255)]) 0x0A01 .platform headPrioritySetBody = true ∧
    accepted lighted (cmd 0 [(0x08, 1, 28), (0x09, 1, 36), (0x0A, 2, 600)]) 0x0A02 .platform powerPolicySetBody = true ∧
    accepted lighted (cmd 0 [(0x08, 1, 1), (0x0C, 4, 1000)]) 0x0A03 .platform maintenanceSetBody = true ∧
    accepted (inMode .service) (cmd 0 [(0x08, 1, 6), (0x09, 1, 1)]) 0x0A03 .platform maintenanceSetBody = true ∧
    accepted lighted (cmd 0 [(0x08, 1, 4), (0x09, 1, 2)]) 0x0A03 .platform maintenanceSetBody = true ∧
    accepted lighted (cmd 0 [(0x08, 1, 6), (0x09, 1, 3)]) 0x0A03 .platform maintenanceSetBody = true ∧
    accepted lighted (cmd 2 []) 0x0A04 .anyone governorQueryBody = true ∧
    accepted (inMode .drive) (cmd 0 [(0x08, 1, 4)]) 0x0D01 .platform modeSetBody = true ∧
    accepted (inMode .drive) (cmd 0 [(0x08, 1, 1)]) 0x0D01 .platform modeSetBody = true ∧
    accepted lighted (cmd 0 [(0x08, 2, 1000), (0x0A, 2, 800), (0x0C, 2, 200), (0x0E, 2, 800)]) 0x0D02 .platform
      clockPlanSetBody = true ∧
    accepted lighted (cmd 0 [(0x08, 1, 0), (0x09, 1, 16), (0x0C, 4, 1000)]) 0x0D03 .platform clockMeasureBody = true ∧
    accepted (lighted.modActivity 6 (fun x => { x with running := true })) (cmd 0 [(0x08, 1, 4), (0x09, 1, 15),
      (0x0C, 4, 100000000)]) 0x0D03 .platform clockMeasureBody = true ∧
    accepted (inMode .drive) (cmd 0 []) 0x1103 .platform serviceEnterBody = true := by
  refine ⟨?_, ?_, ?_, ?_, ?_, ?_, ?_, ?_, ?_, ?_, ?_, ?_, ?_⟩ <;> decide +kernel

/-- `planed` with audio of tenant 2: voice 95 set and idle, voice 94 running, bus 15 on Course 48 and bus 14 on Course 44, lane 31,
a listener and a capture; TDM port 0 has eight output slots, and the gPTP clock of MAC 0 is locked. -/
def sounding : State :=
  let v : Voice := { gen := 1, owner := some 2, src := some { format := 0, addr := 0x100000, length := 8, loop := none } }
  let x : ACapture := { owner := 2, block := 64, pages := 2, ring := 0, cons := 0 }
  let q : Quotas := { voices := 96 }
  { planed with
    tenants := planed.tenants.map (fun e => (e.1, { e.2 with quotas := q }))
    disp := { planed.disp with gptp := [(0, (true, 0, 0))] }
    audio := { planed.audio with
      voices := [(94, { v with phase := .attack }), (95, v)]
      gens := [(94, 1), (95, 1)]
      buses := [(14, { owner := some 2, plan := { course := 1, channels := 8 }, set := { course := 1, channels := 8 }
                       capture := some x }),
        (15, { owner := some 2, plan := { channels := 8 }, set := { channels := 8 } })]
      lanes := [(31, { owner := some 2, dstBus := 15 })]
      tdmOut := [(0, { on := true, slots := 8 })]
      avtp := [(16, { listener := true, mac := 0, channels := 1, format := 0, cls := 0, spp := 6, id := 0, dest := [], vlan := 0
                      transit := 0, bus := 0, first := 0, course := 0 })] } }

/-- The payload of a BUS_SET that gives bus `n` eight channels on Course `k`. -/
def busFields (n k : Nat) : List (Nat × Nat × Nat) :=
  [(0x09, 1, n), (0x0A, 1, k), (0x0B, 1, 8), (0x0D, 1, 0xFF), (0x0E, 2, 65535), (0x10, 4, 0x7FFFFF), (0x14, 2, 1)]

theorem witness_audio_commands :
    accepted sounding (cmd 2 [(0x09, 1, 4), (0x0A, 1, 2), (0x0B, 1, 0)]) 0x0B01 .anyone voiceCreateBody = true ∧
    accepted sounding (cmd 2 [(0x0B, 1, 0xFF)]) 0x0B01 .anyone voiceCreateBody = true ∧
    accepted sounding (cmd 2 [(0x08, 1, 1), (0x0C, 4, 0x1005F)]) 0x0B01 .anyone voiceCreateBody = true ∧
    accepted sounding { cmd 2 [(0x08, 4, 0x1005F), (0x0C, 1, 31), (0x0E, 1, 3), (0x10, 8, 2000000), (0x18, 8, 0x100000),
      (0x20, 4, 1), (0x28, 4, 1), (0x2C, 2, 65535), (0x40, 1, 1), (0x41, 1, 15), (0x42, 1, 7)] with
        flags := 0x10, payload := (cmd 2 [(0x08, 4, 0x1005F), (0x0C, 1, 31), (0x0E, 1, 3), (0x10, 8, 2000000), (0x18, 8, 0x100000),
      (0x20, 4, 1), (0x28, 4, 1), (0x2C, 2, 65535), (0x40, 1, 1), (0x41, 1, 15), (0x42, 1, 7)]).payload ++
        ([1, 15, 7, 0, 255, 255] ++ List.replicate 58 0) } 0x0B02 .anyone voiceSetBody 1 = true ∧
    accepted sounding (cmd 2 [(0x08, 4, 0x1005F), (0x0C, 1, 1), (0x10, 8, 500000)]) 0x0B03 .anyone voiceStartBody = true ∧
    accepted sounding (cmd 2 [(0x08, 4, 0x1005E), (0x0C, 1, 1), (0x0D, 1, 1), (0x10, 8, 2000000)]) 0x0B04 .anyone
      voiceStopBody = true ∧
    accepted sounding (cmd 2 [(0x08, 1, 1), (0x09, 1, 15), (0x0C, 1, 8), (0x20, 8, 2000000)]) 0x0B05 .anyone busSetBody = true ∧
    accepted sounding (cmd 2 (busFields 14 1)) 0x0B05 .anyone busSetBody = true ∧
    accepted sounding (cmd 2 (busFields 0xFF 2)) 0x0B05 .anyone busSetBody = true ∧
    accepted sounding (cmd 2 [(0x08, 1, 1), (0x09, 1, 31)]) 0x0B06 .anyone bridgeSetBody = true ∧
    accepted sounding (cmd 2 [(0x09, 1, 31), (0x0A, 1, 1), (0x0B, 1, 1), (0x0C, 1, 14), (0x0D, 1, 7), (0x0E, 1, 15),
      (0x0F, 1, 7), (0x10, 2, 65535)]) 0x0B06 .anyone bridgeSetBody = true ∧
    accepted sounding (cmd 2 [(0x09, 1, 0xFF), (0x0A, 1, 1), (0x0B, 1, 1), (0x0C, 1, 14), (0x0D, 1, 7), (0x0E, 1, 15),
      (0x0F, 1, 7), (0x10, 2, 65535)]) 0x0B06 .anyone bridgeSetBody = true ∧
    accepted sounding (cmd 0 [(0x09, 1, 3), (0x0A, 1, 6), (0x0B, 1, 8), (0x0C, 1, 32), (0x0D, 1, 24), (0x0E, 1, 1), (0x10, 2, 0x807F)]) 0x0B07
      .platform audioPortSetBody = true ∧
    accepted sounding (cmd 0 [(0x08, 1, 1), (0x09, 1, 3), (0x0A, 1, 6), (0x0B, 1, 8), (0x0C, 1, 32), (0x0D, 1, 24), (0x0E, 1, 1)]) 0x0B07
      .platform audioPortSetBody = true ∧
    accepted sounding (cmd 0 [(0x08, 1, 2), (0x09, 1, 3), (0x0E, 1, 2)]) 0x0B07 .platform audioPortSetBody = true ∧
    accepted sounding (cmd 0 [(0x08, 1, 3), (0x09, 1, 2), (0x0A, 1, 2), (0x0B, 1, 0)]) 0x0B07 .platform audioPortSetBody = true ∧
    accepted sounding (cmd 0 [(0x08, 1, 4), (0x09, 1, 0)]) 0x0B07 .platform audioPortSetBody = true ∧
    accepted sounding (cmd 0 [(0x08, 1, 1), (0x09, 1, 0), (0x0A, 1, 1)]) 0x0B08 .platform avtpStreamSetBody = true ∧
    accepted sounding (cmd 0 [(0x09, 1, 15), (0x0A, 1, 1), (0x0C, 1, 8), (0x0D, 1, 2), (0x0F, 1, 64), (0x26, 1, 2)]) 0x0B08
      .platform avtpStreamSetBody = true ∧
    accepted sounding (cmd 2 [(0x08, 1, 1), (0x09, 1, 14)]) 0x0B09 .anyone audioCaptureStartBody = true ∧
    accepted sounding (cmd 2 [(0x09, 1, 15), (0x0A, 2, 8192), (0x0C, 4, 65536), (0x10, 8, 4096), (0x18, 8, 4)]) 0x0B09 .anyone
      audioCaptureStartBody = true := by
  refine ⟨?_, ?_, ?_, ?_, ?_, ?_, ?_, ?_, ?_, ?_, ?_, ?_, ?_, ?_, ?_, ?_, ?_, ?_, ?_, ?_, ?_⟩ <;> decide +kernel

/-- A Pegbox model of one dense layer that maps a context frame of 40 mel bands to one class: 172 bytes. -/
def oneLayer : List Byte :=
  leBytes 4 0x4C444D50 ++ [0, 1, 1, 1, 1, 0, 0, 0, 0, 0, 0, 0] ++ leBytes 4 40 ++ List.replicate 44 0 ++
  [0, 1, 1, 0, 1, 0, 40, 0, 1, 0, 1, 0] ++ leBytes 4 0x64 ++ leBytes 4 40 ++ leBytes 4 0x60 ++ leBytes 4 40 ++ [0, 0, 0, 0] ++
  List.replicate 44 1

/-- `planed` with that model at 0x10_4000 of the asset spaces, Peg code running, channels 55, 31, 15 and 14 of tenant 2 in use on
its pins 8, 9 and 10, pin 7 the Pegbox's, and a valid calendar. -/
def timed : State :=
  let p : PwmSet := { enable := true, pin := 9 }
  { planed with
    mem := { planed.mem with phys := planed.mem.phys ++ ((List.range oneLayer.length).filterMap (fun i =>
      if oneLayer.getD i 0 = 0 then none else some (dramBase + 0x4000 + i, oneLayer.getD i 0))) }
    peg := { planed.peg with running := true, ringHeld := 40000 }
    pins := { planed.pins with pin := [(7, { owner := .peg }), (8, { owner := .tenant 2 }), (9, { owner := .tenant 2 }),
      (10, { owner := .tenant 2 })] }
    timers := { planed.timers with
      compare := [(55, { owner := some 2, event := true, value := 5, armed := true })]
      capture := [(31, { owner := some 2, edge := 1, pin := 8 })]
      pwm := [(14, { owner := some 2, cur := { p with enable := false, pin := 10 } }), (15, { owner := some 2, cur := p, running := true })] }
    time := { planed.time with cal := { planed.time.cal with valid := true } } }

theorem witness_pegbox_and_timer_commands :
    accepted timed (cmd 0 [(0x0C, 4, 172), (0x10, 8, 0x104000)]) 0x0C01 .platform modelLoadBody = true ∧
    accepted timed (cmd 0 [(0x08, 1, 1)]) 0x0C02 .platform listenProgramLoadBody = true ∧
    accepted timed (cmd 0 [(0x0C, 4, 128), (0x10, 8, 0x100000), (0x18, 4, 64), (0x20, 8, 0x100000)]) 0x0C02 .platform
      listenProgramLoadBody = true ∧
    accepted timed (cmd 0 [(0x08, 1, 2), (0x09, 1, 1), (0x0A, 1, 3), (0x0C, 1, 7), (0x0D, 1, 255), (0x0E, 1, 50)]) 0x0C03
      .platform wakeSourceSetBody = true ∧
    accepted timed (cmd 0 [(0x08, 1, 3), (0x09, 1, 1), (0x0A, 1, 1), (0x0B, 1, 15), (0x0C, 2, 7)]) 0x0C03 .platform
      wakeSourceSetBody = true ∧
    accepted timed (cmd 0 [(0x08, 1, 6), (0x09, 1, 1), (0x0A, 1, 2), (0x0C, 1, 1), (0x0E, 2, 0xFFFF), (0x16, 2, 14)]) 0x0C03
      .platform wakeSourceSetBody = true ∧
    accepted timed (cmd 0 [(0x08, 1, 1), (0x0A, 1, 1)]) 0x0C03 .platform wakeSourceSetBody = true ∧
    accepted timed (cmd 0 [(0x08, 1, 7), (0x09, 1, 1), (0x0A, 1, 3)]) 0x0C03 .platform wakeSourceSetBody = true ∧
    accepted timed (cmd 0 [(0x08, 4, 0), (0x0C, 4, 40000), (0x10, 8, 0x100000), (0x18, 1, 3)]) 0x0C04 .platform
      prerollReadBody = true ∧
    accepted timed (cmd 2 [(0x08, 1, 1), (0x09, 1, 55)]) 0x0E01 .anyone compareSetBody = true ∧
    accepted timed (cmd 2 [(0x09, 1, 0xFF), (0x0A, 1, 7), (0x0B, 1, 2), (0x0C, 2, 8), (0x10, 8, 1024), (0x18, 8, 1024)]) 0x0E01
      .anyone compareSetBody = true ∧
    accepted timed (cmd 2 [(0x08, 1, 1), (0x09, 1, 31)]) 0x0E02 .anyone captureChannelSetBody = true ∧
    accepted timed (cmd 2 [(0x09, 1, 31), (0x0A, 1, 3), (0x0B, 1, 255), (0x0C, 2, 8), (0x0E, 2, 256)]) 0x0E02 .anyone
      captureChannelSetBody = true ∧
    accepted timed (cmd 2 [(0x08, 1, 1), (0x09, 1, 15), (0x0A, 1, 4)]) 0x0E03 .anyone pwmSetBody = true ∧
    accepted timed (cmd 2 [(0x08, 1, 1), (0x09, 1, 14)]) 0x0E03 .anyone pwmSetBody = true ∧
    accepted timed (cmd 2 [(0x09, 1, 15), (0x0A, 1, 15), (0x0B, 1, 20), (0x0C, 2, 9), (0x10, 4, 65536), (0x14, 4, 65536),
      (0x18, 8, 5)]) 0x0E03 .anyone pwmSetBody = true ∧
    accepted timed (cmd 2 [(0x09, 1, 0xFF), (0x0A, 1, 1), (0x0B, 1, 2), (0x0C, 2, 8), (0x10, 4, 2)]) 0x0E03 .anyone
      pwmSetBody = true ∧
    accepted timed (cmd 0 [(0x08, 1, 1)]) 0x0E04 .platform calendarSetBody = true ∧
    accepted timed (cmd 0 [(0x09, 1, 2), (0x0A, 2, 2400), (0x0C, 1, 29), (0x0D, 1, 23), (0x0E, 1, 59), (0x0F, 1, 59),
      (0x10, 2, 32767)]) 0x0E04 .platform calendarSetBody = true ∧
    accepted timed (cmd 0 [(0x08, 1, 1)]) 0x0E05 .platform calendarAlarmSetBody = true ∧
    accepted timed (cmd 0 [(0x09, 1, 1), (0x0E, 1, 23), (0x0F, 1, 59), (0x10, 1, 59)]) 0x0E05 .platform
      calendarAlarmSetBody = true ∧
    accepted timed (cmd 0 [(0x0A, 2, 2999), (0x0C, 1, 12), (0x0D, 1, 31)]) 0x0E05 .platform calendarAlarmSetBody = true := by
  refine ⟨?_, ?_, ?_, ?_, ?_, ?_, ?_, ?_, ?_, ?_, ?_, ?_, ?_, ?_, ?_, ?_, ?_, ?_, ?_, ?_, ?_, ?_⟩ <;> decide +kernel

/-- `planed` with DMA channel 47 of tenant 2, pins 2 to 15, 144 and 159 its own, serial block 0 disabled, blocks 1 and 4 enabled
and an arming of pins 144 and 159 with nonce 1; a descriptor that copies 16 bytes stands at 0x10_5000. -/
def wired : State :=
  let mine : Pin := { owner := .tenant 2 }
  { planed with
    dma := { planed.dma with ch := [(47, { owner := some 2, log2 := 4, ring := 0, cons := 0 })] }
    mem := { planed.mem with phys := planed.mem.phys ++ [(dramBase + 0x5002, 0x10), (dramBase + 0x500A, 0x11),
      (dramBase + 0x5010, 0x10)] }
    pins := { planed.pins with
      pin := ((List.range 16).map (fun i => (i, mine))) ++ [(144, mine), (159, mine)]
      block := [(1, { enabled := true, rate := 100000 }), (3, { enabled := true, rate := 100000 })]
      arms := [⟨2, 0x8001, 1, 500000⟩] } }

theorem witness_dma_and_pin_commands :
    accepted wired (cmd 2 [(0x08, 1, 1), (0x09, 1, 47)]) 0x0F01 .anyone dmaChannelSetBody = true ∧
    accepted wired (cmd 2 [(0x09, 1, 0xFF), (0x0A, 1, 12), (0x10, 8, 4096), (0x18, 8, 4)]) 0x0F01 .anyone
      dmaChannelSetBody = true ∧
    accepted wired (cmd 2 [(0x08, 1, 47), (0x0C, 4, 1), (0x10, 8, 0x105000)]) 0x0F02 .anyone dmaSubmitBody = true ∧
    accepted wired (cmd 2 [(0x09, 1, 1), (0x10, 8, 0x100000), (0x0C, 4, 4), (0x18, 8, 0x108000), (0x20, 4, 4), (0x2C, 2, 1),
      (0x2E, 2, 1)]) 0x0F03 .anyone blitSubmitBody = true ∧
    accepted wired (cmd 2 [(0x08, 1, 1), (0x18, 8, 0x108000), (0x20, 4, 65536), (0x2C, 2, 8192), (0x2E, 2, 8192),
      (0x38, 4, 0xFFFFFFFF)]) 0x0F03 .anyone blitSubmitBody = true ∧
    accepted wired (cmd 0 [(0x08, 2, 2), (0x0A, 2, 1024), (0x0C, 4, 32000)]) 0x0F04 .platform dmaShareSetBody = true ∧
    accepted wired (cmd 0 [(0x08, 2, 30), (0x0A, 2, 130), (0x0C, 2, 0xFFFE)]) 0x1001 .platform pinOwnerSetBody = true ∧
    accepted wired (cmd 2 [(0x0A, 2, 0), (0x0C, 1, 16), (0x0D, 1, 15), (0x0E, 1, 2), (0x0F, 1, 5), (0x10, 1, 255)]) 0x1002 .anyone
      pinConfigSetBody = true ∧
    accepted wired (cmd 2 [(0x08, 1, 1), (0x09, 1, 0), (0x14, 4, 400000)]) 0x1002 .anyone pinConfigSetBody = true ∧
    accepted wired (cmd 2 [(0x08, 1, 2), (0x09, 1, 1)]) 0x1002 .anyone pinConfigSetBody = true ∧
    accepted wired (cmd 2 [(0x09, 1, 1), (0x0A, 1, 4), (0x0B, 1, 1), (0x0C, 4, 0xFFFFFFFF)]) 0x1003 .anyone
      pinWriteBody = true ∧
    accepted wired (cmd 2 [(0x08, 1, 1), (0x09, 1, 3), (0x0A, 1, 127), (0x0B, 1, 32), (0x0C, 1, 32)]) 0x1003 .anyone
      pinWriteBody = true ∧
    accepted wired (cmd 2 [(0x08, 1, 2), (0x0C, 4, 0xFFFFFFFF)]) 0x1003 .anyone pinWriteBody = true ∧
    accepted wired (cmd 2 [(0x08, 1, 1), (0x0A, 2, 0x8001), (0x0C, 2, 0x5AFF)]) 0x1004 .anyone pinLockBody = true ∧
    (pinLockChecks (cmd 2 [(0x08, 1, 1), (0x0A, 2, 0x8001), (0x0C, 2, 0x5AFF)]) wired).isOk = true ∧
    accepted wired (cmd 0 [(0x09, 1, 255), (0x0A, 2, 2)]) 0x1101 .platform debugGrantBody = true ∧
    accepted wired (cmd 0 [(0x08, 1, 1), (0x09, 1, 1), (0x0A, 2, 0)]) 0x1101 .platform debugGrantBody = true := by
  refine ⟨?_, ?_, ?_, ?_, ?_, ?_, ?_, ?_, ?_, ?_, ?_, ?_, ?_, ?_, ?_, ?_, ?_⟩ <;> decide +kernel

/-- PIN_LOCK's arming answers a nonce that the spec leaves open, whichever that is. -/
theorem witness_pin_arming : accepted wired (cmd 2 [(0x0A, 2, 0x8001)]) 0x1004 .anyone pinLockBody = true ∧
    (pinLockChecks (cmd 2 [(0x0A, 2, 0x8001)]) wired).isOk = true := by
  constructor <;> rfl

theorem witness_lifecycle_query : accepted ready (cmd 2 []) 0x1104 .anyone lifecycleQueryBody = true := by rfl


/-- The signed bytes of an unlock token of a kind for this part. -/
def tokenBody (kind life : Byte) : List Byte :=
  leBytes 4 0x4B4C4E55 ++ [0, 1, kind, life] ++ leBytes 4 dieSerial.toNat ++ List.replicate 68 0

/-- An unlock token that the holder of `key` has signed. -/
def token (key : List Byte) (kind life : Byte) : List Byte :=
  tokenBody kind life ++ Config.signature key (tokenBody kind life) ++ List.replicate 16 0

theorem signature_length (key m : List Byte) : (Config.signature key m).length = 96 := by simp [Config.signature]

theorem slice_left (xs ys : List Byte) {off n : Nat} (h : off + n ≤ xs.length) : slice (xs ++ ys) off n = slice xs off n := by
  show List.take n (List.drop off (xs ++ ys)) ++ List.replicate (n - (List.drop off (xs ++ ys)).length) 0 =
    List.take n (List.drop off xs) ++ List.replicate (n - (List.drop off xs).length) 0
  rw [List.drop_append_of_le_length (by omega), List.take_append_of_le_length (by simp; omega)]
  congr 2
  simp
  omega

theorem slice_right (xs ys : List Byte) {off n : Nat} (h : xs.length ≤ off) :
    slice (xs ++ ys) off n = slice ys (off - xs.length) n := by
  show List.take n (List.drop off (xs ++ ys)) ++ _ = List.take n (List.drop (off - xs.length) ys) ++ _
  rw [List.drop_append, List.drop_of_length_le h, List.nil_append]

theorem slice_all {xs : List Byte} {n : Nat} (h : xs.length = n) : slice xs 0 n = xs := by simp [slice, ← h]

theorem token_lo (key : List Byte) (kind life : Byte) {off n : Nat} (h : off + n ≤ 80) :
    slice (token key kind life) off n = slice (tokenBody kind life) off n := by
  have hl : (tokenBody kind life).length = 80 := by simp [tokenBody]
  unfold token
  rw [List.append_assoc, slice_left _ _ (by omega)]

/-- DEBUG_UNLOCK with such a token. -/
def unlock (key : List Byte) (kind life : Byte) : Cmd :=
  { tenant := 0, index := 0, flags := 0x30, tag := 7, dt := 0
    payload := List.replicate 56 0 ++ token key kind life }

theorem unlock_token (key : List Byte) (kind life : Byte) : (unlock key kind life).bytes 0x40 192 = token key kind life := by
  unfold Cmd.bytes unlock
  rw [slice_right _ _ (by simp)]
  exact slice_all (by simp [token, tokenBody, signature_length])

theorem token_ok {s : State} {kind life : Byte} (h1 : kind = 1 ∨ kind = 2 ∨ (kind = 3 ∧ s.boot.lifecycle = .blank))
    (hl : life.toNat = s.boot.lifecycle.code) (hn : s.boot.lifecycle ≠ .returned) (ho : s.boot.ownerHash = []) :
    s.tokenOk (token s.tokenKey kind life) = true := by
  have f (off n : Nat) (h : off + n ≤ 80) : fieldU (token s.tokenKey kind life) off n = fieldU (tokenBody kind life) off n := by
    unfold fieldU; rw [token_lo _ _ _ h]
  have hser : fieldU (tokenBody kind life) 8 4 = dieSerial.toNat := by
    have : slice (tokenBody kind life) 8 4 = leBytes 4 dieSerial.toNat := by simp [slice, tokenBody, leBytes]
    unfold fieldU
    rw [this, leNat_leBytes]
    have := dieSerial.isLt
    omega
  have hk : fieldU (tokenBody kind life) 6 1 = kind.toNat := by simp [fieldU, slice, tokenBody, leBytes, leNat]
  have hz : fieldU (token s.tokenKey kind life) 0xB0 16 = 0 := by
    unfold fieldU token
    rw [slice_right _ _ (by simp [tokenBody, signature_length])]
    simp [tokenBody, signature_length, slice, leNat]
  have hs : slice (token s.tokenKey kind life) 0x50 96 = Config.signature s.tokenKey (tokenBody kind life) := by
    unfold token
    rw [List.append_assoc, slice_right _ _ (by simp [tokenBody]), slice_left _ _ (by simp [tokenBody, signature_length])]
    exact slice_all (by simp [signature_length])
  have hm : slice (token s.tokenKey kind life) 0 0x50 = tokenBody kind life := by
    rw [token_lo _ _ _ (by omega)]
    exact slice_all (by simp [tokenBody])
  have h7 : fieldU (tokenBody kind life) 7 1 = life.toNat := by simp [fieldU, slice, tokenBody, leBytes, leNat]
  have h0 : fieldU (tokenBody kind life) 0 4 = 0x4B4C4E55 := by simp [fieldU, slice, tokenBody, leBytes, leNat]
  have h4 : fieldU (tokenBody kind life) 4 2 = 0x0100 := by simp [fieldU, slice, tokenBody, leBytes, leNat]
  have hc : fieldU (tokenBody kind life) 0x0C 20 = 0 := by simp [fieldU, slice, tokenBody, leBytes, leNat]
  have hh : fieldU (tokenBody kind life) 0x20 48 = 0 := by simp [fieldU, slice, tokenBody, leBytes, leNat]
  unfold State.tokenOk
  rw [f 0 4 (by omega), f 4 2 (by omega), f 6 1 (by omega), f 7 1 (by omega), f 8 4 (by omega), f 0x0C 20 (by omega),
    f 0x20 48 (by omega), hser, hk, hz, hs, hm, h7, h0, h4, hc, hh, hl, ho]
  rcases h1 with rfl | rfl | ⟨rfl, hb⟩
  · simp [Config.ecdsaVerifies]
  · simp [Config.ecdsaVerifies, hn]
  · simp [Config.ecdsaVerifies, hb]

theorem reservedAux_used {used named : List (Nat × Nat)} : ∀ (bs : List Byte) (off : Nat),
    (∀ i, off ≤ i → i < off + bs.length → used.any (fieldHas i) = true) → reservedAux used named bs off = none
  | [], _, _ => rfl
  | _ :: bs, off, h => by
    unfold reservedAux
    rw [if_pos (.inr (h off (Nat.le_refl _) (by simp)))]
    exact reservedAux_used bs (off + 1) fun i h1 h2 => h i (by omega) (by simp at h2 ⊢; omega)

theorem reservedAux_zeros {used named : List (Nat × Nat)} (bs : List Byte) : ∀ (n off : Nat),
    reservedAux used named (List.replicate n 0 ++ bs) off = reservedAux used named bs (off + n)
  | 0, _ => rfl
  | n + 1, off => by
    rw [List.replicate_succ, List.cons_append]
    rw [reservedAux, if_pos (.inl (by rfl)), reservedAux_zeros bs n (off + 1), show off + 1 + n = off + (n + 1) by omega]

theorem unlock_accepted {s : State} {kind life : Byte} (hr : s.cpRuns = true)
    (h1 : kind = 1 ∨ kind = 2 ∨ (kind = 3 ∧ s.boot.lifecycle = .blank))
    (hl : life.toNat = s.boot.lifecycle.code) (hn : s.boot.lifecycle ≠ .returned) (hd : s.boot.deviceSession = false)
    (hc : s.power.change = none) (ho : s.boot.ownerHash = []) :
    accepted s (unlock s.tokenKey kind life) 0x1102 .platform debugUnlockBody 15 = true := by
  have hx : (unlock s.tokenKey kind life).ext = 3 := by simp [Cmd.ext, unlock, bits]
  refine accepted_of hr hn rfl rfl ⟨by simp [unlock, bits], by simp [unlock, bits], by omega⟩
    (by decide) fun t _ hb hp => ?_
  have hres : (unlock s.tokenKey kind life).reserved [(0x08, 1), (0x40, 192)] = .ok () := by
    have hp : slice (unlock s.tokenKey kind life).payload 0 (56 + 64 * 3) = (unlock s.tokenKey kind life).payload :=
      slice_all (by simp [unlock, token, tokenBody, signature_length])
    unfold Cmd.reserved
    rw [hx, hp]
    unfold unlock
    dsimp only
    rw [reservedAux_zeros, reservedAux_used]
    intro i h1 h2
    have : i < 8 + 56 + 192 := by simpa [token, tokenBody, signature_length] using h2
    refine List.any_eq_true.mpr ⟨(0x40, 192), by simp, ?_⟩
    simp only [fieldHas, Bool.and_eq_true, decide_eq_true_eq]
    omega
  have hop : (unlock s.tokenKey kind life).u8 0x08 = 0 := by simp [Cmd.u8, fieldU, slice, unlock, leNat]
  have hkey : t.tokenKey = s.tokenKey := by unfold State.tokenKey; rw [hb]
  have htok := token_ok (s := t) (kind := kind) (life := life) (by rw [hb]; exact h1) (by rw [hb]; exact hl)
    (by rw [hb]; exact hn) (by rw [hb]; exact ho)
  rw [hkey] at htok
  unfold debugUnlockBody
  simp only [hx, hop, unlock_token, htok, hres, hb, hp, hd, hc]
  have hk : fieldU (token s.tokenKey kind life) 6 1 = kind.toNat := by
    unfold fieldU
    rw [token_lo _ _ _ (by omega)]
    simp [slice, tokenBody, leBytes, leNat]
  rw [hk]
  rcases h1 with rfl | rfl | ⟨rfl, _⟩ <;> rfl

/-- DEBUG_UNLOCK's four clauses: a session closes, and a token opens one, returns a part or secures it. -/
theorem witness_unlock_commands :
    let blank : State := { ready with boot := { ready.boot with lifecycle := .blank } }
    accepted { ready with boot := { ready.boot with deviceSession := true } } (cmd 0 [(0x08, 1, 1)]) 0x1102 .platform
      debugUnlockBody 15 = true ∧
    accepted ready (unlock ready.tokenKey 1 2) 0x1102 .platform debugUnlockBody 15 = true ∧
    accepted ready (unlock ready.tokenKey 2 2) 0x1102 .platform debugUnlockBody 15 = true ∧
    accepted blank (unlock blank.tokenKey 3 1) 0x1102 .platform debugUnlockBody 15 = true := by
  refine ⟨by decide +kernel, ?_, ?_, ?_⟩ <;> apply unlock_accepted <;> decide

/-! ### The hypotheses of the statements about events at the part's edges -/

/-- `lighted` in mode `m`, its MSI-X and interrupt state as given by `f`. -/
def moded (m : Mode) : State := { lighted with power := { lighted.power with mode := m } }

/-- `lighted` with the mailbox of tenant 2 in a state, four entries in each ring. -/
def boxed (m : Mailbox) : State := lighted.modTenant 2 (fun x => { x with mbox := m })

theorem witness_doorbell_rows :
    let m : Mailbox := { ringCfg := 0x404, usable := true }
    ((moded .keep).tick 0).asleep = true ∧ ((moded .listen).tick 5).asleep = true ∧ ((moded .tell).tick 0).asleep = false ∧
    ((moded .drive).tick 0).doorbell? 1023 = none ∧
    (∀ st ∈ [MboxState.running, .stopped, .disabled, .draining],
      ((boxed { m with state := st }).tick 0).doorbell? 2 = some { m with state := st }) ∧
    ((16 : Word) - m.cmdHead).toNat ≤ 2 ^ bits m.ringCfg.toNat 3 0 ∧
    ¬((17 : Word) - m.cmdHead).toNat ≤ 2 ^ bits m.ringCfg.toNat 3 0 ∧
    ((0 : Word) - m.cplHead).toNat ≤ (m.cplTail - m.cplHead).toNat ∧
    ¬((1 : Word) - m.cplHead).toNat ≤ (m.cplTail - m.cplHead).toNat ∧
    ((boxed m).tick 0).enableFault 2 m = none ∧
    ((boxed m).tick 0).enableFault 2 { m with cmdTail := 1 } = some eState := by
  refine ⟨?_, ?_, ?_, ?_, ?_, ?_, ?_, ?_, ?_, ?_, ?_⟩ <;> decide +kernel

theorem witness_device_page_and_mailbox_engine_rows :
    (∀ st ∈ [MboxState.running, .stopped, .draining], ((boxed { state := st }).tick 0).inFlight 2 = 0 ∧
      (((boxed { state := st }).tick 0).tenant? 2).any (fun x => x.mbox.state = st) = true) ∧
    (let b := (boxed { sinceIrq := 1, irqMod := 0x10001, firstAt := 998976 }).tick 0
     (b.tenant? 2).any (fun x => decide (1 ≤ x.mbox.sinceIrq) &&
       decide (bits x.mbox.irqMod.toNat 31 16 * 1024 ≤ b.since x.mbox.firstAt)) = true) ∧
    (lighted.tick 0).boot.fwReady = true ∧ (State.reset.tick 0).boot.fwReady = false ∧
    (1 : Word).getLsbD 0 = true ∧ (0xFFFFFFFE : Word).getLsbD 0 = false ∧
    (({ lighted with legend := { lighted.legend with built := true } } : State).tick 0).legend.built = true ∧
    (State.reset.tick 0).legend.built = false := by
  refine ⟨?_, ?_, ?_, ?_, ?_, ?_, ?_, ?_⟩ <;> decide +kernel

/-- `lighted` with pin `p` in an interrupt mode, the count of its source and its input as given. -/
def pinned (p mode count : Nat) (b : Bool) : State :=
  { lighted with
    pins := { lighted.pins with pin := [(p, { irqMode := mode })] }
    intc := { lighted.intc with src := [(320 + p, { count := count, asserted := b })] } }

theorem witness_interrupt_controller_rows :
    (320 + 159 < 512 ∧ ((pinned 159 4 0 true).tick 0).isLevel (320 + 159) = true) ∧
    (320 < 512 ∧ ((pinned 0 3 254 false).tick 0).isLevel 320 = false ∧ ((pinned 0 3 254 false).tick 0).intcStopped = false ∧
      (((pinned 0 3 254 false).tick 0).src 320).count < 255) ∧
    (255 ≤ (((pinned 0 3 255 false).tick 0).src 320).count) ∧
    (((moded .keep).tick 0).isLevel 320 = false ∧ ((moded .keep).tick 0).intcStopped = true) ∧
    (lighted.tick 0).time.running = true ∧ (State.reset.tick 0).time.running = false ∧
    (512 ≤ 512) ∧ (320 / 32 = 10 ∧ (1 : Word).getLsbD (320 % 32) = true) := by
  refine ⟨?_, ?_, ?_, ?_, ?_, ?_, ?_, ?_⟩ <;> decide +kernel

/-- `lighted` with capture channel 31 and PWM unit 15 as given, for tenant 2. -/
def clocked (x : CaptureCh) (u : Pwm) : State :=
  { lighted with timers := { lighted.timers with capture := [(31, x)], pwm := [(15, u)] } }

theorem witness_timer_rows :
    let x : CaptureCh := { owner := some 2, edge := 3, filter := 1, prescale := 2 }
    let st (x : CaptureCh) : CaptureCh := ((clocked x {}).tick 0).captureCh 31
    let pw (u : Pwm) : Pwm := ((clocked {} u).tick 0).pwmUnit 15
    let on : Pwm := { owner := some 2, running := true }
    ((lighted.tick 0).time.running = true ∧ (lighted.tick 0).now.toNat % 8 = 0 ∧ (lighted.tick 7).now.toNat % 8 ≠ 0) ∧
    ((State.reset.tick 0).time.running = false) ∧
    ((st x).owner.isSome = true ∧ false = (st x).level ∧ true ≠ (st x).level ∧ (st x).runLen < (st x).filter) ∧
    ((st { x with runLen := 1 }).filter ≤ (st { x with runLen := 1 }).runLen) ∧
    (bitOf (st { x with edge := 2 }).edge (if true then 0 else 1) = false) ∧
    (bitOf (st x).edge (if true then 0 else 1) = true ∧ ((st x).edges + 1) % (st x).prescale ≠ 0) ∧
    (((st { x with edges := 1 }).edges + 1) % (st { x with edges := 1 }).prescale = 0 ∧ (st x).queue.length < 16) ∧
    (16 ≤ (st { x with queue := List.replicate 16 (1, 0) }).queue.length) ∧
    ((st {}).owner = none ∧ (pw {}).running = false ∧ (pw on).running = true ∧ (pw on).started = false ∧ (pw on).cur.start = none) ∧
    ((pw { on with cur := { start := some 1000000 } }).cur.start = some 1000000 ∧
      0 ≤ meridianDiff ((clocked {} { on with cur := { start := some 1000000 } }).tick 0).now 1000000) ∧
    (meridianDiff ((clocked {} { on with cur := { start := some 1000001 } }).tick 0).now 1000001 < 0) ∧
    (let go : Pwm := { on with started := true }
     (pw go).next = .none ∧ (pw go).count + 1 < (pw go).cur.period ∧
     (pw { go with count := 1 }).cur.period ≤ (pw { go with count := 1 }).count + 1 ∧
     (pw { go with next := .set { period := 9 }, count := 1 }).next = .set { period := 9 } ∧
     (pw { go with next := .free true }).next = .free true ∧
     (pw { go with next := .set {} }).next = .set { immediate := false } ∧
     (let cut : PwmSet := { period := 2, immediate := true }
      let long : Pwm := { go with cur := { period := 9 }, count := 1, next := .set cut }
      (pw long).next = .set cut ∧ (pw long).count + 1 < (pw long).cur.period ∧ cut.period ≤ (pw long).count + 1) ∧
     (let grow : PwmSet := { period := 3, immediate := true }
      let long : Pwm := { go with cur := { period := 9 }, count := 1, next := .set grow }
      (pw long).next = .set grow ∧ (pw long).count + 1 < grow.period)) ∧
    ((lighted.tick 0).cpRuns = true ∧ (State.reset.tick 0).cpRuns = false) := by
  refine ⟨?_, ?_, ?_, ?_, ?_, ?_, ?_, ?_, ?_, ?_, ?_, ?_, ?_⟩ <;> decide +kernel

/-- `lighted` with DMA channel 0 of tenant 2 at work on a copy of 64 bytes in its mapped page. -/
def copying (done rate : Nat) (st : DmaState) : State :=
  let d : Descriptor := { src := 0x100000, dst := 0x108000, length := 64, op := 0, flags := 0, tag := 0, pattern := 0 }
  { planed with dma := { planed.dma with
    ch := [(0, { owner := some 2, state := st
                 jobs := [⟨⟨2, 0, 7, 0x0F02⟩, [d], 0, done, 0xFFFFFFFF, 0, 0, 0xFFFFFFFF, none⟩] })]
    buckets := if rate = 0 then [] else [(2, { rate := rate, burst := 4, tokens := 0, at_ := 1000000 })] } }

/-- The example of R474: 4 MiB at the default share take at least 2,064.4 µs. -/
theorem test_dma_share_example :
    (({} : Bucket).credit 2113929).covers 4194304 = false ∧ (({} : Bucket).credit 2113930).covers 4194304 = true := by decide

/-- A job of the blit engine that fills one pixel of tenant 2. -/
def oneFill (addr : Nat) : BlitJob :=
  { ref := ⟨2, 0, 7, 0x0F03⟩, op := 1, premul := false, srcFormat := 0, dstFormat := 0, srcPitch := 0, srcAddr := 0
    dstAddr := addr, dstPitch := 4, srcX := 0, srcY := 0, dstX := 0, dstY := 0, w := 1, h := 1, colour := 5, alpha := 0
    backwards := false }

theorem witness_dma_rows :
    let a (done rate : Nat) (st : DmaState) : State := (copying done rate st).tick 0
    let d : Descriptor := { src := 0x100000, dst := 0x108000, length := 64, op := 0, flags := 0, tag := 0, pattern := 0 }
    let ring (s : State) : State := s.modDma 0 (fun x => { x with cons := 0x100000, ring := 0x109000 })
    (((a 0 0 .running).dmaCh 0).jobs.map DmaJob.descs = [[d]] ∧ (a 0 0 .running).enginesRun = true ∧
      ((a 0 0 .running).dmaCh 0).state ≠ .ring) ∧
    (0 < d.length ∧ (a 0 100 .running).takeTokens 0 2 (d.nextRun 0) = none) ∧
    (((a 0 0 .running).takeTokens 0 2 (d.nextRun 0)).any (fun b => ((b.modDma 0 (fun x => { x with
      state := .running })).dmaMove 2 d 0 (d.nextRun 0)).2.2 = none) = true) ∧
    (((a 0 0 .running).takeTokens 0 2 64).any (fun b => ((b.modDma 0 (fun x => { x with
      state := .running })).dmaMove 2 { d with src := 0x200000 } 0 64).2.2.isSome) = true) ∧
    (((a 64 0 .running).dmaCh 0).jobs.map DmaJob.done = [64] ∧ d.length ≤ 64) ∧
    (let u (done rate : Nat) := ((a done rate .running).bucket 2).credit (a done rate .running).now
     (u 0 0).rate ≠ 0 ∧ (d.length - 0) * 1024 ≤ (u 0 0).tokens ∧ (u 0 100).rate ≠ 0 ∧ (u 0 100).tokens < (d.length - 0) * 1024) ∧
    (((a 64 0 .ring).dmaCh 0).state = .ring ∧ ((a 64 0 .ring).dmaCh 0).jobs.map DmaJob.stopped = [none] ∧
      (((a 64 0 .ring).modDma 0 (fun x => { x with jobs := x.jobs.map (fun j => { j with
        stopped := some 1 }) })).dmaCh 0).jobs.map DmaJob.stopped = [some 1]) ∧
    ((match (ring (a 64 0 .running)).dmaPut 0 2 (fun _ => List.replicate 32 0) with | .written _ => true | _ => false) = true) ∧
    ((match ((ring (a 64 0 .running)).modDma 0 (fun x => { x with count := 16 })).dmaPut 0 2 (fun _ => []) with
      | .noRoom => true | _ => false) = true) ∧
    (let b (r : Option BlitJob) (q : List BlitJob) : State := { planed with dma := { planed.dma with blitRun := r, blits := q } }
     (b none [oneFill 0x108000]).dma.blitRun = none ∧ (b none [oneFill 0x108000]).dma.blits = [oneFill 0x108000] ∧
     (b none []).dma.blits = [] ∧ (b (some (oneFill 0x108000)) []).dma.blitRun.isSome = true ∧
     ((b (some (oneFill 0x108000)) []).tick 0 |>.blitRows 2 (oneFill 0x108000) 1 0).2.2.2 = none ∧
     ((b (some (oneFill 0x200000)) []).tick 0 |>.blitRows 2 (oneFill 0x200000) 1 0).2.2.2.isSome = true) := by
  refine ⟨?_, ?_, ?_, ?_, ?_, ?_, ?_, ?_, ?_, ?_⟩ <;> decide +kernel

theorem witness_pin_rows :
    let a := ({ wired with pins := { wired.pins with
      harmless := false
      pin := [(0, { coalesce := true, count := 1 }), (1, { handover := some .gpio, locked := true }), (159, {})]
      block := [(0, { queue := [⟨⟨2, 0, 7, 0x1003⟩, 0, [], 0⟩] }), (6, { enabled := true }),
        (7, { enabled := true, rx := List.replicate 256 0 })] } } : State).tick 0
    ((a.pin 0).coalesce = true ∧ 0 < (a.pin 0).count ∧ ((a.pin 1).coalesce = false ∨ (a.pin 1).count = 0)) ∧
    ((1 : Word).getLsbD 16 = false ∧ (0x80000000 : Word).getLsbD (16 + 15) = true ∧ (a.pin 159).locked = false ∧
      (a.pin 1).locked = true) ∧
    ((a.pin 1).handover = some .gpio ∧ (a.block 0).queue ≠ []) ∧
    ((a.block (6 + 0)).enabled = true ∧ (a.block (6 + 0)).rx.length < 27 ∧ (a.block (6 + 0)).rx = []) ∧
    (a.receives (23 + 4 * 0) = true ∧ a.receives (23 + 4 * 1) = true ∧
      (({ wired with pins := { wired.pins with harmless := true } } : State).tick 0).receives 23 = false) ∧
    ((a.block (6 + 1)).enabled = true ∧ 256 ≤ (a.block (6 + 1)).rx.length ∧ (a.block (6 + 1)).rx ≠ []) ∧
    (let b := ({ wired with pins := { wired.pins with
        block := [(6, { enabled := true, rx := List.replicate 27 0 })] } } : State).tick 0
     27 ≤ (b.block (6 + 0)).rx.length ∧ (b.block (6 + 0)).rx.length < 256) := by
  refine ⟨?_, ?_, ?_, ?_, ?_, ?_, ?_⟩ <;> decide +kernel

theorem witness_beam_and_composer_rows :
    let on (f : Head → Head) : State := (lighted.modHead 0 f).tick 0
    let hd (f : Head → Head) : Head := (on f).head 0
    let porch (x : Head) : Head := { x with line := 249, porch := 1 }
    let due (x : Head) : Head := { x with due := [(6, 1000000)], line := 385 }
    let busy (x : Head) : Head := { x with comp := { x.comp with running := true, busy := true, next := 239 } }
    let fr : CapFrame := { frame := 5, time := 1, page := 0 }
    let k : Capture := { owner := 2, decimate := 1, rect := ⟨0, 0, 1, 1⟩, pages := 2, ring := 0, cons := 0 }
    ((hd id).timing = some small ∧ (hd id).stopped = false ∧ (hd id).state = .composing) ∧
    ((hd porch).line + 1 = small.vA + small.vF ∧ 0 < (hd porch).porch ∧ (on porch).porchStops 0 small = false) ∧
    (let at240 (x : Head) : Head := { x with line := 240 }
     ¬(hd at240).line + 1 = small.vA + small.vF ∧ small.vA ≤ (hd at240).line) ∧
    (¬(hd id).line + 1 = small.vA + small.vF ∧ (hd id).line < small.vA) ∧
    ((lighted.tick 0 |>.head 7).timing = none) ∧
    ((hd id).due = []) ∧
    ((hd due).due = [(6, 1000000)] ∧ (hd due).state = .composing ∧ (hd due).boundaries = true ∧ (hd due).comp.running = false ∧ (hd due).comp.busy = false ∧
      (on due).wakeOpen 0 0 = false ∧ (on due).power.mode ≠ .tell) ∧
    (let go (x : Head) : Head := { x with comp := { x.comp with running := true, frame := 5, next := 100 } }
     (hd go).comp.running = true ∧ (hd go).comp.busy = false ∧ (on go).served 0 = true ∧ (hd go).comp.next < (hd go).vA ∧
     (on go).wakeOpen 0 100 = false ∧ (hd go).beamAllows (hd go).comp.frame (hd go).comp.next = true) ∧
    ((hd id).comp.running = false ∧ (hd id).comp.busy = false) ∧
    ((hd (fun x => { x with comp := { x.comp with stale := [⟨0, 9⟩] } })).comp.stale = [⟨0, 9⟩]) ∧
    ((hd busy).comp.busy = true ∧ (hd busy).comp.stale = [] ∧ (hd busy).comp.epoch = (hd busy).epoch ∧ (on busy).served 0 = true ∧
      (hd (fun x => { busy x with epoch := 1 })).comp.epoch ≠ (hd (fun x => { busy x with epoch := 1 })).epoch ∧
      (({ lighted with disp := { (lighted.modHead 0 busy).disp with clusters := [] } } : State).tick 0).served 0 = false) ∧
    (let x := hd (fun x => { x with capture := some { k with frame := some { fr with status := some eTrunc } } })
     x.capture.any (fun k => k.stop.isNone && k.frame.any (fun f => f.status.isSome)) = true) ∧
    (let x := hd (fun x => { x with capture := some { k with frame := some { fr with status := some eTrunc }, stop := some [] } })
     x.capture.any (fun k => k.stop.isSome && k.frame.any (fun f => f.status.isSome)) = true) ∧
    ((((lighted.modTenant 2 (fun x => x.subscribe 0x0804 0)).tick 0).tenant? 2).any (fun o => o.covers 0x0804 0) = true ∧
      ((lighted.tick 0).tenant? 2).any (fun o => o.covers 0x0804 0) = false) ∧
    (let x := hd (fun x => { x with capture := some { k with frame := some fr } })
     x.capture.any (fun k => k.frame.any (fun f => f.status.isNone)) = true) ∧ ((hd id).capture = none) := by
  refine ⟨?_, ?_, ?_, ?_, ?_, ?_, ?_, ?_, ?_, ?_, ?_, ?_, ?_, ?_, ?_, ?_⟩ <;> decide +kernel

theorem witness_port_and_lock_rows :
    let w (p : Port) : Port := ((lighted.modPort 7 (fun _ => p)).tick 0).portAt 7
    let r : Route := ⟨4, 1, 5, [some 0]⟩
    let role (h n : Nat) (lk : Nat) : Bool := ((lighted.modHead n (fun x => { x with lock := { x.lock with role := lk } })).tick 0
      |>.head h).lock.role = lk
    ((w { pend := [⟨none, r, [0]⟩], training := true }).pend = [⟨none, r, [0]⟩] ∧
      (w { pend := [⟨some ⟨0, 0, 7, 0x0802⟩, r, []⟩], training := true }).training = true ∧
      (w { pend := [⟨none, r, []⟩] }).training = false ∧ (w { training := true }).pend = []) ∧
    ((routed.tick 0).portSends 0 = true ∧ (lighted.tick 0).portSends 7 = false) ∧
    ((w { route := some r, hpd := true }).route.isSome = true ∧ (w { route := some r, hpd := true }).hpd = true ∧
      (w {}).route = none ∧ (w { route := some r }).sending = false ∧ (w { sending := true }).sending = true) ∧
    (true ∈ [false, false, true].take 3 ∧ true ∉ [false, false, false, true].take 3) ∧
    ((0x80000F8F : Word).getLsbD 31 = true ∧ (0x7FFFFFFF : Word).getLsbD 31 = false ∧ (w { auxBusy := true }).auxBusy = true ∧
      (w { hpd := true }).auxBusy = false ∧ auxRequestOk (bits (0x80000F09 : Word).toNat 3 0) = true ∧
      auxRequestOk (bits (0x80000003 : Word).toNat 3 0) = false ∧
      ((w { auxBusy := true, auxWait := true, training := true }).auxWait = true ∧
        (w { auxBusy := true, auxWait := true, training := true }).training = true)) ∧
    ((w { auxBusy := true, hpd := true, auxCtl := 0xF08 }).hpd = true ∧
      auxRequestOk (bits (w { auxBusy := true, hpd := true, auxCtl := 0xF08 }).auxCtl.toNat 3 0) = true) ∧
    ((∀ h < 8, ((lighted.tick 0).head h).lock.role ≠ 2) ∧ role 7 7 2 = true ∧ role 7 7 3 = true) ∧
    ((lighted.tick 0).edgesMissing 7 = true ∧
      ((lighted.modDisp (fun d => { d with fsyncAt := some 1000000 })).tick 0).edgesMissing 7 = false) := by
  refine ⟨?_, ?_, ?_, ?_, ?_, ?_, ?_, ?_⟩ <;> decide +kernel

theorem no_window : unitAt 0x10000000 = none := by
  unfold unitAt
  rw [List.find?_eq_none.mpr]
  · rfl
  · intro w hw
    have := (windows_bounds.2 w hw).2.2
    simp
    omega

theorem witness_register_rows :
    (∃ a u, a % 4 = 0 ∧ unitAt a = some u) ∧ (∃ a, a % 4 = 0 ∧ unitAt a = none) ∧
    ((lighted.tick 0).asleep = false ∧ (lighted.tick 0).boot.fwReady = true ∧ (lighted.tick 0).dev.pasidLock = false ∧
      (({ lighted with dev := { lighted.dev with pasidLock := true } } : State).tick 0).dev.pasidLock = true ∧
      (1 : Word).getLsbD 0 = true ∧ (2 : Word).getLsbD 0 = false) ∧
    ((∀ n < 8, (lighted.tick 0).hwHas (.devEvent n) = false) ∧ (lighted.tick 0).cycle.hwSet = []) ∧
    (AccessWidth.dword ≠ .word ∧ 0x4012 % 4 ≠ 0 ∧ 0x4012 < 0x100000) ∧
    (1023 < 1024 ∧ 0xFFC < 0x1000 ∧ 0xFFC % 4 = 0 ∧ ((moded .keep).tick 0).asleep = true ∧
      ((((moded .keep).tick 0).wakeDomain 2).sourceWake 5).asleep = true) ∧
    (lighted.power.mode = .drive) ∧
    (let e (x : Eth) : State := ({ lighted with eth := [(1, x)] } : State).tick 0
     (0x80000000 : Word).getLsbD 31 = true ∧ (IMap.get (e { busy := true }).eth {} 1).busy = true ∧
     (IMap.get (e {}).eth {} 1).busy = false ∧ (e { busy := true }).mdioRuns 1 = true ∧ (e {}).mdioRuns 1 = false) ∧
    (let l (x : LegendState) : State := ({ lighted with legend := x } : State).tick 0
     let cs := (lighted.legendNow).1
     (l { built := true, shown := cs }).legend.everUpdated = false ∧
     (l { built := true, shown := cs }).legendNow = (cs, .active, []) ∧ (l { built := true }).legendNow.1 ≠ List.replicate 10 .spare ∧
     (l {}).legend.built = false) := by
  refine ⟨?_, ⟨_, by decide, no_window⟩, ?_, ?_, ?_, ?_, ?_⟩
  · obtain ⟨a, h, _, ha⟩ := a_window _ (.head _)
    exact ⟨a, _, h, ha⟩
  all_goals decide +kernel

theorem witness_audio_rows :
    let a := sounding.tick 0
    let au (f : Audio → Audio) : State := (sounding.modAudio f).tick 0
    (a.audioRuns = true ∧ (2 ≤ 2 ∧ 2 < 3) ∧ ((moded .keep).tick 0).audioRuns = false) ∧
    ((IMap.find? a.audio.lanes 31).any (fun x => x.unlocked = false) = true) ∧
    (let b := au (fun u => { u with clkA := { u.clkA with locking := true }, clkB := { u.clkB with locking := true } })
     b.audio.clkA.locking = true ∧ b.audio.clkB.locking = true) ∧
    (let b := au (fun u => { u with tdmIn := [(0, { on := true, format := 6 }), (3, { on := true })] })
     (IMap.find? b.audio.tdmIn 3).any (fun t => t.on && !bitOf t.format 2) = true ∧
     (IMap.find? b.audio.tdmIn 0).any (fun t => bitOf t.format 2) = true ∧
     (IMap.find? b.audio.tdmOut 0).any (fun t => t.on && !bitOf t.format 2) = true) ∧
    ((IMap.find? a.audio.avtp (16 + 0)).isSome = true ∧ IMap.find? a.disp.gptp 0 = some (true, 0, 0)) ∧
    (let g (r : Nat) : State := { a with disp := { a.disp with gptp := [(0, (true, 0, r))] } }
     let t (pt : Int) : Meridian := a.now + BitVec.ofInt 64 (signed 32 (wrapTo 32 (pt - gptpOf (true, 0, 4194304000) (g 0).now)) *
       2 ^ 32 / (max 1 4194304000 : Nat))
     meridianDiff (t 976561) a.now < 0 ∧ 0 ≤ meridianDiff (t 976562) a.now) ∧
    ((a.bus 0).capture = none ∧ (a.bus 14).capture.isSome = true ∧
      (let c := (sounding.modACap 14 (fun k => { k with live := true })).tick 0
       (c.bus 14).capture.any (fun x => x.live && !x.skip && x.status.isNone) = true)) := by
  refine ⟨?_, ?_, ?_, ?_, ?_, ?_, ?_⟩ <;> decide +kernel

theorem witness_wait_fetch_and_maintenance_rows :
    let f (st : FlightStage) : State := ({ planed with flights := [{ cmd := cmd 2 [], opcode := 0x0201, stage := st }] } : State).tick 0
    let stage (st : FlightStage) : Option FlightStage := ((f st).flightAt 2 0).map (·.stage)
    let act (n : Nat) (x : Activity) (c : Cluster) : State := ((({ lighted with now := 20000000, power := { lighted.power with mode := .service } } :
      State).modActivity n (fun _ => x)).modCluster 9 (fun _ => c)).tick 0
    (∀ st ∈ [FlightStage.waiting (.map [] 1), .waiting (.unmap []), .waiting (.bank 15 1 9), .fetched, .running, .formed],
      stage st = some st) ∧
    ((f .running).flightAt 2 1 = none ∧ inStore dramBase = false ∧
      (IMap.find? ((planed.tick 0).head 0).planes 20).isSome = true) ∧
    (((sounding.tick 0).voice 95).fault = 0 ∧ ((sounding.tick 0).voice 95).faultDue = 0 ∧ ((sounding.tick 0).voice 95).tenant 95 = some 2 ∧ ((sounding.tick 0).voice 99).tenant 99 = some 1) ∧
    (((lighted.tick 0).tenant? 2).any (fun x => x.mbox.state = .running) = true) ∧
    (let k (n : Nat) : State := act 1 { period := 1 } { service := .active, missed := n }
     ((k 1).cluster 9).service = .active ∧ (k 1).power.mode = .service ∧ ((k 1).cluster 9).missed < 2 ∧
     2 ≤ ((k 2).cluster 9).missed ∧ (true && false) = false) ∧
    (let k := act 4 { period := 1, running := true, cluster := some 9 } { service := .quarantined }
     (k.activity 4).running = true ∧ (k.activity 4).cluster = some 9 ∧ (k.cluster 9).service = .quarantined) ∧
    ((f (.waiting (.unmap []))).tenants ≠ [] ∧ ([] : List Leaf).any (fun l => (planed.tick 0).loadsOutstanding 2 l.base l.size) = false) ∧
    (let k := act 6 { period := 1, running := false } {}
     k.activityPeriod 6 ≤ k.since (k.activity 6).lastStart) ∧
    (let k := act 6 { period := 1000, running := true } {}
     k.since (k.activity 6).lastStart < k.activityPeriod 6) ∧
    (let k := act 6 { period := 1, running := true } {}
     1 ≤ 6 ∧ (k.activity 6).enabled = true ∧ actInMode 6 k.power.mode = true ∧ (k.activity 6).running = true) ∧
    (((act 1 { period := 1, enabled := false } {}).activity 1).enabled = false) := by
  refine ⟨?_, ?_, ?_, ?_, ?_, ?_, ?_, ?_, ?_, ?_, ?_⟩ <;> decide +kernel

theorem witness_governor_and_arm_rows :
    let r : CmdRef := ⟨0, 0, 7, 0x0D02⟩
    let arm (k : ArmChange) : State := (lighted.modDisp (fun d => { d with arms := [k] })).tick 0
    let step : ArmChange := { id := 3, kind := .cclk 500, applyAt := 1000000 }
    let get (k : ArmChange) : Option ArmChange := (arm k).disp.arms.find? (fun k => k.id = 3)
    ((lighted.tick 0).governs = true ∧ ((moded .off).tick 0).governs = false ∧ (lighted.tick 0).disp.gov.unanchored = false) ∧
    ((lighted.tick 0).quiet = true ∧ ((lighted.modHead 0 (fun x => { x with comp := { x.comp with busy := true } })).tick 0).quiet =
      false) ∧
    (let b := ({ lighted with now := 20000000000 } : State).tick 0
     10000 * 1024000 ≤ b.since b.disp.gov.lastAnchor) ∧
    ((lighted.tick 0).disp.arms.find? (fun k => k.id = 3) = none) ∧
    (get step = some step ∧ step.applied = false ∧ step.leftOut = [] ∧ step.missed = [] ∧ [ArmUnit.cluster 0] ≠ [] ∧
      (arm step).disp.armedNow 3 = true ∧ (arm step).takesPart step (.cluster 0) = true ∧
      (arm step).deadlinePassed step (.cluster 0) = true ∧ (arm step).hasCome step.applyAt = true) ∧
    ((arm step).takesPart step (.head 7) = false ∧
      (arm { step with applyAt := 1020481 }).deadlinePassed { step with applyAt := 1020481 } (.cluster 0) = false) ∧
    (get { step with kind := .plan r 500 400 100 400 } = some { step with kind := .plan r 500 400 100 400 }) ∧
    (get { step with applyAt := 1000001 } = some { step with applyAt := 1000001 } ∧ (arm step).hasCome 1000001 = false) ∧
    (let on : ArmChange := { step with applied := true, appliedAt := 997952 }
     get on = some on ∧ ArmUnit.cluster 0 ∉ on.failed ∧ (arm on).takesPart on (.cluster 0) = true ∧
      (arm on).ackDue on.appliedAt = true) ∧
    (let bad : ArmChange := { step with applied := true, failed := [.cluster 0] }
     get bad = some bad ∧ (arm bad).disp.armedNow 3 = true ∧ (arm bad).hasCome bad.applyAt = true) ∧
    (({ lighted with power := { lighted.power with pwrfail := true } } : State).tick 0).power.pwrfail = true := by
  refine ⟨?_, ?_, ?_, ?_, ?_, ?_, ?_, ?_, ?_, ?_, ?_⟩ <;> decide +kernel

/-- `lighted` with the Pegbox's state as given by `f`, in mode `m`. -/
def pegged (m : Mode) (f : Peg → Peg) : State := ((moded m).modPeg f).tick 0

theorem witness_pegbox_rows :
    let w : WakeSource := { mac := 1, ethType := 0x88F7, dest := List.replicate 6 1, patOff := 14, pattern := [] }
    let frame : List Byte := List.replicate 6 1 ++ List.replicate 6 0 ++ [0x88, 0xF7]
    let layer : Layer := { type := 0, kernel := 1, stride := 1, shift := 0, inF := 1, inC := 40, outF := 1, outC := 1
                           weights := List.replicate 40 1, biases := [0] }
    let model : Model := { context := 1, classes := 1, mic := 0, inOffset := 0, inShift := 0, layers := [layer] }
    let ev (src : WakeSource) (streak : Nat) : State := pegged .listen (fun g => { g with
      model := some model, evalDue := true, hist := [List.replicate 40 1], sources := [(2, src)], streak := streak })
    let i2c (f : I2c → I2c) : State := pegged .keep (fun g => { g with running := true, latched := true, i2c := f g.i2c })
    (w.frameMatches 1 frame = true ∧ w.frameMatches 0 frame = false) ∧
    ((pegged .drive (fun g => { g with running := true })).peg.running = true ∧
      (pegged .drive (fun g => { g with running := true })).pegAwake = true ∧ (pegged .keep id).pegAwake = false) ∧
    ((pegged .off id).power.mode = .off ∧ (pegged .keep id).power.mode ≠ .off) ∧
    ((ev { threshold := 168, frames := 1 } 0).peg.evalDue = true ∧ (ev { threshold := 168, frames := 1 } 0).pegAwake = true ∧
      ((model.scores [List.replicate 40 1])[0]?).any (fun y => decide (168 ≤ y) && decide (y < 169)) = true ∧
      (1 ≤ (ev { threshold := 168 } 0).peg.streak + 1) ∧ (ev { threshold := 168, frames := 2 } 0).peg.streak + 1 < 2) ∧
    ((pegged .keep id).peg.model = none ∧ (0x4C : BitVec 7).toNat = 0x4C + (pegged .keep id).peg.i2c.straps ∧
      (0x4F : BitVec 7).toNat ≠ 0x4C + (pegged .keep id).peg.i2c.straps ∧ (pegged .keep id).boot.resetLow = false) ∧
    (let x (n : Nat) : State := i2c (fun i => { i with active := true, index := n })
     (x 2).peg.i2c.active = true ∧ (x 2).peg.i2c.reading = false ∧ (x 2).peg.i2c.dead = false ∧ (x 2).pegAwake = true ∧
     (x 2).peg.i2c.first = false ∧ (x 15).peg.running = true ∧ (x 0).peg.i2c.index = 0 ∧ (x 1).peg.i2c.index = 1 ∧
     (0xFC : Byte).toNat % 4 = 0) ∧
    (let x (b : Bool) : State := i2c (fun i => { i with active := true, reading := b, dead := true, stretching := true })
     (x false).peg.i2c.dead = true ∧ (x true).peg.i2c.reading = true ∧ (x true).peg.i2c.stretching = true) ∧
    ((i2c (fun i => { i with active := true, reading := true })).peg.i2c.dead = false ∧ (i2c id).peg.i2c.active = false) := by
  refine ⟨?_, ?_, ?_, ?_, ?_, ?_, ?_, ?_⟩ <;> decide +kernel

theorem witness_mode_and_clock_rows :
    let back : ModeChange := { target := .drive, cause := 1, ref := none, applyAt := 0, applied := true }
    let m (x : Mode) (k : Option ModeChange) : State :=
      ({ lighted with power := { lighted.power with mode := x, change := k } } : State).tick 0
    ((m .drive none).power.change = none ∧ (m .service (some back)).power.change = some back ∧
      (m .service (some back)).power.mode = .service ∧
      (m .service (some back)).disp.arms.any (fun k => k.kind = .mode && !k.failed.isEmpty) = false) ∧
    (∀ n ∈ [0, 1, 2, 3, 4], (pegged .keep (fun g => { g with latched := true, reqMode := n })).peg.reqMode = n ∧
      (pegged .keep (fun g => { g with latched := true, reqMode := n })).power.mode.sleeps = true) ∧
    ((pegged .keep id).peg.latched = false ∧ (pegged .drive id).power.mode.sleeps = false) ∧
    ((m .service none).power.servicePinLow = false ∧ (m .drive none).power.mode ≠ .service) ∧
    (let l (rs : List ClockRef) : State := ({ lighted with clocks := { lighted.clocks with refsLost := rs } } : State).tick 0
     ClockRef.mclk ∈ (l [.mclk]).clocks.refsLost ∧ ClockRef.xi ∉ (l [.mclk]).clocks.refsLost) ∧
    (let t (x : TimeState) : State := ({ lighted with time := x } : State).tick 0
     (t { stopDue := true }).time.stopDue = true ∧ (t { resumeDue := true }).time.stopDue = false ∧
     (t { resumeDue := true }).time.resumeDue = true ∧
     (let rings : Calendar := { valid := true, alarm := some ⟨true, { second := 1 }⟩ }
      let b (c : Calendar) : State := ((t { cal := c }).meridianEdge.modCal Calendar.count).calendarCommands
      (b {}).time.cal.fires {} = false ∧
      (b { rings with time := { subsec := 32767 } }).time.cal.fires { subsec := 32767 } = true)) := by
  refine ⟨?_, ?_, ?_, ?_, ?_, ?_⟩ <;> decide +kernel

/-- `lighted` with its boot state as given by `f`. -/
def booting (f : Boot → Boot) : State := ((lighted.modBoot f).tick 0)

/-- The bytes of a copy's header that its signature covers: a firmware of 64 zero bytes at 0x1000, no boot image and no memory
configuration, and the Ixent root key. -/
def headerBody : List Byte :=
  leBytes 4 0x544F4258 ++ [0, 1, 0, 0] ++ leBytes 4 0x1000 ++ leBytes 4 64 ++ List.replicate 16 0 ++
    Config.sha384 (List.replicate 64 0) ++ List.replicate 176 0 ++ Config.rootKey

/-- A boot copy that the holder of the root key has signed. -/
def goodCopy : BootCopy :=
  { responds := true, header := headerBody ++ Config.signature Config.rootKey headerBody ++ List.replicate 64 0
    firmware := List.replicate 64 0, cartouche := [], memory := [], trained := false }

theorem sha384_length (bs : List Byte) : (Config.sha384 bs).length = 48 := by simp [Config.sha384]

theorem rootKey_length : Config.rootKey.length = 96 := by simp [Config.rootKey]

/-- The first 32 bytes of that header. -/
def headerStart : List Byte :=
  leBytes 4 0x544F4258 ++ [0, 1, 0, 0] ++ leBytes 4 0x1000 ++ leBytes 4 64 ++ List.replicate 16 0

theorem headerBody_eq : headerBody = headerStart ++ (Config.sha384 (List.replicate 64 0) ++ (List.replicate 176 0 ++ Config.rootKey)) := by
  simp only [headerBody, headerStart, List.append_assoc]

theorem headerStart_length : headerStart.length = 32 := by decide

theorem headerBody_length : headerBody.length = 0x160 := by
  rw [headerBody_eq]
  simp only [List.length_append, headerStart_length, sha384_length, rootKey_length, List.length_replicate]

theorem goodCopy_header : goodCopy.header = headerBody ++ (Config.signature Config.rootKey headerBody ++ List.replicate 64 0) := by
  simp only [goodCopy, List.append_assoc]

theorem header_lo {off n : Nat} (h : off + n ≤ 0x160) : slice goodCopy.header off n = slice headerBody off n := by
  rw [goodCopy_header, slice_left _ _ (by rw [headerBody_length] <;> omega)]

theorem header_start {off n : Nat} (h : off + n ≤ 32) : fieldU goodCopy.header off n = leNat (slice headerStart off n) := by
  unfold fieldU
  rw [header_lo (by omega), headerBody_eq, slice_left _ _ (by rw [headerStart_length] <;> omega)]

theorem good_copy {s : State} (h : s.boot.lifecycle ≠ .secured) : s.verifyCopy goodCopy = 1 := by
  have hs : slice goodCopy.header 0 0x200 = goodCopy.header := slice_all (by
    rw [goodCopy_header]
    simp only [List.length_append, headerBody_length, signature_length, List.length_replicate])
  have hz : fieldU goodCopy.header 0xB0 80 = 0 := by
    unfold fieldU
    rw [header_lo (by omega), headerBody_eq, slice_right _ _ (by rw [headerStart_length] <;> omega), headerStart_length,
      slice_right _ _ (by rw [sha384_length] <;> omega), sha384_length,
      slice_left _ _ (by rw [List.length_replicate] <;> omega)]
    decide +kernel
  have hh : slice goodCopy.header 0x20 48 = Config.sha384 (List.replicate 64 0) := by
    rw [header_lo (by omega), headerBody_eq, slice_right _ _ (by rw [headerStart_length] <;> omega), headerStart_length,
      slice_left _ _ (by rw [sha384_length] <;> omega)]
    exact slice_all (sha384_length _)
  have hk : slice goodCopy.header 0x100 96 = Config.rootKey := by
    rw [header_lo (by omega), headerBody_eq, slice_right _ _ (by rw [headerStart_length] <;> omega), headerStart_length,
      slice_right _ _ (by rw [sha384_length] <;> omega), sha384_length, slice_right _ _ (by rw [List.length_replicate] <;> omega),
      List.length_replicate]
    exact slice_all rootKey_length
  have hg : slice goodCopy.header 0x160 96 = Config.signature Config.rootKey headerBody := by
    rw [goodCopy_header, slice_right _ _ (by rw [headerBody_length] <;> omega), headerBody_length,
      slice_left _ _ (by rw [signature_length] <;> omega)]
    exact slice_all (signature_length _ _)
  have hm : slice goodCopy.header 0 0x160 = headerBody := by
    rw [header_lo (by omega)]
    exact slice_all headerBody_length
  have ht : fieldU goodCopy.header 0x1C0 64 = 0 := by
    unfold fieldU
    rw [goodCopy_header, slice_right _ _ (by rw [headerBody_length] <;> omega), headerBody_length,
      slice_right _ _ (by rw [signature_length] <;> omega), signature_length]
    decide +kernel
  have f (off n : Nat) (v : Nat) (h : off + n ≤ 32) (hv : leNat (slice headerStart off n) = v) :
      fieldU goodCopy.header off n = v := by rw [header_start h, hv]
  have hfw : slice goodCopy.firmware 0 64 = List.replicate 64 0 := by decide +kernel
  unfold State.verifyCopy bootSection
  simp only [hs, hz, hh, hk, hg, hm, ht, f 0 4 0x544F4258 (by omega) (by decide), f 4 2 0x100 (by omega) (by decide),
    f 6 1 0 (by omega) (by decide), f 7 1 0 (by omega) (by decide), f 8 4 0x1000 (by omega) (by decide),
    f (8 + 4) 4 64 (by omega) (by decide), f 0x10 4 0 (by omega) (by decide), f (0x10 + 4) 4 0 (by omega) (by decide),
    f 0x18 4 0 (by omega) (by decide), f (0x18 + 4) 4 0 (by omega) (by decide), hfw, h]
  simp [goodCopy, Config.rootKeyHash, Config.ecdsaVerifies, inCopy]

theorem witness_reset_and_supply_rows :
    (let d (x : Option Meridian) : State := booting (fun b => { b with resetDue := x })
     0 ≤ meridianDiff (d (some 1000000)).now 1000000 ∧ meridianDiff (d (some 1000001)).now 1000001 < 0 ∧
     (d (some 1000000)).boot.resetDue = some 1000000 ∧ (d none).boot.resetDue = none) ∧
    ((booting (fun b => { b with resetLow := true })).boot.resetLow = true ∧ (booting id).boot.resetLow = false) ∧
    ((({ lighted with power := { lighted.power with pwrfail := true } } : State).tick 0).power.pwrfail = true ∧
      (lighted.tick 0).power.pwrfail = false ∧ 4 ∉ (lighted.tick 0).pins.vddioOff) ∧
    (let p (st : BootStage) (n : Nat) : State := booting (fun b => { b with stage := st, codeA := n, lifecycle := .blank })
     (p .pegRom 0).boot.stage = .pegRom ∧ (p .pegRom 0).time.running = true ∧ (p .pegRom 0).boot.codeA = 0 ∧
     (p .header 0x10).boot.stage = .header ∧ (p .header 0x10).boot.codeA ≠ 0 ∧
     (p .pegRom 0).verifyCopy ⟨false, [], [], [], [], false⟩ ≠ 1 ∧ (p .header 0x10).verifyCopy ⟨false, [], [], [], [], false⟩ ≠ 1) ∧
    ((booting (fun b => { b with stage := .pegRom, codeA := 0, lifecycle := .blank })).verifyCopy goodCopy = 1 ∧
      (booting (fun b => { b with stage := .header, codeA := 0x10, lifecycle := .blank })).verifyCopy goodCopy = 1) ∧
    (let x (st : ScanState) : Head := ((lighted.modHead 0 (fun x => { x with state := st })).tick 0).head 0
     (x .starting).timing = some small ∧ (x .starting).state = .starting ∧ (x .changing).state = .changing ∧
     ((lighted.tick 0).head 7).timing = none) ∧
    (let r : CmdRef := ⟨0, 0, 7, 0x0103⟩
     let t := ((lighted.modTenant 2 (fun x => { x with dying := .released r 3 })).tick 0).advanceDestroy 2
     (t.tenant? 2).map Tenant.dying = some (.released r 3)) := by
  refine ⟨?_, ?_, ?_, ?_, ⟨good_copy (by decide), good_copy (by decide)⟩, ?_, ?_⟩ <;> decide +kernel

/-- A Cartouche boot image of two records that no part accepts, and one that has no proper header. -/
def badImage : List Byte := leBytes 4 0x49425443 ++ [0, 1, 2, 0] ++ leBytes 4 160 ++ List.replicate 148 0

theorem witness_firmware_link_and_debug_rows :
    (∃ a u, unitAt a = some u) ∧
    (let b (img : List Byte) (on : Bool) : State := booting (fun b => { b with fwReady := false, cbi := img, cbiApplied := on })
     (b [] false).boot.stage = .running ∧ (b [] false).boot.fwReady = false ∧ (b [] false).boot.cbi = [] ∧
     (b badImage true).boot.cbiApplied = true ∧ (b badImage false).boot.cbi ≠ [] ∧ (b [0] false).boot.cbi ≠ [] ∧
     bootHeaderOk (b [0] false).boot.cbi = false ∧ bootHeaderOk (b badImage false).boot.cbi = true ∧
     ((b badImage false).modBoot (fun b => { b with applying := true })).bootRecords 0 2 0 = none) ∧
    ((State.reset.tick 0).boot.stage ≠ .running ∧ (State.reset.tick 0).boot.resetLow = true ∧
      (booting id).boot.fwReady = true ∧ (booting id).boot.resetLow = false ∧ (booting id).power.servicePinLow = false) ∧
    (let d := booting (fun b => { b with deviceSession := true, cpHalted := true, lifecycle := .blank })
     (d.power.mode = .drive ∧ d.boot.deviceSession = true ∧ d.boot.lifecycle ≠ .secured ∧ d.boot.cpHalted = true) ∧
     (d.placeRead (.phys (dramBase + 0xFFFFFFFC)) 4).isOk = true ∧ d.physOk (dramBase + 0xFFFFFFFC) 4 = true ∧
     (booting id).boot.deviceSession = false) := by
  refine ⟨?_, ?_, ?_, ?_⟩
  · obtain ⟨a, _, _, ha⟩ := a_window _ (.head _)
    exact ⟨a, _, ha⟩
  all_goals decide +kernel

/-! ### The hypotheses of the statements about TISA instructions -/

/-- A tab thread serving a wake with the registers `r` and a budget of 18 issue slots. -/
def tabAt (r : TRegs) : State :=
  threaded { worker with running := true, state := .serving, regs := r, set := { budget := 18 } }

/-- The Peg core at work with the registers `r`. -/
def pegAt (r : TRegs) : State := (moded .listen).modPeg (fun g => { g with running := true, regs := r })

/-- The CP at work with the registers `r`. -/
def cpAt (r : TRegs) : State := { lighted with cp := { regs := r } }

/-- The three kinds of core with the registers `r`. -/
def coresAt (r : TRegs) : List (CoreRef × State) := [(.tab 0 0, tabAt r), (.peg, pegAt r), (.cp, cpAt r)]

/-- Every core has those registers and may issue an instruction of so many units and issue slots. -/
def mayIssue (r : TRegs) (units cost : Nat) : Bool :=
  (coresAt r).all (fun e => e.2.coreRegs? e.1 = some r && e.2.canIssue units cost e.1)

/-- Registers with `n` entries on the data stack and `m` on the return stack. -/
def stacked (n m : Nat) : TRegs := { d := (List.range n).map word, r := (List.range m).map (fun i => word (2 * i)), wrIgn := true }

theorem witness_stack_instructions :
    mayIssue (stacked 0 0) 1 1 = true ∧ mayIssue (stacked 3 1) 1 1 = true ∧ mayIssue (stacked 31 15) 1 1 = true ∧
    mayIssue (stacked 32 16) 1 1 = true ∧ (stacked 31 15).ds.length < (stacked 31 15).cap ∧ (stacked 31 15).r.length < 16 ∧
    ((stacked 3 1).ds = [0, 1, 2] ∧ (stacked 3 1).r = [0]) ∧ ((stacked 31 15).ds[(30 : BitVec 5).toNat]? = some 30) := by
  refine ⟨?_, ?_, ?_, ?_, ?_, ?_, ?_, ?_⟩ <;> decide +kernel

theorem witness_alu_instructions :
    (stacked 2 0).ds = [0, 1] ∧ mayIssue (stacked 2 0) 1 1 = true ∧ mayIssue (stacked 32 0) 1 2 = true ∧
    mayIssue (stacked 2 0) 1 18 = true ∧ (tabAt (stacked 2 0)).canIssue 1 19 (.tab 0 0) = false := by
  refine ⟨?_, ?_, ?_, ?_, ?_⟩ <;> decide +kernel

theorem witness_small_profile_instructions :
    (pegAt (stacked 2 0)).peg.regs = stacked 2 0 ∧ (pegAt (stacked 2 0)).canIssue 1 1 .peg = true ∧
    (pegAt { stacked 2 0 with pc := 0xFFFE }).canIssue 1 1 .peg = true ∧
    (((0 : Word) + 2 + 2 * (127 : BitVec 8).signExtend 32).getLsbD 0 = false ∧
      ((0 : Word) + 2 + 2 * (127 : BitVec 8).signExtend 32).toNat < 0x10000) ∧
    ((0 : BitVec 4) ≠ 15 ∧ (14 : BitVec 4) ≠ 15) := by
  refine ⟨?_, ?_, ?_, ?_, ?_⟩ <;> decide +kernel

theorem witness_literal_and_pointer_instructions :
    (∀ n ∈ [1, 2, 3], mayIssue (stacked 31 0) n n = true) ∧ (stacked 31 0).ds.length < (stacked 31 0).cap ∧
    mayIssue (stacked 1 0) 1 1 = true ∧ (stacked 1 0).ds = [0] := by
  refine ⟨?_, ?_, ?_, ?_⟩ <;> decide +kernel

/-- `stacked` with P0 and the other pointers at `a`. -/
def pointing (a : Nat) (n : Nat) : TRegs := { stacked n 0 with p := List.replicate 8 (word a) }

theorem witness_load_and_store_instructions :
    (∀ a ∈ [0, 252, 0x40000000, 0x80000000],
      ((tabAt (pointing a 31)).thread? 0 0).any (fun x => (x.spots false a 4).isSome) = true ∧
      (tabAt (pointing a 31)).canIssue 1 (halves a 4).length (.tab 0 0) = true) ∧
    ((pegAt (pointing 0xFFFC 31)).canIssue 1 1 .peg = true ∧
      ∀ j, j < 4 → (pegAt (pointing 0xFFFC 31)).pegByte ((0xFFFC + j) % 2 ^ 32) = ([0, 0, 0, 0] : List Byte)[j]?) ∧
    ((cpAt (pointing 0 31)).canIssue 1 1 .cp = true ∧ (pointing 0 31).ds.length < (pointing 0 31).cap) ∧
    ((tabAt (pointing 252 1)).thread? 0 0 |>.any (fun x => (x.spots true 252 4).isSome)) = true ∧
    ((pointing 252 1).ds = [0] ∧ ∀ j, j < 4 → pegWritable ((0xFFFC + j) % 2 ^ 32) = true) := by
  refine ⟨?_, ?_, ?_, ?_, ?_⟩ <;> decide +kernel

theorem witness_control_transfers :
    (∀ n ∈ [1, 3], mayIssue (stacked 32 15) n n = true ∧ mayIssue (stacked 2 16) n n = true) ∧
    ((stacked 32 15).r.length < 16 ∧ (stacked 2 16).ds = [0, 1] ∧ (stacked 2 16).r ≠ []) ∧
    (((tabAt (stacked 1 0)).thread? 0 0).any (fun k => decide ((254 : Word).toNat < k.codeSize)) = true ∧
      (254 : Word).getLsbD 0 = false ∧ (0xFFFE : Word).toNat < 0x10000 ∧ (0xFFFE : Word).getLsbD 0 = false) ∧
    ((0 : Word) + 2 + 2 * (126 : BitVec 9).signExtend 32 = 254) := by
  refine ⟨?_, ?_, ?_, ?_⟩ <;> decide +kernel

theorem witness_raster_and_system_instructions :
    let r : TRegs := { stacked 2 2 with fault := 15 }
    let two : TRegs := { stacked 0 0 with d := [5, 0x10014] }
    ((tabAt two).thread? 0 0).any (fun k => k.regs.ds = [5, 0x10014]) = true ∧ (tabAt two).canIssue 1 1 (.tab 0 0) = true ∧
    ((tabAt two).lineWrite 0 2 (.param 0x10014 0x03 5)).2 = true ∧ ((tabAt two).lineWrite 0 2 (.param 0x20014 0x03 5)).2 = false ∧
    mayIssue (stacked 31 2) 1 8 = true ∧ (stacked 31 2).r = [0, 2] ∧
    ((tabAt r).coreRegs? (.tab 0 0) = some r ∧ r.fault < 16 ∧ r.r.length < 32 ∧ r.ds.length < 64) ∧
    ({ tabAt (stacked 0 0) with boot := (tabAt (stacked 0 0)).boot } : State).debugOpen 2 0 = true := by
  refine ⟨?_, ?_, ?_, ?_, ?_, ?_, ?_, ?_⟩ <;> decide +kernel

theorem witness_tab_return_rows :
    let t (p : Option Park) (g : TabSet) : State := threaded { worker with running := true, state := .serving, park := p, set := g }
    let k (p : Option Park) (g : TabSet) : Option Thread := ((t p g).tick 0).thread? 0 0
    let reqs : List LoadReq := [.segment (bankBase + 4 * 0x400000 + 256 + 252) 4]
    let load : Park := .load reqs 4 true (some 7) 1 none
    ((∀ e ∈ coresAt (stacked 0 0), e.2.legalUnit e.1 0x8000 = false) ∧ mayIssue (stacked 0 0) 1 1 = true) ∧
    ((k (some load) {}).any (fun x => x.park = some load && decide (x.regs.ds.length < x.regs.cap) &&
      ((((t (some load) {}).tick 0).noteReqs reqs).reqRead reqs).isOk) = true) ∧
    ((k (some .fence) {}).any (fun x => x.park = some .fence) = true) ∧
    ((k none { budget := 8 }).any (fun x => ((t none { budget := 8 }).tick 0).tabReady 0 0 x && decide (x.limit < x.spent + 9)) =
      true) := by
  refine ⟨?_, ?_, ?_, ?_⟩ <;> decide +kernel

theorem choose_one {s : State} {fast normal : Bool} (h : ∀ i, i ≠ 320 → s.src i = {})
    (hp : s.srcPending 320 = true) (he : (s.src 320).enabled = true)
    (hm : (if (s.src 320).fast then fast else normal && !s.intc.holding.contains 20) = true) :
    s.chooseFor fast normal = some 320 := by
  have hf : (List.range 512).filter (fun i => s.srcPending i && (s.src i).enabled &&
      (if (s.src i).fast then fast else normal && !s.intc.holding.contains (i / 16))) =
      (List.range 512).filter (fun i => i == 320) := by
    refine List.filter_congr fun i _ => ?_
    by_cases hi : i = 320
    · subst hi
      rw [hp, he, hm]
      rfl
    · rw [h i hi]
      simp [hi]
  unfold State.chooseFor
  simp only [hf]
  rw [show (List.range 512).filter (fun i => i == 320) = [320] by decide +kernel]
  rfl

theorem witness_core_entry :
    let t (n : Nat) : State := (threaded { worker with
      running := true, state := .waiting, pending := [1], regs := stacked 0 n, set := { fret1 := 3 } }).tick 0
    let p (n : Nat) : State := (pegAt { stacked 0 n with ie := true }).modPeg (fun g => { g with pending := [1] })
    let c (n : Nat) : State := ({ cpAt { stacked 0 n with ie := true } with
      pins := { lighted.pins with pin := [(0, { irqMode := 1 })] }
      intc := { lighted.intc with src := [(320, { count := 1, enabled := true, level := 15 })] } } : State).tick 0
    (∀ n ∈ [14, 15], ((t n).thread? 0 0).any (fun k => k.running && k.state = .waiting && !k.regs.fast && k.park.isNone &&
      k.pending = [1]) = true ∧ ((t n).head 0).cluster.isSome = true ∧ (t n).power.mode = .drive) ∧
    (∀ n ∈ [14, 15], ((p n).tick 0).peg.running = true ∧ ((p n).tick 0).pegAwake = true ∧
      ((p n).tick 0).peg.pending.any (fun i => if i = 5 then !((p n).tick 0).peg.regs.fast else ((p n).tick 0).peg.regs.ie) = true) ∧
    (∀ n ∈ [14, 15], ({ c n with cp := { (c n).cp with idle := false } } : State).cpReady = true ∧ (c n).intcStopped = false ∧
      (c n).chooseFor (!(c n).cp.regs.fast) (c n).cp.regs.ie = some 320) := by
  refine ⟨?_, ?_, ?_⟩
  · decide +kernel
  · decide +kernel
  · intro n hn
    refine ⟨?_, ?_, choose_one (fun i hi => ?_) ?_ ?_ ?_⟩
    · revert n; decide +kernel
    · rfl
    · show IMap.get [(320, _)] _ i = _
      simp [IMap.get, IMap.find?, Ne.symm hi]
    all_goals rfl

theorem witness_custom_instruction :
    let s : State := { tabAt (stacked 2 0) with ucode := { (tabAt (stacked 2 0)).ucode with
      entries := [(31, 0x03180440)], ops := [(0x40, 0x10000000), (0x41, 0x00001280), (0x42, 0x80001000)] } }
    (s.thread? 0 0).any (fun k => (s.customCheck k 31).isOk && k.regs.ds = [0, 1] && decide (k.regs.ds.length < k.regs.cap)) =
      true ∧ s.canIssue 1 4 (.tab 0 0) = true ∧ (s.customExt 31 0).1 = 0 ∧
    1 + (s.microRun 0 0 3 0 true (s.ucode.seqOf 0x03180440) 0 0).2.1 = 4 ∧
    IMap.find? s.ucode.entries 31 = some 0x03180440 ∧ IMap.get s.ucode.ops 0 0x40 = 0x10000000 ∧
    IMap.get s.ucode.ops 0 0x41 = 0x00001280 ∧ IMap.get s.ucode.ops 0 0x42 = 0x80001000 ∧ (cpAt (stacked 2 0)).canIssue 1 1 .cp = true := by
  refine ⟨?_, ?_, ?_, ?_, ?_, ?_, ?_, ?_, ?_⟩ <;> decide +kernel

theorem witness_instruction_faults :
    mayIssue (stacked 0 0) 1 1 = true ∧ mayIssue (stacked 1 1) 1 1 = true ∧ mayIssue (stacked 2 16) 1 1 = true ∧
    mayIssue (stacked 32 0) 1 1 = true ∧ (stacked 32 0).ds.length = (stacked 32 0).cap ∧
    mayIssue { stacked 0 0 with d := [1], r := [0xFFFFFFFF] } 1 1 = true ∧ (1 : Word).getLsbD 0 = true := by
  refine ⟨?_, ?_, ?_, ?_, ?_, ?_, ?_⟩ <;> decide +kernel

/-! ### The hypotheses of the statements about the whole machine -/

theorem witness_privileges_and_rejections :
    commandOf (.modeSet (cmd 2 [])) = some (cmd 2 [], ⟨0x0D01, .platform, 0, 0, modeSetBody⟩) ∧
    commandOf (.cartoucheVoiceSet (cmd 0 [])) = some (cmd 0 [], ⟨0x0B0A, .safety, 0, 0, cartoucheVoiceSetBody⟩) ∧
    ((sent ready (cmd 2 []) 0x0D01).fetched (cmd 2 []) 0x0D01).mayProcess (cmd 2 []) ((cmd 2 []).ref 0x0D01) = true ∧
    ((sent ready (cmd 0 []) 0x0B0A).fetched (cmd 0 []) 0x0B0A).mayProcess (cmd 0 []) ((cmd 0 []).ref 0x0B0A) = true ∧
    (cmd 2 []).tenant ≠ 0 ∧ (cmd 0 []).tenant ≠ 1 ∧
    (headerCheck 0x0D01 .platform 0 0 (cmd 2 []) ((sent ready (cmd 2 []) 0x0D01).turn (cmd 2 []) 0x0D01) =
      .error { status := eDenied }) := by
  refine ⟨rfl, rfl, ?_, ?_, ?_, ?_, rfl⟩ <;> decide +kernel

theorem witness_unclaimed_extensions :
    let c : Cmd := { cmd 2 [] with flags := 0x10, payload := List.replicate 120 0 }
    let s : State := ready.modMbox 2 (fun m => { m with cmdTail := 2, ringCfg := 0x404 })
    commandOf (.nop c) = some (c, ⟨0x0101, .anyone, 0, 0, nopBody⟩) ∧ c.ext ≠ 0 ∧
    (s.fetched c 0x0101).mayProcess c (c.ref 0x0101) = true ∧
    headerCheck 0x0101 .anyone 0 15 c (s.turn c 0x0101) = .ok () ∧ (s.tick c.dt).turned.isFetched c (c.ref 0x0101) = false ∧
    (s.tenant? c.tenant).isSome = true ∧
    s.rejects c 0x0101 .anyone 0 0 nopBody { status := eBadCmd, detail := 0x0002 } := by
  refine ⟨rfl, ?_, ?_, rfl, ?_, ?_, ?_, .inl rfl⟩ <;> decide +kernel

theorem witness_steps :
    ({ State.reset with pending := [.resetPin 0] } : State).pending = .resetPin 0 :: [] ∧ State.reset.pending = [] ∧
    lighted.Inv ∧ step lighted = .next lighted ∧ lighted.boot.lifecycle ≠ .blank := by
  refine ⟨rfl, rfl, ⟨?_, ?_, ?_⟩, rfl, ?_⟩ <;> decide +kernel

theorem witness_lock_and_cores :
    (let s : State := { lighted with dev := { lighted.dev with pasidLock := true } }
     (∀ dt, Instr.fsyncLost 0 ≠ .resetPin dt ∧ Instr.fsyncLost 0 ≠ .tokenReset dt ∧ Instr.fsyncLost 0 ≠ .pwrfailNRelease dt ∧
       Instr.fsyncLost 0 ≠ .perstAssert dt) ∧ (∀ dt what, Instr.fsyncLost 0 ≠ .supplyRemoval dt what) ∧
     (∃ t, exec (.fsyncLost 0) s = .next t) ∧ s.dev.pasidLock = true) ∧
    (∀ who, coreOf (.nopInstruction who) = some who) ∧
    (∃ t, exec (.st8 (.tab 0 0) 0 0) (tabAt (pointing 255 1)) = .next t) ∧ ((tabAt (pointing 255 1)).thread? 0 0).isSome = true ∧
    (tabAt (pointing 255 1)).dyingTenants = [] := by
  refine ⟨⟨fun _ => ⟨nofun, nofun, nofun, nofun⟩, fun _ _ => nofun, ⟨_, rfl⟩, rfl⟩, fun _ => rfl, ⟨_, rfl⟩, rfl, ?_⟩
  decide +kernel

theorem witness_rules_of_the_parts :
    let two : TRegs := { d := [5, 0x20014] }
    let boxes (on : Bool) : State :=
      let s := lighted.modMbox 1 (fun m => { m with state := .disabled, ringCfg := 0x404 })
      ({ s with dev := { s.dev with pasid1 := if on then 0x80000010 else 0x10 } } : State).tick 0
    (((tabAt two).findPlane 2 0x20014).isNone = true ∧ (tabAt two).canIssue 1 1 (.tab 0 0) = true ∧
      ((tabAt two).findPlane 2 0x10014).any (fun e => !paramListed (slotKind e.2.1) e.2.2.affine 0xFF) = true ∧
      ((tabAt two).head 0 |>.palette 63).owner ≠ some 2) ∧
    (320 + 159 < 512 ∧ (pinned 159 4 0 true).isLevel (320 + 159) = true ∧
      ({ pinned 159 4 0 true with intc := { (pinned 159 4 0 true).intc with normal := some 479 } } : State).intc.normal = some 479 ∧
      (pinned 159 4 0 true).intc.fast = none) ∧
    (∀ on ∈ [false, true], (boxes on).asleep = false ∧ ((boxes on).dev.pasid1).getLsbD 31 = on ∧
      ((boxes on).doorbell? 1).any (fun m => m.state = .disabled && decide (m.cmdBaseLo.toNat % 4096 = 0) &&
        decide (m.cplBaseLo.toNat % 4096 = 0) && decide (bits m.ringCfg.toNat 3 0 = 4) &&
        decide (bits m.ringCfg.toNat 11 8 = 4) && decide (m.cmdTail = 0) && decide (m.cplHead = 0)) = true) := by
  refine ⟨?_, ?_, ?_⟩ <;> decide +kernel

/-- A plain object of one image pixel. -/
def onePixel : ObjEntry :=
  { x := 0, y := 0, w := 1, h := 1, image := 0, alpha := 255, enable := true, affine := false, cls := 0, vflip := true, hflip := true
    pal := 0, format := 0, a := 0, b := 0, c := 0, d := 0, imgW := 1, imgH := 1 }

theorem witness_objects : onePixel.affine = false ∧ 0 < onePixel.w ∧ takeObjects [] 0 0 = ([], []) := by
  refine ⟨?_, ?_, rfl⟩ <;> decide

/-! ### Ill-formed commands, one for each check of `Instr.wf` -/

theorem test_illformed_command_entries :
    Instr.wf (.nop { cmd 1024 [] with index := 0 }) = false ∧ Instr.wf (.nop { cmd 2 [] with payload := [] }) = false ∧
    Instr.wf (.nop { cmd 2 [] with flags := 0x10 }) = false ∧ Instr.wf (.nop (cmd 1023 [])) = true := by
  refine ⟨?_, ?_, ?_, ?_⟩ <;> decide

theorem test_illformed_cores_and_requesters :
    Instr.wf (.drop (.tab 8 0)) = false ∧ Instr.wf (.drop (.tab 7 16)) = false ∧ Instr.wf (.drop (.tab 7 15)) = true ∧
    Requester.wf (.plane 8 0 0 0) = false ∧ Requester.wf (.lineList 8 0) = false ∧ Requester.wf (.lineList 0 256) = false ∧
    Requester.wf (.voice 96) = false ∧ Requester.wf (.dma 48) = false ∧ Requester.wf (.command 1024 0) = false ∧
    Requester.wf (.scan 8 0 0) = false ∧ Requester.wf (.ring 1024) = false ∧ Requester.wf (.cartoucheScan 8 0) = false ∧
    Requester.wf (.cartoucheVoice 95) = false ∧ Requester.wf (.cartoucheVoice 100) = false ∧
    Instr.wf (.fetchReturn 0 (.voice 96) .data) = false := by
  refine ⟨?_, ?_, ?_, ?_, ?_, ?_, ?_, ?_, ?_, ?_, ?_, ?_, ?_, ?_, ?_⟩ <;> decide

theorem test_illformed_inputs_and_units :
    Instr.wf (.courseSampleBoundary 0 3 ⟨[], [], []⟩) = false ∧ Instr.wf (.courseSampleBoundary 0 2 ⟨[(4, [])], [], []⟩) = false ∧
    Instr.wf (.courseSampleBoundary 0 2 ⟨[], [], [100]⟩) = false ∧ ArmUnit.wf (.head 8) = false ∧ ArmUnit.wf (.cluster 10) = false ∧
    ArmUnit.wf (.unit 0x10000 0) = false ∧ Instr.wf (.armDeadline 0 0 [.cluster 9, .head 8]) = false ∧
    Instr.wf (.applyAckTimeout 0 0 (.head 8)) = false ∧ Instr.wf (.supplyRemoval 0 (.vddio 5)) = false ∧
    Instr.wf (.governorEvaluation 0 (List.replicate 15 0) []) = false ∧ Instr.wf (.maintenanceActivityDue 0 0) = false ∧
    Instr.wf (.maintenanceActivityEnd 0 7 ⟨true, []⟩) = false ∧
    Instr.wf (.maintenanceActivityEnd 0 6 ⟨true, [8]⟩) = false := by
  refine ⟨?_, ?_, ?_, ?_, ?_, ?_, ?_, ?_, ?_, ?_, ?_, ?_, ?_⟩ <;> decide

theorem test_illformed_tenants_and_registers :
    Instr.wf (.tenantDestroyComplete 0 1024) = false ∧ Instr.wf (.heldRecordWrite 0 1024) = false ∧
    Instr.wf (.mailboxDrainEnd 0 1024) = false ∧ Instr.wf (.cmdTailWrite 0 1024 0) = false ∧
    Instr.wf (.cplHeadWrite 0 1024 0) = false ∧ Instr.wf (.mboxEnable 0 1024) = false ∧ Instr.wf (.mboxDisable 0 1024) = false ∧
    Instr.wf (.mboxReset 0 1024 true) = false ∧ Instr.wf (.irqAgeLimit 0 1024) = false ∧
    Instr.wf (.commandWaitEnd 0 1024 0) = false ∧ Instr.wf (.recordWriteErrorCompletion 0 1024) = false ∧
    Instr.wf (.courseCntRead 0 3) = false ∧ Instr.wf (.intcPendingSet 0 16 0) = false ∧
    Instr.wf (.intcPendingClr 0 16 0 []) = false ∧ Instr.wf (.intcEnableSet 0 16 0) = false ∧
    Instr.wf (.intcEnableClr 0 16 0) = false ∧ Instr.wf (.gpioMaskedWrite 0 5 .out true 0) = false ∧
    Instr.wf (.gpioIntEnSet 0 5 0) = false ∧ Instr.wf (.gpioIntEnClr 0 5 0) = false ∧
    Instr.wf (.auxCtlStart 0 8 0 true) = false ∧ Instr.wf (.auxTransactionEnd 0 8 .timeout) = false ∧
    Instr.wf (.mdioCtlStart 0 2 0) = false ∧ Instr.wf (.mdioFrameEnd 0 2 0) = false := by
  refine ⟨?_, ?_, ?_, ?_, ?_, ?_, ?_, ?_, ?_, ?_, ?_, ?_, ?_, ?_, ?_, ?_, ?_, ?_, ?_, ?_, ?_, ?_, ?_⟩ <;> decide

theorem test_illformed_heads_clusters_and_channels :
    Instr.wf (.beamLineEnter 0 8 []) = false ∧ Instr.wf (.composeBoundary 0 8) = false ∧
    Instr.wf (.composerLineStart 0 8) = false ∧ Instr.wf (.composerLineComplete 0 8) = false ∧
    Instr.wf (.portPixelNeed 0 8 0 true) = false ∧ Instr.wf (.portPixelNeed 0 0 2 true) = false ∧
    Instr.wf (.heartbeatPeriodEnd 0 10 true true) = false ∧ Instr.wf (.clusterSelfTestEnd 0 10 true) = false ∧
    Instr.wf (.captureFrame 0 8) = false ∧ Instr.wf (.captureWriteStall 0 8) = false ∧ Instr.wf (.pixelPllLock 0 8) = false ∧
    Instr.wf (.meterWindowEnd 0 3) = false ∧ Instr.wf (.bridgeLaneRangeTimeout 0 32 true) = false ∧
    Instr.wf (.audioClockRelock 0 2) = false ∧ Instr.wf (.tdmFrameSlip 0 4 true) = false ∧
    Instr.wf (.avtpPacketReceive 0 16 0 []) = false ∧ Instr.wf (.audioCaptureBlock 0 16) = false ∧
    Instr.wf (.audioCaptureStall 0 16) = false ∧ Instr.wf (.pwmTick 0 16) = false ∧
    Instr.wf (.captureFilterSample 0 32 true) = false ∧ Instr.wf (.interruptSourceEvent 0 512 true) = false ∧
    Instr.wf (.holdoffExpiry 0 32) = false ∧ Instr.wf (.coreEntry 0 (.tab 0 16) []) = false := by
  refine ⟨?_, ?_, ?_, ?_, ?_, ?_, ?_, ?_, ?_, ?_, ?_, ?_, ?_, ?_, ?_, ?_, ?_, ?_, ?_, ?_, ?_, ?_, ?_⟩ <;> decide

theorem test_illformed_pins_ports_and_links :
    Instr.wf (.pinLevelChange 0 161 true) = false ∧ Instr.wf (.pinEventCoalesceEnd 0 160) = false ∧
    Instr.wf (.pinHandoverEnd 0 160) = false ∧ Instr.wf (.serialTransferDone 0 10 .nackAddress) = false ∧
    Instr.wf (.uartByteReceive 0 2 0) = false ∧ Instr.wf (.uartLineIdle 0 2) = false ∧ Instr.wf (.hpdFall 0 4) = false ∧
    Instr.wf (.hpdRise 0 4 []) = false ∧ Instr.wf (.linkTrainingDone 0 8 true 4 6) = false ∧
    Instr.wf (.linkTrainingDone 0 0 true 5 6) = false ∧ Instr.wf (.gptpStateChange 0 2 true 0 0) = false ∧
    Instr.wf (.wakeFrameReceive 0 2 []) = false ∧ Instr.wf (.dmaDescriptorComplete 0 48) = false ∧
    Instr.wf (.dmaRingRecheck 0 48) = false ∧ Instr.wf (.dmaTokenGrant 0 48) = false ∧
    Instr.wf (.loadReturn 0 8 0 .data) = false ∧ Instr.wf (.fenceComplete 0 0 16 true) = false ∧
    Instr.wf (.tabBudgetOverrun 0 8 0 1) = false ∧ Instr.wf (.accessVoteExpiry 0 136) = false ∧
    Instr.wf (.illegalInstruction (.tab 8 0) 0) = false ∧ Instr.wf (.usxgmiiLinkChange 0 2 true) = false ∧
    Instr.wf (.ethernetFrameReceive 0 2 .gptp) = false := by
  refine ⟨?_, ?_, ?_, ?_, ?_, ?_, ?_, ?_, ?_, ?_, ?_, ?_, ?_, ?_, ?_, ?_, ?_, ?_, ?_, ?_, ?_, ?_⟩ <;> decide


/-! ### Small tests of single steps, whose results are taken from the spec's text or worked out by hand from it -/

/-- What a command leaves, asked of a state. -/
def after (i : Instr) (s : State) (p : State → Bool) : Bool :=
  match exec i s with
  | .next t => p t
  | _ => false

/-- R234: ADD of 1 and 0xFFFFFFFF wraps to 0; Table 9.6: Z and C are then set, N and V clear. -/
theorem test_add_wraps : after (.add .peg) (pegAt { d := [1, 0xFFFFFFFF] }) (fun t =>
    t.peg.regs.d = [0] && t.peg.regs.z && t.peg.regs.c && !t.peg.regs.n && !t.peg.regs.v) = true := by decide +kernel

/-- Chapter 09: SUB takes TOS from the entry below: 7 − 2 = 5, and C says that nothing was borrowed. -/
theorem test_sub_order : after (.sub .peg) (pegAt { d := [2, 7] }) (fun t =>
    t.peg.regs.d = [5] && t.peg.regs.c) = true := by decide +kernel

/-- Chapter 09, Division: a divisor of 0 gives the quotient 0xFFFFFFFF. -/
theorem test_divs_by_zero : after (.divs .cp) (cpAt { d := [0, 5] }) (fun t => t.cp.regs.d = [0xFFFFFFFF]) = true := by
  decide +kernel

/-- Chapter 09, Division: DIVS of −2^31 by −1 gives −2^31. -/
theorem test_divs_overflow :
    after (.divs .cp) (cpAt { d := [0xFFFFFFFF, 0x80000000] }) (fun t => t.cp.regs.d = [0x80000000]) = true := by decide +kernel

/-- Chapter 09, Division: a divisor of 0 gives the dividend as the remainder. -/
theorem test_rems_by_zero : after (.rems .cp) (cpAt { d := [0, 0xFFFFFFFB] }) (fun t => t.cp.regs.d = [0xFFFFFFFB]) = true := by
  decide +kernel

/-- Table 9.4: MULHS of −1 and 2 is the high half of −2. -/
theorem test_mulhs_sign : after (.mulhs .cp) (cpAt { d := [2, 0xFFFFFFFF] }) (fun t => t.cp.regs.d = [0xFFFFFFFF]) = true := by
  decide +kernel

/-- Table 9.4: SEXT8 of 0x80. -/
theorem test_sext8 : after (.sext8 .cp) (cpAt { d := [0x80] }) (fun t => t.cp.regs.d = [0xFFFFFF80]) = true := by decide +kernel

/-- Table 9.9: DROP on an empty data stack is cause 2. -/
theorem test_drop_underflow : after (.drop (.tab 0 0)) (tabAt {}) (fun t =>
    (t.thread? 0 0).any (fun k => k.state = .faulted && k.regs.fault = 2)) = true := by decide +kernel

/-- R51: a (P) command of tenant 2 gets E_DENIED (0x000A). -/
theorem test_denied_record : after (.modeSet (cmd 2 [(0x08, 1, 1)])) (sent ready (cmd 2 [(0x08, 1, 1)]) 0x0D01) (fun t =>
    (t.tenant? 2).any (fun x => x.mbox.held.map (fun r => (r.status, r.ref.opcode)) = [(0x000A, 0x0D01)])) = true := by decide +kernel

/-- R64: CMD_TAIL more than the ring's 16 entries past CMD_HEAD stops the mailbox with E_RANGE (0x0002). -/
theorem test_cmd_tail_outside : after (.cmdTailWrite 0 2 17) (boxed { ringCfg := 0x404, state := .running }) (fun t =>
    (t.tenant? 2).any (fun x => x.mbox.state = .stopped && x.mbox.fault = 2)) = true := by decide +kernel

/-- R461: the 256th edge of a source is not counted, and is shown as an overflow. -/
theorem test_interrupt_overflow : after (.interruptSourceEvent 0 320 true) (pinned 0 1 255 false) (fun t =>
    (t.src 320).count = 255 && (t.src 320).overflow) = true := by decide +kernel

/-- R492: a masked write of the high half of bank 4 moves pin 159 and leaves pin 158. -/
theorem test_masked_write : after (.gpioMaskedWrite 0 4 .out true 0x8000C000) wired (fun t =>
    (t.pin 159).out && !(t.pin 158).out) = true := by decide +kernel

/-- R454: 2400 is a leap year, 2100 is not. -/
theorem test_leap_years :
    (CalTime.succ ⟨2400, 2, 28, 23, 59, 59, 32767⟩ = ⟨2400, 2, 29, 0, 0, 0, 0⟩) ∧
    (CalTime.succ ⟨2100, 2, 28, 23, 59, 59, 32767⟩ = ⟨2100, 3, 1, 0, 0, 0, 0⟩) := by decide

/-- R469: CRC-32C of the nine digits "123456789" is 0xE3069283, that polynomial's customary check value. -/
theorem test_crc32c : crcBytes polyCrc32c 0xFFFFFFFF ((List.range 9).map (fun i => BitVec.ofNat 8 (0x31 + i))) ^^^ 0xFFFFFFFF =
    0xE3069283 := by decide +kernel

/-- R452: a PWM unit's count wraps at its period. -/
theorem test_pwm_wrap : after (.pwmTick 0 15) (clocked {} { owner := some 2, running := true, started := true, count := 1 }) (fun t =>
    (t.pwmUnit 15).count = 0) = true := by decide +kernel

/-- R431: a lost reference takes the lock of the PLLs on it: the slow counter's PLL on SXI. -/
theorem test_reference_lost : after (.clockReferenceLost 0 .sxi) lighted (fun t =>
    !t.clocks.locked.getLsbD 14 && t.clocks.locked.getLsbD 13) = true := by decide +kernel

end Sys2Proof.Tests
end

section
/-! SUPPORT and the statements settled. Chapter 03: who may issue a privileged command (R51), and when the platform's mailboxes
can be enabled (R63, R78). -/

namespace Sys2Proof.Machine

/-! ### Privilege (R51) -/

/-- The first check of a header denies a privileged command of any tenant but its own. -/
theorem headerCheck_of_unprivileged {op lo hi : Nat} {p : Privilege} {c : Cmd} {s : State}
    (h : p = .platform ∧ c.tenant ≠ 0 ∨ p = .safety ∧ c.tenant ≠ 1) :
    headerCheck op p lo hi c s = .error { status := eDenied } :=
  if_pos (h.imp_right .inl)

/-- A command row whose turn has come denies an unprivileged issuer: the record is all that follows the turn. -/
theorem State.command_of_unprivileged {s : State} {c : Cmd} {op lo hi : Nat} {p : Privilege}
    {body : Cmd → CmdRef → State → CmdRes} (hturn : (s.fetched c op).mayProcess c (c.ref op) = true)
    (h : p = .platform ∧ c.tenant ≠ 0 ∨ p = .safety ∧ c.tenant ≠ 1) :
    s.command op p lo hi body c = (s.turn c op).complete (c.ref op) eDenied noField [] :=
  have hrej : s.rejects c op p lo hi body { status := eDenied } := ⟨hturn, .inl (headerCheck_of_unprivileged h)⟩
  State.command_rejects hrej

/-- Settles O42: each row's privilege is that of the index, and the header check comes before the command's own checks. -/
theorem privilegesAreEnforced : Obligations.PrivilegesAreEnforced := by
  unfold Obligations.PrivilegesAreEnforced
  intro i c row s hrow hturn denied
  obtain ⟨hplatform, hsafety, -⟩ := commandOf_who hrow
  have denied_of (h : row.who = .platform ∧ c.tenant ≠ 0 ∨ row.who = .safety ∧ c.tenant ≠ 1) : denied :=
    (exec_command hrow s).trans (next_advanced (State.command_of_unprivileged hturn h))
  exact ⟨fun hop ht => denied_of (.inl ⟨hplatform hop, ht⟩), fun hop ht => denied_of (.inr ⟨hsafety hop, ht⟩)⟩

/-! ### Enabling a mailbox (R63, R78) -/

/-- For the platform and the safety tenant the PASID counts as valid exactly where its register says so. -/
theorem State.pasidValid_of_platform (s : State) {t : Nat} (ht : t = 0 ∨ t = 1) :
    s.pasidValid t = (if t = 0 then s.dev.pasid0 else s.dev.pasid1).getLsbD 31 := by
  obtain rfl | rfl := ht
  · rfl
  · rfl

/-- Where the other checks of R63 pass, the PASID alone decides. -/
theorem State.enableFault_of_otherChecks (s : State) (t : Nat) {m : Mailbox} (hcmd : m.cmdBaseLo.toNat % 4096 = 0)
    (hcpl : m.cplBaseLo.toNat % 4096 = 0) (hcmdMin : 4 ≤ bits m.ringCfg.toNat 3 0) (hcmdMax : bits m.ringCfg.toNat 3 0 ≤ 12)
    (hcplMin : 4 ≤ bits m.ringCfg.toNat 11 8) (hcplMax : bits m.ringCfg.toNat 11 8 ≤ 12) (htail : m.cmdTail = 0)
    (hhead : m.cplHead = 0) : s.enableFault t m = if s.pasidValid t = false then some eState else none := by
  simp [State.enableFault, hcmd, hcpl, hcmdMin, hcmdMax, hcplMin, hcplMax, htail, hhead]

section
variable {s : State} {t : Nat} {m : Mailbox}

/-- A failed configuration check stops the mailbox with its fault, the completion ring unusable (R63, assumption 61). -/
theorem State.mboxEnable_of_fault {e : Nat} (hhw : s.hwHas (.mboxEnable t) = false) (hm : s.doorbell? t = some m)
    (hdis : m.state = .disabled) (hfault : s.enableFault t m = some e) : s.mboxEnable t = s.stopMbox t e true := by
  simp [State.mboxEnable, hhw, hm, hdis, hfault]

/-- With every configuration check passed the mailbox starts (R63). -/
theorem State.mboxEnable_of_noFault (hhw : s.hwHas (.mboxEnable t) = false) (hm : s.doorbell? t = some m)
    (hdis : m.state = .disabled) (hfault : s.enableFault t m = none) :
    s.mboxEnable t = s.modMbox t (fun m => { m with
      cmdHead := 0, cplTail := 0, eventLost := 0, phase := true, state := .running, usable := true }) := by
  simp [State.mboxEnable, hhw, hm, hdis, hfault]

end

/-- Outside Keep and Listen the write reaches the doorbell page at once. -/
theorem exec_mboxEnable_of_awake {s : State} {dt : Nat} (t : Nat) (hawake : (s.tick dt).asleep = false) :
    exec (.mboxEnable dt t) s = .next ((s.tick dt).mboxEnable t) := by
  show Host.Outcome.next (if (s.tick dt).asleep = true then _ else _) = _
  rw [hawake]
  rfl

/-- Settles O56: the PASID is the last of R63's checks, so with the others passed it decides between the two outcomes. -/
theorem thePlatformMailboxesNeedAPasid : Obligations.ThePlatformMailboxesNeedAPasid := by
  unfold Obligations.ThePlatformMailboxesNeedAPasid
  intro s dt t m ht a hawake hhw hm hdis hcmd hcpl hcmdMin hcmdMax hcplMin hcplMax htail hhead valid
  have hfault : a.enableFault t m = if valid = false then some eState else none := by
    rw [a.enableFault_of_otherChecks t hcmd hcpl hcmdMin hcmdMax hcplMin hcplMax htail hhead, a.pasidValid_of_platform ht]
  rw [exec_mboxEnable_of_awake t hawake]
  constructor
  · intro hinvalid
    rw [State.mboxEnable_of_fault hhw hm hdis (hfault.trans (if_pos hinvalid))]
  · intro hvalid
    rw [State.mboxEnable_of_noFault hhw hm hdis (hfault.trans (if_neg (by simp [hvalid])))]

end Sys2Proof.Machine
end

section
/-! SUPPORT and the statements settled. Chapter 05: the image pixel that a plain object takes (R137). -/

namespace Sys2Proof.Machine

/-! ### Plain objects (R137) -/

/-- A plain object's sample is never transparent by its place: each coordinate is the box pixel's own or its mirror image. -/
theorem objectSample_of_plain {o : ObjEntry} (hplain : o.affine = false) (i j : Nat) :
    objectSample o i j = some (if o.hflip then o.w - 1 - i else i, if o.vflip then o.h - 1 - j else j) :=
  if_neg (by simp [hplain])

/-- Inside the box the mirrored coordinate of the model, a natural number, is the rule's difference: nothing is cut off at 0. -/
theorem mirrored_eq_of_lt (flip : Bool) {n i : Nat} (hi : i < n) :
    ((if flip then n - 1 - i else i : Nat) : Int) = if flip then (n : Int) - 1 - i else i := by
  cases flip with
  | false => rfl
  | true =>
    show ((n - 1 - i : Nat) : Int) = (n : Int) - 1 - i
    omega

/-- Settles O57: the sample mirrors each coordinate by its own flag, and both lie inside the box. -/
theorem plainObjectsTakeTheirPixel : Obligations.PlainObjectsTakeTheirPixel := by
  unfold Obligations.PlainObjectsTakeTheirPixel
  intro o i j hplain hi hj
  exact ⟨_, _, objectSample_of_plain hplain i j, mirrored_eq_of_lt o.hflip hi, mirrored_eq_of_lt o.vflip hj⟩

end Sys2Proof.Machine
end

section
/-! SUPPORT and the statements settled. Chapter 09: the ALU instructions (R234 to R236, Table 9.4) and the raster writes that
are ignored (R240). -/

namespace Sys2Proof.Machine

/-! ### ALU instructions (R234 to R236, Table 9.4) -/

/-- A core has issued an instruction whose result `v` stands on the rest `xs` of the stack; the Peg core's z and n follow it. -/
def State.aluIssued (s : State) (cost : Nat) (who : CoreRef) (r : TRegs) (v : Word) (xs : List Word) : State :=
  s.issued 1 cost who { r.setDs (v :: xs) with
    pc := r.pc + 2
    z := if who = .peg then decide (v = 0) else r.z
    n := if who = .peg then v.msb else r.n }

/-- The same for an addition or a subtraction, of which the Peg core keeps the carry and the overflow too (R235). -/
def State.arithIssued (s : State) (who : CoreRef) (r : TRegs) (v : Word) (carry overflow : Bool) (xs : List Word) : State :=
  s.issued 1 1 who { r.setDs (v :: xs) with
    pc := r.pc + 2
    z := if who = .peg then decide (v = 0) else r.z
    n := if who = .peg then v.msb else r.n
    c := if who = .peg then carry else r.c
    v := if who = .peg then overflow else r.v }

section
variable {i : Instr} {who : CoreRef} {s : State} {r : TRegs} {ok : CoreRef → Bool} {cost : Nat} {a b v : Word} {xs : List Word}

theorem exec_of_alu2 {op : Word → Word → Word} (hexec : exec i s = .next (s.issue ok 1 cost (.alu2 op) who))
    (hok : ok who = true) (hr : s.coreRegs? who = some r) (hi : s.canIssue 1 cost who = true) (hds : r.ds = b :: a :: xs)
    (hv : op a b = v) : exec i s = .next (s.aluIssued cost who r v xs) := by
  subst hv
  rw [hexec, issue_alu2 hok hr hi hds]
  rfl

theorem exec_of_alu1 {op : Word → Word} (hexec : exec i s = .next (s.issue ok 1 cost (.alu1 op) who))
    (hok : ok who = true) (hr : s.coreRegs? who = some r) (hi : s.canIssue 1 cost who = true) (hds : r.ds = a :: xs)
    (hv : op a = v) : exec i s = .next (s.aluIssued cost who r v xs) := by
  subst hv
  rw [hexec, issue_alu1 hok hr hi hds]
  rfl

theorem exec_of_arith {op : TRegs → Word → Word → Word × Bool × Bool} {carry overflow : Bool}
    (hexec : exec i s = .next (s.issue ok 1 1 (.arith true op) who))
    (hok : ok who = true) (hr : s.coreRegs? who = some r) (hi : s.canIssue 1 1 who = true) (hds : r.ds = b :: a :: xs)
    (hv : op r a b = (v, carry, overflow)) : exec i s = .next (s.arithIssued who r v carry overflow xs) := by
  rw [hexec, issue_arith hok hr hi hds, hv]
  rfl

/-- NEG's borrow: 0 − a borrows unless a is 0. -/
theorem neg_eq (a : Word) : subWith 0 a true = (-a, decide (a = 0), BitVec.ssubOverflow 0 a) := by
  have hcarry : (a.toNat ≤ (0 : Word).toNat) ↔ a = 0 := by
    rw [BitVec.toNat_eq]
    exact Nat.le_zero
  have hresult : (0 : Word) - a = -a := BitVec.zero_sub a
  rw [sub_eq, hresult, decide_eq_decide.2 hcarry]

theorem exec_neg (hr : s.coreRegs? who = some r) (hi : s.canIssue 1 1 who = true) (hds : r.ds = a :: xs) :
    exec (.neg who) s = .next (s.arithIssued who r (-a) (decide (a = 0)) (BitVec.ssubOverflow 0 a) xs) := by
  show Host.Outcome.next (s.issue onAll 1 1 (.seq _) who) = _
  rw [issue_seq rfl hr hi (q := (r.setDs (-a :: xs)).flagAll (who = .peg) (-a, decide (a = 0), BitVec.ssubOverflow 0 a))
    (by intro c hc; simp only [hds, hc, neg_eq]), flagAll_eq]
  simp [State.arithIssued]

/-- Where the model compares integers, the statement names the word's own signed order. -/
theorem ite_toInt_lt {α : Type} (a b : Word) (x y : α) :
    (if a.toInt < b.toInt then x else y) = if a.slt b then x else y := by
  simp only [BitVec.slt_iff_toInt_lt]

/-- Likewise for the unsigned order. -/
theorem ite_toNat_lt {α : Type} (a b : Word) (x y : α) :
    (if a.toNat < b.toNat then x else y) = if a.ult b then x else y := by
  simp only [BitVec.ult_iff_lt, BitVec.lt_def]

theorem onFull_of_ne_peg (h : who ≠ .peg) : onFull who = true := decide_eq_true h

end

/-- Settles O29: the charge and the core's part are the shared operations'; each instruction brings its result on words. -/
theorem aluInstructionsComplete : Obligations.AluInstructionsComplete := by
  unfold Obligations.AluInstructionsComplete
  intro who s r hr gives toCV
  refine ⟨?oneCycle, ?multiply, ?divide, ?oneOperand⟩
  case oneCycle =>
    intro hi a b xs hds
    exact ⟨exec_of_arith rfl rfl hr hi hds (add_eq a b), exec_of_arith rfl rfl hr hi hds (sub_eq a b),
      exec_of_alu2 rfl rfl hr hi hds rfl, exec_of_alu2 rfl rfl hr hi hds rfl, exec_of_alu2 rfl rfl hr hi hds rfl,
      exec_of_alu2 rfl rfl hr hi hds rfl, exec_of_alu2 rfl rfl hr hi hds rfl, exec_of_alu2 rfl rfl hr hi hds rfl,
      exec_of_alu2 rfl rfl hr hi hds rfl,
      exec_of_alu2 rfl rfl hr hi hds (ite_toInt_lt a b a b), exec_of_alu2 rfl rfl hr hi hds (ite_toInt_lt a b b a),
      exec_of_alu2 rfl rfl hr hi hds (ite_toNat_lt a b a b), exec_of_alu2 rfl rfl hr hi hds (ite_toNat_lt a b b a),
      exec_of_alu2 rfl rfl hr hi hds (ite_toInt_lt a b 1 0), exec_of_alu2 rfl rfl hr hi hds (ite_toNat_lt a b 1 0)⟩
  case multiply =>
    intro hfull hi a b xs hds
    have hok := onFull_of_ne_peg hfull
    exact ⟨exec_of_alu2 rfl hok hr hi hds (mulhu_eq a b), exec_of_alu2 rfl hok hr hi hds (mulhs_eq a b)⟩
  case divide =>
    intro hfull hi a b xs hds
    have hok := onFull_of_ne_peg hfull
    exact ⟨exec_of_alu2 rfl hok hr hi hds (divuW_eq a b), exec_of_alu2 rfl hok hr hi hds (divsW_eq a b),
      exec_of_alu2 rfl hok hr hi hds (remuW_eq a b), exec_of_alu2 rfl hok hr hi hds (remsW_eq a b)⟩
  case oneOperand =>
    intro hi a xs hds
    exact ⟨exec_of_alu1 rfl rfl hr hi hds rfl, exec_neg hr hi hds, exec_of_alu1 rfl rfl hr hi hds (absW_eq a),
      exec_of_alu1 rfl rfl hr hi hds (clzW_eq a), exec_of_alu1 rfl rfl hr hi hds (signed_eq 8 a),
      exec_of_alu1 rfl rfl hr hi hds (signed_eq 16 a)⟩

/-! ### Raster writes that are ignored (R240) -/

section
variable {s : State} {h slot t : Nat} {k : Thread} {w : LWrite}

/-- The ID under which the owner's report counts a raster write. -/
def LWrite.reportId : LWrite → Nat
  | .param _ id _ => id
  | .pal _ _ => 0xFFFFFFFF

/-- An ignored raster write has been counted for the report (R268). -/
def State.ignoredCounted (h slot line id : Nat) (s : State) : State :=
  s.modHead h (fun x => { x with cur := { x.cur with tabIgn := addTally x.cur.tabIgn slot 1 line id 0 } })

/-- A parameter write changes nothing unless it names a plane of the tenant on this head, an ID listed for its kind, and for
the colour a solid paint. -/
theorem lineWrite_param_ignored {hd id v : Nat} (hplane : ∀ n p, s.findPlane t hd = some (h, n, p) →
      paramListed (slotKind n) p.affine id = false ∨ id = 0x12 ∧ p.content.paint.kind ≠ 0) :
    (s.lineWrite h t (.param hd id v)).2 = false := by
  simp only [State.lineWrite]
  split
  next => rfl
  next head n p hfound =>
    refine congrArg Prod.snd (if_pos ?_)
    by_cases hhead : head = h
    · subst hhead
      exact .inr ((hplane n p hfound).imp_left fun hunlisted => by simp [hunlisted])
    · exact .inl hhead

/-- A palette write changes nothing unless the tenant owns the palette. -/
theorem lineWrite_pal_ignored {n v : Nat} (howner : ((s.head h).palette (n / 256 % 64)).owner ≠ some t) :
    (s.lineWrite h t (.pal n v)).2 = false :=
  congrArg Prod.snd (if_neg howner)

/-- Whether a write is ignored does not depend on the thread's charge and registers, so the state before the issue decides it;
SW.wr_ign joins the registers just written. -/
theorem tabWrite_ignored (wait cost : Nat) (q : TRegs) (hignored : (s.lineWrite h k.owner w).2 = false) :
    ((s.spent h slot wait cost k).setRegs h slot q).tabWrite h slot k w =
      ((s.spent h slot wait cost k).setRegs h slot { q with wrIgn := true }).ignoredCounted h slot (s.tabLine h k) w.reportId := by
  have hstill : (((s.spent h slot wait cost k).setRegs h slot q).lineWrite h k.owner w).2 = false :=
    (lineWrite_snd h k.owner w s _ (by rfl)).trans hignored
  unfold State.tabWrite
  rw [if_neg (by simp [hstill]), State.setRegs, modThread_modThread]
  cases w with
  | param hd id v => rfl
  | pal n v => rfl

/-- The word of a PALW is cut to 14 bits (R239), which keeps the number of its palette. -/
theorem palette_of_truncated (n : Nat) : n % 2 ^ 14 / 256 % 64 = n / 256 % 64 := by
  omega

/-- PWRITE pops its operands, goes on, and hands its write over (R239). -/
theorem issue_pwrite {id : Nat} {v hd : Word} {xs : List Word} (hk : s.thread? h slot = some k)
    (hi : s.canIssue 1 1 (.tab h slot) = true) (hds : k.regs.ds = v :: hd :: xs) :
    s.issue onTab 1 1 (.pwrite id) (.tab h slot) =
      (((s.spent h slot 4 1 k).setRegs h slot { k.regs.setDs xs with pc := k.regs.pc + 2 }).tabWrite h slot k
        (.param hd.toNat id v.toNat)).tabAfter h slot := by
  rw [tab_issue rfl hk hi rfl]
  simp only [State.tabRun, State.tabSimple, hds]
  rfl

/-- PALW does the same with a palette word, whose number has 14 bits (R239). -/
theorem issue_palw {v n : Word} {xs : List Word} (hk : s.thread? h slot = some k)
    (hi : s.canIssue 1 1 (.tab h slot) = true) (hds : k.regs.ds = v :: n :: xs) :
    s.issue onTab 1 1 .palw (.tab h slot) =
      (((s.spent h slot 4 1 k).setRegs h slot { k.regs.setDs xs with pc := k.regs.pc + 2 }).tabWrite h slot k
        (.pal (n.toNat % 2 ^ 14) v.toNat)).tabAfter h slot := by
  rw [tab_issue rfl hk hi rfl]
  simp only [State.tabRun, State.tabSimple, hds]
  rfl

end

/-- Settles O54: each row's write is one that `State.lineWrite` refuses. -/
theorem ignoredRasterWritesSetTheBit : Obligations.IgnoredRasterWritesSetTheBit := by
  unfold Obligations.IgnoredRasterWritesSetTheBit
  intro h slot s k hk hi r ignored
  constructor
  · intro id v hd xs hds hplane
    have hid : id.toNat = 0x12 ↔ id = 0x12 := (BitVec.toNat_inj (y := (0x12 : Byte)))
    have hrefused := lineWrite_param_ignored (v := v.toNat) fun n p hfound =>
      (hplane n p hfound).imp_right (.imp_left hid.2)
    have hissue := issue_pwrite (id := id.toNat) hk hi hds
    rw [tabWrite_ignored 4 1 _ hrefused] at hissue
    exact congrArg Host.Outcome.next hissue
  · intro v n xs hds howner
    have hrefused := lineWrite_pal_ignored (v := v.toNat) ((palette_of_truncated n.toNat).symm ▸ howner)
    have hissue := issue_palw hk hi hds
    rw [tabWrite_ignored 4 1 _ hrefused] at hissue
    exact congrArg Host.Outcome.next hissue

end Sys2Proof.Machine
end

section
/-! SUPPORT. Accepted commands: what an inversion of a command's checks leaves, and the outcome of the row. -/

namespace Sys2Proof.Machine

section
variable {β ε : Type}

/-- A check that passed says nothing of the answer: what follows it does. -/
theorem of_check {x : Except ε Unit} {k : Unit → Except ε β} {b : β} (h : (x >>= k) = .ok b) : k () = .ok b := by
  obtain ⟨_, _, hk⟩ := bind_ok.1 h
  exact hk

/-- Where an error is raised on one side, the answer comes from the other. -/
theorem of_ite_error {p : Prop} [Decidable p] {e : ε} {x : Except ε β} {b : β}
    (h : (if p then .error e else x) = .ok b) : ¬p ∧ x = .ok b := by
  split at h
  next => cases h
  next hp => exact ⟨hp, h⟩

end

/-- A command that answers later leaves its state as its meaning gives it. -/
theorem ok_later {s t : State} {q : Reply} : (.ok (s, .later) : CmdRes) = .ok (t, q) ↔ s = t ∧ Reply.later = q := by
  simp

theorem ok_wait {s t : State} {j : Job} {q : Reply} : (.ok (s, .wait j) : CmdRes) = .ok (t, q) ↔ s = t ∧ Reply.wait j = q := by
  simp

/-- An accepted command row: its own checks answer, and the row carries that answer out. -/
theorem exec_of_accepts {i : Instr} {c : Cmd} {s : State} {op lo hi : Nat} {who : Privilege}
    {body : Cmd → CmdRef → State → CmdRes} (hrow : commandOf i = some (c, ⟨op, who, lo, hi, body⟩))
    (ha : s.accepts c op who lo hi body = true) :
    ∃ t q, body c (c.ref op) (s.turn c op) = .ok (t, q) ∧
      exec i s = .next ((s.turn c op).answer (c.ref op) (.ok (t, q))).advanced := by
  obtain ⟨t, q, hbody, hcommand⟩ := State.command_accepts ha
  exact ⟨t, q, hbody, (exec_command hrow s).trans (next_advanced hcommand)⟩

end Sys2Proof.Machine
end

section
/-! SUPPORT and the statements settled. What holds of every step: it goes on, takes the front of the queue out, keeps the
invariant, the fuses and the locked PASIDs (R49, R77, R93, R503, R504); and what the part is right after reset (R510). -/

namespace Sys2Proof.Machine

/-! ### One step -/

/-- Settles O45: the queue's front is matched on, and what is left is the queue's rest. -/
theorem stepRunsTheFrontCommand : Obligations.StepRunsTheFrontCommand := by
  unfold Obligations.StepRunsTheFrontCommand
  intro i rest s
  constructor
  · intro hfront
    unfold step
    rw [hfront]
  · rfl

/-- Settles O46. -/
theorem emptyQueueIdles : Obligations.EmptyQueueIdles := by
  unfold Obligations.EmptyQueueIdles
  intro s hempty
  unfold step
  rw [hempty]

theorem step_next (s : State) : ∃ t, step s = .next t := by
  unfold step
  split
  next => exact ⟨s, rfl⟩
  next i rest hfront => exact exec_next i _

/-- Settles O47: each command's meaning goes on, and whatever it does it leaves the queue's rest alone. -/
theorem everyStepGoesOnWithTheQueuesTail : Obligations.EveryStepGoesOnWithTheQueuesTail := by
  unfold Obligations.EveryStepGoesOnWithTheQueuesTail
  intro s
  obtain ⟨t, hstep⟩ := step_next s
  exact ⟨t, hstep, (step_resets s t hstep).pending⟩

/-! ### The invariant (R49, R77, R93) -/

/-- Settles O48: `State.Resets`, which every command meets, carries the invariant over; the queue is no part of it. -/
theorem stepKeepsTheInvariant : Obligations.StepKeepsTheInvariant := by
  unfold Obligations.StepKeepsTheInvariant
  intro s t hinv hstep
  exact (step_resets s t hstep).inv hinv

/-- Settles O49: every memory and the table of tenants are empty, the device status page is 0. -/
theorem resetMeetsTheInvariant : Obligations.ResetMeetsTheInvariant := by
  unfold Obligations.ResetMeetsTheInvariant
  exact ⟨rfl, rfl, rfl⟩

/-- Settles O60: every register reads what `State.reset` holds, and a table that is empty reads its default. -/
theorem resetLeavesWhatTheSpecGives : Obligations.ResetLeavesWhatTheSpecGives := by
  unfold Obligations.ResetLeavesWhatTheSpecGives
  refine ⟨rfl, rfl, fun t => ⟨rfl, ?_⟩, rfl, rfl, rfl, rfl, rfl, rfl, rfl, rfl, rfl, fun c => rfl, fun m => ⟨rfl, rfl, rfl, rfl⟩,
    fun b => ⟨rfl, rfl, rfl⟩, by decide⟩
  rfl

/-! ### The fuses (R503, R504) -/

/-- A lifecycle that is as far on as another is the other, or lies ahead of it. -/
theorem Lifecycle.forward_of_rank_le {a b : Lifecycle} (h : a.rank ≤ b.rank) :
    a = b ∨ (a = .blank ∧ (b = .secured ∨ b = .returned)) ∨ (a = .secured ∧ b = .returned) := by
  revert h
  cases a <;> cases b <;> decide

/-- Settles O50: `State.Resets` lets the lifecycle only rise, and the query's first word is its code (R523). -/
theorem lifecycleOnlyMovesForward : Obligations.LifecycleOnlyMovesForward := by
  unfold Obligations.LifecycleOnlyMovesForward
  refine ⟨fun s t hstep => Lifecycle.forward_of_rank_le (step_resets s t hstep).rank, ?query⟩
  case query =>
    intro s c ha a
    obtain ⟨t, q, hbody, hexec⟩ := exec_of_accepts (i := .lifecycleQuery c) rfl ha
    dsimp only [lifecycleQueryBody] at hbody
    obtain ⟨rfl, rfl⟩ := okDone_ok.1 (of_check hbody)
    refine ⟨_, hexec, ?_⟩
    show some (word a.boot.lifecycle.code) = _
    cases a.boot.lifecycle <;> rfl

/-- Settles O51: `State.Resets` keeps the hash of a part that has left Blank. -/
theorem ownerHashIsFusedOnce : Obligations.OwnerHashIsFusedOnce := by
  unfold Obligations.OwnerHashIsFusedOnce
  intro s t hleft hstep
  exact (step_resets s t hstep).hash hleft

/-! ### The PASID lock (R77) -/

/-- Settles O52: every row but the resets stands in `State.Keeps`, which keeps what the lock covers. -/
theorem pasidLockHoldsUntilReset : Obligations.PasidLockHoldsUntilReset := by
  unfold Obligations.PasidLockHoldsUntilReset
  intro i s t hreset hsupply hexec hlocked
  have hkeeps : s.Keeps t := by
    have h := exec_keeps i s hreset hsupply
    rwa [hexec] at h
  exact hkeeps.lock hlocked

end Sys2Proof.Machine
end

section
/-! SUPPORT and the statements settled. Chapter 09: an instruction row is an issue of its core, so it stays on that core
(R225, R226), and a tab thread's stays in its segments (R230). -/

namespace Sys2Proof.Machine

/-- An instruction row is an issue of the core that `coreOf` names; only of a unit that the core runs is the
ILLEGAL_INSTRUCTION row nothing at all (R228). -/
theorem exec_instruction {i : Instr} {who : CoreRef} (h : coreOf i = some who) (s : State) :
    exec i s = .next s ∨ ∃ ok units cost w, exec i s = .next (s.issue ok units cost w who) := by
  cases i with
  | illegalInstruction core unit =>
    cases h
    by_cases hlegal : s.legalUnit who unit.toNat = true
    · exact .inl (congrArg Host.Outcome.next (if_pos hlegal))
    · exact .inr ⟨_, _, _, _, congrArg Host.Outcome.next (if_neg hlegal)⟩
  | _ => cases h <;> exact .inr ⟨_, _, _, _, rfl⟩

/-- Settles O53: an issue changes no more than `Stays` allows. -/
theorem instructionsStayOnTheirCore : Obligations.InstructionsStayOnTheirCore := by
  unfold Obligations.InstructionsStayOnTheirCore
  intro i who s t hcore hexec hcalm
  have hstays : Stays who s t := by
    obtain h | ⟨ok, units, cost, w, h⟩ := exec_instruction hcore s
    · cases hexec.symm.trans h
      exact .refl
    · cases hexec.symm.trans h
      exact stays_issue ok units cost w who s
  obtain ⟨-, hthreads, hpeg, hcp⟩ := hstays.calmly hcalm
  exact ⟨hthreads, hpeg, hcp⟩

/-- Settles O59: an issue of a tab core writes within the segments of its thread, which it leaves in their places. -/
theorem tabThreadsWriteOnlyTheirSegments : Obligations.TabThreadsWriteOnlyTheirSegments := by
  unfold Obligations.TabThreadsWriteOnlyTheirSegments
  intro i h slot s t k hcore hk hexec hcalm
  have hsegments : SegmentsKept h slot k s := by
    intro x hx
    rw [Option.some.inj (hx.symm.trans hk)]
  have hwithin : Within h slot k s t := by
    obtain e | ⟨ok, units, cost, w, e⟩ := exec_instruction hcore s
    · cases hexec.symm.trans e
      exact .refl
    · cases hexec.symm.trans e
      exact within_tab _ _ _ s hsegments
  obtain ⟨-, hhost, hread⟩ := hwithin.calmly hcalm
  exact ⟨hhost, fun a hdata hcode => hread a ⟨hdata, hcode⟩⟩

end Sys2Proof.Machine
end

section
/-! SUPPORT and the statements settled. Chapters 03, 05 and 18: what a rejected command leaves (R3, R67), the object limits of a
line (R141), and the interrupt sources under their rows (R461 to R464). -/

namespace Sys2Proof.Machine

/-! ### Rejected commands (R3, R67) -/

/-- A rejected command row carries its rejection out and does nothing else. -/
theorem exec_of_rejects {i : Instr} {c : Cmd} {row : CommandRow} {s : State} {e : CErr} (hrow : commandOf i = some (c, row))
    (hrej : s.rejects c row.op row.who row.lo row.hi row.body e) :
    exec i s = .next ((s.turn c row.op).answer (c.ref row.op) (.error e)).advanced :=
  (exec_command hrow s).trans (next_advanced (State.command_rejects hrej))

/-- A header that passes with extensions allowed fails without them at the flags field, where it claims any (R67). -/
theorem headerCheck_of_extension {op : Nat} {p : Privilege} {c : Cmd} {s : State} (hext : c.ext ≠ 0)
    (h : headerCheck op p 0 15 c s = .ok ()) : headerCheck op p 0 0 c s = .error { status := eBadCmd, detail := 0x0002 } := by
  unfold headerCheck at h ⊢
  obtain ⟨hpriv, -⟩ := of_ite_error h
  rw [if_neg hpriv, if_pos (.inr (.inr (.inr (Nat.pos_of_ne_zero hext))))]

/-- A command that was not fetched before its row is taken by it, with all the entries it claims (R66). -/
theorem State.fetched_of_mayProcess {s : State} {c : Cmd} {op : Nat} (hnew : (s.tick c.dt).turned.isFetched c (c.ref op) = false)
    (hturn : (s.fetched c op).mayProcess c (c.ref op) = true) : s.fetched c op = (s.tick c.dt).turned.takeCmd c op := by
  have hhere : (s.fetched c op).isFetched c (c.ref op) = true := by
    simp only [State.mayProcess, Bool.and_eq_true] at hturn
    exact hturn.1.2
  unfold State.fetched at hhere ⊢
  dsimp only at hhere ⊢
  rw [hnew, if_neg Bool.false_ne_true] at hhere ⊢
  split
  next => rfl
  next hnot => rw [if_neg hnot, hnew] at hhere; cases hhere

/-- Taking a command moves its tenant's CMD_HEAD past all its entries (R66). -/
theorem State.tenant_takeCmd {s : State} {c : Cmd} {x : Tenant} (op : Nat) (hx : s.tenant? c.tenant = some x) :
    (s.takeCmd c op).tenant? c.tenant =
      some { x with mbox := { x.mbox with cmdHead := x.mbox.cmdHead + word c.entries } } := by
  have hmod := tenant_modTenant s c.tenant c.tenant
    (fun x => { x with mbox := { x.mbox with cmdHead := x.mbox.cmdHead + word c.entries } })
  rw [hx, Option.map_some, if_pos rfl] at hmod
  exact hmod

/-- Settles O43: the header fails for the extension alone, the row has taken all the entries, and the record moves no head. -/
theorem unclaimedExtensionsAreRejected : Obligations.UnclaimedExtensionsAreRejected := by
  unfold Obligations.UnclaimedExtensionsAreRejected
  intro i c row s x hrow hop hext hturn hheader hnew hx
  obtain ⟨-, -, hbounds⟩ := commandOf_who hrow
  obtain ⟨hlo, hhi⟩ := hbounds hop
  have hrej : s.rejects c row.op row.who row.lo row.hi row.body { status := eBadCmd, detail := 0x0002 } := by
    rw [hlo, hhi]
    exact ⟨hturn, .inl (headerCheck_of_extension hext hheader)⟩
  have hown : (s.turn c row.op).tenant? c.tenant =
      some { x with mbox := { x.mbox with cmdHead := x.mbox.cmdHead + word c.entries } } := by
    unfold State.turn
    rw [State.fetched_of_mayProcess hnew hturn]
    exact State.tenant_takeCmd row.op hx
  obtain ⟨y, hy, -, hmbox⟩ := (RecordOnly.complete (s.turn c row.op) (c.ref row.op) eBadCmd 0x0002 []).own _ hown
  exact ⟨_, y, exec_of_rejects hrow hrej, rfl, hy, by rw [hmbox]⟩

/-- Settles O44: a rejection is carried out by the record and, for a read that faulted, by that fault's count and event. -/
theorem rejectedCommandsChangeNothing : Obligations.RejectedCommandsChangeNothing := by
  unfold Obligations.RejectedCommandsChangeNothing
  intro i c row s e hrow hrej b
  obtain ⟨hrest, hothers, hown, hflights⟩ := RecordOnly.rejected (s.turn c row.op) (c.ref row.op) e
  refine ⟨_, exec_of_rejects hrow hrej, hrest, fun hfault => ?_, hothers, hown, hflights⟩
  unfold State.answer
  dsimp only
  rw [hfault]

/-! ### The object limits (R141) -/

/-- Settles O58: the loop over the candidates, started with nothing taken. -/
theorem objectLimitsDropTheRestOfTheLine : Obligations.ObjectLimitsDropTheRestOfTheLine := by
  unfold Obligations.ObjectLimitsDropTheRestOfTheLine
  intro cs taken dropped h
  simpa using take_spec cs 0 0 taken dropped (Nat.zero_le _) (Nat.zero_le _) h

/-! ### Interrupt sources (R461 to R464) -/

section
variable (s : State)

@[simp] theorem State.tick_src (dt n : Nat) : (s.tick dt).src n = s.src n := by
  unfold State.src
  rw [State.tick_intc]

@[simp] theorem State.tick_isLevel (dt n : Nat) : (s.tick dt).isLevel n = s.isLevel n := by
  unfold State.isLevel State.pin
  rw [State.tick_pins]

/-- A level source is pending by its input, unless it is in service (R462). -/
theorem srcPending_of_level {i : Nat} (h : s.isLevel i = true) :
    s.srcPending i = ((s.src i).asserted && !(s.src i).inService) := by
  unfold State.srcPending
  exact if_pos h

/-- What a fold over sources with one change each is, where each change asks the state only what the changes keep. -/
theorem foldl_clearCount (edges : List Nat) (l : List Nat) (s : State) :
    l.foldl (fun s i => s.clearCount i edges) s =
      l.foldl (fun t i => t.modSrc i (fun x => { x with
        count := if edges.contains i || s.hwHas (.srcEdge i) then 1 else 0 })) s := by
  induction l generalizing s with
  | nil => rfl
  | cons x l ih => exact ih (s.clearCount x edges)

/-- A word of sources of which the level ones ignore the write (R461): what each source is after it, and that nothing else
changes. -/
theorem fold_edgeSources (f : Nat → IntSrc → IntSrc) (k : Nat) (v : Word) :
    let t := ((wordSources k v).filter (fun i => !s.isLevel i)).foldl (fun s i => s.modSrc i (f i)) s
    (∀ n, t.src n = if n / 32 = k ∧ v.getLsbD (n % 32) = true then if s.isLevel n then s.src n else f n (s.src n)
      else s.src n) ∧
    { t with intc := s.intc } = s ∧ { t.intc with src := s.intc.src } = s.intc := by
  intro t
  obtain ⟨hsrc, hrest⟩ := fold_modSrc f _ ((nodup_wordSources k v).filter (fun i => !s.isLevel i)) s
  refine ⟨fun n => (hsrc n).trans ?_, hrest⟩
  simp only [List.mem_filter, mem_wordSources, Bool.not_eq_true']
  by_cases hlevel : s.isLevel n = true
  · simp [hlevel]
  · simp [hlevel]

/-- A word of sources, level ones as well (R11). -/
theorem fold_wordSources (f : Nat → IntSrc → IntSrc) (k : Nat) (v : Word) :
    let t := (wordSources k v).foldl (fun s i => s.modSrc i (f i)) s
    (∀ n, t.src n = if n / 32 = k ∧ v.getLsbD (n % 32) = true then f n (s.src n) else s.src n) ∧
    { t with intc := s.intc } = s ∧ { t.intc with src := s.intc.src } = s.intc := by
  intro t
  obtain ⟨hsrc, hrest⟩ := fold_modSrc f _ (nodup_wordSources k v) s
  refine ⟨fun n => (hsrc n).trans ?_, hrest⟩
  simp only [mem_wordSources]

end

/-- A level reaches its source (R462). -/
theorem sourceEvent_of_level {s : State} {i : Nat} (hi : i < 512) (h : s.isLevel i = true) (b : Bool) :
    s.sourceEvent i b = s.modSrc i (fun x => { x with asserted := b }) := by
  unfold State.sourceEvent
  rw [if_neg (Nat.not_le.2 hi), if_pos h]

/-- An edge reaches its source (R461, R463): caught by a stopped clock, counted up to 255, and past that an overflow. -/
theorem sourceEvent_of_edge {s : State} {i : Nat} (hi : i < 512) (h : s.isLevel i = false) :
    s.sourceEvent i true =
      if s.intcStopped then s.modSrc i (fun x => { x with caught := true })
      else if (s.src i).count < 255 then (s.modSrc i (fun x => { x with count := x.count + 1 })).hwMark (.srcEdge i)
      else ((s.modSrc i (fun x => { x with overflow := true })).hwMark (.srcOverflow i)).hwMark (.srcEdge i) := by
  unfold State.sourceEvent
  rw [if_neg (Nat.not_le.2 hi), h, if_neg Bool.false_ne_true]
  rfl

/-- The end of an edge's input is no event (R461). -/
theorem sourceEvent_of_noEdge {s : State} {i : Nat} (h : s.isLevel i = false) : s.sourceEvent i false = s := by
  unfold State.sourceEvent
  split
  next => rfl
  next => rw [h, if_neg Bool.false_ne_true]; rfl

/-- Settles O14: an event by the trigger and the state of its source, a register write by what its word's fold leaves. -/
theorem interruptControllerRowsComplete : Obligations.InterruptControllerRowsComplete := by
  unfold Obligations.InterruptControllerRowsComplete
  intro s dt i k g v edges a x
  refine ⟨?noSource, ?level, ?edge, ?holdoff, ?holdoffStopped, ?registers⟩
  case noSource =>
    intro hi b
    exact congrArg Host.Outcome.next (if_pos hi)
  case level => exact fun hi h b => congrArg Host.Outcome.next (sourceEvent_of_level hi h b)
  case edge =>
    intro hi h
    have hedge := sourceEvent_of_edge hi h
    refine ⟨congrArg Host.Outcome.next (sourceEvent_of_noEdge h), fun hstop => ?_, fun hrun hcount => ?_, fun hrun hcount => ?_⟩
    · rw [if_pos hstop] at hedge
      exact congrArg Host.Outcome.next hedge
    · rw [hrun, if_neg Bool.false_ne_true, if_pos hcount] at hedge
      exact congrArg Host.Outcome.next hedge
    · rw [hrun, if_neg Bool.false_ne_true, if_neg (Nat.not_lt.2 hcount)] at hedge
      exact congrArg Host.Outcome.next hedge
  case holdoff =>
    intro hrun
    exact ⟨_, congrArg Host.Outcome.next (if_pos hrun), rfl, rfl⟩
  case holdoffStopped =>
    intro hstop
    exact congrArg Host.Outcome.next (if_neg (by rw [hstop]; exact Bool.false_ne_true))
  case registers =>
    intro row f hmem
    simp only [List.mem_cons, Prod.mk.injEq, List.not_mem_nil, or_false] at hmem
    obtain ⟨rfl, rfl⟩ | ⟨rfl, rfl⟩ | ⟨rfl, rfl⟩ | ⟨rfl, rfl⟩ := hmem
    · exact ⟨_, rfl, fold_edgeSources a (fun _ y => { y with count := min 255 (y.count + 1) }) k v⟩
    · exact ⟨_, congrArg Host.Outcome.next (foldl_clearCount edges _ a), fold_edgeSources a (fun n y => { y with
        count := if edges.contains n || a.hwHas (.srcEdge n) then 1 else 0 }) k v⟩
    · exact ⟨_, rfl, fold_wordSources a (fun _ y => { y with enabled := true }) k v⟩
    · exact ⟨_, rfl, fold_wordSources a (fun _ y => { y with enabled := false }) k v⟩

/-- What a source is under a fold over the edge sources of a word, where it is a level one: as it was (R461). -/
theorem src_fold_edgeSources_of_level {s : State} {n : Nat} (h : s.isLevel n = true) (f : Nat → IntSrc → IntSrc) (k : Nat)
    (v : Word) :
    (((wordSources k v).filter (fun i => !s.isLevel i)).foldl (fun s i => s.modSrc i (f i)) s).src n = s.src n := by
  obtain ⟨hsrc, -⟩ := fold_edgeSources s f k v
  rw [hsrc, h]
  exact ite_self _

/-- An entry of a level source puts it in service (R462). -/
theorem src_takeSource_of_level {s : State} {i : Nat} (h : s.isLevel i = true) :
    (s.takeSource i).src i = { s.src i with inService := true } ∧ (s.takeSource i).isLevel i = true := by
  have hsrc : (s.modSrc i (fun x => { x with inService := true })).src i = { s.src i with inService := true } := by
    rw [src_modSrc, if_pos rfl]
  unfold State.takeSource
  simp only [h, if_true]
  split <;> split <;> exact ⟨hsrc, h⟩

/-- The RETI that ends the entry of a source frees it (R462). -/
theorem endEntry_of_entered {s : State} {i : Nat} (h : s.intc.fast = some i ∨ s.intc.fast = none ∧ s.intc.normal = some i) :
    s.endEntry.src i = { s.src i with inService := false } ∧ s.endEntry.isLevel i = s.isLevel i := by
  have hsrc : (s.modSrc i (fun x => { x with inService := false })).src i = { s.src i with inService := false } := by
    rw [src_modSrc, if_pos rfl]
  unfold State.endEntry
  obtain hfast | ⟨hfast, hnormal⟩ := h
  · simp only [hfast]
    exact ⟨hsrc, rfl⟩
  · simp only [hfast, hnormal]
    exact ⟨hsrc, rfl⟩

/-- Settles O55: pending by the definition of a level, then the source after each row that could change it. -/
theorem levelSourcesFollowTheirInput : Obligations.LevelSourcesFollowTheirInput := by
  unfold Obligations.LevelSourcesFollowTheirInput
  intro s i hi hlevel
  have hpending := srcPending_of_level s hlevel
  obtain ⟨htaken, htakenLevel⟩ := src_takeSource_of_level hlevel
  refine ⟨?pending, htaken, ?taken, ?ended, fun dt k v edges b => ⟨?event, ?set, ?clear⟩⟩
  case pending => simp [hpending]
  case taken => simp [srcPending_of_level _ htakenLevel, htaken]
  case ended =>
    intro hentry
    obtain ⟨hfree, hfreeLevel⟩ := endEntry_of_entered hentry
    refine ⟨hfree, ?_⟩
    simp [srcPending_of_level _ (hfreeLevel.trans hlevel), hfree]
  all_goals have hticked : (s.tick dt).isLevel i = true := (State.tick_isLevel s dt i).trans hlevel
  case event =>
    refine ⟨_, congrArg Host.Outcome.next (sourceEvent_of_level hi hticked b), ?_⟩
    rw [src_modSrc, if_pos rfl, State.tick_src]
  case set =>
    refine ⟨_, rfl, (src_fold_edgeSources_of_level hticked (fun _ y => { y with count := min 255 (y.count + 1) }) k v).trans ?_⟩
    exact State.tick_src s dt i
  case clear =>
    refine ⟨_, congrArg Host.Outcome.next (foldl_clearCount edges _ (s.tick dt)), ?_⟩
    exact (src_fold_edgeSources_of_level hticked (fun n y => { y with
      count := if edges.contains n || (s.tick dt).hwHas (.srcEdge n) then 1 else 0 }) k v).trans (State.tick_src s dt i)

end Sys2Proof.Machine
end

section
/-! SUPPORT and the statements settled. Chapter 09: the instructions that only change a thread's registers (R229, R234 to R237,
Tables 9.4 to 9.6). -/

namespace Sys2Proof.Machine

section
variable {i : Instr} {who : CoreRef} {s : State} {r q : TRegs} {ok : CoreRef → Bool} {n cost : Nat} {a v : Word}
  {xs ys : List Word} {f : List Word → List Word} {g : Ctx → TRegs → Except Nat TRegs} {target : Word}

/-! ### The stacks (R234, R245) -/

/-- A stack instruction that finds its entries, and room where it grows the stack. -/
theorem exec_of_stack (hexec : exec i s = .next (s.issue onAll 1 1 (.stack n f) who)) (hr : s.coreRegs? who = some r)
    (hi : s.canIssue 1 1 who = true) (hn : n ≤ r.ds.length) (hy : f (r.ds.take n) ++ r.ds.drop n = ys)
    (hl : ys.length ≤ r.ds.length ∨ ys.length ≤ r.cap) :
    exec i s = .next (s.issued 1 1 who { r.setDs ys with pc := r.pc + 2 }) := by
  rw [hexec, issue_stack rfl hr hi hn hy hl]
  rfl

/-- An instruction that changes registers in sequence, of as many units as it is charged. -/
theorem exec_of_seq (hexec : exec i s = .next (s.issue ok n cost (.seq g) who)) (hok : ok who = true)
    (hr : s.coreRegs? who = some r) (hi : s.canIssue n cost who = true) (hg : ∀ c : Ctx, c.who = who → g c r = .ok q) :
    exec i s = .next (s.issued n cost who { q with pc := r.pc + word (2 * n) }) := by
  rw [hexec, issue_seq hok hr hi hg]

theorem pop_of_cons (h : r.ds = a :: xs) : r.pop = .ok (a, r.setDs xs) := by
  simp only [TRegs.pop, h]

theorem rpop_of_cons (h : r.r = a :: xs) : r.rpop = .ok (a, { r with r := xs }) := by
  simp only [TRegs.rpop, h]

theorem rpush_ok (h : r.r.length < 16) : r.rpush v = .ok { r with r := v :: r.r } :=
  if_neg (Nat.not_le.2 h)

/-- The entry below which PICK stops is the top of what it leaves. -/
theorem pick_stack (h : xs[n]? = some a) : (xs.take (n + 1)).drop n ++ xs.take (n + 1) ++ xs.drop (n + 1) = a :: xs := by
  obtain ⟨hn, hget⟩ := List.getElem?_eq_some_iff.1 h
  have htop : (xs.take (n + 1)).drop n = [a] := by
    rw [List.drop_take, List.drop_eq_getElem_cons hn, hget]
    simp
  rw [List.append_assoc, List.take_append_drop, htop]
  rfl

end

/-- Settles O28: each instruction names the entries it takes and what stands in their place. -/
theorem stackInstructionsComplete : Obligations.StackInstructionsComplete := by
  unfold Obligations.StackInstructionsComplete
  intro who s r hr hi gives
  refine ⟨?nop, ?drop, ?dup, ?swap, ?copyBelow, ?rot, ?nip, ?tuck, ?pick, ?depth, ?tor, ?fromr, ?rfetch, ?rdrop⟩
  case nop =>
    have hsame := exec_of_stack (i := .nopInstruction who) (ys := r.ds) rfl hr hi (Nat.zero_le _) rfl (.inl (Nat.le_refl _))
    rwa [setDs_self] at hsame
  case drop => exact fun a xs h => exec_of_stack rfl hr hi (by simp [h]) (by simp [h]) (by simp [h])
  case dup => exact fun a xs h hroom => exec_of_stack rfl hr hi (by simp [h]) (by simp [h]) (.inr (by rw [h] at hroom; exact hroom))
  case swap => exact fun a b xs h => exec_of_stack rfl hr hi (by simp [h]) (by simp [h]) (by simp [h])
  case copyBelow =>
    exact fun a b xs h hroom => exec_of_stack rfl hr hi (by simp [h]) (by simp [h]) (.inr (by rw [h] at hroom; exact hroom))
  case rot => exact fun a b c xs h => exec_of_stack rfl hr hi (by simp [h]) (by simp [h]) (by simp [h])
  case nip => exact fun a b xs h => exec_of_stack rfl hr hi (by simp [h]) (by simp [h]) (by simp [h])
  case tuck =>
    exact fun a b xs h hroom => exec_of_stack rfl hr hi (by simp [h]) (by simp [h]) (.inr (by rw [h] at hroom; exact hroom))
  case pick =>
    intro n a h hroom
    obtain ⟨hn, -⟩ := List.getElem?_eq_some_iff.1 h
    exact exec_of_stack rfl hr hi hn (pick_stack h) (.inr hroom)
  case depth => exact fun hroom => exec_of_seq rfl rfl hr hi fun c _ => push_ok hroom
  case tor =>
    intro a xs h hroom
    refine exec_of_seq rfl rfl hr hi fun c _ => ?_
    have hpush := rpush_ok (r := r.setDs xs) (v := a) (by rwa [setDs_r])
    rw [setDs_r] at hpush
    simp only [pop_of_cons h, hpush]
  case fromr =>
    intro a xs h hroom
    refine exec_of_seq (q := { r.setDs (a :: r.ds) with r := xs }) rfl rfl hr hi fun c _ => ?_
    have hpush := push_ok (r := { r with r := xs }) (v := a) hroom
    rw [with_r_setDs, with_r_ds] at hpush
    simp only [rpop_of_cons h, hpush]
  case rfetch =>
    intro a xs h hroom
    refine exec_of_seq rfl rfl hr hi fun c _ => ?_
    simp only [rpop_of_cons h, push_ok hroom]
  case rdrop =>
    intro a xs h
    refine exec_of_seq (q := { r with r := xs }) rfl rfl hr hi fun c _ => ?_
    rw [rpop_of_cons h]
    rfl

/-! ### Literals and P registers (R236) -/

section
variable {i : Instr} {who : CoreRef} {s : State} {r : TRegs}

/-- An instruction that pushes one word and passes its units. -/
theorem exec_of_push {n : Nat} {v : Word} (hexec : exec i s = .next (s.issue onAll n n (.seq fun _ r => r.push v) who))
    (hr : s.coreRegs? who = some r) (hi : s.canIssue n n who = true) (hroom : r.ds.length < r.cap) :
    exec i s = .next (s.issued n n who { r.setDs (v :: r.ds) with pc := r.pc + word (2 * n) }) :=
  exec_of_seq hexec rfl hr hi fun _ _ => push_ok hroom

end

/-- Settles O31: pushes of a literal or of a P register, and writes of a P register. -/
theorem literalAndPointerInstructionsComplete : Obligations.LiteralAndPointerInstructionsComplete := by
  unfold Obligations.LiteralAndPointerInstructionsComplete
  intro who s r hr gives
  refine ⟨fun hroom => ⟨?lits, ?lit16, ?lit32, ?pget⟩, fun hi p => ⟨?popped, ?paddi⟩⟩
  case lits => exact fun hi v => exec_of_push rfl hr hi hroom
  case lit16 => exact fun hi x => ⟨exec_of_push rfl hr hi hroom, exec_of_push rfl hr hi hroom⟩
  case lit32 => exact fun hi x => exec_of_push rfl hr hi hroom
  case pget => exact fun hi p => exec_of_seq rfl rfl hr hi fun _ _ => push_ok hroom
  case popped =>
    intro a xs h
    refine ⟨exec_of_seq rfl rfl hr hi fun c _ => ?_, exec_of_seq rfl rfl hr hi fun c _ => ?_⟩
    · simp only [pop_of_cons h]
    · simp only [pop_of_cons h, setDs_ptr]
  case paddi => exact fun k => exec_of_seq rfl rfl hr hi fun _ _ => rfl

/-! ### Control transfers (R229, R237) -/

/-- A code address to which control may pass on a core (R229). -/
def State.Fits (s : State) (who : CoreRef) (target : Word) : Prop := target.getLsbD 0 = false ∧
  match who with
  | .tab h slot => ∀ k, s.thread? h slot = some k → target.toNat < k.codeSize
  | .peg => target.toNat < 0x10000
  | .cp => True

/-- The end of a core's code segment, where its code has one (R229). -/
def State.codeEnd (s : State) : CoreRef → Option Nat
  | .tab h slot => (s.thread? h slot).map Thread.codeSize
  | .peg => some 0x10000
  | .cp => none

section
variable {i : Instr} {who : CoreRef} {s : State} {r q : TRegs} {ok : CoreRef → Bool} {n cost : Nat} {target : Word}
  {g : Ctx → TRegs → Except Nat TRegs} {xs : List Word}

/-- Where an instruction of a core issues: the address after it, and the end of its code segment. -/
structure Ctx.IsOf (c : Ctx) (who : CoreRef) (s : State) (next : Word) : Prop where
  core : c.who = who
  after : c.next = next
  bound : c.lim = s.codeEnd who

/-- Control passes to a target that fits. -/
theorem go_of_fits {c : Ctx} {next : Word} (hc : c.IsOf who s next) (hfits : s.Fits who target) :
    c.go target r = .ok { r with pc := target } := by
  obtain ⟨heven, hlimit⟩ := hfits
  refine go_ok heven fun m hm => ?_
  rw [hc.bound] at hm
  cases who with
  | tab h slot =>
    obtain ⟨k, hk, rfl⟩ := Option.map_eq_some_iff.1 hm
    exact hlimit k hk
  | peg => cases hm; exact hlimit
  | cp => cases hm

/-- An instruction that changes registers, PC among them. -/
theorem exec_of_regs (hexec : exec i s = .next (s.issue ok n cost (.regs g) who)) (hok : ok who = true)
    (hr : s.coreRegs? who = some r) (hi : s.canIssue n cost who = true)
    (hg : ∀ c : Ctx, c.IsOf who s (r.pc + word (2 * n)) → g c r = .ok q) : exec i s = .next (s.issued n cost who q) := by
  rw [hexec, issue_regs hok hr hi fun c hwho hnext hlim => hg c ⟨hwho, hnext, hlim.trans (by cases who <;> rfl)⟩]

/-- What a relative transfer of one unit leaves, where its condition fails and where it holds. -/
def Branches (s : State) (who : CoreRef) (i : Instr) (pc : Word) (taken : Bool) (off : Word) (q : TRegs) : Prop :=
  (taken = false → exec i s = .next (s.issued 1 1 who { q with pc := pc + 2 })) ∧
    (taken = true → s.Fits who (pc + 2 + 2 * off) → exec i s = .next (s.issued 1 1 who { q with pc := pc + 2 + 2 * off }))

/-- A transfer that goes by a condition on the registers, once its operands are popped. -/
theorem branches_of_regs {w : Nat} {off : BitVec w} {taken : Bool} (hexec : exec i s = .next (s.issue ok 1 1 (.regs g) who))
    (hok : ok who = true) (hr : s.coreRegs? who = some r) (hi : s.canIssue 1 1 who = true)
    (hg : ∀ c : Ctx, g c r = if taken then c.go (c.rel off) q else .ok { q with pc := c.next }) :
    Branches s who i r.pc taken (off.signExtend 32) q := by
  refine ⟨fun hnot => exec_of_regs hexec hok hr hi fun c hc => ?_, fun htaken hfits => exec_of_regs hexec hok hr hi fun c hc => ?_⟩
  · rw [hg, hnot, if_neg Bool.false_ne_true, hc.after]
    rfl
  · have hrel : c.rel off = r.pc + 2 + 2 * off.signExtend 32 := by
      unfold Ctx.rel
      rw [hc.after]
      rfl
    rw [hg, htaken, if_pos rfl, hrel, go_of_fits hc hfits]

/-- A branch on two operands. -/
theorem branches_of_two {cond : Word → Word → Bool} {off : BitVec 9} {a b : Word} {taken : Bool}
    (hexec : exec i s = .next (s.issue onFull 1 1 (.branch2 off cond) who)) (hok : onFull who = true)
    (hr : s.coreRegs? who = some r) (hi : s.canIssue 1 1 who = true) (hds : r.ds = b :: a :: xs) (hcond : cond a b = taken) :
    Branches s who i r.pc taken (off.signExtend 32) (r.setDs xs) :=
  branches_of_regs hexec hok hr hi fun c => by simp only [hds, hcond]

/-- A branch on one operand. -/
theorem branches_of_one {cond : Word → Bool} {off : BitVec 9} {a : Word} {taken : Bool}
    (hexec : exec i s = .next (s.issue onFull 1 1 (.branch1 off cond) who)) (hok : onFull who = true)
    (hr : s.coreRegs? who = some r) (hi : s.canIssue 1 1 who = true) (hds : r.ds = a :: xs) (hcond : cond a = taken) :
    Branches s who i r.pc taken (off.signExtend 32) (r.setDs xs) :=
  branches_of_regs hexec hok hr hi fun c => by simp only [hds, hcond]

/-- A call leaves the address after it on the return stack. -/
theorem callTo_ok {c : Ctx} {next : Word} (hc : c.IsOf who s next) (hfits : s.Fits who target) (hroom : r.r.length < 16) :
    c.callTo target r = .ok { r with r := next :: r.r, pc := target } := by
  unfold Ctx.callTo
  rw [rpush_ok hroom, hc.after]
  exact go_of_fits hc hfits

/-- The target of a relative transfer on the words of its context. -/
theorem Ctx.IsOf.rel {c : Ctx} {next : Word} (hc : c.IsOf who s next) {w : Nat} (off : BitVec w) :
    c.rel off = next + 2 * off.signExtend 32 := by
  unfold Ctx.rel
  rw [hc.after]

end

/-- Settles O34: branches by their condition, and the other transfers by where their target comes from. -/
theorem controlTransfersComplete : Obligations.ControlTransfersComplete := by
  unfold Obligations.ControlTransfersComplete
  intro who s r hr fits gives pushed branch
  refine ⟨?branches, fun hi => ⟨?relative, ?popped, ?returned⟩, ?absolute⟩
  case branches =>
    intro hfull hi off
    have hok := onFull_of_ne_peg hfull
    refine ⟨fun a b xs hds => ?_, fun a xs hds => ?_⟩
    · have hsle (x y : Word) : decide (x.toInt ≤ y.toInt) = x.sle y := rfl
      exact ⟨branches_of_two rfl hok hr hi hds rfl, branches_of_two rfl hok hr hi hds rfl, branches_of_two rfl hok hr hi hds rfl,
        branches_of_two rfl hok hr hi hds (hsle b a), branches_of_two rfl hok hr hi hds rfl,
        branches_of_two rfl hok hr hi hds rfl⟩
    · exact ⟨branches_of_one rfl hok hr hi hds rfl, branches_of_one rfl hok hr hi hds rfl⟩
  case relative =>
    intro off target hfits
    refine ⟨exec_of_regs rfl rfl hr hi fun c hc => ?_, fun hroom => exec_of_regs rfl rfl hr hi fun c hc => ?_⟩
    · rw [hc.rel]
      exact go_of_fits hc hfits
    · rw [hc.rel]
      exact callTo_ok hc hfits hroom
  case popped =>
    intro a xs hds hfits
    refine ⟨exec_of_regs rfl rfl hr hi fun c hc => ?_, fun hroom => exec_of_regs rfl rfl hr hi fun c hc => ?_⟩
    · simp only [pop_of_cons hds]
      exact go_of_fits hc hfits
    · simp only [pop_of_cons hds]
      refine (callTo_ok hc hfits (by rwa [setDs_r])).trans ?_
      rw [setDs_r]
  case returned =>
    intro a xs h hfits
    refine exec_of_regs rfl rfl hr hi fun c hc => ?_
    simp only [rpop_of_cons h]
    exact go_of_fits hc hfits
  case absolute =>
    intro hi target hfits
    exact ⟨exec_of_regs rfl rfl hr hi fun c hc => go_of_fits hc hfits,
      fun hroom => exec_of_regs rfl rfl hr hi fun c hc => callTo_ok hc hfits hroom⟩

/-! ### The small profile (R235, Table 9.6) -/

/-- Settles O30: the exact sums and differences with carry in, and a branch by the flags. -/
theorem smallProfileInstructionsComplete : Obligations.SmallProfileInstructionsComplete := by
  unfold Obligations.SmallProfileInstructionsComplete
  intro s r hpeg hi gives flags cin outside
  have hr : s.coreRegs? .peg = some r := congrArg some hpeg
  have houtside (x : Int) : (decide (x < -2147483648) || decide (2147483647 < x)) = outside x := (Bool.decide_or _ _).symm
  refine ⟨fun a b xs hds => ⟨?cmp, ?tst, ?adc, ?sbc⟩, ?bcc⟩
  case cmp =>
    have hissue := issue_arith (ok := onSmall) (keep := false) (op := fun _ a b => subWith a b true) rfl hr hi hds
    rw [sub_eq] at hissue
    exact congrArg Host.Outcome.next hissue
  case tst =>
    refine (exec_of_seq (q := (r.setDs xs).flagZN true (a &&& b)) rfl rfl hr hi fun c hc => ?_).trans ?_
    · simp only [hds, hc, decide_true]
    · simp [TRegs.flagZN, gives, flags, BitVec.msb_eq_getLsbD_last]
  case adc =>
    have hissue := issue_arith (ok := onSmall) (keep := true) (op := fun r a b => addWith a b r.c) rfl hr hi hds
    rw [addWith_eq, houtside] at hissue
    exact congrArg Host.Outcome.next hissue
  case sbc =>
    have hissue := issue_arith (ok := onSmall) (keep := true) (op := fun r a b => subWith a b r.c) rfl hr hi hds
    rw [subWith_eq, houtside] at hissue
    exact congrArg Host.Outcome.next hissue
  case bcc =>
    intro cc off taken target hcc
    have hholds : r.holds cc.toNat = taken := rfl
    obtain ⟨hnot, htaken⟩ := branches_of_regs (i := .bcc .peg cc off) (q := r) (off := off) (taken := taken) rfl rfl hr hi
      fun c => by simp only [if_neg hcc, hholds]
    exact ⟨hnot, fun ht heven hlimit => htaken ht ⟨heven, hlimit⟩⟩

end Sys2Proof.Machine
end

section
/-! SUPPORT and the statements settled. Chapter 09: loads and stores (R231, R236), and the raster instructions of a tab core
(R239, R240). -/

namespace Sys2Proof.Machine

/-! ### Loads and stores (R231) -/

/-- Settles O32: every load is the shared one, with its size, its extension and its pointer's advance. -/
theorem loadInstructionsComplete : Obligations.LoadInstructionsComplete := by
  unfold Obligations.LoadInstructionsComplete
  intro who s r hr hroom loads p k
  have loads_of {i : Instr} {p k size : Nat} {sext post : Bool}
      (hexec : exec i s = .next (s.issue onAll 1 1 (.load p k size sext post) who)) : loads i p k size sext post := by
    obtain ⟨htab, hpeg, hcp⟩ := issue_load (p := p) (k := k) (size := size) (sext := sext) (post := post) hr hroom
    refine ⟨fun h slot x xs hwho hx hxs hi => ?_, fun bs hwho hi hlen hbytes => ?_, fun hwho hi => ?_⟩
    · rw [hexec, htab h slot x xs hwho hx hxs hi]
    · rw [hexec, hpeg bs hwho hi hlen hbytes]
    · rw [hexec, hcp hwho hi]
  exact ⟨loads_of rfl, loads_of rfl, loads_of rfl, loads_of rfl, loads_of rfl, loads_of rfl⟩

/-- A store destroys no tenant. -/
theorem calm_spotWrite {s : State} (hcalm : s.dyingTenants = []) (xs : List Spot) (bs : List Byte) :
    (s.spotWrite xs bs).dyingTenants = [] := by
  induction xs generalizing bs s with
  | nil => exact hcalm
  | cons x xs ih =>
    cases x with
    | phys a n => exact ih (calm_physStore hcalm) (bs.drop n)
    | asset a n => exact hcalm

/-- Settles O33: every store is the shared one, whose bytes the rules of the places and of the Peg core's registers give. -/
theorem storeInstructionsComplete : Obligations.StoreInstructionsComplete := by
  unfold Obligations.StoreInstructionsComplete
  intro who s r v vs hr hds stores p k
  have stores_of {i : Instr} {p k size : Nat} {post : Bool} (hpos : 0 < size) (hsize : size ≤ 4)
      (hexec : exec i s = .next (s.issue onAll 1 1 (.store p k size post) who)) : stores i p k size post := by
    obtain ⟨htab, hpeg, hcp⟩ := issue_store (p := p) (k := k) (size := size) (post := post) hr hds
    have hlen : (leBytes size v.toNat).length = size := leBytes_length _ _
    refine ⟨fun h slot x xs hwho hx hxs hi => ?_, fun hwho hi hwritable => ?_, fun hwho hi => ?_⟩
    · have hissue := htab h slot x xs hwho hx hxs hi
      obtain ⟨hhere, helsewhere⟩ := spotWrite_phys hpos hsize hxs hlen
        (s.spent h slot (4 * (halves (r.ptr p + word (k * size)).toNat size).length)
          (halves (r.ptr p + word (k * size)).toNat size).length x)
      refine ⟨_, hexec.trans (congrArg _ hissue), rfl, fun hcalm => ?_, hhere, helsewhere⟩
      exact tabAfter_mem (calm_of (by rfl) (calm_spotWrite (calm_of (by rfl) hcalm) xs (leBytes size v.toNat))) h slot
    · refine ⟨_, hexec.trans (congrArg _ (hpeg hwho hi hwritable)), rfl, fun hbound => ?_⟩
      have hrun := pegStore_run (leBytes size v.toNat) 0 (r.ptr p + word (k * size)).toNat
      rw [hlen, Nat.add_zero] at hrun
      exact hrun _ hbound
    · rw [hexec, hcp hwho hi]
  exact ⟨stores_of (by decide) (by decide) rfl, stores_of (by decide) (by decide) rfl, stores_of (by decide) (by decide) rfl,
    stores_of (by decide) (by decide) rfl⟩

/-! ### Raster instructions (R239, R240) -/

section
variable {s : State} {h slot : Nat} {k : Thread} {w : LWrite}

/-- The cycle in which a thread has issued stands as its core's last (R257). -/
theorem coreSched_spent (wait cost : Nat) (q : TRegs) :
    (((s.spent h slot wait cost k).setRegs h slot q).coreSched h (slotCore slot)).cycle = s.issueCycle h slot k := by
  simp [State.coreSched, State.spent, State.setRegs, State.charge, State.modThread, State.markIssue, State.modTabs, State.headTabs]

/-- A raster write that changes something joins those of the line served, in the order of issue (R239, R265). -/
theorem tabWrite_taken (wait cost : Nat) (q : TRegs) (htaken : (s.lineWrite h k.owner w).2 = true) :
    ((s.spent h slot wait cost k).setRegs h slot q).tabWrite h slot k w =
      ((s.spent h slot wait cost k).setRegs h slot q).modTabs h (fun x => { x with
        writes := insertWrite ⟨k.owner, s.tabLine h k, w, slotCore slot, s.issueCycle h slot k⟩ x.writes }) := by
  have hstill : (((s.spent h slot wait cost k).setRegs h slot q).lineWrite h k.owner w).2 = true :=
    (lineWrite_snd h k.owner w s _ (by rfl)).trans htaken
  unfold State.tabWrite
  rw [if_pos hstill, coreSched_spent]
  rfl

/-- One that changes nothing sets SW.wr_ign and is counted for the report (R240, R268). -/
theorem tabWrite_notTaken (wait cost : Nat) (q : TRegs) (hignored : (s.lineWrite h k.owner w).2 = false) :
    ((s.spent h slot wait cost k).setRegs h slot q).tabWrite h slot k w =
      (((s.spent h slot wait cost k).setRegs h slot q).modThread h slot (fun x => { x with
        regs := { x.regs with wrIgn := true } })).ignoredCounted h slot (s.tabLine h k) w.reportId := by
  rw [tabWrite_ignored wait cost q hignored, State.setRegs, State.setRegs, modThread_modThread]

/-- LINE pushes the line served (R239). -/
theorem issue_line (hk : s.thread? h slot = some k) (hi : s.canIssue 1 1 (.tab h slot) = true)
    (hroom : k.regs.ds.length < k.regs.cap) :
    s.issue onTab 1 1 .line (.tab h slot) =
      ((s.spent h slot 4 1 k).setRegs h slot
        { k.regs.setDs (word (s.tabLine h k) :: k.regs.ds) with pc := k.regs.pc + 2 }).tabAfter h slot := by
  have hline : (s.spent h slot 4 1 k).tabLine h k = s.tabLine h k := rfl
  rw [tab_issue rfl hk hi rfl]
  simp only [State.tabRun, State.tabSimple]
  rw [show issueWait 1 1 k Work.line = 4 from rfl, hline, push_ok hroom]
  rfl

/-- WAITL ends the wake with PC past it (R239, R263). -/
theorem issue_waitl (hk : s.thread? h slot = some k) (hi : s.canIssue 1 1 (.tab h slot) = true) :
    s.issue onTab 1 1 .waitl (.tab h slot) =
      ((s.spent h slot 4 1 k).modThread h slot (Thread.waitl (k.regs.pc + 2))).tabAfter h slot := by
  rw [tab_issue rfl hk hi rfl]
  rfl

end

/-- Settles O35: the pops and PC are the issue's; what the write does goes by whether the line takes it. -/
theorem rasterInstructionsComplete : Obligations.RasterInstructionsComplete := by
  unfold Obligations.RasterInstructionsComplete
  intro h slot s k hk hi who r ran writes
  have writes_of {i : Instr} {w : LWrite} {id : Nat} {xs : List Word} (hid : w.reportId = id)
      (hexec : exec i s = .next (((ran (r.setDs xs)).tabWrite h slot k w).tabAfter h slot)) : writes i w id xs := by
    subst hid
    exact ⟨fun htaken => by rw [hexec, tabWrite_taken 4 1 _ htaken], fun hnot => by rw [hexec, tabWrite_notTaken 4 1 _ hnot]; rfl⟩
  refine ⟨fun id v hd xs hds => ?pwrite, fun v n xs hds => ?palw, fun hroom => ?line, ?waitl⟩
  case pwrite => exact writes_of rfl (congrArg Host.Outcome.next (issue_pwrite hk hi hds))
  case palw => exact writes_of rfl (congrArg Host.Outcome.next (issue_palw hk hi hds))
  case line => exact congrArg Host.Outcome.next (issue_line hk hi hroom)
  case waitl => exact congrArg Host.Outcome.next (issue_waitl hk hi)

end Sys2Proof.Machine
end

section
/-! SUPPORT and the statements settled. Chapter 09: the system instructions (R232, R233, R241, Tables 9.2 and 9.7). -/

namespace Sys2Proof.Machine

section
variable {s : State} {h slot : Nat} {k : Thread} {t : Nat}

/-- The thread of a tab core stands behind the registers of the core. -/
theorem thread_of_coreRegs {r : TRegs} (hr : s.coreRegs? (.tab h slot) = some r) :
    ∃ k, s.thread? h slot = some k ∧ k.regs = r := Option.map_eq_some_iff.1 hr

/-- YIELD goes on and waits for the other threads of its core that have something to issue (R241). -/
theorem issue_yield_tab (hk : s.thread? h slot = some k) (hi : s.canIssue 1 1 (.tab h slot) = true) :
    s.issue onAll 1 1 .yield (.tab h slot) =
      ((s.spent h slot 4 1 k).modThread h slot (fun x => { x with
        regs := { x.regs with pc := k.regs.pc + 2 }
        yielded := (s.spent h slot 4 1 k).corePeers h slot })).tabAfter h slot := by
  rw [tab_issue rfl hk hi rfl]
  rfl

/-- FENCE parks (R232). -/
theorem issue_fence_tab (hk : s.thread? h slot = some k) (hi : s.canIssue 1 1 (.tab h slot) = true) :
    s.issue onAll 1 1 .fence (.tab h slot) =
      (s.spent h slot 4 1 k).modThread h slot (fun x => { x with park := some .fence }) := by
  rw [tab_issue rfl hk hi rfl]
  rfl

/-- TRAP 0 halts while a debug session is open (R272); any other TRAP faults. -/
theorem issue_trap_tab (hk : s.thread? h slot = some k) (hi : s.canIssue 1 1 (.tab h slot) = true) :
    s.issue onAll 1 1 (.trap t) (.tab h slot) =
      if t = 0 ∧ s.debugOpen k.owner h = true then (s.spent h slot 4 1 k).haltThread h slot 3
      else ((s.spent h slot 4 1 k).modThread h slot (fun x => { x with
        regs := { x.regs with trap := t } })).faultThread h slot 8 := by
  rw [tab_issue rfl hk hi rfl]
  have hopen : (s.spent h slot 4 1 k).debugOpen k.owner h = s.debugOpen k.owner h := rfl
  simp only [State.tabRun]
  rw [show issueWait 1 1 k (Work.trap t) = 4 from rfl, hopen]
  simp only [Bool.and_eq_true, decide_eq_true_eq]

/-- RETI takes SW and PC from the return stack (R241). -/
theorem reti_ok {who : CoreRef} {c : Ctx} {r : TRegs} {next sw pc : Word} {rest : List Word} (hc : c.IsOf who s next)
    (hrs : r.r = sw :: pc :: rest) (hfits : s.Fits who pc) :
    r.reti c = .ok { ({ r with r := rest, pc := pc } : TRegs).setSw who sw with fast := sw.getLsbD 7 } := by
  unfold TRegs.reti
  rw [hrs, ← hc.core]
  simp only [go_of_fits hc hfits]

/-- Where a core issues an instruction of one unit. -/
theorem isOf_tab (hk : s.thread? h slot = some k) (next : Word) :
    (⟨.tab h slot, next, some k.codeSize⟩ : Ctx).IsOf (.tab h slot) s next :=
  ⟨rfl, rfl, by simp only [State.codeEnd, hk, Option.map_some]⟩

theorem isOf_peg (next : Word) : (⟨.peg, next, some 0x10000⟩ : Ctx).IsOf .peg s next := ⟨rfl, rfl, rfl⟩

theorem isOf_cp (next : Word) : (⟨.cp, next, none⟩ : Ctx).IsOf .cp s next := ⟨rfl, rfl, rfl⟩

theorem issue_reti_tab {sw pc : Word} {rest : List Word} (hk : s.thread? h slot = some k)
    (hi : s.canIssue 1 1 (.tab h slot) = true) (hrs : k.regs.r = sw :: pc :: rest) (hfits : s.Fits (.tab h slot) pc) :
    s.issue onAll 1 1 .reti (.tab h slot) =
      (((s.spent h slot 4 1 k).setRegs h slot
        { ({ k.regs with r := rest, pc := pc } : TRegs).setSw (.tab h slot) sw with fast := sw.getLsbD 7 }).modThread h slot
          Thread.afterReti).tabAfter h slot := by
  rw [tab_issue rfl hk hi rfl]
  simp only [State.tabRun, reti_ok (isOf_tab hk _) hrs hfits]
  rfl

theorem issue_reti_peg {sw pc : Word} {rest : List Word} (hi : s.canIssue 1 1 .peg = true)
    (hrs : s.peg.regs.r = sw :: pc :: rest) (hfits : s.Fits .peg pc) :
    s.issue onAll 1 1 .reti .peg =
      s.setPegRegs { ({ s.peg.regs with r := rest, pc := pc } : TRegs).setSw .peg sw with fast := sw.getLsbD 7 } := by
  rw [issue_peg rfl hi]
  simp only [State.pegRun, reti_ok (isOf_peg _) hrs hfits]

theorem issue_reti_cp {sw pc : Word} {rest : List Word} (hi : s.canIssue 1 1 .cp = true)
    (hrs : s.cp.regs.r = sw :: pc :: rest) (hfits : s.Fits .cp pc) :
    s.issue onAll 1 1 .reti .cp =
      (s.cpSpendStep.setCpRegs
        { ({ s.cp.regs with r := rest, pc := pc } : TRegs).setSw .cp sw with fast := sw.getLsbD 7 }).endEntry := by
  have hregs : s.cpSpendStep.cp.regs = s.cp.regs := rfl
  rw [issue_cp rfl hi]
  simp only [State.cpRun, hregs, reti_ok (isOf_cp _) hrs hfits]

end

/-- Settles O36: what every core does with the row by the shared operations, and what each core does of its own. -/
theorem systemInstructionsComplete : Obligations.SystemInstructionsComplete := by
  unfold Obligations.SystemInstructionsComplete
  intro who s r hr gives flagged paid
  refine ⟨?flush, fun hi => ⟨?yield, ?fence, ?trap, ?reti, ?swget, ?swset, ?idlePeg, ?idleCp⟩⟩
  case flush =>
    intro hi
    have hissue := issue_stack (n := 0) (f := id) (ys := r.ds) (ok := onAll) rfl hr hi (Nat.zero_le _) rfl (.inl (Nat.le_refl _))
    rw [setDs_self] at hissue
    exact congrArg Host.Outcome.next hissue
  case yield =>
    cases who with
    | tab h slot =>
      obtain ⟨k, hk, rfl⟩ := thread_of_coreRegs hr
      have hpaid : paid = s.spent h slot 4 1 k := by simp only [paid, hk]
      rw [hpaid]
      exact congrArg Host.Outcome.next (issue_yield_tab hk hi)
    | peg => cases hr; exact congrArg Host.Outcome.next (issue_peg rfl hi)
    | cp => cases hr; exact congrArg Host.Outcome.next (issue_cp rfl hi)
  case fence =>
    cases who with
    | tab h slot =>
      obtain ⟨k, hk, rfl⟩ := thread_of_coreRegs hr
      have hpaid : paid = s.spent h slot 4 1 k := by simp only [paid, hk]
      rw [hpaid]
      exact congrArg Host.Outcome.next (issue_fence_tab hk hi)
    | peg => cases hr; exact congrArg Host.Outcome.next (issue_peg rfl hi)
    | cp => cases hr; exact congrArg Host.Outcome.next (issue_cp rfl hi)
  case trap =>
    intro t
    cases who with
    | tab h slot =>
      obtain ⟨k, hk, rfl⟩ := thread_of_coreRegs hr
      have hpaid : paid = s.spent h slot 4 1 k := by simp only [paid, hk]
      have hzero : t.toNat = 0 ↔ t = 0 := by rw [BitVec.toNat_eq]; rfl
      rw [hpaid]
      simp only [hk, Option.some.injEq, exists_eq_left', ← hzero]
      exact congrArg Host.Outcome.next (issue_trap_tab hk hi)
    | peg => cases hr; exact congrArg Host.Outcome.next (issue_peg rfl hi)
    | cp => cases hr; exact congrArg Host.Outcome.next (issue_cp rfl hi)
  case reti =>
    intro sw pc rest hrs heven hlimit q
    have hq : q = { ({ r with r := rest, pc := pc } : TRegs).setSw who sw with fast := sw.getLsbD 7 } := by
      cases who <;> rfl
    rw [hq]
    cases who with
    | tab h slot =>
      obtain ⟨k, hk, rfl⟩ := thread_of_coreRegs hr
      have hpaid : paid = s.spent h slot 4 1 k := by simp only [paid, hk]
      rw [hpaid]
      exact congrArg Host.Outcome.next (issue_reti_tab hk hi hrs ⟨heven, hlimit⟩)
    | peg => cases hr; exact congrArg Host.Outcome.next (issue_reti_peg hi hrs ⟨heven, hlimit⟩)
    | cp => cases hr; exact congrArg Host.Outcome.next (issue_reti_cp hi hrs ⟨heven, hlimit⟩)
  case swget => exact fun hroom => ⟨r.sw, exec_of_seq rfl rfl hr hi fun _ _ => push_ok hroom, sw_fields r⟩
  case swset =>
    intro w xs hds
    refine (exec_of_seq (q := (r.setDs xs).setSw who w) rfl rfl hr hi fun c hc => ?_).trans ?_
    · simp only [pop_of_cons hds, hc]
    · rw [sw_eq]
      cases who <;> rfl
  case idlePeg =>
    rintro rfl
    cases hr
    exact congrArg Host.Outcome.next (issue_peg rfl hi)
  case idleCp =>
    rintro rfl
    cases hr
    exact congrArg Host.Outcome.next (issue_cp rfl hi)

end Sys2Proof.Machine
end

section
/-! SUPPORT and the statements settled. Chapter 09: what a parked access returns (R231, R232), budget overruns (R266), entries
(R242, R243, R264, R400) and custom instructions (R247, R249). -/

namespace Sys2Proof.Machine

/-! ### Illegal units, returns and overruns -/

/-- A core that can issue has registers. -/
theorem coreRegs_of_canIssue {who : CoreRef} {s : State} {units cost : Nat} (hi : s.canIssue units cost who = true) :
    ∃ r, s.coreRegs? who = some r := by
  cases who with
  | tab h slot =>
    simp only [State.canIssue] at hi
    cases hk : s.thread? h slot with
    | none => rw [hk] at hi; cases hi
    | some k => exact ⟨k.regs, by simp only [State.coreRegs?, hk, Option.map_some]⟩
  | peg => exact ⟨_, rfl⟩
  | cp => exact ⟨_, rfl⟩

section
variable {s : State} {h slot : Nat} {k : Thread}

/-- The registers that a load's value joins: its pointer has advanced in the form that advances it (Table 9.4). -/
def TRegs.afterLoad (post : Option Nat) (r : TRegs) : TRegs :=
  match post with
  | some p => r.setPtr p (r.ptr p + 4)
  | none => r

theorem afterLoad_ds (post : Option Nat) (r : TRegs) : (r.afterLoad post).ds = r.ds := by
  cases post with
  | none => rfl
  | some p => exact setPtr_ds ..

theorem afterLoad_cap (post : Option Nat) (r : TRegs) : (r.afterLoad post).cap = r.cap := by
  cases post with
  | none => rfl
  | some p => exact setPtr_cap ..

/-- A load that returns its data pushes it and lets the thread go on (R231). -/
theorem loadReturn_data {reqs : List LoadReq} {size units : Nat} {sext : Bool} {post : Option Nat} {bs : List Byte}
    (hk : s.thread? h slot = some k) (hpark : k.park = some (.load reqs size sext post units none))
    (hread : (s.noteReqs reqs).reqRead reqs = .ok bs) (hroom : k.regs.ds.length < k.regs.cap) :
    s.loadReturn h slot .data = ((s.noteReqs reqs).modThread h slot (fun x => { x with
      park := none
      regs := { (k.regs.afterLoad post).setDs (loadedWord size sext bs :: k.regs.ds) with
        pc := (k.regs.afterLoad post).pc + word (2 * units) } })).tabAfter h slot := by
  have hpush : (k.regs.afterLoad post).push (loadedWord size sext bs) =
      .ok ((k.regs.afterLoad post).setDs (loadedWord size sext bs :: k.regs.ds)) := by
    rw [push_ok (by rw [afterLoad_ds, afterLoad_cap]; exact hroom), afterLoad_ds]
  cases post with
  | none =>
    dsimp only [TRegs.afterLoad] at hpush
    simp only [State.loadReturn, hk, hpark, State.learnError, loadFault, hread, hpush, setDs_pc, TRegs.afterLoad]
  | some p =>
    dsimp only [TRegs.afterLoad] at hpush
    simp only [State.loadReturn, hk, hpark, State.learnError, loadFault, hread, hpush, setDs_pc, TRegs.afterLoad]

/-- A FENCE that completes lets the thread go on after it (R232). -/
theorem fenceComplete_clean (hk : s.thread? h slot = some k) (hpark : k.park = some .fence) :
    s.fenceComplete h slot false = (s.modThread h slot (fun k => { k with
      park := none, regs := { k.regs with pc := k.regs.pc + 2 } })).tabAfter h slot := by
  unfold State.fenceComplete
  simp only [hk, hpark, ne_eq, not_true_eq_false, if_false, Bool.false_eq_true, modThread_modThread]

theorem fenceComplete_poisoned (hk : s.thread? h slot = some k) (hpark : k.park = some .fence) :
    s.fenceComplete h slot true = (s.modThread h slot (fun k => { k with park := none })).faultThread h slot 9 := by
  unfold State.fenceComplete
  simp only [hk, hpark, ne_eq, not_true_eq_false, if_false, if_true]

/-- A thread that is to issue what its budget does not hold overruns (R266). -/
theorem budgetOverrun_of_over {charge : Nat} (hk : s.thread? h slot = some k) (hready : s.tabReady h slot k = true)
    (hover : k.limit < k.spent + charge) : s.budgetOverrun h slot charge = s.overrun h slot := by
  unfold State.budgetOverrun
  simp only [hk, hready, hover, decide_true, Bool.and_self, if_true]

end

/-- Settles O37: the illegal unit is an illegal issue; the other rows find the thread parked or short of budget. -/
theorem tabReturnRowsComplete : Obligations.TabReturnRowsComplete := by
  unfold Obligations.TabReturnRowsComplete
  refine ⟨fun who u s hu hi => ?illegal, fun dt h slot s k hk => ⟨?load, ?fence, ?overrun⟩⟩
  case illegal =>
    obtain ⟨r, hr⟩ := coreRegs_of_canIssue hi
    have hrow : exec (.illegalInstruction who u) s = .next (s.issue onAll 1 1 .illegal who) := by
      show execIllegalInstruction who u s = _
      unfold execIllegalInstruction
      rw [hu, if_neg Bool.false_ne_true]
    rw [hrow]
    exact congrArg Host.Outcome.next (issue_fault rfl hr hi fun _ => rfl)
  case load =>
    intro reqs size sext post units bs hpark hread hroom r v
    have hreturn := loadReturn_data hk hpark hread hroom
    show Host.Outcome.next ((s.tick dt).loadReturn h slot .data).advanced = _
    rw [hreturn]
    cases post <;> rfl
  case fence =>
    intro hpark
    exact ⟨congrArg Host.Outcome.next (fenceComplete_clean hk hpark), congrArg Host.Outcome.next (fenceComplete_poisoned hk hpark)⟩
  case overrun =>
    intro charge hready hover
    refine congrArg Host.Outcome.next ((budgetOverrun_of_over hk hready hover).trans ?_)
    unfold State.overrun
    rw [hk]
    rfl

/-! ### Entries (R242, R243, R264, R400) -/

/-- Whether two entries are free decides between the entry and the fault. -/
theorem ite_entryRoom {α : Type} (r : TRegs) (x y : α) :
    (if !r.entryRoom then x else y) = if r.r.length + 2 ≤ 16 then y else x := by
  unfold TRegs.entryRoom
  by_cases hroom : r.r.length + 2 ≤ 16
  · simp only [hroom, decide_true, Bool.not_true, Bool.false_eq_true, if_false, if_true]
  · simp only [hroom, decide_false, Bool.not_false, if_true, if_false]

section
variable {s : State} {arrivals : List Nat}

/-- A tab thread whose fast source is pending enters, where two return-stack entries are free (R264). -/
theorem tabEntry_of_pending {h slot : Nat} {k : Thread} (hk : s.thread? h slot = some k) (hrun : k.running = true)
    (hstate : k.state = .waiting ∨ k.state = .serving) (hslow : k.regs.fast = false)
    (hmid : ∀ x y z p u c, k.park ≠ some (.load x y z p u (some c))) (hpending : k.pending ≠ [])
    (hcluster : (s.head h).cluster.isSome = true) (hmode : s.power.mode = .drive ∨ s.power.mode = .service) :
    s.tabEntry h slot arrivals =
      if !k.regs.entryRoom then (s.modThread h slot (fun k => { k with park := none })).faultThread h slot 3
      else
        let mine := arrivals.filter (fun i => (i = 0 && k.set.fret0 ≠ 0xFF) || (i = 1 && k.set.fret1 ≠ 0xFF))
        let all := k.pending ++ mine.filter (fun i => !k.pending.contains i)
        let src := if all.contains 0 then 0 else 1
        s.modThread h slot (fun k => { k with
          regs := k.regs.enter true (if src = 0 then k.set.handler0 else k.set.handler1)
          fast := some src, pending := all.filter (· != src), park := none, fastCharge := 0
          wasWaiting := k.state = .waiting }) := by
  have hguard : ¬(!(k.running && (k.state = .waiting || k.state = .serving) && !k.regs.fast &&
      !(match k.park with | some (.load _ _ _ _ _ (some _)) => true | _ => false) && !k.pending.isEmpty &&
      (s.head h).cluster.isSome && (s.power.mode = .drive || s.power.mode = .service))) = true := by
    simp [hrun, hslow, hpending, hcluster]
    exact ⟨Decidable.or_iff_not_imp_left.1 hstate, Decidable.or_iff_not_imp_left.1 hmode⟩
  unfold State.tabEntry
  rw [hk]
  exact if_neg hguard

/-- A Peg core source that may enter does, where two return-stack entries are free (R400). -/
theorem pegEntry_of_pending (hrun : s.peg.running = true) (hawake : s.pegAwake = true)
    (hpending : s.peg.pending.any s.peg.regs.pegAllows = true) :
    s.pegEntry arrivals =
      if !s.peg.regs.entryRoom then s.pegFault 3
      else
        let all := s.peg.pending ++ arrivals.filter (fun i => decide (1 ≤ i) && decide (i ≤ 5))
        let src := (all.filter s.peg.regs.pegAllows).foldl max 0
        { s with peg := { s.peg with
            regs := s.peg.regs.enter (src = 5) (word (leNat (Mem.readRun s.peg.code (4 * src) 4)))
            pending := all.erase src, idle := false } } := by
  unfold State.pegEntry
  simp only [hrun, hawake, hpending, Bool.not_true, Bool.or_self, Bool.false_eq_true, if_false]

/-- The CP's entry goes by the room on its return stack and by the source chosen once the arrivals count (R243, R460). -/
theorem cpEntry_of_pending (hready : ({ s with cp := { s.cp with idle := false } } : State).cpReady = true)
    (hclock : s.intcStopped = false) (hfirst : (s.chooseFor (!s.cp.regs.fast) s.cp.regs.ie).isSome = true) :
    let b := arrivals.foldl (fun s i => s.sourceEvent i true) s
    (16 < s.cp.regs.r.length + 2 → s.cpEntry arrivals = b.cpFault 3) ∧
    (∀ i, s.cp.regs.r.length + 2 ≤ 16 → b.chooseFor (!s.cp.regs.fast) s.cp.regs.ie = some i →
      s.cpEntry arrivals = { (b.fresh.2.takeSource i) with
        cp := { regs := s.cp.regs.enter (b.src i).fast (word b.fresh.1 &&& 0xFFFFFFFE), idle := false } }) := by
  intro b
  have hguard : ¬((!(({ s with cp := { s.cp with idle := false } } : State).cpReady && !s.intcStopped) ||
      (s.chooseFor (!s.cp.regs.fast) s.cp.regs.ie).isNone) = true) := by
    rw [hready, hclock, ← Option.not_isSome, hfirst]
    decide
  unfold State.cpEntry
  dsimp only
  rw [if_neg hguard, ite_entryRoom]
  refine ⟨fun hfull => if_neg (Nat.not_le.2 hfull), fun i hroom hchosen => ?_⟩
  rw [if_pos hroom, hchosen]

end

/-- Settles O38: the guards of each core's entry hold, and the room on the return stack decides. -/
theorem coreEntryCompletes : Obligations.CoreEntryCompletes := by
  unfold Obligations.CoreEntryCompletes
  intro dt arrivals s a entered
  refine ⟨?tab, ?peg, ?cp⟩
  case tab =>
    intro h slot k hk hrun hstate hslow hmid hpending hcluster hmode mine all src
    have hentry := tabEntry_of_pending (arrivals := arrivals) hk hrun hstate hslow hmid hpending hcluster hmode
    rw [ite_entryRoom] at hentry
    exact congrArg Host.Outcome.next hentry
  case peg =>
    intro hrun hawake may hpending all src
    have hentry := pegEntry_of_pending (arrivals := arrivals) hrun hawake hpending
    rw [ite_entryRoom] at hentry
    exact congrArg Host.Outcome.next hentry
  case cp =>
    intro hready hclock hfirst b
    obtain ⟨hfault, hentry⟩ := cpEntry_of_pending (arrivals := arrivals) hready hclock hfirst
    exact ⟨fun hfull => congrArg Host.Outcome.next (hfault hfull),
      fun i hroom hchosen => congrArg Host.Outcome.next (hentry i hroom hchosen)⟩

end Sys2Proof.Machine
end

section
/-! SUPPORT and the statements settled. Chapter 09: custom instructions (R247, R249), precise faults (R245) and the profiles
(R225, R228). -/

namespace Sys2Proof.Machine

/-! ### Custom instructions (R247, R249) -/

/-- Fresh free values come in the number asked for, and use up as many of the supply. -/
theorem freshWords_eq (n : Nat) (s : State) :
    ∃ ws, ws.length = n ∧ s.freshWords n = (ws, { s with freeCount := s.freeCount + n }) := by
  induction n generalizing s with
  | zero => exact ⟨[], rfl, rfl⟩
  | succ n ih =>
    obtain ⟨ws, hlen, heq⟩ := ih { s with freeCount := s.freeCount + 1 }
    refine ⟨word (Config.freeValue s.freeCount) :: ws, congrArg (· + 1) hlen, ?_⟩
    simp only [State.freshWords, State.fresh, heq, Nat.add_assoc, Nat.add_comm 1 n]

/-- The CP's own custom instruction changes its stack and pointers only, and passes its one unit (assumption 33). -/
theorem cpCustom_frame (s : State) (next : Word) :
    (s.cpCustom next).cp.regs.pc = next ∧ (s.cpCustom next).cp.regs.r = s.cp.regs.r ∧
      (s.cpCustom next).cp.regs.ds.length ≤ (s.cpCustom next).cp.regs.cap ∧
      { s.cpCustom next with cp := s.cp, freeCount := s.freeCount } = s := by
  obtain ⟨ds, hlen, hds⟩ :=
    freshWords_eq (Config.freeValue s.freeCount % (s.cp.regs.cap + 1)) { s with freeCount := s.freeCount + 1 }
  obtain ⟨ps, -, hps⟩ := freshWords_eq 8
    { s with freeCount := s.freeCount + 1 + Config.freeValue s.freeCount % (s.cp.regs.cap + 1) }
  have hroom : ds.length ≤ s.cp.regs.cap := by
    rw [hlen]
    exact Nat.lt_succ_iff.1 (Nat.mod_lt _ (Nat.succ_pos _))
  simp only [State.cpCustom, State.fresh, hds, hps]
  cases hfast : s.cp.regs.fast with
  | true => simpa [State.setCpRegs, TRegs.setDs, TRegs.ds, TRegs.cap, hfast] using hroom
  | false => simpa [State.setCpRegs, TRegs.setDs, TRegs.ds, TRegs.cap, hfast] using hroom

section
variable {s : State} {h slot : Nat} {k : Thread}

/-- What a custom instruction of a tab thread costs beyond its units is what its micro-ops take (R244). -/
theorem issue_custom {c n : Nat} {imm ext : Word} {us : List Word} (hk : s.thread? h slot = some k)
    (hcheck : s.customCheck k c = .ok us)
    (hi : s.canIssue n (n + (s.microRun h slot imm ext true us 0 0).2.1) (.tab h slot) = true) :
    s.issue onFull n n (.custom c imm ext) (.tab h slot) =
      State.microEnd h slot n ((s.spent h slot (max (4 * n) (n + (s.microRun h slot imm ext true us 0 0).2.1))
        (n + (s.microRun h slot imm ext true us 0 0).2.1) k).microRun h slot imm ext false us 0 0) := by
  have hextra : s.extraCost h slot k (.custom c imm ext) = (s.microRun h slot imm ext true us 0 0).2.1 := by
    simp only [State.extraCost, hcheck]
  rw [issue_tab rfl hk (by rw [hextra]; exact hi), hextra]
  have hcheck' : (s.spent h slot (max (4 * n) (n + (s.microRun h slot imm ext true us 0 0).2.1))
    (n + (s.microRun h slot imm ext true us 0 0).2.1) k).customCheck k c = .ok us := hcheck
  simp only [State.tabRun, issueWait, hcheck']

/-- A thread that has been charged keeps its registers. -/
theorem thread_spent (hk : s.thread? h slot = some k) (wait cost : Nat) :
    ∃ x, (s.spent h slot wait cost k).thread? h slot = some x ∧ x.regs = k.regs :=
  ⟨_, thread_charge (thread_markIssue hk wait) cost, addCharge_regs ..⟩

/-- A tab thread's issue, charged, with its registers and what waited for it. -/
theorem issued_tab (hk : s.thread? h slot = some k) (units cost : Nat) (q : TRegs) :
    s.issued units cost (.tab h slot) q =
      ((s.spent h slot (max (4 * units) cost) cost k).setRegs h slot q).tabAfter h slot := by
  simp only [State.issued, State.paid, hk, State.setCoreRegs, State.settled]

/-- A sequence that ends lets PC pass the custom instruction (R252). -/
theorem microEnd_done {n units : Nat} {q : TRegs} :
    State.microEnd h slot units (s.setRegs h slot q, n, .done) =
      (s.setRegs h slot { q with pc := q.pc + word (2 * units) }).tabAfter h slot := by
  simp only [State.microEnd, State.setRegs, modThread_modThread]

/-- The worked example's entry takes two entries, leaves one, and needs one more at its peak (Table 9.10). -/
theorem customCheck_example {c : Nat} {y base : Word} {xs : List Word} (hentry : IMap.find? s.ucode.entries c = some 0x03180440)
    (h0 : IMap.get s.ucode.ops 0 0x40 = 0x10000000) (h1 : IMap.get s.ucode.ops 0 0x41 = 0x00001280)
    (h2 : IMap.get s.ucode.ops 0 0x42 = 0x80001000) (hds : k.regs.ds = y :: base :: xs) (hroom : k.regs.ds.length < k.regs.cap) :
    s.customCheck k c = .ok [0x10000000, 0x00001280, 0x80001000] := by
  have hseq : s.ucode.seqOf (0x03180440 : Word).toNat = [0x10000000, 0x00001280, 0x80001000] := by
    show [IMap.get s.ucode.ops 0 0x40, IMap.get s.ucode.ops 0 0x41, IMap.get s.ucode.ops 0 0x42] = _
    rw [h0, h1, h2]
  have htwo : 2 ≤ k.regs.ds.length := by simp [hds]
  have hpops : ¬k.regs.ds.length < entPops (0x03180440 : Word).toNat := Nat.not_lt.2 htwo
  have hpeak : ¬k.regs.cap < k.regs.ds.length - entPops (0x03180440 : Word).toNat + entPeak (0x03180440 : Word).toNat := by
    show ¬k.regs.cap < k.regs.ds.length - 2 + 3
    omega
  unfold State.customCheck
  rw [hentry]
  exact (if_neg hpops).trans ((if_neg hpeak).trans (congrArg Except.ok hseq))

end

/-- Settles O39: a sequence is the run of its micro-ops; the example's run is the three of `idxa`. -/
theorem customInstructionCompletes : Obligations.CustomInstructionCompletes := by
  unfold Obligations.CustomInstructionCompletes
  refine ⟨fun s c imm ext hi => ?cp, fun h slot s k c imm ext hk => ?tab⟩
  case cp =>
    have hissue := issue_cp (ok := onFull) (w := .custom c.toNat (imm.zeroExtend 32) ext) rfl hi
    exact ⟨_, congrArg Host.Outcome.next hissue, cpCustom_frame s.cpSpendStep (s.cp.regs.pc + 2)⟩
  case tab =>
    intro who r n x i
    refine ⟨fun us hcheck hi => congrArg Host.Outcome.next (issue_custom hk hcheck hi), ?_⟩
    intro y base xs hentry h0 h1 h2 hds hroom hi
    have hcheck := customCheck_example hentry h0 h1 h2 hds hroom
    have himm : i.toNat % 32 = imm.toNat % 32 := by
      simp [i]
    have hcost : (s.microRun h slot i x true [0x10000000, 0x00001280, 0x80001000] 0 0).2.1 = 3 := by
      rw [idxa hk hds hroom]
    have hn : n = 0 := by
      have hext : entExt (0x03180440 : Word).toNat = 0 := by decide
      simp only [n, State.customExt, hentry, Option.map_some, Option.getD_some]
      exact hext
    obtain ⟨x', hx', hregs⟩ := thread_spent hk 4 4
    have hissue := issue_custom (n := 1) (imm := i) (ext := x) hk hcheck (by rw [hcost]; exact hi)
    rw [hcost] at hissue
    have hrun := idxa (imm := i) (ext := x) (trial := false) hx' ((congrArg TRegs.ds hregs).trans hds)
      (by rw [hregs]; exact hroom)
    show Host.Outcome.next (s.issue onFull (1 + n) (1 + n) (.custom c.toNat i x) who) = _
    rw [hn]
    refine congrArg Host.Outcome.next (hissue.trans ?_)
    rw [show max (4 * 1) (1 + 3) = 4 from rfl, show 1 + 3 = 4 from rfl, hrun, microEnd_done, himm, hregs, setDs_pc]
    exact (issued_tab hk 1 4 _).symm

end Sys2Proof.Machine
end

section
/-! SUPPORT and the statements settled. Chapter 09: precise faults (R245, Table 9.9) and the profiles of the cores (R225, R228,
Table 9.1). -/

namespace Sys2Proof.Machine

/-! ### A fault's own effect (R245) -/

/-- A fault writes SW.fault and leaves every byte of memory. -/
theorem faulted_frame {who : CoreRef} {s : State} {r : TRegs} (hr : s.coreRegs? who = some r) (units cost cause : Nat)
    (hcalm : ∀ h slot, who = .tab h slot → s.dyingTenants = []) :
    (s.faulted units cost cause who).coreRegs? who = some { r with fault := cause } ∧
      ∀ y, Mem.read (s.faulted units cost cause who).mem.phys y = Mem.read s.mem.phys y := by
  cases who with
  | tab h slot =>
    obtain ⟨k, hk, rfl⟩ := thread_of_coreRegs hr
    have hpaid : s.faulted units cost cause (.tab h slot) =
        (s.spent h slot (max (4 * units) cost) cost k).faultThread h slot cause := by
      simp only [State.faulted, State.paid, hk]
    obtain ⟨x, hx, hregs⟩ := thread_spent hk (max (4 * units) cost) cost
    have hd : (s.spent h slot (max (4 * units) cost) cost k).dyingTenants = [] := hcalm h slot rfl
    rw [hpaid]
    refine ⟨(thread_faultThread hd hx cause).trans (by rw [hregs]), fun y => ?_⟩
    rw [faultThread_mem hd]
    rfl
  | peg =>
    cases hr
    exact ⟨rfl, fun _ => rfl⟩
  | cp =>
    cases hr
    obtain ⟨hcp, hphys⟩ := devEvent_frame (s.cpSpendStep.setCpRegs { s.cp.regs with fault := cause }) 6
    refine ⟨?_, fun y => ?_⟩
    · show some ((s.cpSpendStep.setCpRegs { s.cp.regs with fault := cause }).devEvent 6).cp.regs = _
      rw [hcp]
      rfl
    · show Mem.read ((s.cpSpendStep.setCpRegs { s.cp.regs with fault := cause }).devEvent 6).mem.phys y = _
      rw [hphys]
      rfl

/-! ### What faults (Table 9.9) -/

section
variable {i : Instr} {who : CoreRef} {s : State} {r : TRegs} {n e : Nat} {a : Word} {xs : List Word}
  {f : List Word → List Word} {g : Ctx → TRegs → Except Nat TRegs}

theorem exec_of_fault (hexec : exec i s = .next (s.issue onAll 1 1 (.regs g) who)) (hr : s.coreRegs? who = some r)
    (hi : s.canIssue 1 1 who = true) (hg : ∀ c : Ctx, g c r = .error e) : exec i s = .next (s.faulted 1 1 e who) := by
  rw [hexec, issue_fault rfl hr hi hg]

theorem exec_of_seqFault (hexec : exec i s = .next (s.issue onAll 1 1 (.seq g) who)) (hr : s.coreRegs? who = some r)
    (hi : s.canIssue 1 1 who = true) (hg : ∀ c : Ctx, g c r = .error e) : exec i s = .next (s.faulted 1 1 e who) := by
  rw [hexec, issue_seq_fault rfl hr hi hg]

/-- A stack instruction that does not find its entries. -/
theorem exec_of_stackUnderflow (hexec : exec i s = .next (s.issue onAll 1 1 (.stack n f) who)) (hr : s.coreRegs? who = some r)
    (hi : s.canIssue 1 1 who = true) (hshort : r.ds.length < n) : exec i s = .next (s.faulted 1 1 2 who) :=
  exec_of_seqFault hexec hr hi fun _ => if_pos hshort

/-- One that would grow a full stack. -/
theorem exec_of_stackOverflow (hexec : exec i s = .next (s.issue onAll 1 1 (.stack n f) who)) (hr : s.coreRegs? who = some r)
    (hi : s.canIssue 1 1 who = true) (hn : n ≤ r.ds.length) (hfull : r.ds.length = r.cap)
    (hgrows : n < (f (r.ds.take n)).length) : exec i s = .next (s.faulted 1 1 1 who) := by
  refine exec_of_seqFault hexec hr hi fun _ => ?_
  unfold TRegs.replace
  have hlen : r.ds.length < (f (r.ds.take n) ++ r.ds.drop n).length := by
    rw [List.length_append, List.length_drop]
    omega
  rw [if_neg (Nat.not_lt.2 hn)]
  exact if_pos ⟨hlen, hfull ▸ hlen⟩

theorem exec_of_alu1Underflow {op : Word → Word} (hexec : exec i s = .next (s.issue onAll 1 1 (.alu1 op) who))
    (hr : s.coreRegs? who = some r) (hi : s.canIssue 1 1 who = true) (hds : r.ds = []) :
    exec i s = .next (s.faulted 1 1 2 who) :=
  exec_of_seqFault hexec hr hi fun _ => by simp only [hds]

/-- Fewer than two entries: none, or one. -/
theorem short_cases (hshort : xs.length < 2) : xs = [] ∨ ∃ a, xs = [a] := by
  match xs, hshort with
  | [], _ => exact .inl rfl
  | [a], _ => exact .inr ⟨a, rfl⟩

theorem exec_of_alu2Underflow {op : Word → Word → Word} (hexec : exec i s = .next (s.issue onAll 1 1 (.alu2 op) who))
    (hr : s.coreRegs? who = some r) (hi : s.canIssue 1 1 who = true) (hshort : r.ds.length < 2) :
    exec i s = .next (s.faulted 1 1 2 who) := by
  refine exec_of_seqFault hexec hr hi fun _ => ?_
  obtain hds | ⟨a, hds⟩ := short_cases hshort
  · simp only [hds]
  · simp only [hds]

theorem exec_of_arithUnderflow {op : TRegs → Word → Word → Word × Bool × Bool}
    (hexec : exec i s = .next (s.issue onAll 1 1 (.arith true op) who))
    (hr : s.coreRegs? who = some r) (hi : s.canIssue 1 1 who = true) (hshort : r.ds.length < 2) :
    exec i s = .next (s.faulted 1 1 2 who) := by
  refine exec_of_seqFault hexec hr hi fun _ => ?_
  obtain hds | ⟨a, hds⟩ := short_cases hshort
  · simp only [hds]
  · simp only [hds]

theorem pop_of_nil (h : r.ds = []) : r.pop = .error 2 := by
  simp only [TRegs.pop, h]

theorem rpop_of_nil (h : r.r = []) : r.rpop = .error 4 := by
  simp only [TRegs.rpop, h]

theorem push_of_full (hfull : r.ds.length = r.cap) : r.push a = .error 1 := by
  unfold TRegs.push TRegs.replace
  simp [← hfull]

theorem rpush_of_full (hfull : 16 ≤ r.r.length) : r.rpush a = .error 3 := if_pos hfull

theorem go_of_odd {c : Ctx} (hodd : a.getLsbD 0 = true) : c.go a r = .error 6 := if_pos hodd

theorem callTo_of_full {c : Ctx} (hfull : 16 ≤ r.r.length) : c.callTo a r = .error 3 := by
  unfold Ctx.callTo
  rw [rpush_of_full hfull]

/-- A data stack holds two entries at least. -/
theorem two_le_cap (r : TRegs) : 2 ≤ r.cap := by
  unfold TRegs.cap
  split <;> decide

theorem reti_of_short {c : Ctx} (hshort : r.r.length < 2) : r.reti c = .error 4 := by
  unfold TRegs.reti
  obtain hrs | ⟨a, hrs⟩ := short_cases hshort
  · simp only [hrs]
  · simp only [hrs]

/-- RETI faults like the other instructions, though each core carries it out of its own. -/
theorem issue_retiFault (hr : s.coreRegs? who = some r) (hi : s.canIssue 1 1 who = true) (hreti : ∀ c : Ctx, r.reti c = .error e) :
    s.issue onAll 1 1 .reti who = s.faulted 1 1 e who := by
  cases who with
  | tab h slot =>
    obtain ⟨k, hk, rfl⟩ := thread_of_coreRegs hr
    rw [tab_issue rfl hk hi rfl]
    simp only [State.tabRun, hreti, State.faulted, State.paid, hk]
    rfl
  | peg =>
    cases hr
    rw [issue_peg rfl hi]
    simp only [State.pegRun, hreti]
    rfl
  | cp =>
    cases hr
    have hregs : s.cpSpendStep.cp.regs = s.cp.regs := rfl
    rw [issue_cp rfl hi]
    simp only [State.cpRun, hregs, hreti]
    rfl

end

/-- Settles O40: the fault's frame, then for each cause what the instruction asks of its stacks or of its target. -/
theorem instructionFaultsArePrecise : Obligations.InstructionFaultsArePrecise := by
  unfold Obligations.InstructionFaultsArePrecise
  intro who s r hr
  refine ⟨fun units cost cause hcalm => faulted_frame hr units cost cause hcalm, fun hi => ?_⟩
  intro faults
  refine ⟨?empty, ?fewerThanTwo, ?fewerThanThree, ?pick, ?full, ?returnFull, ?returnEmpty, ?reti, ?oddJump, ?oddReturn⟩
  case empty =>
    intro hds
    have hshort : r.ds.length < 1 := by simp [hds]
    have hpop := pop_of_nil hds
    exact ⟨exec_of_stackUnderflow rfl hr hi hshort, exec_of_stackUnderflow rfl hr hi hshort,
      exec_of_seqFault rfl hr hi fun _ => by simp only [hpop],
      exec_of_alu1Underflow rfl hr hi hds, exec_of_seqFault rfl hr hi fun _ => by simp only [hds],
      exec_of_alu1Underflow rfl hr hi hds, exec_of_alu1Underflow rfl hr hi hds, exec_of_alu1Underflow rfl hr hi hds,
      exec_of_alu1Underflow rfl hr hi hds, exec_of_seqFault rfl hr hi fun _ => by simp only [hpop],
      exec_of_fault rfl hr hi fun _ => by simp only [hpop], exec_of_fault rfl hr hi fun _ => by simp only [hpop],
      fun p => ⟨exec_of_seqFault rfl hr hi fun _ => by simp only [hpop], exec_of_seqFault rfl hr hi fun _ => by simp only [hpop]⟩⟩
  case fewerThanTwo =>
    intro h
    exact ⟨exec_of_stackUnderflow rfl hr hi h, exec_of_stackUnderflow rfl hr hi h, exec_of_stackUnderflow rfl hr hi h,
      exec_of_stackUnderflow rfl hr hi h, exec_of_arithUnderflow rfl hr hi h, exec_of_arithUnderflow rfl hr hi h,
      exec_of_alu2Underflow rfl hr hi h, exec_of_alu2Underflow rfl hr hi h, exec_of_alu2Underflow rfl hr hi h,
      exec_of_alu2Underflow rfl hr hi h, exec_of_alu2Underflow rfl hr hi h, exec_of_alu2Underflow rfl hr hi h,
      exec_of_alu2Underflow rfl hr hi h, exec_of_alu2Underflow rfl hr hi h, exec_of_alu2Underflow rfl hr hi h,
      exec_of_alu2Underflow rfl hr hi h, exec_of_alu2Underflow rfl hr hi h, exec_of_alu2Underflow rfl hr hi h,
      exec_of_alu2Underflow rfl hr hi h⟩
  case fewerThanThree => exact exec_of_stackUnderflow rfl hr hi
  case pick => exact fun n h => exec_of_stackUnderflow rfl hr hi (Nat.lt_succ_of_le h)
  case full =>
    intro hfull
    have htwo : 2 ≤ r.ds.length := hfull ▸ two_le_cap r
    have hpush (a : Word) : r.push a = .error 1 := push_of_full hfull
    refine ⟨exec_of_stackOverflow rfl hr hi (by omega) hfull (by simp; omega),
      exec_of_stackOverflow rfl hr hi htwo hfull (by simp; omega), exec_of_stackOverflow rfl hr hi htwo hfull (by simp; omega),
      exec_of_seqFault rfl hr hi fun _ => hpush _, exec_of_seqFault rfl hr hi fun _ => hpush _,
      fun v => exec_of_seqFault rfl hr hi fun _ => hpush _, fun p => exec_of_seqFault rfl hr hi fun _ => hpush _,
      fun n hn => exec_of_stackOverflow rfl hr hi hn hfull (by simp; omega), fun hrs => ?_⟩
    obtain ⟨a, xs, hrs⟩ := List.exists_cons_of_ne_nil hrs
    exact ⟨exec_of_seqFault rfl hr hi fun _ => by simp only [rpop_of_cons hrs]; exact push_of_full hfull,
      exec_of_seqFault rfl hr hi fun _ => by simp only [rpop_of_cons hrs, hpush]⟩
  case returnFull =>
    intro hfull
    refine ⟨fun hds => ?_, fun off => exec_of_fault rfl hr hi fun _ => callTo_of_full hfull⟩
    obtain ⟨a, xs, hds⟩ := List.exists_cons_of_ne_nil hds
    have hfull' : 16 ≤ (r.setDs xs).r.length := by rwa [setDs_r]
    exact ⟨exec_of_seqFault rfl hr hi fun _ => by simp only [pop_of_cons hds, rpush_of_full hfull'],
      exec_of_fault rfl hr hi fun _ => by simp only [pop_of_cons hds, callTo_of_full hfull']⟩
  case returnEmpty =>
    intro hrs
    have hpop := rpop_of_nil hrs
    exact ⟨exec_of_seqFault rfl hr hi fun _ => by simp only [hpop], exec_of_seqFault rfl hr hi fun _ => by simp only [hpop],
      exec_of_seqFault rfl hr hi fun _ => by rw [hpop]; rfl, exec_of_fault rfl hr hi fun _ => by simp only [hpop]⟩
  case reti => exact fun h => congrArg Host.Outcome.next (issue_retiFault hr hi fun _ => reti_of_short h)
  case oddJump => exact fun a xs hds hodd => exec_of_fault rfl hr hi fun _ => by simp only [pop_of_cons hds, go_of_odd hodd]
  case oddReturn => exact fun a xs hrs hodd => exec_of_fault rfl hr hi fun _ => by simp only [rpop_of_cons hrs, go_of_odd hodd]

/-! ### The profiles (R225, Table 9.1) -/

/-- An instruction outside its core's profile. -/
theorem exec_of_illegal {i : Instr} {who : CoreRef} {s : State} {ok : CoreRef → Bool} {units cost : Nat} {w : Work}
    (hok : ok who = false) (hi : s.canIssue 1 1 who = true) (hexec : exec i s = .next (s.issue ok units cost w who)) :
    exec i s = .next (s.faulted 1 1 5 who) := by
  rw [hexec, issue_illegal hok hi]

/-- Settles O41: each row's profile leaves the core out. -/
theorem profilesAreEnforced : Obligations.ProfilesAreEnforced := by
  unfold Obligations.ProfilesAreEnforced
  intro who s hi illegal
  have illegal_of {i : Instr} {ok : CoreRef → Bool} {units cost : Nat} {w : Work} (hok : ok who = false)
      (hexec : exec i s = .next (s.issue ok units cost w who)) : illegal i := exec_of_illegal hok hi hexec
  refine ⟨?peg, ?notPeg, ?notTab, ?customs, ?idle⟩
  case peg =>
    intro hwho
    have hfull : onFull who = false := by rw [hwho]; rfl
    refine ⟨illegal_of hfull rfl, illegal_of hfull rfl, illegal_of hfull rfl, illegal_of hfull rfl, illegal_of hfull rfl,
      illegal_of hfull rfl, fun off => ⟨illegal_of hfull rfl, illegal_of hfull rfl, illegal_of hfull rfl, illegal_of hfull rfl,
        illegal_of hfull rfl, illegal_of hfull rfl, illegal_of hfull rfl, illegal_of hfull rfl⟩, fun off => ?_⟩
    subst hwho
    exact congrArg Host.Outcome.next (issue_fault (ok := onSmall) rfl rfl hi fun _ => if_pos rfl)
  case notPeg =>
    intro hwho
    have hsmall : onSmall who = false := decide_eq_false hwho
    exact ⟨illegal_of hsmall rfl, illegal_of hsmall rfl, illegal_of hsmall rfl, illegal_of hsmall rfl,
      fun cc off => illegal_of hsmall rfl⟩
  case notTab =>
    intro hwho
    have htab : onTab who = false := by
      cases who with
      | tab h slot => exact absurd rfl (hwho h slot)
      | peg => rfl
      | cp => rfl
    exact ⟨fun id => illegal_of htab rfl, illegal_of htab rfl, illegal_of htab rfl, illegal_of htab rfl⟩
  case customs =>
    intro hwho c imm ext
    subst hwho
    exact exec_of_illegal (ok := onFull) rfl hi rfl
  case idle =>
    intro h slot hwho
    subst hwho
    exact exec_of_illegal (ok := onIdle) rfl hi rfl

end Sys2Proof.Machine
end

section
/-! SUPPORT and the statements settled. The commands of groups 0x01 and 0x02 (R52 to R56, R82, R87, R88, R91, R100 to R103). -/

namespace Sys2Proof.Machine

section
variable {i : Instr} {c : Cmd} {s t' : State} {op lo hi : Nat} {who : Privilege} {body : Cmd → CmdRef → State → CmdRes}

/-- An accepted command whose only answer is E_OK with its words. -/
theorem exec_of_done {ws : List Word} (hrow : commandOf i = some (c, ⟨op, who, lo, hi, body⟩))
    (ha : s.accepts c op who lo hi body = true)
    (hbody : ∀ t q, body c (c.ref op) (s.turn c op) = .ok (t, q) → t' = t ∧ Reply.done eOk ws = q) :
    exec i s = .next (t'.completeOk (c.ref op) ws).advanced := by
  obtain ⟨t, q, hok, hexec⟩ := exec_of_accepts hrow ha
  obtain ⟨rfl, rfl⟩ := hbody t q hok
  exact hexec

/-- An accepted command that answers later. -/
theorem exec_of_later (hrow : commandOf i = some (c, ⟨op, who, lo, hi, body⟩)) (ha : s.accepts c op who lo hi body = true)
    (hbody : ∀ t q, body c (c.ref op) (s.turn c op) = .ok (t, q) → t' = t ∧ Reply.later = q) :
    exec i s = .next t'.advanced := by
  obtain ⟨t, q, hok, hexec⟩ := exec_of_accepts hrow ha
  obtain ⟨rfl, rfl⟩ := hbody t q hok
  exact hexec

/-- An accepted command that waits for a job. -/
theorem exec_of_wait {j : Job} (hrow : commandOf i = some (c, ⟨op, who, lo, hi, body⟩))
    (ha : s.accepts c op who lo hi body = true)
    (hbody : ∀ t q, body c (c.ref op) (s.turn c op) = .ok (t, q) → t' = t ∧ Reply.wait j = q) :
    exec i s = .next (t'.setStage (c.ref op) (.waiting j)).advanced := by
  obtain ⟨t, q, hok, hexec⟩ := exec_of_accepts hrow ha
  obtain ⟨rfl, rfl⟩ := hbody t q hok
  exact hexec

end

/-! ### Group 0x01 -/

/-- Settles O1: each body past its checks, with the record's words. -/
theorem tenantCommandsComplete : Obligations.TenantCommandsComplete := by
  unfold Obligations.TenantCommandsComplete
  intro c s
  refine ⟨?nop, ?tenantCreate, ?tenantDestroy, ?quotaSet, ?viewportSet, ?regRead, ?regWrite, ?eventSubscribe, ?tenantQuery⟩
  case nop => exact fun ha => exec_of_done rfl ha fun t q hbody => okDone_ok.1 (of_check hbody)
  case tenantCreate =>
    intro ha
    obtain ⟨t, q, hbody, hexec⟩ := exec_of_accepts (i := .tenantCreate c) rfl ha
    dsimp only [tenantCreateBody] at hbody
    repeat replace hbody := of_check hbody
    obtain ⟨quotas, hquotas, hbody⟩ := bind_ok.1 hbody
    repeat replace hbody := of_check hbody
    obtain ⟨rfl, rfl⟩ := okDone_ok.1 hbody
    exact ⟨quotas, hquotas, hexec⟩
  case tenantDestroy =>
    refine fun ha => exec_of_later rfl ha fun t q hbody => ?_
    dsimp only [tenantDestroyBody] at hbody
    repeat replace hbody := of_check hbody
    split at hbody
    next => cases hbody
    next => exact ok_later.1 (of_check hbody)
  case quotaSet =>
    intro ha
    obtain ⟨t, q, hbody, hexec⟩ := exec_of_accepts (i := .quotaSet c) rfl ha
    dsimp only [quotaSetBody] at hbody
    repeat replace hbody := of_check hbody
    split at hbody
    next => cases hbody
    next x hx =>
      obtain ⟨quotas, hquotas, hbody⟩ := bind_ok.1 hbody
      obtain ⟨rfl, rfl⟩ := okDone_ok.1 hbody
      exact ⟨x, quotas, hx, hquotas, hexec⟩
  case viewportSet =>
    refine fun ha => exec_of_later rfl ha fun t q hbody => ?_
    dsimp only [viewportSetBody] at hbody
    repeat replace hbody := of_check hbody
    split at hbody
    next => cases hbody
    next =>
      split at hbody
      next => cases hbody
      next =>
        repeat replace hbody := of_check hbody
        exact ok_later.1 hbody
  case regRead =>
    intro ha
    obtain ⟨t, q, hbody, hexec⟩ := exec_of_accepts (i := .regRead c) rfl ha
    dsimp only [regReadBody] at hbody
    repeat replace hbody := of_check hbody
    obtain ⟨us, hus, hbody⟩ := bind_ok.1 hbody
    obtain ⟨rfl, rfl⟩ := okDone_ok.1 hbody
    exact ⟨us, hus, hexec⟩
  case regWrite =>
    intro ha
    obtain ⟨t, q, hbody, hexec⟩ := exec_of_accepts (i := .regWrite c) rfl ha
    dsimp only [regWriteBody] at hbody
    repeat replace hbody := of_check hbody
    obtain ⟨us, hus, hbody⟩ := bind_ok.1 hbody
    obtain ⟨rfl, rfl⟩ := okDone_ok.1 (of_check hbody)
    exact ⟨us, hus, hexec⟩
  case eventSubscribe =>
    refine fun ha => exec_of_done rfl ha fun t q hbody => ?_
    dsimp only [eventSubscribeBody] at hbody
    repeat replace hbody := of_check hbody
    split at hbody
    next => cases hbody
    next =>
      repeat replace hbody := of_check hbody
      exact okDone_ok.1 hbody
  case tenantQuery =>
    refine fun ha x hx => exec_of_done rfl ha fun t q hbody => ?_
    dsimp only [tenantQueryBody] at hbody
    replace hbody := of_check hbody
    rw [hx] at hbody
    exact okDone_ok.1 hbody

/-! ### Group 0x02 -/

/-- What an accepted ATLAS_MAP answers: the mapping at once, or pages of a pool to be zeroed first (R100 to R102). -/
theorem atlasMapBody_ok {c : Cmd} {r : CmdRef} {a t : State} {q : Reply} (h : atlasMapBody c r a = .ok (t, q)) :
    let size := if c.u8 0x21 = 1 then 0x200000 else 0x10000
    let n := c.u64 0x10 / size
    let leaves := newLeaves (c.u64 0x08) size (c.u8 0x20) (c.u8 0x21 = 1) (c.u8 0x22 / 2 = 1) (c.u8 0x22 % 2 = 1)
    ((c.u8 0x20 = 1 ∨ c.u8 0x20 = 4) →
      a.modTenant c.tenant (fun x => { x with
        atlas := x.atlas.addAll c.tenant (leaves ((List.range n).map (fun i =>
          (if c.u8 0x20 = 1 then c.u64 0x18 else bankBase + c.u8 0x23 * 0x400000 + c.u64 0x18) + i * size))) }) = t ∧
        Reply.done eOk [word n] = q) ∧
    (¬(c.u8 0x20 = 1 ∨ c.u8 0x20 = 4) →
      let outs := allocPages (a.allLeaves.map (fun l => (l.out, l.size))) size ((a.pool (c.u8 0x20)).1 + (a.pool (c.u8 0x20)).2)
        ((a.pool (c.u8 0x20)).2 / size + 1) (a.pool (c.u8 0x20)).1 n
      n ≤ outs.length ∧ a = t ∧ Reply.wait (.map (leaves outs) n) = q) := by
  dsimp only [atlasMapBody] at h
  repeat replace h := of_check h
  split at h
  next => cases h
  next =>
    repeat replace h := of_check h
    intro size n leaves
    refine ⟨fun hat => ?_, fun hpool => ?_⟩
    · rw [if_pos hat] at h
      exact okDone_ok.1 h
    · rw [if_neg hpool] at h
      obtain ⟨hlen, h⟩ := of_ite_error h
      exact ⟨Nat.not_lt.1 hlen, ok_wait.1 h⟩

/-- What an accepted ATLAS_UNMAP answers: at once, unless a load translated under the range is outstanding (R103). -/
theorem atlasUnmapBody_ok {c : Cmd} {r : CmdRef} {a t : State} {q : Reply} (h : atlasUnmapBody c r a = .ok (t, q)) :
    ∃ x, a.tenant? c.tenant = some x ∧
      let gone := x.atlas.leaves.filter (fun l =>
        decide (l.base < c.u64 0x08 + c.u64 0x10) && decide (c.u64 0x08 < l.base + l.size))
      a.modTenant c.tenant (fun x => { x with atlas := x.atlas.keep (fun l => !gone.contains l) }) = t ∧
      (if a.loadsOutstanding c.tenant (c.u64 0x08) (c.u64 0x10) then Reply.wait (.unmap gone) else Reply.done eOk []) = q := by
  dsimp only [atlasUnmapBody] at h
  repeat replace h := of_check h
  split at h
  next => cases h
  next x hx =>
    repeat replace h := of_check h
    refine ⟨x, hx, ?_⟩
    intro gone
    cases hloads : a.loadsOutstanding c.tenant (c.u64 0x08) (c.u64 0x10) with
    | true =>
      rw [hloads, if_pos rfl] at h
      exact ok_wait.1 h
    | false =>
      rw [hloads, if_neg Bool.false_ne_true] at h
      exact okDone_ok.1 h

/-- Settles O2: the two answers of a mapping, with the rule of the pages that a pool gives. -/
theorem atlasCommandsComplete : Obligations.AtlasCommandsComplete := by
  unfold Obligations.AtlasCommandsComplete
  intro c s
  refine ⟨?atlasMap, ?atlasUnmap, ?bankAssign⟩
  case atlasMap =>
    intro ha a size n leaves
    obtain ⟨t, q, hbody, hexec⟩ := exec_of_accepts (i := .atlasMap c) rfl ha
    obtain ⟨hmapped, hpaged⟩ := atlasMapBody_ok hbody
    refine ⟨fun hat => ?_, ?_⟩
    · obtain ⟨rfl, rfl⟩ := hmapped hat
      exact hexec
    · intro hpool base bytes outs
      obtain ⟨henough, rfl, rfl⟩ := hpaged (by omega)
      obtain ⟨hapart, hfree⟩ := allocPages_free (a.allLeaves.map (fun l => (l.out, l.size))) size (base + bytes)
        (bytes / size + 1) base n
      refine ⟨Nat.le_antisymm (allocPages_length ..) henough, hapart, fun p hp => ?_, hexec⟩
      obtain ⟨hlow, hhigh, hunused⟩ := hfree p hp
      exact ⟨hlow, hhigh, fun l hl => hunused _ (List.mem_map_of_mem hl)⟩
  case atlasUnmap =>
    intro ha
    obtain ⟨t, q, hbody, hexec⟩ := exec_of_accepts (i := .atlasUnmap c) rfl ha
    obtain ⟨x, hx, rfl, rfl⟩ := atlasUnmapBody_ok hbody
    refine ⟨x, hx, fun hloads => ?_, fun hloads => ?_⟩
    · rw [if_pos hloads] at hexec
      exact hexec
    · rw [if_neg (by rw [hloads]; exact Bool.false_ne_true)] at hexec
      exact hexec
  case bankAssign =>
    refine fun ha => exec_of_wait rfl ha fun t q hbody => ?_
    dsimp only [bankAssignBody] at hbody
    repeat replace hbody := of_check hbody
    exact ok_wait.1 hbody

end Sys2Proof.Machine
end

section
/-! SUPPORT and the statements settled. The commands of groups 0x03 to 0x06 (R116 to R138, R151 to R178, R188 to R222). -/

namespace Sys2Proof.Machine

/-! ### Groups 0x03 and 0x04 -/

/-- What an accepted PALETTE_LOAD answers: the palettes freed, or their content staged for their new owner (R124). -/
theorem paletteLoadBody_ok {c : Cmd} {r : CmdRef} {a t : State} {q : Reply} (h : paletteLoadBody c r a = .ok (t, q)) :
    let hd := c.u8 0x08
    let n := c.u8 0x0A
    let ps := (List.range n).map (· + c.u8 0x09)
    Reply.done eOk [] = q ∧
    (bitOf (c.u8 0x0B) 0 = true → a.freePalettes hd c.tenant ps = t) ∧
    (bitOf (c.u8 0x0B) 0 = false → ∃ bs, readFor a c.tenant (c.u64 0x10) (n * 1024) 0x10 = .ok bs ∧
      ((a.noteAssetRead c.tenant (c.u64 0x10) (n * 1024)).modHead hd (fun x => { x with
        palettes := ps.foldl (fun m p => IMap.put m p { IMap.get m {} p with owner := some c.tenant })
          x.palettes })).modStage hd c.tenant (fun g => { g with
            palettes := (ps.zip (chunks 256 (wordsOf 4 bs))).foldl (fun m e => IMap.put m e.1 e.2) g.palettes }) = t) := by
  dsimp only [paletteLoadBody] at h
  repeat replace h := of_check h
  intro hd n ps
  cases hfree : bitOf (c.u8 0x0B) 0 with
  | true =>
    rw [hfree, if_pos rfl] at h
    obtain ⟨ht, hq⟩ := okDone_ok.1 (of_check h)
    exact ⟨hq, fun _ => ht, nofun⟩
  | false =>
    rw [hfree, if_neg Bool.false_ne_true] at h
    repeat replace h := of_check h
    obtain ⟨bs, hbs, h⟩ := bind_ok.1 h
    obtain ⟨ht, hq⟩ := okDone_ok.1 h
    exact ⟨hq, nofun, fun _ => ⟨bs, hbs, ht⟩⟩

/-- Settles O3: each body past its checks, with the plane it names and the data it reads. -/
theorem planeCommandsComplete : Obligations.PlaneCommandsComplete := by
  unfold Obligations.PlaneCommandsComplete
  intro c s
  refine ⟨?planeCreate, ?planeDestroy, ?planeSet, ?paletteLoad, ?objectTableSet, ?canvasSet, ?scalerCoefLoad, ?contourSet,
    ?paintSet⟩
  case planeCreate =>
    intro ha a h
    obtain ⟨t, q, hbody, hexec⟩ := exec_of_accepts (i := .planeCreate c) rfl ha
    dsimp only [planeCreateBody] at hbody
    repeat replace hbody := of_check hbody
    split at hbody
    next => cases hbody
    next slot hslot =>
      obtain ⟨rfl, rfl⟩ := okDone_ok.1 hbody
      exact ⟨slot, hslot, hexec⟩
  case planeDestroy =>
    intro ha a
    obtain ⟨t, q, hbody, hexec⟩ := exec_of_accepts (i := .planeDestroy c) rfl ha
    dsimp only [planeDestroyBody] at hbody
    obtain ⟨⟨h, slot, p⟩, hplane, hbody⟩ := bind_ok.1 (of_check hbody)
    replace hbody := of_check hbody
    refine ⟨h, slot, p, hplane, ?_⟩
    cases hboundaries : (a.head h).boundaries with
    | true =>
      rw [hboundaries, if_pos rfl] at hbody
      obtain ⟨rfl, rfl⟩ := ok_later.1 hbody
      exact hexec
    | false =>
      rw [hboundaries, if_neg Bool.false_ne_true] at hbody
      obtain ⟨rfl, rfl⟩ := okDone_ok.1 hbody
      exact hexec
  case planeSet =>
    intro ha a
    obtain ⟨t, q, hbody, hexec⟩ := exec_of_accepts (i := .planeSet c) rfl ha
    dsimp only [planeSetBody] at hbody
    obtain ⟨⟨h, slot, p⟩, hplane, hbody⟩ := bind_ok.1 hbody
    repeat replace hbody := of_check hbody
    obtain ⟨params, hparams, hbody⟩ := bind_ok.1 hbody
    obtain ⟨rfl, rfl⟩ := okDone_ok.1 hbody
    exact ⟨h, slot, p, params, hplane, hparams, hexec⟩
  case paletteLoad =>
    intro ha a h n ps
    obtain ⟨t, q, hbody, hexec⟩ := exec_of_accepts (i := .paletteLoad c) rfl ha
    obtain ⟨rfl, hfreed, hloaded⟩ := paletteLoadBody_ok hbody
    refine ⟨fun hfree => ?_, fun hload => ?_⟩
    · rw [hfreed hfree]
      exact hexec
    · obtain ⟨bs, hbs, rfl⟩ := hloaded hload
      exact ⟨bs, hbs, hexec⟩
  case objectTableSet =>
    intro ha a
    obtain ⟨t, q, hbody, hexec⟩ := exec_of_accepts (i := .objectTableSet c) rfl ha
    dsimp only [objectTableSetBody] at hbody
    obtain ⟨⟨h, slot, p⟩, hplane, hbody⟩ := bind_ok.1 (of_check hbody)
    repeat replace hbody := of_check hbody
    obtain ⟨bs, hbs, hbody⟩ := bind_ok.1 hbody
    split at hbody
    next => cases hbody
    next =>
      obtain ⟨rfl, rfl⟩ := okDone_ok.1 hbody
      exact ⟨h, slot, p, bs, hplane, hbs, hexec⟩
  case canvasSet =>
    intro ha a
    obtain ⟨t, q, hbody, hexec⟩ := exec_of_accepts (i := .canvasSet c) rfl ha
    dsimp only [canvasSetBody] at hbody
    obtain ⟨⟨h, slot, p⟩, hplane, hbody⟩ := bind_ok.1 (of_check hbody)
    obtain ⟨rfl, rfl⟩ := okDone_ok.1 (of_check hbody)
    exact ⟨h, slot, p, hplane, hexec⟩
  case scalerCoefLoad =>
    intro ha a
    obtain ⟨t, q, hbody, hexec⟩ := exec_of_accepts (i := .scalerCoefLoad c) rfl ha
    dsimp only [scalerCoefLoadBody] at hbody
    obtain ⟨⟨h, slot, p⟩, hplane, hbody⟩ := bind_ok.1 (of_check hbody)
    obtain ⟨bs, hbs, hbody⟩ := bind_ok.1 (of_check hbody)
    split at hbody
    next => cases hbody
    next =>
      obtain ⟨rfl, rfl⟩ := okDone_ok.1 hbody
      exact ⟨h, slot, p, bs, hplane, hbs, hexec⟩
  case contourSet =>
    intro ha a
    obtain ⟨t, q, hbody, hexec⟩ := exec_of_accepts (i := .contourSet c) rfl ha
    dsimp only [contourSetBody] at hbody
    obtain ⟨⟨h, slot, p⟩, hplane, hbody⟩ := bind_ok.1 (of_check hbody)
    repeat replace hbody := of_check hbody
    obtain ⟨bs, hbs, hbody⟩ := bind_ok.1 hbody
    split at hbody
    next => cases hbody
    next =>
      obtain ⟨-, hbody⟩ := of_ite_error hbody
      obtain ⟨rfl, rfl⟩ := okDone_ok.1 hbody
      exact ⟨h, slot, p, bs, hplane, hbs, hexec⟩
  case paintSet =>
    intro ha
    obtain ⟨t, q, hbody, hexec⟩ := exec_of_accepts (i := .paintSet c) rfl ha
    dsimp only [paintSetBody] at hbody
    obtain ⟨⟨h, slot, p⟩, hplane, hbody⟩ := bind_ok.1 (of_check hbody)
    obtain ⟨rfl, rfl⟩ := okDone_ok.1 (of_check hbody)
    exact ⟨h, slot, p, hplane, hexec⟩

/-! ### Groups 0x05 and 0x06 -/

/-- What an accepted TRANSFER_LUT_LOAD answers, by its operation (R188 to R193). -/
theorem transferLutLoadBody_ok {c : Cmd} {r : CmdRef} {a t : State} {q : Reply} (h : transferLutLoadBody c r a = .ok (t, q)) :
    Reply.done eOk [] = q ∧
    (c.u8 0x08 = 0 → ∃ bs, readFor a c.tenant (c.u64 0x10) 6144 0x10 = .ok bs ∧
      ((a.noteAssetRead c.tenant (c.u64 0x10) 6144).modHead (c.u8 0x09) (fun x => { x with
        luts := IMap.put x.luts (c.u8 0x0A) { (a.head (c.u8 0x09)).lut (c.u8 0x0A) with
          owner := some c.tenant } })).modStage (c.u8 0x09) c.tenant (fun g => { g with
            luts := IMap.put g.luts (c.u8 0x0A) (wordsOf 2 bs) }) = t) ∧
    (c.u8 0x08 = 1 → (a.dropStaged (c.u8 0x09) c.tenant (fun g => { g with
        luts := IMap.del g.luts (c.u8 0x0A) })).modHead (c.u8 0x09) (fun x => { x with
          luts := IMap.put x.luts (c.u8 0x0A) (if x.boundaries then
            { (a.head (c.u8 0x09)).lut (c.u8 0x0A) with owner := none, linear := true } else {}) }) = t) ∧
    (c.u8 0x08 = 2 → ∃ h slot p, needPlane a c.tenant (c.u32 0x0C) 0x0C = .ok (h, slot, p) ∧
      a.stagePlane h c.tenant slot (fun g => { g with transfer := some (c.u8 0x0B) }) = t) := by
  dsimp only [transferLutLoadBody] at h
  repeat replace h := of_check h
  by_cases hselect : c.u8 0x08 = 2
  · rw [if_pos hselect] at h
    obtain ⟨⟨hd, slot, p⟩, hplane, h⟩ := bind_ok.1 (of_check h)
    repeat replace h := of_check h
    obtain ⟨ht, hq⟩ := okDone_ok.1 h
    exact ⟨hq, by omega, by omega, fun _ => ⟨hd, slot, p, hplane, ht⟩⟩
  · rw [if_neg hselect] at h
    repeat replace h := of_check h
    by_cases hrelease : c.u8 0x08 = 1
    · rw [if_pos hrelease] at h
      repeat replace h := of_check h
      obtain ⟨ht, hq⟩ := okDone_ok.1 h
      exact ⟨hq, by omega, fun _ => ht, by omega⟩
    · rw [if_neg hrelease] at h
      repeat replace h := of_check h
      obtain ⟨bs, hbs, h⟩ := bind_ok.1 h
      obtain ⟨ht, hq⟩ := okDone_ok.1 h
      exact ⟨hq, fun _ => ⟨bs, hbs, ht⟩, by omega, by omega⟩

/-- What an accepted POST_LUT_LOAD answers: the identity, or the table read (R196, R197). -/
theorem postLutLoadBody_ok {c : Cmd} {r : CmdRef} {a t : State} {q : Reply} (h : postLutLoadBody c r a = .ok (t, q)) :
    Reply.done eOk [] = q ∧
    (bitOf (c.u8 0x09) 0 = true → a.modStage (c.u8 0x08) c.tenant (fun g => { g with post := some [] }) = t) ∧
    (bitOf (c.u8 0x09) 0 = false → ∃ bs, readFor a c.tenant (c.u64 0x10) 24576 0x10 = .ok bs ∧
      (a.noteAssetRead c.tenant (c.u64 0x10) 24576).modStage (c.u8 0x08) c.tenant
        (fun g => { g with post := some (wordsOf 2 bs) }) = t) := by
  dsimp only [postLutLoadBody] at h
  repeat replace h := of_check h
  cases hnone : bitOf (c.u8 0x09) 0 with
  | true =>
    rw [hnone, if_pos rfl] at h
    obtain ⟨ht, hq⟩ := okDone_ok.1 h
    exact ⟨hq, fun _ => ht, nofun⟩
  | false =>
    rw [hnone, if_neg Bool.false_ne_true] at h
    obtain ⟨bs, hbs, h⟩ := bind_ok.1 (of_check h)
    obtain ⟨ht, hq⟩ := okDone_ok.1 h
    exact ⟨hq, nofun, fun _ => ⟨bs, hbs, ht⟩⟩

/-- What an accepted LINELIST_SET answers: the slot cleared at the next commit, or its lines staged (R209, R210). -/
theorem linelistSetBody_ok {c : Cmd} {r : CmdRef} {a t : State} {q : Reply} (h : linelistSetBody c r a = .ok (t, q)) :
    (c.u8 0x08 = 1 → a.modStage (c.u8 0x09) c.tenant (fun g => { g with lists := IMap.put g.lists (c.u8 0x0A) none }) = t ∧
      Reply.done eOk [word (c.u8 0x0A)] = q) ∧
    (c.u8 0x08 = 0 → ∃ k ls, linelistLoad c a = .ok (k, ls) ∧ a.takeList c k ls = t ∧
      Reply.done eOk [word k, word (mostWrites ls).1, word (mostWrites ls).2] = q) := by
  dsimp only [linelistSetBody] at h
  repeat replace h := of_check h
  by_cases hclear : c.u8 0x08 = 1
  · rw [if_pos hclear] at h
    repeat replace h := of_check h
    exact ⟨fun _ => okDone_ok.1 h, by omega⟩
  · rw [if_neg hclear] at h
    obtain ⟨⟨k, ls⟩, hload, h⟩ := bind_ok.1 h
    exact ⟨fun hop => absurd hop hclear, fun _ => ⟨k, ls, hload, okDone_ok.1 h⟩⟩

/-- The lowest number that meets a condition meets it. -/
theorem of_lowest {n k : Nat} {p : Nat → Bool} (h : lowest n p = some k) : p k = true := by
  unfold lowest at h
  exact List.find?_some h

/-- A fret that nobody owns stands in no slot. -/
theorem fret_none_of_unowned {m : IMap Fret} {n : Nat} (h : ((IMap.find? m n).map (·.owner)).isNone = true) :
    IMap.find? m n = none := by
  simpa using h

/-- What an accepted FRET_SET answers, by its operation (R214). -/
theorem fretSetBody_ok {c : Cmd} {r : CmdRef} {a t : State} {q : Reply} (h : fretSetBody c r a = .ok (t, q)) :
    let hd := c.u8 0x09
    let set : FretSet := ⟨bitOf (c.u8 0x0B) 0, bitOf (c.u8 0x0B) 1, bitOf (c.u8 0x0B) 2, c.u16 0x0C⟩
    (c.u8 0x08 = 0 → ∃ n, IMap.find? (a.head hd).frets n = none ∧
      (c.u8 0x0A ≠ 0xFF → n = c.u8 0x0A) ∧
      (c.u8 0x0A = 0xFF → lowest 16 (fun i => ((IMap.find? (a.head hd).frets i).map (·.owner)).isNone) = some n) ∧
      a.modHead hd (fun x => { x with
        frets := IMap.put x.frets n { owner := c.tenant, next := some set } }) = t ∧ Reply.done eOk [word n] = q) ∧
    (c.u8 0x08 = 1 → a.modHead hd (fun x => { x with
        frets := IMap.adjust x.frets (c.u8 0x0A) (fun k => { k with next := some set }) }) = t ∧
      Reply.done eOk [word (c.u8 0x0A)] = q) ∧
    (c.u8 0x08 = 2 → (a.dropFret hd (c.u8 0x0A)).modHead hd (fun x => { x with
        frets := IMap.del x.frets (c.u8 0x0A) }) = t ∧ Reply.done eOk [word (c.u8 0x0A)] = q) := by
  dsimp only [fretSetBody] at h
  repeat replace h := of_check h
  intro hd set
  split at h
  next htake =>
    refine ⟨fun _ => ?_, by omega, by omega⟩
    split at h
    next => cases h
    next n hn =>
      replace h := okDone_ok.1 (of_check h)
      by_cases hany : c.u8 0x0A = 0xFF
      · rw [if_pos hany] at hn
        exact ⟨n, fret_none_of_unowned (of_lowest hn), fun hne => absurd hany hne, fun _ => hn, h⟩
      · rw [if_neg hany] at hn
        split at hn
        next hfree =>
          cases hn
          exact ⟨_, fret_none_of_unowned hfree, fun _ => rfl, fun heq => absurd heq hany, h⟩
        next => cases hn
  next hchange => exact ⟨by omega, fun _ => okDone_ok.1 (of_check h), by omega⟩
  next htake hchange =>
    exact ⟨fun hop => absurd hop htake, fun hop => absurd hop hchange, fun _ => okDone_ok.1 (of_check h)⟩

/-- Settles O4: each operation of each body. -/
theorem colourAndRasterCommandsComplete : Obligations.ColourAndRasterCommandsComplete := by
  unfold Obligations.ColourAndRasterCommandsComplete
  intro c s
  refine ⟨?transferLutLoad, ?postLutLoad, ?ditherSet, ?linelistSet, ?fretSet, ?leadBoundsSet, ?costQuery⟩
  case transferLutLoad =>
    intro ha a
    obtain ⟨t, q, hbody, hexec⟩ := exec_of_accepts (i := .transferLutLoad c) rfl ha
    obtain ⟨rfl, hload, hrelease, hselect⟩ := transferLutLoadBody_ok hbody
    refine ⟨fun hop => ?_, fun hop => ?_, fun hop => ?_⟩
    · obtain ⟨bs, hbs, rfl⟩ := hload hop
      exact ⟨bs, hbs, hexec⟩
    · rw [hrelease hop]
      exact hexec
    · obtain ⟨h, slot, p, hplane, rfl⟩ := hselect hop
      exact ⟨h, slot, p, hplane, hexec⟩
  case postLutLoad =>
    intro ha a
    obtain ⟨t, q, hbody, hexec⟩ := exec_of_accepts (i := .postLutLoad c) rfl ha
    obtain ⟨rfl, hnone, hload⟩ := postLutLoadBody_ok hbody
    refine ⟨fun hop => ?_, fun hop => ?_⟩
    · rw [hnone hop]
      exact hexec
    · obtain ⟨bs, hbs, rfl⟩ := hload hop
      exact ⟨bs, hbs, hexec⟩
  case ditherSet =>
    refine fun ha => exec_of_done rfl ha fun t q hbody => ?_
    dsimp only [ditherSetBody] at hbody
    repeat replace hbody := of_check hbody
    exact okDone_ok.1 hbody
  case linelistSet =>
    intro ha a
    obtain ⟨t, q, hbody, hexec⟩ := exec_of_accepts (i := .linelistSet c) rfl ha
    obtain ⟨hclear, hload⟩ := linelistSetBody_ok hbody
    refine ⟨fun hop => ?_, fun hop => ?_⟩
    · obtain ⟨rfl, rfl⟩ := hclear hop
      exact hexec
    · obtain ⟨k, ls, hlist, rfl, rfl⟩ := hload hop
      exact ⟨k, ls, hlist, hexec⟩
  case fretSet =>
    intro ha a h set
    obtain ⟨t, q, hbody, hexec⟩ := exec_of_accepts (i := .fretSet c) rfl ha
    obtain ⟨htake, hchange, hfree⟩ := fretSetBody_ok hbody
    refine ⟨fun hop => ?_, fun hop => ?_, fun hop => ?_⟩
    · obtain ⟨n, hunused, hnamed, hany, rfl, rfl⟩ := htake hop
      exact ⟨n, hunused, hnamed, hany, hexec⟩
    · obtain ⟨rfl, rfl⟩ := hchange hop
      exact hexec
    · obtain ⟨rfl, rfl⟩ := hfree hop
      exact hexec
  case leadBoundsSet =>
    refine fun ha => exec_of_later rfl ha fun t q hbody => ?_
    dsimp only [leadBoundsSetBody] at hbody
    repeat replace hbody := of_check hbody
    split at hbody
    next => cases hbody
    next =>
      repeat replace hbody := of_check hbody
      exact ok_later.1 hbody
  case costQuery =>
    intro ha
    obtain ⟨t, q, hbody, hexec⟩ := exec_of_accepts (i := .costQuery c) rfl ha
    dsimp only [costQueryBody] at hbody
    repeat replace hbody := of_check hbody
    split at hbody
    next => cases hbody
    next timing htiming =>
      obtain ⟨rfl, rfl⟩ := okDone_ok.1 hbody
      exact ⟨timing, htiming, hexec⟩

end Sys2Proof.Machine
end

section
/-! SUPPORT and the statements settled. The commands of group 0x07 (R250, R259 to R262, R270 to R273, R547). -/

namespace Sys2Proof.Machine

/-- What an accepted DECODE_TABLE_LOAD answers: the entries installed or removed, as a whole (R250). -/
theorem decodeTableLoadBody_ok {c : Cmd} {r : CmdRef} {a t : State} {q : Reply} (h : decodeTableLoadBody c r a = .ok (t, q)) :
    let cs := (List.range 32).filter (fun i => bitOf (c.u32 0x0C) i)
    Reply.done eOk [] = q ∧
    (c.u8 0x08 = 0 → ∃ es, readInstall a c.tenant (c.u64 0x10) cs = .ok es ∧
      ((installReads c.tenant (c.u64 0x10) es).foldl State.note a).installCode es = t) ∧
    (c.u8 0x08 = 1 → a.removeCode cs = t) := by
  dsimp only [decodeTableLoadBody] at h
  repeat replace h := of_check h
  intro cs
  by_cases hinstall : c.u8 0x08 = 0
  · rw [if_pos hinstall] at h
    obtain ⟨es, hes, h⟩ := bind_ok.1 h
    replace h := noting_ok.1 h
    split at h
    next => cases h
    next =>
      split at h
      next => cases h
      next =>
        obtain ⟨ht, hq⟩ := okDone_ok.1 h
        exact ⟨hq, fun _ => ⟨es, hes, ht⟩, by omega⟩
  · rw [if_neg hinstall] at h
    obtain ⟨ht, hq⟩ := okDone_ok.1 (of_check h)
    exact ⟨hq, fun hop => absurd hop hinstall, fun _ => ht⟩

/-- What an accepted TAB_DEBUG past its handle answers, by its operation (R271, R272). -/
theorem tabDebugBody_ok {c : Cmd} {r : CmdRef} {a t : State} {q : Reply} (h : tabDebugBody c r a = .ok (t, q)) :
    ∃ hd slot k, needThread a c.tenant (c.u32 0x08) 0x08 = .ok (hd, slot, k) ∧
      (c.u8 0x0C = 0 →
        (k.state = .halted → a = t ∧ Reply.done eOk [] = q) ∧
        (k.state ≠ .halted → (k.park = none ∨ k.park = some .wake) → a.haltThread hd slot 0 = t ∧ Reply.done eOk [] = q) ∧
        (k.state ≠ .halted → ¬(k.park = none ∨ k.park = some .wake) →
          a.modThread hd slot (fun k => { k with haltDue := k.haltDue ++ [r] }) = t ∧ Reply.later = q)) ∧
      (c.u8 0x0C = 1 → a.modThread hd slot Thread.resume = t ∧ Reply.done eOk [] = q) ∧
      (c.u8 0x0C = 2 → a.modThread hd slot (fun k => k.step r (c.u16 0x0E)) = t ∧ Reply.later = q) ∧
      (c.u8 0x0C = 3 → (a.debugWords k (c.u8 0x0D)).2 = t ∧ Reply.done eOk (a.debugWords k (c.u8 0x0D)).1 = q) ∧
      (c.u8 0x0C = 4 → a.modThread hd slot (fun k => { k with
          breaks := if c.u32 0x10 = 0xFFFFFFFF then IMap.del k.breaks (c.u8 0x0D)
            else IMap.put k.breaks (c.u8 0x0D) (word (c.u32 0x10)) }) = t ∧ Reply.done eOk [] = q) ∧
      (c.u8 0x0C = 5 → a.noteRead (k.dataAt + c.u32 0x10) (4 * c.u16 0x0E) = t ∧
        Reply.done eOk ((chunks 4 (Mem.readRun a.mem.phys (k.dataAt + c.u32 0x10) (4 * c.u16 0x0E))).map
          (fun b => word (leNat b))) = q) ∧
      (c.u8 0x0C = 6 → a.physWrite (k.dataAt + 4 * c.u16 0x0E) (leBytes 4 (c.u32 0x10)) = t ∧ Reply.done eOk [] = q) := by
  dsimp only [tabDebugBody] at h
  replace h := bind_ok.1 (of_check (of_check h))
  obtain ⟨⟨hd, slot, k⟩, hthread, h⟩ := h
  replace h := of_check h
  refine ⟨hd, slot, k, hthread, ?halt, ?resume, ?step, ?words, ?breakpoint, ?read, ?write⟩
  case halt =>
    intro hop
    simp only [hop] at h
    refine ⟨fun hhalted => ?_, fun hrunning hparked => ?_, fun hrunning hparked => ?_⟩
    · rw [if_pos hhalted] at h
      exact okDone_ok.1 h
    · rw [if_neg hrunning] at h
      obtain hpark | hpark := hparked
      · rw [hpark] at h
        exact okDone_ok.1 h
      · rw [hpark] at h
        exact okDone_ok.1 h
    · rw [if_neg hrunning] at h
      split at h
      next => exact ok_later.1 h
      next => exact ok_later.1 h
      next hnotLoad hnotFence =>
        refine absurd ?_ hparked
        match hpark : k.park with
        | none => exact .inl rfl
        | some .wake => exact .inr rfl
        | some .fence => exact absurd hpark hnotFence
        | some (.load x y z p u v) => exact absurd hpark (hnotLoad x y z p u v)
  case resume =>
    intro hop
    simp only [hop] at h
    exact okDone_ok.1 (of_check h)
  case step =>
    intro hop
    simp only [hop] at h
    exact ok_later.1 (of_check (of_check h))
  case words =>
    intro hop
    simp only [hop] at h
    exact okDone_ok.1 (of_check (of_check h))
  case breakpoint =>
    intro hop
    simp only [hop] at h
    exact okDone_ok.1 (of_check (of_check h))
  case read =>
    intro hop
    simp only [hop] at h
    repeat replace h := of_check h
    exact okDone_ok.1 h
  case write =>
    intro hop
    simp only [hop] at h
    exact okDone_ok.1 (of_check h)

/-- Settles O5: the loading, the staged start and stop, the decode table and the debug operations. -/
theorem tabCommandsComplete : Obligations.TabCommandsComplete := by
  unfold Obligations.TabCommandsComplete
  intro c s
  refine ⟨?tabLoad, ?tabStart, ?tabStop, ?decodeTableLoad, ?tabDebug⟩
  case tabLoad =>
    intro ha a h
    obtain ⟨t, q, hbody, hexec⟩ := exec_of_accepts (i := .tabLoad c) rfl ha
    dsimp only [tabLoadBody] at hbody
    repeat replace hbody := of_check hbody
    split at hbody
    next => cases hbody
    next i hslot =>
      split at hbody
      next => cases hbody
      next ca da hplace =>
        obtain ⟨image, himage, hbody⟩ := bind_ok.1 hbody
        obtain ⟨first, hfirst, hbody⟩ := bind_ok.1 hbody
        obtain ⟨rfl, rfl⟩ := okDone_ok.1 hbody
        exact ⟨i, ca, da, image, first, hslot, hplace, himage, noting_ok.1 hfirst, hexec⟩
  case tabStart =>
    intro ha a
    obtain ⟨t, q, hbody, hexec⟩ := exec_of_accepts (i := .tabStart c) rfl ha
    dsimp only [tabStartBody] at hbody
    repeat replace hbody := of_check hbody
    obtain ⟨⟨h, slot, k⟩, hthread, hbody⟩ := bind_ok.1 hbody
    repeat replace hbody := of_check hbody
    obtain ⟨rfl, rfl⟩ := okDone_ok.1 hbody
    exact ⟨h, slot, k, hthread, hexec⟩
  case tabStop =>
    intro ha a
    obtain ⟨t, q, hbody, hexec⟩ := exec_of_accepts (i := .tabStop c) rfl ha
    dsimp only [tabStopBody] at hbody
    repeat replace hbody := of_check hbody
    obtain ⟨⟨h, slot, k⟩, hthread, hbody⟩ := bind_ok.1 hbody
    repeat replace hbody := of_check hbody
    obtain ⟨rfl, rfl⟩ := okDone_ok.1 hbody
    exact ⟨h, slot, k, hthread, hexec⟩
  case decodeTableLoad =>
    intro ha a cs
    obtain ⟨t, q, hbody, hexec⟩ := exec_of_accepts (i := .decodeTableLoad c) rfl ha
    obtain ⟨rfl, hinstall, hremove⟩ := decodeTableLoadBody_ok hbody
    refine ⟨fun hop => ?_, fun hop => ?_⟩
    · obtain ⟨es, hes, rfl⟩ := hinstall hop
      exact ⟨es, hes, hexec⟩
    · rw [hremove hop]
      exact hexec
  case tabDebug =>
    intro ha a r
    obtain ⟨t, q, hbody, hexec⟩ := exec_of_accepts (i := .tabDebug c) rfl ha
    obtain ⟨h, slot, k, hthread, hhalt, hresume, hstep, hwords, hbreak, hread, hwrite⟩ := tabDebugBody_ok hbody
    have answers {u : State} {p : Reply} (hout : u = t ∧ p = q) :
        exec (.tabDebug c) s = .next (a.answer r (.ok (u, p))).advanced := by
      obtain ⟨rfl, rfl⟩ := hout
      exact hexec
    refine ⟨h, slot, k, hthread, fun hop => ?_, fun hop => answers (hresume hop), fun hop => answers (hstep hop),
      fun hop => answers (hwords hop), fun hop => answers (hbreak hop), fun hop => answers (hread hop),
      fun hop => answers (hwrite hop)⟩
    obtain ⟨hhalted, hidle, hwaits⟩ := hhalt hop
    exact ⟨fun hstate => answers (hhalted hstate), fun hstate hpark => answers (hidle hstate hpark),
      fun hstate hpark => answers (hwaits hstate hpark)⟩

end Sys2Proof.Machine
end

section
/-! SUPPORT and the statements settled. The commands of group 0x08 (R275 to R307). -/

namespace Sys2Proof.Machine

/-! ### Heads and ports -/

/-- Changes of heads leave the ports alone. -/
theorem portAt_foldl_modHead (f : Head → Head) (hs : List Nat) (s : State) (p : Nat) :
    (hs.foldl (fun s h => s.modHead h f) s).portAt p = s.portAt p := by
  induction hs generalizing s with
  | nil => rfl
  | cons h hs ih => exact ih (s.modHead h f)

@[simp] theorem portAt_modPort (s : State) (p : Nat) (f : Port → Port) : (s.modPort p f).portAt p = f (s.portAt p) := by
  unfold State.modPort State.portAt
  exact IMap.get_put_same ..

@[simp] theorem endStill_commits (s : State) (h : Nat) : (s.endStill h).disp.commits = s.disp.commits := by
  unfold State.endStill
  dsimp only
  split <;> rfl

/-- A commit that is accepted joins those that wait (R285). -/
theorem acceptCommit_commits (c : Cmd) (hs : List Nat) (k : Commit) (s : State) :
    (s.acceptCommit c hs k).disp.commits = s.disp.commits ++ [k] := by
  have hfold (t : State) : (hs.foldl (fun s h => (s.modHead h (fun x => { x with
      stages := IMap.del x.stages c.tenant })).endStill h) t).disp.commits = t.disp.commits := by
    induction hs generalizing t with
    | nil => rfl
    | cons h hs ih => exact (ih _).trans (endStill_commits ..)
  exact congrArg (· ++ [k]) (hfold s)

/-- A commit carries what its issuer has staged for each of its heads (R285). -/
theorem commitOf_stages (s : State) (c : Cmd) (r : CmdRef) (hs : List Nat) (nb : Option Meridian) :
    (s.commitOf c r hs nb).members.map (fun m => m.stage) = hs.map (fun h => (s.head h).stage c.tenant) := by
  simp [State.commitOf, Function.comp_def]

section
variable {s : State} {p : Nat} {w : RouteWait}

/-- A route whose heads still scan waits (R306). -/
theorem nextRoute_of_waiting (hpend : (s.portAt p).pend = [w]) (hheads : w.heads ≠ []) : s.nextRoute p 1 = s := by
  have hsome : w.heads.isEmpty = false := by simpa using hheads
  simp only [State.nextRoute, hpend, hsome, Bool.not_false, Bool.or_true, if_true]

/-- A route without heads is in place at once, and its record is written (R306). -/
theorem nextRoute_of_noHeads {r : CmdRef} (hpend : (s.portAt p).pend = [w]) (hheads : w.heads = [])
    (hnone : w.route.headList = []) (hidle : (s.portAt p).training = false) (href : w.ref = some r) :
    s.nextRoute p 1 = (((((s.portAt p).route.map Route.headList).getD []).foldl
      (fun s h => s.modHead h (fun x => { x with port := none })) s).modPort p
        (fun q => { q.unrouted with pend := [] })).completeOk r [] := by
  simp only [State.nextRoute, hpend, hheads, hnone, hidle, href, List.isEmpty_nil, Bool.not_true, Bool.or_self,
    Bool.false_eq_true, if_false, if_true]

end

/-! ### The commands -/

/-- What an accepted HEAD_TIMING_SET answers (R275 to R281). -/
theorem headTimingSetBody_ok {c : Cmd} {r : CmdRef} {a t : State} {q : Reply} (h : headTimingSetBody c r a = .ok (t, q)) :
    let hd := c.u8 0x08
    (bitOf (c.u8 0x09) 0 = true →
      ((a.head hd).planned = none → a = t ∧ Reply.done eOk [] = q) ∧
      ((a.head hd).planned ≠ none → a.acceptTiming hd (some r, .off) = t ∧ Reply.later = q)) ∧
    (bitOf (c.u8 0x09) 0 = false →
      ((a.head hd).planned = none → a.acceptTiming hd (some r, .first (timingOf c)) = t ∧ Reply.later = q) ∧
      (∀ old, (a.head hd).planned = some old →
        a.acceptTiming hd (some r, if old.sameBut (timingOf c) then .deadline (timingOf c) else .change (timingOf c)) = t ∧
          Reply.later = q)) := by
  dsimp only [headTimingSetBody] at h
  repeat replace h := of_check h
  intro hd
  cases hoff : bitOf (c.u8 0x09) 0 with
  | true =>
    rw [hoff, if_pos rfl] at h
    replace h := of_check h
    refine ⟨fun _ => ⟨fun hplanned => ?_, fun hplanned => ?_⟩, nofun⟩
    · rw [hplanned] at h
      exact okDone_ok.1 h
    · obtain ⟨old, hold⟩ := Option.ne_none_iff_exists'.1 hplanned
      rw [hold] at h
      exact ok_later.1 h
  | false =>
    rw [hoff, if_neg Bool.false_ne_true] at h
    repeat replace h := of_check h
    refine ⟨nofun, fun _ => ⟨fun hplanned => ?_, fun old hplanned => ?_⟩⟩
    · rw [hplanned] at h
      exact ok_later.1 h
    · rw [hplanned] at h
      exact ok_later.1 h

/-- Settles O6: the timings, the routes with the first step of their training, the commits and the captures. -/
theorem displayCommandsComplete : Obligations.DisplayCommandsComplete := by
  unfold Obligations.DisplayCommandsComplete
  intro c s
  refine ⟨?headTimingSet, ?portRouteSet, ?commitSubmit, ?captureStart, ?captureStop, ?framelockSet, ?stillPolicySet⟩
  case headTimingSet =>
    intro ha a h r
    obtain ⟨t, q, hbody, hexec⟩ := exec_of_accepts (i := .headTimingSet c) rfl ha
    obtain ⟨hoff, hon⟩ := headTimingSetBody_ok hbody
    have answers {u : State} {p : Reply} (hout : u = t ∧ p = q) :
        exec (.headTimingSet c) s = .next (a.answer r (.ok (u, p))).advanced := by
      obtain ⟨rfl, rfl⟩ := hout
      exact hexec
    refine ⟨fun hbit => ?_, fun hbit => ?_⟩
    · obtain ⟨hnone, hsome⟩ := hoff hbit
      exact ⟨fun hp => answers (hnone hp), fun hp => answers (hsome hp)⟩
    · obtain ⟨hnone, hsome⟩ := hon hbit
      exact ⟨fun hp => answers (hnone hp), fun old hp => answers (hsome old hp)⟩
  case portRouteSet =>
    intro ha a b d
    have hexec : exec (.portRouteSet c) s = .next (d.nextRoute (c.u8 0x08) (d.portAt (c.u8 0x08)).pend.length).advanced := by
      refine exec_of_later rfl ha fun t q hbody => ?_
      dsimp only [portRouteSetBody] at hbody
      repeat replace hbody := of_check hbody
      exact ok_later.1 hbody
    refine ⟨hexec, fun hnoPend => ?_⟩
    have hport : d.portAt (c.u8 0x08) = { a.portAt (c.u8 0x08) with
        pend := [⟨some (c.ref 0x0802), routeOf c, (routeOf c).headList⟩] } := by
      have hsame : b.portAt (c.u8 0x08) = a.portAt (c.u8 0x08) := portAt_foldl_modHead ..
      refine (portAt_modPort b (c.u8 0x08) _).trans ?_
      rw [hsame, hnoPend]
      rfl
    have hpend : (d.portAt (c.u8 0x08)).pend = [⟨some (c.ref 0x0802), routeOf c, (routeOf c).headList⟩] := by rw [hport]
    rw [hpend] at hexec
    refine ⟨fun hheads => ?_, fun hheads hidle => ?_⟩
    · rw [hexec]
      exact next_advanced (nextRoute_of_waiting hpend hheads)
    · have hidle' : (d.portAt (c.u8 0x08)).training = false := by rw [hport]; exact hidle
      have hroute : (d.portAt (c.u8 0x08)).route = (a.portAt (c.u8 0x08)).route := by rw [hport]
      have hnext := nextRoute_of_noHeads hpend hheads hheads hidle' rfl
      rw [hroute] at hnext
      rw [hexec]
      exact next_advanced hnext
  case commitSubmit =>
    intro ha a hs k
    refine ⟨commitOf_stages .., exec_of_later rfl ha fun t q hbody => ?_, acceptCommit_commits ..⟩
    dsimp only [commitSubmitBody] at hbody
    repeat replace hbody := of_check hbody
    exact ok_later.1 hbody
  case captureStart =>
    refine fun ha => exec_of_done rfl ha fun t q hbody => ?_
    dsimp only [captureStartBody] at hbody
    repeat replace hbody := of_check hbody
    exact okDone_ok.1 hbody
  case captureStop =>
    intro ha a
    obtain ⟨t, q, hbody, hexec⟩ := exec_of_accepts (i := .captureStop c) rfl ha
    dsimp only [captureStopBody] at hbody
    repeat replace hbody := of_check hbody
    split at hbody
    next => cases hbody
    next k hcapture =>
      replace hbody := of_check hbody
      refine ⟨k, hcapture, fun hframe => ?_, fun hframe => ?_⟩
      · rw [hframe] at hbody
        obtain ⟨rfl, rfl⟩ := okDone_ok.1 hbody
        exact hexec
      · obtain ⟨frame, hsome⟩ := Option.ne_none_iff_exists'.1 hframe
        rw [hsome] at hbody
        obtain ⟨rfl, rfl⟩ := ok_later.1 hbody
        exact hexec
  case framelockSet =>
    refine fun ha => exec_of_later rfl ha fun t q hbody => ?_
    dsimp only [framelockSetBody] at hbody
    repeat replace hbody := of_check hbody
    split at hbody
    next => cases hbody
    next => exact ok_later.1 (of_check hbody)
  case stillPolicySet =>
    refine fun ha => exec_of_later rfl ha fun t q hbody => ?_
    dsimp only [stillPolicySetBody] at hbody
    repeat replace hbody := of_check hbody
    split at hbody
    next => cases hbody
    next => exact ok_later.1 (of_check hbody)

end Sys2Proof.Machine
end

section
/-! SUPPORT and the statements settled. The commands of the Cartouche (R314 to R330, R386). -/

namespace Sys2Proof.Machine

/-- What an accepted CARTOUCHE_IMAGE_LOAD answers: the image released, or its copy begun (R314). -/
theorem cartoucheImageLoadBody_ok {c : Cmd} {r : CmdRef} {a t : State} {q : Reply}
    (h : cartoucheImageLoadBody c r a = .ok (t, q)) :
    (c.u8 0x08 = 1 → a.releaseImage (c.u8 0x09) = t ∧ Reply.done eOk [] = q) ∧
    (c.u8 0x08 = 0 → ∃ data ps,
      readFor a c.tenant (c.u64 0x10) (imageBytes (c.u8 0x0A) (c.u16 0x0C) (c.u16 0x0E)) 0x10 = .ok data ∧
      a.disp.cart.alloc (ceilDiv data.length 4096) = some ps ∧
      (a.noteAssetRead c.tenant (c.u64 0x10) data.length).modDisp (fun d => { d with cart := { d.cart with
        loads := d.cart.loads ++ [⟨r, false, c.u8 0x09, c.u8 0x0A, c.u16 0x0C, c.u16 0x0E, ps, data⟩] } }) = t ∧
      Reply.wait (.cartouche []) = q) := by
  dsimp only [cartoucheImageLoadBody] at h
  repeat replace h := of_check h
  by_cases hrelease : c.u8 0x08 = 1
  · rw [if_pos hrelease] at h
    repeat replace h := of_check h
    exact ⟨fun _ => okDone_ok.1 h, by omega⟩
  · rw [if_neg hrelease] at h
    repeat replace h := of_check h
    obtain ⟨data, hdata, h⟩ := bind_ok.1 h
    refine ⟨fun hop => absurd hop hrelease, fun _ => ?_⟩
    split at h
    next => cases h
    next =>
      split at h
      next => cases h
      next ps hps =>
        refine ⟨data, ps, hdata, hps, ?_⟩
        split at h
        next => exact ok_wait.1 h
        next => exact ok_wait.1 (of_check (of_check h))

/-- What an accepted CARTOUCHE_CELL_SET answers, by its operation (R317 to R319). -/
theorem cartoucheCellSetBody_ok {c : Cmd} {r : CmdRef} {a t : State} {q : Reply}
    (h : cartoucheCellSetBody c r a = .ok (t, q)) :
    let hd := c.u8 0x09
    let blink := decide (c.u8 0x08 ≤ 1) && bitOf (c.u8 0x0C) 0
    Reply.later = q ∧
    (c.u8 0x08 = 0 → (a.modHead hd (fun x => { x with
      cellWaits := x.cellWaits ++ [⟨r, a.now, c.u8 0x0A, some
        { rect := rectOf c 0x10, fill := c.u32 0x18, images := (c.bytes 0x20 16).map BitVec.toNat, state := c.u8 0x0B
          blink := blink, blinkState := c.u8 0x0D, onMs := c.u16 0x1C, offMs := c.u16 0x1E }⟩] })).endStill hd = t) ∧
    (c.u8 0x08 = 1 → a.modHead hd (fun x => { x with
      lineZero := x.lineZero ++ [⟨r, a.now, a.after100 (c.u64 0x30),
        .cellState (c.u8 0x0A) (c.u8 0x0B) blink (c.u8 0x0D) (c.u16 0x1C) (c.u16 0x1E), (a.head hd).lowered⟩] }) = t) ∧
    (c.u8 0x08 = 2 → (a.modHead hd (fun x => { x with
      cellWaits := x.cellWaits ++ [⟨r, a.now, c.u8 0x0A, none⟩] })).endStill hd = t) := by
  dsimp only [cartoucheCellSetBody] at h
  repeat replace h := of_check h
  intro hd blink
  by_cases hstate : c.u8 0x08 = 1
  · rw [if_pos hstate] at h
    obtain ⟨ht, hq⟩ := ok_later.1 h
    exact ⟨hq, by omega, fun _ => ht, by omega⟩
  rw [if_neg hstate] at h
  by_cases hclear : c.u8 0x08 = 2
  · rw [if_pos hclear] at h
    obtain ⟨ht, hq⟩ := ok_later.1 (of_check h)
    exact ⟨hq, by omega, by omega, fun _ => ht⟩
  rw [if_neg hclear] at h
  replace h := of_check h
  split at h
  next => cases h
  next =>
    obtain ⟨ht, hq⟩ := ok_later.1 (of_check h)
    exact ⟨hq, fun _ => ht, fun hop => absurd hop hstate, fun hop => absurd hop hclear⟩

/-- What an accepted FAULT_REACTION_SET answers, by its operation (R328 to R330). -/
theorem faultReactionSetBody_ok {c : Cmd} {r : CmdRef} {a t : State} {q : Reply}
    (h : faultReactionSetBody c r a = .ok (t, q)) :
    let hd := c.u8 0x09
    Reply.done eOk [] = q ∧
    (c.u8 0x08 = 0 → a.modHead hd (fun x => { x with
      reactions := IMap.put x.reactions (c.u8 0x0A) (c.u8 0x0B, c.u16 0x0C) }) = t) ∧
    (c.u8 0x08 = 1 → a.modHead hd (fun x => { x with fallbackColour := c.u32 0x10 }) = t) ∧
    (c.u8 0x08 = 2 → a.modHead hd (fun x => { x with fallback := false }) = t) ∧
    (c.u8 0x08 = 3 → a.releaseReaction (c.u16 0x0C) = t) := by
  dsimp only [faultReactionSetBody] at h
  repeat replace h := of_check h
  intro hd
  split at h
  next hop =>
    repeat replace h := of_check h
    obtain ⟨ht, hq⟩ := okDone_ok.1 h
    rw [if_pos hop] at ht
    exact ⟨hq, fun _ => ht, by omega, by omega, by omega⟩
  next hop =>
    obtain ⟨ht, hq⟩ := okDone_ok.1 h
    exact ⟨hq, by omega, fun _ => ht, by omega, by omega⟩
  next hop =>
    obtain ⟨ht, hq⟩ := okDone_ok.1 (of_check h)
    exact ⟨hq, by omega, by omega, fun _ => ht, by omega⟩
  next hregion hcolour hend =>
    repeat replace h := of_check h
    obtain ⟨ht, hq⟩ := okDone_ok.1 h
    exact ⟨hq, fun hop => absurd hop hregion, fun hop => absurd hop hcolour, fun hop => absurd hop hend, fun _ => ht⟩

/-- What an accepted CARTOUCHE_VOICE_SET answers: the sample released, or its copy begun (R386). -/
theorem cartoucheVoiceSetBody_ok {c : Cmd} {r : CmdRef} {a t : State} {q : Reply}
    (h : cartoucheVoiceSetBody c r a = .ok (t, q)) :
    (c.u8 0x08 = 1 → a.modDisp (fun d => { d with
      cart := { d.cart with samples := IMap.del d.cart.samples (c.u8 0x09) } }) = t ∧ Reply.done eOk [] = q) ∧
    (c.u8 0x08 = 0 → ∃ data ps,
      readFor a c.tenant (c.u64 0x10) (sampleBytes (c.u8 0x0A) (c.u32 0x0C)) 0x10 = .ok data ∧
      a.disp.cart.alloc (ceilDiv data.length 4096) = some ps ∧
      (a.noteAssetRead c.tenant (c.u64 0x10) data.length).modDisp (fun d => { d with cart := { d.cart with
        loads := d.cart.loads ++ [⟨r, true, c.u8 0x09, c.u8 0x0A, c.u32 0x0C, 0, ps, data⟩] } }) = t ∧
      Reply.wait (.cartouche []) = q) := by
  dsimp only [cartoucheVoiceSetBody] at h
  repeat replace h := of_check h
  by_cases hrelease : c.u8 0x08 = 1
  · rw [if_pos hrelease] at h
    repeat replace h := of_check h
    exact ⟨fun _ => okDone_ok.1 h, by omega⟩
  · rw [if_neg hrelease] at h
    repeat replace h := of_check h
    obtain ⟨data, hdata, h⟩ := bind_ok.1 h
    refine ⟨fun hop => absurd hop hrelease, fun _ => ?_⟩
    split at h
    next => cases h
    next ps hps => exact ⟨data, ps, hdata, hps, ok_wait.1 h⟩

/-- The region that an accepted WATCH_REGION_SET carries: its flags count with op 0 alone (R322). -/
theorem watchRegionSetBody_ok {c : Cmd} {r : CmdRef} {a t : State} {q : Reply} (h : watchRegionSetBody c r a = .ok (t, q)) :
    let bound := bitOf (c.u8 0x0B) 2
    let g : Option RegionSet := if c.u8 0x08 = 0 then some {
      refCheck := bitOf (c.u8 0x0B) 0, freeze := bitOf (c.u8 0x0B) 1, bound := if bound then some (c.u8 0x0C) else none
      freezeK := c.u8 0x0D, missLimit := c.u8 0x0E, rect := if bound then {} else rectOf c 0x10 } else none
    a.modHead (c.u8 0x09) (fun x => { x with
      lineZero := x.lineZero ++ [⟨r, a.now, a.after100 0, .region (c.u8 0x0A) g, false⟩] }) = t ∧ Reply.later = q := by
  dsimp only [watchRegionSetBody] at h
  repeat replace h := of_check h
  intro bound g
  by_cases hset : c.u8 0x08 = 0
  · simp only [hset, decide_true, Bool.true_and, if_true] at h
    dsimp only [g]
    rw [if_pos hset]
    exact ok_later.1 h
  · rw [if_neg hset] at h
    dsimp only [g]
    rw [if_neg hset]
    exact ok_later.1 h

/-- Settles O7: each operation of each body, with the data it reads and the pages it finds. -/
theorem cartoucheCommandsComplete : Obligations.CartoucheCommandsComplete := by
  unfold Obligations.CartoucheCommandsComplete
  intro c s
  refine ⟨?imageLoad, ?cellSet, ?watchRegionSet, ?referenceSet, ?faultReactionSet, ?voiceSet⟩
  case imageLoad =>
    intro ha a
    obtain ⟨t, q, hbody, hexec⟩ := exec_of_accepts (i := .cartoucheImageLoad c) rfl ha
    obtain ⟨hrelease, hload⟩ := cartoucheImageLoadBody_ok hbody
    refine ⟨fun hop => ?_, fun hop => ?_⟩
    · obtain ⟨rfl, rfl⟩ := hrelease hop
      exact hexec
    · obtain ⟨data, ps, hdata, hps, rfl, rfl⟩ := hload hop
      exact ⟨data, ps, hdata, hps, hexec⟩
  case cellSet =>
    intro ha a h blink
    obtain ⟨t, q, hbody, hexec⟩ := exec_of_accepts (i := .cartoucheCellSet c) rfl ha
    obtain ⟨rfl, hset, hstate, hclear⟩ := cartoucheCellSetBody_ok hbody
    refine ⟨fun hop => ?_, fun hop => ?_, fun hop => ?_⟩
    · rw [hset hop]
      exact hexec
    · rw [hstate hop]
      exact hexec
    · rw [hclear hop]
      exact hexec
  case watchRegionSet => exact fun ha => exec_of_later rfl ha fun t q hbody => watchRegionSetBody_ok hbody
  case referenceSet =>
    intro ha a
    obtain ⟨t, q, hbody, hexec⟩ := exec_of_accepts (i := .referenceSet c) rfl ha
    dsimp only [referenceSetBody] at hbody
    repeat replace hbody := of_check hbody
    obtain ⟨data, hdata, hbody⟩ := bind_ok.1 hbody
    obtain ⟨rfl, rfl⟩ := ok_later.1 (of_check hbody)
    exact ⟨data, hdata, hexec⟩
  case faultReactionSet =>
    intro ha a h
    obtain ⟨t, q, hbody, hexec⟩ := exec_of_accepts (i := .faultReactionSet c) rfl ha
    obtain ⟨rfl, hregion, hcolour, hend, hrelease⟩ := faultReactionSetBody_ok hbody
    refine ⟨fun hop => ?_, fun hop => ?_, fun hop => ?_, fun hop => ?_⟩
    · rw [hregion hop]
      exact hexec
    · rw [hcolour hop]
      exact hexec
    · rw [hend hop]
      exact hexec
    · rw [hrelease hop]
      exact hexec
  case voiceSet =>
    intro ha a
    obtain ⟨t, q, hbody, hexec⟩ := exec_of_accepts (i := .cartoucheVoiceSet c) rfl ha
    obtain ⟨hrelease, hload⟩ := cartoucheVoiceSetBody_ok hbody
    refine ⟨fun hop => ?_, fun hop => ?_⟩
    · obtain ⟨rfl, rfl⟩ := hrelease hop
      exact hexec
    · obtain ⟨data, ps, hdata, hps, rfl, rfl⟩ := hload hop
      exact ⟨data, ps, hdata, hps, hexec⟩

end Sys2Proof.Machine
end

section
/-! SUPPORT and the statements settled. The commands of groups 0x0A and 0x0D, and SERVICE_ENTER (R361 to R364, R418, R428, R432, R521). -/

namespace Sys2Proof.Machine

/-- What an accepted MAINTENANCE_SET answers, by its operation (R363). -/
theorem maintenanceSetBody_ok {c : Cmd} {r : CmdRef} {a t : State} {q : Reply} (h : maintenanceSetBody c r a = .ok (t, q)) :
    let n := c.u8 0x08
    (c.u8 0x09 = 0 → a.modActivity n (fun x => { x with period := c.u32 0x0C }) = t ∧ Reply.done eOk [] = q) ∧
    (c.u8 0x09 = 1 → a.activityDue n (some r) = t ∧ Reply.later = q) ∧
    (c.u8 0x09 = 2 → a.modActivity n (fun x => { x with enabled := false }) = t ∧ Reply.done eOk [] = q) ∧
    (c.u8 0x09 = 3 → a.modActivity n (fun x => { x with enabled := true }) = t ∧ Reply.done eOk [] = q) := by
  dsimp only [maintenanceSetBody] at h
  repeat replace h := of_check h
  intro n
  split at h
  next => exact ⟨fun _ => okDone_ok.1 h, by omega, by omega, by omega⟩
  next => exact ⟨by omega, fun _ => ok_later.1 (of_check h), by omega, by omega⟩
  next => exact ⟨by omega, by omega, fun _ => okDone_ok.1 (of_check h), by omega⟩
  next hperiod hrun hoff =>
    exact ⟨fun hop => absurd hop hperiod, fun hop => absurd hop hrun, fun hop => absurd hop hoff, fun _ => okDone_ok.1 h⟩

/-- What an accepted MODE_SET answers: nothing to do, or the change armed (R418). -/
theorem modeSetBody_ok {c : Cmd} {r : CmdRef} {a t : State} {q : Reply} (h : modeSetBody c r a = .ok (t, q)) :
    let m := modeOfCode (c.u8 0x08)
    (m = a.power.mode → a = t ∧ Reply.done eOk [] = q) ∧
    (m ≠ a.power.mode → State.armMode m 1 (some r)
      { a with power := { a.power with tellForced := false, tellForcedDue := false } } = t ∧ Reply.later = q) := by
  dsimp only [modeSetBody] at h
  repeat replace h := of_check h
  intro m
  by_cases hsame : m = a.power.mode
  · rw [if_pos hsame] at h
    exact ⟨fun _ => okDone_ok.1 h, fun hne => absurd hsame hne⟩
  · rw [if_neg hsame] at h
    exact ⟨fun heq => absurd heq hsame, fun _ => ok_later.1 (of_check (of_check h))⟩

/-- Settles O8: each body past its checks, with MAINTENANCE_SET by its operation and MODE_SET by its target. -/
theorem powerCommandsComplete : Obligations.PowerCommandsComplete := by
  unfold Obligations.PowerCommandsComplete
  intro c s
  refine ⟨?headPrioritySet, ?powerPolicySet, ?maintenanceSet, ?governorQuery, ?modeSet, ?clockPlanSet, ?clockMeasure,
    ?serviceEnter⟩
  case headPrioritySet =>
    refine fun ha => exec_of_done rfl ha fun t q hbody => ?_
    dsimp only [headPrioritySetBody] at hbody
    repeat replace hbody := of_check hbody
    exact okDone_ok.1 hbody
  case powerPolicySet =>
    refine fun ha => exec_of_done rfl ha fun t q hbody => ?_
    dsimp only [powerPolicySetBody] at hbody
    repeat replace hbody := of_check hbody
    exact okDone_ok.1 hbody
  case maintenanceSet =>
    intro ha a n
    obtain ⟨t, q, hbody, hexec⟩ := exec_of_accepts (i := .maintenanceSet c) rfl ha
    obtain ⟨hperiod, hrun, hoff, hon⟩ := maintenanceSetBody_ok hbody
    have answers {u : State} {p : Reply} (hout : u = t ∧ p = q) :
        exec (.maintenanceSet c) s = .next (a.answer (c.ref 0x0A03) (.ok (u, p))).advanced := by
      obtain ⟨rfl, rfl⟩ := hout
      exact hexec
    exact ⟨fun hop => answers (hperiod hop), fun hop => answers (hrun hop), fun hop => answers (hoff hop),
      fun hop => answers (hon hop)⟩
  case governorQuery => exact fun ha => exec_of_done rfl ha fun t q hbody => okDone_ok.1 (of_check hbody)
  case modeSet =>
    intro ha a m
    obtain ⟨t, q, hbody, hexec⟩ := exec_of_accepts (i := .modeSet c) rfl ha
    obtain ⟨hsame, hother⟩ := modeSetBody_ok hbody
    refine ⟨fun hm => ?_, fun hm => ?_⟩
    · obtain ⟨rfl, rfl⟩ := hsame hm
      exact hexec
    · obtain ⟨rfl, rfl⟩ := hother hm
      exact hexec
  case clockPlanSet =>
    refine fun ha => exec_of_later rfl ha fun t q hbody => ?_
    dsimp only [clockPlanSetBody] at hbody
    repeat replace hbody := of_check hbody
    exact ok_later.1 hbody
  case clockMeasure =>
    refine fun ha => exec_of_later rfl ha fun t q hbody => ?_
    dsimp only [clockMeasureBody] at hbody
    repeat replace hbody := of_check hbody
    split at hbody
    next hrunning => exact (ok_later.1 hbody).imp_left (if_pos hrunning).trans
    next hidle => exact (ok_later.1 hbody).imp_left (if_neg hidle).trans
  case serviceEnter =>
    refine fun ha => exec_of_later rfl ha fun t q hbody => ?_
    dsimp only [serviceEnterBody] at hbody
    repeat replace hbody := of_check hbody
    exact ok_later.1 hbody

end Sys2Proof.Machine
end

section
/-! SUPPORT and the statements settled. The commands of group 0x0B (R369 to R394). -/

namespace Sys2Proof.Machine

/-- An accepted audio command joins those that wait for a boundary of its course (R368). -/
theorem audioWait_ok {s t : State} {r : CmdRef} {k : Nat} {m : Option Meridian × Bool} {ws : List Word} {x : AudioChange}
    {q : Reply} : s.audioWait r k m ws x = .ok (t, q) ↔
      State.withWait ⟨r, k, m.1, m.2, ws, x⟩ s = t ∧ Reply.later = q :=
  ok_later

/-- A tenant's handle names the voice of its low half, which is the tenant's, in the generation of its high half (R369). -/
theorem needVoice_ok_owned {a : State} {t h v : Nat} (hplain : t ≠ 1 ∨ h < 0x100 ∨ 0x103 < h)
    (hv : a.needVoice t h = .ok v) :
    (a.voice v).owner = some t ∧ (a.voice v).gen = h / 0x10000 ∧ v = h % 0x10000 := by
  unfold State.needVoice at hv
  rw [if_neg (by omega)] at hv
  dsimp only at hv
  split at hv
  next howned =>
    cases hv
    exact ⟨howned.2.1, howned.2.2.1, rfl⟩
  next => cases hv

/-- A changed error leaves a result as it is. -/
theorem mapError_ok {α ε ε' : Type} {x : Except ε α} {f : ε → ε'} {b : α} : x.mapError f = .ok b ↔ x = .ok b := by
  cases x with
  | error e => exact ⟨nofun, nofun⟩
  | ok a => simp [Except.mapError]

/-- What an accepted VOICE_CREATE answers: the voice made, or its end noted (R370). -/
theorem voiceCreateBody_ok {c : Cmd} {r : CmdRef} {a t : State} {q : Reply} (h : voiceCreateBody c r a = .ok (t, q)) :
    (c.u8 0x08 = 0 → ∃ v, (a.voice v).owner = none ∧ (c.u8 0x0B ≠ 0xFF → v = c.u8 0x0B) ∧
      (c.u8 0x0B = 0xFF → lowest 96 (fun v => (a.voice v).owner.isNone) = some v) ∧
      let g := (IMap.get a.audio.gens 0 v + 1) % 0x10000
      let x : Voice := { gen := g, owner := some c.tenant, kind := c.u8 0x09, course := c.u8 0x0A }
      State.withWait ⟨r, c.u8 0x0A, none, false, [word (x.handle v)], .note⟩
        (a.modAudio (fun u => { u with voices := IMap.put u.voices v x, gens := IMap.put u.gens v g })) = t ∧
      Reply.later = q) ∧
    (c.u8 0x08 = 1 → ∃ v, (a.voice v).owner = some c.tenant ∧ (a.voice v).gen = c.u32 0x0C / 0x10000 ∧
      v = c.u32 0x0C % 0x10000 ∧
      State.withWait ⟨r, (a.voice v).course, none, false, [], .destroy v⟩
        (a.modVoice v (fun x => { x with freeDue := true })) = t ∧ Reply.later = q) := by
  dsimp only [voiceCreateBody] at h
  replace h := of_check h
  by_cases hend : c.u8 0x08 = 1
  · rw [if_pos hend] at h
    obtain ⟨⟨⟩, hplain, h⟩ := bind_ok.1 (of_check h)
    obtain ⟨v, hv, h⟩ := bind_ok.1 h
    have hplain' : c.tenant ≠ 1 ∨ c.u32 0x0C < 0x100 ∨ 0x103 < c.u32 0x0C := by
      simpa [or_assoc] using need_ok.1 hplain
    obtain ⟨howner, hgen, hlow⟩ := needVoice_ok_owned hplain' (mapError_ok.1 hv)
    exact ⟨by omega, fun _ => ⟨v, howner, hgen, hlow, audioWait_ok.1 h⟩⟩
  · rw [if_neg hend] at h
    repeat replace h := of_check h
    refine ⟨fun _ => ?_, fun hop => absurd hop hend⟩
    split at h
    next => cases h
    next v hv =>
      obtain ⟨hany, hnamed, hfree⟩ := pick_ok hv
      exact ⟨v, by simpa using hfree, hnamed, hany, audioWait_ok.1 h⟩

/-- What an accepted BUS_SET answers: the bus freed, its settings changed, or a free bus taken (R379). -/
theorem busSetBody_ok {c : Cmd} {r : CmdRef} {a t : State} {q : Reply} (h : busSetBody c r a = .ok (t, q)) :
    let n := c.u8 0x09
    let g := busSetOf c
    let mine := n ≤ 15 ∧ (a.busPlan? n).map Prod.fst = some c.tenant
    Reply.later = q ∧ ∃ m, a.audioTime (bitOf (c.u8 0x0C) 3) (c.u64 0x20) 0x20 = .ok m ∧
    (c.u8 0x08 = 1 → ∃ k, a.busPlan? n = some (c.tenant, k) ∧
      State.withWait ⟨r, k.course, m.1, m.2, [word n], .freeBus n⟩ (a.modBus n (fun x => { x with freeDue := true })) = t) ∧
    (c.u8 0x08 = 0 →
      (mine → State.withWait ⟨r, g.course, m.1, m.2, [word n], .bus n g⟩ (a.modBus n (fun x => { x with plan := g })) = t) ∧
      (¬mine → ∃ b, (a.bus b).owner = none ∧ (n ≠ 0xFF → b = n) ∧
        (n = 0xFF → lowest 16 (fun b => (a.bus b).owner.isNone) = some b) ∧
        State.withWait ⟨r, g.course, m.1, m.2, [word b], .bus b g⟩
          (a.modBus b (fun x => { owner := some c.tenant, plan := g, set := g, capture := x.capture })) = t)) := by
  dsimp only [busSetBody] at h
  repeat replace h := of_check h
  intro n g mine
  by_cases hend : c.u8 0x08 = 1
  · rw [if_pos hend] at h
    obtain ⟨m, hm, h⟩ := bind_ok.1 (of_check h)
    split at h
    next => cases h
    next o k hplan =>
      obtain ⟨⟨⟩, howner, -⟩ := bind_ok.1 h
      obtain rfl : o = c.tenant := by simpa using need_ok.1 howner
      obtain ⟨ht, hq⟩ := audioWait_ok.1 (of_check h)
      exact ⟨hq, m, hm, fun _ => ⟨k, hplan, ht⟩, by omega⟩
  · rw [if_neg hend] at h
    repeat replace h := of_check h
    obtain ⟨m, hm, h⟩ := bind_ok.1 h
    repeat replace h := of_check h
    split at h
    next => cases h
    next b hb =>
      repeat replace h := of_check h
      obtain ⟨ht, hq⟩ := audioWait_ok.1 h
      refine ⟨hq, m, hm, fun hop => absurd hop hend, fun _ => ⟨fun hmine => ?_, fun hother => ?_⟩⟩
      · have htest := (Bool.decide_and ..).symm.trans (decide_eq_true hmine)
        simp only [n] at htest
        simp only [htest, if_true, Option.some.injEq] at hb ht
        subst hb
        exact ht
      · have htest := (Bool.decide_and ..).symm.trans (decide_eq_false hother)
        simp only [n] at htest
        simp only [htest, Bool.false_eq_true, if_false] at hb ht
        obtain ⟨hany, hnamed, hfree⟩ := pick_ok hb
        exact ⟨b, by simpa using hfree, hnamed, hany, ht⟩

/-- What an accepted BRIDGE_SET answers: the lane freed, its settings changed, or a free lane taken (R383). -/
theorem bridgeSetBody_ok {c : Cmd} {r : CmdRef} {a t : State} {q : Reply} (h : bridgeSetBody c r a = .ok (t, q)) :
    let n := c.u8 0x09
    let w (k : Nat) (l : Nat) (x : AudioChange) : AudioWait := ⟨r, k, none, false, [word l], x⟩
    Reply.later = q ∧
    (c.u8 0x08 = 1 → ∃ x, a.lanePlan? n = some x ∧ x.owner = some c.tenant ∧
      State.withWait (w (a.bus x.dstBus).plan.course n (.freeLane n)) a = t) ∧
    (c.u8 0x08 = 0 → ∃ l d, a.needBus c.tenant (c.u8 0x0E) 0x0E = .ok d ∧ (n ≠ 0xFF → l = n) ∧
      let mine := n ≤ 31 ∧ (a.lanePlan? n).any (fun x => decide (x.owner = some c.tenant)) = true
      (mine → State.withWait (w d.course l (.lane l (laneOf c))) (a.modLane l id) = t) ∧
      (¬mine → (a.lane l).owner = none ∧ (n = 0xFF → lowest 32 (fun l => (a.lane l).owner.isNone) = some l) ∧
        State.withWait (w d.course l (.lane l (laneOf c))) (a.modLane l (fun _ => { laneOf c with dead := true })) = t)) := by
  dsimp only [bridgeSetBody] at h
  repeat replace h := of_check h
  intro n w
  by_cases hend : c.u8 0x08 = 1
  · rw [if_pos hend] at h
    repeat replace h := of_check h
    split at h
    next => cases h
    next x hplan =>
      obtain ⟨⟨⟩, howner, h⟩ := bind_ok.1 h
      obtain ⟨ht, hq⟩ := audioWait_ok.1 h
      exact ⟨hq, fun _ => ⟨x, hplan, by simpa using need_ok.1 howner, ht⟩, by omega⟩
  · rw [if_neg hend] at h
    repeat replace h := of_check h
    obtain ⟨d, hd, h⟩ := bind_ok.1 h
    repeat replace h := of_check h
    split at h
    next => cases h
    next l hl =>
      repeat replace h := of_check h
      obtain ⟨ht, hq⟩ := audioWait_ok.1 h
      refine ⟨hq, fun hop => absurd hop hend, fun _ => ⟨l, d, hd, ?_⟩⟩
      by_cases hmine : n ≤ 31 ∧ (a.lanePlan? n).any (fun x => decide (x.owner = some c.tenant)) = true
      · have htest : (decide (n ≤ 31) && (a.lanePlan? n).any (fun x => decide (x.owner = some c.tenant))) = true := by
          simpa using hmine
        simp only [n] at htest
        simp only [htest, if_true, Option.some.injEq] at hl ht
        exact ⟨fun _ => hl.symm, fun _ => ht, fun hother => absurd hmine hother⟩
      · have htest : (decide (n ≤ 31) && (a.lanePlan? n).any (fun x => decide (x.owner = some c.tenant))) = false := by
          simpa using hmine
        simp only [n] at htest
        simp only [htest, Bool.false_eq_true, if_false] at hl ht
        obtain ⟨hany, hnamed, hfree⟩ := pick_ok hl
        exact ⟨hnamed, fun hin => absurd hin hmine, fun _ => ⟨by simpa using hfree, hany, ht⟩⟩

/-- What an accepted AUDIO_PORT_SET answers, by its operation (R388 to R391). -/
theorem audioPortSetBody_ok {c : Cmd} {r : CmdRef} {a t : State} {q : Reply} (h : audioPortSetBody c r a = .ok (t, q)) :
    let n := c.u8 0x09
    let w (ws : List Word) (k : Nat) (x : AudioChange) : AudioWait := ⟨r, k, none, false, ws, x⟩
    let out := a.tdmPlan true n
    Reply.later = q ∧
    (c.u8 0x08 = 0 → State.withWait (w [word (a.cartMask n)] (c.u8 0x0E)
      (.tdm true n (tdmSet c ((List.range 16).map (fun i =>
        if bitOf (a.cartMask n) i then ((out.map (·.map)).getD []).getD i 0 else c.u16 (0x10 + 2 * i)))))) a = t) ∧
    (c.u8 0x08 = 1 → State.withWait (w [] (c.u8 0x0E) (.tdm false n (tdmSet c []))) a = t) ∧
    (c.u8 0x08 = 2 → State.withWait (w [] (c.u8 0x0E) (.pdm n (c.u8 0x0E))) a = t) ∧
    (c.u8 0x08 = 3 → a.modAudio (fun u =>
      let k (o : AudioClock) : AudioClock :=
        { source := c.u8 0x0A, stream := c.u8 0x0B, relock := o.relock ++ [r], locking := true }
      if n = 1 then { u with clkB := k a.audio.clkB } else { u with clkA := k a.audio.clkA }) = t) ∧
    (c.u8 0x08 = 4 → State.withWait
      (w [] (((out.or (a.tdmPlan false n)).map (·.course)).getD 0) (.portOff n)) a = t) := by
  dsimp only [audioPortSetBody] at h
  repeat replace h := of_check h
  intro n w out
  split at h
  next =>
    repeat replace h := of_check h
    obtain ⟨ht, hq⟩ := audioWait_ok.1 h
    exact ⟨hq, fun _ => ht, by omega, by omega, by omega, by omega⟩
  next =>
    repeat replace h := of_check h
    obtain ⟨ht, hq⟩ := audioWait_ok.1 h
    exact ⟨hq, by omega, fun _ => ht, by omega, by omega, by omega⟩
  next =>
    repeat replace h := of_check h
    obtain ⟨ht, hq⟩ := audioWait_ok.1 h
    exact ⟨hq, by omega, by omega, fun _ => ht, by omega, by omega⟩
  next =>
    repeat replace h := of_check h
    obtain ⟨ht, hq⟩ := ok_later.1 h
    refine ⟨hq, by omega, by omega, by omega, fun _ => ?_, by omega⟩
    by_cases hB : n = 1
    · simp only [n] at hB
      simpa only [n, hB, decide_true, if_true] using ht
    · simp only [n] at hB
      simpa only [n, hB, decide_false, Bool.false_eq_true, if_false] using ht
  next hout hin hpdm hrelock =>
    repeat replace h := of_check h
    obtain ⟨ht, hq⟩ := audioWait_ok.1 h
    exact ⟨hq, fun hop => absurd hop hout, fun hop => absurd hop hin, fun hop => absurd hop hpdm,
      fun hop => absurd hop hrelock, fun _ => ht⟩

/-- What an accepted AVTP_STREAM_SET answers: the stream ended, or set (R392). -/
theorem avtpStreamSetBody_ok {c : Cmd} {r : CmdRef} {a t : State} {q : Reply} (h : avtpStreamSetBody c r a = .ok (t, q)) :
    let key := if c.u8 0x0A = 1 then 16 + c.u8 0x09 else c.u8 0x09
    let w (k : Nat) (x : AudioChange) : AudioWait := ⟨r, k, none, false, [], x⟩
    Reply.later = q ∧
    (c.u8 0x08 = 1 → ∃ x, a.avtpPlan key = some x ∧ State.withWait (w x.course (.avtpOff key)) a = t) ∧
    (c.u8 0x08 = 0 →
      let k := if c.u8 0x0A = 1 then c.u8 0x26
        else (((if c.u8 0x24 ≤ 15 then a.busPlan? (c.u8 0x24) else none).map Prod.snd).map (·.course)).getD 0
      State.withWait (w k (.avtp key (avtpOf c k))) a = t) := by
  dsimp only [avtpStreamSetBody] at h
  repeat replace h := of_check h
  intro key w
  by_cases hend : c.u8 0x08 = 1
  · rw [if_pos hend] at h
    repeat replace h := of_check h
    split at h
    next => cases h
    next x hplan =>
      obtain ⟨ht, hq⟩ := audioWait_ok.1 (of_check h)
      exact ⟨hq, fun _ => ⟨x, hplan, ht⟩, by omega⟩
  · rw [if_neg hend] at h
    repeat replace h := of_check h
    obtain ⟨ht, hq⟩ := audioWait_ok.1 h
    exact ⟨hq, fun hop => absurd hop hend, fun _ => ht⟩

/-- What an accepted AUDIO_CAPTURE_START answers: a stop noted, or the capture begun (R393, R394). -/
theorem audioCaptureStartBody_ok {c : Cmd} {r : CmdRef} {a t : State} {q : Reply}
    (h : audioCaptureStartBody c r a = .ok (t, q)) :
    let b := c.u8 0x09
    Reply.later = q ∧
    (c.u8 0x08 = 1 → a.modACap b (fun k => { k with stop := some (k.stop.getD [] ++ [r]) }) = t) ∧
    (c.u8 0x08 = 0 → ∃ o g, a.busPlan? b = some (o, g) ∧
      State.withWait ⟨r, g.course, none, false, [], .note⟩ (a.modBus b (fun y => { y with
        capture := some { owner := c.tenant, block := c.u16 0x0A, pages := c.u32 0x0C, ring := c.u64 0x10
                          cons := c.u64 0x18 } })) = t) := by
  dsimp only [audioCaptureStartBody] at h
  repeat replace h := of_check h
  intro b
  by_cases hend : c.u8 0x08 = 1
  · rw [if_pos hend] at h
    split at h
    next => cases of_check h
    next k _ =>
      obtain ⟨ht, hq⟩ := ok_later.1 (of_check h)
      exact ⟨hq, fun _ => ht, by omega⟩
  · rw [if_neg hend] at h
    repeat replace h := of_check h
    split at h
    next => cases h
    next o g hplan =>
      repeat replace h := of_check h
      obtain ⟨ht, hq⟩ := audioWait_ok.1 h
      exact ⟨hq, fun hop => absurd hop hend, fun _ => ⟨o, g, hplan, ht⟩⟩

/-- Settles O9: what each operation of each body finds, and the wait it leaves. -/
theorem audioCommandsComplete : Obligations.AudioCommandsComplete := by
  unfold Obligations.AudioCommandsComplete
  intro c s
  refine ⟨?voiceCreate, ?voiceSet, ?voiceStart, ?voiceStop, ?busSet, ?bridgeSet, ?portSet, ?avtpSet, ?captureStart⟩
  case voiceCreate =>
    intro ha a r
    obtain ⟨t, q, hbody, hexec⟩ := exec_of_accepts (i := .voiceCreate c) rfl ha
    obtain ⟨hmake, hend⟩ := voiceCreateBody_ok hbody
    refine ⟨fun hop => ?_, fun hop => ?_⟩
    · obtain ⟨v, hfree, hnamed, hany, rfl, rfl⟩ := hmake hop
      exact ⟨v, hfree, hnamed, hany, hexec⟩
    · obtain ⟨v, howner, hgen, hlow, rfl, rfl⟩ := hend hop
      exact ⟨v, hexec, howner, hgen, hlow⟩
  case voiceSet =>
    intro ha a m
    obtain ⟨t, q, hbody, hexec⟩ := exec_of_accepts (i := .voiceSet c) rfl ha
    obtain ⟨⟨v, at_, source⟩, hchecks, hbody⟩ := bind_ok.1 hbody
    obtain ⟨rfl, rfl⟩ := audioWait_ok.1 hbody
    exact ⟨v, at_, source, hchecks, hexec⟩
  case voiceStart =>
    intro ha a
    obtain ⟨t, q, hbody, hexec⟩ := exec_of_accepts (i := .voiceStart c) rfl ha
    dsimp only [voiceStartBody] at hbody
    obtain ⟨v, hv, hbody⟩ := bind_ok.1 (of_check (of_check hbody))
    obtain ⟨at_, htime, hbody⟩ := bind_ok.1 hbody
    obtain ⟨rfl, rfl⟩ := audioWait_ok.1 (of_check hbody)
    exact ⟨v, at_, hv, htime, hexec⟩
  case voiceStop =>
    intro ha a
    obtain ⟨t, q, hbody, hexec⟩ := exec_of_accepts (i := .voiceStop c) rfl ha
    dsimp only [voiceStopBody] at hbody
    obtain ⟨v, hv, hbody⟩ := bind_ok.1 (of_check (of_check (of_check hbody)))
    obtain ⟨at_, htime, hbody⟩ := bind_ok.1 hbody
    obtain ⟨rfl, rfl⟩ := audioWait_ok.1 (of_check hbody)
    exact ⟨v, at_, hv, htime, hexec⟩
  case busSet =>
    intro ha a n
    obtain ⟨t, q, hbody, hexec⟩ := exec_of_accepts (i := .busSet c) rfl ha
    obtain ⟨rfl, m, hm, hend, hset⟩ := busSetBody_ok hbody
    refine ⟨m, hm, fun hop => ?_, fun hop => ⟨fun hmine => ?_, fun hother => ?_⟩⟩
    · obtain ⟨k, hplan, rfl⟩ := hend hop
      exact ⟨k, hplan, hexec⟩
    · obtain rfl := (hset hop).1 hmine
      exact hexec
    · obtain ⟨b, hfree, hnamed, hany, rfl⟩ := (hset hop).2 hother
      exact ⟨b, hfree, hnamed, hany, hexec⟩
  case bridgeSet =>
    intro ha a n w
    obtain ⟨t, q, hbody, hexec⟩ := exec_of_accepts (i := .bridgeSet c) rfl ha
    obtain ⟨rfl, hend, hset⟩ := bridgeSetBody_ok hbody
    refine ⟨fun hop => ?_, fun hop => ?_⟩
    · obtain ⟨x, hplan, howner, rfl⟩ := hend hop
      exact ⟨x, hplan, howner, hexec⟩
    · obtain ⟨l, d, hd, hnamed, hmine, hother⟩ := hset hop
      refine ⟨l, d, hd, hnamed, fun hin => ?_, fun hout => ?_⟩
      · obtain rfl := hmine hin
        exact hexec
      · obtain ⟨hfree, hany, rfl⟩ := hother hout
        exact ⟨hfree, hany, hexec⟩
  case portSet =>
    intro ha a n w out
    obtain ⟨t, q, hbody, hexec⟩ := exec_of_accepts (i := .audioPortSet c) rfl ha
    obtain ⟨rfl, hout, hin, hpdm, hrelock, hoff⟩ := audioPortSetBody_ok hbody
    have answers {u : State} (hu : u = t) : exec (.audioPortSet c) s = .next u.advanced := hu ▸ hexec
    exact ⟨fun hop => answers (hout hop), fun hop => answers (hin hop), fun hop => answers (hpdm hop),
      fun hop => answers (hrelock hop), fun hop => answers (hoff hop)⟩
  case avtpSet =>
    intro ha a key w
    obtain ⟨t, q, hbody, hexec⟩ := exec_of_accepts (i := .avtpStreamSet c) rfl ha
    obtain ⟨rfl, hend, hset⟩ := avtpStreamSetBody_ok hbody
    refine ⟨fun hop => ?_, fun hop => ?_⟩
    · obtain ⟨x, hplan, rfl⟩ := hend hop
      exact ⟨x, hplan, hexec⟩
    · obtain rfl := hset hop
      exact hexec
  case captureStart =>
    intro ha a b
    obtain ⟨t, q, hbody, hexec⟩ := exec_of_accepts (i := .audioCaptureStart c) rfl ha
    obtain ⟨rfl, hend, hstart⟩ := audioCaptureStartBody_ok hbody
    refine ⟨fun hop => ?_, fun hop => ?_⟩
    · obtain rfl := hend hop
      exact hexec
    · obtain ⟨o, g, hplan, rfl⟩ := hstart hop
      exact ⟨o, g, hplan, hexec⟩

end Sys2Proof.Machine
end

section
/-! SUPPORT and the statements settled. The commands of groups 0x0C and 0x0E (R401 to R410, R444 to R456). -/

namespace Sys2Proof.Machine

/-- What an accepted WAKE_SOURCE_SET answers, by its source (R410). -/
theorem wakeSourceSetBody_ok {c : Cmd} {r : CmdRef} {a t : State} {q : Reply} (h : wakeSourceSetBody c r a = .ok (t, q)) :
    let w : WakeSource := { enable := c.u8 0x09 = 1, mode := c.u8 0x0A }
    let put (w : WakeSource) : State := a.modPeg (fun g => { g with sources := IMap.put g.sources (c.u8 0x08) w })
    Reply.done eOk [] = q ∧
    (c.u8 0x08 = 2 → put { w with cls := c.u8 0x0C, threshold := c.u8 0x0D, frames := c.u8 0x0E } = t) ∧
    (c.u8 0x08 = 3 → a.modPeg (fun g => { g with slots := IMap.put g.slots (c.u8 0x0B) { w with pin := c.u16 0x0C } }) = t) ∧
    (c.u8 0x08 = 6 → put { w with
      mac := c.u8 0x0C, ethType := c.u16 0x0E, dest := c.bytes 0x10 6, patOff := c.u16 0x16
      pattern := c.bytes 0x18 16 } = t) ∧
    (c.u8 0x08 = 1 ∨ c.u8 0x08 = 4 ∨ c.u8 0x08 = 5 ∨ c.u8 0x08 = 7 → put w = t) := by
  dsimp only [wakeSourceSetBody] at h
  repeat replace h := of_check h
  intro w put
  split at h
  next =>
    obtain ⟨ht, hq⟩ := okDone_ok.1 (of_check (of_check h))
    exact ⟨hq, fun _ => ht, by omega, by omega, by omega⟩
  next =>
    obtain ⟨ht, hq⟩ := okDone_ok.1 (of_check (of_check h))
    exact ⟨hq, by omega, fun _ => ht, by omega, by omega⟩
  next =>
    obtain ⟨ht, hq⟩ := okDone_ok.1 (of_check h)
    exact ⟨hq, by omega, by omega, fun _ => ht, by omega⟩
  next hscore hpin hframe =>
    obtain ⟨ht, hq⟩ := okDone_ok.1 h
    exact ⟨hq, fun hop => absurd hop hscore, fun hop => absurd hop hpin, fun hop => absurd hop hframe, fun _ => ht⟩

/-- What an accepted LISTEN_PROGRAM_LOAD answers: the program stopped, or in place (R401). -/
theorem listenProgramLoadBody_ok {c : Cmd} {r : CmdRef} {a t : State} {q : Reply}
    (h : listenProgramLoadBody c r a = .ok (t, q)) :
    Reply.done eOk [] = q ∧
    (c.u8 0x08 = 1 → a.modPeg (fun g => { g with running := false, idle := false, pending := [] }) = t) ∧
    (c.u8 0x08 = 0 → ∃ code init, readFor a c.tenant (c.u64 0x10) (c.u32 0x0C) 0x10 = .ok code ∧
      readFor a c.tenant (c.u64 0x20) (c.u32 0x18) 0x20 = .ok init ∧
      ((a.noteAssetRead c.tenant (c.u64 0x10) (c.u32 0x0C)).noteAssetRead c.tenant
        (c.u64 0x20) (c.u32 0x18)).modPeg (fun g => { g with
          running := true, idle := false, pending := [], code := Mem.write g.code 0 code, codeSize := c.u32 0x0C
          data := Mem.write [] 0 init, regs := { pc := word (fieldU code 0 4) } }) = t) := by
  dsimp only [listenProgramLoadBody] at h
  repeat replace h := of_check h
  by_cases hstop : c.u8 0x08 = 1
  · rw [if_pos hstop] at h
    obtain ⟨ht, hq⟩ := okDone_ok.1 (of_check h)
    exact ⟨hq, fun _ => ht, by omega⟩
  · rw [if_neg hstop] at h
    repeat replace h := of_check h
    obtain ⟨code, hcode, h⟩ := bind_ok.1 h
    obtain ⟨init, hinit, h⟩ := bind_ok.1 h
    obtain ⟨ht, hq⟩ := okDone_ok.1 h
    exact ⟨hq, fun hop => absurd hop hstop, fun _ => ⟨code, init, hcode, hinit, ht⟩⟩

/-- What an accepted COMPARE_SET answers: the channel freed, or set (R444). -/
theorem compareSetBody_ok {c : Cmd} {r : CmdRef} {a t : State} {q : Reply} (h : compareSetBody c r a = .ok (t, q)) :
    let ch := c.u8 0x09
    let fl := c.u8 0x0A
    (c.u8 0x08 = 1 → a.putCompare ch {} = t ∧ Reply.done eOk ([word ch] ++ words64 (a.compareCh ch).value) = q) ∧
    (c.u8 0x08 = 0 → ∃ n, ((a.compareCh n).owner = none ∨ (a.compareCh n).owner = some c.tenant) ∧ (ch ≠ 0xFF → n = ch) ∧
      (ch = 0xFF → lowest 56 (fun n => (a.compareCh n).owner.isNone) = some n) ∧
      let v : Meridian := BitVec.ofNat 64 (c.u64 0x10) + (if bitOf fl 2 then a.now else 0)
      a.putCompare n
        { owner := some c.tenant, event := bitOf fl 0, pin := if bitOf fl 1 then some (c.u8 0x0B, c.u16 0x0C) else none
          value := v, period := c.u64 0x18, armed := true } = t ∧ Reply.done eOk ([word n] ++ words64 v) = q) := by
  dsimp only [compareSetBody] at h
  repeat replace h := of_check h
  intro ch fl
  by_cases hfree : c.u8 0x08 = 1
  · rw [if_pos hfree] at h
    repeat replace h := of_check h
    exact ⟨fun _ => okDone_ok.1 h, by omega⟩
  · rw [if_neg hfree] at h
    repeat replace h := of_check h
    obtain ⟨⟨n, fresh⟩, hchoice, h⟩ := bind_ok.1 h
    obtain ⟨howner, hnamed, hany⟩ := choose_named hchoice
    exact ⟨fun hop => absurd hop hfree, fun _ => ⟨n, howner, hnamed, hany, okDone_ok.1 h⟩⟩

/-- What an accepted CAPTURE_CHANNEL_SET answers: the channel freed, or set (R449). -/
theorem captureChannelSetBody_ok {c : Cmd} {r : CmdRef} {a t : State} {q : Reply}
    (h : captureChannelSetBody c r a = .ok (t, q)) :
    let ch := c.u8 0x09
    (c.u8 0x08 = 1 → a.setCapture ch {} = t ∧ Reply.done eOk [word ch] = q) ∧
    (c.u8 0x08 = 0 → ∃ n, ((a.captureCh n).owner = none ∨ (a.captureCh n).owner = some c.tenant) ∧ (ch ≠ 0xFF → n = ch) ∧
      (ch = 0xFF → lowest 32 (fun n => (a.captureCh n).owner.isNone) = some n) ∧
      a.setCapture n
        { owner := some c.tenant, edge := c.u8 0x0A, filter := c.u8 0x0B, pin := c.u16 0x0C, prescale := c.u16 0x0E
          level := (a.pin (c.u16 0x0C)).ball } = t ∧ Reply.done eOk [word n] = q) := by
  dsimp only [captureChannelSetBody] at h
  repeat replace h := of_check h
  intro ch
  by_cases hfree : c.u8 0x08 = 1
  · rw [if_pos hfree] at h
    repeat replace h := of_check h
    exact ⟨fun _ => okDone_ok.1 h, by omega⟩
  · rw [if_neg hfree] at h
    repeat replace h := of_check h
    obtain ⟨⟨n, fresh⟩, hchoice, h⟩ := bind_ok.1 h
    obtain ⟨howner, hnamed, hany⟩ := choose_named hchoice
    exact ⟨fun hop => absurd hop hfree, fun _ => ⟨n, howner, hnamed, hany, okDone_ok.1 h⟩⟩

/-- What an accepted PWM_SET answers: the unit freed or set, at once or, while it runs, at its next cycle (R452, R453). -/
theorem pwmSetBody_ok {c : Cmd} {r : CmdRef} {a t : State} {q : Reply} (h : pwmSetBody c r a = .ok (t, q)) :
    let u := c.u8 0x09
    let runs (n : Nat) : Bool := (a.pwmUnit n).running && (a.pwmUnit n).started
    (c.u8 0x08 = 1 → runs u = true → a.setPwm u { a.pwmUnit u with next := .free (bitOf (c.u8 0x0A) 2) } = t ∧
      Reply.done eOk [word u] = q) ∧
    (c.u8 0x08 = 1 → runs u = false → a.applyPwm u (a.pwmUnit u).freed = t ∧ Reply.done eOk [word u] = q) ∧
    (c.u8 0x08 = 0 →
      let going := u ≠ 0xFF ∧ (a.pwmUnit u).owner = some c.tenant ∧ runs u = true
      (going → a.setPwm u { a.pwmUnit u with next := .set (pwmSetOf c) } = t ∧ Reply.done eOk [word u] = q) ∧
      (¬going → ∃ n, ((a.pwmUnit n).owner = none ∨ (a.pwmUnit n).owner = some c.tenant) ∧ (u ≠ 0xFF → n = u) ∧
        (u = 0xFF → lowest 16 (fun n => (a.pwmUnit n).owner.isNone) = some n) ∧
        a.applyPwm n { owner := some c.tenant, cur := pwmSetOf c, running := (pwmSetOf c).enable
                       trunc := (a.pwmUnit n).trunc } = t ∧ Reply.done eOk [word n] = q)) := by
  dsimp only [pwmSetBody] at h
  repeat replace h := of_check h
  intro u runs
  by_cases hfree : c.u8 0x08 = 1
  · rw [if_pos hfree] at h
    repeat replace h := of_check h
    split at h
    next hruns => exact ⟨fun _ _ => okDone_ok.1 h, fun _ hidle => absurd hruns (Bool.eq_false_iff.1 hidle), by omega⟩
    next hidle => exact ⟨fun _ hruns => absurd hruns hidle, fun _ _ => okDone_ok.1 h, by omega⟩
  · rw [if_neg hfree] at h
    repeat replace h := of_check h
    obtain ⟨⟨n, fresh⟩, hchoice, h⟩ := bind_ok.1 h
    obtain ⟨howner, hnamed, hany⟩ := choose_named hchoice
    obtain ⟨hmine, hfresh⟩ := choose_ok hchoice
    refine ⟨fun hop => absurd hop hfree, fun hop => absurd hop hfree, fun _ => ⟨fun hgoing => ?_, fun hstill => ?_⟩⟩
    · obtain ⟨hu, hu_owner, hruns⟩ := hgoing
      obtain ⟨rfl, rfl⟩ := hmine ⟨hu, hu_owner⟩
      rw [if_pos (by simpa [runs] using hruns)] at h
      exact okDone_ok.1 h
    · refine ⟨n, howner, hnamed, hany, ?_⟩
      rw [if_neg ?_] at h
      · exact okDone_ok.1 h
      · intro hgoing
        by_cases hown : u ≠ 0xFF ∧ (a.pwmUnit u).owner = some c.tenant
        · obtain ⟨rfl, rfl⟩ := hmine hown
          exact hstill ⟨hown.1, hown.2, by simpa [runs] using hgoing⟩
        · simp [(hfresh hown).1] at hgoing

/-- Settles O10: each operation of each body, with the channel chosen and the data read. -/
theorem pegboxAndTimerCommandsComplete : Obligations.PegboxAndTimerCommandsComplete := by
  unfold Obligations.PegboxAndTimerCommandsComplete
  intro c s
  refine ⟨?modelLoad, ?listenProgramLoad, ?wakeSourceSet, ?prerollRead, ?compareSet, ?captureSet, ?pwmSet, ?calendarSet,
    ?alarmSet⟩
  case modelLoad =>
    intro ha a
    obtain ⟨t, q, hbody, hexec⟩ := exec_of_accepts (i := .modelLoad c) rfl ha
    dsimp only [modelLoadBody] at hbody
    repeat replace hbody := of_check hbody
    obtain ⟨image, himage, hbody⟩ := bind_ok.1 hbody
    split at hbody
    next => cases hbody
    next k hk =>
      obtain ⟨rfl, rfl⟩ := ok_later.1 hbody
      exact ⟨image, k, himage, hk, hexec⟩
  case listenProgramLoad =>
    intro ha a
    obtain ⟨t, q, hbody, hexec⟩ := exec_of_accepts (i := .listenProgramLoad c) rfl ha
    obtain ⟨rfl, hstop, hload⟩ := listenProgramLoadBody_ok hbody
    refine ⟨fun hop => ?_, fun hop => ?_⟩
    · obtain rfl := hstop hop
      exact hexec
    · obtain ⟨code, init, hcode, hinit, rfl⟩ := hload hop
      exact ⟨code, init, hcode, hinit, hexec⟩
  case wakeSourceSet =>
    intro ha w put
    obtain ⟨t, q, hbody, hexec⟩ := exec_of_accepts (i := .wakeSourceSet c) rfl ha
    obtain ⟨rfl, hscore, hpin, hframe, hplain⟩ := wakeSourceSetBody_ok hbody
    have answers {u : State} (hu : u = t) :
        exec (.wakeSourceSet c) s = .next (u.completeOk (c.ref 0x0C03) []).advanced := hu ▸ hexec
    exact ⟨fun hop => answers (hscore hop), fun hop => answers (hpin hop), fun hop => answers (hframe hop),
      fun hop => answers (hplain hop)⟩
  case prerollRead =>
    intro ha a r ws
    refine exec_of_wait rfl ha fun t q hbody => ?_
    dsimp only [prerollReadBody] at hbody
    repeat replace hbody := of_check hbody
    obtain ⟨-, hbody⟩ := of_ite_error hbody
    exact ok_wait.1 hbody
  case compareSet =>
    intro ha a r ch fl
    obtain ⟨t, q, hbody, hexec⟩ := exec_of_accepts (i := .compareSet c) rfl ha
    obtain ⟨hfree, hset⟩ := compareSetBody_ok hbody
    refine ⟨fun hop => ?_, fun hop => ?_⟩
    · obtain ⟨rfl, rfl⟩ := hfree hop
      exact hexec
    · obtain ⟨n, howner, hnamed, hany, rfl, rfl⟩ := hset hop
      exact ⟨n, howner, hnamed, hany, hexec⟩
  case captureSet =>
    intro ha a ch
    obtain ⟨t, q, hbody, hexec⟩ := exec_of_accepts (i := .captureChannelSet c) rfl ha
    obtain ⟨hfree, hset⟩ := captureChannelSetBody_ok hbody
    refine ⟨fun hop => ?_, fun hop => ?_⟩
    · obtain ⟨rfl, rfl⟩ := hfree hop
      exact hexec
    · obtain ⟨n, howner, hnamed, hany, rfl, rfl⟩ := hset hop
      exact ⟨n, howner, hnamed, hany, hexec⟩
  case pwmSet =>
    intro ha a r u runs
    obtain ⟨t, q, hbody, hexec⟩ := exec_of_accepts (i := .pwmSet c) rfl ha
    obtain ⟨hending, hfree, hset⟩ := pwmSetBody_ok hbody
    refine ⟨fun hop hruns => ?_, fun hop hidle => ?_, fun hop => ⟨fun hgoing => ?_, fun hstill => ?_⟩⟩
    · obtain ⟨rfl, rfl⟩ := hending hop hruns
      exact hexec
    · obtain ⟨rfl, rfl⟩ := hfree hop hidle
      exact hexec
    · obtain ⟨rfl, rfl⟩ := (hset hop).1 hgoing
      exact hexec
    · obtain ⟨n, howner, hnamed, hany, rfl, rfl⟩ := (hset hop).2 hstill
      exact ⟨n, howner, hnamed, hany, hexec⟩
  case calendarSet =>
    intro ha k
    obtain ⟨t, q, hbody, hexec⟩ := exec_of_accepts (i := .calendarSet c) rfl ha
    dsimp only [calendarSetBody] at hbody
    repeat replace hbody := of_check hbody
    split at hbody
    next hread =>
      obtain ⟨rfl, rfl⟩ := ok_later.1 hbody
      exact ⟨fun _ => hexec, by omega⟩
    next hread =>
      repeat replace hbody := of_check hbody
      obtain ⟨rfl, rfl⟩ := ok_later.1 hbody
      exact ⟨fun hop => absurd hop hread, fun _ => hexec⟩
  case alarmSet =>
    intro ha k
    obtain ⟨t, q, hbody, hexec⟩ := exec_of_accepts (i := .calendarAlarmSet c) rfl ha
    dsimp only [calendarAlarmSetBody] at hbody
    repeat replace hbody := of_check hbody
    split at hbody
    next hclear =>
      obtain ⟨rfl, rfl⟩ := okDone_ok.1 (of_check hbody)
      exact ⟨fun _ => hexec, by omega⟩
    next hclear =>
      repeat replace hbody := of_check hbody
      obtain ⟨rfl, rfl⟩ := okDone_ok.1 hbody
      exact ⟨fun hop => absurd hop hclear, fun _ => hexec⟩

end Sys2Proof.Machine
end

section
/-! SUPPORT and the statements settled. The commands of groups 0x0F, 0x10 and 0x11 (R466 to R481, R490 to R497, R514 to R523). -/

namespace Sys2Proof.Machine

/-- What an accepted DMA_CHANNEL_SET answers: the channel freed, or set (R466). -/
theorem dmaChannelSetBody_ok {c : Cmd} {r : CmdRef} {a t : State} {q : Reply} (h : dmaChannelSetBody c r a = .ok (t, q)) :
    let ch := c.u8 0x09
    (c.u8 0x08 = 1 → a.modDma ch (fun _ => {}) = t ∧ Reply.done eOk [word ch] = q) ∧
    (c.u8 0x08 = 0 → ∃ n, ((a.dmaCh n).owner = none ∨ (a.dmaCh n).owner = some c.tenant) ∧ (ch ≠ 0xFF → n = ch) ∧
      (ch = 0xFF → lowest 48 (fun n => (a.dmaCh n).owner.isNone) = some n) ∧
      a.modDma n (fun _ => { owner := some c.tenant, log2 := c.u8 0x0A, ring := c.u64 0x10, cons := c.u64 0x18 }) = t ∧
      Reply.done eOk [word n] = q) := by
  dsimp only [dmaChannelSetBody] at h
  repeat replace h := of_check h
  intro ch
  by_cases hfree : c.u8 0x08 = 1
  · rw [if_pos hfree] at h
    repeat replace h := of_check h
    exact ⟨fun _ => okDone_ok.1 h, by omega⟩
  · rw [if_neg hfree] at h
    repeat replace h := of_check h
    refine ⟨fun hop => absurd hop hfree, fun _ => ?_⟩
    split at h
    next => cases h
    next n hn =>
      obtain ⟨⟨⟩, howner, -⟩ := bind_ok.1 h
      replace h := okDone_ok.1 (of_check (of_check h))
      refine ⟨n, by simpa using need_ok.1 howner, fun hnamed => ?_, fun hany => ?_, h⟩
      · rw [if_neg hnamed] at hn
        exact (Option.some.inj hn).symm
      · rw [if_pos hany] at hn
        exact hn

/-- What an accepted DMA_SUBMIT answers: the job queued with the descriptors read (R467). -/
theorem dmaSubmitBody_ok {c : Cmd} {r : CmdRef} {a t : State} {q : Reply} (h : dmaSubmitBody c r a = .ok (t, q)) :
    let n := 32 * c.u32 0x0C
    Reply.later = q ∧ ∃ bs, readFor a c.tenant (c.u64 0x10) n 0x10 = .ok bs ∧
      ((a.noteAssetRead c.tenant (c.u64 0x10) n).openBucket c.tenant).modDma (c.u8 0x08) (fun x => { x with
        jobs := x.jobs ++ [⟨r, (chunks 32 bs).map readDescriptor, 0, 0, 0xFFFFFFFF, 0, 0, 0xFFFFFFFF, none⟩]
        state := if x.jobs.isEmpty then (if a.enginesRun then .running else .paused) else x.state }) = t := by
  dsimp only [dmaSubmitBody] at h
  repeat replace h := of_check h
  intro n
  obtain ⟨bs, hbs, h⟩ := bind_ok.1 h
  split at h
  next => cases h
  next =>
    split at h
    next => cases h
    next =>
      obtain ⟨ht, hq⟩ := ok_later.1 h
      exact ⟨hq, bs, hbs, ht⟩

/-- What an accepted PIN_CONFIG_SET answers, by its operation (R491). -/
theorem pinConfigSetBody_ok {c : Cmd} {r : CmdRef} {a t : State} {q : Reply} (h : pinConfigSetBody c r a = .ok (t, q)) :
    let k := c.u8 0x09
    Reply.done eOk [] = q ∧
    (c.u8 0x08 = 0 → ((List.range (c.u8 0x0C)).map (fun i => c.u16 0x0A + i)).foldl (fun s p => s.configPin c p) a = t) ∧
    (c.u8 0x08 = 1 → (blockPins k).foldl State.settlePin (a.modBlock k (fun _ => {
      enabled := true, rate := c.u32 0x14, mode := c.u8 0x18 })) = t) ∧
    (c.u8 0x08 = 2 → (blockPins k).foldl State.settlePin (a.modBlock k (fun _ => {})) = t) := by
  dsimp only [pinConfigSetBody] at h
  replace h := of_check h
  intro k
  by_cases hpins : c.u8 0x08 = 0
  · rw [if_pos hpins] at h
    repeat replace h := of_check h
    obtain ⟨ht, hq⟩ := okDone_ok.1 h
    exact ⟨hq, fun _ => ht, by omega, by omega⟩
  rw [if_neg hpins] at h
  repeat replace h := of_check h
  by_cases hon : c.u8 0x08 = 1
  · rw [if_pos hon] at h
    repeat replace h := of_check h
    obtain ⟨ht, hq⟩ := okDone_ok.1 h
    exact ⟨hq, by omega, fun _ => ht, by omega⟩
  · rw [if_neg hon] at h
    obtain ⟨ht, hq⟩ := okDone_ok.1 (of_check (of_check h))
    exact ⟨hq, fun hop => absurd hop hpins, fun hop => absurd hop hon, fun _ => ht⟩

/-- What an accepted PIN_WRITE answers, by its operation (R493). -/
theorem pinWriteBody_ok {c : Cmd} {r : CmdRef} {a t : State} {q : Reply} (h : pinWriteBody c r a = .ok (t, q)) :
    let half := c.u8 0x0B = 1
    let bank := c.u8 0x0A
    let v := word (c.u32 0x0C)
    (c.u8 0x08 = 0 →
      let w := filterMask bank half v (a.mayWritePin c.tenant)
      a.maskedWrite bank (if c.u8 0x09 = 0 then .out else .oe) half w = t ∧ Reply.done eOk [w >>> 16] = q) ∧
    (c.u8 0x08 = 1 → a.modBlock (c.u8 0x09) (fun b => { b with
      queue := b.queue ++ [⟨r, c.u8 0x0A, c.bytes 0x10 (c.u8 0x0B), c.u8 0x0C⟩] }) = t ∧ Reply.later = q) ∧
    (c.u8 0x08 = 2 →
      let w := filterMask bank half v (fun p => a.setsPin c.tenant p)
      let ps := ((List.range 16).filter (fun i => w.getLsbD (16 + i))).map
        (fun i => 32 * bank + (if half then 16 else 0) + i)
      ps.foldl (fun s p => s.ackPin p) a = t ∧ Reply.done eOk [] = q) := by
  dsimp only [pinWriteBody] at h
  replace h := of_check h
  intro half bank v
  by_cases hserial : c.u8 0x08 = 1
  · rw [if_pos hserial] at h
    repeat replace h := of_check h
    exact ⟨by omega, fun _ => ok_later.1 h, by omega⟩
  rw [if_neg hserial] at h
  repeat replace h := of_check h
  by_cases hmasked : c.u8 0x08 = 0
  · rw [if_pos hmasked] at h
    exact ⟨fun _ => okDone_ok.1 h, by omega, by omega⟩
  · rw [if_neg hmasked] at h
    exact ⟨fun hop => absurd hop hmasked, fun hop => absurd hop hserial, fun _ => okDone_ok.1 h⟩

/-- What the checks of PIN_LOCK find, by its operation (R497). -/
theorem pinLockChecks_ok {c : Cmd} {a t : State} {ws : List Word} (h : pinLockChecks c a = .ok (t, ws)) :
    let b := a.dropArm c.tenant
    (c.u8 0x08 = 0 → { b.fresh.2 with pins := { b.fresh.2.pins with
        arms := ⟨c.tenant, c.u16 0x0A, b.fresh.1 % 0xFFFF + 1, a.now⟩ :: b.fresh.2.pins.arms } } = t ∧
      [word (b.fresh.1 % 0xFFFF + 1)] = ws) ∧
    (c.u8 0x08 = 1 → (lockPins (c.u16 0x0A)).foldl (fun s p => s.modPin p (fun x => { x with locked := true })) b = t ∧
      [] = ws) := by
  dsimp only [pinLockChecks] at h
  repeat replace h := of_check h
  intro b
  by_cases harm : c.u8 0x08 = 0
  · rw [if_pos harm] at h
    repeat replace h := of_check h
    exact ⟨fun _ => Prod.mk.inj (Except.ok.inj h), by omega⟩
  · rw [if_neg harm] at h
    refine ⟨fun hop => absurd hop harm, fun _ => ?_⟩
    split at h
    next => cases h
    next =>
      repeat replace h := of_check h
      exact Prod.mk.inj (Except.ok.inj h)

/-- What an accepted DEBUG_UNLOCK answers: the session closed, or what the token's kind asks for (R514). -/
theorem debugUnlockBody_ok {c : Cmd} {r : CmdRef} {a t : State} {q : Reply} (h : debugUnlockBody c r a = .ok (t, q)) :
    let k := c.bytes 0x40 192
    Reply.done eOk [] = q ∧
    (c.u8 0x08 = 1 → a.modBoot (fun b => { b with
      deviceSession := false, observed := [], cpHalted := false, extest := false }) = t) ∧
    (c.u8 0x08 = 0 → fieldU k 6 1 = 1 → a.modBoot (fun b => { b with deviceSession := true }) = t) ∧
    (c.u8 0x08 = 0 → fieldU k 6 1 = 2 → a.modBoot (fun b => { b with
      lifecycle := .returned, resetDue := some (a.now + 10240000) }) = t) ∧
    (c.u8 0x08 = 0 → fieldU k 6 1 = 3 → a.modBoot (fun b => { b with
      lifecycle := .secured, ownerHash := slice k 0x20 48, resetDue := some (a.now + 10240000) }) = t) := by
  dsimp only [debugUnlockBody] at h
  repeat replace h := of_check h
  intro k
  by_cases hclose : c.u8 0x08 = 1
  · rw [if_pos hclose] at h
    obtain ⟨ht, hq⟩ := okDone_ok.1 (of_check h)
    exact ⟨hq, fun _ => ht, by omega, by omega, by omega⟩
  rw [if_neg hclose] at h
  repeat replace h := of_check h
  split at h
  next hkind =>
    obtain ⟨ht, hq⟩ := okDone_ok.1 h
    exact ⟨hq, fun hop => absurd hop hclose, fun _ _ => ht, fun _ hother => absurd (hkind.symm.trans hother) (by decide),
      fun _ hother => absurd (hkind.symm.trans hother) (by decide)⟩
  next hkind =>
    obtain ⟨ht, hq⟩ := okDone_ok.1 h
    exact ⟨hq, fun hop => absurd hop hclose, fun _ hother => absurd (hkind.symm.trans hother) (by decide),
      fun _ _ => ht, fun _ hother => absurd (hkind.symm.trans hother) (by decide)⟩
  next hsession hreturn =>
    obtain ⟨ht, hq⟩ := okDone_ok.1 h
    exact ⟨hq, fun hop => absurd hop hclose, fun _ hkind => absurd hkind hsession, fun _ hkind => absurd hkind hreturn,
      fun _ _ => ht⟩

/-- What an accepted DEBUG_GRANT answers: the tenant's heads granted, or taken back with their sessions (R518). -/
theorem debugGrantBody_ok {c : Cmd} {r : CmdRef} {a t : State} {q : Reply} (h : debugGrantBody c r a = .ok (t, q)) :
    let m := c.u8 0x09
    let u := c.u16 0x0A
    let old := IMap.get a.boot.grants 0 u
    let put (g : Nat) : State := a.modBoot (fun b => { b with grants := IMap.put b.grants u g })
    (c.u8 0x08 = 0 → put (old ||| m) = t ∧ Reply.done eOk [word (old ||| m)] = q) ∧
    (c.u8 0x08 = 1 → (put (old &&& (0xFF - m))).closeDebugOf u m = t ∧ Reply.done eOk [word (old &&& (0xFF - m))] = q) := by
  dsimp only [debugGrantBody] at h
  repeat replace h := of_check h
  intro m u old put
  by_cases hgrant : c.u8 0x08 = 0
  · simp only [hgrant, if_true] at h
    exact ⟨fun _ => okDone_ok.1 h, by omega⟩
  · simp only [hgrant, if_false] at h
    exact ⟨fun hop => absurd hop hgrant, fun _ => okDone_ok.1 h⟩

/-- Settles O11: each operation of each body; PIN_LOCK also where its checks fail. -/
theorem dmaPinAndDebugCommandsComplete : Obligations.DmaPinAndDebugCommandsComplete := by
  unfold Obligations.DmaPinAndDebugCommandsComplete
  intro c s
  refine ⟨?dmaChannelSet, ?dmaSubmit, ?blitSubmit, ?dmaShareSet, ?pinOwnerSet, ?pinConfigSet, ?pinWrite, ?pinLock,
    ?debugGrant, ?debugUnlock, ?lifecycleQuery⟩
  case dmaChannelSet =>
    intro ha a ch
    obtain ⟨t, q, hbody, hexec⟩ := exec_of_accepts (i := .dmaChannelSet c) rfl ha
    obtain ⟨hfree, hset⟩ := dmaChannelSetBody_ok hbody
    refine ⟨fun hop => ?_, fun hop => ?_⟩
    · obtain ⟨rfl, rfl⟩ := hfree hop
      exact hexec
    · obtain ⟨n, howner, hnamed, hany, rfl, rfl⟩ := hset hop
      exact ⟨n, howner, hnamed, hany, hexec⟩
  case dmaSubmit =>
    intro ha a n
    obtain ⟨t, q, hbody, hexec⟩ := exec_of_accepts (i := .dmaSubmit c) rfl ha
    obtain ⟨rfl, bs, hbs, rfl⟩ := dmaSubmitBody_ok hbody
    exact ⟨bs, hbs, hexec⟩
  case blitSubmit =>
    intro ha a job
    obtain ⟨t, q, hbody, hexec⟩ := exec_of_accepts (i := .blitSubmit c) rfl ha
    dsimp only [blitSubmitBody] at hbody
    repeat replace hbody := of_check hbody
    split at hbody
    next hempty =>
      obtain ⟨rfl, rfl⟩ := okDone_ok.1 hbody
      exact ⟨fun _ => hexec, fun hw hh => (hempty.elim hw hh).elim⟩
    next hsome =>
      obtain ⟨rfl, rfl⟩ := ok_later.1 (of_check hbody)
      exact ⟨fun hempty => absurd hempty hsome, fun _ _ => hexec⟩
  case dmaShareSet =>
    refine fun ha => exec_of_done rfl ha fun t q hbody => ?_
    dsimp only [dmaShareSetBody] at hbody
    repeat replace hbody := of_check hbody
    exact okDone_ok.1 hbody
  case pinOwnerSet =>
    intro ha
    obtain ⟨t, q, hbody, hexec⟩ := exec_of_accepts (i := .pinOwnerSet c) rfl ha
    dsimp only [pinOwnerSetBody] at hbody
    repeat replace hbody := of_check hbody
    split at hbody
    next => cases hbody
    next o ho =>
      repeat replace hbody := of_check hbody
      obtain ⟨rfl, rfl⟩ := okDone_ok.1 hbody
      exact ⟨o, ho, hexec⟩
  case pinConfigSet =>
    intro ha a k
    obtain ⟨t, q, hbody, hexec⟩ := exec_of_accepts (i := .pinConfigSet c) rfl ha
    obtain ⟨rfl, hpins, hon, hoff⟩ := pinConfigSetBody_ok hbody
    have answers {u : State} (hu : u = t) :
        exec (.pinConfigSet c) s = .next (u.completeOk (c.ref 0x1002) []).advanced := hu ▸ hexec
    exact ⟨fun hop => answers (hpins hop), fun hop => answers (hon hop), fun hop => answers (hoff hop)⟩
  case pinWrite =>
    intro ha a r half bank v
    obtain ⟨t, q, hbody, hexec⟩ := exec_of_accepts (i := .pinWrite c) rfl ha
    obtain ⟨hmasked, hserial, hack⟩ := pinWriteBody_ok hbody
    refine ⟨fun hop => ?_, fun hop => ?_, fun hop => ?_⟩
    · obtain ⟨rfl, rfl⟩ := hmasked hop
      exact hexec
    · obtain ⟨rfl, rfl⟩ := hserial hop
      exact hexec
    · obtain ⟨rfl, rfl⟩ := hack hop
      exact hexec
  case pinLock =>
    intro ha a b
    obtain ⟨t, q, hbody, hexec⟩ := exec_of_accepts (i := .pinLock c) rfl ha
    unfold pinLockBody at hbody
    refine ⟨fun hop hok => ?_, fun hop hok => ?_, fun e he => ?_⟩
    · obtain ⟨⟨u, ws⟩, hchecks⟩ := isOk_iff.1 hok
      rw [hchecks] at hbody
      obtain ⟨rfl, rfl⟩ := okDone_ok.1 hbody
      obtain ⟨rfl, rfl⟩ := (pinLockChecks_ok hchecks).1 hop
      exact hexec
    · obtain ⟨⟨u, ws⟩, hchecks⟩ := isOk_iff.1 hok
      rw [hchecks] at hbody
      obtain ⟨rfl, rfl⟩ := okDone_ok.1 hbody
      obtain ⟨rfl, rfl⟩ := (pinLockChecks_ok hchecks).2 hop
      exact hexec
    · rw [he] at hbody
      obtain ⟨rfl, rfl⟩ := Prod.mk.inj (Except.ok.inj hbody)
      exact hexec
  case debugGrant =>
    intro ha a m u old put
    obtain ⟨t, q, hbody, hexec⟩ := exec_of_accepts (i := .debugGrant c) rfl ha
    obtain ⟨hgrant, hrevoke⟩ := debugGrantBody_ok hbody
    refine ⟨fun hop => ?_, fun hop => ?_⟩
    · obtain ⟨rfl, rfl⟩ := hgrant hop
      exact hexec
    · obtain ⟨rfl, rfl⟩ := hrevoke hop
      exact hexec
  case debugUnlock =>
    intro ha a k put
    obtain ⟨t, q, hbody, hexec⟩ := exec_of_accepts (i := .debugUnlock c) rfl ha
    obtain ⟨rfl, hclose, hsession, hreturn, hsecure⟩ := debugUnlockBody_ok hbody
    have answers {u : State} (hu : u = t) :
        exec (.debugUnlock c) s = .next (u.completeOk (c.ref 0x1102) []).advanced := hu ▸ hexec
    exact ⟨fun hop => answers (hclose hop), fun hop hkind => answers (hsession hop hkind),
      fun hop hkind => answers (hreturn hop hkind), fun hop hkind => answers (hsecure hop hkind)⟩
  case lifecycleQuery => exact fun ha => exec_of_done rfl ha fun t q hbody => okDone_ok.1 (of_check hbody)

end Sys2Proof.Machine
end

section
/-! SUPPORT and the statements settled. The doorbell pages, the device page and the mailbox engine (R61 to R78). -/

namespace Sys2Proof.Machine

/-! ### Doorbell writes (R63 to R65) -/

section
variable {s : State} {t : Nat} {v : Word} {m : Mailbox}

theorem writeCmdTail_absent (hm : s.doorbell? t = none) : s.writeCmdTail t v = s := by
  unfold State.writeCmdTail
  rw [hm]

theorem writeCplHead_absent (hm : s.doorbell? t = none) : s.writeCplHead t v = s := by
  unfold State.writeCplHead
  rw [hm]
  exact ite_self s

theorem mboxEnable_absent (hm : s.doorbell? t = none) : s.mboxEnable t = s := by
  unfold State.mboxEnable
  rw [hm]
  exact ite_self s

theorem mboxDisable_absent (hm : s.doorbell? t = none) : s.mboxDisable t = s := by
  unfold State.mboxDisable
  rw [hm]

theorem mboxReset_absent (hm : s.doorbell? t = none) (en : Bool) : s.mboxReset t en = s := by
  unfold State.mboxReset
  rw [hm]

/-- CMD_TAIL within the ring is taken while the mailbox runs or has stopped (R64). -/
theorem writeCmdTail_fits (hm : s.doorbell? t = some m) (hstate : m.state = .running ∨ m.state = .stopped)
    (hfits : (v - m.cmdHead).toNat ≤ m.cmdSize) : s.writeCmdTail t v = s.modMbox t (fun m => { m with cmdTail := v }) := by
  unfold State.writeCmdTail
  rw [hm]
  rcases hstate with hstate | hstate <;> simp only [hstate, if_pos hfits]

/-- A running mailbox stops at a CMD_TAIL beyond the ring (R64). -/
theorem writeCmdTail_beyond (hm : s.doorbell? t = some m) (hstate : m.state = .running)
    (hbeyond : ¬(v - m.cmdHead).toNat ≤ m.cmdSize) : s.writeCmdTail t v = s.stopMbox t eRange false := by
  unfold State.writeCmdTail
  simp only [hm, hstate, if_neg hbeyond]

/-- A CMD_TAIL that no state takes is discarded (R65). -/
theorem writeCmdTail_discarded (hm : s.doorbell? t = some m) (hstate : m.state = .disabled ∨ m.state = .draining ∨
    (m.state = .stopped ∧ ¬(v - m.cmdHead).toNat ≤ m.cmdSize)) : s.writeCmdTail t v = s := by
  unfold State.writeCmdTail
  rw [hm]
  rcases hstate with hstate | hstate | ⟨hstate, hbeyond⟩
  · simp only [hstate]
  · simp only [hstate]
  · simp only [hstate, if_neg hbeyond]

/-- A CPL_HEAD that loses to the part's own change of the same cycle (R10). -/
theorem writeCplHead_lost (hhw : s.hwHas (.cplHead t) = true) : s.writeCplHead t v = s := if_pos hhw

section
variable (hm : s.doorbell? t = some m) (hhw : s.hwHas (.cplHead t) = false)
include hm hhw

theorem writeCplHead_taken (hahead : m.state = .disabled ∨ (v - m.cplHead).toNat ≤ (m.cplTail - m.cplHead).toNat) :
    s.writeCplHead t v = s.modMbox t (fun m => { m with cplHead := v }) := by
  unfold State.writeCplHead
  simp only [hhw, Bool.false_eq_true, if_false, hm]
  cases hstate : m.state with
  | disabled => rfl
  | running | stopped | draining =>
    have hbound := hahead.resolve_left (by simp [hstate])
    simp only [hbound, decide_true, if_true]

/-- A running mailbox stops, its completion ring lost, at a CPL_HEAD out of bounds (R64). -/
theorem writeCplHead_running (hstate : m.state = .running) (hbehind : ¬(v - m.cplHead).toNat ≤ (m.cplTail - m.cplHead).toNat) :
    s.writeCplHead t v = s.stopMbox t eRange true := by
  unfold State.writeCplHead
  simp only [hhw, Bool.false_eq_true, if_false, hm, hstate, hbehind, decide_false]

/-- A mailbox that does not run loses its completion ring at a CPL_HEAD out of bounds (R64). -/
theorem writeCplHead_stopped (hstate : m.state = .stopped ∨ m.state = .draining)
    (hbehind : ¬(v - m.cplHead).toNat ≤ (m.cplTail - m.cplHead).toNat) : s.writeCplHead t v = s.ringLost t eRange := by
  unfold State.writeCplHead
  rcases hstate with hstate | hstate <;>
    simp only [hhw, Bool.false_eq_true, if_false, hm, hstate, hbehind, decide_false]

end

/-- The enable bit does nothing to a mailbox that is not disabled, or where it loses to the part (R10, R65). -/
theorem mboxEnable_ignored (hm : s.doorbell? t = some m) (h : m.state ≠ .disabled ∨ s.hwHas (.mboxEnable t) = true) :
    s.mboxEnable t = s := by
  unfold State.mboxEnable
  rw [hm]
  rcases h with hstate | hhw
  · simp only [if_neg hstate, ite_self]
  · exact if_pos hhw

/-- A disabled mailbox is enabled, or stops at the first check that fails (R63). -/
theorem mboxEnable_disabled (hm : s.doorbell? t = some m) (hstate : m.state = .disabled)
    (hhw : s.hwHas (.mboxEnable t) = false) :
    s.mboxEnable t = match s.enableFault t m with
      | some e => s.stopMbox t e true
      | none => s.modMbox t (fun m => { m with
          cmdHead := 0, cplTail := 0, eventLost := 0, phase := true, state := .running, usable := true }) := by
  unfold State.mboxEnable
  rw [hm, hhw, if_neg Bool.false_ne_true]
  exact if_pos hstate

theorem mboxDisable_drains (hm : s.doorbell? t = some m) (hstate : m.state = .running ∨ m.state = .stopped) :
    s.mboxDisable t = s.modMbox t (fun m => { m with state := .draining }) := by
  unfold State.mboxDisable
  rw [hm]
  exact if_pos hstate

theorem mboxDisable_ignored (hm : s.doorbell? t = some m) (hstate : m.state = .disabled ∨ m.state = .draining) :
    s.mboxDisable t = s := by
  unfold State.mboxDisable
  rw [hm]
  exact if_neg (by rcases hstate with hstate | hstate <;> simp [hstate])

theorem mboxReset_stopped (hm : s.doorbell? t = some m) (hstate : m.state = .stopped) (en : Bool) :
    s.mboxReset t en = s.modMbox t (fun m => { m with state := .draining }) := by
  unfold State.mboxReset
  rw [hm]
  exact if_pos hstate

/-- A reset of a mailbox that has not stopped is the write of its enable bit (R65). -/
theorem mboxReset_other (hm : s.doorbell? t = some m) (hstate : m.state ≠ .stopped) (en : Bool) :
    s.mboxReset t en = if en then s.mboxEnable t else s.mboxDisable t := by
  unfold State.mboxReset
  rw [hm]
  exact if_neg hstate

end

/-- A doorbell row of a part that is awake acts on the page, and is latched by one that sleeps (R425). -/
theorem next_of_awake {s a b : State} (h : s.asleep = false) :
    (.next (if s.asleep then a else b) : Host.Outcome State Fault Refusal) = .next b := by
  rw [h, if_neg Bool.false_ne_true]

/-- Settles O12: latched while the part sleeps, and else one lemma for each write in each state of the mailbox. -/
theorem doorbellRowsComplete : Obligations.DoorbellRowsComplete := by
  unfold Obligations.DoorbellRowsComplete
  intro s dt t v en a
  have act {w x y : State} (hawake : a.asleep = false) (h : x = y) :
      (.next (if a.asleep then w else x) : Host.Outcome State Fault Refusal) = .next y :=
    (next_of_awake hawake).trans (congrArg _ h)
  refine ⟨fun hasleep => ?_, fun hawake => ⟨fun hm => ?_, ?page⟩⟩
  · have latch {x y : State} : (.next (if a.asleep then x else y) : Host.Outcome State Fault Refusal) = .next x :=
      congrArg _ (if_pos hasleep)
    exact ⟨latch, latch, latch, latch, latch⟩
  · exact ⟨act hawake (writeCmdTail_absent hm), act hawake (writeCplHead_absent hm), act hawake (mboxEnable_absent hm),
      act hawake (mboxDisable_absent hm), act hawake (mboxReset_absent hm en)⟩
  case page =>
    intro m hm fits ahead tail head drain
    refine ⟨fun hstate hfits => act hawake (writeCmdTail_fits hm hstate hfits),
      fun hstate hbeyond => act hawake (writeCmdTail_beyond hm hstate hbeyond),
      fun hstate hbeyond => act hawake (writeCmdTail_discarded hm (.inr (.inr ⟨hstate, hbeyond⟩))),
      fun hstate => act hawake (writeCmdTail_discarded hm (hstate.imp_right .inl)),
      fun hhw => act hawake (writeCplHead_lost hhw),
      fun hhw => ⟨fun hahead => act hawake (writeCplHead_taken hm hhw hahead),
        fun hstate hbehind => act hawake (writeCplHead_running hm hhw hstate hbehind),
        fun hstate hbehind => act hawake (writeCplHead_stopped hm hhw hstate hbehind)⟩,
      fun h => act hawake (mboxEnable_ignored hm h),
      fun hstate hhw => ?enable,
      fun hstate => act hawake (mboxDisable_drains hm hstate),
      fun hstate => act hawake (mboxDisable_ignored hm hstate),
      fun hstate => act hawake (mboxReset_stopped hm hstate en),
      fun hstate => ?reset⟩
    case enable =>
      have henable := mboxEnable_disabled hm hstate hhw
      refine ⟨fun hfault => ?_, fun e hfault => ?_⟩
      · rw [hfault] at henable
        exact act hawake henable
      · rw [hfault] at henable
        exact act hawake henable
    case reset =>
      have hreset := mboxReset_other hm hstate en
      cases en
      · exact (act hawake hreset).trans (next_of_awake hawake).symm
      · exact (act hawake hreset).trans (next_of_awake hawake).symm

/-! ### The mailbox engine and the device page (R64 to R78) -/

section
variable {s : State} {t : Nat} {x : Tenant}

/-- A draining mailbox with nothing in flight is disabled, and what it held goes (R65). -/
theorem drainEnd_of_idle (hx : s.tenant? t = some x) (hstate : x.mbox.state = .draining) (hidle : s.inFlight t = 0) :
    s.drainEnd t = ((s.hwMark (.cplHead t)).hwMark (.mboxEnable t)).modMbox t (fun m => { m with
      state := .disabled, cmdTail := 0, cmdHead := 0, cplHead := 0, cplTail := 0, held := [], events := []
      eventLost := word (satInc 0xFFFFFFFF m.eventLost.toNat m.events.length)
      dropped := satInc 0xFFFFFFFF m.dropped m.events.length }) := by
  unfold State.drainEnd
  rw [hx]
  exact if_pos ⟨hstate, hidle⟩

/-- The vector is raised at the count or at the age limit (R76). -/
theorem moderate_of_due (hx : s.tenant? t = some x) (hsome : 1 ≤ x.mbox.sinceIrq)
    (hdue : max 1 (bits x.mbox.irqMod.toNat 7 0) ≤ x.mbox.sinceIrq ∨
      bits x.mbox.irqMod.toNat 31 16 * 1024 ≤ s.since x.mbox.firstAt) :
    s.moderate t = (s.modMbox t (fun m => { m with sinceIrq := 0 })).raiseVector t := by
  unfold State.moderate
  rw [hx]
  exact if_pos ⟨hsome, hdue⟩

/-- The count of a ring's faults leaves the mailbox (R107). -/
theorem tenant_countFault (hx : s.tenant? t = some x) :
    (s.countFault t).tenant? t = some { x with faults := x.faults + 1 } := by
  refine (tenant_modTenant s t t _).trans ?_
  rw [hx, Option.map_some, if_pos rfl]

theorem recordWriteError_disabled (hx : s.tenant? t = some x) (hstate : x.mbox.state = .disabled) :
    s.recordWriteError t = s := by
  unfold State.recordWriteError
  simp only [hx, hstate]

/-- A running mailbox stops at a failed record write (R64). -/
theorem recordWriteError_running (hx : s.tenant? t = some x) (hstate : x.mbox.state = .running) :
    s.recordWriteError t = s.stopMbox t eFault true := by
  unfold State.recordWriteError
  simp only [hx, hstate]

/-- A mailbox that does not run loses its completion ring (R64). -/
theorem recordWriteError_stopped (hx : s.tenant? t = some x) (hstate : x.mbox.state = .stopped ∨ x.mbox.state = .draining) :
    s.recordWriteError t = s.ringLost t eFault := by
  unfold State.recordWriteError
  rcases hstate with hstate | hstate <;> simp only [hx, hstate]

end

/-- Settles O13: a record write by the mailbox's state, a register write by whether the firmware is ready. -/
theorem devicePageAndMailboxEngineRowsComplete : Obligations.DevicePageAndMailboxEngineRowsComplete := by
  unfold Obligations.DevicePageAndMailboxEngineRowsComplete
  intro s dt t v a
  refine ⟨rfl, ?engine, ?ready, ?unready, ?built, ?unbuilt⟩
  case engine =>
    intro x hx
    have hcounted := tenant_countFault hx
    exact ⟨fun hstate hidle => congrArg Host.Outcome.next (drainEnd_of_idle hx hstate hidle),
      fun hsome hdue => congrArg Host.Outcome.next (moderate_of_due hx hsome hdue),
      fun hstate => congrArg Host.Outcome.next (recordWriteError_running hcounted hstate),
      fun hstate => congrArg Host.Outcome.next (recordWriteError_stopped hcounted hstate),
      fun hstate => congrArg Host.Outcome.next (recordWriteError_disabled hcounted hstate)⟩
  case ready =>
    intro hready
    refine ⟨congrArg Host.Outcome.next (if_pos hready), congrArg Host.Outcome.next (if_pos hready), fun hone => ?_,
      fun hzero => ?_⟩
    · exact congrArg Host.Outcome.next (if_pos (by rw [hready, hone]; rfl))
    · exact congrArg Host.Outcome.next (if_neg (by rw [hzero, Bool.and_false]; exact Bool.false_ne_true))
  case unready =>
    intro hunready
    have hnot : ¬a.boot.fwReady = true := by rw [hunready]; exact Bool.false_ne_true
    exact ⟨congrArg Host.Outcome.next (if_neg hnot), congrArg Host.Outcome.next (if_neg hnot),
      congrArg Host.Outcome.next (if_neg (by rw [hunready]; exact Bool.false_ne_true))⟩
  case built => exact fun hbuilt => congrArg Host.Outcome.next (if_pos hbuilt)
  case unbuilt => exact fun hunbuilt => congrArg Host.Outcome.next (if_neg (by rw [hunbuilt]; exact Bool.false_ne_true))

end Sys2Proof.Machine
end

section
/-! SUPPORT and the statements settled. The rows of the compare, capture and PWM channels (R445 to R453), and of held records
(R70). -/

namespace Sys2Proof.Machine

/-! ### Capture (R450, R451) -/

section
variable {x : CaptureCh} {lv : Bool} {now at_ : Meridian} {kind : Nat}

/-- A sample at the accepted level ends the run of samples at the other (R450). -/
theorem sample_steady (h : lv = x.level) : x.sample lv now = { x with runLen := 0 } := if_pos h

/-- A sample at the other level that the filter still holds back (R450). -/
theorem sample_filtered (h : lv ≠ x.level) (hrun : x.runLen < x.filter) :
    x.sample lv now = { x with runLen := x.runLen + 1, runAt := if x.runLen = 0 then now else x.runAt } := by
  unfold CaptureCh.sample
  rw [if_neg h, if_neg (Nat.not_le.2 hrun)]

/-- The sample that completes the filter's run is an edge at the time of the run's first (R450). -/
theorem sample_accepted (h : lv ≠ x.level) (hrun : x.filter ≤ x.runLen) :
    x.sample lv now = ({ x with level := lv, runLen := 0, runAt := if x.runLen = 0 then now else x.runAt } : CaptureCh).acceptEdge
      (if lv then 1 else 2) (if x.runLen = 0 then now else x.runAt) := by
  unfold CaptureCh.sample
  rw [if_neg h]
  exact if_pos hrun

/-- An edge that the channel does not count (R449). -/
theorem acceptEdge_ignored (h : bitOf x.edge (kind - 1) = false) : x.acceptEdge kind at_ = x := by
  unfold CaptureCh.acceptEdge
  rw [h, if_neg Bool.false_ne_true]

/-- An edge between the prescaler's multiples is counted (R450). -/
theorem acceptEdge_counted (h : bitOf x.edge (kind - 1) = true) (hpre : (x.edges + 1) % x.prescale ≠ 0) :
    x.acceptEdge kind at_ = { x with edges := x.edges + 1 } := by
  unfold CaptureCh.acceptEdge
  rw [if_pos h]
  exact if_neg hpre

/-- At a multiple of the prescaler the edge is captured while its queue has room (R451). -/
theorem acceptEdge_captured (h : bitOf x.edge (kind - 1) = true) (hpre : (x.edges + 1) % x.prescale = 0)
    (hroom : x.queue.length < 16) :
    x.acceptEdge kind at_ = { x with edges := x.edges + 1, queue := x.queue ++ [(kind, at_)] } := by
  unfold CaptureCh.acceptEdge
  rw [if_pos h]
  exact (if_pos hpre).trans (if_pos hroom)

/-- A capture that finds its queue full is lost and counted (R451). -/
theorem acceptEdge_lost (h : bitOf x.edge (kind - 1) = true) (hpre : (x.edges + 1) % x.prescale = 0)
    (hfull : 16 ≤ x.queue.length) :
    x.acceptEdge kind at_ = { x with edges := x.edges + 1, dropped := satInc 0xFFFF x.dropped 1, lost := x.lost + 1 } := by
  unfold CaptureCh.acceptEdge
  rw [if_pos h]
  exact (if_pos hpre).trans (if_neg (Nat.not_lt.2 hfull))

end

section
variable {s : State} {n : Nat}

/-- No channel is evaluated off the grid of R445, or while Meridian is stopped. -/
theorem evaluateCompares_still (h : s.time.running = false ∨ s.now.toNat % 8 ≠ 0) : s.evaluateCompares = s :=
  if_neg (by rcases h with hstop | hgrid <;> simp [*])

/-- Nothing is sampled while Meridian is stopped, or for a free channel (R450). -/
theorem captureSample_still (lv : Bool) (h : s.time.running = false ∨ (s.captureCh n).owner = none) :
    s.captureSample n lv = s :=
  if_pos (by simpa using h)

end

/-- The bit of an edge's kind in the channel's edge field (Table 17.3). -/
theorem edgeKind_bit (lv : Bool) : (if lv then 1 else 2) - 1 = if lv then 0 else 1 := by cases lv <;> rfl

/-! ### PWM units (R453) -/

section
variable {u : Pwm} {p : PwmSet} {c : Nat}

theorem advance_counts (hnext : u.next = .none) (hin : c < u.cur.period) : u.advance c = { u with count := c } := by
  unfold Pwm.advance
  simp only [hnext, decide_eq_true_eq, if_neg (Nat.not_le.2 hin)]

theorem advance_wraps (hnext : u.next = .none) (hend : u.cur.period ≤ c) : u.advance c = { u with count := 0 } := by
  unfold Pwm.advance
  simp only [hnext, decide_eq_true_eq, if_pos hend]

/-- A setting that waits is taken as the cycle wraps (R453). -/
theorem advance_takes (hnext : u.next = .set p) (hend : u.cur.period ≤ c) : u.advance c = { u with
    cur := p, next := .none, count := 0, running := p.enable, started := p.enable } := by
  unfold Pwm.advance
  simp only [hnext, decide_eq_true_eq, if_pos hend]

/-- A unit that is being freed goes at once or as its cycle wraps (R452). -/
theorem advance_frees {i : Bool} (hnext : u.next = .free i) (h : i = true ∨ u.cur.period ≤ c) : u.advance c = u.freed := by
  unfold Pwm.advance
  simp only [hnext]
  exact if_pos (by simpa using h)

/-- A change that waits for the wrap leaves the count going on (R452, R453). -/
theorem advance_waits (hnext : u.next = .free false ∨ ∃ p, u.next = .set p ∧ p.immediate = false) (hin : c < u.cur.period) :
    u.advance c = { u with count := c } := by
  have hwrap : decide (u.cur.period ≤ c) = false := decide_eq_false (Nat.not_le.2 hin)
  unfold Pwm.advance
  rcases hnext with hnext | ⟨p, hnext, himm⟩
  · simp only [hnext, hwrap, Bool.or_self, Bool.false_eq_true, if_false]
  · simp only [hnext, hwrap, himm, Bool.false_eq_true, if_false]

theorem cutsShort_of_set (hnext : u.next = .set p) (himm : p.immediate = true) (hin : c < u.cur.period) :
    u.cutsShort c = decide (p.period ≤ c) := by
  unfold Pwm.cutsShort
  simp only [hnext, himm, hin, decide_true, Bool.true_and]

/-- A setting at once whose period the count has reached truncates the cycle (R453). -/
theorem advance_truncates (hnext : u.next = .set p) (himm : p.immediate = true) (hin : c < u.cur.period)
    (hcut : p.period ≤ c) : u.advance c = { u with
      cur := p, next := .none, count := 0, trunc := true, running := p.enable, started := p.enable } := by
  have hshort : u.cutsShort c = true := (cutsShort_of_set hnext himm hin).trans (decide_eq_true hcut)
  have hwrap : decide (u.cur.period ≤ c) = false := decide_eq_false (Nat.not_le.2 hin)
  unfold Pwm.advance
  simp only [hnext, hwrap, himm, hshort, Bool.false_eq_true, if_false, if_true, Bool.or_true, Bool.true_or]

/-- A setting at once whose period lies ahead is taken with the count going on; its tick length waits for the wrap (R453). -/
theorem advance_immediate (hnext : u.next = .set p) (himm : p.immediate = true) (hin : c < u.cur.period)
    (hahead : c < p.period) : u.advance c = { u with
      cur := { p with shift := u.cur.shift }, count := c,
      next := if p.shift = u.cur.shift then .none else .set { p with immediate := false },
      running := p.enable, started := p.enable } := by
  have hshort : u.cutsShort c = false :=
    (cutsShort_of_set hnext himm hin).trans (decide_eq_false (Nat.not_le.2 hahead))
  have hwrap : decide (u.cur.period ≤ c) = false := decide_eq_false (Nat.not_le.2 hin)
  unfold Pwm.advance
  simp only [hnext, hwrap, himm, hshort, Bool.false_eq_true, if_false, if_true, Bool.or_false, Bool.false_or,
    decide_eq_true_eq]

/-- Only a setting at once truncates a cycle, and only before its end (R453). -/
theorem cutsShort_false (h : u.next = .none ∨ (∃ i, u.next = .free i) ∨ (∃ p, u.next = .set p ∧ p.immediate = false) ∨
    u.cur.period ≤ c) : u.cutsShort c = false := by
  unfold Pwm.cutsShort
  rcases h with hnext | ⟨i, hnext⟩ | ⟨p, hnext, himm⟩ | hend
  · simp only [hnext]
  · simp only [hnext]
  · simp only [hnext, himm, Bool.and_false, Bool.false_and]
  · split
    next => rw [decide_eq_false (Nat.not_lt.2 hend), Bool.false_and, Bool.false_and]
    next => rfl

end

section
variable {s : State} {n : Nat}

/-- A stopped Meridian or a unit that does not run: the tick changes nothing (R453). -/
theorem pwmTick_still (h : s.time.running = false ∨ (s.pwmUnit n).running = false) : s.pwmTick n = s :=
  if_pos (by simpa using h)

section
variable (htime : s.time.running = true) (hrun : (s.pwmUnit n).running = true)
include htime hrun

/-- A unit whose start time has come, or that has none, starts its first cycle (R453). -/
theorem pwmTick_starts (hwait : (s.pwmUnit n).started = false)
    (hdue : ∀ t, (s.pwmUnit n).cur.start = some t → 0 ≤ meridianDiff s.now t) :
    s.pwmTick n = (s.setPwm n { s.pwmUnit n with started := true, count := 0 }).drivePwm n := by
  unfold State.pwmTick
  simp only [htime, hrun, hwait, Bool.not_true, Bool.or_self, Bool.false_eq_true, if_false, Bool.not_false, if_true]
  split
  next t hstart => exact if_pos (hdue t hstart)
  next => rfl

/-- A unit waits for its start time (R453). -/
theorem pwmTick_waits {t : Meridian} (hwait : (s.pwmUnit n).started = false) (hstart : (s.pwmUnit n).cur.start = some t)
    (hlater : meridianDiff s.now t < 0) : s.pwmTick n = s := by
  unfold State.pwmTick
  simp only [htime, hrun, hwait, hstart, Bool.not_true, Bool.or_self, Bool.false_eq_true, if_false, Bool.not_false, if_true]
  exact if_neg (Int.not_le.2 hlater)

/-- A unit in its cycle counts on; a truncated cycle sets the unit's flag (R453). -/
theorem pwmTick_counting (hstarted : (s.pwmUnit n).started = true) :
    s.pwmTick n = if (s.pwmUnit n).cutsShort ((s.pwmUnit n).count + 1)
      then (s.applyPwm n ((s.pwmUnit n).advance ((s.pwmUnit n).count + 1))).hwMark (.pwmTrunc n)
      else s.applyPwm n ((s.pwmUnit n).advance ((s.pwmUnit n).count + 1)) := by
  unfold State.pwmTick
  simp only [htime, hrun, hstarted, Bool.not_true, Bool.or_self, Bool.false_eq_true, if_false]

/-- A tick that does not truncate the cycle. -/
theorem pwmTick_whole {y : Pwm} (hstarted : (s.pwmUnit n).started = true)
    (hshort : (s.pwmUnit n).cutsShort ((s.pwmUnit n).count + 1) = false)
    (hnext : (s.pwmUnit n).advance ((s.pwmUnit n).count + 1) = y) : s.pwmTick n = s.applyPwm n y := by
  rw [pwmTick_counting htime hrun hstarted, hshort, if_neg Bool.false_ne_true, hnext]

end
end

/-- Settles O15: one lemma for each branch of a sample and of a tick. -/
theorem timerRowsComplete : Obligations.TimerRowsComplete := by
  unfold Obligations.TimerRowsComplete
  intro s dt n t lv a x u
  refine ⟨?evaluate, ?evaluateNot, ?sample, ?sampleNot, fun h => congrArg Host.Outcome.next (pwmTick_still h), ?tick, ?held,
    ?heldNot⟩
  case evaluate =>
    intro hrun hgrid
    exact congrArg Host.Outcome.next (if_pos (by rw [hrun, hgrid]; rfl))
  case evaluateNot => exact fun hnot => congrArg Host.Outcome.next (evaluateCompares_still hnot)
  case sample =>
    intro hrun howned put
    have hrow {y : CaptureCh} (h : x.sample lv a.now = y) : exec (.captureFilterSample dt n lv) s = .next (put y) := by
      refine congrArg Host.Outcome.next ((if_neg ?_).trans ?_)
      · rw [hrun, Option.isNone_eq_false_iff.2 howned]
        exact Bool.false_ne_true
      · rw [h]
    refine ⟨fun hsame => hrow (sample_steady hsame), fun hother => ?_⟩
    intro since y
    refine ⟨fun hheld => hrow (sample_filtered hother hheld), fun hpassed => ?_⟩
    have hedge := sample_accepted (now := a.now) hother hpassed
    refine ⟨fun hbit => hrow (hedge.trans (acceptEdge_ignored ?_)),
      fun hbit hpre => hrow (hedge.trans (acceptEdge_counted ?_ hpre)),
      fun hbit hpre hroom => hrow (hedge.trans (acceptEdge_captured ?_ hpre hroom)),
      fun hbit hpre hfull => hrow (hedge.trans (acceptEdge_lost ?_ hpre hfull))⟩ <;>
    exact (congrArg _ (edgeKind_bit lv)).trans hbit
  case sampleNot => exact fun hnot => congrArg Host.Outcome.next (captureSample_still lv hnot)
  case tick =>
    intro htime hrun
    refine ⟨fun hwait hdue => ?_, fun hwait at_ hat hlater => ?_, fun hstarted hnone hin => ?_, fun hstarted hnone hend => ?_,
      fun hstarted p hset hend => ?_, fun hstarted i hfree hgo => ?_, fun hstarted hwaits hin => ?_,
      fun hstarted p hset himm hin => ⟨fun hcut => ?_, fun hahead => ?_⟩⟩
    · exact congrArg Host.Outcome.next (pwmTick_starts htime hrun hwait hdue)
    · exact congrArg Host.Outcome.next (pwmTick_waits htime hrun hwait hat hlater)
    · exact congrArg Host.Outcome.next (pwmTick_whole htime hrun hstarted (cutsShort_false (.inl hnone))
        (advance_counts hnone hin))
    · exact congrArg Host.Outcome.next (pwmTick_whole htime hrun hstarted (cutsShort_false (.inl hnone))
        (advance_wraps hnone hend))
    · exact congrArg Host.Outcome.next (pwmTick_whole htime hrun hstarted (cutsShort_false (.inr (.inr (.inr hend))))
        (advance_takes hset hend))
    · exact congrArg Host.Outcome.next (pwmTick_whole htime hrun hstarted (cutsShort_false (.inr (.inl ⟨i, hfree⟩)))
        (advance_frees hfree hgo))
    · have hshort : u.cutsShort (u.count + 1) = false := by
        rcases hwaits with hfree | hset
        · exact cutsShort_false (.inr (.inl ⟨false, hfree⟩))
        · exact cutsShort_false (.inr (.inr (.inl hset)))
      exact congrArg Host.Outcome.next (pwmTick_whole htime hrun hstarted hshort (advance_waits hwaits hin))
    · have hshort := (cutsShort_of_set hset himm hin).trans (decide_eq_true hcut)
      refine congrArg Host.Outcome.next ((pwmTick_counting htime hrun hstarted).trans ((if_pos hshort).trans ?_))
      rw [advance_truncates hset himm hin hcut]
    · have hshort := (cutsShort_of_set hset himm hin).trans (decide_eq_false (Nat.not_le.2 hahead))
      exact congrArg Host.Outcome.next (pwmTick_whole htime hrun hstarted hshort (advance_immediate hset himm hin hahead))
  case held => exact fun hcp => congrArg (fun z => Host.Outcome.next (State.turned z)) (if_pos hcp)
  case heldNot =>
    intro hcp
    exact congrArg (fun z => Host.Outcome.next (State.turned z)) (if_neg (by rw [hcp]; exact Bool.false_ne_true))

end Sys2Proof.Machine
end

section
/-! SUPPORT and the statements settled. The rows of the pins (R488 to R496). -/

namespace Sys2Proof.Machine

section
variable {s : State} {p k u : Nat}

/-- A pin's change is told by what it makes of the pin as it stands. -/
theorem modPin_congr {f g : Pin → Pin} (h : f (s.pin p) = g (s.pin p)) : s.modPin p f = s.modPin p g := by
  unfold State.modPin
  exact congrArg (fun x => ({ s with pins := { s.pins with pin := IMap.put s.pins.pin p x } } : State)) h

@[simp] theorem block_modBlock (s : State) (k : Nat) (f : Block → Block) : (s.modBlock k f).block k = f (s.block k) := by
  unfold State.modBlock State.block
  exact IMap.get_put_same ..

/-- A write to the 16 pins from `first` on changes those that its mask names and that are not locked, and no others (R492). -/
theorem fold_unlocked (s : State) (first : Nat) (v : Word) (f : Nat → Pin → Pin) :
    let t := (List.range 16).foldl (fun s i =>
      if v.getLsbD (16 + i) && !(s.pin (first + i)).locked then s.modPin (first + i) (f i) else s) s
    { t with pins := s.pins } = s ∧ { t.pins with pin := s.pins.pin } = s.pins ∧
    (∀ i, i < 16 → v.getLsbD (16 + i) = true → (s.pin (first + i)).locked = false →
      t.pin (first + i) = f i (s.pin (first + i))) ∧
    (∀ i, i < 16 → v.getLsbD (16 + i) = false ∨ (s.pin (first + i)).locked = true → t.pin (first + i) = s.pin (first + i)) ∧
    (∀ q, q < first ∨ first + 16 ≤ q → t.pin q = s.pin q) := by
  obtain ⟨hin, hout, hframe, hpins⟩ :=
    fold_modPin first (fun i x => v.getLsbD (16 + i) && !x.locked) f (List.range 16) List.nodup_range s
  refine ⟨hframe, hpins, fun i hi hmask hfree => ?_, fun i hi hkept => ?_, fun q hq => hout q fun i hi => ?_⟩
  · exact (hin i (List.mem_range.2 hi)).trans (if_pos (by rw [hmask, hfree]; rfl))
  · exact (hin i (List.mem_range.2 hi)).trans (if_neg (by rcases hkept with hmask | hlocked <;> simp [*]))
  · have := List.mem_range.1 hi
    omega

/-- The coalesced events of a pin are told at the end of their millisecond (R496). -/
theorem coalesceEnd_tells (hcoalesce : (s.pin p).coalesce = true) (hsome : 0 < (s.pin p).count) :
    s.coalesceEnd p = (s.pinEventOut p (s.pin p).lastKind (s.pin p).count (s.pin p).firstAt).modPin p
      (fun x => { x with coalesce := false, count := 0 }) := by
  unfold State.coalesceEnd
  simp only [hcoalesce, hsome, decide_true, Bool.and_self, if_true]

theorem coalesceEnd_silent (h : (s.pin p).coalesce = false ∨ (s.pin p).count = 0) :
    s.coalesceEnd p = s.modPin p (fun x => { x with coalesce := false, count := 0 }) := by
  unfold State.coalesceEnd
  rcases h with hnot | hnone
  · simp only [hnot, Bool.false_and, Bool.false_eq_true, if_false]
  · simp only [hnone, Nat.lt_irrefl, decide_false, Bool.and_false, Bool.false_eq_true, if_false]

/-- A hand-over that ends gives the pin to its newest function (R488). -/
theorem handoverEnd_gives {f : PinFn} (h : (s.pin p).handover = some f) :
    s.handoverEnd p = s.modPin p (fun x => { x with holder := f, handover := none }) := by
  unfold State.handoverEnd
  refine modPin_congr ?_
  simp only [h]

/-- The transfer at the front of a block's queue ends with its outcome's record (R493). -/
theorem serialDone_front {f : Transfer} {rest : List Transfer} (h : (s.block k).queue = f :: rest) (o : SerialOutcome) :
    s.serialDone k o =
      let b := s.modBlock k (fun b => { b with queue := rest })
      match o with
      | .done bs => b.completeOk f.ref (serialWords (bs.take f.read) f.write.length)
      | .nackAddress => b.complete f.ref 0x1003 0x0A (serialWords [] 0)
      | .nackData n => b.complete f.ref 0x1003 0x10 (serialWords [] n)
      | .arbitrationLost n => b.complete f.ref 0x1003 noField (serialWords [] n)
      | .stretched n => b.complete f.ref 0x1003 noField (serialWords [] n) := by
  cases o <;> simp only [State.serialDone, h]

theorem uartByte_deaf (h : s.receives (23 + 4 * u) = false) (b : Byte) : s.uartByte u b = s :=
  if_pos (by rw [h]; simp)

section
variable (hu : u < 2) (hon : (s.block (6 + u)).enabled = true) (hhears : s.receives (23 + 4 * u) = true)
include hu hon hhears

/-- A full receive queue drops the byte (R494). -/
theorem uartByte_full (b : Byte) (hfull : 256 ≤ (s.block (6 + u)).rx.length) :
    s.uartByte u b = s.modBlock (6 + u) (fun k => { k with rxDropped := true }) := by
  unfold State.uartByte
  simp only [hon, hhears, decide_eq_false (Nat.not_le.2 hu), Bool.not_true, Bool.or_self, Bool.false_eq_true, if_false]
  exact if_pos hfull

/-- A byte joins the queue, which is sent once it holds 28 (R494). -/
theorem uartByte_kept (b : Byte) (hroom : (s.block (6 + u)).rx.length < 256) :
    s.uartByte u b = if 27 ≤ (s.block (6 + u)).rx.length
      then (s.modBlock (6 + u) (fun k => { k with rx := k.rx ++ [b] })).uartSend (6 + u)
      else s.modBlock (6 + u) (fun k => { k with rx := k.rx ++ [b] }) := by
  unfold State.uartByte
  simp only [hon, hhears, decide_eq_false (Nat.not_le.2 hu), Bool.not_true, Bool.or_self, Bool.false_eq_true, if_false,
    if_neg (Nat.not_le.2 hroom), block_modBlock, List.length_append, List.length_singleton,
    Nat.succ_le_succ_iff]

end
end

/-- Settles O16: a masked write by what its fold leaves, every other row by its branches. -/
theorem pinRowsComplete : Obligations.PinRowsComplete := by
  unfold Obligations.PinRowsComplete
  intro s dt bank p k u high v o b a x
  refine ⟨?masked, ?enables, fun hcoalesce hsome => congrArg Host.Outcome.next (coalesceEnd_tells hcoalesce hsome),
    fun h => congrArg Host.Outcome.next (coalesceEnd_silent h), fun f hf => congrArg Host.Outcome.next (handoverEnd_gives hf),
    ?serial, fun hdeaf => congrArg Host.Outcome.next (uartByte_deaf hdeaf b), ?byte, ?idle, ?idleEmpty⟩
  case masked =>
    intro reg
    cases reg with
    | out => exact ⟨_, rfl, fold_unlocked a _ v (fun i x => { x with out := v.getLsbD i })⟩
    | oe => exact ⟨_, rfl, fold_unlocked a _ v (fun i x => { x with oe := v.getLsbD i })⟩
  case enables =>
    intro en row hmem
    simp only [List.mem_cons, Prod.mk.injEq, List.not_mem_nil, or_false] at hmem
    rcases hmem with ⟨rfl, rfl⟩ | ⟨rfl, rfl⟩
    · rfl
    · rfl
  case serial =>
    intro f rest hqueue
    exact congrArg (fun z => Host.Outcome.next (State.advanced z)) (serialDone_front hqueue o)
  case byte =>
    intro hu hon hhears kept
    refine ⟨fun hfull => congrArg Host.Outcome.next (uartByte_full hu hon hhears b hfull), fun hfew => ?_, fun hmany hroom => ?_⟩
    · exact congrArg Host.Outcome.next ((uartByte_kept hu hon hhears b (by omega)).trans (if_neg (Nat.not_le.2 hfew)))
    · exact congrArg Host.Outcome.next ((uartByte_kept hu hon hhears b hroom).trans (if_pos hmany))
  case idle =>
    intro hu hsome
    exact congrArg Host.Outcome.next (if_neg (by simp [hu, List.isEmpty_iff, a] at hsome ⊢; exact hsome))
  case idleEmpty =>
    intro hnone
    exact congrArg Host.Outcome.next (if_pos (by rw [hnone, List.isEmpty_nil, Bool.or_true]))

end Sys2Proof.Machine
end

section
/-! SUPPORT and the statements settled. The rows of the DMA and blit engines (R468 to R481). -/

namespace Sys2Proof.Machine

section
variable {s : State} {n : Nat} {j : DmaJob} {js : List DmaJob} {d : Descriptor} {ds : List Descriptor}

/-! ### A descriptor in progress (R468, R474) -/

section
variable (hjobs : (s.dmaCh n).jobs = j :: js) (hdescs : j.descs = d :: ds) (hrun : s.enginesRun = true)
include hjobs hdescs hrun

/-- A request waits while its tenant's bucket does not hold its bytes (R474). -/
theorem dmaGrant_waits (hstate : (s.dmaCh n).state ≠ .ring) (hleft : j.done < d.length)
    (htokens : s.takeTokens n j.ref.tenant (d.nextRun j.done) = none) :
    s.dmaGrant n = s.modDma n (fun x => { x with state := .tokens }) := by
  unfold State.dmaGrant
  simp only [hjobs, hdescs, hrun, htokens, Bool.not_true, Bool.false_eq_true, if_false, hstate, decide_false, Bool.false_or,
    decide_eq_true_eq, if_neg (Nat.not_le.2 hleft)]

/-- A request whose tokens are there is one step of its descriptor (R474). -/
theorem dmaGrant_moves {b : State} (hstate : (s.dmaCh n).state ≠ .ring) (hleft : j.done < d.length)
    (htokens : s.takeTokens n j.ref.tenant (d.nextRun j.done) = some b) :
    s.dmaGrant n = ((b.modDma n (fun x => { x with state := .running })).dmaStep n j d).1 := by
  unfold State.dmaGrant
  simp only [hjobs, hdescs, hrun, htokens, Bool.not_true, Bool.false_eq_true, if_false, hstate, decide_false, Bool.false_or,
    decide_eq_true_eq, if_neg (Nat.not_le.2 hleft)]

/-- A descriptor's remaining requests are made where the bucket covers them, and else it waits for tokens (R474). -/
theorem dmaComplete_of_running (hstate : (s.dmaCh n).state ≠ .ring) :
    s.dmaComplete n = if ((s.bucket j.ref.tenant).credit s.now).covers (d.length - j.done)
      then ((s.setBucket j.ref.tenant ((s.bucket j.ref.tenant).credit s.now)).dmaRest n (d.length / 64 + 3)).closeBucket n
        j.ref.tenant
      else s.modDma n (fun x => { x with state := .tokens }) := by
  unfold State.dmaComplete
  simp only [hjobs, hdescs, hrun, Bool.not_true, hstate, decide_false, Bool.or_self, Bool.false_eq_true, if_false]

/-- A channel that waits for ring space tries again: the record of a stop, or of the descriptor's end (R470). -/
theorem dmaRecheck_of_ring (hstate : (s.dmaCh n).state = .ring) :
    s.dmaRecheck n = j.stopped.elim (s.dmaFinish n j d) (fun place => s.dmaFaultRecord n j d place) := by
  unfold State.dmaRecheck
  simp only [hjobs, hdescs, hrun, hstate, Bool.not_true, ne_eq, not_true_eq_false, decide_false, Bool.or_self,
    Bool.false_eq_true, if_false]
  cases j.stopped <;> rfl

end

/-- What a bucket covers: anything where its rate has no limit, and else what its tokens allow (R474). -/
theorem covers_iff (b : Bucket) (k : Nat) : b.covers k = true ↔ b.rate = 0 ∨ k * 1024 ≤ b.tokens := by
  simp [Bucket.covers]

theorem dmaStep_moved {u : State} {bs : List Byte} (hmove : s.dmaMove j.ref.tenant d j.done (d.nextRun j.done) = (u, bs, none)) :
    (s.dmaStep n j d).1 = u.setJob n { j with
      done := j.done + bs.length, total := j.total + bs.length
      crc := word (crcBytes polyCrc32c j.crc.toNat bs) } := by
  unfold State.dmaStep
  simp only [hmove]

theorem dmaStep_stopped {u : State} {bs : List Byte} {e : AssetFault} {place : Nat}
    (hmove : s.dmaMove j.ref.tenant d j.done (d.nextRun j.done) = (u, bs, some (e, place))) :
    (s.dmaStep n j d).1 = u.dmaStop n { j with
      done := j.done + bs.length, total := j.total + bs.length
      crc := word (crcBytes polyCrc32c j.crc.toNat bs) } d e place := by
  unfold State.dmaStep
  simp only [hmove]

/-- A descriptor that has moved all its bytes has no request left to make (R468). -/
theorem dmaRest_done (hjobs : (s.dmaCh n).jobs = j :: js) (hdescs : j.descs = d :: ds) (hdone : d.length ≤ j.done) (k : Nat) :
    s.dmaRest n (k + 1) = s.dmaFinish n j d := by
  unfold State.dmaRest
  simp only [hjobs, hdescs, if_pos hdone]

@[simp] theorem dmaCh_setBucket (s : State) (t n : Nat) (b : Bucket) : (s.setBucket t b).dmaCh n = s.dmaCh n := rfl

/-! ### Its record (R470 to R472) -/

/-- The record of a stopped descriptor waits for ring space (R470, R471). -/
theorem dmaFaultRecord_noRoom {place : Nat}
    (hput : (s.noteCons n j.ref.tenant).dmaPut n j.ref.tenant (dmaRecord d.tag eFault j.index j.done (d.crcOut j.crc).toNat
      (s.noteCons n j.ref.tenant).now j.ref.index.toNat) = .noRoom) :
    s.dmaFaultRecord n j d place = ((s.noteCons n j.ref.tenant).setJob n { j with stopped := some place }).modDma n
      (fun x => { x with state := .ring }) := by
  unfold State.dmaFaultRecord
  simp only [hput]

/-- The record of a descriptor that asks for one waits for ring space (R470). -/
theorem dmaFinish_noRoom (hrecord : bitOf d.flags 2 = true)
    (hput : (s.noteCons n j.ref.tenant).dmaPut n j.ref.tenant (dmaRecord d.tag eOk j.index d.length (d.crcOut j.crc).toNat
      (s.noteCons n j.ref.tenant).now j.ref.index.toNat) = .noRoom) :
    s.dmaFinish n j d = (s.noteCons n j.ref.tenant).modDma n (fun x => { x with state := .ring }) := by
  unfold State.dmaFinish
  simp only [hrecord, Bool.true_or, if_true, hput]

/-- The record of a list's last descriptor, written, ends its DMA_SUBMIT (R468, R471). -/
theorem dmaFinish_last {u : State} (hlast : j.descs = [d]) (hquiet : bitOf d.flags 3 = false)
    (hput : (s.noteCons n j.ref.tenant).dmaPut n j.ref.tenant (dmaRecord d.tag eOk j.index d.length (d.crcOut j.crc).toNat
      (s.noteCons n j.ref.tenant).now j.ref.index.toNat) = .written u) :
    s.dmaFinish n j d = (u.completeOk j.ref
      [word (j.index + 1), word (j.total % 2 ^ 32), word (j.total / 2 ^ 32), d.crcOut j.crc]).dmaNextJob n := by
  unfold State.dmaFinish
  simp only [hlast, List.length_singleton, Nat.le_refl, decide_true, Bool.or_true, if_true, hput, hquiet, Bool.false_eq_true,
    if_false]
  rfl

end

/-! ### Blits (R481) -/

section
variable {s : State}

theorem blitStart_starts {j : BlitJob} {js : List BlitJob} (hfree : s.dma.blitRun = none) (hrun : s.enginesRun = true)
    (hnext : s.dma.blits = j :: js) : s.blitStart = { s with dma := { s.dma with blitRun := some j, blits := js } } := by
  unfold State.blitStart
  simp only [hfree, hrun, hnext, Option.isSome_none, Bool.not_true, Bool.or_self, Bool.false_eq_true, if_false]

/-- No blit starts while one runs, while the engines stand, or where none waits (R481). -/
theorem blitStart_waits (h : s.dma.blitRun.isSome = true ∨ s.enginesRun = false ∨ s.dma.blits = []) : s.blitStart = s := by
  unfold State.blitStart
  rcases h with hbusy | hstand | hnone
  · rw [hbusy, Bool.true_or, if_pos rfl]
  · rw [hstand, Bool.not_false, Bool.or_true, if_pos rfl]
  · simp only [hnone, ite_self]

section
variable {j : BlitJob} {u : State} {px rows : Nat}

/-- The running blit ends with its record (R481). -/
theorem blitDone_clean (hrunning : s.dma.blitRun = some j) (hrun : s.enginesRun = true)
    (hrows : s.blitRows j.ref.tenant j j.h 0 = (u, px, rows, none)) :
    s.blitDone = ({ u with dma := { u.dma with blitRun := none } } : State).completeOk j.ref
      [word px, word rows, if j.backwards then 1 else 0] := by
  unfold State.blitDone
  simp only [hrunning, hrun, hrows, Bool.not_true, Bool.false_eq_true, if_false]

/-- A fault of the running blit is told, and its record says where (R109, R481). -/
theorem blitDone_faulted {e : AssetFault} {off : Nat} (hrunning : s.dma.blitRun = some j) (hrun : s.enginesRun = true)
    (hrows : s.blitRows j.ref.tenant j j.h 0 = (u, px, rows, some (e, off))) :
    s.blitDone = (({ u with dma := { u.dma with blitRun := none } } : State).atlasFault j.ref.tenant e 0x030D 0).complete
      j.ref eFault off [word px, word rows, if j.backwards then 1 else 0] := by
  unfold State.blitDone
  simp only [hrunning, hrun, hrows, Bool.not_true, Bool.false_eq_true, if_false]

end
end

/-- Settles O17: a lemma for each way a request, a record or a blit goes on. -/
theorem dmaRowsComplete : Obligations.DmaRowsComplete := by
  unfold Obligations.DmaRowsComplete
  intro s dt n a x
  refine ⟨?work, ?recheck, fun j d place hput => dmaFaultRecord_noRoom hput,
    fun j d hput hrecord => dmaFinish_noRoom hrecord hput, fun j d u hput hlast hquiet => dmaFinish_last hlast hquiet hput,
    fun j js hfree hrun hnext => congrArg Host.Outcome.next (blitStart_starts hfree hrun hnext),
    fun h => congrArg Host.Outcome.next (blitStart_waits h), ?blitDone⟩
  case work =>
    intro j js d ds hjobs hdescs hrun hstate
    have hcomplete := dmaComplete_of_running hjobs hdescs hrun hstate
    refine ⟨fun hleft htokens => next_advanced (dmaGrant_waits hjobs hdescs hrun hstate hleft htokens),
      fun hleft b u bs htokens hmove => ?_, fun hleft b u bs e place htokens hmove => ?_, ?_⟩
    · exact next_advanced ((dmaGrant_moves hjobs hdescs hrun hstate hleft htokens).trans (dmaStep_moved hmove))
    · exact next_advanced ((dmaGrant_moves hjobs hdescs hrun hstate hleft htokens).trans (dmaStep_stopped hmove))
    · intro t b told
      refine ⟨fun hdone => next_advanced ?_, fun hleft hcovers => next_advanced ?_, fun hlimit hshort => next_advanced ?_⟩
      · have hcovers : b.covers (d.length - j.done) = true := (covers_iff ..).2 (.inr (by omega))
        refine hcomplete.trans ((if_pos hcovers).trans ?_)
        rw [dmaRest_done (s := a.setBucket t b) hjobs hdescs hdone]
      · exact hcomplete.trans (if_pos ((covers_iff ..).2 hcovers))
      · exact hcomplete.trans (if_neg fun hcovers => ((covers_iff ..).1 hcovers).elim hlimit (Nat.not_le.2 hshort))
  case recheck =>
    intro j js d ds hjobs hdescs hrun hstate
    have hrecheck := dmaRecheck_of_ring hjobs hdescs hrun hstate
    refine ⟨fun hwhole => ?_, fun place hstopped => ?_⟩
    · rw [hwhole] at hrecheck
      exact next_advanced hrecheck
    · rw [hstopped] at hrecheck
      exact next_advanced hrecheck
  case blitDone =>
    intro j u px rows f hrunning hrun hrows w ws
    refine ⟨fun hclean => ?_, fun e off hfault => ?_⟩
    · subst hclean
      exact next_advanced (blitDone_clean hrunning hrun hrows)
    · subst hfault
      exact next_advanced (blitDone_faulted hrunning hrun hrows)

end Sys2Proof.Machine
end

section
/-! SUPPORT and the statements settled. The beam, the compose boundary, the composer and the captures (R16, R96, R203 to R207,
R301, R302). -/

namespace Sys2Proof.Machine

section
variable {s : State} {h : Nat} {t : Timing}

/-! ### The beam (R203) -/

section
variable (late : List PixelRun) (ht : (s.head h).timing = some t) (hgo : (s.head h).stopped = false)
  (hstate : (s.head h).state = .composing ∨ (s.head h).state = .still)
include ht hgo hstate

/-- The last line of the front porch is repeated while lines are left to add (R203). -/
theorem beamEnter_porch (hat : (s.head h).line + 1 = t.vA + t.vF) (hmore : 0 < (s.head h).porch)
    (hholds : s.porchStops h t = false) :
    s.beamEnter h late = s.modHead h (fun x => { x with porch := x.porch - 1, lineAt := s.now }) := by
  have hscans : ((s.head h).state = .composing || (s.head h).state = .still : Bool) = true := by simpa using hstate
  unfold State.beamEnter
  simp only [ht, hgo, hscans, Bool.not_true, Bool.or_self, Bool.false_eq_true, if_false, hat, hmore, hholds, decide_true,
    Bool.not_false, Bool.and_self, if_true]

/-- The beam enters the line after the last, its regions evaluated at the end of an active one (R203, R323). -/
theorem beamEnter_next {b : State} (hb : (if (s.head h).line < t.vA then s.evaluateRegions h (s.head h).line else s) = b)
    (hmoves : ¬(s.head h).line + 1 = t.vA + t.vF ∨ (s.head h).porch = 0 ∨ s.porchStops h t = true) :
    s.beamEnter h late =
      let y := if (s.head h).line + 1 < t.vTotal then (s.head h).line + 1 else 0
      (b.modHead h (fun x => { x with
        line := y, lineAt := b.now, porch := if (s.head h).line + 1 = t.vA + t.vF then 0 else x.porch
        lowered := x.lowered && x.still })).enterLine h y t (s.head h).dueLine late := by
  subst hb
  have hscans : ((s.head h).state = .composing || (s.head h).state = .still : Bool) = true := by simpa using hstate
  have hnot : ¬(decide ((s.head h).line + 1 = t.vA + t.vF) && decide (0 < (s.head h).porch) && !s.porchStops h t) = true := by
    rcases hmoves with hline | hnone | hstops <;> simp [*]
  unfold State.beamEnter
  simp only [ht, hgo, hscans, Bool.not_true, Bool.or_self, Bool.false_eq_true, if_false]
  exact if_neg hnot

end

/-- The beam of a head without a timing, or of a stopped one, stands (R203). -/
theorem beamEnter_stands (late : List PixelRun) (hstands : (s.head h).timing = none ∨ (s.head h).stopped = true) :
    s.beamEnter h late = s := by
  unfold State.beamEnter
  dsimp only
  split
  next => rfl
  next t ht =>
    have hstopped := hstands.resolve_left (by simp [ht])
    rw [hstopped, Bool.true_or, if_pos rfl]

/-! ### The boundary (R16) -/

/-- No boundary is taken while none is due, or while the frame before is being composed (R204). -/
theorem boundary_waits (hnot : (s.head h).due = [] ∨ (s.head h).comp.running = true) : s.boundary h = s := by
  unfold State.boundary
  rcases hnot with hnone | hrunning
  · rw [hnone]
  · have hready : s.boundaryReady h = false := by simp [State.boundaryReady, hrunning]
    rw [hready]
    split <;> rfl

/-- A boundary is taken once the composer is free and no line-0 wake is open (R204, R263). -/
theorem boundaryReady_of_free (hhas : (s.head h).boundaries = true) (hidle : (s.head h).comp.running = false)
    (hfree : (s.head h).comp.busy = false) (hwoken : s.wakeOpen h 0 = false)
    (hstate : (s.head h).state = .composing ∨ (s.head h).state = .still) : s.boundaryReady h = true := by
  unfold State.boundaryReady
  simp only [hhas, hidle, hfree, hwoken, Bool.not_false, Bool.true_and, Bool.false_and, Bool.and_false]
  simpa using hstate

/-- What commits at a boundary outside Tell, in the order of R16 step 3. -/
theorem applyCommitted_awake {f : Word} {s1 s2 s3 s4 s5 s6 s7 s8 : State} {q1 q2 q3 q4 q5 q6 q7 q8 : Bool}
    (h1 : s.destroyAtBoundary h = (s1, q1)) (h2 : s1.destroysAt h = (s2, q2)) (h3 : s2.releasesAt h = (s3, q3))
    (h4 : s3.rollAtBoundary h = (s4, q4)) (h5 : s4.commitsAt h f = (s5, q5)) (h6 : s5.viewsAt h = (s6, q6))
    (h7 : s6.cellsAt h = (s7, q7)) (h8 : s7.policiesAt h = (s8, q8)) :
    s.applyCommitted h f false = ((s8.newTimingAt h).installCommitted h, q1 || q4 || q5 || q6,
      q2 || q7 || q8 || q3 || !(s8.head h).timingRecs.isEmpty) := by
  unfold State.applyCommitted
  simp only [h1, h2, h3, h4, h5, h6, h7, h8, Bool.false_eq_true, if_false]

/-- A boundary that is taken: the takeover, what commits, the lead, and the frame (R16). -/
theorem boundary_taken {f : Word} {at_ : Meridian} {rest : List (Word × Meridian)} {r c : State} {tk counts other : Bool}
    (hdue : (s.head h).due = (f, at_) :: rest) (hready : s.boundaryReady h = true) (hmode : s.power.mode ≠ .tell)
    (htake : (((s.modHead h (fun x => { x with due := rest, nominal := at_, wakeAt := none })).modTabs h
      (fun k => { k with started := [] })).donate h).takeOver h = (r, tk))
    (hcommit : r.applyCommitted h f false = (c, counts, other)) :
    s.boundary h =
      let b := ((c.leadAt h).dueBehind h f).modHead h (fun x => { x with last := x.ended.getD x.last, ended := none })
      b.beginFrame h f (decide (0 ≤ ((b.head h).frames - f).toInt)) false
        (!(tk || counts) && !other) (!(tk || counts)) ((s.head h).comp.zeroIssued && !tk) := by
  unfold State.boundary
  simp only [hdue, hready, decide_eq_false hmode, Bool.not_true, Bool.false_eq_true, if_false, htake, hcommit]

/-! ### The composer's lines (R96, R204, R207) -/

/-- A line starts once nothing holds it (R204, R263). -/
theorem composerStart_starts (hrun : (s.head h).comp.running = true) (hfree : (s.head h).comp.busy = false)
    (hserved : s.served h = true) (hleft : (s.head h).comp.next < (s.head h).vA)
    (hwoken : s.wakeOpen h (s.head h).comp.next = false)
    (hallowed : (s.head h).beamAllows (s.head h).comp.frame (s.head h).comp.next = true) :
    s.composerStart h = (s.modHead h (fun x => { x with
      comp := { x.comp with waitZero := false } })).startLine h (s.head h).comp.next := by
  unfold State.composerStart
  simp only [hrun, hfree, hserved, hleft, hwoken, hallowed, Bool.not_true, decide_true, Bool.or_self, Bool.false_eq_true,
    if_false]

/-- No line starts while no frame is composed, or another line is in progress. -/
theorem composerStart_waits (hnot : (s.head h).comp.running = false ∨ (s.head h).comp.busy = true) :
    s.composerStart h = s :=
  if_pos (by rcases hnot with hidle | hbusy <;> simp [*])

/-- The line of a replaced cluster is dropped, and counted where the head has a newer epoch (R96). -/
theorem lineComplete_stale {k : StaleLine} {rest : List StaleLine} (ht : (s.head h).timing = some t)
    (hstale : (s.head h).comp.stale = k :: rest) :
    s.lineComplete h = s.modHead h (fun x => { x with
      fenced := if k.epoch = x.epoch then x.fenced else satInc 0xFFFF x.fenced k.blocks
      comp := { x.comp with stale := rest } }) := by
  unfold State.lineComplete
  simp only [ht, hstale]
  refine congrArg (s.modHead h) (funext fun x => ?_)
  split <;> rfl

/-- The line of a head that is not served, or of an old epoch, is dropped and counted (R96, R342). -/
theorem lineComplete_fenced (ht : (s.head h).timing = some t) (hnone : (s.head h).comp.stale = [])
    (hbusy : (s.head h).comp.busy = true) (hnot : s.served h = false ∨ (s.head h).comp.epoch ≠ (s.head h).epoch) :
    s.lineComplete h = s.modHead h (fun x => { x with
      fenced := satInc 0xFFFF x.fenced ((rowBytes (s.head h).comp.line).length / 64)
      comp := { x.comp with busy := false, line := [] } }) := by
  unfold State.lineComplete
  simp only [ht, hnone, hbusy, Bool.not_true, Bool.false_eq_true, if_false]
  exact if_pos (by simpa using hnot)

/-- The line goes into the frame store, and the composer to the next, the frame's CRC taking it in (R95, R207). -/
theorem lineComplete_written (ht : (s.head h).timing = some t) (hnone : (s.head h).comp.stale = [])
    (hbusy : (s.head h).comp.busy = true) (hserved : s.served h = true)
    (hepoch : (s.head h).comp.epoch = (s.head h).epoch) :
    let y := (s.head h).comp.next
    let bs := rowBytes (s.head h).comp.line
    let w := s.physWrite (frameStore h + y * storePitch t.hA) bs
    ∃ margin : Head → Option (Int × Nat), s.lineComplete h =
      let u := w.modHead h (fun x => { x with comp := { x.comp with
        busy := false, line := [], next := y + 1, done := y + 1
        crc := word (crcBytes polyCrc32 x.comp.crc.toNat bs), margin := margin x } })
      if y + 1 = t.vA then u.frameDone h else u := by
  unfold State.lineComplete
  simp only [ht, hnone, hbusy, Bool.not_true, Bool.false_eq_true, if_false, hserved, hepoch, ne_eq, not_true_eq_false,
    decide_false, Bool.or_self]
  exact ⟨_, rfl⟩

theorem lineComplete_idle (hnone : (s.head h).comp.stale = []) (hidle : (s.head h).comp.busy = false) :
    s.lineComplete h = s := by
  unfold State.lineComplete
  cases ht : (s.head h).timing <;> simp only [ht, hnone, hidle, Bool.not_false, if_true]

/-! ### Captures (R301, R302) -/

/-- What the owner of a complete captured frame sees, where its subscriptions cover it (R88, R302). -/
def State.captureTold (k : Capture) (f : CapFrame) (st h : Nat) (s : State) : State :=
  if ((s.tenant? k.owner).map (fun x => x.covers 0x0804 h)).getD false then
    s.eventStatus k.owner 0x0804 st
      ([word h, f.frame, word f.page, word f.written, word k.skippedSince] ++ words64 f.time)
  else s

theorem covers_iff_exists {o : Option Tenant} {code res : Nat} :
    ((o.map (fun x => x.covers code res)).getD false) = true ↔ ∃ x, o = some x ∧ x.covers code res = true := by
  cases o <;> simp

section
variable {k : Capture} {f : CapFrame}

/-- A complete frame is told, the ring moves past it, and a capture that is to stop ends (R302). -/
theorem captureEvent_of_complete {st : Nat} (hk : (s.head h).capture = some k) (hf : k.frame = some f) (hst : f.status = some st) :
    let b := (s.captureTold k f st h).modCapture h (fun k => { k with
      pw := k.pw + word (ceilDiv f.written 4096), frame := none, skippedSince := 0 })
    s.captureEvent h = k.stop.elim b (fun rs => rs.foldl (fun s r => s.completeOk r [])
      (b.modHead h (fun x => { x with capture := none }))) := by
  unfold State.captureEvent
  simp only [hk, hf, hst]
  cases k.stop <;> rfl

theorem captureEvent_none (hnone : (s.head h).capture = none) : s.captureEvent h = s := by
  unfold State.captureEvent
  rw [hnone]

/-- A frame whose writes stall is cut short (R301). -/
theorem captureStall_of_open (hk : (s.head h).capture = some k) (hf : k.frame = some f) (hopen : f.status = none) :
    s.captureStall h = s.modHead h (fun x => { x with
      capTruncated := satInc 0x7FFF x.capTruncated 1
      capture := some { k with frame := some { f with status := some eTrunc, tail := [] } } }) := by
  unfold State.captureStall
  simp only [hk, hf, hopen, Option.isSome_none, Bool.false_eq_true, if_false]

end
end

/-- Settles O18: a lemma for each branch; the boundary's changes in the order that the row gives. -/
theorem beamAndComposerRowsComplete : Obligations.BeamAndComposerRowsComplete := by
  unfold Obligations.BeamAndComposerRowsComplete
  intro s dt h late a x
  refine ⟨?beam, fun hstands => next_advanced (beamEnter_stands late hstands), fun hnot => next_advanced (boundary_waits hnot),
    ?boundary, fun hrun hfree hserved hleft hwoken hallowed =>
      congrArg Host.Outcome.next (composerStart_starts hrun hfree hserved hleft hwoken hallowed),
    fun hnot => congrArg Host.Outcome.next (composerStart_waits hnot),
    fun t k rest ht hstale => congrArg Host.Outcome.next (lineComplete_stale ht hstale), ?line,
    fun hnone hidle => congrArg Host.Outcome.next (lineComplete_idle hnone hidle), ?capture,
    fun hnone => next_advanced (captureEvent_none hnone),
    fun k f hk hf hopen => congrArg Host.Outcome.next (captureStall_of_open hk hf hopen)⟩
  case beam =>
    intro t ht hgo hstate atPorch y
    refine ⟨fun hat hmore hholds => next_advanced (beamEnter_porch late ht hgo hstate hat hmore hholds), fun hmoves => ?_⟩
    exact ⟨fun hblank => next_advanced (beamEnter_next late ht hgo hstate (if_neg (Nat.not_lt.2 hblank)) hmoves),
      fun hactive => next_advanced (beamEnter_next late ht hgo hstate (if_pos hactive) hmoves)⟩
  case boundary =>
    intro f at_ rest hdue hhas hidle hfree hwoken hstate htell
    have hready := boundaryReady_of_free hhas hidle hfree hwoken hstate
    exact next_advanced (boundary_taken hdue hready htell (Prod.eta _).symm (applyCommitted_awake (Prod.eta _).symm
      (Prod.eta _).symm (Prod.eta _).symm (Prod.eta _).symm (Prod.eta _).symm (Prod.eta _).symm (Prod.eta _).symm
      (Prod.eta _).symm))
  case line =>
    intro t ht hnone hbusy bs
    refine ⟨fun hnot => congrArg Host.Outcome.next (lineComplete_fenced ht hnone hbusy hnot), fun hserved hepoch => ?_⟩
    obtain ⟨margin, hline⟩ := lineComplete_written ht hnone hbusy hserved hepoch
    refine ⟨_, ?frame, ?_, ?_, ?_, ?_, congrArg Host.Outcome.next hline⟩
    case frame => rfl
    all_goals rw [head_modHead, if_pos rfl]
  case capture =>
    intro k f st hk hf hst covers out next b hb
    have htold : a.captureTold k f st h = b := by
      unfold State.captureTold
      rcases hb with ⟨hcovers, rfl⟩ | ⟨hnot, rfl⟩
      · exact if_pos (covers_iff_exists.2 hcovers)
      · exact if_neg (mt covers_iff_exists.1 hnot)
    have hevent := captureEvent_of_complete hk hf hst
    rw [htold] at hevent
    refine ⟨fun hgoes => ?_, fun rs hstop => ?_⟩
    · rw [hgoes] at hevent
      exact next_advanced hevent
    · rw [hstop] at hevent
      exact next_advanced hevent

end Sys2Proof.Machine
end

section
/-! SUPPORT and the statements settled. The ports, AUX transactions and frame lock (R23, R28 to R32, R306, R308, R544). -/

namespace Sys2Proof.Machine

section
variable {s : State} {p : Nat}

/-- A port's change is told by what it makes of the port as it stands. -/
theorem modPort_congr {f g : Port → Port} (h : f (s.portAt p) = g (s.portAt p)) : s.modPort p f = s.modPort p g := by
  unfold State.modPort
  exact congrArg (fun x => ({ s with disp := { s.disp with ports := IMap.put s.disp.ports p x } } : State)) h

/-! ### Link training and HPD (R306, R308) -/

section
variable {w : RouteWait} {rest : List RouteWait} {lanes rate : Nat} {b : State}

/-- The end of a training puts its route in place and writes its record (R306). -/
theorem trainingDone_up (hpend : (s.portAt p).pend = w :: rest) (htraining : (s.portAt p).training = true)
    (hb : (match (s.portAt p).route with | none => s | some old => s.setRouteHeads p old false) = b) :
    let up := (b.setRouteHeads p w.route true).modPort p (fun q => { q with
      route := some w.route, pend := rest, training := false, trained := true
      sending := !b.power.pwrfail, hpd := true, gotLanes := lanes, gotRate := rate, starved := [] })
    s.trainingDone p true lanes rate =
      ((w.ref.elim up (fun r => up.completeOk r [])).nextRoute p rest.length).modPort p Port.auxTurn := by
  subst hb
  unfold State.trainingDone
  simp only [hpend, htraining, Bool.not_true, Bool.false_eq_true, if_false, if_true]
  cases w.ref <;> rfl

/-- A training that fails removes the route, and its record says what came about (R306). -/
theorem trainingDone_down (hpend : (s.portAt p).pend = w :: rest) (htraining : (s.portAt p).training = true)
    (hb : (match (s.portAt p).route with | none => s | some old => s.setRouteHeads p old false) = b) :
    let down := b.modPort p (fun q => { q.unrouted with pend := rest })
    s.trainingDone p false lanes rate =
      ((w.ref.elim down (fun r => down.complete r eLinkTrain noField [word lanes, word rate])).nextRoute p
        rest.length).modPort p Port.auxTurn := by
  subst hb
  unfold State.trainingDone
  simp only [hpend, htraining, Bool.not_true, Bool.false_eq_true, if_false]
  cases w.ref <;> rfl

end

/-- No training ends at a port that trains none (R306). -/
theorem trainingDone_idle (h : (s.portAt p).pend = [] ∨ (s.portAt p).training = false) (ok : Bool) (lanes rate : Nat) :
    s.trainingDone p ok lanes rate = s := by
  unfold State.trainingDone
  rcases h with hnone | hidle
  · simp only [hnone]
  · simp only [hidle, Bool.not_false, if_true]
    split <;> rfl

/-- A routed port that had a sink tells that it lost it (R308). -/
theorem hpdFall_eq (s : State) (p : Nat) :
    let low := s.modPort p (fun q => { (if q.auxBusy then q.auxEnd 6 0 [] else q) with
      hpd := false, sending := false, trained := false, gotLanes := 0, gotRate := 0 })
    s.hpdFall p = if (s.portAt p).route.isSome && (s.portAt p).hpd
      then low.portState p 0 (s.portAt p).gotLanes (s.portAt p).gotRate else low := rfl

/-- A sink at a port without a route, or at one that sends, is noted alone (R308). -/
theorem hpdRise_noted (tries : List Bool) (h : (s.portAt p).route = none ∨ (s.portAt p).sending = true) :
    s.hpdRise p tries = s.modPort p (fun q => { q with hpd := true }) := by
  unfold State.hpdRise
  rcases h with hnone | hsends
  · simp only [hnone]
  · simp only [hsends, if_true]
    split <;> rfl

/-- A routed port retrains, up to three times (R308). -/
theorem hpdRise_retrains {r : Route} (tries : List Bool) (hroute : (s.portAt p).route = some r)
    (hidle : (s.portAt p).sending = false) :
    let high := s.modPort p (fun q => { q with hpd := true })
    s.hpdRise p tries = if (tries.take 3).any id
      then (high.modPort p (fun q => { q with
        trained := true, sending := !s.power.pwrfail, gotLanes := r.lanes, gotRate := r.rate })).portState p 1 r.lanes r.rate
      else high.portState p 2 r.lanes r.rate := by
  unfold State.hpdRise
  simp only [hroute, hidle, Bool.false_eq_true, if_false]
  rfl

/-! ### AUX transactions (R544) -/

section
variable {v : Word} {cp : Bool}

theorem auxStart_set (hplain : v.getLsbD 31 = false) :
    s.auxStart p v cp = s.modPort p (fun q => { q with auxCtl := v &&& 0xF0F }) :=
  if_pos (by rw [hplain]; rfl)

/-- A start during a transaction is an overrun (R544). -/
theorem auxStart_overrun (hstart : v.getLsbD 31 = true) (hbusy : (s.portAt p).auxBusy = true) :
    s.auxStart p v cp = (s.modPort p (fun q => { q with auxOverrun := true })).hwMark (.auxOverrun p) := by
  unfold State.auxStart
  rw [hstart, Bool.not_true, if_neg Bool.false_ne_true, if_pos hbusy]

/-- A start runs, or, of a reserved request or without a sink, ends at once; the CP's use of the channel comes first (R544). -/
theorem auxStart_runs (hstart : v.getLsbD 31 = true) (hidle : (s.portAt p).auxBusy = false) :
    let started : Port := { s.portAt p with auxCtl := v &&& 0xF0F, auxDone := false, auxBusy := true, auxWait := cp }
    s.auxStart p v cp = s.modPort p (fun _ =>
      if !cp && (!(s.portAt p).hpd || !auxRequestOk (bits v.toNat 3 0)) then started.auxEnd 6 0 [] else started) := by
  unfold State.auxStart
  rw [hstart, hidle, Bool.not_true, if_neg Bool.false_ne_true, if_neg Bool.false_ne_true]
  exact modPort_congr rfl

/-- No transaction ends that has not begun (R544). -/
theorem auxTransactionEnd_idle (reply : AuxReply)
    (h : (s.portAt p).auxBusy = false ∨ ((s.portAt p).auxWait = true ∧ (s.portAt p).training = true)) :
    s.auxTransactionEnd p reply = s :=
  if_pos (by simpa using h)

section
variable (hbusy : (s.portAt p).auxBusy = true) (hturn : (s.portAt p).auxWait = false ∨ (s.portAt p).training = false)
include hbusy hturn

/-- A transaction whose sink went ends with result 6 (R544). -/
theorem auxTransactionEnd_unplugged (reply : AuxReply) (hgone : (s.portAt p).hpd = false) :
    s.auxTransactionEnd p reply = s.modPort p (fun q => q.auxEnd 6 0 []) := by
  unfold State.auxTransactionEnd
  dsimp only
  rw [if_neg (by rcases hturn with hwait | htrain <;> simp [*]), if_pos (by rw [hgone]; rfl)]

/-- A sink's reply ends the transaction, or the lack of one (R544). -/
theorem auxTransactionEnd_replied (hthere : (s.portAt p).hpd = true)
    (hrequest : auxRequestOk (bits (s.portAt p).auxCtl.toNat 3 0) = true) :
    let r := bits (s.portAt p).auxCtl.toNat 3 0
    let n := bits (s.portAt p).auxCtl.toNat 11 8 + 1
    s.auxTransactionEnd p .timeout = s.modPort p (fun q => q.auxEnd 5 0 []) ∧
    ∀ k took d, s.auxTransactionEnd p (.reply k took d) = if auxReads r
      then (s.modPort p (fun q => q.auxEnd (auxCodeResult k) (min n d.length) (d.take n))).hwMark (.auxData p)
      else s.modPort p (fun q => q.auxEnd (auxCodeResult k) (min n took) []) := by
  have hgoes : ¬(!(s.portAt p).auxBusy || ((s.portAt p).auxWait && (s.portAt p).training)) = true := by
    rcases hturn with hwait | htrain <;> simp [*]
  have hvalid : ¬(!(s.portAt p).hpd || !auxRequestOk (bits (s.portAt p).auxCtl.toNat 3 0)) = true := by
    rw [hthere, hrequest]
    exact Bool.false_ne_true
  unfold State.auxTransactionEnd
  simp only [if_neg hgoes, if_neg hvalid, true_and, implies_true]

end
end
end

/-! ### Frame lock (R28 to R32) -/

/-- The heads of a role take a new lock state each, and nothing else changes. -/
theorem fold_timeHeads (f : LockState → LockState) (l : List Nat) (hl : l.Nodup) (s : State) :
    let t := l.foldl (fun s h =>
      if (s.head h).lock.role = 3 then s.modHead h (fun x => { x with lock := f x.lock }) else s) s
    { t with disp := s.disp } = s ∧ { t.disp with heads := s.disp.heads } = s.disp ∧
    ∀ h, t.head h = if h ∈ l ∧ (s.head h).lock.role = 3 then { s.head h with lock := f (s.head h).lock } else s.head h := by
  induction l generalizing s with
  | nil => simp
  | cons n l ih =>
    obtain ⟨hnew, hrest⟩ := List.nodup_cons.1 hl
    rw [List.foldl_cons]
    by_cases hrole : (s.head n).lock.role = 3
    · rw [if_pos hrole]
      obtain ⟨hframe, hdisp, hheads⟩ := ih hrest (s.modHead n (fun x => { x with lock := f x.lock }))
      refine ⟨?_, ?_, fun h => ?_⟩
      · exact congrArg (fun u => { u with disp := s.disp }) hframe
      · exact congrArg (fun u => { u with heads := s.disp.heads }) hdisp
      · rw [hheads h, head_modHead]
        by_cases hsame : h = n
        · subst hsame
          simp [hnew, hrole]
        · simp [hsame]
    · rw [if_neg hrole]
      obtain ⟨hframe, hdisp, hheads⟩ := ih hrest s
      refine ⟨hframe, hdisp, fun h => (hheads h).trans ?_⟩
      by_cases hsame : h = n
      · subst hsame
        simp [hrole]
      · simp [hsame]

section
variable {s : State} {h : Nat}

/-- The follower that an edge concerns: the lowest head in that role (R28). -/
theorem find_follower (hh : h < 8) (hrole : (s.head h).lock.role = 2) (hfirst : ∀ k < h, (s.head k).lock.role ≠ 2) :
    (List.range 8).find? (fun k => (s.head k).lock.role = 2) = some h :=
  find_range_some hh (decide_eq_true hrole) fun k hk => decide_eq_false (hfirst k hk)

theorem find_follower_none (hnone : ∀ h < 8, (s.head h).lock.role ≠ 2) :
    (List.range 8).find? (fun k => (s.head k).lock.role = 2) = none :=
  find_range_none fun k hk => decide_eq_false (hnone k hk)

/-- The note of an edge's time leaves the heads. -/
theorem head_noteEdge (s : State) (now : Meridian) (h : Nat) : (s.modDisp (fun d => d.noteEdge now)).head h = s.head h := by
  unfold State.modDisp Display.noteEdge
  dsimp only
  split <;> rfl

theorem fsyncEdge_of_follower (hfind : (List.range 8).find? (fun k => (s.head k).lock.role = 2) = some h) :
    s.fsyncEdge =
      let c := (s.modDisp (fun d => d.noteEdge s.now)).modHead h (fun x => { x with lock := { x.lock with lost := false } })
      c.lockMeasure h (c.phaseError h s.now) := by
  unfold State.fsyncEdge
  simp only [head_noteEdge, hfind]
  rfl

theorem fsyncEdge_alone (hfind : (List.range 8).find? (fun k => (s.head k).lock.role = 2) = none) :
    s.fsyncEdge = s.modDisp (fun d => d.noteEdge s.now) := by
  unfold State.fsyncEdge
  simp only [head_noteEdge, hfind]

theorem fsyncLost_alone (hfind : (List.range 8).find? (fun k => (s.head k).lock.role = 2) = none) : s.fsyncLost = s := by
  unfold State.fsyncLost
  simp only [hfind]

theorem fsyncLost_of_follower (hfind : (List.range 8).find? (fun k => (s.head k).lock.role = 2) = some h) :
    s.fsyncLost = if s.edgesMissing h then
      (s.modHead h (fun x => { x with lock := x.lock.lose })).modDisp (fun d => { d with fsyncAt := none }) else s := by
  unfold State.fsyncLost
  simp only [hfind]

end

/-- A head in Time role has lost its time where no MAC of the part is synchronised (R30). -/
theorem gptpRelation_isNone (s : State) :
    s.gptpRelation.isNone = !(IMap.vals s.disp.gptp).any (fun e => e.1) := by
  unfold State.gptpRelation
  rw [Bool.eq_iff_iff]
  simp

/-- A change of a MAC's gPTP state (R32): the relation and the MAC, before the heads in Time role follow. -/
def State.gptpNoted (mac : Nat) (synced : Bool) (offset : Int) (ratio : Nat) (s : State) : State :=
  { s with
    disp := { s.disp with gptp := IMap.put s.disp.gptp mac (synced, offset, ratio) }
    eth := IMap.put s.eth mac { IMap.get s.eth {} mac with ptp := synced } }

theorem gptpChange_eq (s : State) (mac : Nat) (synced : Bool) (offset : Int) (ratio : Nat) :
    s.gptpChange mac synced offset ratio = (List.range 8).foldl (fun t h =>
      if (t.head h).lock.role = 3 then t.modHead h (fun x => { x with
        lock := if (s.gptpNoted mac synced offset ratio).gptpRelation.isNone then x.lock.lose
          else { x.lock with lost := false } }) else t) (s.gptpNoted mac synced offset ratio) := rfl

/-- Settles O19: a lemma for each way a row of a port goes, and the heads in Time role by the fold over them. -/
theorem portAndLockRowsComplete : Obligations.PortAndLockRowsComplete := by
  unfold Obligations.PortAndLockRowsComplete
  intro s dt p st lanes rate mac tries v cp reply sy off a q
  refine ⟨?training, fun h ok => congrArg Host.Outcome.next (trainingDone_idle h ok lanes rate), ?fall, ?rise,
    fun hsends => congrArg Host.Outcome.next (if_pos hsends),
    fun hnot => congrArg Host.Outcome.next (if_neg (by rw [hnot]; exact Bool.false_ne_true)), rfl, ?aux, ?fsync, ?gptp⟩
  case training =>
    intro w rest hpend htraining b up down next
    have hup := trainingDone_up (lanes := lanes) (rate := rate) hpend htraining (b := b) rfl
    have hdown := trainingDone_down (lanes := lanes) (rate := rate) hpend htraining (b := b) rfl
    refine ⟨fun k href => ?_, fun href => ?_⟩
    · rw [href] at hup hdown
      exact ⟨congrArg Host.Outcome.next hup, congrArg Host.Outcome.next hdown⟩
    · rw [href] at hup hdown
      exact ⟨congrArg Host.Outcome.next hup, congrArg Host.Outcome.next hdown⟩
  case fall =>
    intro low
    refine ⟨fun hrouted hhad => congrArg Host.Outcome.next ((hpdFall_eq a p).trans (if_pos ?_)),
      fun hnot => congrArg Host.Outcome.next ((hpdFall_eq a p).trans (if_neg ?_))⟩
    · exact Bool.and_eq_true_iff.2 ⟨hrouted, hhad⟩
    · intro hboth
      obtain ⟨hrouted, hhad⟩ := Bool.and_eq_true_iff.1 hboth
      rcases hnot with hnone | hlow
      · exact Option.isSome_iff_ne_none.1 hrouted hnone
      · exact Bool.false_ne_true (hlow.symm.trans hhad)
  case rise =>
    intro high
    refine ⟨fun h => congrArg Host.Outcome.next (hpdRise_noted tries h), fun r hroute hidle hsome => ?_,
      fun r hroute hidle hnone => ?_⟩
    · exact congrArg Host.Outcome.next ((hpdRise_retrains tries hroute hidle).trans (if_pos (by simpa using hsome)))
    · exact congrArg Host.Outcome.next ((hpdRise_retrains tries hroute hidle).trans (if_neg (by simpa using hnone)))
  case aux =>
    intro put started
    refine ⟨fun hplain => ?_, fun hstart hbusy => ?_, fun hstart hidle hruns => ?_, fun hstart hidle hown hfails => ?_,
      fun h => congrArg Host.Outcome.next (auxTransactionEnd_idle reply h), fun hbusy hturn hgone => ?_,
      fun hbusy hturn hthere hrequest => ?_⟩
    · exact congrArg Host.Outcome.next ((auxStart_set hplain).trans (modPort_congr rfl))
    · exact congrArg Host.Outcome.next ((auxStart_overrun hstart hbusy).trans (congrArg (State.hwMark _) (modPort_congr rfl)))
    · refine congrArg Host.Outcome.next ((auxStart_runs hstart hidle).trans (modPort_congr (if_neg ?_)))
      rcases hruns with hcp | ⟨hthere, hrequest⟩
      · simp [hcp]
      · simp only [q] at hthere
        simp [hthere, hrequest]
    · refine congrArg Host.Outcome.next ((auxStart_runs hstart hidle).trans (modPort_congr (if_pos ?_)))
      rcases hfails with hgone | hrequest
      · simp only [q] at hgone
        simp [hown, hgone]
      · simp [hown, hrequest]
    · exact congrArg Host.Outcome.next ((auxTransactionEnd_unplugged hbusy hturn reply hgone).trans (modPort_congr rfl))
    · obtain ⟨htimeout, hreplied⟩ := auxTransactionEnd_replied hbusy hturn hthere hrequest
      intro n r
      refine ⟨congrArg Host.Outcome.next (htimeout.trans (modPort_congr rfl)), fun k took d => ?_⟩
      intro result
      have hresult : auxCodeResult k = result := by cases k <;> rfl
      rw [← hresult]
      refine ⟨fun hreads => ?_, fun hwrites => ?_⟩
      · exact congrArg Host.Outcome.next ((hreplied k took d).trans ((if_pos hreads).trans
          (congrArg (State.hwMark _) (modPort_congr rfl))))
      · exact congrArg Host.Outcome.next ((hreplied k took d).trans ((if_neg (by rw [hwrites]; exact Bool.false_ne_true)).trans
          (modPort_congr rfl)))
  case fsync =>
    intro b
    refine ⟨fun hnone => ?_, fun h hh hrole hfirst => ?_⟩
    · have hfind := find_follower_none hnone
      exact ⟨congrArg Host.Outcome.next (fsyncEdge_alone hfind), congrArg Host.Outcome.next (fsyncLost_alone hfind)⟩
    · have hfind := find_follower hh hrole hfirst
      refine ⟨congrArg Host.Outcome.next (fsyncEdge_of_follower hfind), fun hmissing => ?_, fun hseen => ?_⟩
      · exact congrArg Host.Outcome.next ((fsyncLost_of_follower hfind).trans (if_pos hmissing))
      · exact congrArg Host.Outcome.next ((fsyncLost_of_follower hfind).trans
          (if_neg (by rw [hseen]; exact Bool.false_ne_true)))
  case gptp =>
    obtain ⟨hframe, hdisp, hheads⟩ := fold_timeHeads
      (fun k => if (a.gptpNoted mac sy off rate).gptpRelation.isNone then k.lose else { k with lost := false })
      (List.range 8) List.nodup_range (a.gptpNoted mac sy off rate)
    have hexec := congrArg (Host.Outcome.next (φ := Fault) (ρ := Refusal)) (gptpChange_eq a mac sy off rate)
    generalize List.foldl _ _ _ = t at hframe hdisp hheads hexec
    have hgptp := congrArg Display.gptp hdisp
    have heth := congrArg State.eth hframe
    refine ⟨t, hexec, congrArg (fun z => { z with disp := a.disp, eth := a.eth }) hframe,
      congrArg (fun z => { z with heads := a.disp.heads, gptp := a.disp.gptp }) hdisp, hgptp, heth,
      fun h => (hheads h).trans ?_⟩
    have hiff : (h ∈ List.range 8 ∧ ((a.gptpNoted mac sy off rate).head h).lock.role = 3) ↔
        h < 8 ∧ (a.head h).lock.role = 3 := and_congr_left' List.mem_range
    refine (ite_congr (propext hiff) (fun _ => ?_) (fun _ => rfl)).trans rfl
    rw [gptpRelation_isNone, ← hgptp]
    cases (IMap.vals t.disp.gptp).any (fun e => e.1) <;> rfl

end Sys2Proof.Machine
end

section
/-! SUPPORT and the statements settled. Registers, host accesses, the Ethernet MACs and the Legend (R8, R9, R42, R58, R59,
R77, R396, R423, R425, R545). -/

namespace Sys2Proof.Machine

/-! ### Host accesses (R58, R59, R77, R425) -/

section
variable {s : State}

/-- A word that travels as a read's or a write's data comes back whole. -/
@[simp] theorem truncate_dword (v : Word) : (dword v).truncate 32 = v := by
  unfold dword
  ext i hi
  simp

/-- Where the hardware has set none of the bits, a write clears all that it names (R10). -/
theorem clearBits_of_quiet {f : Nat → HwField} (hquiet : ∀ n, s.hwHas (f n) = false) (n : Nat) (v : Word) :
    s.clearBits n f v = v := by
  unfold State.clearBits
  induction n with
  | zero => rfl
  | succ n ih => rw [List.range_succ, List.foldl_append, ih]; simp [hquiet]

/-- A host access to a part that is awake wakes nothing. -/
theorem bar0Wake_awake (hawake : s.asleep = false) : s.bar0Wake = s := by
  unfold State.bar0Wake
  rw [hawake]
  rfl

/-- A host access to a part that sleeps wakes PD002 and asks with wake source 5 (R425). -/
theorem bar0Wake_asleep (hasleep : s.asleep = true) : s.bar0Wake = (s.wakeDomain 2).sourceWake 5 := by
  unfold State.bar0Wake
  rw [hasleep]
  rfl

/-- A host write is made in the state that its wake leaves. -/
theorem bar0Access_write (off : Nat) (w : AccessWidth) (v : Dword) :
    s.bar0Access true off w v = s.bar0Wake.bar0Write off w v := rfl

/-- A host write to a part that is awake. -/
theorem bar0Access_write_awake (hawake : s.asleep = false) (off : Nat) (w : AccessWidth) (v : Dword) :
    s.bar0Access true off w v = s.bar0Write off w v := by
  rw [bar0Access_write, bar0Wake_awake hawake]

/-- A word written to the device status page. -/
theorem bar0Write_dev {off : Nat} (hoff : off < 0x1000) (haligned : off % 4 = 0) (v : Word) :
    s.bar0Write (0x4000 + off) .word (dword v) = s.devWrite off v := by
  unfold State.bar0Write
  rw [if_neg (by omega), if_neg (by simp only [ne_eq, not_true, false_or]; omega), if_pos (by omega), truncate_dword,
    Nat.add_sub_cancel_left]

/-- Outside the MSI-X table a write that is not an aligned word is discarded (R59). -/
theorem bar0Write_odd {off : Nat} {w : AccessWidth} (hout : off < 0x100000 ∨ 0x104100 ≤ off) (hodd : w ≠ .word ∨ off % 4 ≠ 0)
    (v : Dword) : s.bar0Write off w v = s := by
  unfold State.bar0Write
  rw [if_neg (by omega), if_pos hodd]

/-- The doorbell page of a tenant and the register in it. -/
theorem doorbellAt_page {t reg : Nat} (ht : t < 1024) (hreg : reg < 0x1000) :
    doorbellAt (0x400000 + 0x1000 * t + reg) = some (t, reg) := by
  unfold doorbellAt
  rw [if_pos (by omega)]
  simp only [Option.some.injEq, Prod.mk.injEq]
  omega

/-- A word written to a doorbell page: latched while the part sleeps (R425). -/
theorem bar0Write_doorbell {t reg : Nat} (ht : t < 1024) (hreg : reg < 0x1000) (haligned : reg % 4 = 0) (v : Word) :
    s.bar0Write (0x400000 + 0x1000 * t + reg) .word (dword v) =
      if s.asleep then s.latchWrite (0x400000 + 0x1000 * t + reg) v else s.dbWrite t reg v := by
  unfold State.bar0Write
  rw [if_neg (by omega), if_neg (by simp only [ne_eq, not_true, false_or]; omega), if_neg (by omega),
    doorbellAt_page ht hreg, truncate_dword]

/-- A doorbell write that finds the part asleep and leaves it so is latched (R425). -/
theorem bar0Access_doorbell_asleep {t reg : Nat} (ht : t < 1024) (hreg : reg < 0x1000) (haligned : reg % 4 = 0) (v : Word)
    (hasleep : s.asleep = true) (hstill : ((s.wakeDomain 2).sourceWake 5).asleep = true) :
    s.bar0Access true (0x400000 + 0x1000 * t + reg) .word (dword v) =
      ((s.wakeDomain 2).sourceWake 5).latchWrite (0x400000 + 0x1000 * t + reg) v := by
  rw [bar0Access_write, bar0Wake_asleep hasleep, bar0Write_doorbell ht hreg haligned, if_pos hstill]

/-! Writes of the device status page while the firmware runs (R77). -/

section
variable (hready : s.boot.fwReady = true) (v : Word)
include hready

/-- The events that a write names are cleared (R75). -/
theorem devWrite_event (hquiet : ∀ n, s.hwHas (.devEvent n) = false) :
    s.devWrite 0x04 v = { s with dev := { s.dev with event := s.dev.event &&& ~~~v } } := by
  unfold State.devWrite State.clearDevEvent
  simp only [hready, Bool.not_true, Bool.false_eq_true, if_false, clearBits_of_quiet hquiet]

/-- Tenant 0's PASID is written where the lock allows it. -/
theorem devWrite_pasid0 :
    s.devWrite 0x10 v = if s.dev.pasidLock then s else { s with dev := { s.dev with pasid0 := v &&& 0x800FFFFF } } := by
  unfold State.devWrite
  simp only [hready, Bool.not_true, Bool.false_eq_true, if_false]

/-- Tenant 1's PASID is written where the lock allows it. -/
theorem devWrite_pasid1 :
    s.devWrite 0x14 v = if s.dev.pasidLock then s else { s with dev := { s.dev with pasid1 := v &&& 0x800FFFFF } } := by
  unfold State.devWrite
  simp only [hready, Bool.not_true, Bool.false_eq_true, if_false]

/-- The lock is set, never opened, by a write. -/
theorem devWrite_lock :
    s.devWrite 0x18 v = if v.getLsbD 0 then { s with dev := { s.dev with pasidLock := true } } else s := by
  unfold State.devWrite
  simp only [hready, Bool.not_true, Bool.false_eq_true, if_false]
end

/-! ### Register windows (R8, R9, R545) -/

section
variable {addr : Nat}

/-- Where the CP runs, a word written to a window is the unit's (R9). -/
theorem registerWrite_window (hawake : s.power.mode = .tell ∨ s.power.mode = .drive ∨ s.power.mode = .service)
    (haligned : addr % 4 = 0) (v : Word) :
    s.registerWrite .window addr .word (dword v) = (unitAt addr).elim s (fun u => s.writeReg u v) := by
  have hcp : s.cpAwake = true := by
    unfold State.cpAwake
    rcases hawake with h | h | h <;> simp [h]
  unfold State.registerWrite
  simp only [hcp, haligned, decide_true, Bool.and_true, if_true, truncate_dword]
  cases unitAt addr <;> rfl
end

variable {m : Nat} {v : Word}

/-- A write of MDIO_CTL that starts nothing keeps its fields. -/
theorem mdioWrite_set (hset : v.getLsbD 31 = false) :
    s.mdioWrite m v = s.modEth m (fun e => { e with mdioCtl := v &&& 0x73FFFFFF }) := by
  unfold State.mdioWrite
  simp only [hset, Bool.not_false, if_true]

/-- A start while a frame of the window runs or waits is discarded (R545). -/
theorem mdioWrite_busy (hstart : v.getLsbD 31 = true) (hbusy : (IMap.get s.eth {} m).busy = true) : s.mdioWrite m v = s := by
  unfold State.mdioWrite
  simp only [hstart, hbusy, Bool.not_true, Bool.false_eq_true, if_false, if_true]

/-- A start in an idle window runs, or waits for the other window's frame (R545). -/
theorem mdioWrite_start (hstart : v.getLsbD 31 = true) (hidle : (IMap.get s.eth {} m).busy = false) :
    s.mdioWrite m v = s.modEth m (fun e => { e with
      mdioCtl := v &&& 0x73FFFFFF, busy := true, waiting := s.mdioRuns (1 - m), reads := mdioReads v }) := by
  unfold State.mdioWrite
  simp only [hstart, hidle, Bool.not_true, Bool.false_eq_true, if_false]

/-- A frame that runs ends, and the other window's may then run (R545). -/
theorem mdioEnd_runs (hruns : s.mdioRuns m = true) (rd : Half) :
    s.mdioEnd m rd = (s.modEth m (fun e => { e with busy := false, rdata := if e.reads then rd else e.rdata })).modEth (1 - m)
      (fun e => { e with waiting := false }) := if_pos hruns

/-- No frame ends in a window that runs none. -/
theorem mdioEnd_idle (hidle : s.mdioRuns m = false) (rd : Half) : s.mdioEnd m rd = s := if_neg (by simp [hidle])

/-! ### The Legend (R42) -/

/-- A Legend that is not built, or was updated within the last millisecond, is left. -/
theorem legendUpdate_early
    (hearly : s.legend.built = false ∨ (s.legend.everUpdated = true ∧ s.since s.legend.lastUpdate < 1024000)) :
    s.legendUpdate = s := by
  unfold State.legendUpdate
  refine if_pos ?_
  rcases hearly with hbuilt | ⟨hever, hrecent⟩
  · simp [hbuilt]
  · simp [hever, hrecent]

/-- A Legend that shows the states as they are is left. -/
theorem legendUpdate_same (hsame : s.legendNow = (s.legend.shown, s.legend.lpddr, s.legend.shownSuspects)) :
    s.legendUpdate = s := by
  unfold State.legendUpdate
  simp [hsame]

/-- The Legend as its first update writes it. -/
def State.legendShown (s : State) : State :=
  { s with legend := { s.legend with
    generation := s.legend.generation + 2, shown := s.legendNow.1, lpddr := s.legendNow.2.1
    shownSuspects := s.legendNow.2.2, lastUpdate := s.now, everUpdated := true } }

/-- The first update of a cluster's state writes what changed and raises LEGEND_CHANGED. -/
theorem legendUpdate_first (hbuilt : s.legend.built = true) (hfirst : s.legend.everUpdated = false)
    (hchanged : s.legendNow.1 ≠ s.legend.shown) :
    s.legendUpdate = (s.legendShown.devEvent 0).notify 0x0101 0 [s.legendShown.legend.generation] (fun _ => true) := by
  unfold State.legendUpdate State.legendShown
  refine if_neg fun h => hchanged ?_
  simp only [hbuilt, hfirst, Bool.not_true, Bool.false_and, Bool.or_false, Bool.false_or, Bool.and_eq_true,
    decide_eq_true_eq] at h
  exact h.1.1
end

/-- Settles O20: a host write is told by its place and the part's sleep, a window write by its unit, and the MDIO windows and
the Legend by what they hold. -/
theorem registerRowsComplete : Obligations.RegisterRowsComplete := by
  unfold Obligations.RegisterRowsComplete
  intro s dt addr t reg c mac d v z wd rd up k a
  refine ⟨fun hawake hready => ?dev, fun hawake hout hodd => ?odd, fun ht hreg haligned => ?doorbell, ?read, ?window, ?course,
    fun hmac => ?eth, rfl, fun hbuilt hfirst => ?legend, fun h => congrArg Host.Outcome.next (legendUpdate_early h)⟩
  case dev =>
    intro host
    have hhost {off : Nat} (hoff : off < 0x1000) (haligned : off % 4 = 0) :
        host (0x4000 + off) = .next (a.devWrite off v).advanced :=
      next_advanced ((bar0Access_write_awake hawake _ _ _).trans (bar0Write_dev hoff haligned v))
    have h10 := hhost (off := 0x10) (by omega) (by omega)
    have h14 := hhost (off := 0x14) (by omega) (by omega)
    have h18 := hhost (off := 0x18) (by omega) (by omega)
    refine ⟨fun hopen => ⟨?_, ?_⟩, fun hlocked => ⟨?_, ?_⟩, fun hbit => ?_, fun hbit => ?_, fun hquiet => ?_⟩
    · exact h10.trans (next_advanced ((devWrite_pasid0 hready v).trans (if_neg (by simp [hopen]))))
    · exact h14.trans (next_advanced ((devWrite_pasid1 hready v).trans (if_neg (by simp [hopen]))))
    · exact h10.trans (next_advanced ((devWrite_pasid0 hready v).trans (if_pos hlocked)))
    · exact h14.trans (next_advanced ((devWrite_pasid1 hready v).trans (if_pos hlocked)))
    · exact h18.trans (next_advanced ((devWrite_lock hready v).trans (if_pos hbit)))
    · exact h18.trans (next_advanced ((devWrite_lock hready v).trans (if_neg (by rw [hbit]; exact Bool.false_ne_true))))
    · exact (hhost (off := 0x04) (by omega) (by omega)).trans (next_advanced (devWrite_event hready v hquiet))
  case odd => exact next_advanced ((bar0Access_write_awake hawake _ _ _).trans (bar0Write_odd hout hodd z))
  case doorbell =>
    refine ⟨fun hawake => ?_, fun hstill hasleep => ?_⟩
    · exact next_advanced ((bar0Access_write_awake hawake _ _ _).trans ((bar0Write_doorbell ht hreg haligned v).trans
        (if_neg (by rw [hawake]; exact Bool.false_ne_true))))
    · have hlatched := next_advanced (bar0Access_doorbell_asleep ht hreg haligned v hasleep hstill)
      exact ⟨hlatched, hlatched⟩
  case read => rfl
  case window =>
    intro hmode haligned
    have hwrite := next_advanced (registerWrite_window hmode haligned v)
    exact ⟨fun u hu => hwrite.trans (by rw [hu]; rfl), fun hnone => hwrite.trans (by rw [hnone]; rfl)⟩
  case course => exact fun hc => congrArg Host.Outcome.next (if_pos hc)
  case eth =>
    have hnext {b : State} : (Host.Outcome.next (if mac < 2 then b else a) : Host.Outcome State Fault Refusal) = .next b :=
      congrArg Host.Outcome.next (if_pos hmac)
    refine ⟨fun hset => ?_, fun hstart hbusy => ?_, fun hstart hidle => ?_, fun hruns => ?_, fun hidle => ?_, hnext, ?_⟩
    · exact hnext.trans (congrArg Host.Outcome.next (mdioWrite_set hset))
    · exact hnext.trans (congrArg Host.Outcome.next (mdioWrite_busy hstart hbusy))
    · exact hnext.trans (congrArg Host.Outcome.next (mdioWrite_start hstart hidle))
    · exact hnext.trans (congrArg Host.Outcome.next (mdioEnd_runs hruns rd))
    · exact hnext.trans (congrArg Host.Outcome.next (mdioEnd_idle hidle rd))
    · refine hnext.trans ?_
      cases k <;> rfl
  case legend =>
    exact ⟨fun hsame => congrArg Host.Outcome.next (legendUpdate_same hsame),
      fun hchanged => congrArg Host.Outcome.next (legendUpdate_first hbuilt hfirst hchanged)⟩

end Sys2Proof.Machine
end

section
/-! SUPPORT and the statements settled. The rows of the audio engine (R368, R381, R382, R384, R389, R391, R392, R394). -/

namespace Sys2Proof.Machine

section
variable {s : State}

/-! ### Boundaries and meter windows (R368, R382) -/

/-- A boundary of a Course that the engine does not serve changes nothing. -/
theorem courseBoundary_idle {c : Nat} (hidle : s.audioRuns = false ∨ 2 < c) (inp : CourseInput) : s.courseBoundary c inp = s := by
  unfold State.courseBoundary
  refine if_pos ?_
  rcases hidle with h | h <;> simp [h]

/-- The lanes that a bus of the Course feeds take its sample. -/
def State.feedLanes (c : Nat) (s : State) : State :=
  s.modAudio (fun u => { u with lanes := u.lanes.map (fun (e : Nat × Lane) =>
    if e.2.fromBus && e.2.srcCourse = c then (e.1, { e.2 with input := (s.bus e.2.srcBus).out.getD e.2.srcCh 0 }) else e) })

/-- A boundary stamps and counts the Course, then runs its commands, voices, lanes, buses, ports and captures. -/
theorem courseBoundary_runs {c : Nat} (hruns : s.audioRuns = true) (hc : c ≤ 2) (inp : CourseInput) {d y : State}
    {v w : State × List AudioPart}
    (hd : (((s.modAudio (fun u => { u with courses := IMap.put u.courses c { s.course c with
      count := (s.course c).count + 1, at_ := s.now } })).audioCommands c).pdmInputs
      inp).runAvtp c true = d)
    (hv : ((d.audio.voices.filter (fun e => e.2.course = c && (e.2.owner.isSome || decide (96 ≤ e.1)))).map Prod.fst).foldl
      (State.runVoice inp.starved) (d, []) = v)
    (hw : v.1.runLanes c v.2 = w) (hy : (((w.1.runBuses c w.2).runTdm c).runAvtp c false).feedLanes c = y) :
    s.courseBoundary c inp = (((((y.audio.buses.filter (fun e => e.2.set.course = c && e.2.capture.isSome)).map
      Prod.fst).foldl (fun s b => s.runCapture b (s.course c)) y).tdmInputs c inp).pruneSamples).flushReports := by
  have hserved : ¬ (!s.audioRuns || decide (2 < c)) = true := by simp [hruns, Nat.not_lt.mpr hc]
  unfold State.courseBoundary
  rw [if_neg hserved]
  obtain ⟨v, cs⟩ := v
  obtain ⟨w, parts⟩ := w
  dsimp only at hw hy ⊢
  rw [hd, hv]
  dsimp only
  rw [hw]
  dsimp only
  unfold State.feedLanes at hy
  rw [hy]

/-- A window's end closes the meters of its Course's voices and buses and nothing else (R382). -/
theorem meterWindow_eq (c : Nat) :
    { s.meterWindow c with audio := s.audio } = s ∧
      (∀ v, IMap.find? (s.meterWindow c).audio.meters v = (IMap.find? s.audio.meters v).map (fun m =>
        if (IMap.get s.audio.voices {} v).course = c then m.windowEnd s.now else m)) ∧
      ∀ v, IMap.find? (s.meterWindow c).audio.buses v = (IMap.find? s.audio.buses v).map (fun x =>
        if x.set.course = c then { x with meters := x.meters.map (Meter.windowEnd s.now) } else x) := by
  have hkeyed {α : Type} (p : Nat × α → Bool) (f : α → α) :
      (fun e : Nat × α => if p e then (e.1, f e.2) else e) = fun e => (e.1, if p e then f e.2 else e.2) := by
    funext e
    cases p e <;> rfl
  have hmeters := hkeyed (fun e => decide ((IMap.get s.audio.voices {} e.1).course = c)) (Meter.windowEnd s.now)
  have hbuses := hkeyed (fun e : Nat × Bus => decide (e.2.set.course = c))
    (fun x => { x with meters := x.meters.map (Meter.windowEnd s.now) })
  simp only [decide_eq_true_eq] at hmeters hbuses
  refine ⟨rfl, fun v => ?_, fun v => ?_⟩
  · exact (congrArg (fun f => IMap.find? (s.audio.meters.map f) v) hmeters).trans (IMap.find_map ..)
  · exact (congrArg (fun f => IMap.find? (s.audio.buses.map f) v) hbuses).trans (IMap.find_map ..)

/-! ### Lanes, clocks and ports (R384, R389, R391) -/

section
variable {l : Nat} {x : Lane} (hlane : IMap.find? s.audio.lanes l = some x)
include hlane

/-- A lane whose range has changed is told so and reports it. -/
theorem laneRange_changed {ok : Bool} (hchanged : x.unlocked = ok) :
    s.laneRange l ok = (s.modLane l (fun x => { x with unlocked := !ok })).portReport (if ok then 3 else 2) l 1 := by
  unfold State.laneRange
  rw [hlane]
  exact if_neg (by simp [hchanged])

/-- A lane whose range is what it was reports nothing. -/
theorem laneRange_same {ok : Bool} (hsame : x.unlocked = !ok) : s.laneRange l ok = s := by
  unfold State.laneRange
  rw [hlane]
  exact if_pos (by simp [hsame])
end

/-- The lock bit of an audio clock follows its reference (R391). -/
def State.audioLock (k : Nat) (s : State) : State :=
  { s with clocks := { s.clocks with
    locked := if s.audioClockLost k then s.clocks.locked &&& ~~~((1 : BitVec 15) <<< (12 + k))
      else s.clocks.locked ||| ((1 : BitVec 15) <<< (12 + k)) } }

/-- Clock A relocks: Courses 48 and 16 report it and the commands that wait answer. -/
theorem audioRelock_a (hlocking : s.audio.clkA.locking = true) :
    s.audioRelock 0 = s.audio.clkA.relock.foldl (fun s r => s.completeOk r ([5, 0] ++ words64 s.now))
      ((((s.modAudio (fun u => { u with clkA := { s.audio.clkA with relock := [], locking := false } })).audioLock
        0).portReport 5 0 1).portReport 5 2 1) := by
  unfold State.audioRelock
  exact if_neg (by simp [hlocking])

/-- Clock B relocks: Course 44 reports it and the commands that wait answer. -/
theorem audioRelock_b (hlocking : s.audio.clkB.locking = true) :
    s.audioRelock 1 = s.audio.clkB.relock.foldl (fun s r => s.completeOk r ([2, 0] ++ words64 s.now))
      (((s.modAudio (fun u => { u with clkB := { s.audio.clkB with relock := [], locking := false } })).audioLock
        1).portReport 5 1 1) := by
  unfold State.audioRelock
  exact if_neg (by simp [hlocking])

section
variable {p : Nat} {t : TdmPort}

/-- A port that runs without being its clock's master reports a slip (R389). -/
theorem tdmSlip_reports {input : Bool}
    (hport : (if input then IMap.find? s.audio.tdmIn p else IMap.find? s.audio.tdmOut p) = some t) (hon : t.on = true)
    (hslave : bitOf t.format 2 = false) : s.tdmSlip p input = s.portReport 1 (if input then p + 4 else p) 1 := by
  unfold State.tdmSlip
  simp only [hport, hon, hslave, Bool.not_true, Bool.or_self, Bool.false_eq_true, if_false]

/-- A port that is off, or is its clock's master, does not slip. -/
theorem tdmSlip_none {input : Bool}
    (hport : (if input then IMap.find? s.audio.tdmIn p else IMap.find? s.audio.tdmOut p) = some t)
    (hno : t.on = false ∨ bitOf t.format 2 = true) : s.tdmSlip p input = s := by
  unfold State.tdmSlip
  simp only [hport]
  exact if_pos (by rcases hno with h | h <;> simp [h])
end

/-! ### AVTP packets (R392) -/

/-- When a packet's presentation time falls in Meridian, by the relation of its MAC. -/
def State.avtpTime (s : State) (g : Bool × Int × Nat) (pt : Nat) : Meridian :=
  s.now + BitVec.ofInt 64 (signed 32 (wrapTo 32 ((pt : Int) - gptpOf g s.now)) * 2 ^ 32 / (max 1 g.2.2 : Nat))

section
variable {n : Nat} {x : Avtp} {g : Bool × Int × Nat} (hstream : IMap.find? s.audio.avtp (16 + n) = some x)
  (hmac : IMap.find? s.disp.gptp x.mac = some g) {pt : Nat} (xs : List (List Int))
include hstream hmac

/-- A packet that is late is counted and reported. -/
theorem avtpPacket_late (hlate : meridianDiff (s.avtpTime g pt) s.now < 0) :
    s.avtpPacket n pt xs = ((s.modEth x.mac (fun m => { m with rx := satInc 0xFFFFFFFF m.rx 1 })).modAudio (fun u => { u with
      avtp := IMap.put u.avtp (16 + n) { x with started := true, late := x.late + 1, gap := 0 } })).portReport 4 n 1 := by
  have hkept : IMap.find? (s.modEth x.mac (fun m => { m with rx := satInc 0xFFFFFFFF m.rx 1 })).disp.gptp x.mac = some g := hmac
  unfold State.avtpPacket
  rw [hstream]
  dsimp only
  rw [hkept]
  exact if_pos hlate

/-- The samples of a packet in time wait for their times. -/
theorem avtpPacket_queued (hdue : 0 ≤ meridianDiff (s.avtpTime g pt) s.now) :
    s.avtpPacket n pt xs = (s.modEth x.mac (fun m => { m with rx := satInc 0xFFFFFFFF m.rx 1 })).modAudio (fun u => { u with
      avtp := IMap.put u.avtp (16 + n) { x with
        started := true
        queue := x.queue ++ xs.zipIdx.map (fun e =>
          (s.avtpTime g pt + BitVec.ofNat 64 (e.2 * 1024000000 / courseRate x.course), e.1)) } }) := by
  have hkept : IMap.find? (s.modEth x.mac (fun m => { m with rx := satInc 0xFFFFFFFF m.rx 1 })).disp.gptp x.mac = some g := hmac
  unfold State.avtpPacket
  rw [hstream]
  dsimp only
  rw [hkept]
  exact if_neg (Int.not_lt.mpr hdue)
end

/-! ### Captures (R394) -/

section
variable {b : Nat} {k : ACapture}

/-- A block that has ended gives its event and frees its pages, and a capture told to stop may end. -/
theorem acapEvent_ended (hcapture : (s.bus b).capture = some k) {st : Nat} (hended : k.status = some st) :
    s.acapEvent b = State.acapStop b ((s.eventStatus k.owner 0x0B04 st
      ([word b, word k.page, word k.written, word k.skipped] ++ words64 k.first ++ words64 k.time)).modACap b (fun k => { k with
        pw := k.pw + word (ceilDiv k.written 4096), status := none, skipped := 0, tail := [] })) := by
  unfold State.acapEvent
  simp only [hcapture, hended]

/-- A bus without a capture has no block to end. -/
theorem acapEvent_none (hnone : (s.bus b).capture = none) : s.acapEvent b = s := by
  unfold State.acapEvent
  simp only [hnone]

/-- A bus without a capture stalls nothing. -/
theorem acapStall_none (hnone : (s.bus b).capture = none) : s.acapStall b = s := by
  unfold State.acapStall
  simp only [hnone]

/-- A stall abandons the rest of a block in progress. -/
theorem acapStall_live (hcapture : (s.bus b).capture = some k) (hlive : k.live = true) (htaken : k.skip = false)
    (hopen : k.status = none) :
    s.acapStall b = s.modACap b (fun k => { k with status := some eTrunc, tail := [], skip := true }) := by
  unfold State.acapStall
  simp only [hcapture, hlive, htaken, hopen, Bool.not_true, Bool.or_self, Option.isSome_none, Bool.false_eq_true, if_false]
end
end

/-- Settles O21: the boundary by its stages, and each other row by what it finds. -/
theorem audioRowsComplete : Obligations.AudioRowsComplete := by
  unfold Obligations.AudioRowsComplete
  intro s dt c l p n b inp ok pt xs a
  refine ⟨fun hruns hc => ?boundary, fun hidle => next_advanced (courseBoundary_idle hidle inp), ⟨_, rfl, meterWindow_eq c⟩,
    rfl, fun x hlane => ⟨fun hchanged => ?_, fun hsame => ?_⟩, ⟨fun hlocking => ?_, fun hlocking => ?_⟩,
    fun t hport => ⟨fun hon hslave => ?_, fun hno => ?_⟩, fun t hport hon hslave => ?_,
    fun x g hstream hmac => ⟨fun hlate => ?_, fun hdue => ?_⟩, fun k st hcapture hended => ?_, fun hnone => ⟨?_, ?_⟩,
    fun x hcapture hlive htaken hopen => ?_⟩
  case boundary => exact next_advanced (courseBoundary_runs hruns hc inp rfl rfl rfl rfl)
  · exact congrArg Host.Outcome.next (laneRange_changed hlane hchanged)
  · exact congrArg Host.Outcome.next (laneRange_same hlane hsame)
  · exact congrArg Host.Outcome.next (audioRelock_a hlocking)
  · exact congrArg Host.Outcome.next (audioRelock_b hlocking)
  · exact congrArg Host.Outcome.next (tdmSlip_reports (input := true) hport hon hslave)
  · exact congrArg Host.Outcome.next (tdmSlip_none (input := true) hport hno)
  · exact congrArg Host.Outcome.next (tdmSlip_reports (input := false) hport hon hslave)
  · exact congrArg Host.Outcome.next (avtpPacket_late hstream hmac xs hlate)
  · exact congrArg Host.Outcome.next (avtpPacket_queued hstream hmac xs hdue)
  · exact next_advanced (acapEvent_ended hcapture hended)
  · exact next_advanced (acapEvent_none hnone)
  · exact congrArg Host.Outcome.next (acapStall_none hnone)
  · exact congrArg Host.Outcome.next (acapStall_live hcapture hlive htaken hopen)

end Sys2Proof.Machine
end

section
/-! SUPPORT and the statements settled. Waits, fetches, heartbeats, self-tests and maintenance activities (R107 to R113, R316,
R337, R338, R343, R351, R363, R546). -/

namespace Sys2Proof.Machine

section
variable {s : State}

/-! ### Waits (R546) -/

/-- No command, no wait to end. -/
theorem waitEnd_none {t : Nat} {i : Word} (hnone : s.flightAt t i = none) : s.waitEnd t i = s := by
  unfold State.waitEnd
  rw [hnone]

section
variable {t : Nat} {i : Word} {f : Flight} (hflight : s.flightAt t i = some f)
include hflight

/-- A command that waits does its job when the wait ends. -/
theorem waitEnd_waiting {j : Job} (hstage : f.stage = .waiting j) : s.waitEnd t i = s.jobEnd (f.cmd.ref f.opcode) j := by
  unfold State.waitEnd
  simp only [hflight, hstage]

/-- A command that does not wait is left as it is. -/
theorem waitEnd_other (hstage : f.stage = .fetched ∨ f.stage = .running ∨ f.stage = .formed) : s.waitEnd t i = s := by
  unfold State.waitEnd
  rcases hstage with h | h | h <;> simp only [hflight, h]
end

/-- An unmapping ends once nothing that it translated is outstanding (R103). -/
theorem unmapEnd_free {r : CmdRef} {ls : List Leaf} (hfree : ls.any (fun l => s.loadsOutstanding r.tenant l.base l.size) = false) :
    s.unmapEnd r ls = s.completeOk r [] :=
  if_neg (by rw [hfree]; exact Bool.false_ne_true)

/-! ### Reads that return (R107 to R113) -/

/-- Data that was corrected, outside the Cartouche store and not for a scan engine, is counted by its word (R110). -/
theorem fetchReturn_corrected {req : Requester} {p : Nat} (hplace : inStore p = false) (hscan : ∀ x y z, req ≠ .scan x y z) :
    s.fetchReturn req (.corrected p) = (s.learnError (.corrected p)).noteCe (wordBase p) := by
  have hcount : (s.learnError (.corrected p)).countError (.corrected p) = (s.learnError (.corrected p)).noteCe (wordBase p) :=
    if_neg (by rw [hplace]; exact Bool.false_ne_true)
  cases req with
  | scan x y z => exact absurd rfl (hscan x y z)
  | _ => exact hcount

/-- A plane's read that finds no mapping faults and cuts the plane's line. -/
theorem fetchReturn_plane {h slot unit px p : Nat} {q : Plane} (hplane : IMap.find? (s.head h).planes slot = some q) :
    s.fetchReturn (.plane h slot unit px) (.unmapped p) = (s.planeFault h slot q.owner ⟨p, 1⟩).cutPlane h slot px := by
  show s.requesterFault (.plane h slot unit px) ⟨p, 1⟩ false = _
  simp only [State.requesterFault, hplane]

/-- A voice that has not faulted does so at its first denied read, and reports it (R108, R378). -/
theorem fetchReturn_voice {v o p : Nat} (howner : (s.voice v).tenant v = some o) (hfault : (s.voice v).fault = 0)
    (hdue : (s.voice v).faultDue = 0) :
    s.fetchReturn (.voice v) (.access p) =
      ((s.modVoice v (fun x => { x with faultDue := 1 })).atlasFault o ⟨p, 2⟩ 0x030A 0).voiceFaultReport v 1 1 := by
  show s.voiceFetchFault v 1 (some ⟨p, 2⟩) = _
  unfold State.voiceFetchFault
  simp only [howner, hfault, hdue, ne_eq, not_true, decide_false, Bool.or_self, Bool.false_eq_true, if_false]

/-- A ring that the host does not answer stops its mailbox. -/
theorem fetchReturn_ring {t p : Nat} {x : Tenant} (htenant : s.tenant? t = some x) (hruns : x.mbox.state = .running) :
    s.fetchReturn (.ring t) (.hostError p) = s.stopMbox t eFault false := by
  show s.requesterFault (.ring t) ⟨p, 3⟩ false = _
  simp only [State.requesterFault, htenant, hruns, if_true]

/-! ### Heartbeats and self-tests (R337, R338, R343) -/

section
variable {n : Nat} (hserves : (s.cluster n).service = .active ∨ (s.cluster n).service = .spare)
  (hmode : s.power.mode = .drive ∨ s.power.mode = .service)
include hserves hmode

/-- Where heartbeats count, a good one clears the count of those missed; the third missed in a row is death. -/
theorem heartbeat_eq (good : Bool) :
    s.heartbeat n good = if good then s.modCluster n (fun k => { k with missed := 0 })
      else if (s.cluster n).missed < 2 then s.modCluster n (fun k => { k with missed := k.missed + 1 })
      else s.declareDead n := by
  unfold State.heartbeat
  refine if_neg ?_
  have hs : (decide ((s.cluster n).service = .active) || decide ((s.cluster n).service = .spare)) = true := by simpa using hserves
  have hm : (decide (s.power.mode = .drive) || decide (s.power.mode = .service)) = true := by simpa using hmode
  simp only [hs, hm, Bool.not_true, Bool.or_self, Bool.false_eq_true, not_false_eq_true]
end

/-- The self-test of a quarantined cluster ends the activity; the cluster becomes Spare or Retired (R343). -/
theorem selfTestEnd_runs {n : Nat} (hruns : (s.activity 4).running = true) (hcluster : (s.activity 4).cluster = some n)
    (hquarantined : (s.cluster n).service = .quarantined) (ok : Bool) {b c : State}
    (hb : (s.modActivity 4 (fun x => { x with running := false, cluster := none })).orderEvent 4 (if ok then 2 else 3) 0
      (some n) = b)
    (hc : (b.setService n (if ok then .spare else .retired) none (if ok then 3 else 4)).modCluster n (fun k => { k with
      head := none, missed := 0 }) = c) :
    s.selfTestEnd n ok = (if ok then c.giveSpare n else c).startQueued := by
  subst hb hc
  unfold State.selfTestEnd
  exact if_neg (by simp [hruns, hcluster, hquarantined])

/-! ### Maintenance activities (R351, R363) -/

/-- An activity whose period has elapsed is due. -/
theorem maintenanceDue_due {n : Nat} (hlow : 1 ≤ n) (hhigh : n ≤ 6) (henabled : (s.activity n).enabled = true)
    (hmode : actInMode n s.power.mode = true) (hperiod : s.activityPeriod n ≤ s.since (s.activity n).lastStart) :
    s.maintenanceDue n = s.activityDue n none := if_pos ⟨hlow, hhigh, henabled, hmode, hperiod⟩

/-- A disabled activity, or one whose period runs, is not due. -/
theorem maintenanceDue_not {n : Nat}
    (hno : (s.activity n).enabled = false ∨ s.since (s.activity n).lastStart < s.activityPeriod n) :
    s.maintenanceDue n = s := by
  refine if_neg ?_
  rintro ⟨-, -, henabled, -, hperiod⟩
  rcases hno with h | h
  · exact Bool.false_ne_true (h.symm.trans henabled)
  · exact absurd hperiod (Nat.not_le.mpr h)

/-- An activity that ends has its effect, and the commands that started it get their records. -/
theorem maintenanceEnd_runs {n : Nat} (hruns : (s.activity n).running = true) (hn : n ≠ 4) (ok : Bool) (heads : List Nat)
    {b c : State} (hb : s.modActivity n (fun x => { x with running := false, cluster := none, refs := [] }) = b)
    (hc : (b.activityEffect n ok heads (s.activity n).cluster).orderEvent n (if ok then 2 else 3) 0 (s.activity n).cluster = c) :
    s.maintenanceEnd n ok heads =
      ((s.activity n).refs.foldl (fun s r => s.completeOk r [if ok then 0 else 1]) c).startQueued := by
  subst hb hc
  unfold State.maintenanceEnd
  refine if_neg ?_
  cases (s.activity n).cluster <;> simp [hruns, hn]
end

/-- Settles O22: a wait by its job, a returned read by its outcome and requester, a heartbeat by what it tells, and an
activity by whether it is due or runs. -/
theorem waitFetchAndMaintenanceRowsComplete : Obligations.WaitFetchAndMaintenanceRowsComplete := by
  unfold Obligations.WaitFetchAndMaintenanceRowsComplete
  intro s dt t n p h slot px v i ok good heads a
  refine ⟨fun f hflight => ?waits, fun hnone => next_advanced (waitEnd_none hnone), fun req => ?_, fun req hplace hscan => ?_,
    fun q hplane => ?_, fun o howner hfault hdue => ?_, fun x htenant hruns => ?_, rfl, fun hserves hmode => ?heartbeat,
    fun hruns hcluster hquarantined => ?_, fun hlow hhigh henabled hmode hperiod => ?_, fun hno => ?_, fun hruns hn => ?_⟩
  case waits =>
    intro r ends
    refine ⟨fun ls k hstage => ?_, fun ls hstage hfree => ?_, fun b cls k hstage => ?_, fun hstage => ?_⟩
    · exact next_advanced (waitEnd_waiting hflight hstage)
    · exact next_advanced ((waitEnd_waiting hflight hstage).trans (unmapEnd_free hfree))
    · exact next_advanced (waitEnd_waiting hflight hstage)
    · exact next_advanced (waitEnd_other hflight hstage)
  · refine next_advanced ?_
    cases req <;> rfl
  · exact next_advanced (fetchReturn_corrected hplace hscan)
  · exact next_advanced (fetchReturn_plane hplane)
  · exact next_advanced (fetchReturn_voice howner hfault hdue)
  · exact next_advanced (fetchReturn_ring htenant hruns)
  case heartbeat =>
    have heq (good : Bool) := congrArg (Host.Outcome.next (φ := Fault) (ρ := Refusal)) (heartbeat_eq hserves hmode good)
    refine ⟨(heq true).trans rfl, fun hbad hfew => (heq (ok && good)).trans ?_, fun hbad hmany => (heq (ok && good)).trans ?_⟩
    · rw [hbad]
      exact congrArg Host.Outcome.next (if_pos hfew)
    · rw [hbad]
      exact congrArg Host.Outcome.next (if_neg (Nat.not_lt.mpr hmany))
  · exact congrArg Host.Outcome.next (selfTestEnd_runs hruns hcluster hquarantined ok rfl rfl)
  · exact congrArg Host.Outcome.next (maintenanceDue_due hlow hhigh henabled hmode hperiod)
  · exact congrArg Host.Outcome.next (maintenanceDue_not hno)
  · exact congrArg Host.Outcome.next (maintenanceEnd_runs hruns hn ok heads rfl rfl)

end Sys2Proof.Machine
end

section
/-! SUPPORT and the statements settled. The governor and armed changes (R346 to R348, R353, R354, R358 to R360). -/

namespace Sys2Proof.Machine

section
variable {s : State}

/-! ### The governor (R353, R354, R358 to R360) -/

/-- Where the governor does not run, an evaluation does nothing. -/
theorem govern_idle (hidle : s.governs = false) (temps : List Int) (acts : List Nat) : s.govern temps acts = s :=
  if_neg (by rw [hidle]; exact Bool.false_ne_true)

/-- An evaluation takes the readings, then forces Tell, steps the clock and degrades or restores as they say. -/
theorem govern_runs (hruns : s.governs = true) (temps : List Int) (acts : List Nat) :
    s.govern temps acts = ((((s.takeReadings temps acts).forceTell.stepDown).stepUp).degrade).restore := if_pos hruns

/-- THERMTRIP_N is driven, and reported where the governor runs (R358). -/
theorem thermtrip_powered (hpower : s.power.pwrfail = false) :
    s.thermtrip = if s.governs then (s.modGov (fun g => { g with thermtrip := true })).decision 6 0
      else (s.modGov (fun g => { g with thermtrip := true })).devEvent 1 :=
  if_neg (by rw [hpower]; exact Bool.false_ne_true)

/-- While PWRFAIL_N is low the pin stays released (R433). -/
theorem thermtrip_failing (hfail : s.power.pwrfail = true) : s.thermtrip = s := if_pos hfail

/-- A leakage is anchored in a quiet part that the governor runs in (R360). -/
theorem anchor_quiet (hruns : s.governs = true) (hquiet : s.quiet = true) (i : Nat) :
    s.anchor i = if s.disp.gov.unanchored
      then (s.modGov (fun g => { g with anchor := some i, unanchored := false, lastAnchor := s.now })).decision 8 0
      else s.modGov (fun g => { g with anchor := some i, unanchored := false, lastAnchor := s.now }) :=
  if_pos (by rw [hruns, hquiet]; rfl)

/-- No leakage is anchored otherwise. -/
theorem anchor_busy (hno : s.governs = false ∨ s.quiet = false) (i : Nat) : s.anchor i = s :=
  if_neg (by rcases hno with h | h <;> simp [h])

/-- Without a governor no estimator loses its anchor. -/
theorem unanchor_idle (hidle : s.governs = false) : s.unanchor = s := if_neg (by simp [hidle])

/-- After 10 s without a quiet interval the estimator is unanchored (R360). -/
theorem unanchor_late (hruns : s.governs = true) (hanchored : s.disp.gov.unanchored = false)
    (hlate : 10000 * 1024000 ≤ s.since s.disp.gov.lastAnchor) :
    s.unanchor = (s.modGov (fun g => { g with unanchored := true })).decision 7 0 :=
  if_pos (by simp only [hruns, hanchored, Bool.not_false, Bool.true_and, decide_eq_true_eq]; exact hlate)

/-! ### Armed changes (R346 to R348) -/

section
variable {id : Nat}

section
variable (hnone : s.disp.arms.find? (fun k => k.id = id) = none)
include hnone

/-- No change of that number is armed: no deadline passes. -/
theorem armDeadline_none (us : List ArmUnit) : s.armDeadline id us = s := by
  unfold State.armDeadline
  rw [hnone]

/-- No change of that number is armed: none applies. -/
theorem applyTime_none : s.applyTime id = s := by
  unfold State.applyTime
  rw [hnone]

/-- No change of that number is armed: no unit is to acknowledge. -/
theorem ackTimeout_none (u : ArmUnit) : s.ackTimeout id u = s := by
  unfold State.ackTimeout
  rw [hnone]

/-- No change of that number is armed: none rolls back. -/
theorem rollback_none : s.rollback id = s := by
  unfold State.rollback
  rw [hnone]
end

variable {k : ArmChange} (harm : s.disp.arms.find? (fun k => k.id = id) = some k)

/-- A unit counts for a deadline where it takes part and its deadline has passed. -/
def State.overdue (s : State) (k : ArmChange) (us : List ArmUnit) : List ArmUnit :=
  us.filter (fun u => s.takesPart k u && s.deadlinePassed k u)

include harm

/-- The change found under a number carries it. -/
theorem armed_id : k.id = id := by simpa using List.find?_some harm

/-- A deadline that no unit has missed changes nothing. -/
theorem armDeadline_met {us : List ArmUnit} (hmet : ∀ u ∈ us, s.takesPart k u = false ∨ s.deadlinePassed k u = false) :
    s.armDeadline id us = s := by
  have hnone : s.overdue k us = [] := List.filter_eq_nil_iff.mpr fun u hu => by
    rcases hmet u hu with h | h <;> simp [h]
  unfold State.overdue at hnone
  unfold State.armDeadline
  simp only [harm, hnone, List.isEmpty_nil, Bool.true_or, if_true]

/-- A step of CCLK that units miss for the first time is armed again a millisecond later, with no unit left out (R346). -/
theorem armDeadline_missed {us : List ArmUnit} {n : Nat} (hkind : k.kind = .cclk n) (hwaits : k.applied = false)
    (harmed : s.disp.armedNow id = true) (hfirst : k.missed = []) (hus : us ≠ [])
    (hmissed : ∀ u ∈ us, s.takesPart k u = true ∧ s.deadlinePassed k u = true) :
    s.armDeadline id us = s.modArm id (fun k => { k with
      attempt := k.attempt + 1, missed := us.map (fun u => (u, 1)), leftOut := k.leftOut
      applyAt := k.applyAt + BitVec.ofNat 64 msTicks }) := by
  have hall : us.filter (fun u => s.takesPart k u && s.deadlinePassed k u) = us := List.filter_eq_self.mpr fun u hu => by
    obtain ⟨hpart, hlate⟩ := hmissed u hu
    simp [hpart, hlate]
  have hcounts : missCount [] us = us.map (fun u => (u, 1)) := rfl
  have hkept : (us.map (fun u => (u, 1))).filter (fun e => decide (e.2 < 3)) = us.map (fun u => (u, 1)) :=
    List.filter_eq_self.mpr (by simp)
  have hout : (us.map (fun u => (u, 1))).filter (fun e => decide (3 ≤ e.2)) = [] := List.filter_eq_nil_iff.mpr (by simp)
  have hus' : us.isEmpty = false := by simpa using hus
  unfold State.armDeadline
  simp only [harm, hall, hkind, armed_id harm, hwaits, harmed, hfirst, hcounts, hkept, hout, hus', Bool.not_true,
    Bool.or_self, Bool.false_eq_true, if_false, List.map_nil, List.foldl_nil, List.append_nil]

section
variable {n : Nat} (hkind : k.kind = .cclk n)
include hkind

/-- A unit that does not acknowledge a step of CCLK in time is Suspect and keeps the old CCLK; the step is to roll back a
frame later (R347). -/
theorem ackTimeout_cclk {u : ArmUnit} (happlied : k.applied = true) (hfailed : u ∉ k.failed) (hpart : s.takesPart k u = true)
    (hdue : s.ackDue k.appliedAt = true) {b c : State} (hb : s.markSuspect u = b)
    (hc : b.modArm id (fun k => { k with
      failed := k.failed ++ [u], applyAt := if k.failed.isEmpty then k.applyAt + s.frameLater else k.applyAt }) = c) :
    s.ackTimeout id u = { c with
      clocks := { c.clocks with keeps := c.clocks.keeps ++ [(u, k.old.getLastD c.clocks.cclk)] } } := by
  have hnew : k.failed.contains u = false := by simpa using hfailed
  unfold State.ackTimeout
  simp only [harm, hpart, hkind, happlied, hnew, hdue, hb, hc, Bool.not_true, Bool.or_self, Bool.false_eq_true, if_false]

/-- A step of CCLK that failed rolls back at its time, and the governor may step again at once (R347). -/
theorem rollback_cclk (hfailed : k.failed ≠ []) (harmed : s.disp.armedNow id = true) (hcome : s.hasCome k.applyAt = true)
    {b : State} (hb : s.modDisp (fun d => { d with arms := d.arms.filter (fun a => a.id ≠ id) }) = b) :
    s.rollback id = ({ b with clocks := { b.clocks with
      cclk := k.old.headD b.clocks.cclk, keeps := k.oldKeeps } } : State).modGov (fun g => { g with
        downAt := none, upAt := none }) := by
  have hsome : k.failed.isEmpty = false := by simpa using hfailed
  unfold State.rollback
  simp only [harm, hkind, hsome, harmed, hcome, hb, Bool.not_true, Bool.or_self, Bool.false_eq_true, if_false]
end

/-- A unit that takes no part is not waited for. -/
theorem ackTimeout_apart {u : ArmUnit} (hapart : s.takesPart k u = false) : s.ackTimeout id u = s := by
  unfold State.ackTimeout
  simp only [harm, hapart, Bool.not_false, if_true]

/-- A change does not apply before its time. -/
theorem applyTime_early (hearly : s.hasCome k.applyAt = false) : s.applyTime id = s := by
  unfold State.applyTime
  simp only [harm, hearly, Bool.not_false, Bool.or_true, if_true]

/-- A change does not roll back before its time. -/
theorem rollback_early (hearly : s.hasCome k.applyAt = false) : s.rollback id = s := by
  unfold State.rollback
  simp only [harm, hearly, Bool.not_false, Bool.or_true, if_true]

section
variable (hwaits : k.applied = false) (harmed : s.disp.armedNow id = true) (hcome : s.hasCome k.applyAt = true) {b : State}
  (hb : s.modArm id (fun k => { k with applied := true, appliedAt := s.now, oldKeeps := s.clocks.keeps }) = b)
include hwaits harmed hcome hb

/-- A step of CCLK applies at its time; units left out keep what they have (R346). -/
theorem applyTime_cclk {n : Nat} (hkind : k.kind = .cclk n) :
    s.applyTime id = { b with clocks := { s.clocks with
      cclk := min n s.clocks.cclkMax, keeps := k.leftOut.map (fun u => (u, s.clocks.unitCclk u)) } } := by
  unfold State.applyTime
  simp only [harm, hkind, hwaits, harmed, hcome, hb, Bool.not_true, Bool.or_self, Bool.false_eq_true, if_false]
  rfl

/-- A clock plan applies at its time and its command answers. -/
theorem applyTime_plan {r : CmdRef} {cc f p cp : Nat} (hkind : k.kind = .plan r cc f p cp) :
    s.applyTime id = State.completeOk r [] { b with clocks := { s.clocks.plan cc f p cp with
      keeps := k.leftOut.map (fun u => (u, s.clocks.unitCclk u)) } } := by
  unfold State.applyTime
  simp only [harm, hkind, hwaits, harmed, hcome, hb, Bool.not_true, Bool.or_self, Bool.false_eq_true, if_false]
  rfl
end
end
end

/-- Settles O23: the governor's rows by whether it runs, those of a change by whether it is armed, its kind and its time. -/
theorem governorAndArmRowsComplete : Obligations.GovernorAndArmRowsComplete := by
  unfold Obligations.GovernorAndArmRowsComplete
  intro s dt id i temps acts us u a
  refine ⟨fun hruns => congrArg Host.Outcome.next (govern_runs hruns temps acts), fun hidle => ⟨?_, ?_, ?_⟩, fun hpower => ?trip,
    fun hfail => congrArg Host.Outcome.next (thermtrip_failing hfail), fun hruns => ?anchor, fun hnone => ⟨?_, ?_, ?_, ?_⟩,
    fun k harm => ?armed⟩
  · exact congrArg Host.Outcome.next (govern_idle hidle temps acts)
  · exact congrArg Host.Outcome.next (anchor_busy (.inl hidle) i)
  · exact congrArg Host.Outcome.next (unanchor_idle hidle)
  case trip =>
    have htrip := congrArg (Host.Outcome.next (φ := Fault) (ρ := Refusal)) (thermtrip_powered hpower)
    exact ⟨fun hruns => htrip.trans (congrArg Host.Outcome.next (if_pos hruns)),
      fun hidle => htrip.trans (congrArg Host.Outcome.next (if_neg (by rw [hidle]; exact Bool.false_ne_true)))⟩
  case anchor =>
    exact ⟨fun hquiet => congrArg Host.Outcome.next (anchor_quiet hruns hquiet i),
      fun hbusy => congrArg Host.Outcome.next (anchor_busy (.inr hbusy) i),
      fun hanchored hlate => congrArg Host.Outcome.next (unanchor_late hruns hanchored hlate)⟩
  · exact congrArg Host.Outcome.next (armDeadline_none hnone us)
  · exact next_advanced (applyTime_none hnone)
  · exact next_advanced (ackTimeout_none hnone u)
  · exact congrArg Host.Outcome.next (rollback_none hnone)
  case armed =>
    refine ⟨fun n hkind hwaits harmed _ hfirst hus hmissed => ?_, fun hmet => ?_, fun hwaits harmed hcome => ?apply,
      fun hearly => ⟨?_, ?_⟩, fun n hkind happlied hfailed hpart hdue => ?_, fun hapart => ?_,
      fun n hkind hfailed harmed hcome => ?_⟩
    · exact congrArg Host.Outcome.next (armDeadline_missed harm hkind hwaits harmed hfirst hus hmissed)
    · exact congrArg Host.Outcome.next (armDeadline_met harm hmet)
    case apply =>
      exact ⟨fun n hkind => next_advanced (applyTime_cclk harm hwaits harmed hcome rfl hkind),
        fun r cc f p cp hkind => next_advanced (applyTime_plan harm hwaits harmed hcome rfl hkind)⟩
    · exact next_advanced (applyTime_early harm hearly)
    · exact congrArg Host.Outcome.next (rollback_early harm hearly)
    · exact next_advanced (ackTimeout_cclk harm hkind happlied hfailed hpart hdue rfl rfl)
    · exact next_advanced (ackTimeout_apart harm hapart)
    · exact congrArg Host.Outcome.next (rollback_cclk harm hkind hfailed harmed hcome rfl)

end Sys2Proof.Machine
end

section
/-! SUPPORT and the statements settled. The Pegbox and its wake sources (R399, R403, R404, R409, R410). -/

namespace Sys2Proof.Machine

section
variable {s : State}

/-! ### Wake sources and the phrase detector (R399, R403, R404, R410) -/

/-- The listen program's store of a wake request (R399). -/
theorem wakeReqStore_runs (hruns : s.peg.running = true) (hawake : s.pegAwake = true) (v : Word) :
    s.wakeReqStore v = s.pegStore 0x30000000 (v.truncate 8) := if_pos (by rw [hruns, hawake]; rfl)

/-- Without a listen program that is awake there is no store. -/
theorem wakeReqStore_none (hno : s.peg.running = false ∨ s.pegAwake = false) (v : Word) : s.wakeReqStore v = s :=
  if_neg (by rcases hno with h | h <;> simp [h])

/-- A part that is off takes no mel frame. -/
theorem melFrame_off (hoff : s.power.mode = .off) (xs : List (Int × Int)) : s.melFrame xs = s := if_pos hoff

/-- The Pegbox after a mel frame: the ring has the new sample frames, and the history its last frames. -/
def Peg.heard (g : Peg) (xs : List (Int × Int)) (mel : List Int) : Peg :=
  let k := xs.foldl Peg.sampleFrame g
  { k with mel := mel, hist := (k.hist ++ [mel]).drop ((k.hist ++ [mel]).length - ((k.model.map (·.context)).getD 0)) }

/-- A mel frame swaps the model in, copies what reads wait for, keeps its bands and makes the evaluation due (R403). -/
theorem melFrame_on (hon : s.power.mode ≠ .off) (xs : List (Int × Int)) {p c : State} {m : List Nat × State}
    (hp : s.modelSwap = p)
    (hm : (if p.cpRuns then { p with prerolls := p.prerolls.map p.peg.copyPreroll } else p).freshList 40 = m)
    (hc : m.2.modPeg (fun g => g.heard xs (m.1.map (fun v => Int.ofNat (v % 0x8000)))) = c) :
    s.melFrame xs = (c.modPeg (fun g => { g with
      evalDue := (match c.peg.model with
        | none => false
        | some m => c.peg.hist.length = m.context) && c.pegAwake })).pegCause 1 := by
  obtain ⟨vs, b⟩ := m
  unfold State.melFrame
  rw [if_neg hon, hp]
  dsimp only
  rw [hm]
  subst hc
  rfl

/-- Without a model nothing is evaluated. -/
theorem evaluationDone_none (hnone : s.peg.model = none) : s.evaluationDone = s := by
  unfold State.evaluationDone
  rw [hnone]

/-- The Pegbox after an evaluation whose chosen class has a score: a score at or above the threshold lengthens the streak. -/
def Peg.evaluated (g : Peg) (sc : List Nat) (w : WakeSource) (y : Nat) : Peg :=
  { g with
    evalDue := false, scores := sc ++ g.scores.drop sc.length, score := y
    streak := if w.threshold ≤ y then g.streak + 1 else 0 }

/-- An evaluation keeps its scores, and a streak of the frames asked for is a match (R404). -/
theorem evaluationDone_eq {m : Model} {w : WakeSource} {y : Nat} (hmodel : s.peg.model = some m) (hdue : s.peg.evalDue = true)
    (hawake : s.pegAwake = true) (hsource : IMap.find? s.peg.sources 2 = some w)
    (hscore : (m.scores s.peg.hist)[w.cls]? = some y) :
    s.evaluationDone = if w.frames ≤ (if w.threshold ≤ y then s.peg.streak + 1 else 0)
      then (s.modPeg (fun g => g.evaluated (m.scores s.peg.hist) w y)).phraseMatch w.cls y
      else s.modPeg (fun g => g.evaluated (m.scores s.peg.hist) w y) := by
  unfold State.evaluationDone
  simp only [hmodel, hdue, hawake, Bool.not_true, Bool.or_self, Bool.false_eq_true, if_false]
  have hkept : IMap.find? (s.modPeg (fun g => { g with
      evalDue := false, scores := m.scores s.peg.hist ++ g.scores.drop (m.scores s.peg.hist).length })).peg.sources 2 = some w :=
    hsource
  simp only [hkept, hscore]
  rfl

/-! ### The I²C wake target (R409) -/

/-- The target answers its own address, raises wake source 1, and in Keep stretches. -/
theorem i2cMatch_own {addr : BitVec 7} (hown : addr.toNat = 0x4C + s.peg.i2c.straps) (hon : s.power.mode ≠ .off)
    (hreset : s.boot.resetLow = false) (rd : Bool) :
    s.i2cMatch addr rd = (s.modI2c (fun i => { i with
      active := true, reading := rd, first := !rd, stretching := !s.pegAwake, dead := false, nack := false })).sourceWake 1 :=
  if_neg (by simp [hown, hon, hreset])

/-- The target leaves any other address. -/
theorem i2cMatch_other {addr : BitVec 7} (hother : addr.toNat ≠ 0x4C + s.peg.i2c.straps) (rd : Bool) :
    s.i2cMatch addr rd = s.modI2c (fun i => { i with active := false }) := if_pos (by simp [hother])

section
variable (hactive : s.peg.i2c.active = true) (hwrites : s.peg.i2c.reading = false)
include hactive hwrites

/-- A byte written after the index byte while the Pegbox is awake is stored, and is a cause of source 4. -/
theorem i2cWrite_stored (hlive : s.peg.i2c.dead = false) (hawake : s.pegAwake = true) (b : Byte) :
    s.i2cWrite b = (s.i2cStore b).pegCause 4 := by
  unfold State.i2cWrite
  simp only [hactive, hwrites, hlive, hawake, Bool.not_true, Bool.or_self, Bool.false_eq_true, if_false]

/-- After a stretch that timed out a byte written is not acknowledged. -/
theorem i2cWrite_dead (hdead : s.peg.i2c.dead = true) (b : Byte) :
    s.i2cWrite b = s.modI2c (fun i => { i with nack := true }) := by
  unfold State.i2cWrite
  simp only [hactive, hwrites, hdead, Bool.not_true, Bool.or_self, Bool.false_eq_true, if_false, if_true]
end

/-- The target after a byte that is stored at its index. -/
def State.i2cTaken (s : State) (b : Byte) : State :=
  s.modI2c (fun i => { i with
    stretching := false, nack := false, index := (i.index + 1) % 16, last := word (i.index * 0x100 + b.toNat) })

section
variable (hlater : s.peg.i2c.first = false) {b : Byte}
include hlater

/-- A byte at a user register is kept where a listen program runs. -/
theorem i2cStore_user (hindex : 2 ≤ s.peg.i2c.index) (hruns : s.peg.running = true) :
    s.i2cStore b = (s.i2cTaken b).modPeg (fun g => { g with user := g.user.set s.peg.i2c.index b }) := by
  have hne : s.peg.i2c.index ≠ 1 := by omega
  unfold State.i2cStore
  simp only [hlater, Bool.false_eq_true, if_false, hne]
  exact if_pos (by simp only [hindex, decide_true, Bool.true_and]; exact hruns)

/-- A byte at the status register changes nothing else. -/
theorem i2cStore_status (hindex : s.peg.i2c.index = 0) : s.i2cStore b = s.i2cTaken b := by
  unfold State.i2cStore State.i2cTaken
  simp [hlater, hindex]

/-- A byte that asks for no mode at the mode register is kept there. -/
theorem i2cStore_mode (hindex : s.peg.i2c.index = 1) (hno : b.toNat % 4 = 0) :
    s.i2cStore b = (s.i2cTaken b).modI2c (fun i => { i with modeReq := b.toNat }) := by
  unfold State.i2cStore State.i2cTaken
  simp [hlater, hindex, hno]
end

section
variable (hactive : s.peg.i2c.active = true) (hreads : s.peg.i2c.reading = true)
include hactive hreads

/-- After a stretch that timed out a read gives ones. -/
theorem i2cRead_dead (hdead : s.peg.i2c.dead = true) : s.i2cRead = s.modI2c (fun i => { i with readData := 0xFF }) := by
  unfold State.i2cRead
  simp only [hactive, hreads, hdead, Bool.not_true, Bool.or_self, Bool.false_eq_true, if_false, if_true]

/-- A read gives the register at the index, and the index moves on. -/
theorem i2cRead_live (hlive : s.peg.i2c.dead = false) (hawake : s.pegAwake = true) :
    s.i2cRead = s.modI2c (fun i => { i with
      stretching := false, readData := s.i2cValue s.peg.i2c.index, index := (s.peg.i2c.index + 1) % 16 }) := by
  unfold State.i2cRead
  simp only [hactive, hreads, hlive, hawake, Bool.not_true, Bool.or_self, Bool.false_eq_true, if_false]
  rfl
end

/-- A stretch that times out leaves the data phase not run. -/
theorem i2cTimeout_stretched (hactive : s.peg.i2c.active = true) (hstretching : s.peg.i2c.stretching = true) :
    s.i2cTimeout = s.modI2c (fun i => { i with stretching := false, dead := true }) :=
  if_pos (by rw [hactive, hstretching]; rfl)

section
variable (hidle : s.peg.i2c.active = false)
include hidle

/-- A target that was not addressed takes no byte. -/
theorem i2cWrite_idle (b : Byte) : s.i2cWrite b = s := if_pos (by simp [hidle])

/-- A target that was not addressed gives no byte. -/
theorem i2cRead_idle : s.i2cRead = s := if_pos (by simp [hidle])

/-- A target that was not addressed does not stretch. -/
theorem i2cTimeout_idle : s.i2cTimeout = s := if_neg (by simp [hidle])
end
end

/-- Settles O24: each wake source by its match, a mel frame by its stages, an evaluation by its score, and the wake target by
its phase. -/
theorem pegboxRowsComplete : Obligations.PegboxRowsComplete := by
  unfold Obligations.PegboxRowsComplete
  intro s dt mac frame v xs addr rd b a i
  refine ⟨rfl, ⟨fun hmatch => ?_, fun hno => ?_⟩, fun hruns hawake => ?_, fun hno => ?_, fun hoff => ?_, fun hon => ?mel,
    fun m w y hmodel hdue hawake hsource hscore => ?score, fun hnone => ?_, fun hown hon hreset => ?_, fun hother => ?_,
    fun hactive hwrites hlive hawake hlater => ?write, fun hactive hwrites hdead => ?_, fun hactive hreads => ⟨fun hdead => ?_,
      fun hlive hawake => ?_⟩, fun hactive hstretching => ?_, fun hidle => ⟨?_, ?_, ?_⟩⟩
  · exact congrArg Host.Outcome.next (if_pos (by split <;> exact hmatch))
  · exact congrArg Host.Outcome.next (if_neg (by split <;> exact fun h => Bool.false_ne_true (hno.symm.trans h)))
  · exact congrArg Host.Outcome.next (wakeReqStore_runs hruns hawake v)
  · exact congrArg Host.Outcome.next (wakeReqStore_none hno v)
  · exact congrArg Host.Outcome.next (melFrame_off hoff xs)
  case mel =>
    intro p m mel c
    exact congrArg Host.Outcome.next (melFrame_on hon xs (p := p) (m := m) (c := c) rfl rfl rfl)
  case score =>
    have heval := congrArg (Host.Outcome.next (φ := Fault) (ρ := Refusal)) (evaluationDone_eq hmodel hdue hawake hsource hscore)
    refine ⟨fun hhigh hfull => heval.trans ?_, fun hhigh hshort => heval.trans ?_, fun hlow hsome => heval.trans ?_⟩
    · exact congrArg Host.Outcome.next (if_pos (by rw [if_pos hhigh]; exact hfull))
    · exact congrArg Host.Outcome.next (if_neg (by rw [if_pos hhigh]; exact Nat.not_le.mpr hshort))
    · exact congrArg Host.Outcome.next (if_neg (by rw [if_neg (Nat.not_le.mpr hlow)]; exact Nat.not_le.mpr hsome))
  · exact congrArg Host.Outcome.next (evaluationDone_none hnone)
  · exact congrArg Host.Outcome.next (i2cMatch_own hown hon hreset rd)
  · exact congrArg Host.Outcome.next (i2cMatch_other hother rd)
  case write =>
    have hstored := congrArg (Host.Outcome.next (φ := Fault) (ρ := Refusal)) (i2cWrite_stored hactive hwrites hlive hawake b)
    refine ⟨fun hindex hruns => hstored.trans ?_, fun hindex => hstored.trans ?_, fun hindex hno => hstored.trans ?_⟩
    · exact congrArg (fun z => Host.Outcome.next (State.pegCause 4 z)) (i2cStore_user hlater hindex hruns)
    · exact congrArg (fun z => Host.Outcome.next (State.pegCause 4 z)) (i2cStore_status hlater hindex)
    · exact congrArg (fun z => Host.Outcome.next (State.pegCause 4 z)) (i2cStore_mode hlater hindex hno)
  · exact congrArg Host.Outcome.next (i2cWrite_dead hactive hwrites hdead b)
  · exact congrArg Host.Outcome.next (i2cRead_dead hactive hreads hdead)
  · exact congrArg Host.Outcome.next (i2cRead_live hactive hreads hlive hawake)
  · exact congrArg Host.Outcome.next (i2cTimeout_stretched hactive hstretching)
  · exact congrArg Host.Outcome.next (i2cWrite_idle hidle b)
  · exact congrArg Host.Outcome.next (i2cRead_idle hidle)
  · exact congrArg Host.Outcome.next (i2cTimeout_idle hidle)

end Sys2Proof.Machine
end

section
/-! SUPPORT and the statements settled. Modes, wakes, clock references and the slow counter (R411, R417 to R421, R431, R441,
R442, R454 to R457, R522). -/

namespace Sys2Proof.Machine

section
variable {s : State}

/-! ### Modes and wakes (R411, R417 to R421, R522) -/

/-- No change of mode, none to end. -/
theorem modeReached_none (hnone : s.power.change = none) : s.modeReached = s := by
  unfold State.modeReached
  rw [hnone]

/-- A change that no command asked for, from Service to Drive, leaves Service and does nothing more. -/
theorem enterMode_drive {m : ModeChange} (htarget : m.target = .drive) (hmode : s.power.mode = .service) (href : m.ref = none) :
    s.enterMode m = (s.takeMode m).leaveService .service .drive := by
  have hsleeps : Mode.drive.sleeps = false := rfl
  unfold State.enterMode
  simp only [htarget, hmode, href, hsleeps, Bool.false_eq_true, if_false, reduceCtorEq, decide_false, Bool.and_false]

/-- An applied change that no unit failed, from Service to Drive, ends in Drive with its report (R418, R522). -/
theorem modeReached_drive {m : ModeChange} (hchange : s.power.change = some m) (happlied : m.applied = true)
    (htarget : m.target = .drive) (hmode : s.power.mode = .service) (href : m.ref = none)
    (hsound : s.disp.arms.any (fun k => k.kind = .mode && !k.failed.isEmpty) = false) {t u : State}
    (ht : (s.takeMode m).leaveService .service .drive = t) (hu : (if m.cause = 2 then t.wakeCauseEvent.unlatch else t) = u) :
    s.modeReached = ((u.modeReport .service .drive m.cause).startQueued).forceDue := by
  have hsleeps : m.target.sleeps = false := by rw [htarget]; rfl
  unfold State.modeReached
  simp only [hchange, happlied, hsound, hsleeps, hmode, enterMode_drive htarget hmode href, ht, hu, Bool.not_true, Bool.or_self,
    Bool.false_and, Bool.false_eq_true, if_false]
  rw [htarget]

/-- A step that stays in its mode leaves the clocks. -/
theorem withClocks_same {z : State} (hsame : z.power.mode = s.power.mode) : s.withClocks z = z := if_pos hsame

/-- A step that reaches another mode gates the roots for it. -/
theorem withClocks_other {z : State} (hother : z.power.mode ≠ s.power.mode) : s.withClocks z = z.gateForMode := if_neg hother

/-- A wake that was latched ends in the mode it asks for (R411). -/
theorem wakeComplete_latched (hlatched : s.peg.latched = true) (hsleeps : s.power.mode.sleeps = true)
    (hnone : s.power.change = none) (hfree : s.power.tellForced = false) :
    s.wakeComplete = (s.wakeTo s.power.mode (if s.peg.reqMode ≤ 1 then .listen else if s.peg.reqMode = 2 then .tell
      else .drive)).unlatch := by
  unfold State.wakeComplete
  simp only [hlatched, hsleeps, hnone, hfree, Bool.not_true, Option.isSome_none, Bool.or_self, Bool.false_eq_true, if_false]

/-- Without a latched wake, or awake, no wake ends. -/
theorem wakeComplete_none (hno : s.peg.latched = false ∨ s.power.mode.sleeps = false) : s.wakeComplete = s :=
  if_pos (by rcases hno with h | h <;> simp [h])

/-- With SERVICE_N high in Service the firmware leaves it (R522). -/
theorem serviceReleased_leaves (hmode : s.power.mode = .service) (hhigh : s.power.servicePinLow = false)
    (hnone : s.power.change = none) : s.serviceReleased = s.armMode .drive 1 none := if_pos (by simp [hmode, hhigh, hnone])

/-- Outside Service, or with SERVICE_N low, the firmware leaves nothing. -/
theorem serviceReleased_none (hno : s.power.mode ≠ .service ∨ s.power.servicePinLow = true) : s.serviceReleased = s :=
  if_neg (by rcases hno with h | h <;> simp [h])

/-! ### Clock references (R431) -/

/-- A reference that is lost is not lost again. -/
theorem refLost_lost {r : ClockRef} (hlost : r ∈ s.clocks.refsLost) : s.refLost r = s :=
  if_pos (List.contains_iff_mem.mpr hlost)

/-- A reference that is there does not return. -/
theorem refReturn_there {r : ClockRef} (hthere : r ∉ s.clocks.refsLost) : s.refReturn r = s :=
  if_pos (by simpa using hthere)

/-- A reference that is lost takes its PLLs' locks, and each reports its fault. -/
theorem refLost_there {r : ClockRef} (hthere : r ∉ s.clocks.refsLost) :
    s.refLost r = (s.pllsOn r).foldl (fun s i => (s.hwMark (.pllLost i)).clockFault i 0) { s with
      clocks := { s.clocks with
        refsLost := r :: s.clocks.refsLost
        locked := (s.pllsOn r).foldl (fun b i => b &&& ~~~((1 : BitVec 15) <<< i)) s.clocks.locked
        lost := (s.pllsOn r).foldl (fun b i => b ||| (1 <<< i)) s.clocks.lost }
      time := { s.time with coasting := s.time.coasting || (s.pllsOn r).contains 3 }
      boot := { s.boot with pcieUp := s.boot.pcieUp && r ≠ .refclk } } :=
  if_neg (by simpa using hthere)

/-- A reference that returns gives its PLLs their locks back, and each reports it. -/
theorem refReturn_lost {r : ClockRef} (hlost : r ∈ s.clocks.refsLost) :
    s.refReturn r = (s.pllsOn r).foldl (fun s i => s.clockFault i 1) { s with
      clocks := { s.clocks with
        refsLost := s.clocks.refsLost.filter (· != r)
        locked := (s.pllsOn r).foldl (fun b i => b ||| (1 <<< i)) s.clocks.locked }
      time := { s.time with coasting := s.time.coasting && !(s.pllsOn r).contains 3 } } :=
  if_neg (by simpa using hlost)

/-! ### The slow counter (R441, R442, R454 to R457) -/

/-- Every edge counts. -/
theorem meridianEdge_slow : s.meridianEdge.time.slow = s.time.slow + 1 := by
  unfold State.meridianEdge
  dsimp only
  split
  · rfl
  · split <;> rfl

/-- An edge at which Meridian is to stop keeps its value. -/
theorem meridianEdge_stops (hdue : s.time.stopDue = true) :
    s.meridianEdge.now = s.now ∧ s.meridianEdge.time.running = false ∧ s.meridianEdge.time.stopValue = s.now := by
  unfold State.meridianEdge
  rw [if_pos hdue]
  exact ⟨rfl, rfl, rfl⟩

/-- An edge at which Meridian is to resume makes up for the sleep. -/
theorem meridianEdge_resumes (hdue : s.time.stopDue = false) (hresume : s.time.resumeDue = true) :
    s.meridianEdge.time.running = true ∧
      s.meridianEdge.now = s.time.stopValue + 31250 * (s.time.slow + 1 - s.time.stopSlow) := by
  have hstays : ¬ s.time.stopDue = true := by simp [hdue]
  unfold State.meridianEdge
  rw [if_neg hstays, if_pos hresume]
  exact ⟨rfl, rfl⟩

/-- An edge moves Meridian and the calendar, and where the alarm's time is passed it fires. -/
theorem slowEdge_eq {e b : State} (he : s.meridianEdge = e) (hb : (e.modCal Calendar.count).calendarCommands = b) :
    s.slowEdge = if b.time.cal.fires e.time.cal.time then b.alarmFires else b := by
  subst he hb
  rfl
end

/-- Settles O25: each row by whether a change, a wake or a lost reference is there, and the slow counter's edge by what is
due. -/
theorem modeAndClockRowsComplete : Obligations.ModeAndClockRowsComplete := by
  unfold Obligations.ModeAndClockRowsComplete
  intro s dt r a
  have hclocked {b : State} (h : b = a) : a.withClocks b = a := by rw [h]; exact withClocks_same rfl
  refine ⟨fun hnone => ?_, fun m hchange happlied htarget hmode href hsound => ?_, fun z => ⟨withClocks_same, withClocks_other⟩,
    fun hlatched hsleeps hnone hfree => ?wake, fun hno => ?_, fun hmode hhigh hnone => ?_, fun hno => ?_, fun hlost => ?_,
    fun hthere => ?_, fun hthere => ?_, fun hlost => ?_, ?slow, meridianEdge_slow, meridianEdge_stops, meridianEdge_resumes⟩
  · exact congrArg Host.Outcome.next (hclocked (modeReached_none hnone))
  · exact congrArg (fun z => Host.Outcome.next (a.withClocks z))
      (modeReached_drive hchange happlied htarget hmode href hsound rfl rfl)
  case wake =>
    have hwake := congrArg (fun z => Host.Outcome.next (φ := Fault) (ρ := Refusal) (a.withClocks z))
      (wakeComplete_latched hlatched hsleeps hnone hfree)
    refine ⟨fun hlow => hwake.trans ?_, fun htell => hwake.trans ?_, fun hhigh => hwake.trans ?_⟩
    · rw [if_pos hlow]
      rfl
    · rw [if_neg (by omega), if_pos htell]
      rfl
    · rw [if_neg (by omega), if_neg (by omega)]
      rfl
  · exact congrArg Host.Outcome.next (hclocked (wakeComplete_none hno))
  · exact congrArg Host.Outcome.next (serviceReleased_leaves hmode hhigh hnone)
  · exact congrArg Host.Outcome.next (serviceReleased_none hno)
  · exact congrArg Host.Outcome.next (refLost_lost hlost)
  · exact congrArg Host.Outcome.next (refReturn_there hthere)
  · exact congrArg Host.Outcome.next (refLost_there hthere)
  · exact congrArg Host.Outcome.next (refReturn_lost hlost)
  case slow =>
    intro e b
    have hedge := congrArg (Host.Outcome.next (φ := Fault) (ρ := Refusal)) (slowEdge_eq (s := a) (e := e) (b := b) rfl rfl)
    exact ⟨fun hfires => hedge.trans (congrArg Host.Outcome.next (if_pos hfires)),
      fun hquiet => hedge.trans (congrArg Host.Outcome.next (if_neg (by rw [hquiet]; exact Bool.false_ne_true)))⟩

end Sys2Proof.Machine
end

section
/-! SUPPORT and the statements settled. Resets, power failures, supplies and start-up (R53, R279, R409, R416, R425, R426, R433
to R435, R441, R454, R507, R510). -/

namespace Sys2Proof.Machine

section
variable {s : State}

/-! ### Resets (R409, R510) -/

/-- A reset by a token comes 10 ms after the token's record. -/
theorem tokenReset_due {due : Meridian} (hdue : s.boot.resetDue = some due) (hcome : 0 ≤ meridianDiff s.now due) :
    s.tokenReset = s.partReset.startUp := by
  unfold State.tokenReset
  simp only [hdue, if_neg (Int.not_lt.mpr hcome)]

/-- A reset by a token does not come early. -/
theorem tokenReset_early {due : Meridian} (hdue : s.boot.resetDue = some due) (hearly : meridianDiff s.now due < 0) :
    s.tokenReset = s := by
  unfold State.tokenReset
  simp only [hdue, if_pos hearly]

/-- Without a token no reset is due. -/
theorem tokenReset_none (hnone : s.boot.resetDue = none) : s.tokenReset = s := by
  unfold State.tokenReset
  simp only [hnone]

/-- The state after the release of RESET_N, the straps and the banks' levels sampled. -/
def State.released (s : State) (straps : BitVec 2) (io : BitVec 5) : State :=
  { s.startUp with
    power := { s.power with mode := .drive }
    pins := { s.startUp.pins with vddioHigh := io, vddioOff := [] }
    peg := { s.peg with i2c := { s.peg.i2c with straps := straps.toNat } } }

/-- RESET_N is released where it was low. -/
theorem resetRelease_low (hlow : s.boot.resetLow = true) (straps : BitVec 2) (io : BitVec 5) :
    s.resetRelease straps io = s.released straps io := if_neg (by simp [hlow])

/-- RESET_N is not released where it was high. -/
theorem resetRelease_high (hhigh : s.boot.resetLow = false) (straps : BitVec 2) (io : BitVec 5) :
    s.resetRelease straps io = s := if_pos (by simp [hhigh])

/-! ### Power failure and supplies (R426, R433, R434) -/

/-- A power failure silences every port. -/
theorem powerFail_ports : ∀ e ∈ s.powerFail.disp.ports, e.2.sending = false := by
  intro e he
  obtain ⟨x, -, rfl⟩ := List.mem_map.mp he
  rfl

/-- A bank's supply that is up goes off alone. -/
theorem supplyRemoval_vddio {b : Nat} (hup : b ∉ s.pins.vddioOff) :
    s.supplyRemoval (.vddio b) = { s with pins := { s.pins with vddioOff := b :: s.pins.vddioOff } } :=
  if_neg (by simpa using hup)

/-! ### Start-up (R507) -/

section
variable (k : BootCopy) (hruns : s.time.running = true)
include hruns

/-- The first copy's code is kept; an accepted copy starts the firmware, and a flash that does not respond stops. -/
theorem bootVerify_first (hstage : s.boot.stage = .pegRom) (hfirst : s.boot.codeA = 0) {v : State}
    (hv : s.modBoot (fun b => { b with
      codeA := s.verifyCopy k, stage := if s.verifyCopy k = 0x10 then .stopped else .header }) = v) :
    s.bootVerify k = if s.verifyCopy k = 1 then v.acceptCopy k 1 else v := by
  unfold State.bootVerify
  simp only [hstage, hruns, hfirst, hv, ne_eq, not_true_eq_false, decide_false, Bool.false_and, Bool.false_eq_true, if_false,
    if_true]

/-- The second copy's code is kept; where it is not accepted, start-up stops. -/
theorem bootVerify_second (hstage : s.boot.stage = .header) (hsecond : s.boot.codeA ≠ 0) {v : State}
    (hv : s.modBoot (fun b => { b with codeB := s.verifyCopy k }) = v) :
    s.bootVerify k = if s.verifyCopy k = 1 then v.acceptCopy k 2
      else v.modBoot (fun b => { b with stage := .stopped }) := by
  unfold State.bootVerify
  simp only [hstage, hruns, hsecond, hv, ne_eq, not_true_eq_false, decide_false, Bool.and_false, Bool.false_eq_true, if_false,
    if_true]
end

/-! ### Heads and tenants (R53, R279) -/

/-- A head that starts or changes its timing composes once its PLL is locked. -/
theorem pllLock_timed {h : Nat} {m : Timing} (htimed : (s.head h).timing = some m)
    (hstate : (s.head h).state = .starting ∨ (s.head h).state = .changing) :
    s.pllLock h = s.modHead h (fun x => { x with
      state := .composing, line := m.vA, lineAt := s.now, frameAt := s.now, due := [], lastDue := none, porch := 0
      comp := { x.comp with running := false, busy := false, frame := x.frames, kept := none, zeroIssued := false } }) := by
  unfold State.pllLock
  simp only [htimed, if_pos hstate]

/-- A head without timing has no PLL to lock. -/
theorem pllLock_untimed {h : Nat} (hnone : (s.head h).timing = none) : s.pllLock h = s := by
  unfold State.pllLock
  simp only [hnone]

/-- The last request of a tenant that was released completes its destruction, with its record. -/
theorem destroyComplete_released {t : Nat} {r : CmdRef} {n : Nat} {b : State} (hb : s.advanceDestroy t = b)
    (hreleased : (b.tenant? t).map Tenant.dying = some (.released r n)) :
    s.destroyComplete t = State.completeOk r [word n] { b with tenants := IMap.del b.tenants t } := by
  unfold State.destroyComplete
  simp only [hb, hreleased]
end

/-- Settles O26: a reset by what asks for it, start-up by the copy that is verified, a supply by its name, and a head's lock
and a tenant's end by what they find. -/
theorem resetAndSupplyRowsComplete : Obligations.ResetAndSupplyRowsComplete := by
  unfold Obligations.ResetAndSupplyRowsComplete
  intro s dt h t b k straps io a after up
  refine ⟨rfl, fun due hdue hcome => ?_, fun due hdue hearly => ?_, fun hnone => ?_, fun hlow => ?release, fun hhigh => ?_,
    ⟨a.powerFail, rfl, rfl, rfl, powerFail_ports, rfl, rfl⟩, fun hfail => ?_, fun hgood => ?_, rfl, rfl, fun hup => ?_, rfl,
    fun hstage hruns hfirst => ?first, fun hstage hruns hsecond => ?second, fun m htimed hstate => ?_, fun hnone => ?_,
    fun r n hreleased => ?_⟩
  · exact congrArg Host.Outcome.next (tokenReset_due hdue hcome)
  · exact congrArg Host.Outcome.next (tokenReset_early hdue hearly)
  · exact congrArg Host.Outcome.next (tokenReset_none hnone)
  case release =>
    exact ⟨a.released straps io, congrArg Host.Outcome.next (resetRelease_low hlow straps io), rfl, rfl, rfl, rfl, rfl, rfl⟩
  · exact congrArg Host.Outcome.next (resetRelease_high hhigh straps io)
  · exact congrArg Host.Outcome.next (if_pos hfail)
  · exact congrArg Host.Outcome.next (if_neg (by rw [hgood]; exact Bool.false_ne_true))
  · exact congrArg Host.Outcome.next (supplyRemoval_vddio hup)
  case first =>
    intro c v
    have hverify := congrArg (Host.Outcome.next (φ := Fault) (ρ := Refusal)) (bootVerify_first k hruns hstage hfirst (v := v) rfl)
    exact ⟨fun hgood => hverify.trans (congrArg Host.Outcome.next (if_pos hgood)),
      fun hbad => hverify.trans (congrArg Host.Outcome.next (if_neg hbad))⟩
  case second =>
    intro c v
    have hverify := congrArg (Host.Outcome.next (φ := Fault) (ρ := Refusal)) (bootVerify_second k hruns hstage hsecond (v := v) rfl)
    exact ⟨fun hgood => hverify.trans (congrArg Host.Outcome.next (if_pos hgood)),
      fun hbad => hverify.trans (congrArg Host.Outcome.next (if_neg hbad))⟩
  · exact congrArg Host.Outcome.next (pllLock_timed htimed hstate)
  · exact congrArg Host.Outcome.next (pllLock_untimed hnone)
  · exact congrArg Host.Outcome.next (destroyComplete_released rfl hreleased)

end Sys2Proof.Machine
end

section
/-! SUPPORT and the statements settled. The firmware, the host link, the pins' levels and the debug port (R49, R334, R495, R509,
R512, R513, R519 to R521). -/

namespace Sys2Proof.Machine

section
variable {s : State}

/-! ### The firmware and the boot image (R49, R334) -/

/-- The state once the firmware is ready: the Legend is built, and tenants 0 and 1 exist. -/
def State.ready (s : State) : State :=
  { s with
    boot := { s.boot with fwReady := true }
    power := { s.power with mode := .drive }
    legend := { s.legend with
      built := true, shown := s.legendNow.1, lpddr := s.legendNow.2.1, shownSuspects := s.legendNow.2.2 }
    tenants := IMap.put (IMap.put s.tenants 0 { pasid := 0, quotas := {} }) 1
      { pasid := 0, quotas := { inflight := 256, planes := 8, threads := 8, voices := 0, dma := 2, atlasMib := 4096 } } }

/-- The firmware that runs is ready once the boot image, if there is one, is applied. -/
theorem firmwareReady_runs (hstage : s.boot.stage = .running) (hnew : s.boot.fwReady = false)
    (himage : s.boot.cbi = [] ∨ s.boot.cbiApplied = true) : s.firmwareReady = s.ready := by
  unfold State.firmwareReady
  refine if_neg ?_
  rcases himage with h | h <;> simp [hstage, hnew, h]

/-- The firmware is ready once, and not before it runs. -/
theorem firmwareReady_none (hno : s.boot.stage ≠ .running ∨ s.boot.fwReady = true) : s.firmwareReady = s :=
  if_pos (by rcases hno with h | h <;> simp [h])

/-- Tenant 1 of a ready part. -/
theorem tenant_ready_one : s.ready.tenant? 1 = some { pasid := 0, quotas := ⟨256, 8, 8, 0, 2, 4096⟩ } :=
  IMap.find_put_same ..

/-- Tenant 0 of a ready part. -/
theorem tenant_ready_zero : s.ready.tenant? 0 = some { pasid := 0, quotas := {} } :=
  (IMap.find_put_other _ _ (by decide)).trans (IMap.find_put_same ..)

section
variable (hstage : s.boot.stage = .running) (hnew : s.boot.fwReady = false) (hfirst : s.boot.cbiApplied = false)
  (hsome : s.boot.cbi ≠ [])
include hstage hnew hfirst hsome

/-- A boot image is applied before the firmware is ready: one without a good header leaves the head off. -/
theorem bootImage_runs :
    s.bootImage = if !bootHeaderOk s.boot.cbi then s.modBoot (fun b => { b with cbiApplied := true })
      else ((s.modBoot (fun b => { b with applying := true })).bootRecords (fieldU s.boot.cbi 12 1)
        (fieldU s.boot.cbi 6 2) 0).elim (s.modBoot (fun b => { b with cbiApplied := true })) (fun u => { u with
          boot := { u.boot with applying := false, cbiApplied := true }
          disp := { u.disp with bootHead := some (fieldU s.boot.cbi 12 1) } }) := by
  have hguard : (decide (s.boot.stage ≠ .running) || s.boot.fwReady || s.boot.cbiApplied || s.boot.cbi.isEmpty) = false := by
    simp [hstage, hnew, hfirst, hsome]
  unfold State.bootImage
  simp only [hguard, Bool.false_eq_true, if_false]
  cases State.bootRecords _ _ _ _ <;> rfl
end

/-- No boot image is applied where there is none, or the firmware is ready. -/
theorem bootImage_none (hno : s.boot.fwReady = true ∨ s.boot.cbi = []) : s.bootImage = s :=
  if_pos (by rcases hno with h | h <;> simp [h])

/-! ### The host link (R512, R513) and the pins' levels (R495, R521) -/

/-- A host reset drops the link, the vectors and the PASIDs, detaches the tenants and ends the grants. -/
theorem hostReset_high (hhigh : s.boot.resetLow = false) :
    s.hostReset = State.endGrants (State.detachTenants { s with
      boot := { s.boot with perst := true, pcieUp := false }
      dev := { s.dev with msix := [], pba := [], pasid0 := 0, pasid1 := 0, pasidLock := false } }) :=
  if_neg (by simp [hhigh])

/-- A level change at a general-purpose pin is the debouncer's, and fires the wake slots that name the pin. -/
theorem pinChange_pin {p : Nat} (hp : p < 160) (lv : Bool) :
    s.pinChange p lv = if (s.pinLevel p lv).2 then (s.pinLevel p lv).1.slotsFire p else (s.pinLevel p lv).1 := by
  have hne : p ≠ servicePin := Nat.ne_of_lt hp
  have hle : ¬ servicePin < p := Nat.not_lt.mpr (Nat.le_of_lt hp)
  unfold State.pinChange
  rw [if_neg hne, if_neg hle]

/-- A level change at SERVICE_N is no debouncer's. -/
theorem pinChange_servicePin (lv : Bool) : s.pinChange 160 lv = s.servicePinLevel lv := if_pos rfl

/-- SERVICE_N changes to a level that it did not have. -/
theorem pinChange_service {lv : Bool} (hother : s.power.servicePinLow = lv) :
    s.pinChange 160 lv = { s with power := { s.power with servicePinLow := !lv, servicePinAt := s.now } } :=
  (pinChange_servicePin lv).trans (if_neg (by cases lv <;> simp [hother]))

/-- SERVICE_N keeps its level. -/
theorem pinChange_service_same {lv : Bool} (hsame : s.power.servicePinLow = !lv) : s.pinChange 160 lv = s :=
  (pinChange_servicePin lv).trans (if_pos hsame)

/-! ### The debug access port (R509, R519, R520) -/

/-- The port is active in a part that is awake and out of reset. -/
theorem tapActive_awake (hawake : s.power.mode = .tell ∨ s.power.mode = .drive ∨ s.power.mode = .service)
    (hhigh : s.boot.resetLow = false) : s.tapActive = true := by
  unfold State.tapActive State.cpAwake
  rcases hawake with h | h | h <;> simp [h, hhigh]

/-- In reset the port is not active. -/
theorem tapActive_low (hlow : s.boot.resetLow = true) : s.tapActive = false := by simp [State.tapActive, hlow]

/-- Without a Device session there is no Observe. -/
theorem observes_closed (hclosed : s.boot.deviceSession = false) : s.observes = false := by simp [State.observes, hclosed]

/-- Without Observe there is no Full access. -/
theorem fullAccess_closed (hclosed : s.boot.deviceSession = false) : s.fullAccess = false := by
  simp [State.fullAccess, observes_closed hclosed]

/-- Without Full access no register is written. -/
theorem jtagAccess_writeReg_closed (hclosed : s.fullAccess = false) (addr : Nat) (v : Word) :
    s.jtagAccess (.writeReg addr v) = s := by
  unfold State.jtagAccess
  simp only [hclosed, Bool.false_eq_true, if_false]

/-- An access of the port reads the identity and BOOTSTAT where the port is active. -/
theorem jtagAccess_public (hactive : s.tapActive = true) :
    s.jtagAccess .idcode = s.jtagOut Config.idcode ∧ s.jtagAccess .bootstat = s.jtagOut s.boot.bootstat :=
  ⟨if_pos hactive, if_pos hactive⟩

section
variable (hobserves : s.observes = true)
include hobserves

/-- Observe reads the CP's state. -/
theorem jtagAccess_readCp (k : Nat) :
    s.jtagAccess (.readCp k) = (s.observe (some 1)).jtagOut (s.cp.regs.numbered k) := if_pos hobserves

/-- Observe reads a readable word of memory, with the domain's vote. -/
theorem jtagAccess_readMem {addr : Nat} {b : State} (hb : s.observe (s.memoryDomain addr) = b) {bs : List Byte}
    (hread : b.placeRead (.phys addr) 4 = .ok bs) :
    s.jtagAccess (.readMem addr) = (b.noteRead addr 4).jtagOut (word (leNat bs)) := by
  have hrun : s.jtagRead addr = (b.noteRead addr 4).jtagOut (word (leNat bs)) := by
    unfold State.jtagRead
    simp only [hb, hread]
  exact (if_pos hobserves).trans hrun

/-- Observe reads a register of a window, with the domain's vote. -/
theorem jtagAccess_readReg {addr : Nat} {u : (Nat × Nat) × Nat} (hu : unitAt addr = some u) {b : State}
    (hb : s.observe (unitDomain u.1.1 u.1.2) = b) :
    s.jtagAccess (.readReg addr) = (b.readReg u).2.jtagOut (b.readReg u).1 := by
  have hrun : s.jtagReadReg addr = (b.readReg u).2.jtagOut (b.readReg u).1 := by
    unfold State.jtagReadReg
    simp only [hu, hb]
  exact (if_pos hobserves).trans hrun

/-- Observe is Full access outside Secured, and in Service. -/
theorem fullAccess_open (hopen : s.boot.lifecycle ≠ .secured ∨ s.power.mode = .service) : s.fullAccess = true := by
  unfold State.fullAccess
  rcases hopen with h | h <;> simp [hobserves, h]
end

section
variable (hfull : s.fullAccess = true)
include hfull

/-- Full access writes a word of memory. -/
theorem jtagAccess_writeMem {addr : Nat} (hok : s.physOk addr 4 = true) (v : Word) :
    s.jtagAccess (.writeMem addr v) = s.physWrite addr (leBytes 4 v.toNat) := if_pos (by rw [hfull, hok]; rfl)

/-- Full access writes a register of a window. -/
theorem jtagAccess_writeReg {addr : Nat} {u : (Nat × Nat) × Nat} (hu : unitAt addr = some u) (v : Word) :
    s.jtagAccess (.writeReg addr v) = s.writeReg u v := by
  unfold State.jtagAccess
  simp only [hfull, hu, if_true]

/-- Full access steps a CP that is halted. -/
theorem jtagAccess_step (hhalted : s.boot.cpHalted = true) :
    s.jtagAccess .stepCp = { s with boot := { s.boot with cpStep := true } } := if_pos (by rw [hfull, hhalted]; rfl)
end
end

/-- Settles O27: the firmware and the boot image by where start-up stands, a level by its pin, and an access of the port by
the level in force. -/
theorem firmwareLinkAndDebugRowsComplete : Obligations.FirmwareLinkAndDebugRowsComplete := by
  unfold Obligations.FirmwareLinkAndDebugRowsComplete
  intro s dt addr k p v on lv a
  refine ⟨fun hstage hnew himage => ?ready, fun hno => congrArg Host.Outcome.next (firmwareReady_none hno),
    fun hstage hnew hfirst hsome => ?image, fun hno => congrArg Host.Outcome.next (bootImage_none hno), fun hhigh => ⟨?_, ?_⟩,
    fun hlow => ⟨?_, ?_⟩, fun hp => congrArg Host.Outcome.next (pinChange_pin hp lv),
    fun hother => congrArg Host.Outcome.next (pinChange_service hother),
    fun hsame => congrArg Host.Outcome.next (pinChange_service_same hsame), ?port⟩
  case ready =>
    refine ⟨a.ready, congrArg Host.Outcome.next (firmwareReady_runs hstage hnew himage), rfl, rfl, rfl,
      congrArg Option.isSome tenant_ready_zero, congrArg Option.isSome tenant_ready_one, fun x hx => ?_⟩
    rw [← Option.some.inj (tenant_ready_one.symm.trans hx)]
  case image =>
    intro off bh
    have himage := congrArg (Host.Outcome.next (φ := Fault) (ρ := Refusal)) (bootImage_runs hstage hnew hfirst hsome)
    refine ⟨fun hbad => himage.trans (congrArg Host.Outcome.next (if_pos (by rw [hbad]; rfl))), fun hgood => ?_⟩
    intro run
    have hrun := himage.trans (congrArg Host.Outcome.next (if_neg (by simp [hgood])))
    exact ⟨fun hnone => hrun.trans (congrArg (fun o => Host.Outcome.next (Option.elim o _ _)) hnone),
      fun u hu => hrun.trans (congrArg (fun o => Host.Outcome.next (Option.elim o _ _)) hu)⟩
  · exact congrArg Host.Outcome.next (if_neg (by rw [hhigh]; exact Bool.false_ne_true))
  · exact congrArg Host.Outcome.next (hostReset_high hhigh)
  · exact congrArg Host.Outcome.next (if_pos hlow)
  · exact congrArg Host.Outcome.next (if_pos hlow)
  case port =>
    intro j out awake
    refine ⟨rfl, rfl, fun hawake hhigh => ?_, fun hlow => ?_, fun hawake hhigh hopen => ?_, fun hawake hhigh hopen hlevel => ?_,
      fun hclosed => ?_⟩
    · obtain ⟨hid, hstat⟩ := jtagAccess_public (tapActive_awake hawake hhigh)
      exact ⟨congrArg Host.Outcome.next hid, congrArg Host.Outcome.next hstat⟩
    · have hno : ¬ a.tapActive = true := by rw [tapActive_low hlow]; exact Bool.false_ne_true
      exact ⟨congrArg Host.Outcome.next (if_neg hno), congrArg Host.Outcome.next (if_neg hno)⟩
    · have hobserves : a.observes = true := by rw [State.observes, tapActive_awake hawake hhigh, hopen]; rfl
      intro seen
      have hseen (d : Option Nat) : a.observe d = seen d := by cases d <;> rfl
      exact ⟨congrArg Host.Outcome.next (jtagAccess_readCp hobserves k),
        fun bs hread => congrArg Host.Outcome.next (jtagAccess_readMem hobserves (hseen _) hread),
        fun u hu => congrArg Host.Outcome.next (jtagAccess_readReg hobserves hu (hseen _))⟩
    · have hobserves : a.observes = true := by rw [State.observes, tapActive_awake hawake hhigh, hopen]; rfl
      have hfull := fullAccess_open hobserves hlevel
      exact ⟨fun hok => congrArg Host.Outcome.next (jtagAccess_writeMem hfull hok v),
        fun u hu => congrArg Host.Outcome.next (jtagAccess_writeReg hfull hu v),
        congrArg Host.Outcome.next (if_pos hfull), congrArg Host.Outcome.next (if_pos hfull),
        fun hhalted => congrArg Host.Outcome.next (jtagAccess_step hfull hhalted), congrArg Host.Outcome.next (if_pos hfull)⟩
    · have hno : ¬ a.observes = true := by rw [observes_closed hclosed]; exact Bool.false_ne_true
      have hnone : ¬ a.fullAccess = true := by rw [fullAccess_closed hclosed]; exact Bool.false_ne_true
      have hand (b : Bool) : ¬ (a.fullAccess && b) = true := by rw [fullAccess_closed hclosed]; exact Bool.false_ne_true
      exact ⟨congrArg Host.Outcome.next (if_neg hno), congrArg Host.Outcome.next (if_neg hno),
        congrArg Host.Outcome.next (if_neg hno), congrArg Host.Outcome.next (if_neg (hand _)),
        congrArg Host.Outcome.next (jtagAccess_writeReg_closed (fullAccess_closed hclosed) addr v),
        congrArg Host.Outcome.next (if_neg hnone), congrArg Host.Outcome.next (if_neg (hand _)), congrArg Host.Outcome.next (if_neg hnone),
        congrArg Host.Outcome.next (if_neg hnone)⟩

end Sys2Proof.Machine
end
